-- ==== Sys2Proof/Word.lean ====
section
/-! DEFINITION. The word types of the Zenkin Z4 and their plainest arithmetic (spec/00_scope.md R10, R12). -/

namespace Sys2Proof

/-- One byte: the unit that an address names (R10). -/
abbrev Byte := BitVec 8

/-- A 64-bit scalar register, address or instruction word. -/
abbrev Word := BitVec 64

/-- A 32-bit value: an accumulator word, a salt, an FP32 pattern. -/
abbrev Word32 := BitVec 32

/-- A 256-bit tensor handle (R186), vector predicate (R92) or tile command (R87). -/
abbrev Wide := BitVec 256

/-- The number of a scalar register, x0 to x31 (R75). -/
abbrev XReg := BitVec 5

/-- The number of a predicate p0 to p7 or of a vector predicate vp0 to vp7 (R71). -/
abbrev PReg := BitVec 3

/-- The number of a handle register, h0 to h15. -/
abbrev HReg := BitVec 4

/-- The field of `w` whose lowest bit is `lo` and whose width is `n`. -/
abbrev fld {m : Nat} (w : BitVec m) (lo n : Nat) : BitVec n := w.extractLsb' lo n

end Sys2Proof
end

