-- ==== Sys2Proof/Config.lean ====
section
/-! DEFINITION. What the spec leaves open and no step decides: the free values of the model. None has a body, so no proof
can see a value of one. Each is named in the assumption log. -/

namespace Sys2Proof
namespace Config

/-- The package's RSA-3072 identity key pair, made at manufacture (R390): modulus, public exponent, private exponent. DESIGN CHOICE,
Assumption 21. -/
opaque identityModulus (pkg : Nat) : Nat
opaque identityPublic (pkg : Nat) : Nat
opaque identityPrivate (pkg : Nat) : Nat

/-- The Thoesk certificate of the public identity key, which stands with it in the boot flash (R390). DESIGN CHOICE, Assumption 21. -/
opaque identityCertificate (pkg : Nat) : List Byte

/-- The 32-byte salt that the signing unit draws for a signature (R390). DESIGN CHOICE, Assumption 21. -/
opaque signSalt (pkg draw : Nat) : BitVec 256

/-- The package's serial number, 16 bytes of the attestation report (R390). DESIGN CHOICE, Assumption 21. -/
opaque serialNumber (pkg : Nat) : BitVec 128

/-- The element that a correctly rounded transcendental (R231) takes should the model's enclosures not decide it at their
greatest precision. DESIGN CHOICE, Assumption 22. -/
opaque undecidedRound (op code : Nat) : Nat

/-- What the boot flash of die 0 holds (R388): the body of image 0 to 3, its header's digest and signature, and the public key that
verifies it, which for image 0 the package's fuses name by digest. DESIGN CHOICE, Assumption 21. -/
opaque bootImage (pkg stage : Nat) : List Byte

/-- The digest in an image's header. DESIGN CHOICE, Assumption 21. -/
opaque bootDigest (pkg stage : Nat) : BitVec 256

/-- The signature in an image's header: 384 octets, the most significant first, as the algorithm gives them. DESIGN CHOICE,
Assumption 21. -/
opaque bootSignature (pkg stage : Nat) : List Byte

/-- The public key that verifies an image: 384 octets of the modulus, then those of the exponent, each the most significant first.
DESIGN CHOICE, Assumption 21. -/
opaque bootKey (pkg stage : Nat) : List Byte

/-- The fused digest of the key that verifies image 0. DESIGN CHOICE, Assumption 21. -/
opaque fusedDigest (pkg : Nat) : BitVec 256

/-- The die mask that the partition configuration gives a hard partition (R386, R388). DESIGN CHOICE, Assumption 21. -/
opaque partitionDies (pkg part : Nat) : BitVec 4

/-- The physical tiles of a quadrant that fail the boot-time test (R355). DESIGN CHOICE, Assumption 68. -/
opaque bootFails (quad : Nat) : List Nat

end Config
end Sys2Proof
end

