-- ==== Sys2Proof/Machine/Real.lean ====
section
/-! DEFINITION. Exact numbers: the magnitudes n/d · 2^(e8/8) that every element value and every exact result of the Z4 is, or is
approached by, and dyadic sums (spec R14, R173, R179). -/

namespace Sys2Proof
namespace Machine

/-- The magnitude (n / d) · 2^(e8 / 8), with `e8` from 0 to 7. -/
structure Mag where
  n : Nat
  d : Nat
  e8 : Nat
deriving DecidableEq, Repr

/-- n · 2^k. -/
def Mag.scaled (n : Nat) (k : Int) : Mag :=
  if 0 ≤ k then { n := n * 2 ^ k.toNat, d := 1, e8 := 0 } else { n := n, d := 2 ^ (-k).toNat, e8 := 0 }

def Mag.zero : Mag := { n := 0, d := 1, e8 := 0 }

def Mag.isZero (a : Mag) : Bool := a.n == 0

/-- Exact comparison: where the eighths differ, eighth powers are compared. -/
def Mag.le (a b : Mag) : Bool :=
  if a.e8 = b.e8 then decide (a.n * b.d ≤ b.n * a.d)
  else decide ((a.n * b.d) ^ 8 * 2 ^ a.e8 ≤ (b.n * a.d) ^ 8 * 2 ^ b.e8)

def Mag.lt (a b : Mag) : Bool := !Mag.le b a

def Mag.eq (a b : Mag) : Bool := Mag.le a b && Mag.le b a

/-- a · 2^k. -/
def Mag.shift (a : Mag) (k : Int) : Mag :=
  if 0 ≤ k then { a with n := a.n * 2 ^ k.toNat } else { a with d := a.d * 2 ^ (-k).toNat }

def Mag.mul (a b : Mag) : Mag :=
  let e := a.e8 + b.e8
  { n := a.n * b.n * (if 8 ≤ e then 2 else 1), d := a.d * b.d, e8 := e % 8 }

/-- a / b, for a `b` without eighths. -/
def Mag.div (a b : Mag) : Mag := { n := a.n * b.d, d := a.d * b.n, e8 := a.e8 }

/-- The bits of precision of the rational that stands for a power 2^(j/8) where a fraction of R179 needs one (DESIGN CHOICE, Assumption 22). -/
def approxBits : Nat := 640

/-- The floor of the square root, by Newton's steps from above. -/
def isqrtFrom (n : Nat) : Nat → Nat → Nat
  | 0, x => x
  | fuel + 1, x =>
    let y := (x + n / x) / 2
    if y < x then isqrtFrom n fuel y else x

def isqrt (n : Nat) : Nat := if n = 0 then 0 else isqrtFrom n (n.log2 + 2) (2 ^ (n.log2 / 2 + 1))

/-- A rational within 2^-640 of `a`, relative. -/
def Mag.approx (a : Mag) : Mag :=
  if a.e8 = 0 then a
  else { n := a.n * isqrt (isqrt (isqrt (2 ^ a.e8 * 2 ^ (8 * approxBits)))), d := a.d * 2 ^ approxBits, e8 := 0 }

/-- Floor(2^16 · (t - lo) / (hi - lo)) (R179). -/
def fraction16 (t lo hi : Mag) : Nat :=
  let t := t.approx; let lo := lo.approx; let hi := hi.approx
  let num := (t.n * lo.d - lo.n * t.d) * hi.d
  let den := (hi.n * lo.d - lo.n * hi.d) * t.d
  2 ^ 16 * num / den

/-- Floor(2^16 · t / hi), decided exactly. -/
def fraction16Zero (t hi : Mag) : Nat → Nat → Nat
  | 0, k => k
  | b + 1, k =>
    let k' := k + 2 ^ b
    if Mag.le { hi with n := hi.n * k' } { t with n := t.n * 2 ^ 16 } then fraction16Zero t hi b k' else fraction16Zero t hi b k

/-- Floor(log2 a), for a ≠ 0. -/
def Mag.log2 (a : Mag) : Int :=
  let g : Int := (a.n.log2 : Int) - (a.d.log2 : Int)
  if Mag.le (Mag.scaled 1 (g + 1)) a then g + 1 else if Mag.le (Mag.scaled 1 g) a then g else g - 1

/-- The square root of n/d to more than 80 bits, the last bit standing for whatever is left: every correctly rounded result of
60 bits or fewer is the root's. -/
def Mag.sqrt (a : Mag) : Mag :=
  let k := 100 + a.d.log2
  let m := a.n * 4 ^ k / a.d
  let r := isqrt m
  let rest := if r * r * a.d = a.n * 4 ^ k then 0 else 1
  { n := 2 * r + rest, d := 2 ^ (k + 1), e8 := 0 }

/-! ## Signed dyadic numbers -/

/-- m · 2^e. -/
structure Dyadic where
  m : Int
  e : Int
deriving DecidableEq, Repr

def Dyadic.zero : Dyadic := { m := 0, e := 0 }

def Dyadic.add (a b : Dyadic) : Dyadic :=
  if a.m = 0 then b else if b.m = 0 then a
  else if a.e ≤ b.e then { m := a.m + b.m * (2 : Int) ^ (b.e - a.e).toNat, e := a.e }
  else { m := a.m * (2 : Int) ^ (a.e - b.e).toNat + b.m, e := b.e }

def Dyadic.mul (a b : Dyadic) : Dyadic := { m := a.m * b.m, e := a.e + b.e }

def Dyadic.neg (a : Dyadic) : Dyadic := { a with m := -a.m }

def Dyadic.mag (a : Dyadic) : Mag := Mag.scaled a.m.natAbs a.e

/-! ## Enclosures of 2^x, log2 x and tanh x

Fixed-point enclosures with `p` fraction bits: a pair (lo, hi) stands for the interval from lo / 2^p to hi / 2^p. -/

abbrev Encl := Int × Int

def shr (p : Nat) (x : Int) : Int := x / (2 : Int) ^ p

def enclMul (p : Nat) (a b : Encl) : Encl :=
  let w := [a.1 * b.1, a.1 * b.2, a.2 * b.1, a.2 * b.2]
  (shr p (w.foldl min (a.1 * b.1)), shr p (w.foldl max (a.1 * b.1)) + 1)

/-- ln 2 = sum of 1 / (k · 2^k), k from 1. -/
def ln2Encl (p : Nat) : Encl :=
  let s := (List.range p).foldl (fun (acc : Int) (i : Nat) => acc + (2 : Int) ^ p / (((i + 1) * 2 ^ (i + 1) : Nat) : Int)) 0
  (s, s + p + 2)

/-- e^y for 0 ≤ y ≤ 1, `n` terms of its series. -/
def expEncl (p : Nat) (y : Encl) (n : Nat) : Encl :=
  let one : Encl := ((2 : Int) ^ p, (2 : Int) ^ p)
  let r := (List.range n).foldl (fun (acc : Encl × Encl) (i : Nat) =>
    let t := enclMul p acc.1 y
    let t : Encl := (t.1 / ((i : Int) + 1), t.2 / ((i : Int) + 1) + 1)
    (t, (acc.2.1 + t.1, acc.2.2 + t.2))) (one, one)
  (r.2.1, r.2.2 + 2 * r.1.2 + 2)

/-- log2 m for 1 ≤ m < 2, m = x / 2^p: the bits of the logarithm one by one by squaring, `n` of them. -/
def log2Bits (p : Nat) : Nat → Encl → Nat → Option Nat
  | 0, _, acc => some acc
  | n + 1, x, acc =>
    let y := enclMul p x x
    let two := (2 : Int) ^ (p + 1)
    if two ≤ y.1 then log2Bits p n (shr 1 y.1, shr 1 y.2 + 1) (2 * acc + 1)
    else if y.2 < two then log2Bits p n y (2 * acc)
    else none

end Machine
end Sys2Proof
end

