-- ==== Sys2Proof/Syntax.lean ====
section
/-! DEFINITION. The instructions and steps of the Zenkin Z4: one constructor of `Instr` per row of spec/opcode_table.json.
Operands are grouped by the ten formats of spec/04_encodings_opcode_map.md (R75 to R84). The rows that are no instruction
word (tile commands run by an engine, and hardware or outside events) are constructors that name the unit they happen at. -/

namespace Sys2Proof

/-! ## Field codes (R22, R74) -/

/-- Integer type suffix (R74): codes 0 to 7. -/
inductive ITy where
  | s8 | s16 | s32 | s64 | n8 | n16 | n32 | n64
deriving DecidableEq, Repr

/-- Scalar floating type (R74): codes 0 and 1. -/
inductive FTy where
  | f32 | f64
deriving DecidableEq, Repr

/-- Conversion kind of `fcvt` (R74): codes 0 to 9. -/
inductive Kind where
  | int (t : ITy) | f32 | f64
deriving DecidableEq, Repr

/-- Rounding mode (R74): codes 0 to 5. -/
inductive Rm where
  | rne | rtz | rup | rdn | sr | dth
deriving DecidableEq, Repr

/-- Write mode of a compare (R100): codes 0 to 3. -/
inductive Wm where
  | set | clr | and | or
deriving DecidableEq, Repr

/-- Condition of a compare (R74): codes 0 to 7. -/
inductive Cond where
  | eq | ne | lt | ge | le | gt | ord | uno
deriving DecidableEq, Repr

/-- Scope (R22): codes 0 to 5. -/
inductive Scope where
  | lane | core | tile | die | package | pod
deriving DecidableEq, Repr

/-- Cache hint (R74): codes 0 to 2. -/
inductive Hint where
  | keep | stream | nofill
deriving DecidableEq, Repr

/-- Ordering of an atomic (R74): codes 0 to 3. -/
inductive AOrd where
  | plain | acq | rel | acqRel
deriving DecidableEq, Repr

/-- Operation of `amo` and `red` (R320): codes 0 to 7. -/
inductive AmoOp where
  | swap | add | and | or | xor | min | max | fadd
deriving DecidableEq, Repr

/-- An engine queue that `push` and `qstat` name (R74, R191): codes 0 to 12. -/
inductive QName where
  | mxq | cpq | clq | ofq | gq (n : BitVec 3) | lnq
deriving DecidableEq, Repr

/-! ## Guards and operand groups -/

/-- A guard (R71): a truth table over three selected predicates. -/
structure Guard where
  t : BitVec 8
  a : PReg
  b : PReg
  c : PReg
deriving DecidableEq, Repr

/-- Format R3 of the integer operations (R75, R102). -/
structure IntR where
  rd : XReg
  ra : XReg
  rb : XReg
  ty : ITy
deriving DecidableEq, Repr

/-- Format I (R76). -/
structure IntI where
  rd : XReg
  ra : XReg
  ty : ITy
  imm : BitVec 24
deriving DecidableEq, Repr

/-- One-source integer form (R105). -/
structure IntU where
  rd : XReg
  ra : XReg
  ty : ITy
deriving DecidableEq, Repr

/-- Format R3 of the two-source floating operations (R112). -/
structure FloatR where
  rd : XReg
  ra : XReg
  rb : XReg
  ty : FTy
  rm : Rm
deriving DecidableEq, Repr

/-- Format R3 of `fma` (R112). -/
structure FmaR where
  rd : XReg
  ra : XReg
  rb : XReg
  rc : XReg
  ty : FTy
  rm : Rm
deriving DecidableEq, Repr

/-- Format R3 of `fsqrt` (R112). -/
structure FsqrtR where
  rd : XReg
  ra : XReg
  ty : FTy
  rm : Rm
deriving DecidableEq, Repr

/-- Format R3 of `fmin` and `fmax` (R113). -/
structure FminR where
  rd : XReg
  ra : XReg
  rb : XReg
  ty : FTy
deriving DecidableEq, Repr

/-- Format R3 of `fcvt` (R114). -/
structure FcvtR where
  rd : XReg
  ra : XReg
  dst : Kind
  src : Kind
  rm : Rm
deriving DecidableEq, Repr

/-- Format R3 of `fclass` (R115). -/
structure FclassR where
  rd : XReg
  ra : XReg
  ty : FTy
deriving DecidableEq, Repr

/-- Second operand of `cmp` (R80): a register or a signed 14-bit immediate. -/
inductive CmpSrc where
  | reg (r : XReg)
  | imm (v : BitVec 14)
deriving DecidableEq, Repr

/-- Format C of `cmp` (R116). -/
structure CmpC where
  pt : PReg
  pf : PReg
  wm : Wm
  cond : Cond
  ra : XReg
  b : CmpSrc
  ty : ITy
deriving DecidableEq, Repr

/-- Format C of `fcmp` (R117). -/
structure FcmpC where
  pt : PReg
  pf : PReg
  wm : Wm
  cond : Cond
  ra : XReg
  rb : XReg
  ty : FTy
deriving DecidableEq, Repr

/-- Format C of `tbit` (R118); `zero` is the condition `.zero`. -/
structure TbitC where
  pt : PReg
  pf : PReg
  wm : Wm
  zero : Bool
  ra : XReg
  n : BitVec 6
deriving DecidableEq, Repr

/-- Format C of `plog` (R119). -/
structure PlogC where
  pd : PReg
  table : BitVec 8
  sa : PReg
  sb : PReg
  sc : PReg
deriving DecidableEq, Repr

/-- Format M of `ld`, `st`, `lds`, `stf` and `ldc` (R79); `r` is the destination or the data source, `ord` is `.acq` or
`.rel`, `take` is set only by `lds.take`. -/
structure MemM where
  r : XReg
  rb : XReg
  ty : ITy
  ord : Bool
  scope : Scope
  hint : Hint
  take : Bool
  disp : BitVec 20
deriving DecidableEq, Repr

/-- Format M of `pref`, `clean` and `inval` (R132, R133). -/
structure BlockM where
  rb : XReg
  scope : Scope
  hint : Hint
  disp : BitVec 20
deriving DecidableEq, Repr

/-- Format M of `lea`, `msend` and `mrecv` (R79). -/
structure AddrM where
  r : XReg
  rb : XReg
  disp : BitVec 20
deriving DecidableEq, Repr

/-- Format R3 of `amo` (R320). -/
structure AmoR where
  rd : XReg
  ra : XReg
  rb : XReg
  ty : ITy
  scope : Scope
  op : AmoOp
  ord : AOrd
deriving DecidableEq, Repr

/-- Format R3 of `cas` (R320). -/
structure CasR where
  rd : XReg
  ra : XReg
  rb : XReg
  rc : XReg
  ty : ITy
  scope : Scope
  ord : AOrd
deriving DecidableEq, Repr

/-- Format R3 of `red` (R320). -/
structure RedR where
  ra : XReg
  rb : XReg
  ty : ITy
  scope : Scope
  op : AmoOp
  ord : AOrd
deriving DecidableEq, Repr

/-- Format H, memory layout (R81). -/
structure HandleM where
  h : HReg
  rb : XReg
  ord : Bool
  scope : Scope
  hint : Hint
  disp : BitVec 20
deriving DecidableEq, Repr

/-- The five limits of `wait` (R84, R196). -/
structure WaitS where
  ld : BitVec 4
  st : BitVec 4
  vx : BitVec 4
  cp : BitVec 4
  tl : BitVec 4
deriving DecidableEq, Repr

/-- The kind bits of `fence` (R84, R301). -/
structure FenceS where
  scope : Scope
  ld : Bool
  st : Bool
  acq : Bool
  rel : Bool
  sc : Bool
  ro : Bool
  eng : Bool
deriving DecidableEq, Repr

/-- A handle operand of a vector instruction with its cursor mark (R58, R82). -/
structure VHandle where
  h : HReg
  adv : Bool
deriving DecidableEq, Repr

/-- An operand slot of a vector instruction (R82): a handle or a scalar register. -/
inductive VOp where
  | h (v : VHandle)
  | x (r : XReg)
deriving DecidableEq, Repr

/-- Format V of the two-source arithmetic instructions (R229). -/
structure VecR2 where
  d : VHandle
  a : VOp
  b : VOp
  rm : Rm
deriving DecidableEq, Repr

/-- Format V of `vfma` (R229). -/
structure VecR3 where
  d : VHandle
  a : VHandle
  b : VOp
  c : VOp
  rm : Rm
deriving DecidableEq, Repr

/-- Format V of `vmin` and `vmax` (R230). -/
structure VecMin where
  d : VHandle
  a : VOp
  b : VOp
deriving DecidableEq, Repr

/-- Format V of `vabs` and `vneg` (R230). -/
structure VecU where
  d : VHandle
  a : VHandle
deriving DecidableEq, Repr

/-- Format V of the elementary functions (R231). -/
structure VecF where
  d : VHandle
  a : VHandle
  rm : Rm
deriving DecidableEq, Repr

/-- Format V of `vcvt` (R232). -/
structure VecCvt where
  d : VHandle
  a : VHandle
  scale : Option XReg
  clip : Option XReg
  rm : Rm
deriving DecidableEq, Repr

/-- Format V of `vquant` (R233). -/
structure VecQuant where
  d : VHandle
  a : VHandle
  scale : Option XReg
  calcScales : Bool
  amax : Option (XReg × Scope)
  rm : Rm
deriving DecidableEq, Repr

/-- Format V of `vred` and `vamax` (R234). -/
structure VecRed where
  rd : XReg
  a : VHandle
  xb : XReg
  rm : Rm
deriving DecidableEq, Repr

/-- Format V of `vcmp` (R235). -/
structure VecCmp where
  pt : PReg
  pf : PReg
  wm : Wm
  cond : Cond
  a : VHandle
  b : VOp
deriving DecidableEq, Repr

/-- Format V of `vsel` (R236). -/
structure VecSel where
  d : VHandle
  sel : PReg
  a : VOp
  b : VOp
deriving DecidableEq, Repr

/-- Format V of `vperm` (R237). -/
structure VecPerm where
  d : VHandle
  a : VHandle
  ix : VHandle
deriving DecidableEq, Repr

/-- Format V of `vbcast` (R237). -/
structure VecBcast where
  d : VHandle
  a : VHandle
  x : XReg
deriving DecidableEq, Repr

/-- Format V of `vmov` and `vfill` (R238). -/
structure VecMov where
  d : VHandle
  a : VOp
deriving DecidableEq, Repr

/-- Format V of `vplog` (R239). -/
structure VecPlog where
  pd : PReg
  table : BitVec 8
  sa : PReg
  sb : PReg
  sc : PReg
deriving DecidableEq, Repr

/-- Format V of `vpcnt` and `vpfirst` (R240). -/
structure VecPcnt where
  rd : XReg
  a : PReg
deriving DecidableEq, Repr

/-- Format V of `vpmov` from a scalar register (R240). -/
structure VecFromX where
  pd : PReg
  q : BitVec 2
  keep : Bool
  x : XReg
deriving DecidableEq, Repr

/-- Format V of `vpmov` to a scalar register (R240). -/
structure VecToX where
  rd : XReg
  q : BitVec 2
  a : PReg
deriving DecidableEq, Repr

/-- Format S of the control-register instructions (R344); `csrr` has no `ra`. -/
structure CsrS where
  rd : XReg
  ra : XReg
  csr : BitVec 12
deriving DecidableEq, Repr

/-! ## The units that steps name -/

/-- A core: a tile's core by its logical core number (R9), a churn (R360) or a supervisor core (00 R1, R358). -/
inductive CoreId where
  | tile (lcn : BitVec 22)
  | churn (pkg : BitVec 10) (c : BitVec 5)
  | sup (pkg : BitVec 10) (die : BitVec 2) (k : BitVec 1)
deriving DecidableEq, Repr

/-- A logical tile of the pod: its package and its logical tile number (R9). -/
structure TileId where
  pkg : BitVec 10
  tile : BitVec 10
deriving DecidableEq, Repr

/-- A die of the pod. -/
structure DieId where
  pkg : BitVec 10
  die : BitVec 2
deriving DecidableEq, Repr

/-- A quadrant of the pod. -/
structure QuadId where
  pkg : BitVec 10
  die : BitVec 2
  quad : BitVec 2
deriving DecidableEq, Repr

/-- A physical core: physical tile of a quadrant and core within it (`pcore`, R33). -/
structure PhysCore where
  quad : QuadId
  ptile : BitVec 7
  core : BitVec 2
deriving DecidableEq, Repr

/-- An offset in one of a function's two address ranges: BAR2 or BAR0 (R379). -/
structure BarAddr where
  bar2 : Bool
  off : BitVec 42
deriving DecidableEq, Repr

/-- A launch queue: package, hard partition and queue number (R262). -/
structure QueueId where
  pkg : BitVec 10
  part : BitVec 2
  q : BitVec 4
deriving DecidableEq, Repr

/-- How the host answers a request of the offload engine or the signing unit (R375): data, Unsupported Request or Completer
Abort, or data that the host marks poisoned (R377). -/
inductive HostAnswer where
  | ok | poisoned | unsupported | abort
deriving DecidableEq, Repr

/-- A step of the machine. The constructors with a `Guard` are instruction words; `safe` carries its map word. The others are
what an engine, the fabric, a supervisor, the host or the board does. -/
inductive Instr where
  -- integer, register form (R102 to R104)
  | add (g : Guard) (o : IntR) | sub (g : Guard) (o : IntR) | mul (g : Guard) (o : IntR) | mulh (g : Guard) (o : IntR)
  | div (g : Guard) (o : IntR) | rem (g : Guard) (o : IntR) | and (g : Guard) (o : IntR) | or (g : Guard) (o : IntR)
  | xor (g : Guard) (o : IntR) | andn (g : Guard) (o : IntR) | sll (g : Guard) (o : IntR) | srl (g : Guard) (o : IntR)
  | sra (g : Guard) (o : IntR) | rot (g : Guard) (o : IntR) | min (g : Guard) (o : IntR) | max (g : Guard) (o : IntR)
  -- integer, immediate form
  | addImm (g : Guard) (o : IntI) | mulImm (g : Guard) (o : IntI) | andImm (g : Guard) (o : IntI)
  | orImm (g : Guard) (o : IntI) | xorImm (g : Guard) (o : IntI) | andnImm (g : Guard) (o : IntI)
  | sllImm (g : Guard) (o : IntI) | srlImm (g : Guard) (o : IntI) | sraImm (g : Guard) (o : IntI)
  | rotImm (g : Guard) (o : IntI) | minImm (g : Guard) (o : IntI) | maxImm (g : Guard) (o : IntI)
  -- one source, constants and addresses (R105 to R109)
  | clz (g : Guard) (o : IntU) | ctz (g : Guard) (o : IntU) | popc (g : Guard) (o : IntU)
  | sext (g : Guard) (o : IntU) | zext (g : Guard) (o : IntU)
  | li (g : Guard) (rd : XReg) (imm : BitVec 35) | lih (g : Guard) (rd : XReg) (imm : BitVec 32)
  | lea (g : Guard) (o : AddrM) | adr (g : Guard) (rd : XReg) (imm : BitVec 35)
  | padr (g : Guard) (rd ra rb : XReg)
  -- scalar floating point (R110 to R115)
  | fadd (g : Guard) (o : FloatR) | fsub (g : Guard) (o : FloatR) | fmul (g : Guard) (o : FloatR)
  | fma (g : Guard) (o : FmaR) | fdiv (g : Guard) (o : FloatR) | fsqrt (g : Guard) (o : FsqrtR)
  | fmin (g : Guard) (o : FminR) | fmax (g : Guard) (o : FminR) | fcvt (g : Guard) (o : FcvtR)
  | fclass (g : Guard) (o : FclassR)
  -- compares and predicates (R116 to R120)
  | cmp (g : Guard) (o : CmpC) | fcmp (g : Guard) (o : FcmpC) | tbit (g : Guard) (o : TbitC) | plog (g : Guard) (o : PlogC)
  | pmovToX (g : Guard) (x : XReg) | pmovToPr (g : Guard) (x : XReg)
  -- control flow (R121 to R124)
  | br (g : Guard) (off : BitVec 32) | call (g : Guard) (off : BitVec 32) | jr (g : Guard) (rd ra : XReg) | exit (g : Guard)
  -- memory access (R125 to R137)
  | ld (g : Guard) (o : MemM) | st (g : Guard) (o : MemM) | lds (g : Guard) (o : MemM) | stf (g : Guard) (o : MemM)
  | ldc (g : Guard) (o : MemM) | pref (g : Guard) (o : BlockM) | clean (g : Guard) (o : BlockM) | inval (g : Guard) (o : BlockM)
  | longLoadAnswer (c : CoreId) | storeBufferDrain (c : CoreId)
  -- messages (R139 to R141)
  | msend (g : Guard) (o : AddrM) | messageDelivery (c : CoreId) | mrecv (g : Guard) (o : AddrM)
  -- atomics and fences (R320 to R326)
  | amo (g : Guard) (o : AmoR) | cas (g : Guard) (o : CasR) | red (g : Guard) (o : RedR) | redAccept (c : CoreId)
  | fence (g : Guard) (o : FenceS)
  -- wired barriers (R315 to R319)
  | arrive (g : Guard) (rd : XReg) (bid : BitVec 6) | bwait (g : Guard) (bid : BitVec 6) (ra : XReg) (pt pf : PReg)
  | bmask (g : Guard) (bid : BitVec 6) (ra : XReg) | bmaskRd (g : Guard) (bid : BitVec 6) (ra : XReg)
  | barrierPhaseComplete (d : DieId) (bid : BitVec 6) | barrierTimeout (c : CoreId)
  -- engine queues, tags, arrival objects (R143, R192 to R202)
  | push (g : Guard) (q : QName) (cb : BitVec 3) | pushTry (g : Guard) (q : QName) (cb : BitVec 3) (pt pf : PReg)
  | qstat (g : Guard) (q : QName) (rd : XReg) | wait (g : Guard) (o : WaitS)
  | twait (g : Guard) (tag : BitVec 6) | tany (g : Guard) (rd ra : XReg) | tfind (g : Guard) (rd ra : XReg)
  | cancel (g : Guard) (tag : BitVec 6) (rd : XReg)
  | abinit (g : Guard) (obj : BitVec 6) (ra : XReg) | abinitReset (g : Guard) (obj : BitVec 6) (ra : XReg)
  | abwait (g : Guard) (obj : BitVec 6) | abwaitTimeout (c : CoreId)
  -- handles (R189, R190)
  | hset (g : Guard) (h : HReg) (f : BitVec 4) (x : XReg) | hget (g : Guard) (x : XReg) (h : HReg) (f : BitVec 4)
  | hmov (g : Guard) (h hs : HReg) | hadv (g : Guard) (h : HReg) (x : XReg)
  | hld (g : Guard) (o : HandleM) | hst (g : Guard) (o : HandleM)
  -- vector unit (R215 to R240)
  | vadd (g : Guard) (o : VecR2) | vsub (g : Guard) (o : VecR2) | vmul (g : Guard) (o : VecR2) | vfma (g : Guard) (o : VecR3)
  | vmin (g : Guard) (o : VecMin) | vmax (g : Guard) (o : VecMin) | vabs (g : Guard) (o : VecU) | vneg (g : Guard) (o : VecU)
  | vexp2 (g : Guard) (o : VecF) | vlog2 (g : Guard) (o : VecF) | vrcp (g : Guard) (o : VecF) | vrsq (g : Guard) (o : VecF)
  | vtanh (g : Guard) (o : VecF) | vcvt (g : Guard) (o : VecCvt) | vquant (g : Guard) (o : VecQuant)
  | vamax (g : Guard) (o : VecRed) | vred (g : Guard) (o : VecRed) | vcmp (g : Guard) (o : VecCmp) | vsel (g : Guard) (o : VecSel)
  | vperm (g : Guard) (o : VecPerm) | vbcast (g : Guard) (o : VecBcast) | vmov (g : Guard) (o : VecMov)
  | vfill (g : Guard) (o : VecMov) | vempty (g : Guard) (d : VHandle) | vplog (g : Guard) (o : VecPlog)
  | vpcnt (g : Guard) (o : VecPcnt) | vpfirst (g : Guard) (o : VecPcnt) | vpmovFromX (g : Guard) (o : VecFromX)
  | vpmovToX (g : Guard) (o : VecToX) | vectorQuarterGrant (c : CoreId) | vectorComplete (c : CoreId)
  -- control registers (R90, R91, R150, R203, R344)
  | csrr (g : Guard) (rd : XReg) (csr : BitVec 12) | csrw (g : Guard) (o : CsrS) | csrset (g : Guard) (o : CsrS)
  | csrclr (g : Guard) (o : CsrS) | tsplitWrite (t : TileId) | accsplitWrite (t : TileId)
  -- system (R340 to R345)
  | trap (g : Guard) (code : BitVec 16) | eret (g : Guard) | wfi (g : Guard) (ra : XReg) | wfiTimeout (c : CoreId)
  | seal (g : Guard) (ra rb : XReg) | tlbi (g : Guard) (ra rb : XReg) (scope : Scope)
  -- scheduling (R265 to R281)
  | spawn (g : Guard) (lq : BitVec 4) (ra : XReg) | join (g : Guard) (ra rb : XReg) | safe (g : Guard) (map : Word)
  | yield (g : Guard) | prio (g : Guard) (n : BitVec 2) | gang (g : Guard) (bid : BitVec 6)
  -- compacts (R285 to R290)
  | sign (g : Guard) (ra : XReg) | dissolve (g : Guard) (ra : XReg) | xfer (g : Guard) (ra : XReg) | sstep (g : Guard) (ra : XReg)
  | heldAccessArrive (c : CoreId) | compactTimeout (d : DieId) (bid : BitVec 6)
  -- churns and random words (R259, R366)
  | qget (g : Guard) (rd : XReg) (q : BitVec 3) (pt pf : PReg) | rand (g : Guard) (rd : XReg)
  -- copy engine (R144, R206, R207)
  | copy (c : CoreId) | copyPieceArrive (c : CoreId) (k : Nat) | copyComplete (c : CoreId) | gather (c : CoreId)
  | scatter (c : CoreId)
  -- matrix engine and ladle (R209 to R255)
  | mma (c : CoreId) | mrot (c : CoreId) | mrotBytesArrive (t : TileId) | drain (c : CoreId) | accZero (c : CoreId)
  | accLoad (c : CoreId) | accAdd (c : CoreId) | accMove (c : CoreId) | norm (c : CoreId) | aliasBuild (c : CoreId)
  | smm (c : CoreId)
  -- collectives, offload (R371 to R378)
  | collAllreduce (c : CoreId) | collReduceScatter (c : CoreId) | collAllgather (c : CoreId) | collBroadcast (c : CoreId)
  | collReduce (c : CoreId) | collChunkCommit (d : DieId) | collTimeout (c : CoreId) | collReform (d : DieId)
  | offload (c : CoreId) | replay (c : CoreId)
  -- launch, teams, threads (R16, R30, R263 to R280, R333, R339, R358)
  | launch (c : CoreId) | hostTailWrite (q : QueueId) (rec : BitVec 512) | launchRecordTake (q : QueueId)
  | teamPlacement (q : QueueId) (base : BitVec 12) | teamEnd (c : CoreId) | supervisorMark (c : CoreId) (withdraw : Bool)
  | threadSave (c : CoreId) | threadResume (c : CoreId) | tileImageSwap (t : TileId) | tmapWrite (t : TileId) (ptile : BitVec 7)
  | threadRestart (c : CoreId) | threadSupervisorResume (c : CoreId) | threadSupervisorEnd (c : CoreId)
  -- faults and containment (R328, R330, R346, R352, R374, R289)
  | accessRefusal (c : CoreId) | fatalReport (c : CoreId) | heartbeat (p : PhysCore) | heartbeatMiss (p : PhysCore)
  | pkgHeartbeat (pkg : BitVec 10) | pkgDead (pkg : BitVec 10) | linkFailure (a b : BitVec 10) (rerouted : Bool)
  | ueRetransmit (c : CoreId) (k : Nat)
  -- test rotation (R354)
  | skimTurn (q : QuadId) | skimQuiesceTimeout (q : QuadId) | skimResult (q : QuadId) (pass : Bool)
  -- caches and translation (R152 to R155, R163)
  | tileCacheFill (t : TileId) (pa : BitVec 57) | ownershipGrant (t : TileId) (pa : BitVec 57)
  | logicalClockTick (t : TileId) (n : Nat) | clockMinUpdate (pkg : Option (BitVec 10)) | pageWalk (c : CoreId) (va : Word)
  -- churn start, host, partitions, boot, power (R362, R380 to R391)
  | churnStart (pkg : BitVec 10) (c : BitVec 5) | hostRead (pkg : BitVec 10) (fn : BitVec 2) (off : BarAddr) (n : Nat)
  | hostWrite (pkg : BitVec 10) (fn : BitVec 2) (bar2 : Bool) (off : BitVec 42) (data : List Byte)
  | mergeRequest (pkg : BitVec 10) (fn : BitVec 2) (mask : BitVec 4) | mergeDrainTimeout (pkg : BitVec 10)
  | attestationRequest (pkg : BitVec 10) (fn : BitVec 2) | boot (pkg : BitVec 10) | thermalTrip (d : DieId)
  | islandClockChange (pkg : BitVec 10) (island : Nat) (mhz mv : Nat) | cxlHotRemove (pkg : BitVec 10) (port : BitVec 1) (cap : Nat)
  | softError (va : Word) (c : CoreId) (uncorrectable : Bool) | powerOff (pkg : BitVec 10)
  | hostCompletion (d : DieId) (a : HostAnswer)
  -- arbitration and classification (R269, R272)
  | matrixKstepGrant (t : TileId) | kernelLabel (pkg : BitVec 10) (part : BitVec 2) (ctx : BitVec 12) (entry : Word)
deriving DecidableEq, Repr

end Sys2Proof
end

