-- ==== Sys2Proof/Machine/Formats.lean ====
section
/-! DEFINITION. The element formats of spec/08_number_formats.md, IEEE rounding (R110) and the saturating Round of R179. -/

namespace Sys2Proof
namespace Machine

/-- How a magnitude code stands for a magnitude: binary floating with `mb` mantissa bits, integers with `frac` fraction bits,
or powers 2^(unit · (m - centre) / 8). -/
inductive FKind where
  | flt (mb bias : Nat)
  | int (frac : Nat)
  | log (unit centre : Nat)
deriving DecidableEq, Repr

/-- An element format (R169, R171 to R173): width, signedness, the largest finite code of each sign, the code of infinity and
the pattern written for NaN or NaR. -/
structure Fmt where
  kind : FKind
  w : Nat
  signed : Bool
  maxPos : Nat
  maxNeg : Nat
  infC : Option Nat
  nanC : Option Nat
deriving DecidableEq, Repr

def fmtF64 : Fmt :=
  { kind := .flt 52 1023, w := 64, signed := true, maxPos := 0x7FEFFFFFFFFFFFFF,
    maxNeg := 0x7FEFFFFFFFFFFFFF, infC := some 0x7FF0000000000000, nanC := some 0x7FF8000000000000 }
def fmtF32 : Fmt :=
  { kind := .flt 23 127, w := 32, signed := true, maxPos := 0x7F7FFFFF, maxNeg := 0x7F7FFFFF,
    infC := some 0x7F800000, nanC := some 0x7FC00000 }
def fmtBf16 : Fmt :=
  { kind := .flt 7 127, w := 16, signed := true, maxPos := 0x7F7F, maxNeg := 0x7F7F,
    infC := some 0x7F80, nanC := some 0x7FC0 }
def fmtF16 : Fmt :=
  { kind := .flt 10 15, w := 16, signed := true, maxPos := 0x7BFF, maxNeg := 0x7BFF,
    infC := some 0x7C00, nanC := some 0x7E00 }
def fmtE4m3 : Fmt :=
  { kind := .flt 3 7, w := 8, signed := true, maxPos := 0x7E, maxNeg := 0x7E, infC := none, nanC := some 0x7F }
def fmtE5m2 : Fmt :=
  { kind := .flt 2 15, w := 8, signed := true, maxPos := 0x7B, maxNeg := 0x7B, infC := some 0x7C,
    nanC := some 0x7E }
def fmtE3m2 : Fmt :=
  { kind := .flt 2 3, w := 6, signed := true, maxPos := 0x1F, maxNeg := 0x1F, infC := none, nanC := none }
def fmtE2m3 : Fmt :=
  { kind := .flt 3 1, w := 6, signed := true, maxPos := 0x1F, maxNeg := 0x1F, infC := none, nanC := none }
def fmtE2m1 : Fmt :=
  { kind := .flt 1 1, w := 4, signed := true, maxPos := 0x7, maxNeg := 0x7, infC := none, nanC := none }
def fmtInt (w : Nat) (s : Bool) (frac : Nat) : Fmt :=
  { kind := .int frac, w := w, signed := s, maxPos := if s then 2 ^ (w - 1) - 1 else 2 ^ w - 1,
    maxNeg := if s then 2 ^ (w - 1) else 0, infC := none, nanC := none }
def fmtLg8 : Fmt :=
  { kind := .log 1 64, w := 8, signed := true, maxPos := 127, maxNeg := 127, infC := none, nanC := some 0x80 }
def fmtLg6 : Fmt :=
  { kind := .log 2 16, w := 6, signed := true, maxPos := 31, maxNeg := 31, infC := none, nanC := some 0x20 }
def fmtLg4 : Fmt :=
  { kind := .log 4 4, w := 4, signed := true, maxPos := 7, maxNeg := 7, infC := none, nanC := some 0x8 }

/-- The element format of a format code (R169); the reserved codes never pass a check. -/
def fmtOf (code : Nat) : Fmt :=
  match code with
  | 0 => fmtF32 | 1 => fmtBf16 | 2 => fmtF16 | 3 => fmtE4m3 | 4 => fmtE5m2 | 5 => fmtE3m2 | 6 => fmtE2m3 | 7 => fmtE2m1
  | 8 => fmtInt 8 true 0 | 9 => fmtInt 8 false 0 | 10 => fmtInt 4 true 0 | 11 => fmtInt 4 false 0
  | 12 => fmtLg8 | 13 => fmtLg6 | 14 => fmtLg4 | 15 => fmtE4m3 | 16 => fmtE5m2 | 17 => fmtE2m3 | 18 => fmtE2m1
  | 19 => fmtInt 8 true 6 | 20 => fmtLg6 | _ => fmtLg4

/-- How a format code scales its blocks (R175). -/
inductive ScaleKind where
  | none | e8m0 | shift
deriving DecidableEq, Repr

def scaleKind (code : Nat) : ScaleKind :=
  if code < 15 then .none else if code < 20 then .e8m0 else .shift

/-- The family that pairs operands (R169). -/
inductive Family where
  | fp32 | float | integer | log
deriving DecidableEq, Repr

def family (code : Nat) : Family :=
  if code = 0 then .fp32 else if code < 8 then .float else if code < 12 then .integer else if code < 15 then .log
  else if code < 20 then .float else .log

/-! ## Values -/

/-- The value of an element: a NaN (signalling or not) or NaR, an infinity, or a signed magnitude. -/
inductive Val where
  | nan (sig : Bool)
  | inf (neg : Bool)
  | fin (neg : Bool) (m : Mag)
deriving DecidableEq, Repr

/-- The magnitude of a code, beyond the largest finite one by the format's own spacing (R171 to R173, R179). -/
def codeMag (f : Fmt) (c : Nat) : Mag :=
  match f.kind with
  | .flt mb bias =>
    let e := c / 2 ^ mb
    let m := c % 2 ^ mb
    if e = 0 then Mag.scaled m (1 - (bias : Int) - mb) else Mag.scaled (2 ^ mb + m) ((e : Int) - bias - mb)
  | .int frac => Mag.scaled c (-(frac : Int))
  | .log unit centre =>
    if c = 0 then Mag.zero
    else
      let e : Int := ((c : Int) - centre) * unit
      { Mag.scaled 1 (e / 8) with e8 := (e % 8).toNat }

/-- The value of a pattern. -/
def valueOf (f : Fmt) (bits : Nat) : Val :=
  let top := bits / 2 ^ (f.w - 1) % 2 == 1
  match f.kind with
  | .flt mb _ =>
    let c := bits % 2 ^ (f.w - 1)
    if c ≤ f.maxPos then .fin top (codeMag f c)
    else if f.infC = some c then .inf top
    else .nan (f.infC.isSome && c / 2 ^ (mb - 1) % 2 == 0)
  | .int _ =>
    if f.signed && top then .fin true (codeMag f (2 ^ f.w - bits % 2 ^ f.w)) else .fin false (codeMag f (bits % 2 ^ f.w))
  | .log _ _ =>
    let c := bits % 2 ^ (f.w - 1)
    if c = 0 && top then .nan false else .fin top (codeMag f c)

/-- The pattern of a sign and a magnitude code. -/
def patternOf (f : Fmt) (neg : Bool) (c : Nat) : Nat :=
  match f.kind with
  | .flt _ _ => (if neg then 2 ^ (f.w - 1) else 0) + c
  | .int _ => if neg then (2 ^ f.w - c) % 2 ^ f.w else c
  | .log _ _ => if c = 0 then 0 else (if neg then 2 ^ (f.w - 1) else 0) + c

/-- The smallest positive normal magnitude, or the smallest non-zero one of a log kind (R179); none for integers. -/
def minNormal (f : Fmt) : Option Mag :=
  match f.kind with
  | .flt mb _ => some (codeMag f (2 ^ mb))
  | .int _ => none
  | .log _ _ => some (codeMag f 1)

/-! ## Flags of `fpstat` (R181) -/

/-- The five sticky flags in the order of `fpstat`. -/
abbrev Flags := BitVec 5

def noFlags : Flags := 0
def flInvalid : Flags := 1
def flOverflow : Flags := 2
def flUnderflow : Flags := 4
def flInexact : Flags := 8
def flSaturated : Flags := 16

/-! ## Rounding -/

/-- The greatest code, of those below `lo + 2^b`, whose magnitude is at most `t`. -/
def searchCode (f : Fmt) (t : Mag) : Nat → Nat → Nat
  | 0, lo => lo
  | b + 1, lo => if Mag.le (codeMag f (lo + 2 ^ b)) t then searchCode f t b (lo + 2 ^ b) else searchCode f t b lo

def lowCode (f : Fmt) (t : Mag) : Nat := searchCode f t (f.w + 1) 0

/-- Random bits of R182 and threshold of R183 for one element. -/
structure Draw where
  u : Nat
  theta : Nat
deriving DecidableEq, Repr

def Draw.zero : Draw := { u := 0, theta := 0 }

/-- Is `hi` chosen (R179, step 3)? -/
def choosesHi (f : Fmt) (rm : Rm) (neg : Bool) (t : Mag) (lo : Nat) (dr : Draw) : Bool :=
  let l := codeMag f lo
  let h := codeMag f (lo + 1)
  let d := if l.isZero then fraction16Zero t h 16 0 else fraction16 t l h
  match rm with
  | .rne =>
    -- t against the middle of l and h: exact when both are dyadic; no tie exists otherwise (R173)
    let l := l.approx; let h := h.approx; let t := t.approx
    let mid : Mag := { n := l.n * h.d + h.n * l.d, d := 2 * l.d * h.d, e8 := 0 }
    if Mag.lt mid t then true else if Mag.lt t mid then false else (lo + 1) % 2 == 0
  | .rtz => false
  | .rup => !neg
  | .rdn => neg
  | .sr => decide (dr.u < d)
  | .dth => decide (dr.theta < d)

/-- Round of R179 and R180 for a finite `t` of a format without its block scale: the pattern and the flags. -/
def roundSat (f : Fmt) (rm : Rm) (neg : Bool) (t : Mag) (dr : Draw) : Nat × Flags :=
  let lo := lowCode f t
  let exact := Mag.eq (codeMag f lo) t
  let c := if exact then lo else if choosesHi f rm neg t lo dr then lo + 1 else lo
  let max := if neg && f.signed then f.maxNeg else f.maxPos
  let under : Flags := match minNormal f with
    | some m => if !t.isZero && Mag.lt t m then flUnderflow else noFlags
    | none => noFlags
  if neg && !f.signed then (if c = 0 then (0, if t.isZero then noFlags else flInexact) else (0, flSaturated ||| flInexact))
  else if max < c then (patternOf f neg max, flSaturated ||| flInexact)
  else (patternOf f neg c, if exact then noFlags else flInexact ||| under)

/-- The NaN path of R178. -/
def writeNan (f : Fmt) : Nat × Flags := (f.nanC.getD 0, flInvalid)

/-- Round of R179 for an infinite `t`. -/
def roundInf (f : Fmt) (neg : Bool) : Nat × Flags :=
  match f.infC with
  | some c => (patternOf f neg c, noFlags)
  | none =>
    if neg && !f.signed then (0, flSaturated ||| flInexact)
    else (patternOf f neg (if neg then f.maxNeg else f.maxPos), flSaturated ||| flInexact)

/-- Is the result tiny after rounding (R110)? -/
def tiny (f : Fmt) (rm : Rm) (neg : Bool) (t : Mag) : Bool :=
  match f.kind with
  | .flt mb _ =>
    let t2 := t.shift 1
    let lo := lowCode f t2
    let c := if Mag.eq (codeMag f lo) t2 then lo else if choosesHi f rm neg t2 lo Draw.zero then lo + 1 else lo
    Mag.lt t (codeMag f (2 ^ mb)) && decide (c < 2 * 2 ^ mb)
  | _ => false

/-- IEEE rounding of a finite magnitude (R110, R111): the pattern and the flags. -/
def roundIeee (f : Fmt) (rm : Rm) (neg : Bool) (t : Mag) : Nat × Flags :=
  let lo := lowCode f t
  let exact := Mag.eq (codeMag f lo) t
  let c := if exact then lo else if choosesHi f rm neg t lo Draw.zero then lo + 1 else lo
  if f.maxPos < c then
    let toInf := match rm with | .rtz => false | .rup => !neg | .rdn => neg | _ => true
    (patternOf f neg (if toInf then f.infC.getD f.maxPos else f.maxPos), flOverflow ||| flInexact)
  else if exact then (patternOf f neg c, noFlags)
  else (patternOf f neg c, if tiny f rm neg t then flInexact ||| flUnderflow else flInexact)

/-- An IEEE result: NaN, infinity or a value to round. -/
def packIeee (f : Fmt) (rm : Rm) (v : Val) : Nat × Flags :=
  match v with
  | .nan sig => (f.nanC.getD 0, if sig then flInvalid else noFlags)
  | .inf neg => (patternOf f neg (f.infC.getD 0), noFlags)
  | .fin neg m => roundIeee f rm neg m

/-! ## Arithmetic on values -/

def Val.isNan : Val → Bool
  | .nan _ => true
  | _ => false

def Val.sig : Val → Bool
  | .nan s => s
  | _ => false

def Val.neg : Val → Val
  | .nan s => .nan s
  | .inf n => .inf (!n)
  | .fin n m => .fin (!n) m

def Val.abs : Val → Val
  | .nan s => .nan s
  | .inf _ => .inf false
  | .fin _ m => .fin false m

def Val.isNeg : Val → Bool
  | .nan _ => false
  | .inf n => n
  | .fin n _ => n

def Val.isZero : Val → Bool
  | .fin _ m => m.isZero
  | _ => false

/-- The signed numerator of a rational magnitude over a common denominator. -/
def sgn (neg : Bool) (n : Nat) : Int := if neg then -(n : Int) else (n : Int)

/-- Exact sum of two finite values without eighths, with the signs of R110: `down` is `rdn`. -/
def addFin (down : Bool) (na : Bool) (a : Mag) (nb : Bool) (b : Mag) : Val :=
  let r : Int := sgn na (a.n * b.d) + sgn nb (b.n * a.d)
  let m : Mag := { n := r.natAbs, d := a.d * b.d, e8 := 0 }
  if r = 0 then
    (if a.isZero && b.isZero && na == nb then .fin na m else .fin down m)
  else .fin (decide (r < 0)) m

/-- A value with the flags raised by the operation itself. -/
abbrev Res := Val × Flags

/-- A signalling NaN among the operands (R112). -/
def sigFlags (vs : List Val) : Flags := if vs.any Val.sig then flInvalid else noFlags

def Val.add (rm : Rm) (a b : Val) : Res :=
  let f := sigFlags [a, b]
  match a, b with
  | .nan _, _ => (.nan false, f)
  | _, .nan _ => (.nan false, f)
  | .inf x, .inf y => if x == y then (.inf x, f) else (.nan false, flInvalid)
  | .inf x, _ => (.inf x, f)
  | _, .inf y => (.inf y, f)
  | .fin na x, .fin nb y => (addFin (rm == .rdn) na x nb y, f)

def Val.mul (a b : Val) : Res :=
  let f := sigFlags [a, b]
  match a, b with
  | .nan _, _ => (.nan false, f)
  | _, .nan _ => (.nan false, f)
  | .inf x, v => if v.isZero then (.nan false, flInvalid) else (.inf (x != v.isNeg), f)
  | v, .inf y => if v.isZero then (.nan false, flInvalid) else (.inf (v.isNeg != y), f)
  | .fin na x, .fin nb y => (.fin (na != nb) (Mag.mul x y), f)

/-- a · b + c with one rounding to come: 0 · ∞ raises invalid even when c is a quiet NaN (R112). -/
def Val.fma (rm : Rm) (a b c : Val) : Res :=
  let p := Val.mul a b
  match p.1 with
  | .nan _ => (.nan false, p.2 ||| sigFlags [c])
  | v => let r := Val.add rm v c; (r.1, p.2 ||| r.2)

/-- A finite non-zero value divided by zero is an infinity and raises nothing (R111). -/
def Val.div (a b : Val) : Res :=
  let f := sigFlags [a, b]
  match a, b with
  | .nan _, _ => (.nan false, f)
  | _, .nan _ => (.nan false, f)
  | .inf _, .inf _ => (.nan false, flInvalid)
  | .inf x, v => (.inf (x != v.isNeg), f)
  | v, .inf y => (.fin (v.isNeg != y) Mag.zero, f)
  | .fin na x, .fin nb y =>
    if y.isZero then (if x.isZero then (.nan false, flInvalid) else (.inf (na != nb), f))
    else (.fin (na != nb) (Mag.div x y), f)

def Val.sqrt (a : Val) : Res :=
  match a with
  | .nan s => (.nan false, if s then flInvalid else noFlags)
  | .inf n => if n then (.nan false, flInvalid) else (.inf false, noFlags)
  | .fin n m => if m.isZero then (.fin n m, noFlags) else if n then (.nan false, flInvalid) else (.fin false m.sqrt, noFlags)

/-- -1, 0 or 1: the order of two values that are no NaN; −0 equals +0. -/
def Val.cmp (a b : Val) : Int :=
  match a, b with
  | .nan _, _ => 0
  | _, .nan _ => 0
  | .inf x, .inf y => if x == y then 0 else if x then -1 else 1
  | .inf x, _ => if x then -1 else 1
  | _, .inf y => if y then 1 else -1
  | .fin na x, .fin nb y =>
    if x.isZero && y.isZero then 0
    else if na != nb then (if x.isZero then (if nb then 1 else -1) else if na then -1 else 1)
    else
      let c : Int := if Mag.lt x y then -1 else if Mag.lt y x then 1 else 0
      if na then -c else c

/-- The lesser operand of R113 is the first, −0 taken as less than +0. -/
def Val.lessEq (a b : Val) : Bool :=
  let c := Val.cmp a b
  decide (c < 0) || (c == 0 && (a.isNeg || !b.isNeg))

/-- The condition of R117 and whether it raises invalid. -/
def fpCond (cond : Cond) (a b : Val) : Bool × Flags :=
  let nan := a.isNan || b.isNan
  let quiet := sigFlags [a, b]
  let loud : Flags := if nan then flInvalid else noFlags
  let c := Val.cmp a b
  match cond with
  | .eq => (!nan && c == 0, quiet)
  | .ne => (nan || c != 0, quiet)
  | .lt => (!nan && decide (c < 0), loud)
  | .ge => (!nan && decide (0 ≤ c), loud)
  | .le => (!nan && decide (c ≤ 0), loud)
  | .gt => (!nan && decide (0 < c), loud)
  | .ord => (!nan, quiet)
  | .uno => (nan, quiet)

/-! ## The elementary functions (R231) -/

/-- The dyadic value x / 2^p. -/
def fixedMag (p : Nat) (x : Int) : Mag := { n := x.natAbs, d := 2 ^ p, e8 := 0 }

/-- Round an enclosed positive value, should both ends round alike. -/
def roundEncl (f : Fmt) (rm : Rm) (neg : Bool) (p : Nat) (e : Encl) (k : Int) : Option (Nat × Flags) :=
  let a := roundIeee f rm neg ((fixedMag p e.1).shift k)
  let b := roundIeee f rm neg ((fixedMag p e.2).shift k)
  if a == b && decide (0 < e.1) then some a else none

/-- 2^x for a finite x: the integer part moves the exponent. -/
def exp2Encl (p : Nat) (neg : Bool) (m : Mag) : Encl × Int :=
  let q : Int := sgn neg m.n
  let k := q / m.d
  let frac := (q % m.d).toNat * 2 ^ p / m.d
  let l := ln2Encl p
  let y := enclMul p ((frac : Int), (frac : Int) + 1) l
  (expEncl p y (p + 4), k)

/-- log2 m as a sign and an enclosure with `p` fraction bits, for a magnitude that is no power of two. -/
def log2Encl (p : Nat) (m : Mag) : Option (Bool × Encl) :=
  let k := m.log2
  let x := (m.shift (-k)).n * 2 ^ (4 * p) / (m.shift (-k)).d
  match log2Bits (4 * p) p ((x : Int), (x : Int) + 1) 0 with
  | some b =>
    let v : Int := k * (2 : Int) ^ p + b
    if 0 ≤ v then some (false, (v, v + 1)) else some (true, (-(v + 1), -v))
  | none => none

/-- tanh m = (e - 1)/(e + 1) with e = 2^(2·m·log2 e); for a large m, 1 - 2/(e + 1). -/
def tanhEncl (p : Nat) (m : Mag) : Encl :=
  let one := (2 : Int) ^ p
  let l := ln2Encl p
  -- 2m / ln 2 as an exponent of 2
  let t : Int := (2 * m.n * 2 ^ (2 * p) / m.d : Nat)
  let qlo := t / l.2
  let qhi := (t + 2) / l.1 + 1
  let k := qlo / one
  let flo := qlo - k * one
  let fhi := min (qhi - k * one) one
  let e := expEncl p (enclMul p (flo, fhi) l) (p + 4)
  let big := (2 : Int) ^ k.toNat
  let n : Encl := (e.1 * big - one, e.2 * big - one)
  let d : Encl := (e.1 * big + one, e.2 * big + one)
  (n.1 * one / d.1, n.2 * one / d.2 + 1)

/-- The first precision of `ps` at which an enclosure decides the rounding. -/
def firstDecided (ps : List Nat) (try1 : Nat → Option (Nat × Flags)) : Option (Nat × Flags) :=
  ps.foldl (fun acc p => match acc with | some r => some r | none => try1 p) none

/-- The precisions tried (DESIGN CHOICE, Assumption 22). -/
def precisions : List Nat := [96, 192, 384]

/-- The result where no precision decides: a free pattern that no proof can see. -/
def undecided (op code : Nat) : Nat × Flags := (Config.undecidedRound op code, flInexact)

/-- Is the magnitude an integer power of two, and of which exponent? -/
def Mag.isPow2 (m : Mag) : Option Int :=
  let k := m.log2
  if Mag.eq (Mag.scaled 1 k) m then some k else none

def elemExp2 (f : Fmt) (rm : Rm) (v : Val) : Nat × Flags :=
  match v with
  | .nan s => packIeee f rm (.nan s)
  | .inf n => packIeee f rm (if n then .fin false Mag.zero else .inf false)
  | .fin n m =>
    if m.isZero then packIeee f rm (.fin false (Mag.scaled 1 0))
    else if Mag.le (Mag.scaled 1 12) m then
      -- beyond every exponent of every format: the rounding of a magnitude as extreme
      packIeee f rm (.fin false (Mag.scaled 1 (if n then -4096 else 4096)))
    else if m.n % m.d = 0 then packIeee f rm (.fin false (Mag.scaled 1 (sgn n (m.n / m.d))))
    else (firstDecided precisions fun p => let r := exp2Encl p n m; roundEncl f rm false p r.1 r.2).getD
      (undecided 0 (m.n * 2 + if n then 1 else 0))

def elemLog2 (f : Fmt) (rm : Rm) (v : Val) : Nat × Flags :=
  match v with
  | .nan s => packIeee f rm (.nan s)
  | .inf n => if n then (f.nanC.getD 0, flInvalid) else packIeee f rm (.inf false)
  | .fin n m =>
    if m.isZero then packIeee f rm (.inf true)
    else if n then (f.nanC.getD 0, flInvalid)
    else match m.isPow2 with
      | some k => packIeee f rm (if k = 0 then .fin false Mag.zero else .fin (decide (k < 0)) (Mag.scaled k.natAbs 0))
      | none => (firstDecided precisions fun p => match log2Encl p m with
          | some (neg, e) => roundEncl f rm neg p e 0
          | none => none).getD (undecided 1 m.n)

def elemRcp (f : Fmt) (rm : Rm) (v : Val) : Nat × Flags :=
  let r := Val.div (.fin false (Mag.scaled 1 0)) v
  let o := packIeee f rm r.1
  (o.1, o.2 ||| r.2)

def elemRsq (f : Fmt) (rm : Rm) (v : Val) : Nat × Flags :=
  match v with
  | .nan s => packIeee f rm (.nan s)
  | .inf n => if n then (f.nanC.getD 0, flInvalid) else packIeee f rm (.fin false Mag.zero)
  | .fin n m =>
    if m.isZero then packIeee f rm (.inf n)
    else if n then (f.nanC.getD 0, flInvalid)
    else packIeee f rm (.fin false (Mag.div (Mag.scaled 1 0) m).sqrt)

def elemTanh (f : Fmt) (rm : Rm) (v : Val) : Nat × Flags :=
  match v with
  | .nan s => packIeee f rm (.nan s)
  | .inf n => packIeee f rm (.fin n (Mag.scaled 1 0))
  | .fin n m =>
    if m.isZero then packIeee f rm (.fin n m)
    else if Mag.le (Mag.scaled 1 6) m then
      -- within 2^-90 of 1 and below it
      packIeee f rm (.fin n { n := 2 ^ 90 - 1, d := 2 ^ 90, e8 := 0 })
    else if Mag.lt m (Mag.scaled 1 (-40)) then
      -- tanh m lies between m - m^3/3 and m: m less one part in 2^78
      packIeee f rm (.fin n { n := m.n * (2 ^ 78 - 1), d := m.d * 2 ^ 78, e8 := 0 })
    else (firstDecided precisions fun p => roundEncl f rm n p (tanhEncl p m) 0).getD (undecided 2 (m.n * 2 + if n then 1 else 0))

/-! ## Random bits (R182) and dither (R183) -/

def mix (z : Word) : Word :=
  let z := (z ^^^ (z >>> 30)) * 0xBF58476D1CE4E5B9
  let z := (z ^^^ (z >>> 27)) * 0x94D049BB133111EB
  z ^^^ (z >>> 31)

/-- Key(purpose, salt) of a tile core. -/
def rngKey (seed : Word) (purpose : Nat) (lcn : Nat) (salt : Word32) : Word :=
  mix (seed ^^^ BitVec.ofNat 64 (purpose * 2 ^ 62) ^^^ BitVec.ofNat 64 (lcn * 2 ^ 40) ^^^ salt.zeroExtend 64)

/-- Key(purpose, salt) of a churn (R363). -/
def churnKey (seed : Word) (purpose pkg c : Nat) (salt : Word32) : Word :=
  mix (seed ^^^ BitVec.ofNat 64 (3 * 2 ^ 62) ^^^ BitVec.ofNat 64 ((pkg * 2 ^ 12 + 32 * purpose + c) * 2 ^ 40) ^^^ salt.zeroExtend 64)

def rngWord (key n : Word) : Word := mix (key + n * 0x9E3779B97F4A7C15)

/-- u of element (r, c) (R182). -/
def roundBits (key : Word) (r c : Nat) : Nat := (rngWord key (BitVec.ofNat 64 (r * 2 ^ 32 + c))).toNat / 2 ^ 48

/-- Reverse the five low bits. -/
def bitReverse5 (n : Nat) : Nat :=
  (n % 2) * 16 + (n / 2 % 2) * 8 + (n / 4 % 2) * 4 + (n / 8 % 2) * 2 + n / 16 % 2

/-- theta of element (r, c): `geom` and `col` are the destination handle's geometry and orientation. -/
def dither (geom : Nat) (col : Bool) (dph : Nat) (r c : Nat) : Nat :=
  let n := if geom = 2 then (r ^^^ c) % 32 else if geom = 1 && col then r % 32 else c % 32
  bitReverse5 ((n + dph) % 32) * 2 ^ 11

/-! ## FP32 helpers of the engines (R177, R246) -/

def f32Val (w : Word32) : Val := valueOf fmtF32 w.toNat

/-- Round to FP32 in `rne`, raising invalid and overflow only. -/
def engineRound (r : Res) : Word32 × Flags :=
  let o := packIeee fmtF32 .rne r.1
  (BitVec.ofNat 32 o.1, (o.2 ||| r.2) &&& (flInvalid ||| flOverflow))

/-- Bits(|v|) of R184. -/
def absBits (v : Val) : Nat :=
  match v with
  | .nan _ => 0x7FC00000
  | v => (packIeee fmtF32 .rne v.abs).1

/-- P(j) of R174. -/
def logP (j : Nat) : Nat :=
  match j with
  | 0 => 0x800000 | 1 => 0x8B95C2 | 2 => 0x9837F0 | 3 => 0xA5FED7 | 4 => 0xB504F3 | 5 => 0xC5672A | 6 => 0xD744FD | _ => 0xEAC0C7

/-- The product of two log elements (R174): formats, patterns and block shifts. -/
def logProduct (fa : Fmt) (a : Nat) (fb : Fmt) (b : Nat) (sa sb : Int) : Val :=
  let ex (f : Fmt) (m : Nat) : Int := match f.kind with | .log u c => ((m : Int) - c) * u | _ => 0
  match valueOf fa a, valueOf fb b with
  | .nan _, _ => .nan false
  | _, .nan _ => .nan false
  | va, vb =>
    let ma := a % 2 ^ (fa.w - 1)
    let mb := b % 2 ^ (fb.w - 1)
    if ma = 0 || mb = 0 then .fin false Mag.zero
    else
      let e := ex fa ma + ex fb mb
      .fin (va.isNeg != vb.isNeg) (Mag.scaled (logP (e % 8).toNat) (e / 8 + sa + sb - 23))

end Machine
end Sys2Proof
end

