-- ==== Sys2Proof/WellFormed.lean ====
section
/-! DEFINITION. Which instruction terms are instruction words of the Z4: the limits of step 4 of R73 that a word alone decides.
A limit that depends on the core that runs the word (a control-register number, `tlbi`, `qget` on a tile core) is no part of it:
the meaning of that instruction checks it. -/

namespace Sys2Proof

/-- Memory, atomic and fence words accept scopes 1 to 5 only (R74). -/
def Scope.memory : Scope → Bool
  | .lane => false
  | _ => true

/-- Scalar floating instructions and the vector arithmetic ones accept rounding codes 0 to 3 (R110, R227). -/
def Rm.ieee : Rm → Bool
  | .sr | .dth => false
  | _ => true

/-- The signed integer types (R74). -/
def ITy.signed : ITy → Bool
  | .s8 | .s16 | .s32 | .s64 => true
  | _ => false

/-- The width in bits of an integer type (R74). -/
def ITy.width : ITy → Nat
  | .s8 | .n8 => 8
  | .s16 | .n16 => 16
  | .s32 | .n32 => 32
  | .s64 | .n64 => 64

/-- Two integer kinds do not convert into one another (R114). -/
def FcvtR.wf (o : FcvtR) : Bool :=
  o.rm.ieee && !(match o.dst, o.src with | .int _, .int _ => true | _, _ => false)

/-- An operand slot that holds a scalar register. -/
def VOp.scalar : VOp → Bool
  | .x _ => true
  | .h _ => false

/-- A shift amount of an immediate form lies in 0 to 63 (R76). -/
def IntI.shiftWf (o : IntI) : Bool := o.imm.toNat < 64

/-- `fadd` takes the widths written `.f32` (ty 2) and `.f64` (ty 3) only (R320). -/
def amoTyWf (op : AmoOp) (ty : ITy) : Bool :=
  op != .fadd || ty == .s32 || ty == .s64

/-- The check that a term is an instruction word, or a step of a unit. -/
def Instr.wf : Instr → Bool
  | .sllImm _ o | .srlImm _ o | .sraImm _ o | .rotImm _ o => o.shiftWf
  | .sext _ o => o.ty.signed
  | .zext _ o => !o.ty.signed
  | .fadd _ o | .fsub _ o | .fmul _ o | .fdiv _ o => o.rm.ieee
  | .fma _ o => o.rm.ieee
  | .fsqrt _ o => o.rm.ieee
  | .fcvt _ o => o.wf
  | .cmp _ o => o.cond != .ord && o.cond != .uno
  | .ld _ o | .st _ o => o.scope.memory && !o.take
  | .lds _ o => o.scope.memory && o.hint == .keep
  | .stf _ o => o.scope.memory && o.hint == .keep && !o.take
  | .ldc _ o => o.scope.memory && !o.ord && !o.take
  | .pref _ o => o.scope.memory && o.hint != .nofill
  | .clean _ o | .inval _ o => o.scope.memory && o.hint == .keep
  | .amo _ o => o.scope.memory && amoTyWf o.op o.ty
  | .cas _ o => o.scope.memory
  | .red _ o => o.scope.memory && amoTyWf o.op o.ty && o.op != .swap && (o.ord == .plain || o.ord == .rel)
  | .fence _ o => o.scope.memory && (o.ld || o.st || o.acq || o.rel || o.sc || o.ro || o.eng)
  | .push _ _ cb | .pushTry _ _ cb _ _ => cb != 0
  | .hset _ _ f _ | .hget _ _ _ f => f != 15
  | .hld _ o | .hst _ o => o.scope.memory
  | .vadd _ o | .vsub _ o | .vmul _ o => o.rm.ieee && !(o.a.scalar && o.b.scalar)
  | .vfma _ o => o.rm.ieee && !(o.b.scalar && o.c.scalar)
  | .vmin _ o | .vmax _ o => !(o.a.scalar && o.b.scalar)
  | .vexp2 _ o | .vlog2 _ o | .vrcp _ o | .vrsq _ o | .vtanh _ o => o.rm.ieee
  | .vquant _ o => (match o.amax with | some (_, s) => s.memory | none => true)
  | .vred _ o => o.rm.ieee
  | .vamax _ o => o.rm == .rne
  | .vsel _ o => !(o.a.scalar && o.b.scalar)
  | .tlbi _ _ _ s => s.memory
  | .safe _ m => fld m 61 3 == 0
  | .qget _ rd _ _ _ => fld rd 0 2 == 0 && rd != 0
  | _ => true

end Sys2Proof
end

