-- ==== Sys2Proof/Decode.lean ====
section
/-! DEFINITION. The decoder of R71 to R86, total on every word and on every list of bytes, which rejects by name in the order of
R73, and after it an encoder written from the same tables. -/

namespace Sys2Proof

/-- Why a word is no instruction (R73). Every one of them traps ILLEGAL. -/
inductive DecodeError where
  /-- Step 1: the major opcode is unassigned (R85). -/
  | opcode
  /-- Step 2: a sub-function is unassigned (R85). -/
  | subFunction
  /-- Step 3: a `res0` or unused field is not zero (R11). -/
  | reserved
  /-- Step 4: a code or a limit (R74, R75 to R84). -/
  | code
  /-- Fewer bytes than the instruction has. -/
  | truncated
deriving DecidableEq, Repr

/-! ## Codes -/

def ITy.code : ITy → BitVec 3
  | .s8 => 0 | .s16 => 1 | .s32 => 2 | .s64 => 3 | .n8 => 4 | .n16 => 5 | .n32 => 6 | .n64 => 7

def ITy.ofCode (c : BitVec 3) : ITy :=
  match c.toNat with
  | 0 => .s8 | 1 => .s16 | 2 => .s32 | 3 => .s64 | 4 => .n8 | 5 => .n16 | 6 => .n32 | _ => .n64

def FTy.code : FTy → BitVec 3
  | .f32 => 0 | .f64 => 1

def FTy.ofCode (c : BitVec 3) : Option FTy :=
  match c.toNat with
  | 0 => some .f32 | 1 => some .f64 | _ => none

def Kind.code : Kind → BitVec 4
  | .int t => 0#1 ++ t.code | .f32 => 8 | .f64 => 9

def Kind.ofCode (c : BitVec 4) : Option Kind :=
  match c.toNat with
  | 8 => some .f32 | 9 => some .f64
  | n => if n < 8 then some (.int (ITy.ofCode (fld c 0 3))) else none

def Rm.code : Rm → BitVec 3
  | .rne => 0 | .rtz => 1 | .rup => 2 | .rdn => 3 | .sr => 4 | .dth => 5

def Rm.ofCode (c : BitVec 3) : Option Rm :=
  match c.toNat with
  | 0 => some .rne | 1 => some .rtz | 2 => some .rup | 3 => some .rdn | 4 => some .sr | 5 => some .dth | _ => none

def Wm.code : Wm → BitVec 2
  | .set => 0 | .clr => 1 | .and => 2 | .or => 3

def Wm.ofCode (c : BitVec 2) : Wm :=
  match c.toNat with
  | 0 => .set | 1 => .clr | 2 => .and | _ => .or

def Cond.code : Cond → BitVec 4
  | .eq => 0 | .ne => 1 | .lt => 2 | .ge => 3 | .le => 4 | .gt => 5 | .ord => 6 | .uno => 7

def Cond.ofCode (c : BitVec 4) : Option Cond :=
  match c.toNat with
  | 0 => some .eq | 1 => some .ne | 2 => some .lt | 3 => some .ge | 4 => some .le | 5 => some .gt | 6 => some .ord
  | 7 => some .uno | _ => none

def Scope.code : Scope → BitVec 3
  | .lane => 0 | .core => 1 | .tile => 2 | .die => 3 | .package => 4 | .pod => 5

def Scope.ofCode (c : BitVec 3) : Option Scope :=
  match c.toNat with
  | 0 => some .lane | 1 => some .core | 2 => some .tile | 3 => some .die | 4 => some .package | 5 => some .pod | _ => none

def Hint.code : Hint → BitVec 2
  | .keep => 0 | .stream => 1 | .nofill => 2

def Hint.ofCode (c : BitVec 2) : Option Hint :=
  match c.toNat with
  | 0 => some .keep | 1 => some .stream | 2 => some .nofill | _ => none

def AOrd.code : AOrd → BitVec 2
  | .plain => 0 | .acq => 1 | .rel => 2 | .acqRel => 3

def AOrd.ofCode (c : BitVec 2) : AOrd :=
  match c.toNat with
  | 0 => .plain | 1 => .acq | 2 => .rel | _ => .acqRel

def AmoOp.code : AmoOp → BitVec 4
  | .swap => 0 | .add => 1 | .and => 2 | .or => 3 | .xor => 4 | .min => 5 | .max => 6 | .fadd => 7

def AmoOp.ofCode (c : BitVec 4) : Option AmoOp :=
  match c.toNat with
  | 0 => some .swap | 1 => some .add | 2 => some .and | 3 => some .or | 4 => some .xor | 5 => some .min | 6 => some .max
  | 7 => some .fadd | _ => none

def QName.code : QName → BitVec 5
  | .mxq => 0 | .cpq => 1 | .clq => 2 | .ofq => 3 | .gq n => 4 + n.zeroExtend 5 | .lnq => 12

def QName.ofCode (c : BitVec 5) : Option QName :=
  match c.toNat with
  | 0 => some .mxq | 1 => some .cpq | 2 => some .clq | 3 => some .ofq | 12 => some .lnq
  | n => if n < 12 then some (.gq ((c - 4).truncate 3)) else none

/-- One bit as a field. -/
abbrev bit1 (b : Bool) : BitVec 1 := BitVec.ofBool b

/-! ## The decoder -/

/-- A decoding step that may fail. -/
abbrev Dec (α : Type) := Except DecodeError α

/-- Fail with `e` unless `b` holds. -/
def need {α : Type} (b : Bool) (e : DecodeError) (k : Dec α) : Dec α :=
  if b then k else .error e

/-- Read a code that may be reserved: step 4 of R73. -/
def code {α β : Type} (o : Option α) (k : α → Dec β) : Dec β :=
  match o with
  | some a => k a
  | none => .error .code

/-- The result, when it meets the limits of step 4. -/
def limit (i : Instr) : Dec Instr := need i.wf .code (.ok i)

def Guard.ofWord (w : Word) : Guard :=
  { t := fld w 56 8, a := fld w 53 3, b := fld w 50 3, c := fld w 47 3 }

/-- Format R3 with register operands only: rc, rm, fn and ord are unused (R102). -/
def decIntR (k : IntR → Instr) (w : Word) : Dec Instr :=
  need (fld w 20 5 == 0 && fld w 0 17 == 0) .reserved <|
  limit (k { rd := fld w 35 5, ra := fld w 30 5, rb := fld w 25 5, ty := ITy.ofCode (fld w 17 3) })

/-- `min` and `max` in register form: fn selects (R85). -/
def decMinMax (g : Guard) (w : Word) : Dec Instr :=
  let o : IntR := { rd := fld w 35 5, ra := fld w 30 5, rb := fld w 25 5, ty := ITy.ofCode (fld w 17 3) }
  let fn := fld w 10 4
  need (fn == 0 || fn == 1) .subFunction <|
  need (fld w 20 5 == 0 && fld w 14 3 == 0 && fld w 0 10 == 0) .reserved <|
  limit (if fn == 0 then .min g o else .max g o)

/-- The one-source operations: fn selects (R105). -/
def decIntU (g : Guard) (w : Word) : Dec Instr :=
  let o : IntU := { rd := fld w 35 5, ra := fld w 30 5, ty := ITy.ofCode (fld w 17 3) }
  let fn := fld w 10 4
  need (fn.toNat < 5) .subFunction <|
  need (fld w 20 10 == 0 && fld w 14 3 == 0 && fld w 0 10 == 0) .reserved <|
  limit (match fn.toNat with
    | 0 => .clz g o | 1 => .ctz g o | 2 => .popc g o | 3 => .sext g o | _ => .zext g o)

/-- Format I with sub = 0 (R76). -/
def decIntI (k : IntI → Instr) (w : Word) : Dec Instr :=
  need (fld w 24 3 == 0) .subFunction <|
  limit (k { rd := fld w 35 5, ra := fld w 30 5, ty := ITy.ofCode (fld w 27 3), imm := fld w 0 24 })

/-- Opcode 0x1A: sub selects `min` or `max` (R76). -/
def decMinMaxI (g : Guard) (w : Word) : Dec Instr :=
  let o : IntI := { rd := fld w 35 5, ra := fld w 30 5, ty := ITy.ofCode (fld w 27 3), imm := fld w 0 24 }
  let sub := fld w 24 3
  need (sub == 0 || sub == 1) .subFunction <|
  limit (if sub == 0 then .minImm g o else .maxImm g o)

/-- Format M of `lea`, `msend` and `mrecv`: ty, ord, scope, hint and take are 0 (R107, R139). -/
def decAddrM (k : AddrM → Instr) (w : Word) : Dec Instr :=
  need (fld w 20 10 == 0) .reserved <|
  limit (k { r := fld w 35 5, rb := fld w 30 5, disp := fld w 0 20 })

/-- Format R3 of the two-source floating operations (R112). -/
def decFloatR (k : FloatR → Instr) (w : Word) : Dec Instr :=
  need (fld w 20 5 == 0 && fld w 0 14 == 0) .reserved <|
  code (FTy.ofCode (fld w 17 3)) fun ty =>
  code (Rm.ofCode (fld w 14 3)) fun rm =>
  limit (k { rd := fld w 35 5, ra := fld w 30 5, rb := fld w 25 5, ty := ty, rm := rm })

def decFma (g : Guard) (w : Word) : Dec Instr :=
  need (fld w 0 14 == 0) .reserved <|
  code (FTy.ofCode (fld w 17 3)) fun ty =>
  code (Rm.ofCode (fld w 14 3)) fun rm =>
  limit (.fma g { rd := fld w 35 5, ra := fld w 30 5, rb := fld w 25 5, rc := fld w 20 5, ty := ty, rm := rm })

def decFsqrt (g : Guard) (w : Word) : Dec Instr :=
  need (fld w 20 10 == 0 && fld w 0 14 == 0) .reserved <|
  code (FTy.ofCode (fld w 17 3)) fun ty =>
  code (Rm.ofCode (fld w 14 3)) fun rm =>
  limit (.fsqrt g { rd := fld w 35 5, ra := fld w 30 5, ty := ty, rm := rm })

def decFmin (k : FminR → Instr) (w : Word) : Dec Instr :=
  need (fld w 20 5 == 0 && fld w 0 17 == 0) .reserved <|
  code (FTy.ofCode (fld w 17 3)) fun ty =>
  limit (k { rd := fld w 35 5, ra := fld w 30 5, rb := fld w 25 5, ty := ty })

/-- `fcvt`: fn holds the destination kind and rc<3:0> the source kind (R114). -/
def decFcvt (g : Guard) (w : Word) : Dec Instr :=
  need (fld w 25 5 == 0 && fld w 24 1 == 0 && fld w 17 3 == 0 && fld w 0 10 == 0) .reserved <|
  code (Kind.ofCode (fld w 10 4)) fun dst =>
  code (Kind.ofCode (fld w 20 4)) fun src =>
  code (Rm.ofCode (fld w 14 3)) fun rm =>
  limit (.fcvt g { rd := fld w 35 5, ra := fld w 30 5, dst := dst, src := src, rm := rm })

def decFclass (g : Guard) (w : Word) : Dec Instr :=
  need (fld w 20 10 == 0 && fld w 0 17 == 0) .reserved <|
  code (FTy.ofCode (fld w 17 3)) fun ty =>
  limit (.fclass g { rd := fld w 35 5, ra := fld w 30 5, ty := ty })

/-- `cmp` (R116): rb is 0 with an immediate, and imm14 is 0 without one (R80). -/
def decCmp (g : Guard) (w : Word) : Dec Instr :=
  let im := fld w 14 1
  need (if im == 1 then fld w 18 5 == 0 else fld w 0 14 == 0) .reserved <|
  code (Cond.ofCode (fld w 28 4)) fun cond =>
  limit (.cmp g { pt := fld w 37 3, pf := fld w 34 3, wm := Wm.ofCode (fld w 32 2), cond := cond, ra := fld w 23 5,
                  b := if im == 1 then .imm (fld w 0 14) else .reg (fld w 18 5), ty := ITy.ofCode (fld w 15 3) })

def decFcmp (g : Guard) (w : Word) : Dec Instr :=
  need (fld w 0 15 == 0) .reserved <|
  code (Cond.ofCode (fld w 28 4)) fun cond =>
  code (FTy.ofCode (fld w 15 3)) fun ty =>
  limit (.fcmp g { pt := fld w 37 3, pf := fld w 34 3, wm := Wm.ofCode (fld w 32 2), cond := cond, ra := fld w 23 5,
                   rb := fld w 18 5, ty := ty })

/-- `tbit` (R118): im = 1, rb, ty and imm14<13:6> are 0, cond is 0 or 1. -/
def decTbit (g : Guard) (w : Word) : Dec Instr :=
  need (fld w 15 8 == 0 && fld w 6 8 == 0) .reserved <|
  need (fld w 14 1 == 1 && (fld w 28 4 == 0 || fld w 28 4 == 1)) .code <|
  limit (.tbit g { pt := fld w 37 3, pf := fld w 34 3, wm := Wm.ofCode (fld w 32 2), zero := fld w 28 4 == 1,
                   ra := fld w 23 5, n := fld w 0 6 })

def decPlog (g : Guard) (w : Word) : Dec Instr :=
  need (fld w 32 5 == 0 && fld w 0 15 == 0) .reserved <|
  limit (.plog g { pd := fld w 37 3, table := fld w 24 8, sa := fld w 21 3, sb := fld w 18 3, sc := fld w 15 3 })

/-- `pmov` (R120): dir selects. -/
def decPmov (g : Guard) (w : Word) : Dec Instr :=
  let dir := fld w 28 4
  need (dir == 0 || dir == 1) .subFunction <|
  need (fld w 32 8 == 0 && fld w 0 23 == 0) .reserved <|
  limit (if dir == 0 then .pmovToX g (fld w 23 5) else .pmovToPr g (fld w 23 5))

/-- Format M of a scalar memory access (R79). `take` is a used bit only in `lds` (R135). -/
def decMemM (k : MemM → Instr) (takes : Bool) (w : Word) : Dec Instr :=
  need (takes || fld w 20 1 == 0) .reserved <|
  code (Scope.ofCode (fld w 23 3)) fun scope =>
  code (Hint.ofCode (fld w 21 2)) fun hint =>
  limit (k { r := fld w 35 5, rb := fld w 30 5, ty := ITy.ofCode (fld w 27 3), ord := fld w 26 1 == 1, scope := scope,
             hint := hint, take := fld w 20 1 == 1, disp := fld w 0 20 })

/-- Format M of `pref`, `clean` and `inval`: rd, ty, ord and take are 0 (R132, R133). -/
def decBlockM (k : BlockM → Instr) (w : Word) : Dec Instr :=
  need (fld w 35 5 == 0 && fld w 26 4 == 0 && fld w 20 1 == 0) .reserved <|
  code (Scope.ofCode (fld w 23 3)) fun scope =>
  code (Hint.ofCode (fld w 21 2)) fun hint =>
  limit (k { rb := fld w 30 5, scope := scope, hint := hint, disp := fld w 0 20 })

def decAmo (g : Guard) (w : Word) : Dec Instr :=
  need (fld w 10 4 < 8) .subFunction <|
  code (AmoOp.ofCode (fld w 10 4)) fun op =>
  need (fld w 20 5 == 0 && fld w 0 8 == 0) .reserved <|
  code (Scope.ofCode (fld w 14 3)) fun scope =>
  limit (.amo g { rd := fld w 35 5, ra := fld w 30 5, rb := fld w 25 5, ty := ITy.ofCode (fld w 17 3), scope := scope,
                  op := op, ord := AOrd.ofCode (fld w 8 2) })

def decCas (g : Guard) (w : Word) : Dec Instr :=
  need (fld w 10 4 == 0) .subFunction <|
  need (fld w 0 8 == 0) .reserved <|
  code (Scope.ofCode (fld w 14 3)) fun scope =>
  limit (.cas g { rd := fld w 35 5, ra := fld w 30 5, rb := fld w 25 5, rc := fld w 20 5, ty := ITy.ofCode (fld w 17 3),
                  scope := scope, ord := AOrd.ofCode (fld w 8 2) })

def decRed (g : Guard) (w : Word) : Dec Instr :=
  need (fld w 10 4 != 0 && fld w 10 4 < 8) .subFunction <|
  code (AmoOp.ofCode (fld w 10 4)) fun op =>
  need (fld w 35 5 == 0 && fld w 20 5 == 0 && fld w 0 8 == 0) .reserved <|
  code (Scope.ofCode (fld w 14 3)) fun scope =>
  limit (.red g { ra := fld w 30 5, rb := fld w 25 5, ty := ITy.ofCode (fld w 17 3), scope := scope, op := op,
                  ord := AOrd.ofCode (fld w 8 2) })

def decFence (g : Guard) (w : Word) : Dec Instr :=
  need (fld w 0 30 == 0) .reserved <|
  code (Scope.ofCode (fld w 37 3)) fun scope =>
  limit (.fence g { scope := scope, ld := fld w 36 1 == 1, st := fld w 35 1 == 1, acq := fld w 34 1 == 1,
                    rel := fld w 33 1 == 1, sc := fld w 32 1 == 1, ro := fld w 31 1 == 1, eng := fld w 30 1 == 1 })

/-- `bmask` and `bmask.rd` (R316): dir selects. -/
def decBmask (g : Guard) (w : Word) : Dec Instr :=
  need (fld w 0 28 == 0) .reserved <|
  limit (if fld w 28 1 == 0 then .bmask g (fld w 34 6) (fld w 29 5) else .bmaskRd g (fld w 34 6) (fld w 29 5))

/-- `push` and `push.try` (R83): pt and pf are 0 unless try is 1. -/
def decPush (g : Guard) (w : Word) : Dec Instr :=
  need (fld w 0 20 == 0) .reserved <|
  need (fld w 20 5 == 0 && (fld w 25 1 == 1 || fld w 26 6 == 0)) .code <|
  code (QName.ofCode (fld w 35 5)) fun q =>
  limit (if fld w 25 1 == 1 then .pushTry g q (fld w 32 3) (fld w 29 3) (fld w 26 3) else .push g q (fld w 32 3))

def decQstat (g : Guard) (w : Word) : Dec Instr :=
  need (fld w 0 20 == 0) .reserved <|
  need (fld w 25 10 == 0) .code <|
  code (QName.ofCode (fld w 35 5)) fun q =>
  limit (.qstat g q (fld w 20 5))

def decWait (g : Guard) (w : Word) : Dec Instr :=
  need (fld w 0 20 == 0) .reserved <|
  limit (.wait g { ld := fld w 36 4, st := fld w 32 4, vx := fld w 28 4, cp := fld w 24 4, tl := fld w 20 4 })

/-- The tag waits (R199): fn selects, and each uses its own fields. -/
def decTagWait (g : Guard) (w : Word) : Dec Instr :=
  let rd := fld w 33 5
  let ra := fld w 28 5
  let tag := fld w 22 6
  match (fld w 38 2).toNat with
  | 0 => need (rd == 0 && ra == 0 && fld w 0 22 == 0) .reserved <| limit (.twait g tag)
  | 1 => need (tag == 0 && fld w 0 22 == 0) .reserved <| limit (.tany g rd ra)
  | 2 => need (tag == 0 && fld w 0 22 == 0) .reserved <| limit (.tfind g rd ra)
  | _ => .error .subFunction

/-- The arming instructions (R143): fn selects. -/
def decArrival (g : Guard) (w : Word) : Dec Instr :=
  let obj := fld w 32 6
  let ra := fld w 27 5
  match (fld w 38 2).toNat with
  | 0 => need (fld w 0 27 == 0) .reserved <| limit (.abinit g obj ra)
  | 1 => need (fld w 0 27 == 0) .reserved <| limit (.abinitReset g obj ra)
  | 2 => need (ra == 0 && fld w 0 27 == 0) .reserved <| limit (.abwait g obj)
  | _ => .error .subFunction

/-- The handle instructions (R189): fn selects, unused fields are 0. -/
def decHandleR (g : Guard) (w : Word) : Dec Instr :=
  let h := fld w 34 4
  let hs := fld w 30 4
  let x := fld w 25 5
  let f := fld w 21 4
  need (fld w 0 21 == 0) .reserved <|
  match (fld w 38 2).toNat with
  | 0 => need (hs == 0) .reserved <| limit (.hset g h f x)
  | 1 => need (hs == 0) .reserved <| limit (.hget g x h f)
  | 2 => need (x == 0 && f == 0) .reserved <| limit (.hmov g h hs)
  | _ => need (hs == 0 && f == 0) .reserved <| limit (.hadv g h x)

/-- `hld` and `hst` (R81, R190). -/
def decHandleM (g : Guard) (w : Word) : Dec Instr :=
  need (fld w 27 3 == 0 && fld w 20 1 == 0) .reserved <|
  code (Scope.ofCode (fld w 23 3)) fun scope =>
  code (Hint.ofCode (fld w 21 2)) fun hint =>
  let o : HandleM := { h := fld w 35 4, rb := fld w 30 5, ord := fld w 26 1 == 1, scope := scope, hint := hint, disp := fld w 0 20 }
  limit (if fld w 39 1 == 0 then .hld g o else .hst g o)

/-! ### Format V -/

/-- The destination handle and its mark. -/
def vDest (w : Word) : VHandle := { h := fld w 36 4, adv := fld w 35 1 == 1 }

/-- An operand slot of seven bits (R82): kind, number, mark. -/
def vSlot (s : BitVec 7) : Option VOp :=
  if fld s 6 1 == 1 then
    (if fld s 0 1 == 0 then some (.x (fld s 1 5)) else none)
  else
    (if fld s 5 1 == 0 then some (.h { h := fld s 1 4, adv := fld s 0 1 == 1 }) else none)

/-- A slot whose kind must be a handle. -/
def vSlotH (s : BitVec 7) : Option VHandle :=
  match vSlot s with
  | some (.h v) => some v
  | _ => none

/-- A slot whose kind must be a scalar register. -/
def vSlotX (s : BitVec 7) : Option XReg :=
  match vSlot s with
  | some (.x r) => some r
  | _ => none

/-- A slot that names a vector predicate: kind 0, number in <2:0>, mark 0. -/
def vSlotP (s : BitVec 7) : Option PReg :=
  if fld s 4 3 == 0 && fld s 0 1 == 0 then some (fld s 1 3) else none

def slotA (w : Word) : BitVec 7 := fld w 28 7
def slotB (w : Word) : BitVec 7 := fld w 21 7
def slotC (w : Word) : BitVec 7 := fld w 14 7
def vFn (w : Word) : BitVec 4 := fld w 7 4
def vAux (w : Word) : BitVec 7 := fld w 0 7
def vRm (w : Word) : BitVec 3 := fld w 11 3

def decVecR2 (k : VecR2 → Instr) (w : Word) : Dec Instr :=
  need (vFn w == 0) .subFunction <|
  need (slotC w == 0 && vAux w == 0) .reserved <|
  code (vSlot (slotA w)) fun a => code (vSlot (slotB w)) fun b => code (Rm.ofCode (vRm w)) fun rm =>
  limit (k { d := vDest w, a := a, b := b, rm := rm })

def decVfma (g : Guard) (w : Word) : Dec Instr :=
  need (vFn w == 0) .subFunction <|
  need (vAux w == 0) .reserved <|
  code (vSlotH (slotA w)) fun a => code (vSlot (slotB w)) fun b => code (vSlot (slotC w)) fun c =>
  code (Rm.ofCode (vRm w)) fun rm => limit (.vfma g { d := vDest w, a := a, b := b, c := c, rm := rm })

def decVmin (g : Guard) (w : Word) : Dec Instr :=
  need (vFn w == 0 || vFn w == 1) .subFunction <|
  need (slotC w == 0 && vAux w == 0) .reserved <|
  need (vRm w == 0) .code <|
  code (vSlot (slotA w)) fun a => code (vSlot (slotB w)) fun b =>
  let o : VecMin := { d := vDest w, a := a, b := b }
  limit (if vFn w == 0 then .vmin g o else .vmax g o)

def decVabs (g : Guard) (w : Word) : Dec Instr :=
  need (vFn w == 0 || vFn w == 1) .subFunction <|
  need (slotB w == 0 && slotC w == 0 && vAux w == 0) .reserved <|
  need (vRm w == 0) .code <|
  code (vSlotH (slotA w)) fun a =>
  let o : VecU := { d := vDest w, a := a }
  limit (if vFn w == 0 then .vabs g o else .vneg g o)

def decVecF (g : Guard) (w : Word) : Dec Instr :=
  need ((vFn w).toNat < 5) .subFunction <|
  need (slotB w == 0 && slotC w == 0 && vAux w == 0) .reserved <|
  code (vSlotH (slotA w)) fun a => code (Rm.ofCode (vRm w)) fun rm =>
  let o : VecF := { d := vDest w, a := a, rm := rm }
  limit (match (vFn w).toNat with
    | 0 => .vexp2 g o | 1 => .vlog2 g o | 2 => .vrcp g o | 3 => .vrsq g o | _ => .vtanh g o)

/-- A scalar slot that is present when its aux bit is 1 and zero otherwise (R232). -/
def optX {β : Type} (present : Bool) (s : BitVec 7) (k : Option XReg → Dec β) : Dec β :=
  if present then code (vSlotX s) fun r => k (some r) else need (s == 0) .reserved (k none)

def decVcvt (g : Guard) (w : Word) : Dec Instr :=
  need (vFn w == 0) .subFunction <|
  need (fld w 2 5 == 0) .reserved <|
  code (vSlotH (slotA w)) fun a =>
  optX (fld w 0 1 == 1) (slotB w) fun sc =>
  optX (fld w 1 1 == 1) (slotC w) fun cl =>
  code (Rm.ofCode (vRm w)) fun rm => limit (.vcvt g { d := vDest w, a := a, scale := sc, clip := cl, rm := rm })

def decVquant (g : Guard) (w : Word) : Dec Instr :=
  need (vFn w == 0) .subFunction <|
  need (fld w 6 1 == 0) .reserved <|
  code (vSlotH (slotA w)) fun a =>
  optX (fld w 0 1 == 1) (slotB w) fun sc =>
  optX (fld w 2 1 == 1) (slotC w) fun am =>
  code (Rm.ofCode (vRm w)) fun rm =>
  match am with
  | none =>
    need (fld w 3 3 == 0) .code <|
    limit (.vquant g { d := vDest w, a := a, scale := sc, calcScales := fld w 1 1 == 1, amax := none, rm := rm })
  | some x =>
    code (Scope.ofCode (fld w 3 3)) fun s =>
    limit (.vquant g { d := vDest w, a := a, scale := sc, calcScales := fld w 1 1 == 1, amax := some (x, s), rm := rm })

/-- `vamax` (fn 0) and `vred` (fn 1): xd is in aux<4:0> (R234). -/
def decVred (g : Guard) (w : Word) : Dec Instr :=
  need (vFn w == 0 || vFn w == 1) .subFunction <|
  need (fld w 35 5 == 0 && slotC w == 0 && fld w 5 2 == 0) .reserved <|
  code (vSlotH (slotA w)) fun a => code (vSlotX (slotB w)) fun x => code (Rm.ofCode (vRm w)) fun rm =>
  let o : VecRed := { rd := fld w 0 5, a := a, xb := x, rm := rm }
  limit (if vFn w == 0 then .vamax g o else .vred g o)

/-- `vcmp` (R82, R235): cond in fn, vpf in aux<6:4>, wm in aux<3:2>. -/
def decVcmp (g : Guard) (w : Word) : Dec Instr :=
  need (fld w 35 1 == 0 && fld w 39 1 == 0 && slotC w == 0 && fld w 0 2 == 0) .reserved <|
  need (vRm w == 0) .code <|
  code (Cond.ofCode (vFn w)) fun cond => code (vSlotH (slotA w)) fun a => code (vSlot (slotB w)) fun b =>
  limit (.vcmp g { pt := fld w 36 3, pf := fld w 4 3, wm := Wm.ofCode (fld w 2 2), cond := cond, a := a, b := b })

def decVsel (g : Guard) (w : Word) : Dec Instr :=
  need (vFn w == 0) .subFunction <|
  need (vAux w == 0) .reserved <|
  need (vRm w == 0) .code <|
  code (vSlotP (slotC w)) fun sel => code (vSlot (slotA w)) fun a => code (vSlot (slotB w)) fun b =>
  limit (.vsel g { d := vDest w, sel := sel, a := a, b := b })

def decVperm (g : Guard) (w : Word) : Dec Instr :=
  need (vFn w == 0 || vFn w == 1) .subFunction <|
  need (slotC w == 0 && vAux w == 0) .reserved <|
  need (vRm w == 0) .code <|
  code (vSlotH (slotA w)) fun a =>
  if vFn w == 0 then code (vSlotH (slotB w)) fun ix => limit (.vperm g { d := vDest w, a := a, ix := ix })
  else code (vSlotX (slotB w)) fun x => limit (.vbcast g { d := vDest w, a := a, x := x })

def decVmov (g : Guard) (w : Word) : Dec Instr :=
  need ((vFn w).toNat < 3) .subFunction <|
  need (slotB w == 0 && slotC w == 0 && vAux w == 0) .reserved <|
  need (vRm w == 0) .code <|
  match (vFn w).toNat with
  | 2 => need (slotA w == 0) .reserved <| limit (.vempty g (vDest w))
  | n => code (vSlot (slotA w)) fun a =>
         let o : VecMov := { d := vDest w, a := a }
         limit (if n == 0 then .vmov g o else .vfill g o)

/-- `vplog` (R82, R239): the table in [14:7], the selectors in an<2:0>, bn<2:0> and cn<2:0>. -/
def decVplog (g : Guard) (w : Word) : Dec Instr :=
  need (fld w 39 1 == 0 && fld w 35 1 == 0 && fld w 32 3 == 0 && fld w 28 1 == 0 && fld w 25 3 == 0 && fld w 21 1 == 0
        && fld w 18 3 == 0 && fld w 0 7 == 0) .reserved <|
  limit (.vplog g { pd := fld w 36 3, table := fld w 7 8, sa := fld w 29 3, sb := fld w 22 3, sc := fld w 15 3 })

/-- The vector-predicate moves (R240): the scalar register is in slot b, the predicate source in slot a. -/
def decVpred (g : Guard) (w : Word) : Dec Instr :=
  let q := fld w 0 2
  need ((vFn w).toNat < 4) .subFunction <|
  need (slotC w == 0 && fld w 3 4 == 0) .reserved <|
  need (vRm w == 0) .code <|
  code (vSlotX (slotB w)) fun x =>
  match (vFn w).toNat with
  | 2 => need (slotA w == 0 && fld w 35 1 == 0 && fld w 39 1 == 0) .reserved <|
         limit (.vpmovFromX g { pd := fld w 36 3, q := q, keep := fld w 2 1 == 1, x := x })
  | 3 => need (fld w 35 5 == 0 && fld w 2 1 == 0) .reserved <|
         code (vSlotP (slotA w)) fun a => limit (.vpmovToX g { rd := x, q := q, a := a })
  | n => need (fld w 35 5 == 0 && fld w 0 3 == 0) .reserved <|
         code (vSlotP (slotA w)) fun a =>
         limit (if n == 0 then .vpcnt g { rd := x, a := a } else .vpfirst g { rd := x, a := a })

/-! ### Format S groups -/

def decCsr (g : Guard) (w : Word) : Dec Instr :=
  let o : CsrS := { rd := fld w 33 5, ra := fld w 28 5, csr := fld w 16 12 }
  need (fld w 0 16 == 0) .reserved <|
  match (fld w 38 2).toNat with
  | 0 => need (o.ra == 0) .reserved <| limit (.csrr g o.rd o.csr)
  | 1 => limit (.csrw g o)
  | 2 => limit (.csrset g o)
  | _ => limit (.csrclr g o)

def decSystem (g : Guard) (w : Word) : Dec Instr :=
  let ra := fld w 32 5
  let rb := fld w 27 5
  match (fld w 37 3).toNat with
  | 0 => need (fld w 16 21 == 0) .reserved <| limit (.trap g (fld w 0 16))
  | 1 => need (fld w 0 37 == 0) .reserved <| limit (.eret g)
  | 2 => need (fld w 0 32 == 0) .reserved <| limit (.wfi g ra)
  | 3 => need (fld w 0 27 == 0) .reserved <| limit (.seal g ra rb)
  | 4 => need (fld w 0 24 == 0) .reserved <| code (Scope.ofCode (fld w 24 3)) fun s => limit (.tlbi g ra rb s)
  | _ => .error .subFunction

def decSpawn (g : Guard) (w : Word) : Dec Instr :=
  if fld w 39 1 == 0 then
    need (fld w 29 5 == 0 && fld w 0 25 == 0) .reserved <| limit (.spawn g (fld w 25 4) (fld w 34 5))
  else
    need (fld w 0 29 == 0) .reserved <| limit (.join g (fld w 34 5) (fld w 29 5))

def decSched (g : Guard) (w map : Word) : Dec Instr :=
  match (fld w 38 2).toNat with
  | 0 => need (fld w 0 38 == 0 && fld map 61 3 == 0) .reserved <| limit (.safe g map)
  | 1 => need (fld w 0 38 == 0) .reserved <| limit (.yield g)
  | 2 => need (fld w 0 36 == 0) .reserved <| limit (.prio g (fld w 36 2))
  | _ => need (fld w 36 2 == 0 && fld w 0 30 == 0) .reserved <| limit (.gang g (fld w 30 6))

/-- The compact instructions share one mould: fn at bit 39, the descriptor register in [38:34] (16: "one mould"). -/
def decCompact (k0 k1 : XReg → Instr) (w : Word) : Dec Instr :=
  need (fld w 0 34 == 0) .reserved <|
  limit (if fld w 39 1 == 0 then k0 (fld w 34 5) else k1 (fld w 34 5))

def decQget (g : Guard) (w : Word) : Dec Instr :=
  need (fld w 0 26 == 0) .reserved <| limit (.qget g (fld w 35 5) (fld w 32 3) (fld w 29 3) (fld w 26 3))

/-- Decode one instruction word; `map` is the word after it, which only `safe` reads (R72, R86). -/
def decodeWord (w map : Word) : Dec Instr :=
  let g := Guard.ofWord w
  match (fld w 40 7).toNat with
  | 0x00 => decIntR (.add g) w | 0x01 => decIntR (.sub g) w | 0x02 => decIntR (.mul g) w | 0x03 => decIntR (.mulh g) w
  | 0x04 => decIntR (.div g) w | 0x05 => decIntR (.rem g) w | 0x06 => decIntR (.and g) w | 0x07 => decIntR (.or g) w
  | 0x08 => decIntR (.xor g) w | 0x09 => decIntR (.andn g) w | 0x0A => decIntR (.sll g) w | 0x0B => decIntR (.srl g) w
  | 0x0C => decIntR (.sra g) w | 0x0D => decIntR (.rot g) w
  | 0x0E => decMinMax g w | 0x0F => decIntU g w
  | 0x10 => decIntI (.addImm g) w | 0x11 => decIntI (.mulImm g) w | 0x12 => decIntI (.andImm g) w
  | 0x13 => decIntI (.orImm g) w | 0x14 => decIntI (.xorImm g) w | 0x15 => decIntI (.andnImm g) w
  | 0x16 => decIntI (.sllImm g) w | 0x17 => decIntI (.srlImm g) w | 0x18 => decIntI (.sraImm g) w
  | 0x19 => decIntI (.rotImm g) w | 0x1A => decMinMaxI g w
  | 0x1B => limit (.li g (fld w 35 5) (fld w 0 35))
  | 0x1C => need (fld w 32 3 == 0) .reserved <| limit (.lih g (fld w 35 5) (fld w 0 32))
  | 0x1D => decAddrM (.lea g) w
  | 0x1E => limit (.adr g (fld w 35 5) (fld w 0 35))
  | 0x1F => need (fld w 0 25 == 0) .reserved <| limit (.padr g (fld w 35 5) (fld w 30 5) (fld w 25 5))
  | 0x20 => decFloatR (.fadd g) w | 0x21 => decFloatR (.fsub g) w | 0x22 => decFloatR (.fmul g) w | 0x23 => decFma g w
  | 0x24 => decFloatR (.fdiv g) w | 0x25 => decFsqrt g w | 0x26 => decFmin (.fmin g) w | 0x27 => decFmin (.fmax g) w
  | 0x28 => decFcvt g w | 0x29 => decFclass g w
  | 0x30 => decCmp g w | 0x31 => decFcmp g w | 0x32 => decTbit g w | 0x33 => decPlog g w | 0x34 => decPmov g w
  | 0x38 => need (fld w 32 8 == 0) .reserved <| limit (.br g (fld w 0 32))
  | 0x39 => need (fld w 32 8 == 0) .reserved <| limit (.call g (fld w 0 32))
  | 0x3A => need (fld w 0 30 == 0) .reserved <| limit (.jr g (fld w 35 5) (fld w 30 5))
  | 0x3B => need (fld w 0 40 == 0) .reserved <| limit (.exit g)
  | 0x40 => decMemM (.ld g) false w | 0x41 => decMemM (.st g) false w | 0x42 => decMemM (.lds g) true w
  | 0x43 => decMemM (.stf g) false w | 0x44 => decMemM (.ldc g) false w
  | 0x45 => decBlockM (.pref g) w | 0x46 => decBlockM (.clean g) w | 0x47 => decBlockM (.inval g) w
  | 0x48 => decAddrM (.msend g) w | 0x49 => decAddrM (.mrecv g) w
  | 0x50 => decAmo g w | 0x51 => decCas g w | 0x52 => decRed g w | 0x53 => decFence g w
  | 0x54 => need (fld w 0 29 == 0) .reserved <| limit (.arrive g (fld w 35 5) (fld w 29 6))
  | 0x55 => need (fld w 0 23 == 0) .reserved <| limit (.bwait g (fld w 34 6) (fld w 29 5) (fld w 26 3) (fld w 23 3))
  | 0x56 => decBmask g w
  | 0x58 => decPush g w | 0x59 => decQstat g w | 0x5A => decWait g w | 0x5B => decTagWait g w
  | 0x5C => need (fld w 0 29 == 0) .reserved <| limit (.cancel g (fld w 34 6) (fld w 29 5))
  | 0x5D => decArrival g w | 0x5E => decHandleR g w | 0x5F => decHandleM g w
  | 0x60 => decVecR2 (.vadd g) w | 0x61 => decVecR2 (.vsub g) w | 0x62 => decVecR2 (.vmul g) w | 0x63 => decVfma g w
  | 0x64 => decVmin g w | 0x65 => decVabs g w | 0x66 => decVecF g w | 0x67 => decVcvt g w | 0x68 => decVquant g w
  | 0x69 => decVred g w | 0x6A => decVcmp g w | 0x6B => decVsel g w | 0x6C => decVperm g w | 0x6D => decVmov g w
  | 0x6E => decVplog g w | 0x6F => decVpred g w
  | 0x70 => decCsr g w | 0x71 => decSystem g w | 0x72 => decSpawn g w | 0x73 => decSched g w map
  | 0x74 => decCompact (.sign g) (.dissolve g) w | 0x75 => decCompact (.xfer g) (.sstep g) w
  | 0x76 => decQget g w
  | 0x77 => need (fld w 0 35 == 0) .reserved <| limit (.rand g (fld w 35 5))
  | _ => .error .opcode

/-! ### Bytes -/

/-- The little-endian value of a list of bytes (R10). -/
def leNat : List Byte → Nat
  | [] => 0
  | b :: bs => b.toNat + 256 * leNat bs

/-- The word of the first eight of `bs`. -/
def leWord (bs : List Byte) : Word := BitVec.ofNat 64 (leNat (bs.take 8))

/-- The `n` bytes of `v`, the lowest first (R10). -/
def toBytes (n v : Nat) : List Byte :=
  match n with
  | 0 => []
  | k + 1 => BitVec.ofNat 8 v :: toBytes k (v / 256)

/-- Is this the word of a `safe`, which a map word follows (R72)? -/
def isSafeWord (w : Word) : Bool := fld w 40 7 == 0x73 && fld w 38 2 == 0

/-- Decode the instruction at the front of a list of bytes; the second part is its length in bytes. -/
def decodeBytes (bs : List Byte) : Dec (Instr × Nat) :=
  let w := leWord bs
  if bs.length < 8 then .error .truncated
  else if isSafeWord w then
    (if bs.length < 16 then .error .truncated
     else match decodeWord w (leWord (bs.drop 8)) with
       | .ok i => .ok (i, 16)
       | .error e => .error e)
  else match decodeWord w 0 with
    | .ok i => .ok (i, 8)
    | .error e => .error e

/-- The host's view of the decoder: the instruction whose bits are `w`, bit 0 the least significant of the first word, the
bits above `nbits` zero. The bytes are laid out as memory holds them (R10), two words long. -/
def decodeTableWord (nbits w : Nat) : Option Instr :=
  match decodeBytes (toBytes 16 (w % 2 ^ nbits)) with
  | .ok (i, _) => some i
  | .error _ => none

/-! ## The encoder -/

def encR3 (rd ra rb rc : XReg) (ty rm : BitVec 3) (fn : BitVec 4) (ord : BitVec 2) : BitVec 40 :=
  rd ++ ra ++ rb ++ rc ++ ty ++ rm ++ fn ++ ord ++ 0#8

def encI (o : IntI) (sub : BitVec 3) : BitVec 40 := o.rd ++ o.ra ++ o.ty.code ++ sub ++ o.imm

def encM (r rb : XReg) (ty : BitVec 3) (ord : BitVec 1) (scope : BitVec 3) (hint : BitVec 2) (take : BitVec 1)
    (disp : BitVec 20) : BitVec 40 := r ++ rb ++ ty ++ ord ++ scope ++ hint ++ take ++ disp

def encMem (o : MemM) : BitVec 40 :=
  encM o.r o.rb o.ty.code (bit1 o.ord) o.scope.code o.hint.code (bit1 o.take) o.disp

def encBlock (o : BlockM) : BitVec 40 := encM 0 o.rb 0 0 o.scope.code o.hint.code 0 o.disp

def encAddr (o : AddrM) : BitVec 40 := encM o.r o.rb 0 0 0 0 0 o.disp

def encC (pt pf : PReg) (wm : BitVec 2) (cond : BitVec 4) (ra rb : XReg) (ty : BitVec 3) (im : BitVec 1) (imm : BitVec 14) :
    BitVec 40 := pt ++ pf ++ wm ++ cond ++ ra ++ rb ++ ty ++ im ++ imm

def encHMem (dir : BitVec 1) (o : HandleM) : BitVec 40 :=
  dir ++ o.h ++ o.rb ++ 0#3 ++ bit1 o.ord ++ o.scope.code ++ o.hint.code ++ 0#1 ++ o.disp

def encHReg (fn : BitVec 2) (h hs : HReg) (x : XReg) (f : BitVec 4) : BitVec 40 := fn ++ h ++ hs ++ x ++ f ++ 0#21

def encV (hd : BitVec 4) (dm : BitVec 1) (a b c : BitVec 7) (rm : BitVec 3) (fn : BitVec 4) (aux : BitVec 7) : BitVec 40 :=
  hd ++ dm ++ a ++ b ++ c ++ rm ++ fn ++ aux

def encP (q : BitVec 5) (cb pt pf : BitVec 3) (try1 : BitVec 1) (rd : XReg) : BitVec 40 :=
  q ++ cb ++ pt ++ pf ++ try1 ++ rd ++ 0#20

def encSlotH (v : VHandle) : BitVec 7 := 0#2 ++ v.h ++ bit1 v.adv

def encSlotX (r : XReg) : BitVec 7 := 1#1 ++ r ++ 0#1

def encSlotP (p : PReg) : BitVec 7 := 0#3 ++ p ++ 0#1

def encSlot : VOp → BitVec 7
  | .h v => encSlotH v
  | .x r => encSlotX r

def encOptX : Option XReg → BitVec 7
  | some r => encSlotX r
  | none => 0

def encIntR (o : IntR) (fn : BitVec 4) : BitVec 40 := encR3 o.rd o.ra o.rb 0 o.ty.code 0 fn 0
def encIntU (o : IntU) (fn : BitVec 4) : BitVec 40 := encR3 o.rd o.ra 0 0 o.ty.code 0 fn 0
def encFloatR (o : FloatR) : BitVec 40 := encR3 o.rd o.ra o.rb 0 o.ty.code o.rm.code 0 0
def encFmin (o : FminR) : BitVec 40 := encR3 o.rd o.ra o.rb 0 o.ty.code 0 0 0
def encVecR2 (o : VecR2) : BitVec 40 := encV o.d.h (bit1 o.d.adv) (encSlot o.a) (encSlot o.b) 0 o.rm.code 0 0
def encVecMin (o : VecMin) (fn : BitVec 4) : BitVec 40 := encV o.d.h (bit1 o.d.adv) (encSlot o.a) (encSlot o.b) 0 0 fn 0
def encVecU (o : VecU) (fn : BitVec 4) : BitVec 40 := encV o.d.h (bit1 o.d.adv) (encSlotH o.a) 0 0 0 fn 0
def encVecF (o : VecF) (fn : BitVec 4) : BitVec 40 := encV o.d.h (bit1 o.d.adv) (encSlotH o.a) 0 0 o.rm.code fn 0
def encVecRed (o : VecRed) (fn : BitVec 4) : BitVec 40 :=
  encV 0 0 (encSlotH o.a) (encSlotX o.xb) 0 o.rm.code fn (0#2 ++ o.rd)
def encVecMov (o : VecMov) (fn : BitVec 4) : BitVec 40 := encV o.d.h (bit1 o.d.adv) (encSlot o.a) 0 0 0 fn 0
def encCsr (fn : BitVec 2) (o : CsrS) : BitVec 40 := fn ++ o.rd ++ o.ra ++ o.csr ++ 0#16
def encSys (fn : BitVec 3) (ra rb : XReg) (scope : BitVec 3) (c : BitVec 16) : BitVec 40 :=
  fn ++ ra ++ rb ++ scope ++ 0#8 ++ c
def encX34 (fn : BitVec 1) (ra : XReg) : BitVec 40 := fn ++ ra ++ 0#34

def encVquant (o : VecQuant) : BitVec 40 :=
  encV o.d.h (bit1 o.d.adv) (encSlotH o.a) (encOptX o.scale) (encOptX (o.amax.map Prod.fst)) o.rm.code 0
    (0#1 ++ (match o.amax with | some (_, s) => s.code | none => 0#3) ++ bit1 o.amax.isSome ++ bit1 o.calcScales ++ bit1 o.scale.isSome)

/-- The guard, the major opcode and the body of an instruction; none for a step that is no instruction word. -/
def Instr.parts : Instr → Option (Guard × BitVec 7 × BitVec 40)
  | .add g o => some (g, 0x00, encIntR o 0) | .sub g o => some (g, 0x01, encIntR o 0) | .mul g o => some (g, 0x02, encIntR o 0)
  | .mulh g o => some (g, 0x03, encIntR o 0) | .div g o => some (g, 0x04, encIntR o 0) | .rem g o => some (g, 0x05, encIntR o 0)
  | .and g o => some (g, 0x06, encIntR o 0) | .or g o => some (g, 0x07, encIntR o 0) | .xor g o => some (g, 0x08, encIntR o 0)
  | .andn g o => some (g, 0x09, encIntR o 0) | .sll g o => some (g, 0x0A, encIntR o 0) | .srl g o => some (g, 0x0B, encIntR o 0)
  | .sra g o => some (g, 0x0C, encIntR o 0) | .rot g o => some (g, 0x0D, encIntR o 0)
  | .min g o => some (g, 0x0E, encIntR o 0) | .max g o => some (g, 0x0E, encIntR o 1)
  | .clz g o => some (g, 0x0F, encIntU o 0) | .ctz g o => some (g, 0x0F, encIntU o 1) | .popc g o => some (g, 0x0F, encIntU o 2)
  | .sext g o => some (g, 0x0F, encIntU o 3) | .zext g o => some (g, 0x0F, encIntU o 4)
  | .addImm g o => some (g, 0x10, encI o 0) | .mulImm g o => some (g, 0x11, encI o 0) | .andImm g o => some (g, 0x12, encI o 0)
  | .orImm g o => some (g, 0x13, encI o 0) | .xorImm g o => some (g, 0x14, encI o 0) | .andnImm g o => some (g, 0x15, encI o 0)
  | .sllImm g o => some (g, 0x16, encI o 0) | .srlImm g o => some (g, 0x17, encI o 0) | .sraImm g o => some (g, 0x18, encI o 0)
  | .rotImm g o => some (g, 0x19, encI o 0) | .minImm g o => some (g, 0x1A, encI o 0) | .maxImm g o => some (g, 0x1A, encI o 1)
  | .li g rd v => some (g, 0x1B, rd ++ v) | .lih g rd v => some (g, 0x1C, rd ++ 0#3 ++ v)
  | .lea g o => some (g, 0x1D, encAddr o) | .adr g rd v => some (g, 0x1E, rd ++ v)
  | .padr g rd ra rb => some (g, 0x1F, encR3 rd ra rb 0 0 0 0 0)
  | .fadd g o => some (g, 0x20, encFloatR o) | .fsub g o => some (g, 0x21, encFloatR o) | .fmul g o => some (g, 0x22, encFloatR o)
  | .fma g o => some (g, 0x23, encR3 o.rd o.ra o.rb o.rc o.ty.code o.rm.code 0 0)
  | .fdiv g o => some (g, 0x24, encFloatR o) | .fsqrt g o => some (g, 0x25, encR3 o.rd o.ra 0 0 o.ty.code o.rm.code 0 0)
  | .fmin g o => some (g, 0x26, encFmin o) | .fmax g o => some (g, 0x27, encFmin o)
  | .fcvt g o => some (g, 0x28, encR3 o.rd o.ra 0 (0#1 ++ o.src.code) 0 o.rm.code o.dst.code 0)
  | .fclass g o => some (g, 0x29, encR3 o.rd o.ra 0 0 o.ty.code 0 0 0)
  | .cmp g o => some (g, 0x30, match o.b with
      | .reg r => encC o.pt o.pf o.wm.code o.cond.code o.ra r o.ty.code 0 0
      | .imm v => encC o.pt o.pf o.wm.code o.cond.code o.ra 0 o.ty.code 1 v)
  | .fcmp g o => some (g, 0x31, encC o.pt o.pf o.wm.code o.cond.code o.ra o.rb o.ty.code 0 0)
  | .tbit g o => some (g, 0x32, encC o.pt o.pf o.wm.code (0#3 ++ bit1 o.zero) o.ra 0 0 1 (0#8 ++ o.n))
  | .plog g o => some (g, 0x33, o.pd ++ 0#5 ++ o.table ++ o.sa ++ o.sb ++ o.sc ++ 0#15)
  | .pmovToX g x => some (g, 0x34, 0#8 ++ 0#4 ++ x ++ 0#23) | .pmovToPr g x => some (g, 0x34, 0#8 ++ 1#4 ++ x ++ 0#23)
  | .br g o => some (g, 0x38, 0#8 ++ o) | .call g o => some (g, 0x39, 0#8 ++ o)
  | .jr g rd ra => some (g, 0x3A, encR3 rd ra 0 0 0 0 0 0) | .exit g => some (g, 0x3B, 0)
  | .ld g o => some (g, 0x40, encMem o) | .st g o => some (g, 0x41, encMem o) | .lds g o => some (g, 0x42, encMem o)
  | .stf g o => some (g, 0x43, encMem o) | .ldc g o => some (g, 0x44, encMem o)
  | .pref g o => some (g, 0x45, encBlock o) | .clean g o => some (g, 0x46, encBlock o) | .inval g o => some (g, 0x47, encBlock o)
  | .msend g o => some (g, 0x48, encAddr o) | .mrecv g o => some (g, 0x49, encAddr o)
  | .amo g o => some (g, 0x50, encR3 o.rd o.ra o.rb 0 o.ty.code o.scope.code o.op.code o.ord.code)
  | .cas g o => some (g, 0x51, encR3 o.rd o.ra o.rb o.rc o.ty.code o.scope.code 0 o.ord.code)
  | .red g o => some (g, 0x52, encR3 0 o.ra o.rb 0 o.ty.code o.scope.code o.op.code o.ord.code)
  | .fence g o => some (g, 0x53, o.scope.code ++ bit1 o.ld ++ bit1 o.st ++ bit1 o.acq ++ bit1 o.rel ++ bit1 o.sc ++ bit1 o.ro
      ++ bit1 o.eng ++ 0#30)
  | .arrive g rd b => some (g, 0x54, rd ++ b ++ 0#29)
  | .bwait g b ra pt pf => some (g, 0x55, b ++ ra ++ pt ++ pf ++ 0#23)
  | .bmask g b ra => some (g, 0x56, b ++ ra ++ 0#1 ++ 0#28) | .bmaskRd g b ra => some (g, 0x56, b ++ ra ++ 1#1 ++ 0#28)
  | .push g q cb => some (g, 0x58, encP q.code cb 0 0 0 0) | .pushTry g q cb pt pf => some (g, 0x58, encP q.code cb pt pf 1 0)
  | .qstat g q rd => some (g, 0x59, encP q.code 0 0 0 0 rd)
  | .wait g o => some (g, 0x5A, o.ld ++ o.st ++ o.vx ++ o.cp ++ o.tl ++ 0#20)
  | .twait g t => some (g, 0x5B, 0#2 ++ 0#10 ++ t ++ 0#22) | .tany g rd ra => some (g, 0x5B, 1#2 ++ rd ++ ra ++ 0#28)
  | .tfind g rd ra => some (g, 0x5B, 2#2 ++ rd ++ ra ++ 0#28)
  | .cancel g t rd => some (g, 0x5C, t ++ rd ++ 0#29)
  | .abinit g n ra => some (g, 0x5D, 0#2 ++ n ++ ra ++ 0#27) | .abinitReset g n ra => some (g, 0x5D, 1#2 ++ n ++ ra ++ 0#27)
  | .abwait g n => some (g, 0x5D, 2#2 ++ n ++ 0#32)
  | .hset g h f x => some (g, 0x5E, encHReg 0 h 0 x f) | .hget g x h f => some (g, 0x5E, encHReg 1 h 0 x f)
  | .hmov g h hs => some (g, 0x5E, encHReg 2 h hs 0 0) | .hadv g h x => some (g, 0x5E, encHReg 3 h 0 x 0)
  | .hld g o => some (g, 0x5F, encHMem 0 o) | .hst g o => some (g, 0x5F, encHMem 1 o)
  | .vadd g o => some (g, 0x60, encVecR2 o) | .vsub g o => some (g, 0x61, encVecR2 o) | .vmul g o => some (g, 0x62, encVecR2 o)
  | .vfma g o => some (g, 0x63, encV o.d.h (bit1 o.d.adv) (encSlotH o.a) (encSlot o.b) (encSlot o.c) o.rm.code 0 0)
  | .vmin g o => some (g, 0x64, encVecMin o 0) | .vmax g o => some (g, 0x64, encVecMin o 1)
  | .vabs g o => some (g, 0x65, encVecU o 0) | .vneg g o => some (g, 0x65, encVecU o 1)
  | .vexp2 g o => some (g, 0x66, encVecF o 0) | .vlog2 g o => some (g, 0x66, encVecF o 1) | .vrcp g o => some (g, 0x66, encVecF o 2)
  | .vrsq g o => some (g, 0x66, encVecF o 3) | .vtanh g o => some (g, 0x66, encVecF o 4)
  | .vcvt g o => some (g, 0x67, encV o.d.h (bit1 o.d.adv) (encSlotH o.a) (encOptX o.scale) (encOptX o.clip) o.rm.code 0
      (0#5 ++ bit1 o.clip.isSome ++ bit1 o.scale.isSome))
  | .vquant g o => some (g, 0x68, encVquant o)
  | .vamax g o => some (g, 0x69, encVecRed o 0) | .vred g o => some (g, 0x69, encVecRed o 1)
  | .vcmp g o => some (g, 0x6A, encV (0#1 ++ o.pt) 0 (encSlotH o.a) (encSlot o.b) 0 0 o.cond.code (o.pf ++ o.wm.code ++ 0#2))
  | .vsel g o => some (g, 0x6B, encV o.d.h (bit1 o.d.adv) (encSlot o.a) (encSlot o.b) (encSlotP o.sel) 0 0 0)
  | .vperm g o => some (g, 0x6C, encV o.d.h (bit1 o.d.adv) (encSlotH o.a) (encSlotH o.ix) 0 0 0 0)
  | .vbcast g o => some (g, 0x6C, encV o.d.h (bit1 o.d.adv) (encSlotH o.a) (encSlotX o.x) 0 0 1 0)
  | .vmov g o => some (g, 0x6D, encVecMov o 0) | .vfill g o => some (g, 0x6D, encVecMov o 1)
  | .vempty g d => some (g, 0x6D, encV d.h (bit1 d.adv) 0 0 0 0 2 0)
  | .vplog g o => some (g, 0x6E, (0#1 ++ o.pd) ++ 0#1 ++ encSlotP o.sa ++ encSlotP o.sb ++ (0#3 ++ o.sc) ++ o.table ++ 0#7)
  | .vpcnt g o => some (g, 0x6F, encV 0 0 (encSlotP o.a) (encSlotX o.rd) 0 0 0 0)
  | .vpfirst g o => some (g, 0x6F, encV 0 0 (encSlotP o.a) (encSlotX o.rd) 0 0 1 0)
  | .vpmovFromX g o => some (g, 0x6F, encV (0#1 ++ o.pd) 0 0 (encSlotX o.x) 0 0 2 (0#4 ++ bit1 o.keep ++ o.q))
  | .vpmovToX g o => some (g, 0x6F, encV 0 0 (encSlotP o.a) (encSlotX o.rd) 0 0 3 (0#5 ++ o.q))
  | .csrr g rd n => some (g, 0x70, encCsr 0 { rd := rd, ra := 0, csr := n }) | .csrw g o => some (g, 0x70, encCsr 1 o)
  | .csrset g o => some (g, 0x70, encCsr 2 o) | .csrclr g o => some (g, 0x70, encCsr 3 o)
  | .trap g n => some (g, 0x71, encSys 0 0 0 0 n) | .eret g => some (g, 0x71, encSys 1 0 0 0 0)
  | .wfi g ra => some (g, 0x71, encSys 2 ra 0 0 0) | .seal g ra rb => some (g, 0x71, encSys 3 ra rb 0 0)
  | .tlbi g ra rb s => some (g, 0x71, encSys 4 ra rb s.code 0)
  | .spawn g q ra => some (g, 0x72, 0#1 ++ ra ++ 0#5 ++ q ++ 0#25) | .join g ra rb => some (g, 0x72, 1#1 ++ ra ++ rb ++ 0#29)
  | .safe g _ => some (g, 0x73, 0) | .yield g => some (g, 0x73, 1#2 ++ 0#38) | .prio g n => some (g, 0x73, 2#2 ++ n ++ 0#36)
  | .gang g b => some (g, 0x73, 3#2 ++ 0#2 ++ b ++ 0#30)
  | .sign g ra => some (g, 0x74, encX34 0 ra) | .dissolve g ra => some (g, 0x74, encX34 1 ra)
  | .xfer g ra => some (g, 0x75, encX34 0 ra) | .sstep g ra => some (g, 0x75, encX34 1 ra)
  | .qget g rd q pt pf => some (g, 0x76, rd ++ q ++ pt ++ pf ++ 0#26) | .rand g rd => some (g, 0x77, rd ++ 0#35)
  | _ => none

/-- The word of a guard, a major opcode and a body (R71). -/
def packWord (g : Guard) (op : BitVec 7) (body : BitVec 40) : Word := g.t ++ g.a ++ g.b ++ g.c ++ op ++ body

/-- The instruction word; 0 for a step that is no instruction word. -/
def encode (i : Instr) : Word :=
  match i.parts with
  | some (g, op, body) => packWord g op body
  | none => 0

/-- Is the step an instruction word? -/
def Instr.isWord (i : Instr) : Bool := i.parts.isSome

/-- The word that follows an instruction word in memory: the map word of a `safe` (R86). -/
def Instr.mapWord : Instr → Word
  | .safe _ m => m
  | _ => 0

/-- How many bytes the instruction occupies (R72). -/
def Instr.size : Instr → Nat
  | .safe _ _ => 16
  | _ => 8

/-- The bytes of an instruction as memory holds them. -/
def encodeBytes (i : Instr) : List Byte :=
  toBytes 8 (encode i).toNat ++ (if i.size == 16 then toBytes 8 i.mapWord.toNat else [])

end Sys2Proof
end

