-- ==== Sys2Proof/Machine/State.lean ====
section
/-! DEFINITION. The state of the Zenkin Z4 as plain data, what stops a step, and the machine right after reset. Units that a
pod holds in large numbers are sparse maps with a default: an unlisted unit is as reset leaves it. -/

namespace Sys2Proof
namespace Machine

/-- A sparse map: pairs of a key and a value, keys strictly rising. -/
abbrev SMap (α : Type) := List (Nat × α)

/-- What stops a step for good: nothing. The manual gives every trap, freeze, kill and refusal of a push an effect, and R161
keeps an access from an address that nothing backs; so no step of the model ends in a fault. DEDUCED, Assumption 4. -/
inductive Fault where
deriving DecidableEq, Repr

/-- Why a step gives no meaning. -/
inductive Refusal where
  /-- An instruction that the model has not reached. Raised only by Dispatch. Safe. -/
  | notModelled (mnemonic : String)
deriving DecidableEq, Repr

/-! ## Identities -/

/-- A job as an access table names it: hard partition and context (R34). -/
structure Job where
  part : BitVec 2
  ctx : BitVec 12
deriving DecidableEq, Repr

/-- The states of a thread (R29). `stopped` and `frozen` are both R29's "stopped"; `saving` is a running thread that has issued
its last word before a save and drains (R275, step 2). `empty`: the core has held no thread since reset. -/
inductive ThreadState where
  | empty | running | saving | stopped | frozen | killed | saved | ended
deriving DecidableEq, Repr

/-! ## What a core has in flight -/

/-- What a long load does when its answer arrives (R126, R135, R323). -/
inductive LoadKind where
  | plain | take | wait | ro | handle
  | amo (op : AmoOp)
  | cas
  /-- An atomic that has acted; `a` is the word for its register and `b` the timestamp its write waits for (R323). -/
  | done
deriving DecidableEq, Repr

/-- A long load outstanding (R126). `key` is where it reads, `hint` its cache hint (R129), `bad` whether what an atomic found
carries an uncorrectable mark; `err` is the cause of an error answer already decided. -/
structure Load where
  kind : LoadKind
  hint : Hint
  bad : Bool
  reg : Nat
  ty : ITy
  size : Nat
  va : Word
  key : Nat
  a : Word
  b : Word
  scope : Scope
  acq : Bool
  rel : Bool
  checked : Bool
  err : Nat
  pc : Word
  seq : Nat
deriving DecidableEq, Repr

/-- What waits in a store buffer (R128, R133, R136, R190, R320). -/
inductive StoreKind where
  | write
  | writeFull
  | red (op : AmoOp) (ty : ITy)
  | clean
  | inval
deriving DecidableEq, Repr

/-- An entry of a core's store buffer, with its cache hint (R129). -/
structure Store where
  kind : StoreKind
  va : Word
  key : Nat
  bytes : List Byte
  scope : Scope
  rel : Bool
  hint : Hint
  pc : Word
  seq : Nat
deriving DecidableEq, Repr

/-- A write that has left the store buffer with timestamp `w` (R155): it counts in `st` until it is performed at its scope; `pkg` is
its home's package (R352). -/
structure Flight where
  w : Nat
  scope : Scope
  seq : Nat
  pkg : Nat
deriving DecidableEq, Repr

/-- A message sent and not yet delivered or returned (R139, R140): whether its bytes carry an uncorrectable mark, and the
sender's logical clock, which its receiver's passes (R297). -/
structure Msg where
  dst : BitVec 22
  data : Wide
  bad : Bool
  clk : Nat
  seq : Nat
deriving DecidableEq, Repr

/-- A vector instruction in its queue (R217): lanes, the snapshots of slots d, a, b, c (a scalar zero-extended, a predicate
whole, an absmax address with its key at bit 64), guard mask, dither phase, and quarters granted; after the fourth, 5 while
its absmax value waits to be reduced and 6 while the reduction with timestamp `due` is not yet performed (R184, R220). -/
structure VEntry where
  i : Instr
  n : Nat
  d : Wide
  a : Wide
  b : Wide
  c : Wide
  mask : Wide
  dph : BitVec 5
  pc : Word
  age : Nat
  granted : Nat
  amax : Word32
  due : Nat
deriving DecidableEq, Repr

/-- One piece of a copy still to be written (R144): receiver, line of the destination, source row of a `GATHER` or `SCATTER`
(R207), first byte of the line and length; `scale` pieces carry scale bytes. -/
structure Piece where
  recv : Nat
  line : Nat
  src : Nat
  first : Nat
  len : Nat
  scale : Bool
deriving DecidableEq, Repr

/-- Bytes that a held read of a copy brought from a compact member (R288), with their virtual address and mark. -/
structure Got where
  va : Nat
  bytes : List Byte
  bad : Bool
deriving DecidableEq, Repr

/-- How far a started command has come (R278); `pieces` of a copy not yet written, `sent` those that the engine has granted (R272), `held`
those whose write a compact member holds, `got` what held reads brought, or the operands of an `MROT` as it read them (R211), `wrote` the
bytes it has written of words that it had not completed (R144), by key and length; `idx` and `off` of a list entry of the offload engine;
`nums` is what a collective, an entry of a list or a `LAUNCH` read when it began. -/
structure Progress where
  k : Nat
  batch : Nat
  f : Word32
  v : Word32
  pieces : List Piece
  sent : List Piece
  held : List Piece
  got : List Got
  wrote : List (Nat × Nat)
  idx : Nat
  off : Nat
  counted : Bool
  nums : List Nat
deriving DecidableEq, Repr

/-- A tile command accepted and not complete (R89): its queue, words, handle snapshots in field order, dither phase at
acceptance, its age and the tile clock at acceptance, and progress. `xfer` marks a copy that an `xfer` pushed (R286), `logWait` one
that waits for room in the provenance log; `born` is the physical tile at acceptance and its interval (R355, R356). -/
structure Cmd where
  q : QName
  w : Wide
  hs : List Wide
  dph : BitVec 5
  pc : Word
  age : Nat
  since : Nat
  started : Bool
  xfer : Bool
  logWait : Bool
  born : Nat × Nat
  prog : Progress
deriving DecidableEq, Repr

/-- A cached translation (R164): the page's first address and size, tagged by context. -/
structure Tlb where
  pkg : Nat
  job : Job
  va : Nat
  size : Nat
  pa : Nat
  rd : Bool
  wr : Bool
  ex : Bool
  cls : BitVec 2
deriving DecidableEq, Repr

/-! ## A core and its thread -/

/-- A scalar core and the thread it holds. -/
structure Core where
  /-- R29. -/
  st : ThreadState
  /-- The address of the next word to issue. -/
  pc : Word
  /-- x0 to x31 (R92); x0 is never read. -/
  x : Vector Word 32
  /-- p0 to p7 (R92); bit 0 is never read. -/
  p : BitVec 8
  /-- h0 to h15 (R92, R186). -/
  h : Vector Wide 16
  /-- vp0 to vp7 (R92); vp0 is never read. -/
  vp : Vector Wide 8
  /-- `ctx` (R34). -/
  job : Job
  /-- `jobseed` (R34). -/
  jobseed : Word
  /-- The entry address that names the thread's kernel (R269), and the age at which the thread started: an older gradient record that is
  still untaken holds its place in the core's window (R365) and counts for no thread that came later (R31). -/
  entry : Word
  birth : Nat
  /-- `team`: base, size, bid and bv (R33). -/
  base : BitVec 22
  size : BitVec 13
  bid : BitVec 6
  bv : Bool
  /-- `tvec`, `tcause`, `tpc`, `tval`, and inh of `tstat` (R336). -/
  tvec : Word
  tcause : Word
  tpc : Word
  tval : Word
  inh : Bool
  /-- `fpstat` (R181). -/
  fpstat : Word
  /-- `tags` (R197). -/
  tags : Word
  /-- `rngctr` (R260). -/
  rngctr : Word
  /-- `remerr` (R350). -/
  remerr : Word
  /-- cls and cap of `prio` (R270). -/
  cls : BitVec 2
  cap : BitVec 2
  /-- The register cache (R94): home words present, oldest fill first, each with its dirty mark. -/
  rc : List (Nat × Bool)
  /-- Poisoned home words and where each one's data came from (R138, R327). -/
  poison : SMap Word
  /-- Long loads in issue order (R127). -/
  loads : List Load
  /-- The FIFO store buffer (R45, R294). -/
  sbuf : List Store
  /-- Writes that left the store buffer (R155). -/
  flights : List Flight
  /-- Messages outstanding (R139). -/
  msgs : List Msg
  /-- Sealed mailbox (R343). -/
  sealed : Bool
  /-- The vector queue (R217) and the arbiters' credits (R225, R272): vector, matrix and copy. -/
  vq : List VEntry
  vcredit : Int
  mcredit : Int
  ccredit : Int
  /-- Tile commands of every queue, in acceptance order (R191). -/
  cmds : List Cmd
  /-- The barrier and token of a waiting `bwait` (R271). -/
  bwaiting : Option (BitVec 6 × BitVec 8)
  /-- By barrier, the class that a waiter which has since stopped passed to the thread (R271). -/
  floors : SMap Nat
  /-- The token of an arrival that the instruction at `pc` has made and waits on (R281, R285 to R290, R317). -/
  token : Option (BitVec 8)
  /-- The tile clock at which the instruction at `pc` began to wait (R146, R319, R342). -/
  waitFrom : Option Nat
  /-- The object of a waiting `abwait` (R146). -/
  abwaiting : Option (BitVec 6)
  /-- The clocks that a waiting `wfi` names, and whether an event of R342 has come since it issued. -/
  wfiLimit : Option Nat
  wfiEvent : Bool
  /-- What a waiting instruction read when it first issued: the record of a `spawn` (R265). -/
  snap : Option (BitVec 512)
  /-- The entries of its transfer program that a waiting `xfer` has yet to push (R286), each with its receiver's tile. -/
  plan : List (Word × Nat)
  /-- What held reads of the instruction at `pc`, its fetch among them, have brought (R288). -/
  got : List Got
  /-- A supervisor's mark is pending (R273). -/
  mark : Bool
  /-- A supervisor holds the saved thread: it was saved because of a mark, and the hold has not been released (R274). DEDUCED,
  Assumption 43. -/
  hold : Bool
  /-- The map word and the address of the `safe` or `yield` of a thread that is being saved (R275). -/
  saveMap : Word
  savePc : Word
  /-- When and in which effective class a saved thread was saved (R268, R274). -/
  savedAt : Nat
  savedCls : BitVec 2
  /-- The accumulators that a saved thread's context holds: its amask (R276, R277). -/
  amask : BitVec 8
  /-- The thread has a broken compact to report (R313); the descriptor address of the compact whose break a pending engine fault reports
  (R338). -/
  broken : Bool
  brokenDesc : Word
  /-- A member of its tile's gang (R39), how many words it has completed in it, and, of a leader, the addresses that followed its
  latest words, the newest first (R40, R41). -/
  gang : Bool
  gangPos : Nat
  gangPath : List Word
  /-- The wired barriers that a stop on a trap took the thread out of, to be re-entered (R19, R339). -/
  left : List Nat
  /-- The logical clock of a core that sits on no tile: the versions it has read (R153, R297). DEDUCED, Assumption 81. -/
  clk : Nat
  /-- The micro-TLB (R164). -/
  tlb : List Tlb
  /-- A refusal on its way to the core: the refused address and the refused instruction's (R346). -/
  refusal : Option (Word × Word)
  /-- A fatal report on its way to the supervisor (R328), and the declaration (R330). -/
  report : Bool
  dead : Bool
deriving DecidableEq, Repr

/-! ## Tiles -/

/-- A member entry of a compact descriptor (R283). -/
structure Member where
  pkg : Nat
  tile : Nat
  pbase : Word
  xprog : Word
deriving DecidableEq, Repr

/-- A write of a copy piece or of the host that a compact member holds (R310): the command that pushed it by core and age, its
piece, where it goes, its bits and how many low ones count, the offsets of marked bytes, the arrival object it counts at. -/
structure HeldPut where
  core : Nat
  age : Nat
  piece : Option Piece
  key : Nat
  len : Nat
  bits : Nat
  cov : Nat
  bad : List Nat
  count : Option (Nat × Nat)
  full : Bool
deriving DecidableEq, Repr

/-- An access that a compact member holds (R288, R310): a load or a store of a core by its age, the read of `n` bytes that the
instruction at a core's pc makes, or that a copy command makes, the absmax word of a vector instruction or of a `DRAIN` (R184), a write
of a copy or of the host, or a read of the host. -/
inductive Held where
  | load (core seq : Nat)
  | store (core seq : Nat)
  | read (core : Nat) (pc : Word) (va key n : Nat)
  | get (core age va key n : Nat)
  | amax (core age key : Nat) (v : Word32)
  | put (p : HeldPut)
  | host (key n : Nat)
deriving DecidableEq, Repr

/-- A tile's place in a compact (R282, R307): `signer` is the signing thread's core while that thread lives and `team` its team's thread 0,
`members` the descriptor's entries, `pinned` the physical sectors it owns with their tile-store offsets (R285). -/
structure Compact where
  id : BitVec 16
  nm : BitVec 6
  grid : BitVec 2
  bid : BitVec 6
  timeout : Nat
  poff : Nat
  plen : Nat
  desc : Word
  job : Job
  signer : Option Nat
  team : Nat
  members : List Member
  pinned : List (Nat × Nat)
  signed : Bool
  window : Bool
  held : List Held
deriving DecidableEq, Repr

/-- The stage of the ladle (R243). -/
inductive LadleStage where
  | empty | normed | built | zero | invalid
deriving DecidableEq, Repr

/-- The ladle's state (R243). -/
structure Ladle where
  owner : Option Nat
  stage : LadleStage
  k : Nat
  nA : List Word32
  nB : List Word32
  x : List Word32
  s : Word32
  thr : List Word32
  al : List Nat
  g : List Word32
deriving DecidableEq, Repr

/-- A tile-cache block (R152 to R154): its 64-byte region, the lease under which its clean bytes may be read, ownership, the
dirty mask, the bytes, and the words whose ECC is uncorrectable (R348). -/
structure Block where
  pa : Nat
  wts : Nat
  rts : Nat
  owned : Bool
  dirty : BitVec 64
  data : List Byte
  bad : BitVec 8
  low : Bool
deriving DecidableEq, Repr

/-- A block of the read-only cache (R168): its 64-byte region, its bytes and its marked words. -/
structure RoBlock where
  pa : Nat
  data : List Byte
  bad : BitVec 8
deriving DecidableEq, Repr

/-- Bytes of an `MROT` operand on their way to a tile (R211): the pair number, the tile-store offset. -/
structure Rotated where
  n : Nat
  fromEast : Bool
  off : Nat
  bytes : List Byte
deriving DecidableEq, Repr

/-- What a control-register write makes of the old value (R91). -/
inductive CsrFn where
  | write | set | clr
deriving DecidableEq, Repr

/-- A write of `tsplit` or `accsplit` that waits for the tile's engines (R150, R203), with its operand and the register that takes the
old value: it is one read-modify-write at the moment at which it takes effect (R91). -/
structure SplitReq where
  core : Nat
  rd : Nat
  acc : Bool
  fn : CsrFn
  ra : Word
deriving DecidableEq, Repr

/-- The tile store that a job whose threads have all ended left on a tile while another job's threads run there (R18), by offset: its
split, bytes, full words and marked words. -/
structure Kept where
  job : Job
  tsplit : Word
  cells : List Host.Cell
  full : List Nat
  marks : List Nat
deriving DecidableEq, Repr

/-- A logical tile: what R37 says a remap copies, beside the tile store, which `State.mem` holds. -/
structure Tile where
  /-- The job whose state the tile holds (R24), the jobs its window is open to (R18), those whose job state stands in their image
  areas (R279), and what ended jobs left. -/
  job : Option Job
  openTo : List Job
  images : List Job
  kept : List Kept
  /-- R224, R149, R203. -/
  vshare : Word
  tsplit : Word
  accsplit : Word
  req : Option SplitReq
  /-- Accumulators 0 to 7: 1,024 words each (all zero where unlisted), type bits and divisors (R204, R255). -/
  acc : SMap (List Word32)
  accTy : BitVec 8
  accDiv : SMap Nat
  ladle : Ladle
  /-- The core whose `SMM` holds the ladle (R244). -/
  smm : Option Nat
  /-- The logical clock (R153). -/
  clock : Nat
  blocks : List Block
  /-- The read-only cache (R168). -/
  ro : List RoBlock
  /-- The tile's TLB (R164). -/
  tlb : List Tlb
  compact : Option Compact
  /-- The compact of a `sign` that has passed its checks and waits to pin its sectors (R285, R308). -/
  signing : Option Compact
  /-- The descriptor address of the compact that the tile entered last (R338). -/
  desc : Word
  /-- `MROT` commands done since `sign`, and rotated bytes on their way (R211). -/
  rots : Nat
  arriving : List Rotated
  /-- By `MROT` number: the core that runs it and how many of its two operands have arrived and been written (R211). -/
  rotated : SMap (Nat × Nat)
  /-- Grants since the oldest vector instruction, matrix command and copy of each class was served (R46). -/
  vstarve : SMap Nat
  mstarve : SMap Nat
  cstarve : SMap Nat
deriving DecidableEq, Repr

/-! ## Quadrants, dies, packages -/

/-- A quadrant: the tile map (R35), tiles out of service, the shared TLB and the test rotation (R354). -/
structure Quad where
  tmap : SMap Nat
  out : List Nat
  gone : List Nat
  /-- Physical tiles that a remap left because a core of theirs was killed: no spare until a test passes (DEDUCED, Assumption 31). -/
  lost : List Nat
  tlb : List Tlb
  turn : Nat
  testing : Option Nat
  drain : Option (Nat × Nat)
  passes : SMap Nat
  /-- The tile clock of the last turn's start (R358), and the logical tile each physical tile last served (R338). -/
  lastTurn : Nat
  served : SMap Nat
deriving DecidableEq, Repr

/-- What a wired barrier serves (R32, R308, R316). A supervisor reserves one by the act `SupAct.reserve` (DESIGN CHOICE, Assumption 95). -/
inductive BarKind where
  | free | team | reserved
  | compact (id : BitVec 16) (job : Job)
deriving DecidableEq, Repr

/-- A wired barrier of a die (R315): the phase, the members of this die, the links, who has arrived; a compact barrier counts
the member tiles of the die in `mask` at core 0 of each. `since` is the first arrival at the phase (R289), `clk` the greatest
logical clock that an arrival has brought (R297). -/
structure Barrier where
  kind : BarKind
  phase : BitVec 8
  mask : BitVec 1024
  links : List Nat
  arrived : BitVec 1024
  since : Option Nat
  clk : Nat
deriving DecidableEq, Repr

/-- A die: its barriers, its supervisors' registers by number (R358), supervisor bookkeeping of heartbeats (R330), and power. -/
structure Die where
  bars : SMap Barrier
  sup : SMap Word
  recs : Nat
  missed : SMap Nat
  /-- By physical core, the interval of its last beat and the intervals that have been counted, from 1 on (R330). -/
  beat : SMap Nat
  counted : SMap Nat
  off : Bool
  /-- Physical cores that a kill has silenced (R328), by 264 · quadrant + 4 · physical tile + core. -/
  silent : SMap Bool
  /-- Physical cores that are declared dead (R330), numbered alike, until their tile passes a test. -/
  declared : SMap Bool
  /-- Collectives of each job and group id that the die has accepted (R371). -/
  collSeq : SMap Nat
  /-- Grants of the collective and the offload engine since the oldest command of each class was served (R46). -/
  clstarve : SMap Nat
  ofstarve : SMap Nat
deriving DecidableEq, Repr

/-- A team that lives (R28): its launch record, thread 0 and whether a supervisor has ended a thread of it (R339). -/
structure Team where
  rcd : BitVec 512
  base : Nat
  job : Job
  failed : Bool
deriving DecidableEq, Repr

/-- A partition control block (R381), the fields the host writes and the Z4 writes; `asked` holds nonce and raddr as they stood at the
request of a report (R390). -/
structure Control where
  mreq : BitVec 4
  mst : BitVec 3
  nonce : Word
  areq : Bool
  raddr : Word
  asked : Option (Word × Word)
deriving DecidableEq, Repr

/-- A merge that drains (R387): the partitions, the tile clock at which it began, and the tails of their launch queues as the die
schedulers last saw them, and when (R263). -/
structure Merge where
  p : Nat
  q : Nat
  since : Nat
  seen : SMap Nat
  seenAt : Nat
deriving DecidableEq, Repr

/-- The label of a kernel (R269). -/
inductive Label where
  | compute | balanced | memory
deriving DecidableEq, Repr

/-- A kernel's measurement or label (R269): when its first team started, the bytes D read for it and its operations O, its label
once it is measured; the one used longest ago stands first. -/
structure Kernel where
  part : Nat
  ctx : Nat
  entry : Word
  since : Nat
  d : Nat
  o : Nat
  label : Option Label
deriving DecidableEq, Repr

/-- An entry of a partition's interleave registers (R386): a memory range and the devices that it spreads over. -/
structure Interleave where
  lo : Nat
  hi : Nat
  spread : Nat
deriving DecidableEq, Repr

/-- A package. -/
structure Pkg where
  /-- Hard partitions and their die masks (R386); none before boot. -/
  parts : SMap (BitVec 4)
  booted : Bool
  bootFailed : Bool
  /-- Declared dead in the pod (R352), and powered off (R391). -/
  dead : Bool
  off : Bool
  control : SMap Control
  /-- M0 to M7 (R389). -/
  meas : SMap (BitVec 256)
  /-- Capacity attached to each CXL port in bytes (R385). -/
  cxl : SMap Nat
  /-- Frequency in MHz and voltage in mV of the 1,152 islands (R3, R391); one that firmware has not set stands at `nominalIsland`. -/
  islands : SMap (Nat × Nat)
  kernels : List Kernel
  teams : SMap Team
  /-- Records taken and not placed, by 16 · partition + queue, each with its slot's address (R264, R268). -/
  waiting : SMap (BitVec 512 × Nat)
  /-- The jobs of the records that `spawn` and `LAUNCH` appended and that are not yet taken, and of the record taken, each with its
  parent's logical clock, by 16 · partition + queue (R265, R298). -/
  fed : SMap (List (Job × Nat))
  /-- The queue whose record is placed next (R268), by partition. -/
  nextq : SMap Nat
  /-- The merges that drain (R387). -/
  merges : List Merge
  /-- The interleave registers, by partition and entry (R386), and the network-boundary registers: pairs of dies whose stations let
  traffic through (R387), by 4 · lower die + higher die. -/
  inter : SMap (SMap Interleave)
  bounds : SMap Bool
  /-- Package beats missed, by package (R352). -/
  missed : SMap Nat
  beat : SMap Bool
  /-- Reports signed (R390), and the function whose report's read-back is outstanding. -/
  draws : Nat
  reporting : Option Nat
  /-- Churn threads' start contexts are in the launch area; teams of churns by churn number (R362). -/
  churns : SMap Team
deriving DecidableEq, Repr

/-! ## Memory's own state -/

/-- A home sector (R153, R154): timestamps and the owning tile. DEDUCED, Assumption 15. -/
structure Sector where
  wts : Nat
  rts : Nat
  owner : Option Nat
  pinned : Bool
deriving DecidableEq, Repr

/-- A partial copy of a reduction (R324): the item's address, the die, the kind and the value. -/
structure Partial where
  key : Nat
  die : Nat
  op : AmoOp
  ty : ITy
  val : Word
deriving DecidableEq, Repr

/-- A master as an access table names it (R346): package and partition, with the host mark or the context and core. DEDUCED,
Assumption 82: `core` none closes the range for every core of the context. -/
structure Closure where
  lo : Nat
  hi : Nat
  pkg : Nat
  part : Nat
  ctx : Option Nat
  core : Option Nat
deriving DecidableEq, Repr

/-- A gradient record in a churn's queue (R364, R367), with the pusher's logical clock (R305). -/
structure Grad where
  w : Wide
  src : Nat
  cls : BitVec 2
  age : Nat
  clk : Nat
deriving DecidableEq, Repr

/-- A request that waits at its bank for a full word (R135): an outstanding load by its age, or an `lds` of the word's own tile, which
waits at its pc. -/
structure Waiter where
  word : Nat
  core : Nat
  load : Option Nat
  pc : Word
deriving DecidableEq, Repr

/-- A collective in progress at its group (R371 to R374): the members' dies in rank order with each one's pushing core and
command age, the surviving ranks, the next chunk. -/
structure Coll where
  gid : Nat
  kind : Nat
  dies : List Nat
  who : List (Nat × Nat)
  alive : List Nat
  chunk : Nat
  chunkLen : Nat
deriving DecidableEq, Repr

/-- What supervisor software does through registers of which the manual gives neither number nor address: `tpc` of a stopped thread
(R339), the end of a hold on a saved one (R274), the reservation of a barrier (R32), the closing of a range for a master (R347), a
later measurement in M4 to M7 (R389), an interleave entry (R386). DESIGN CHOICE, Assumption 95. -/
inductive SupAct where
  | tpc (c : CoreId) (v : Word)
  | release (c : CoreId)
  | reserve (d : DieId) (bid : BitVec 6) (on : Bool)
  | close (e : Closure) (on : Bool)
  | extend (pkg : BitVec 10) (m : BitVec 2) (digest : BitVec 256)
  | interleave (pkg : BitVec 10) (part : BitVec 2) (n : Nat) (e : Interleave)
deriving DecidableEq, Repr

/-- A request of the host: a write to memory or to the control block, or a read (R380, R381). -/
inductive HostReq where
  | write (key : Nat) (data : List Byte)
  | control (off : Nat) (data : List Byte)
  | read (bar2 : Bool) (off n : Nat)
deriving DecidableEq, Repr

/-- A request of a function that has not been served, and whether it stands among what a compact member holds. -/
structure Posted where
  pkg : Nat
  fn : Nat
  req : HostReq
  sent : Bool
deriving DecidableEq, Repr

/-- What happens next, where the spec leaves it to timing: a step of a unit, a turn of a core, time passing, or a replacement
that R94, R152 and R168 leave to the Z4. `grant`: the copy engine of a core's tile grants one piece, by number among those of the
core it picks (R272). `posted`: a package's station goes on with its host's requests (R380). -/
inductive Act where
  | event (i : Instr)
  | core (c : CoreId)
  | elapse (n : Nat)
  | dropRo (tile blk : Nat)
  | dropBlock (tile blk : Nat)
  | evict (c : CoreId) (word : Nat)
  | gather (key : Nat)
  | grant (c : CoreId) (n : Nat)
  | sup (a : SupAct)
  | posted (pkg : Nat)
deriving DecidableEq, Repr

/-- The machine. -/
structure State where
  /-- Tile clocks since reset at the nominal clock (R13). -/
  time : Nat
  /-- The core whose turn it is while `agenda` is empty; MODEL'S OWN. -/
  cur : CoreId
  /-- What happens before the next turn of `cur`; MODEL'S OWN. -/
  agenda : List Act
  /-- The age given to the next access or command. -/
  seq : Nat
  /-- Every memory (R148, R160, R361), one canonical list; the layout of its keys is `Machine/Mem.lean`'s. -/
  mem : List Host.Cell
  /-- Full/empty bits and uncorrectable marks by ECC unit (R134, R348). -/
  full : SMap Bool
  marks : SMap Bool
  cores : SMap Core
  tiles : SMap Tile
  quads : SMap Quad
  dies : SMap Die
  pkgs : SMap Pkg
  sectors : SMap Sector
  partials : List Partial
  /-- The minimum clocks last gathered (R155), by package and for the pod. -/
  pkgMin : SMap Nat
  podMin : Nat
  /-- The clock of the core that last wrote each 8-byte word of a store (R294, R297), and the greatest clock that a fence of
  kind `sc` has brought (R302). DEDUCED, Assumption 81. -/
  stamps : SMap Nat
  scClk : Nat
  /-- The waiters of full words, in the order their requests arrived (R135). -/
  waiters : List Waiter
  grads : SMap (List Grad)
  /-- Takes from a gradient queue since its oldest record of each class was taken (R46, R367). -/
  gstarve : SMap (SMap Nat)
  colls : List Coll
  closures : List Closure
  /-- Packages that are no member of the job's pod (R161). -/
  nonMembers : List Nat
  linksDown : List (Nat × Nat)
  /-- Host memory as the device reaches it (R375, R390), by bus address and package, and its 8-byte words that came in a poisoned TLP
  (R376). -/
  hostMem : List Host.Cell
  hostBad : SMap Bool
  /-- The completion of the host's latest read: its bytes, or none for Unsupported Request (R379, R380). -/
  hostReply : Option (List Byte)
  /-- What the hosts have posted and is not yet served, in the PCI Express order of each package (R380). -/
  posted : List Posted
deriving DecidableEq, Repr

/-! ## Reset -/

/-- Where a register's reset value is named: R31 for a thread's start; before it, zero (DESIGN CHOICE, Assumption 1). -/
def Core.idle : Core :=
  { st := .empty, pc := 0, x := Vector.replicate 32 0, p := 0, h := Vector.replicate 16 0, vp := Vector.replicate 8 0,
    job := { part := 0, ctx := 0 }, jobseed := 0, entry := 0, birth := 0, base := 0, size := 0, bid := 0, bv := false,
    tvec := 0, tcause := 0, tpc := 0, tval := 0, inh := false, fpstat := 0, tags := 0, rngctr := 0, remerr := 0,
    cls := 0, cap := 0, rc := [], poison := [], loads := [], sbuf := [], flights := [], msgs := [], sealed := false,
    vq := [], vcredit := 1, mcredit := 1, ccredit := 1, cmds := [], bwaiting := none, floors := [], token := none, waitFrom := none,
    abwaiting := none, wfiLimit := none, wfiEvent := false, snap := none,
    plan := [], got := [], mark := false, hold := false, saveMap := 0, savePc := 0, savedAt := 0, savedCls := 0, amask := 0,
    broken := false, brokenDesc := 0,
    gang := false, gangPos := 0, gangPath := [], left := [], clk := 0, tlb := [], refusal := none, report := false, dead := false }

def Ladle.idle : Ladle :=
  { owner := none, stage := .empty, k := 0, nA := [], nB := [], x := [], s := 0, thr := [], al := [], g := [] }

/-- A tile that no job has used: the defaults of R203, R224 and split 0 (DESIGN CHOICE, Assumption 1). -/
def Tile.idle : Tile :=
  { job := none, openTo := [], images := [], kept := [], vshare := 0x1111, tsplit := 0, accsplit := 0xFA50, req := none, acc := [], accTy := 0,
    accDiv := [], ladle := Ladle.idle, smm := none, clock := 0, blocks := [], ro := [], tlb := [], compact := none,
    signing := none, desc := 0, rots := 0, arriving := [], rotated := [], vstarve := [], mstarve := [], cstarve := [] }

/-- The tile map as made: logical tile k on physical tile k, 64 and 65 spare (R35). -/
def Quad.idle : Quad :=
  { tmap := [], out := [], gone := [], lost := [], tlb := [], turn := 0, testing := none, drain := none, passes := [], lastTurn := 0,
    served := [] }

def Barrier.idle : Barrier :=
  { kind := .free, phase := 0, mask := 0, links := [], arrived := 0, since := none, clk := 0 }

def Die.idle : Die :=
  { bars := [], sup := [], recs := 0, missed := [], beat := [], counted := [], off := false, silent := [], declared := [], collSeq := [],
    clstarve := [], ofstarve := [] }

def Control.idle : Control := { mreq := 0, mst := 0, nonce := 0, areq := false, raddr := 0, asked := none }

/-- A package at power-up, before boot (R388, R389). -/
def Pkg.idle : Pkg :=
  { parts := [], booted := false, bootFailed := false, dead := false, off := false, control := [], meas := [], cxl := [],
    islands := [], kernels := [], teams := [], waiting := [], fed := [], nextq := [], merges := [], inter := [], bounds := [], missed := [], beat := [],
    draws := 0, reporting := none, churns := [] }

def Sector.idle : Sector := { wts := 0, rts := 0, owner := none, pinned := false }

/-- The pod right after reset: every package powered and not booted, no thread, memory with nothing listed. -/
def State.reset : State :=
  { time := 0, cur := .tile 0, agenda := [], seq := 0, mem := [], full := [], marks := [], cores := [], tiles := [],
    quads := [], dies := [], pkgs := [], sectors := [], partials := [], pkgMin := [], podMin := 0, stamps := [], scClk := 0, waiters := [], grads := [],
    gstarve := [], colls := [], closures := [], nonMembers := [], linksDown := [], hostMem := [], hostBad := [], hostReply := none, posted := [] }

end Machine
end Sys2Proof
end

