-- ==== Sys2Proof/Machine/Mem.lean ====
section
/-! DEFINITION. Sparse maps, the one memory list with the layout of its keys, and the accessors of the units of a pod. -/

namespace Sys2Proof
namespace Machine

/-! ## Sparse maps -/

/-- The value listed at `k`. -/
def SMap.find {α : Type} : SMap α → Nat → Option α
  | [], _ => none
  | (k', v) :: m, k => if k = k' then some v else SMap.find m k

/-- The value at `k`, or the default of an unlisted key. -/
def SMap.get {α : Type} (m : SMap α) (d : α) (k : Nat) : α := (SMap.find m k).getD d

/-- List `v` at `k`. -/
def SMap.put {α : Type} : SMap α → Nat → α → SMap α
  | [], k, v => [(k, v)]
  | (k', v') :: m, k, v =>
    if k < k' then (k, v) :: (k', v') :: m
    else if k = k' then (k, v) :: m
    else (k', v') :: SMap.put m k v

/-- Unlist `k`. -/
def SMap.del {α : Type} : SMap α → Nat → SMap α
  | [], _ => []
  | (k', v') :: m, k => if k = k' then m else (k', v') :: SMap.del m k

/-- Keys strictly rising above `lo`. -/
def SMap.wfFrom {α : Type} : Nat → SMap α → Bool
  | _, [] => true
  | lo, (k, _) :: m => decide (lo ≤ k) && SMap.wfFrom (k + 1) m

/-! ## Memory -/

def tileBase : Nat := 2 ^ 57
def churnBase : Nat := 2 ^ 57 + 2 ^ 41

/-- Is the address the byte of a register home that holds p0 (R93)? Four homes stand in a tile store, one in a churn store. -/
def homeP0 (a : Nat) : Bool :=
  if a < tileBase then false
  else if a < churnBase then (a - tileBase) % 0x400 == 0 && decide ((a - tileBase) % 2 ^ 20 < 0x1000)
  else (a - churnBase) % 2 ^ 19 == 0

/-- What an unlisted address reads as: R93 gives every home's p0 its reset value 1, always 1, and its other fields 0; the manual
gives DRAM and the rest of the stores no power-up contents (DESIGN CHOICE, Assumption 2). -/
def memDefault (a : Nat) : Byte := if homeP0 a then 1 else 0

/-- One byte of memory. -/
def memGet (m : List Host.Cell) (a : Nat) : Byte := SMap.get m (memDefault a) a

/-- Store one byte; storing what an unlisted address reads as unlists it. -/
def memPut (m : List Host.Cell) (a : Nat) (b : Byte) : List Host.Cell :=
  if b = memDefault a then SMap.del m a else SMap.put m a b

/-- The canonical form: addresses strictly rising, and no entry that reads as an unlisted address does. -/
def Memory.wf (m : List Host.Cell) : Bool := SMap.wfFrom 0 m && m.all fun c => c.2 != memDefault c.1

/-- `n` bytes from `a`. -/
def memRead (m : List Host.Cell) (a : Nat) : Nat → List Byte
  | 0 => []
  | n + 1 => memGet m a :: memRead m (a + 1) n

/-- Store `bs` from `a`. -/
def memWrite (m : List Host.Cell) (a : Nat) : List Byte → List Host.Cell
  | [] => m
  | b :: bs => memWrite (memPut m a b) (a + 1) bs

/-! ## Keys of the memory list

A pod physical address (R160) is its own key. Tile stores, by package and logical tile, stand above them (a remap moves no
data: R35, R37), then churn stores (R361). -/

/-- The key of offset `off` in the store of tile `t` (1,024 · package + logical tile). -/
def tileKey (t off : Nat) : Nat := tileBase + t * 2 ^ 20 + off

/-- Is the key in DRAM? -/
def isDram (key : Nat) : Bool := decide (key < tileBase)

/-- Is the key in a tile store? -/
def isTileStore (key : Nat) : Bool := decide (tileBase ≤ key) && decide (key < churnBase)

def keyTile (key : Nat) : Nat := (key - tileBase) / 2 ^ 20
def keyOff (key : Nat) : Nat := (key - tileBase) % 2 ^ 20

/-- The package of a pod physical address (R160). -/
def paPkg (pa : Nat) : Nat := pa / 2 ^ 47

/-- The package on which a key is homed. -/
def keyPkg (key : Nat) : Nat :=
  if isDram key then paPkg key else if isTileStore key then keyTile key / 1024 else (key - churnBase) / (32 * 2 ^ 19)

/-- Bytes of memory at a key. -/
def State.read (s : State) (key n : Nat) : List Byte := memRead s.mem key n

def State.readNat (s : State) (key n : Nat) : Nat := leNat (memRead s.mem key n)

def State.write (s : State) (key : Nat) (bs : List Byte) : State := { s with mem := memWrite s.mem key bs }

def State.writeNat (s : State) (key n v : Nat) : State := s.write key (toBytes n v)

/-! ## Cores, tiles, dies, packages -/

def coreKey : CoreId → Nat
  | .tile lcn => lcn.toNat
  | .churn pkg c => 2 ^ 22 + pkg.toNat * 32 + c.toNat
  | .sup pkg die k => 2 ^ 23 + pkg.toNat * 8 + die.toNat * 2 + k.toNat

/-- The core of a key. -/
def coreOf (k : Nat) : CoreId :=
  if k < 2 ^ 22 then .tile (BitVec.ofNat 22 k)
  else if k < 2 ^ 23 then .churn (BitVec.ofNat 10 ((k - 2 ^ 22) / 32)) (BitVec.ofNat 5 (k - 2 ^ 22))
  else .sup (BitVec.ofNat 10 ((k - 2 ^ 23) / 8)) (BitVec.ofNat 2 ((k - 2 ^ 23) / 2)) (BitVec.ofNat 1 k)

def isTileCore (k : Nat) : Bool := decide (k < 2 ^ 22)
def isChurn (k : Nat) : Bool := decide (2 ^ 22 ≤ k) && decide (k < 2 ^ 23)
def isSup (k : Nat) : Bool := decide (2 ^ 23 ≤ k)

/-- The package of a core. -/
def corePkg (k : Nat) : Nat :=
  if k < 2 ^ 22 then k / 4096 else if k < 2 ^ 23 then (k - 2 ^ 22) / 32 else (k - 2 ^ 23) / 8

/-- The die of a core (R9, R360). -/
def coreDie (k : Nat) : Nat :=
  if k < 2 ^ 22 then k / 1024 % 4 else if k < 2 ^ 23 then (k - 2 ^ 22) % 32 / 8 else (k - 2 ^ 23) / 2 % 4

/-- The tile of a tile core. -/
def coreTile (k : Nat) : Nat := k / 4

/-- Number of a die in the pod. -/
def dieKey (pkg die : Nat) : Nat := pkg * 4 + die
def coreDieKey (k : Nat) : Nat := dieKey (corePkg k) (coreDie k)
def tileDieKey (t : Nat) : Nat := t / 256
def quadKey (pkg die quad : Nat) : Nat := (pkg * 4 + die) * 4 + quad
def tileQuadKey (t : Nat) : Nat := t / 64

/-- The store that local space names: the tile's, or the churn's (R187, R360); a supervisor core has none, and the
range of its number is reached by arrival objects alone (DESIGN CHOICE, Assumption 88). -/
def storeBase (k : Nat) : Nat :=
  if k < 2 ^ 22 then tileKey (k / 4) 0 else churnBase + (k - 2 ^ 22) * 2 ^ 19

/-- The core's place among its tile's cores (R25), 0 on a churn (R361). -/
def coreSlot (k : Nat) : Nat := if k < 2 ^ 22 then k % 4 else 0

/-- The first bytes of a core's register home, mailbox and tag state, and of an arrival object (R93, R139, R142, R200). -/
def homeKey (k : Nat) : Nat := storeBase k + 0x400 * coreSlot k
def mailKey (k : Nat) : Nat := storeBase k + 0x1000 + 0x400 * coreSlot k
def tagKey (k : Nat) : Nat := storeBase k + 0x2400 + 0x300 * coreSlot k
def arrivalKey (store n : Nat) : Nat := store + 0x2000 + 16 * n

def State.core (s : State) (k : Nat) : Core := s.cores.get Core.idle k
def State.setCore (s : State) (k : Nat) (c : Core) : State := { s with cores := s.cores.put k c }
def State.onCore (s : State) (k : Nat) (f : Core → Core) : State := s.setCore k (f (s.core k))

def State.tile (s : State) (t : Nat) : Tile := s.tiles.get Tile.idle t
def State.setTile (s : State) (t : Nat) (v : Tile) : State := { s with tiles := s.tiles.put t v }
def State.onTile (s : State) (t : Nat) (f : Tile → Tile) : State := s.setTile t (f (s.tile t))

def State.quad (s : State) (q : Nat) : Quad := s.quads.get Quad.idle q
def State.onQuad (s : State) (q : Nat) (f : Quad → Quad) : State := { s with quads := s.quads.put q (f (s.quad q)) }

def State.die (s : State) (d : Nat) : Die := s.dies.get Die.idle d
def State.onDie (s : State) (d : Nat) (f : Die → Die) : State := { s with dies := s.dies.put d (f (s.die d)) }

def State.pkg (s : State) (p : Nat) : Pkg := s.pkgs.get Pkg.idle p
def State.onPkg (s : State) (p : Nat) (f : Pkg → Pkg) : State := { s with pkgs := s.pkgs.put p (f (s.pkg p)) }

def State.bar (s : State) (d b : Nat) : Barrier := (s.die d).bars.get Barrier.idle b
def State.onBar (s : State) (d b : Nat) (f : Barrier → Barrier) : State :=
  s.onDie d fun v => { v with bars := v.bars.put b (f (v.bars.get Barrier.idle b)) }

def State.sector (s : State) (n : Nat) : Sector := s.sectors.get Sector.idle n
def State.onSector (s : State) (n : Nat) (f : Sector → Sector) : State :=
  { s with sectors := s.sectors.put n (f (s.sector n)) }

/-- A supervisor register of a die (R358). -/
def State.sup (s : State) (d n : Nat) : Word := (s.die d).sup.get 0 n
def State.setSup (s : State) (d n : Nat) (v : Word) : State := s.onDie d fun x => { x with sup := x.sup.put n v }

/-- The partition that a die belongs to (R386), by package and die; 4 where none exists. -/
def State.partOf (s : State) (pkg die : Nat) : Nat :=
  match (s.pkg pkg).parts.find? fun e => e.2.getLsbD die with
  | some (n, _) => n
  | none => 4

/-- The die whose supervisor registers hold a partition's `ctxtab` and `lnarea`: its lowest (DESIGN CHOICE, Assumption 20). -/
def State.partDie (s : State) (pkg part : Nat) : Nat :=
  let m := (s.pkg pkg).parts.get 0 part
  dieKey pkg (if m.getLsbD 0 then 0 else if m.getLsbD 1 then 1 else if m.getLsbD 2 then 2 else 3)

/-- The next age. -/
def State.tick (s : State) : State := { s with seq := s.seq + 1 }

/-! ## Full bits and uncorrectable marks -/

/-- The full/empty bit of the 8-byte word at a key (R134). -/
def State.isFull (s : State) (key : Nat) : Bool := s.full.get false (key / 8)

def State.setFull (s : State) (key : Nat) (b : Bool) : State :=
  { s with full := if b then s.full.put (key / 8) true else s.full.del (key / 8) }

/-- The full bits of the words from `w` on that the bytes `key` to `key + n - 1` touch. DEDUCED, Assumption 50. -/
def State.setFulls (s : State) (key n : Nat) (b : Bool) : State :=
  (List.range ((key + n + 7) / 8 - key / 8)).foldl (fun t i => t.setFull ((key / 8 + i) * 8) b) s

/-- The full bits of the words that lie whole in the bytes `key` to `key + n - 1` (R144). -/
def State.setWhole (s : State) (key n : Nat) : State :=
  (List.range ((key + n) / 8 - (key + 7) / 8)).foldl (fun t i => t.setFull (((key + 7) / 8 + i) * 8) true) s

/-- The size of an ECC word (R348): 32 bytes in DRAM, 8 elsewhere. -/
def eccUnit (key : Nat) : Nat := if isDram key then 32 else 8

/-- The mark's index: the first byte of the ECC word, in units of 8 bytes. -/
def eccIndex (key : Nat) : Nat := key / eccUnit key * (eccUnit key / 8)

def State.isMarked (s : State) (key : Nat) : Bool := s.marks.get false (eccIndex key)

def State.setMark (s : State) (key : Nat) (b : Bool) : State :=
  { s with marks := if b then s.marks.put (eccIndex key) true else s.marks.del (eccIndex key) }

/-- The first marked byte of a range. -/
def State.markedIn (s : State) (key : Nat) : Nat → Option Nat
  | 0 => none
  | n + 1 => if s.isMarked key then some key else s.markedIn (key + 1) n

/-- A range of memory comes to hold 0, with empty words and fresh ECC (R150, R285, R354). -/
def State.zeroRange (s : State) (key n : Nat) : State :=
  { s with mem := s.mem.filter fun e => !(decide (key ≤ e.1) && decide (e.1 < key + n)),
           full := s.full.filter fun e => !(decide (key ≤ e.1 * 8) && decide (e.1 * 8 < key + n)),
           marks := s.marks.filter fun e => !(decide (key ≤ e.1 * 8) && decide (e.1 * 8 < key + n)) }

/-- Write bytes: an ECC word of which every byte is replaced gets fresh ECC (R348). -/
def State.store (s : State) (key : Nat) (bs : List Byte) : State :=
  let s := s.write key bs
  let u := eccUnit key
  let lo := (key + u - 1) / u
  let hi := (key + bs.length) / u
  (List.range (hi - lo)).foldl (fun t i => if t.isMarked ((lo + i) * u) then t.setMark ((lo + i) * u) false else t) s

def State.storeNat (s : State) (key n v : Nat) : State := s.store key (toBytes n v)

end Machine
end Sys2Proof
end

