-- ==== Sys2Proof/Machine/Flags.lean ====
section
/-! DEFINITION. Guards, predicates, the pairs that compares write, the flags of `fpstat`, and the control registers that are
computed from the state of a core. -/

namespace Sys2Proof
namespace Machine

/-! ## Predicates and guards -/

/-- p0 reads 1 (R92). -/
def Core.rp (c : Core) (p : PReg) : Bool := p == 0 || c.p.getLsbD p.toNat

/-- A write of p0 is discarded (R99); a predicate written again loses its poison (R138), which `Core.poison` holds at 128 + k
for p k. -/
def Core.wp (c : Core) (p : PReg) (v : Bool) : Core :=
  if p = 0 then c
  else { c with p := if v then c.p ||| BitVec.twoPow 8 p.toNat else c.p &&& ~~~(BitVec.twoPow 8 p.toNat),
                poison := c.poison.del (128 + p.toNat) }

/-- The entry of a truth table that three values select (R71, R119). -/
def tableBit (t : BitVec 8) (a b c : Bool) : Bool := t.getLsbD (4 * a.toNat + 2 * b.toNat + c.toNat)

end Machine
open Machine

/-- A guard against the scalar predicates (R97). -/
def Guard.eval (g : Guard) (c : Core) : Bool := tableBit g.t (c.rp g.a) (c.rp g.b) (c.rp g.c)

namespace Machine

/-- vp0 reads all ones (R92). -/
def Core.rvp (c : Core) (p : PReg) : Wide := if p = 0 then BitVec.allOnes 256 else c.vp[p.toNat]

def Core.wvp (c : Core) (p : PReg) (v : Wide) : Core :=
  if p = 0 then c
  else { c with vp := c.vp.set p.toNat v, poison := ((List.range 4).map (96 + 4 * p.toNat + ·)).foldl SMap.del c.poison }

/-- A truth table over three vector predicates, lane by lane. -/
def tableLanes (t : BitVec 8) (a b c : Wide) : Wide :=
  (List.range 8).foldl (fun acc i => if t.getLsbD i then
    acc ||| ((if i / 4 % 2 = 1 then a else ~~~a) &&& (if i / 2 % 2 = 1 then b else ~~~b) &&& (if i % 2 = 1 then c else ~~~c))
    else acc) 0

end Machine
open Machine

/-- The guard mask of the first `n` lanes (R215). -/
def Guard.lanes (g : Guard) (c : Core) (n : Nat) : Wide :=
  tableLanes g.t (c.rvp g.a) (c.rvp g.b) (c.rvp g.c) &&& BitVec.ofNat 256 (2 ^ n - 1)

namespace Machine

/-- The pair of R100 under a true guard: the new values of pt and pf. -/
def pairTrue (wm : Wm) (v pt pf : Bool) : Bool × Bool :=
  match wm with
  | .set | .clr => (v, !v)
  | .and => (pt && v, pf || !v)
  | .or => (pt || v, pf && !v)

/-- Write a pair; the value of pf is written last (R99). -/
def Core.writePair (c : Core) (pt pf : PReg) (v : Bool × Bool) : Core := (c.wp pt v.1).wp pf v.2

/-- A compare's result under a true guard (R100). -/
def Core.setPair (c : Core) (wm : Wm) (pt pf : PReg) (v : Bool) : Core :=
  c.writePair pt pf (pairTrue wm v (c.rp pt) (c.rp pf))

/-- What a compare writes under a false guard: `clr` clears the pair (R98, R100). -/
def Core.clearPair (c : Core) (wm : Wm) (pt pf : PReg) : Core :=
  if wm = .clr then c.writePair pt pf (false, false) else c

/-! ## fpstat -/

/-- OR flags into `fpstat` (R111, R181). -/
def Core.raise (c : Core) (f : Flags) : Core := { c with fpstat := c.fpstat ||| f.zeroExtend 64 }

/-- Is the trap of a raised flag enabled (R111)? -/
def Core.fpTraps (c : Core) (f : Flags) : Bool := f &&& fld c.fpstat 8 5 != 0

/-- The dither phase (R181). -/
def Core.dph (c : Core) : BitVec 5 := fld c.fpstat 16 5

/-- Advance the dither phase modulo 32 (R183). -/
def Core.advanceDph (c : Core) : Core :=
  { c with fpstat := (c.fpstat &&& ~~~(0x1F0000 : Word)) ||| ((c.dph + 1).zeroExtend 64 <<< 16) }

/-! ## Integer arithmetic (R101 to R105) -/

end Machine
open Machine

/-- The value of the low bits of a word at a type. -/
def ITy.value (ty : ITy) (v : Word) : Int :=
  let n := v.toNat % 2 ^ ty.width
  if ty.signed && decide (2 ^ (ty.width - 1) ≤ n) then (n : Int) - 2 ^ ty.width else n

/-- Extend(r<w-1:0>, ty): sign-extended for `.s`, zero-extended for `.n`. -/
def ITy.extend (ty : ITy) (r : Int) : Word := BitVec.ofInt 64 (ty.value (BitVec.ofInt 64 r))

namespace Machine

/-- Division and remainder truncated towards zero, with the corner cases of R103. -/
def divInt (ty : ITy) (a b : Int) : Int := if b = 0 then -1 else if ty.signed then Int.tdiv a b else a / b

def remInt (ty : ITy) (a b : Int) : Int := if b = 0 then a else if ty.signed then Int.tmod a b else a % b

/-- A bitwise operation on the low w bits. -/
def bitInt (f : Word → Word → Word) (a b : Int) : Int := ((f (BitVec.ofInt 64 a) (BitVec.ofInt 64 b)).toNat : Int)

end Machine
open Machine

/-- The unsigned low bits of a value. -/
def ITy.pattern (ty : ITy) (a : Int) : Nat := (BitVec.ofInt 64 a).toNat % 2 ^ ty.width

namespace Machine

/-- The shifts of R104, by `s` from 0 to 63. -/
def sllInt (ty : ITy) (a : Int) (s : Nat) : Int := if s < ty.width then (ty.pattern a * 2 ^ s : Nat) else 0

def srlInt (ty : ITy) (a : Int) (s : Nat) : Int := (ty.pattern a / 2 ^ s : Nat)

/-- Copies of bit w-1 whatever the signedness. -/
def sraInt (ty : ITy) (a : Int) (s : Nat) : Int :=
  let n := ty.pattern a
  (if 2 ^ (ty.width - 1) ≤ n then (n : Int) - 2 ^ ty.width else n) / 2 ^ s

def rotInt (ty : ITy) (a : Int) (s : Nat) : Int :=
  let r := s % ty.width
  let n := ty.pattern a
  (n / 2 ^ r + n % 2 ^ r * 2 ^ (ty.width - r) : Nat)

/-- Leading zeros in the low w bits. -/
def leadZeros (n : Nat) : Nat → Nat
  | 0 => 0
  | w + 1 => if n / 2 ^ w % 2 = 1 then 0 else 1 + leadZeros n w

/-- Trailing zeros, of at most `w`. -/
def trailZeros (n : Nat) : Nat → Nat
  | 0 => 0
  | w + 1 => if n % 2 = 1 then 0 else 1 + trailZeros (n / 2) w

def popCount (n : Nat) : Nat → Nat
  | 0 => 0
  | w + 1 => n % 2 + popCount (n / 2) w

/-- The condition of `cmp` (R116); `ord` and `uno` never pass decode. -/
def intCond (cond : Cond) (a b : Int) : Bool :=
  match cond with
  | .eq => a == b
  | .ne => a != b
  | .lt => decide (a < b)
  | .ge => decide (b ≤ a)
  | .le => decide (a ≤ b)
  | .gt => decide (b < a)
  | .ord | .uno => false

/-! ## Scalar floating operands (R110) -/

end Machine
open Machine

def FTy.fmt : FTy → Fmt
  | .f32 => fmtF32
  | .f64 => fmtF64

def FTy.bits (ty : FTy) (v : Word) : Nat := match ty with | .f32 => v.toNat % 2 ^ 32 | .f64 => v.toNat

def FTy.val (ty : FTy) (v : Word) : Val := valueOf ty.fmt (ty.bits v)

/-- The word of a rounded result and its flags: every NaN result is the default NaN. -/
def FTy.pack (ty : FTy) (rm : Rm) (r : Res) : Word × Flags :=
  let o := packIeee ty.fmt rm r.1
  (BitVec.ofNat 64 o.1, o.2 ||| r.2)

/-! ## Atomic operations (R320) -/

/-- Op(old, b) at width w, on patterns. -/
def AmoOp.apply (op : AmoOp) (ty : ITy) (old b : Word) : Word :=
  let w := ty.width
  let lo (v : Word) : Nat := v.toNat % 2 ^ w
  let a := ty.value old
  let c := ty.value b
  BitVec.ofNat 64 (match op with
    | .swap => lo b
    | .add => (lo old + lo b) % 2 ^ w
    | .and => lo (old &&& b)
    | .or => lo (old ||| b)
    | .xor => lo (old ^^^ b)
    | .min => if c < a then lo b else lo old
    | .max => if a < c then lo b else lo old
    | .fadd =>
      let f := if w = 32 then FTy.f32 else FTy.f64
      (f.pack .rne (Val.add .rne (f.val old) (f.val b))).1.toNat)

/-- The identity that a partial copy starts at (R324). -/
def AmoOp.identity (op : AmoOp) (ty : ITy) : Word :=
  match op with
  | .and => BitVec.ofNat 64 (2 ^ ty.width - 1)
  | .min => if ty.signed then BitVec.ofNat 64 (2 ^ (ty.width - 1) - 1) else BitVec.ofNat 64 (2 ^ ty.width - 1)
  | .max => if ty.signed then BitVec.ofNat 64 (2 ^ (ty.width - 1)) else 0
  | .fadd => BitVec.ofNat 64 (2 ^ (ty.width - 1))
  | _ => 0

/-- The register value of an atomic's old value (R321): `.f32` is zero-extended. -/
def AmoOp.oldValue (op : AmoOp) (ty : ITy) (old : Nat) : Word :=
  if op = .fadd then BitVec.ofNat 64 old else ty.extend old

/-! ## Counters, tag state and mailboxes: fields of memory (R142, R200) -/

namespace Machine

/-- Replace bits [lo + n - 1 : lo] of `v`. -/
def setFld (v lo n x : Nat) : Nat := v % 2 ^ lo + x % 2 ^ n * 2 ^ lo + v / 2 ^ (lo + n) * 2 ^ (lo + n)

def getFld (v lo n : Nat) : Nat := v / 2 ^ lo % 2 ^ n

end Machine
end Sys2Proof
end

