-- ==== Sys2Proof/Machine/Operands.lean ====
section
/-! DEFINITION. Which registers a word names, register reads and writes with the register cache over the home, and the element
layout that a handle gives. -/

namespace Sys2Proof

namespace Machine

/-! ## Home words (R93): x k is word k, h k words 32 + 4k on, vp k words 96 + 4k on. The predicates share word 0; p k is named
128 + k, so that each keeps its own poison (R138, R327) -/

def xWords (r : XReg) : List Nat := if r = 0 then [] else [r.toNat]
def hWords (h : HReg) : List Nat := (List.range 4).map (32 + 4 * h.toNat + ·)
def vWords (p : PReg) : List Nat := if p = 0 then [] else (List.range 4).map (96 + 4 * p.toNat + ·)
def pWords (ps : List PReg) : List Nat := (ps.filter (· != 0)).map fun p => 128 + p.toNat
def allPWords : List Nat := pWords [1, 2, 3, 4, 5, 6, 7]

/-- The home word that holds a named one. -/
def homeWordOf (w : Nat) : Nat := if w < 128 then w else 0

/-- The named words that a home word holds. -/
def namesOf (i : Nat) : List Nat := if i = 0 then allPWords else [i]

/-- The pair that a compare reads before it writes: the modes that combine (R100). -/
def pairReads (wm : Wm) (ws : List Nat) : List Nat :=
  match wm with
  | .set | .clr => []
  | .and | .or => ws

end Machine
open Machine

def VOp.words : VOp → List Nat
  | .h v => hWords v.h
  | .x r => xWords r

def VHandle.writes (v : VHandle) : List Nat := if v.adv then hWords v.h else []

def VOp.writes : VOp → List Nat
  | .h v => v.writes
  | .x _ => []

/-- Is the word a vector word, whose guard is read lane by lane (R97)? -/
def Instr.isVector : Instr → Bool
  | .vadd .. | .vsub .. | .vmul .. | .vfma .. | .vmin .. | .vmax .. | .vabs .. | .vneg .. | .vexp2 .. | .vlog2 .. | .vrcp ..
  | .vrsq .. | .vtanh .. | .vcvt .. | .vquant .. | .vamax .. | .vred .. | .vcmp .. | .vsel .. | .vperm .. | .vbcast .. | .vmov ..
  | .vfill .. | .vempty .. | .vplog .. | .vpcnt .. | .vpfirst .. | .vpmovFromX .. | .vpmovToX .. => true
  | _ => false

/-- The guard of an instruction word; of another step, one that is always true. -/
def Instr.guard (i : Instr) : Guard :=
  match i.parts with
  | some (g, _, _) => g
  | none => { t := 0xFF, a := 0, b := 0, c := 0 }

/-- The home words that a guard reads. -/
def Instr.guardWords (i : Instr) : List Nat :=
  let g := i.guard
  if i.isVector then vWords g.a ++ vWords g.b ++ vWords g.c else pWords [g.a, g.b, g.c]

/-- The home words of the scalar and vector-predicate destinations that a vector instruction writes when it completes (R219). -/
def Instr.lateWords : Instr → List Nat
  | .vred _ o | .vamax _ o => xWords o.rd
  | .vpcnt _ o | .vpfirst _ o => xWords o.rd
  | .vpmovToX _ o => xWords o.rd
  | .vcmp _ o => vWords o.pt ++ vWords o.pf
  | .vplog _ o => vWords o.pd
  | .vpmovFromX _ o => vWords o.pd
  | _ => []

/-- The home words an instruction word reads, its guard's aside, and those it writes at issue. What a `push` reads through its
command block is found when the block is known (R192). -/
def Instr.uses (i : Instr) : List Nat × List Nat :=
  match i with
  | .add _ o | .sub _ o | .mul _ o | .mulh _ o | .div _ o | .rem _ o | .and _ o | .or _ o | .xor _ o | .andn _ o | .sll _ o
  | .srl _ o | .sra _ o | .rot _ o | .min _ o | .max _ o => (xWords o.ra ++ xWords o.rb, xWords o.rd)
  | .addImm _ o | .mulImm _ o | .andImm _ o | .orImm _ o | .xorImm _ o | .andnImm _ o | .sllImm _ o | .srlImm _ o | .sraImm _ o
  | .rotImm _ o | .minImm _ o | .maxImm _ o => (xWords o.ra, xWords o.rd)
  | .clz _ o | .ctz _ o | .popc _ o | .sext _ o | .zext _ o => (xWords o.ra, xWords o.rd)
  | .li _ rd _ | .adr _ rd _ => ([], xWords rd)
  | .lih _ rd _ => (xWords rd, xWords rd)
  | .lea _ o => (xWords o.rb, xWords o.r)
  | .padr _ rd ra rb => (xWords ra ++ xWords rb, xWords rd)
  | .fadd _ o | .fsub _ o | .fmul _ o | .fdiv _ o => (xWords o.ra ++ xWords o.rb, xWords o.rd)
  | .fma _ o => (xWords o.ra ++ xWords o.rb ++ xWords o.rc, xWords o.rd)
  | .fsqrt _ o => (xWords o.ra, xWords o.rd)
  | .fmin _ o | .fmax _ o => (xWords o.ra ++ xWords o.rb, xWords o.rd)
  | .fcvt _ o => (xWords o.ra, xWords o.rd)
  | .fclass _ o => (xWords o.ra, xWords o.rd)
  | .cmp _ o => (xWords o.ra ++ (match o.b with | .reg r => xWords r | .imm _ => []) ++ pairReads o.wm (pWords [o.pt, o.pf]),
      pWords [o.pt, o.pf])
  | .fcmp _ o => (xWords o.ra ++ xWords o.rb ++ pairReads o.wm (pWords [o.pt, o.pf]), pWords [o.pt, o.pf])
  | .tbit _ o => (xWords o.ra ++ pairReads o.wm (pWords [o.pt, o.pf]), pWords [o.pt, o.pf])
  | .plog _ o => (pWords [o.sa, o.sb, o.sc], pWords [o.pd])
  | .pmovToX _ x => (allPWords, xWords x)
  | .pmovToPr _ x => (xWords x, allPWords)
  | .call _ _ => ([], xWords 1)
  | .jr _ rd ra => (xWords ra, xWords rd)
  | .ld _ o | .lds _ o | .ldc _ o => (xWords o.rb, xWords o.r)
  | .st _ o | .stf _ o => (xWords o.rb ++ xWords o.r, [])
  | .pref _ o | .clean _ o | .inval _ o => (xWords o.rb, [])
  | .msend _ o => (xWords o.rb ++ xWords o.r, [])
  | .mrecv _ o => (xWords o.rb, xWords o.r)
  | .amo _ o => (xWords o.ra ++ xWords o.rb, xWords o.rd)
  | .cas _ o => (xWords o.ra ++ xWords o.rb ++ xWords o.rc, xWords o.rd)
  | .red _ o => (xWords o.ra ++ xWords o.rb, [])
  | .arrive _ rd _ => ([], xWords rd)
  | .bwait _ _ ra pt pf => (xWords ra, pWords [pt, pf])
  | .bmask _ _ ra | .bmaskRd _ _ ra => (xWords ra, [])
  | .push _ _ cb => ((List.range 4).map (4 * cb.toNat + ·), [])
  | .pushTry _ _ cb pt pf => ((List.range 4).map (4 * cb.toNat + ·), pWords [pt, pf])
  | .qstat _ _ rd => ([], xWords rd)
  | .tany _ rd ra | .tfind _ rd ra => (xWords ra, xWords rd)
  | .cancel _ _ rd => ([], xWords rd)
  | .abinit _ _ ra | .abinitReset _ _ ra => (xWords ra, [])
  | .hset _ h _ x => (hWords h ++ xWords x, hWords h)
  | .hget _ x h _ => (hWords h, xWords x)
  | .hmov _ h hs => (hWords hs, hWords h)
  | .hadv _ h x => (hWords h ++ xWords x, hWords h)
  | .hld _ o => (xWords o.rb, hWords o.h)
  | .hst _ o => (xWords o.rb ++ hWords o.h, [])
  | .vadd _ o | .vsub _ o | .vmul _ o => (hWords o.d.h ++ o.a.words ++ o.b.words, o.d.writes ++ o.a.writes ++ o.b.writes)
  | .vfma _ o => (hWords o.d.h ++ hWords o.a.h ++ o.b.words ++ o.c.words, o.d.writes ++ o.a.writes ++ o.b.writes ++ o.c.writes)
  | .vmin _ o | .vmax _ o => (hWords o.d.h ++ o.a.words ++ o.b.words, o.d.writes ++ o.a.writes ++ o.b.writes)
  | .vabs _ o | .vneg _ o => (hWords o.d.h ++ hWords o.a.h, o.d.writes ++ o.a.writes)
  | .vexp2 _ o | .vlog2 _ o | .vrcp _ o | .vrsq _ o | .vtanh _ o => (hWords o.d.h ++ hWords o.a.h, o.d.writes ++ o.a.writes)
  | .vcvt _ o => (hWords o.d.h ++ hWords o.a.h ++ (o.scale.elim [] xWords) ++ (o.clip.elim [] xWords), o.d.writes ++ o.a.writes)
  | .vquant _ o => (hWords o.d.h ++ hWords o.a.h ++ (o.scale.elim [] xWords) ++ (o.amax.elim [] fun p => xWords p.1),
      o.d.writes ++ o.a.writes)
  | .vamax _ o | .vred _ o => (hWords o.a.h ++ xWords o.xb, xWords o.rd ++ o.a.writes)
  | .vcmp _ o => (hWords o.a.h ++ o.b.words ++ pairReads o.wm (vWords o.pt ++ vWords o.pf), o.a.writes ++ o.b.writes)
  | .vsel _ o => (hWords o.d.h ++ vWords o.sel ++ o.a.words ++ o.b.words, o.d.writes ++ o.a.writes ++ o.b.writes)
  | .vperm _ o => (hWords o.d.h ++ hWords o.a.h ++ hWords o.ix.h, o.d.writes ++ o.a.writes ++ o.ix.writes)
  | .vbcast _ o => (hWords o.d.h ++ hWords o.a.h ++ xWords o.x, o.d.writes ++ o.a.writes)
  | .vmov _ o | .vfill _ o => (hWords o.d.h ++ o.a.words, o.d.writes ++ o.a.writes)
  | .vempty _ d => (hWords d.h, d.writes)
  | .vplog _ o => (vWords o.sa ++ vWords o.sb ++ vWords o.sc, [])
  | .vpcnt _ o | .vpfirst _ o => (vWords o.a, xWords o.rd)
  | .vpmovFromX _ o => (xWords o.x, [])
  | .vpmovToX _ o => (vWords o.a, xWords o.rd)
  | .csrr _ rd _ => ([], xWords rd)
  | .csrw _ o | .csrset _ o | .csrclr _ o => (xWords o.ra, xWords o.rd)
  | .wfi _ ra => (xWords ra, [])
  | .seal _ ra rb => (xWords ra ++ xWords rb, [])
  | .tlbi _ ra rb _ => (xWords ra ++ xWords rb, [])
  | .spawn _ _ ra => (xWords ra, [])
  | .join _ ra rb => (xWords ra ++ xWords rb, [])
  | .sign _ ra | .dissolve _ ra | .xfer _ ra | .sstep _ ra => (xWords ra, [])
  | .qget _ rd _ pt pf => ([], (List.range 4).map (rd.toNat + ·) ++ pWords [pt, pf])
  | .rand _ rd => ([], xWords rd)
  | _ => ([], [])

namespace Machine

/-- The 8-byte words that a range touches. -/
def wordsOf (key n : Nat) : List Nat := (List.range ((key + n + 7) / 8 - key / 8)).map (key / 8 + ·)

/-! ## Registers -/

/-- x0 reads 0 (R92). -/
def Core.rx (c : Core) (r : XReg) : Word := if r = 0 then 0 else c.x[r.toNat]

/-- A write of x0 is discarded (R92); a register written again loses its poison (R138). -/
def Core.wx (c : Core) (r : XReg) (v : Word) : Core :=
  if r = 0 then c else { c with x := c.x.set r.toNat v, poison := c.poison.del r.toNat }

def Core.rh (c : Core) (h : HReg) : Wide := c.h[h.toNat]

def Core.wh (c : Core) (h : HReg) (v : Wide) : Core :=
  { c with h := c.h.set h.toNat v, poison := (hWords h).foldl SMap.del c.poison }

/-- The word of the home that backs a register (R93). -/
def Core.homeWord (c : Core) (i : Nat) : Word :=
  if i = 0 then (c.p ||| 1).zeroExtend 64
  else if i < 32 then c.x[i]?.getD 0
  else if i < 96 then ((c.h[(i - 32) / 4]?.getD 0) >>> (64 * ((i - 32) % 4))).truncate 64
  else if i < 100 then 0
  else if i < 128 then ((c.vp[(i - 96) / 4]?.getD 0) >>> (64 * ((i - 96) % 4))).truncate 64
  else 0

/-- Replace word `i` of a 256-bit register. -/
def setWideWord (v : Wide) (i : Nat) (w : Word) : Wide :=
  (v &&& ~~~((BitVec.ofNat 256 (2 ^ 64 - 1)) <<< (64 * i))) ||| ((w.zeroExtend 256) <<< (64 * i))

/-- Take a register's word from the home. -/
def Core.setHomeWord (c : Core) (i : Nat) (w : Word) : Core :=
  if i = 0 then { c with p := w.truncate 8 ||| 1 }
  else if i < 32 then { c with x := c.x.set! i w }
  else if i < 96 then
    { c with h := c.h.set! ((i - 32) / 4) (setWideWord (c.h[(i - 32) / 4]?.getD 0) ((i - 32) % 4) w) }
  else if i < 128 then
    { c with vp := c.vp.set! ((i - 96) / 4) (setWideWord (c.vp[(i - 96) / 4]?.getD 0) ((i - 96) % 4) w) }
  else c

/-- Home words that a long load or a queued vector instruction has yet to write (R127, R219). -/
def Core.pendingWords (c : Core) : List Nat :=
  (c.loads.flatMap fun l => match l.kind with
    | .handle => hWords (BitVec.ofNat 4 l.reg)
    | _ => xWords (BitVec.ofNat 5 l.reg)) ++ c.vq.flatMap fun v => v.i.lateWords

/-- The size of the register cache (R94). -/
def rcSize : Nat := 64

/-- Write a home word back; the home has 128 (R93). A poisoned register's word keeps its mark (R138). DEDUCED, Assumption 83. -/
def State.writeHome (s : State) (k i : Nat) : State :=
  if i < 128 then
    let t := s.storeNat (homeKey k + 8 * i) 8 ((s.core k).homeWord i).toNat
    if (namesOf i).any fun w => ((s.core k).poison.find w).isSome then t.setMark (homeKey k + 8 * i) true else t
  else s

/-- Evict the oldest entries until `n` remain; a dirty one is written back (R94). -/
def State.trimRc (s : State) (k n : Nat) : State :=
  let c := s.core k
  let out := c.rc.take (c.rc.length - n)
  let s := out.foldl (fun t e => if e.2 then t.writeHome k e.1 else t) s
  s.onCore k fun c => { c with rc := c.rc.drop (c.rc.length - n) }

/-- The window address of a home word, the source of a poison that a fill brings (R138, R327). -/
def homeVa (k i : Nat) : Word := BitVec.ofNat 64 (2 ^ 56 + coreTile k * 2 ^ 20 + 0x400 * coreSlot k + 8 * i)

/-- Fill the words named and mark the written ones dirty (R94); what is evicted for them is none of them. A fill of a marked
home word poisons the registers it holds (R327), until they are written. The registers hold what the fill would bring: a word that the
cache does not hold is written in the home by no one but a supervisor core, and then in the register too. -/
def State.fill (s : State) (k : Nat) (reads writes : List Nat) : State :=
  let c := s.core k
  let named := ((reads ++ writes).map homeWordOf).eraseDups
  let dirty := writes.map homeWordOf
  let new := named.filter fun i => !c.rc.any fun e => e.1 == i
  let bad := new.filter fun i => s.isMarked (homeKey k + 8 * i)
  let kept := c.rc.filter fun e => !named.contains e.1
  let rc := kept ++ named.map fun i => (i, dirty.contains i || c.rc.contains (i, true))
  let hit := bad.flatMap fun i => (namesOf i).map fun w => (w, i)
  let poison := hit.foldl (fun p e => p.put e.1 (homeVa k e.2)) c.poison
  (s.setCore k { c with rc := rc, poison := poison }).trimRc k rcSize

/-- The poisoned word that an instruction reads first, with the address of its data (R138). -/
def Core.poisonOf (c : Core) (reads : List Nat) : Option Word := reads.findSome? fun i => c.poison.find i

/-- Every dirty entry is written back and the cache empties (R94). -/
def State.flushRc (s : State) (k : Nat) : State := s.trimRc k 0

/-- Take every register from the home (R94): the cache starts empty. -/
def State.loadHome (s : State) (k : Nat) : State :=
  let c := s.core k
  s.setCore k ((List.range 128).foldl (fun c i => c.setHomeWord i (BitVec.ofNat 64 (s.readNat (homeKey k + 8 * i) 8)))
    { c with rc := [], poison := [] })

/-- Write every word of the home from the registers with fresh ECC (R94, R333). -/
def State.initHome (s : State) (k : Nat) : State :=
  (List.range 128).foldl (fun t i => t.writeHome k i) (s.onCore k fun c => { c with rc := [], poison := [] })

/-- A register write that arrives late: the home holds every register of a thread that is stopped (R94). -/
def State.lateWrite (s : State) (k : Nat) (words : List Nat) (f : Core → Core) : State :=
  if (s.core k).st = .running ∨ (s.core k).st = .saving then
    (s.fill k [] words).onCore k f
  else words.foldl (fun t i => t.writeHome k i) (s.onCore k f)

/-- A write of `n` bytes of register homes by another master reaches the registers whose words no register cache holds (R94, R95). -/
def State.takeHome (s : State) (key n : Nat) : State :=
  if isTileStore key && decide (keyOff key < 0x1000) then
    (wordsOf key n).foldl (fun u w =>
      let k := keyTile key * 4 + keyOff (8 * w) / 0x400
      let i := keyOff (8 * w) % 0x400 / 8
      if (u.core k).rc.any fun e => e.1 == i then u
      else u.onCore k fun c =>
        { c.setHomeWord i (BitVec.ofNat 64 (u.readNat (8 * w) 8)) with poison := (namesOf i).foldl SMap.del c.poison }) s
  else s

/-! ## Handles (R186) -/

def hBase (h : Wide) : Nat := (fld h 0 64).toNat
def hRows (h : Wide) : Nat := (fld h 64 16).toNat
def hCols (h : Wide) : Nat := (fld h 80 16).toNat
def hPitch (h : Wide) : Nat := (fld h 96 32).toNat
def hCursor (h : Wide) : Int := (fld h 128 32).toInt
def hStep (h : Wide) : BitVec 32 := fld h 160 32
def hFmt (h : Wide) : Nat := (fld h 192 5).toNat
def hSpace (h : Wide) : Nat := (fld h 197 2).toNat
def hCol (h : Wide) : Bool := h.getLsbD 199
def hGeom (h : Wide) : Nat := (fld h 200 2).toNat
def hRes (h : Wide) : Bool := fld h 202 6 != 0
def hSoff (h : Wide) : Nat := (fld h 208 24).toNat
def hScount (h : Wide) : Nat := (fld h 232 24).toNat

/-- The lines and the elements of a line (R187). -/
def hLines (h : Wide) : Nat := if hCol h then hCols h else hRows h
def hLineLen (h : Wide) : Nat := if hCol h then hRows h else hCols h
def hWidth (h : Wide) : Nat := (fmtOf (hFmt h)).w
def lineBytes (h : Wide) : Nat := (hWidth h * hLineLen h + 7) / 8

/-- Advance the cursor by `step` times `n` modulo 2^32 (R189, R217). -/
def hAdvance (h : Wide) (n : BitVec 32) : Wide :=
  let cur : BitVec 32 := fld h 128 32 + hStep h * n
  (h &&& ~~~((BitVec.ofNat 256 (2 ^ 32 - 1)) <<< 128)) ||| ((cur.zeroExtend 256) <<< 128)

/-- The scale bytes that R175 requires. -/
def scaleCount (h : Wide) : Nat :=
  let r := hRows h
  let c := hCols h
  match hGeom h with
  | 1 => if hCol h then c * ((r + 31) / 32) else r * ((c + 31) / 32)
  | 2 => ((r + 31) / 32) * ((c + 31) / 32)
  | _ => 0

/-- The scale index of element (r, c) (R175). -/
def scaleIndex (h : Wide) (r c : Nat) : Nat :=
  match hGeom h with
  | 1 => if hCol h then c * ((hRows h + 31) / 32) + r / 32 else r * ((hCols h + 31) / 32) + c / 32
  | _ => r / 32 * ((hCols h + 31) / 32) + c / 32

/-- The bit offset from base of element (r, c) (R170). -/
def elemBit (h : Wide) (r c : Nat) : Nat :=
  let l := if hCol h then c else r
  let e := if hCol h then r else c
  8 * (l * hPitch h) + hWidth h * e

/-- Bits [bit + w - 1 : bit] counted from byte `key` of a store or of memory (R170). -/
def State.readBits (s : State) (key bit w : Nat) : Nat :=
  let a := key + bit / 8
  getFld (s.readNat a ((bit % 8 + w + 7) / 8)) (bit % 8) w

/-- Write bits, leaving every other bit of their bytes (R221). -/
def State.writeBits (s : State) (key bit w v : Nat) : State :=
  let a := key + bit / 8
  let n := (bit % 8 + w + 7) / 8
  s.storeNat a n (setFld (s.readNat a n) (bit % 8) w v)

/-- The exact scale of a code: an exponent of two, or none for the NaN code of E8M0 (R175). -/
def scaleExp (fmt code : Nat) : Option Int :=
  match scaleKind fmt with
  | .none => some 0
  | .e8m0 => if code = 255 then none else some ((code : Int) - 127)
  | .shift => some (if code < 128 then (code : Int) else (code : Int) - 256)

/-- A value times a power of two. -/
def Val.scale (v : Val) (k : Int) : Val :=
  match v with
  | .fin n m => .fin n (m.shift k)
  | v => v

/-- The value of a pattern of a format code under a scale (R175). -/
def elemValue (fmt bits : Nat) (sc : Option Int) : Val :=
  match sc with
  | none => .nan false
  | some k => (valueOf (fmtOf fmt) bits).scale k

/-- The checks of R188, step 1: reserved values. -/
def handleReserved (h : Wide) : Bool := decide (22 ≤ hFmt h) || hSpace h == 3 || hGeom h == 3 || hRes h

/-- The checks of R188, step 2: the shape is wrong. -/
def handleShape (h : Wide) : Bool :=
  let w := hWidth h
  hRows h == 0 || hCols h == 0 || decide (hPitch h < lineBytes h)
  || (decide (8 ≤ w) && (hBase h % (w / 8) != 0 || hPitch h % (w / 8) != 0))
  || ((hGeom h == 0) != (scaleKind (hFmt h) == .none))
  || (hGeom h == 0 && (hSoff h != 0 || hScount h != 0))

/-- Is a virtual address in the window region (R162)? -/
def inWindow (va : Nat) : Bool := va / 2 ^ 40 == 0x010000

/-- Is a virtual address canonical (R162)? -/
def canonical (va : Nat) : Bool := inWindow va || decide (va < 2 ^ 56) || decide (2 ^ 64 - 2 ^ 56 ≤ va)

/-- The checks of R188, step 3: the base does not suit the space. -/
def handleSpace (h : Wide) : Bool :=
  let b := hBase h
  match hSpace h with
  | 0 => decide (0x100000 ≤ b)
  | 1 => !inWindow b
  | _ => !canonical b || inWindow b

/-- The first and last offset of a handle's extent are inside [lo, hi) (R187): element bytes, then scale bytes. -/
def extentInside (h : Wide) (lo hi : Nat) : Bool :=
  let b := hBase h
  let e := b + (hLines h - 1) * hPitch h + lineBytes h
  decide (lo ≤ b) && decide (e ≤ hi)
  && (hGeom h == 0 || hScount h == 0 || (decide (lo ≤ b + hSoff h) && decide (b + hSoff h + hScount h ≤ hi)))

end Machine
end Sys2Proof
end

