-- ==== Sys2Proof/Machine/Coherence.lean ====
section
/-! DEFINITION. Copies of DRAM-homed data: logical clocks, homes and leases, tile caches, partial copies of reductions and the
read-only cache (R152 to R158, R168, R303, R324). -/

namespace Sys2Proof
namespace Machine

/-! ## Logical clocks (R153) -/

/-- A tile's logical clock: it advances by at least 1 in every 64 tile clocks. -/
def State.clock (s : State) (t : Nat) : Nat := max (s.tile t).clock (s.time / 64)

/-- A tile's clock rises. -/
def State.raiseClock (s : State) (t w : Nat) : State := s.onTile t fun v => { v with clock := max v.clock w }

/-- A core's logical clock: its tile's, or its own where it sits on none (R297). DEDUCED, Assumption 81. -/
def State.clk (s : State) (k : Nat) : Nat :=
  if isTileCore k then s.clock (coreTile k) else max (s.core k).clk (s.time / 64)

/-- A core's clock rises to that of a version it reads. -/
def State.raiseClk (s : State) (k w : Nat) : State :=
  if isTileCore k then s.raiseClock (coreTile k) w else s.onCore k fun c => { c with clk := max c.clk w }

/-- Words of a store bear the greatest clock of their writers (R294, R297). -/
def State.stampAt (s : State) (key n clk : Nat) : State :=
  { s with stamps := (wordsOf key n).foldl (fun m w => m.put w (max clk (m.get 0 w))) s.stamps }

/-- The greatest clock that the words of a range of a store bear. -/
def State.stampOf (s : State) (key n : Nat) : Nat := (wordsOf key n).foldl (fun m w => max m (s.stamps.get 0 w)) 0

/-- Core `k` writes words of a store. -/
def State.stamp (s : State) (k key n : Nat) : State := s.stampAt key n (s.clk k)

/-- Core `k` reads words of a store: its clock rises to that of their writers, so that it sees what they saw (R294, R297). -/
def State.sawStamps (s : State) (k key n : Nat) : State :=
  s.raiseClk k (s.stampOf key n)

/-- The least clock of the tiles of a range of tile numbers; a tile that is not listed stands at time / 64. -/
def State.minClock (s : State) (lo n : Nat) : Nat :=
  let listed := s.tiles.filter fun e => decide (lo ≤ e.1) && decide (e.1 < lo + n)
  let f := s.time / 64
  if listed.length < n then f else listed.foldl (fun m e => min m (max e.2.clock f)) (listed.foldl (fun m e => max m (max e.2.clock f)) f)

/-- Is a write with timestamp `w` performed at a scope named from core `k` (R155)? -/
def State.performed (s : State) (k : Nat) (sc : Scope) (w : Nat) : Bool :=
  match sc with
  | .lane | .core => true
  | .tile => isChurn k || decide (w ≤ s.clock (coreTile k))
  | .die => decide (w ≤ s.minClock (coreDieKey k * 256) 256)
  | .package => decide (w ≤ s.pkgMin.get 0 (corePkg k))
  | .pod => decide (w ≤ s.podMin)

/-! ## Partial copies of reductions (R324) -/

def overlaps (a n b m : Nat) : Bool := decide (a < b + m) && decide (b < a + n)

/-- Insert by increasing die number, later ones after equal ones. -/
def insertPartial (p : Partial) : List Partial → List Partial
  | [] => [p]
  | q :: qs => if p.die < q.die then p :: q :: qs else q :: insertPartial p qs

/-- Fold every partial of an 8-byte item that holds one of the bytes into the home value, in increasing die number (R324, step 5). -/
def State.gather (s : State) (key n : Nat) : State :=
  let hit (p : Partial) : Bool := overlaps (p.key / 8 * 8) 8 key n
  let ps := (s.partials.filter hit).foldl (fun acc p => insertPartial p acc) []
  ps.foldl (fun t p =>
    let w := p.ty.width / 8
    t.storeNat p.key w (p.op.apply p.ty (BitVec.ofNat 64 (t.readNat p.key w)) p.val).toNat)
    { s with partials := s.partials.filter fun p => !hit p }

/-- Accept a reduction in the partial copy of a die, which holds one kind for an 8-byte item (R324, steps 1, 3 and 4). -/
def State.acceptRed (s : State) (die key : Nat) (op : AmoOp) (ty : ITy) (v : Word) : State :=
  let kind (p : Partial) : Bool := p.op == op && p.ty == ty
  let same (p : Partial) : Bool := p.key == key && kind p
  let s := if s.partials.any fun p => p.key / 8 == key / 8 && !kind p then s.gather key (ty.width / 8) else s
  if s.partials.any fun p => same p && p.die == die then
    { s with partials := s.partials.map fun p => if same p && p.die == die then { p with val := op.apply ty p.val v } else p }
  else { s with partials := s.partials ++ [{ key := key, die := die, op := op, ty := ty,
                                             val := op.apply ty (op.identity ty) v }] }

/-! ## Tile-cache blocks (R152) -/

/-- Write the bytes of `bs` that the mask marks, from `key`; an ECC word that is marked whole is written whole (R348). -/
def State.storeMasked (s : State) (key : Nat) (mask : BitVec 64) (bs : List Byte) : State :=
  (List.range 2).foldl (fun t h =>
    if fld mask (32 * h) 32 == BitVec.allOnes 32 then t.store (key + 32 * h) ((bs.drop (32 * h)).take 32)
    else (List.range 32).foldl (fun u i =>
      if mask.getLsbD (32 * h + i) then u.store (key + 32 * h + i) [bs.getD (32 * h + i) 0] else u) t) s

/-- The words of a 64-byte region whose ECC is uncorrectable at the home (R348). -/
def State.badWords (s : State) (a : Nat) : BitVec 8 :=
  (List.range 8).foldl (fun m i => if s.isMarked (a + 8 * i) then m ||| BitVec.twoPow 8 i else m) 0

/-- Write back a block's dirty bytes, a marked word with its mark (R348); the block stays, clean and no longer owned. -/
def State.writeBlock (s : State) (t : Nat) (b : Block) : State :=
  let s := s.storeMasked b.pa b.dirty b.data
  let s := (List.range 8).foldl (fun u i =>
    if b.bad.getLsbD i && fld b.dirty (8 * i) 8 != 0 then u.setMark (b.pa + 8 * i) true else u) s
  s.onTile t fun v => { v with blocks := v.blocks.map fun c =>
    if c.pa = b.pa then { c with dirty := 0, owned := false } else c }

/-- The owner sends its dirty bytes home and keeps a read lease (R154). A pinned sector is not recalled (R310). -/
def State.recall (s : State) (key : Nat) : State :=
  let e := s.sector (key / 1024)
  match e.owner with
  | none => s
  | some t =>
    if e.pinned then s
    else
      let bs := (s.tile t).blocks.filter fun b => b.pa / 1024 == key / 1024 && b.owned
      let s := bs.foldl (fun u b => u.writeBlock t b) s
      s.onSector (key / 1024) fun e => { e with owner := none }

/-- Bring memory up to date for the bytes from `key`, at most one sector: gather partials and recall the owner's bytes. -/
def State.settle (s : State) (key n : Nat) : State :=
  if isDram key then (s.gather key n).recall key else s

/-- Settle a longer range. -/
def State.settleRange (s : State) (key n : Nat) : State :=
  if isDram key then (List.range ((key + n + 1023) / 1024 - key / 1024)).foldl
    (fun t i => (t.gather key n).recall ((key / 1024 + i) * 1024)) s
  else s

/-- Where local scratch ends: the whole general range is scratchpad in compact mode (R149). -/
def Tile.scratchEnd (v : Tile) : Nat :=
  if v.compact.isSome then 0x100000 else min (0x3000 + 0x10000 * (fld v.tsplit 0 5).toNat) 0x100000

/-- How many blocks the cache range holds. -/
def Tile.cacheBlocks (v : Tile) : Nat := (0x100000 - v.scratchEnd) / 64

/-- Drop a block, writing its dirty bytes back first. -/
def State.dropBlock (s : State) (t pa : Nat) : State :=
  match (s.tile t).blocks.find? fun b => b.pa == pa with
  | none => s
  | some b =>
    let s := if b.owned then s.writeBlock t b else s
    let s := s.onTile t fun v => { v with blocks := v.blocks.filter fun c => c.pa != pa }
    if b.owned && !(s.tile t).blocks.any (fun c => c.owned && c.pa / 1024 == pa / 1024) then
      s.onSector (pa / 1024) fun e => { e with owner := none }
    else s

/-- Make room for one block: the least recently used among those of the lowest retention goes (R152).
DESIGN CHOICE, Assumption 59. -/
def State.makeRoom (s : State) (t : Nat) : State :=
  let v := s.tile t
  if v.blocks.length < v.cacheBlocks then s
  else match v.blocks.find? (·.low), v.blocks with
    | some b, _ => s.dropBlock t b.pa
    | none, b :: _ => s.dropBlock t b.pa
    | none, [] => s

/-- The lease a home grants (R153): between 8 and 1,024; it changes timing only (DESIGN CHOICE, Assumption 8). -/
def leaseLen : Nat := 8

/-- A block is used: it leaves last (R152). -/
def State.touch (s : State) (t pa : Nat) : State :=
  s.onTile t fun v => { v with blocks := (v.blocks.filter fun b => b.pa != pa) ++ v.blocks.filter fun b => b.pa == pa }

/-- An observer on die `d` has read the version `w` of a region: no tile of the die keeps an earlier one (R294). -/
def State.dieSaw (s : State) (d pa w : Nat) : State :=
  { s with tiles := s.tiles.map fun e => if tileDieKey e.1 = d
      then (e.1, { e.2 with blocks := e.2.blocks.filter fun b => b.owned || b.pa != pa || decide (w ≤ b.wts) }) else e }

/-- Core `k`, or an engine or the fabric for it, reads DRAM at its home: the version read is seen (R153, R294). -/
def State.homeSeen (s : State) (k pa : Nat) : State :=
  let w := (s.sector (pa / 1024)).wts
  (s.raiseClk k w).dieSaw (coreDieKey k) (pa / 64 * 64) w

/-- May tile `t` serve a load from a block (R153)? -/
def State.valid (s : State) (t : Nat) (b : Block) : Bool := b.owned || decide (s.clock t ≤ b.rts)

/-- A fill or renewal from the home (R153): lease, data, the tile's clock. `keep`: a block is allocated. -/
def State.fillBlock (s : State) (t pa : Nat) (keep low : Bool) : State :=
  let a := pa / 64 * 64
  let s := s.settle a 64
  let k := s.clock t
  let s := s.onSector (a / 1024) fun e => { e with rts := max e.rts (k + leaseLen) }
  let e := s.sector (a / 1024)
  let s := s.raiseClock t e.wts
  let s := s.onTile t fun v => { v with blocks := v.blocks.filter fun b => b.pa != a }
  if keep && decide (0 < (s.tile t).cacheBlocks) then
    let s := s.makeRoom t
    let b : Block := { pa := a, wts := e.wts, rts := e.rts, owned := false, dirty := 0, data := s.read a 64,
                       bad := s.badWords a, low := low }
    s.onTile t fun v => { v with blocks := v.blocks ++ [b] }
  else s

/-- The block that serves a load of tile `t` (R153). A `.nofill` load goes to the home unless the tile holds the block dirty (R129). -/
def State.blockFor (s : State) (t pa : Nat) (hint : Hint) : Option Block :=
  (s.tile t).blocks.find? fun b => b.pa == pa / 64 * 64 && s.valid t b && (hint != .nofill || b.dirty != 0)

/-- A load of up to 32 aligned bytes of DRAM by tile `t`: from a block it may serve, or from the home (R153). -/
def State.cachedRead (s : State) (t pa n : Nat) (hint : Hint) : State × List Byte :=
  let a := pa / 64 * 64
  match s.blockFor t pa hint with
  | some b => (((s.raiseClock t b.wts).touch t a).dieSaw (tileDieKey t) a b.wts, (b.data.drop (pa % 64)).take n)
  | none =>
    let s := s.fillBlock t pa (hint != .nofill) (hint == .stream)
    (s.dieSaw (tileDieKey t) a (s.sector (pa / 1024)).wts, s.read pa n)

/-- The timestamp that the home grants a writer (R154); the writer's clock rises to it. -/
def State.grant (s : State) (k pa : Nat) : State × Nat :=
  let e := s.sector (pa / 1024)
  let w := max (s.clk k) (e.rts + 1)
  ((s.onSector (pa / 1024) fun e => { e with wts := w, rts := w }).raiseClk k w, w)

/-- Put bytes into a block's data and mark them dirty; a word written whole gets fresh ECC (R348). -/
def Block.put (b : Block) (off : Nat) (bs : List Byte) : Block :=
  let m := BitVec.ofNat 64 ((2 ^ bs.length - 1) * 2 ^ off)
  { b with data := b.data.take off ++ bs ++ b.data.drop (off + bs.length),
           dirty := b.dirty ||| m,
           bad := (List.range 8).foldl (fun v i =>
             if fld m (8 * i) 8 == 0xFF then v &&& ~~~(BitVec.twoPow 8 i) else v) b.bad }

/-- A write to DRAM by core `k` of a tile once the home has granted it (R154): into an owned block, or at the home with `.nofill`
or where no block can be held. The whole block becomes the owner's, so partial copies of all of it are gathered first (R303). A
`.stream` write leaves its block at the lowest retention (R129). The second part is the timestamp. -/
def State.cachedWrite (s : State) (k pa : Nat) (bs : List Byte) (hint : Hint) : State × Nat :=
  let t := coreTile k
  let a := pa / 64 * 64
  let s := s.gather a 64
  let mine := (s.sector (pa / 1024)).owner == some t
  let s := if mine then s else s.recall pa
  let held := (s.tile t).blocks.any fun b => b.pa == a && b.owned
  let r := s.grant k pa
  let s := r.1
  if held then
    ((s.onTile t fun v => { v with blocks := v.blocks.map fun b =>
      if b.pa = a then { b.put (pa % 64) bs with wts := r.2, rts := r.2, low := hint == .stream } else b }).touch t a, r.2)
  else if hint == .nofill || decide ((s.tile t).cacheBlocks = 0) then
    ((s.store pa bs).onTile t fun v => { v with blocks := v.blocks.filter fun b => b.pa != a }, r.2)
  else
    let s := s.onTile t fun v => { v with blocks := v.blocks.filter fun b => b.pa != a }
    let s := s.makeRoom t
    let b : Block := { pa := a, wts := r.2, rts := r.2, owned := true, dirty := 0, data := s.read a 64, bad := s.badWords a,
                       low := hint == .stream }
    ((s.onTile t fun v => { v with blocks := v.blocks ++ [b.put (pa % 64) bs] }).onSector (pa / 1024)
      fun e => { e with owner := some t }, r.2)

/-- A write at the home by an engine, a churn, the host or an atomic (R154, `.nofill`): the timestamp passes every lease. `k`
is the core whose clock rises, where there is one. DESIGN CHOICE, Assumption 6. -/
def State.homeWrite (s : State) (k : Option Nat) (pa : Nat) (bs : List Byte) : State × Nat :=
  let s := s.settleRange pa bs.length
  match k with
  | some k => let r := s.grant k pa; (r.1.store pa bs, r.2)
  | none =>
    let e := s.sector (pa / 1024)
    let w := max (s.time / 64) (e.rts + 1)
    ((s.onSector (pa / 1024) fun e => { e with wts := w, rts := w }).store pa bs, w)

/-- Write back every dirty block of a tile and drop every block with its lease (R150, R285, R387). -/
def State.flushCache (s : State) (t : Nat) : State :=
  let s := (s.tile t).blocks.foldl (fun u b => u.dropBlock t b.pa) s
  s.onTile t fun v => { v with blocks := [] }

/-- No tile keeps a clean copy of the bytes: an engine's write is seen at once (R300). -/
def State.dropCopies (s : State) (key n : Nat) : State :=
  { s with tiles := s.tiles.map fun e =>
      (e.1, { e.2 with blocks := e.2.blocks.filter fun b => b.owned || !overlaps b.pa 64 key n }) }

/-! ## The read-only cache (R168) -/

/-- Its 64 KiB in 64-byte blocks. -/
def roBlocks : Nat := 1024

/-- Read through the read-only path: a block the cache holds, or a fill that takes no lease; the version that a fill brings is seen
(R153, R294). -/
def State.roRead (s : State) (t pa n : Nat) : State × List Byte :=
  let a := pa / 64 * 64
  match (s.tile t).ro.find? fun e => e.pa == a with
  | some e => (s, (e.data.drop (pa % 64)).take n)
  | none =>
    let s := s.settle a 64
    let w := (s.sector (a / 1024)).wts
    let s := (s.raiseClock t w).dieSaw (tileDieKey t) a w
    let e : RoBlock := { pa := a, data := s.read a 64, bad := s.badWords a }
    (s.onTile t fun v => { v with ro := (if v.ro.length < roBlocks then v.ro else v.ro.drop 1) ++ [e] },
      (e.data.drop (pa % 64)).take n)

def State.emptyRo (s : State) (t : Nat) : State := s.onTile t fun v => { v with ro := [] }

/-- A tile drops its clean blocks, as a cache may at any time (R152): what it reads next is at its home. -/
def State.dropClean (s : State) (t : Nat) : State := s.onTile t fun v => { v with blocks := v.blocks.filter (·.owned) }

end Machine
end Sys2Proof
end

