-- ==== Sys2Proof/Machine/Translate.lean ====
section
/-! DEFINITION. Virtual addresses: windows, the five-level walk, the TLBs, what backs a physical address, and who may reach
what (R17, R18, R151, R160 to R166, R346, R347). -/

namespace Sys2Proof
namespace Machine

/-! ## Context descriptors (R357) -/

/-- Bits of the descriptor of a job on a package, as the homes hold them. -/
def State.ctxField (s : State) (pkg : Nat) (j : Job) (lo n : Nat) : Nat :=
  let tab := (s.sup (s.partDie pkg j.part.toNat) 0x800).toNat
  getFld (((s.settle (tab + 64 * j.ctx.toNat) 64)).readNat (tab + 64 * j.ctx.toNat) 64) lo n

/-- The partition's context table. -/
def State.ctxTab (s : State) (pkg part : Nat) : Nat := (s.sup (s.partDie pkg part) 0x800).toNat

/-- The contexts of a partition whose descriptors hold anything. -/
def State.ctxsListed (s : State) (pkg part : Nat) : List Nat :=
  let tab := s.ctxTab pkg part
  ((s.mem.filter fun e => decide (tab ≤ e.1) && decide (e.1 < tab + 64 * 4096)).map fun e => (e.1 - tab) / 64).eraseDups

def inRange (key lo n : Nat) : Bool := decide (lo ≤ key) && decide (key < lo + n)

/-- Does the key lie in a partition's context table, which only supervisor cores write (R357)? -/
def State.inCtxTable (s : State) (key : Nat) : Bool :=
  isDram key && (s.pkg (paPkg key)).parts.any fun e =>
    s.ctxTab (paPkg key) e.1 != 0 && inRange key (s.ctxTab (paPkg key) e.1) (64 * 4096)

/-- Does the key lie where no job's master goes: the save slots and the tile images of a context that exists (R277, R279), a die's
provenance log (R356)? Such a range counts as closed to it (R347), as the context table does to every master that may not write it.
DESIGN CHOICE, Assumption 84. -/
def State.guarded (s : State) (key : Nat) : Bool :=
  let p := paPkg key
  let off := key % 2 ^ 47
  isDram key && (((s.pkg p).parts.any fun e =>
      s.ctxTab p e.1 != 0 && (s.ctxsListed p e.1).any fun n =>
        let j : Job := { part := BitVec.ofNat 2 e.1, ctx := BitVec.ofNat 12 n }
        s.ctxField p j 357 1 == 1 && (inRange off (s.ctxField p j 128 47) (0x28000 * 4096)
          || inRange off (s.ctxField p j 192 47) (0x130000 * 1024)))
    || (List.range 4).any fun d => inRange key (s.sup (dieKey p d) 0x810).toNat (32 * (s.sup (dieKey p d) 0x811).toNat))

/-! ## Physical addresses -/

/-- Does a device back the physical address (R160, R385)? -/
def State.backed (s : State) (pa : Nat) : Bool :=
  let off := pa % 2 ^ 47
  let p := s.pkg (paPkg pa)
  if off < 0x8000000000 then true
  else if off < 0x10000000000 then false
  else if off < 0x40000000000 then true
  else if off < 0x80000000000 then decide (off - 0x40000000000 < p.cxl.get 0 0)
  else if off < 0xC0000000000 then decide (off - 0x80000000000 < p.cxl.get 0 1)
  else false

/-- The die that owns a local offset (R386): two HBM stacks and twelve LPDDR6 sites a die, in increasing order, CXL port 0 with
die 0 and port 1 with die 2. -/
def offDie (off : Nat) : Nat :=
  if off < 0x8000000000 then off / 0x2000000000
  else if off < 0x40000000000 then (off - 0x10000000000) / 0xC000000000
  else if off < 0x80000000000 then 0 else 2

/-- The die on which a key's target stands (R346). -/
def keyDie (key : Nat) : Nat :=
  if isDram key then offDie (key % 2 ^ 47) else if isTileStore key then keyTile key / 256 % 4
  else (key - churnBase) / 2 ^ 19 % 32 / 8

/-! ## The page walk (R163) -/

/-- The levels: the lowest index bit, the number of index bits, whether a leaf may stand there. -/
def walkLevels : List (Nat × Nat × Bool) := [(48, 9, false), (39, 9, false), (30, 9, true), (21, 9, true), (16, 5, true)]

/-- Walk from a table. A walk that fails gives none. The backed part of an aligned page begins at its base, so a leaf maps nothing
unbacked when its first and its last byte are backed (R161, R385). A pointer to a table that is not aligned to the table's own size is no failing
case of R163: the walk goes on at the address it gives. DESIGN CHOICE, Assumption 78. -/
def State.walk (s : State) (pkg : Nat) (j : Job) (va : Nat) : List (Nat × Nat × Bool) → Nat → Option Tlb
  | [], _ => none
  | (lo, n, leafOk) :: ls, table =>
    let a := table + 8 * (va / 2 ^ lo % 2 ^ n)
    let e := (s.settle a 8).readNat a 8
    let leaf := getFld e 1 1 == 1
    let pa := getFld e 8 49 * 2 ^ 8
    if getFld e 0 1 = 0 || getFld e 7 1 != 0 || getFld e 57 7 != 0 then none
    else if leaf then
      if leafOk && pa % 2 ^ lo == 0 && s.backed pa && s.backed (pa + 2 ^ lo - 1) && !s.nonMembers.contains (paPkg pa) then
        some { pkg := pkg, job := j, va := va / 2 ^ lo * 2 ^ lo, size := 2 ^ lo, pa := pa, rd := getFld e 2 1 == 1,
               wr := getFld e 3 1 == 1, ex := getFld e 4 1 == 1, cls := BitVec.ofNat 2 (getFld e 5 2) }
      else none
    else s.walk pkg j va ls pa

/-- The walk of a job's address from its context's root (R163). -/
def State.pageWalk (s : State) (pkg : Nat) (j : Job) (va : Nat) : Option Tlb :=
  s.walk pkg j (va % 2 ^ 57) walkLevels (s.ctxField pkg j 0 57)

def Tlb.hits (e : Tlb) (pkg : Nat) (j : Job) (va : Nat) : Bool :=
  e.pkg == pkg && e.job == j && decide (e.va ≤ va % 2 ^ 57) && decide (va % 2 ^ 57 < e.va + e.size)

/-- Add an entry; the oldest leaves when the TLB is full. -/
def tlbAdd (cap : Nat) (e : Tlb) (l : List Tlb) : List Tlb :=
  if l.contains e then l else (if l.length < cap then l else l.drop 1) ++ [e]

/-- The quadrant of a core: its tile's; a churn and a supervisor core use quadrant 0 of their die (DESIGN CHOICE, Assumption 9). -/
def coreQuad (k : Nat) : Nat := if isTileCore k then tileQuadKey (coreTile k) else coreDieKey k * 4

/-- Fill the TLBs of R164: micro-TLB 32, tile 256, quadrant 8,192. -/
def State.tlbFill (s : State) (k : Nat) (e : Tlb) : State :=
  let s := s.onCore k fun c => { c with tlb := tlbAdd 32 e c.tlb }
  let s := if isTileCore k then s.onTile (coreTile k) fun v => { v with tlb := tlbAdd 256 e v.tlb } else s
  s.onQuad (coreQuad k) fun q => { q with tlb := tlbAdd 8192 e q.tlb }

/-- The translation a core finds: the nearest TLB that holds it, else the walk. A TLB keeps a stale entry (R166). -/
def State.lookup (s : State) (k va : Nat) : Option Tlb :=
  let c := s.core k
  let hit (l : List Tlb) := l.find? fun e => e.hits (corePkg k) c.job va
  match hit c.tlb with
  | some e => some e
  | none => match (if isTileCore k then hit (s.tile (coreTile k)).tlb else none) with
    | some e => some e
    | none => match hit (s.quad (coreQuad k)).tlb with
      | some e => some e
      | none => s.pageWalk (corePkg k) c.job va

/-- What an access needs (R163). -/
inductive Need where
  | rd | wr | rw | ex
deriving DecidableEq, Repr

def Tlb.permits (e : Tlb) : Need → Bool
  | .rd => e.rd
  | .wr => e.wr
  | .rw => e.rd && e.wr
  | .ex => e.ex

/-- The key that a virtual address names for a core: the window region without a walk (R165), else by translation; none is
PAGE. -/
def State.resolve (s : State) (k va : Nat) (need : Need) : State × Option Nat :=
  if inWindow va then
    let pkg := va / 2 ^ 30 % 1024
    if need == .ex || s.nonMembers.contains pkg then (s, none)
    else (s, some (tileKey (pkg * 1024 + va / 2 ^ 20 % 1024) (va % 2 ^ 20)))
  else if !canonical va then (s, none)
  else match s.lookup k va with
    | none => (s, none)
    | some e =>
      let s := s.tlbFill k e
      if e.permits need && s.backed (e.pa + (va % 2 ^ 57 - e.va)) then (s, some (e.pa + (va % 2 ^ 57 - e.va))) else (s, none)

/-! ## Trap causes (R335) -/

def causeIllegal : Nat := 1
def causeIllegalCmd : Nat := 2
def causeFormat : Nat := 3
def causeAlign : Nat := 4
def causePage : Nat := 5
def causeAccess : Nat := 6
def causePeerExited : Nat := 7
def causeRemoteDead : Nat := 8
def causeEccFatal : Nat := 9
def causeScaleShort : Nat := 10
def causeVecNonlocal : Nat := 11
def causeBarrierFuture : Nat := 12
def causeBarrierTimeout : Nat := 13
def causeCompactBroken : Nat := 14
def causeFp : Nat := 15
def causeSoft : Nat := 16
def causePreempt : Nat := 17
def causeLaunchRefused : Nat := 18
def causeSkimFail : Nat := 19
def causePkgDead : Nat := 20

/-! ## What becomes of an access at its target -/

/-- Served; answered with an error or lost, with a cause; refused by an access table; held by a compact; PAGE at issue; dead at
issue; discarded without an answer, as the traffic of a dead package is (R352). -/
inductive Route where
  | ok
  | err (cause : Nat)
  | refuse
  | held
  | page
  | dead
  | gone
deriving DecidableEq, Repr

/-- The master of an access: package, job, and the tile or churn it sits on. -/
structure Master where
  pkg : Nat
  job : Job
  core : Nat
  host : Bool
deriving DecidableEq, Repr

def State.master (s : State) (k : Nat) : Master := { pkg := corePkg k, job := (s.core k).job, core := k, host := false }

/-- The partition that a master belongs to: its job's, or a supervisor core's die's (R346, R386). -/
def State.masterPart (s : State) (m : Master) : Nat :=
  if isSup m.core && !m.host then s.partOf m.pkg (coreDie m.core) else m.job.part.toNat

/-- Has a supervisor closed the key for the master, which it names by package, partition, context and core, or by package,
partition and the host mark (R346, R347)? -/
def State.closedFor (s : State) (m : Master) (key : Nat) : Bool :=
  s.closures.any fun c => decide (c.lo ≤ key) && decide (key < c.hi) && c.pkg == m.pkg && c.part == s.masterPart m
    && (match c.ctx with
      | some x => !m.host && x == m.job.ctx.toNat && (match c.core with | some y => y == m.core | none => true)
      | none => m.host)

/-- Is the package known dead to another one (R352): its bit in the dead mask of die `d`? -/
def State.deadSeen (s : State) (d pkg : Nat) : Bool := (s.sup d (0x840 + pkg / 64)).getLsbD (pkg % 64)

/-- Is the master an insider of the compact that holds tile `t` (R307)? -/
def State.insider (s : State) (m : Master) (t : Nat) : Bool :=
  match (s.tile t).compact with
  | none => true
  | some c => !m.host && isTileCore m.core &&
      c.members.any fun e => e.pkg == m.pkg && e.tile == coreTile m.core % 1024

/-- The tile whose scratchpad holds a pinned sector (R309, R310). -/
def State.pinnedAt (s : State) (key : Nat) : Option Nat :=
  if isDram key && (s.sector (key / 1024)).pinned then (s.sector (key / 1024)).owner else none

/-- The scratchpad key of a byte of a pinned sector. -/
def State.pinnedKey (s : State) (t key : Nat) : Nat :=
  match (s.tile t).compact with
  | some c => (match c.pinned.find? fun e => e.1 == key / 1024 with
      | some e => tileKey t (e.2 + key % 1024)
      | none => key)
  | none => key

/-- A thread in a state of R29 other than ended. -/
def Core.alive (c : Core) : Bool := c.st != .empty && c.st != .ended

/-- Does the tile hold a thread, or compact state, of a job (R16, R18)? -/
def State.tileBusy (s : State) (t : Nat) (j : Job) : Bool :=
  (List.range 4).any (fun i => (s.core (t * 4 + i)).alive && (s.core (t * 4 + i)).job == j)
    || (match (s.tile t).compact with | some c => c.job == j | none => false)

/-- Do threads or compact state of another job stand on the tile (R18)? A saved thread has left it (R24). -/
def State.othersOn (s : State) (t : Nat) (j : Job) : Bool :=
  (List.range 4).any (fun i => (s.core (t * 4 + i)).alive && (s.core (t * 4 + i)).st != .saved && (s.core (t * 4 + i)).job != j)
    || (match (s.tile t).compact with | some c => c.job != j | none => false)

/-- Is the window of tile `t` open to a job (R18)? -/
def State.windowOpen (s : State) (t : Nat) (j : Job) : Bool := (s.tile t).openTo.contains j && !s.othersOn t j

/-- The route of an access by `m` to `key` (R17, R18, R151, R288, R310, R329, R346, R347, R352, R386). A supervisor core is
excepted from the first rows of R151, from R329 and from R18, and from nothing else. An access to an open window, or of a saved
thread's command to its own tile's, waits while the job's state is in its image (R279). -/
def State.route (s : State) (m : Master) (key : Nat) (write : Bool) : Route :=
  let p := keyPkg key
  let sup := isSup m.core && !m.host
  if p != m.pkg && s.deadSeen (dieKey m.pkg (coreDie m.core)) p then .dead
  else if p != m.pkg && s.deadSeen (dieKey p (keyDie key)) m.pkg then .gone
  else if s.partOf p (keyDie key) != s.masterPart m || s.closedFor m key then .refuse
  else if isTileStore key then
    let t := keyTile key
    let off := keyOff key
    let v := s.tile t
    let own := isTileCore m.core && coreTile m.core == t
    if !sup && !own && !s.windowOpen t m.job then .err causePeerExited
    else if !sup && v.images.contains m.job then .held
    else if off < 0x3000 then
      if sup then .ok
      else if write then .refuse
      else if off < 0x2000 && (s.core (t * 4 + off % 0x1000 / 0x400)).st == .killed then .err causeRemoteDead
      else .ok
    else if v.compact.isSome then
      if s.insider m t || (match v.compact with | some c => c.window | none => false) then .ok else .held
    else if v.scratchEnd ≤ off then (if own then .page else .err causePage)
    else .ok
  else if !sup && ((write && s.inCtxTable key) || (!m.host && s.guarded key)) then .refuse
  else match s.pinnedAt key with
    | some t => if s.insider m t || (match (s.tile t).compact with | some c => c.window | none => true) then .ok else .held
    | none => .ok

/-- The route of a load, or of an atomic: a killed core's home and mailbox answer an atomic as they answer a load (R329). -/
def State.routeLoad (s : State) (m : Master) (key : Nat) (writes : Bool) : Route :=
  match s.route m key false with
  | .err c => .err c
  | r => if writes then s.route m key true else r

end Machine
end Sys2Proof
end

