-- ==== Sys2Proof/Machine/Units.lean ====
section
/-! DEFINITION. Tag state and mailboxes, arrival objects, supervisor records, wired barriers and priority: what several
instructions and events share of a core's and a die's units. -/

namespace Sys2Proof
namespace Machine

/-! ## `pcore` (R33, R35) -/

/-- The physical tile of a logical tile within its quadrant. -/
def State.ptile (s : State) (t : Nat) : Nat := (s.quad (tileQuadKey t)).tmap.get (t % 64) (t % 64)

/-- The tile's interval (R355): the passes of the physical tile that serves it. DEDUCED, Assumption 71. -/
def State.interval (s : State) (k : Nat) : Nat :=
  if isTileCore k then (s.quad (tileQuadKey (coreTile k))).passes.get 0 (s.ptile (coreTile k)) else 0

/-- A core's `pcore`; a churn's and a supervisor core's place is told by its package, die and number alone.
DEDUCED, Assumption 72. -/
def State.pcore (s : State) (k : Nat) : Word :=
  if isTileCore k then
    BitVec.ofNat 64 (k % 4 + s.ptile (coreTile k) * 2 ^ 2 + coreTile k / 64 % 4 * 2 ^ 9 + coreDie k * 2 ^ 11 + corePkg k * 2 ^ 13)
  else BitVec.ofNat 64 (coreDie k * 2 ^ 11 + corePkg k * 2 ^ 13)

/-! ## Tag state (R200) -/

/-- Where the image of tile `t` of a job stands (R279; DESIGN CHOICE, Assumption 28: the stride). -/
def State.imageAt (s : State) (t : Nat) (j : Job) : Nat :=
  t / 1024 * 2 ^ 47 + s.ctxField (t / 1024) j 192 47 + 0x130000 * (t % 1024)

/-- Where the store of a core's job stands: the tile's, or the image of its job, whose commands run on while its thread is saved and
another job has the tile (R275, R279). -/
def State.jobStore (s : State) (k : Nat) : Nat :=
  if isTileCore k && (s.tile (coreTile k)).images.contains (s.core k).job then s.imageAt (coreTile k) (s.core k).job else storeBase k

/-- Where a core's tag state stands. -/
def State.tagAt (s : State) (k : Nat) : Nat := s.jobStore k + 0x2400 + 0x300 * coreSlot k

/-- Tags, faults and mailbox control are bytes of the store; only the Z4 writes them. -/
def State.tagEntry (s : State) (k tag : Nat) : Nat := s.readNat (s.tagAt k + 4 * tag) 4

def State.tagHolders (s : State) (k tag : Nat) : Nat := getFld (s.tagEntry k tag) 0 8

def State.setTagEntry (s : State) (k tag v : Nat) : State := s.storeNat (s.tagAt k + 4 * tag) 4 v

/-- Acceptance of a command that holds a tag: the count rises and the bit is cleared, and flt with it (R198, R200). -/
def State.tagTake (s : State) (k tag : Nat) : State :=
  (s.setTagEntry k tag (min (s.tagHolders k tag + 1) 255)).onCore k fun c =>
    { c with tags := c.tags &&& ~~~(BitVec.twoPow 64 tag) }

/-- A command that holds a tag ends: at 0 holders the bit is set (R198). -/
def State.tagDrop (s : State) (k tag : Nat) : State :=
  let e := s.tagEntry k tag
  let n := getFld e 0 8 - 1
  let s := s.setTagEntry k tag (setFld e 0 8 n)
  if n = 0 then s.onCore k fun c =>
    { c with tags := c.tags ||| BitVec.twoPow 64 tag, wfiEvent := c.wfiEvent || !c.tags.getLsbD tag } else s

def State.faultAt (s : State) (k : Nat) : Nat := s.tagAt k + 0x100

/-- pend of the engine fault record (R200). -/
def State.faultPend (s : State) (k : Nat) : Bool := getFld (s.readNat (s.faultAt k) 4) 16 1 == 1

/-- A command of core `k` meets a failure (R201): flt in its tag entry, and the fault record or its count. -/
def State.recordFault (s : State) (k cause q : Nat) (w0 va : Nat) (tag : Option Nat) : State :=
  let s := match tag with
    | some t => s.setTagEntry k t (setFld (s.tagEntry k t) 8 1 1)
    | none => s
  let r := s.readNat (s.faultAt k) 32
  if getFld r 16 1 = 1 then
    s.storeNat (s.faultAt k) 32 (setFld r 32 32 (min (getFld r 32 32 + 1) (2 ^ 32 - 1)))
  else
    (s.storeNat (s.faultAt k) 32 (cause + 2 ^ 16 + q * 2 ^ 17 + w0 * 2 ^ 64 + va * 2 ^ 128)).onCore k fun c =>
      { c with wfiEvent := true }

/-- The trap of a pending fault clears pend (R201). -/
def State.clearPend (s : State) (k : Nat) : State :=
  s.storeNat (s.faultAt k) 4 (setFld (s.readNat (s.faultAt k) 4) 16 1 0)

/-! ## Mailboxes (R139 to R141, R200) -/

def mailCtl (k : Nat) : Nat := tagKey k + 0x120
def State.mailHead (s : State) (k : Nat) : Nat := getFld (s.readNat (mailCtl k) 8) 0 5
def State.mailUsed (s : State) (k : Nat) : Nat := getFld (s.readNat (mailCtl k) 8) 5 6

def State.setMail (s : State) (k head used out : Nat) : State :=
  s.storeNat (mailCtl k) 8 (head % 32 + used * 2 ^ 5 + out * 2 ^ 16)

def State.mailOut (s : State) (k : Nat) : Nat := getFld (s.readNat (mailCtl k) 8) 16 4

/-- Write a message into the next entry of core `k`'s mailbox (R140), with its status entry. Bytes that were marked at the sender
stay marked. DESIGN CHOICE, Assumption 96. -/
def State.mailPut (s : State) (k peer : Nat) (ret : Bool) (m : Msg) : State :=
  let i := (s.mailHead k + s.mailUsed k) % 32
  let s := (s.storeNat (mailKey k + 32 * i) 32 m.data.toNat).stampAt (mailKey k + 32 * i) 32 m.clk
  let s := if m.bad then (List.range 4).foldl (fun u j => u.setMark (mailKey k + 32 * i + 8 * j) true) s else s
  let s := s.storeNat (tagKey k + 0x128 + 4 * i) 4 (peer % 2 ^ 22 + (if ret then 2 ^ 22 else 0) + 2 ^ 23)
  (s.setMail k (s.mailHead k) (s.mailUsed k + 1) (s.mailOut k)).onCore k fun c => { c with wfiEvent := true }

/-- Discard every message of a mailbox: no entry stays valid (R124, R200, R328, R333). -/
def State.mailClear (s : State) (k : Nat) : State :=
  (s.store (tagKey k + 0x128) (List.replicate 128 0)).setMail k 0 0 (s.mailOut k)

/-- The tag state is cleared at placement and at a restart (R200, R333). -/
def State.tagClear (s : State) (k : Nat) : State := s.store (tagKey k) (List.replicate 0x300 0)

/-! ## Arrival objects (R142 to R144) -/

/-- Bring met up to date: 1 while armed and count ≥ expect. -/
def State.setArrival (s : State) (key count expect : Nat) (armed : Bool) : State :=
  s.storeNat key 16 (count + expect * 2 ^ 32 + (if armed then 2 ^ 64 else 0)
    + (if armed && decide (expect ≤ count) then 2 ^ 65 else 0))

/-- Count `n` bytes at an object, armed or not; the count saturates (R142, R144). -/
def State.countArrival (s : State) (store obj n : Nat) : State :=
  let v := s.readNat (arrivalKey store obj) 16
  s.setArrival (arrivalKey store obj) (min (getFld v 0 32 + n) (2 ^ 32 - 1)) (getFld v 32 32) (getFld v 64 1 == 1)

/-- The queue of gradient records of a churn (R364), as a key. -/
def gradKey (churn n : Nat) : Nat := churn * 8 + n

/-- A physical core among those of its die: 264 · quadrant + 4 · physical tile + core. -/
def physKey (quad ptile core : Nat) : Nat := 264 * quad + 4 * ptile + core

/-! ## Supervisor records (R338) -/

/-- States of a record. -/
def recStopped : Nat := 0
def recFrozen : Nat := 1
def recKilled : Nat := 2
def recSaved : Nat := 3
def recReport : Nat := 4

/-- Write one record into the ring of a die's supervisors; with no ring set up it is only counted (DESIGN CHOICE, Assumption 19). -/
def State.record (s : State) (d lcn : Nat) (j : Job) (cause state how : Nat) (tpc tval pcore aux : Word) : State :=
  let v := lcn % 2 ^ 22 + j.part.toNat * 2 ^ 22 + j.ctx.toNat * 2 ^ 24 + cause * 2 ^ 36 + state * 2 ^ 52 + how * 2 ^ 56
    + tpc.toNat * 2 ^ 64 + tval.toNat * 2 ^ 128 + pcore.toNat * 2 ^ 192 + aux.toNat * 2 ^ 256
    + (s.die d).recs % 2 ^ 32 * 2 ^ 320
  let len := (s.sup d 0x803).toNat
  let tail := (s.sup d 0x805).toNat
  let s := if len = 0 then s
    else (s.storeNat ((s.sup d 0x802).toNat + 64 * (tail % len)) 64 v).setSup d 0x805 (BitVec.ofNat 64 (tail + 1))
  s.onDie d fun x => { x with recs := x.recs + 1 }

/-- A record about core `k`. A churn's and a supervisor core's lcn reads 0 (R360). -/
def State.recordCore (s : State) (k cause state how : Nat) (tpc tval aux : Word) : State :=
  s.record (coreDieKey k) (if isTileCore k then k else 0) (s.core k).job cause state how tpc tval (s.pcore k) aux

/-! ## Wired barriers (R315) -/

/-- The mask bit of a core on its die: 4 · tile<7:0> + core. -/
def coreBit (k : Nat) : Nat := k % 1024

def Barrier.group (b : Barrier) (d : Nat) : List Nat := (d :: b.links).eraseDups

/-- Do the linked dies list each other alike (R315)? -/
def State.consistent (s : State) (d bid : Nat) : Bool :=
  let g := (s.bar d bid).group d
  g.all fun e => let h := (s.bar e bid).group e; g.all h.contains && h.all g.contains

/-- Has every member on the die and on every linked die arrived, with at least one member? A compact barrier expects core 0's
bit of each member tile. -/
def State.phaseReady (s : State) (d bid : Nat) : Bool :=
  let g := (s.bar d bid).group d
  s.consistent d bid && (g.all fun e => (s.bar e bid).mask &&& ~~~(s.bar e bid).arrived == 0)
    && g.any fun e => (s.bar e bid).mask != 0

/-- The cores of die `d` named by a mask. -/
def maskCores (d : Nat) (m : BitVec 1024) : List Nat := ((List.range 1024).filter fun i => m.getLsbD i).map (d * 1024 + ·)

/-- The cores that are members of a barrier on its die; a compact barrier's bits stand for tiles, whose signing threads wait in no `wfi`
when it completes a phase (R307). -/
def Barrier.cores (b : Barrier) (d : Nat) : List Nat :=
  match b.kind with
  | .compact .. => []
  | _ => maskCores d b.mask

/-- Complete a phase on every linked die together (R315); a member in `wfi` wakes (R342). -/
def State.completePhase (s : State) (d bid : Nat) : State :=
  (((s.bar d bid).group d).foldl (fun t e =>
    let members := (t.bar e bid).cores e
    let t := t.onBar e bid fun b => { b with phase := b.phase + 1, arrived := 0, since := none }
    members.foldl (fun u k => u.onCore k fun c => { c with wfiEvent := true, floors := c.floors.del bid }) t) s)

/-- The wired barriers of its die that a core is a member of. -/
def State.barsOf (s : State) (k : Nat) : List Nat :=
  if isTileCore k then ((s.die (coreDieKey k)).bars.filter fun e => match e.2.kind with
    | .compact .. => false
    | _ => e.2.mask.getLsbD (coreBit k)).map (·.1)
  else []

/-- The thread leaves every barrier of its die (R19), and what it inherited there with it (R271). -/
def State.leaveBarriers (s : State) (k : Nat) : State :=
  if isTileCore k then
    (s.onCore k fun c => { c with floors := [] }).onDie (coreDieKey k) fun v => { v with bars := v.bars.map fun e =>
      match e.2.kind with
      | .compact .. => e
      | _ => (e.1, { e.2 with mask := e.2.mask &&& ~~~(BitVec.twoPow 1024 (coreBit k)),
                              arrived := e.2.arrived &&& ~~~(BitVec.twoPow 1024 (coreBit k)) }) }
  else s

/-- The smallest scope that holds every member of a barrier and its links (R317). -/
def State.barScope (s : State) (d bid : Nat) (k : Nat) : Scope :=
  let b := s.bar d bid
  if b.links.any fun e => e / 4 != d / 4 then .pod
  else if !b.links.isEmpty then .package
  else if (maskCores d b.mask).all fun c => c / 4 == k / 4 then .tile
  else .die

/-! ## Priority (R270, R271) -/

/-- Does core `m` inherit from core `w`: `w` waits in `bwait` with a token equal to the phase, `m` is a member that has not
arrived? -/
def State.inherits (s : State) (w m : Nat) : Bool :=
  match (s.core w).bwaiting with
  | none => false
  | some (b, t) =>
    let d := coreDieKey w
    let bar := s.bar d b.toNat
    (s.core w).st == .running && bar.phase == t && (bar.group d).contains (coreDieKey m)
      && (s.bar (coreDieKey m) b.toNat).mask.getLsbD (coreBit m)
      && !(s.bar (coreDieKey m) b.toNat).arrived.getLsbD (coreBit m)

/-- The cores whose class reaches those of `r` along chains of at most `n` links, among the waiters `ws` (R271). -/
def State.effFrom (s : State) (ws : List Nat) : Nat → List Nat → List Nat
  | 0, r => r
  | n + 1, r =>
    match ws.filter fun w => !r.contains w && r.any fun m => s.inherits w m with
    | [] => r
    | more => s.effFrom ws n (r ++ more)

/-- A core's class with what waiters that have stopped passed to it. -/
def Core.classFloor (c : Core) : Nat := c.floors.foldl (fun m e => max m e.2) c.cls.toNat

/-- eff of `prio`: the greatest class among the core's own and those that reach it; a chain has no more links than waiters (R271). -/
def State.eff (s : State) (k : Nat) : Nat :=
  let ws := (s.cores.filter fun e => e.2.bwaiting.isSome).map (·.1)
  (s.effFrom ws ws.length [k]).foldl (fun m i => max m (s.core i).classFloor) 0

/-- A waiter stops: each member that inherits from it keeps what it inherited until it arrives, leaves or the barrier advances
(R271). -/
def State.keepFloors (s : State) (k : Nat) : State :=
  match (s.core k).bwaiting with
  | none => s
  | some (b, _) =>
    let cls := s.eff k
    (s.bar (coreDieKey k) b.toNat).group (coreDieKey k) |>.foldl (fun t d =>
      ((maskCores d (s.bar d b.toNat).mask).filter fun m => s.inherits k m).foldl (fun u m => u.onCore m fun c =>
        { c with floors := c.floors.put b.toNat (max cls (c.floors.get 0 b.toNat)) }) t) s

/-! ## What the classifier counts (R269) -/

/-- How long a kernel is measured, in tile clocks. -/
def measureTime : Nat := 2 ^ 20

/-- Core `k`'s thread has `d` bytes read from DRAM and makes `o` operations: they count for its kernel while that is measured. The model
has no last-level cache: what a home slice serves it reads from DRAM. DESIGN CHOICE, Assumption 30. -/
def State.tally (s : State) (k d o : Nat) : State :=
  if (s.pkg (corePkg k)).kernels.isEmpty then s
  else
    let c := s.core k
    let mine (e : Kernel) : Bool := e.part == c.job.part.toNat && e.ctx == c.job.ctx.toNat && e.entry == c.entry
      && e.label.isNone && decide (s.time < e.since + measureTime)
    s.onPkg (corePkg k) fun p => { p with kernels := p.kernels.map fun e => if mine e then { e with d := e.d + d, o := e.o + o } else e }

/-- `prio` (R270). -/
def State.prioReg (s : State) (k : Nat) : Word :=
  BitVec.ofNat 64 ((s.core k).cls.toNat + (s.core k).cap.toNat * 4 + s.eff k * 16)

end Machine
end Sys2Proof
end

