-- ==== Sys2Proof/Machine/Access.lean ====
section
/-! DEFINITION. The class counters, what an access does at its target, and the store buffer's head leaving it. -/

namespace Sys2Proof
namespace Machine

/-! ## The class counters (R195) -/

/-- The commands, the messages and the writes in flight of the thread that the core holds; the others are those that an earlier thread
left, which take effect as they would have (R306). -/
def Core.own (c : Core) : List Cmd := c.cmds.filter fun d => decide (c.birth ≤ d.age)
def Core.sent (c : Core) : List Msg := c.msgs.filter fun m => decide (c.birth ≤ m.seq)
def Core.flown (c : Core) : List Flight := c.flights.filter fun f => decide (c.birth ≤ f.seq)

def Core.cntLd (c : Core) : Nat := c.loads.length
def Core.cntVx (c : Core) : Nat := c.vq.length
def Core.cntCp (c : Core) : Nat := (c.cmds.filter fun d => d.q == .cpq).length
def Core.cntTl (c : Core) : Nat := (c.own.filter fun d => d.q != .cpq).length

/-- Stores and reductions not yet performed at their scope, and messages not yet delivered or returned. -/
def State.cntSt (s : State) (k : Nat) : Nat :=
  (s.core k).sbuf.length + ((s.core k).flown.filter fun f => !s.performed k f.scope f.w).length + (s.core k).sent.length

/-- `cnt` (R195). -/
def State.cnt (s : State) (k : Nat) : Word :=
  let c := s.core k
  BitVec.ofNat 64 (c.cntLd + s.cntSt k * 2 ^ 8 + c.cntVx * 2 ^ 16 + c.cntCp * 2 ^ 24 + c.cntTl * 2 ^ 32)

/-- Is every counter 0 (R124)? -/
def State.quiet (s : State) (k : Nat) : Bool :=
  (s.core k).loads.isEmpty && s.cntSt k == 0 && (s.core k).vq.isEmpty && (s.core k).own.isEmpty

/-- Does a long load write where it reads, or has it? -/
def Load.writes (l : Load) : Bool :=
  match l.kind with
  | .amo _ | .cas => true
  | _ => false

def Load.isAtomic (l : Load) : Bool := l.writes || l.kind == .done

/-- Is every earlier store, reduction and atomic of the core performed at a scope? `before` bounds the age (R128, R139); what an earlier
thread wrote counts for a message of that thread alone. -/
def State.writesDone (s : State) (k before : Nat) (sc : Scope) : Bool :=
  ((s.core k).sbuf.all fun e => decide (before ≤ e.seq))
    && ((s.core k).loads.all fun l => decide (before ≤ l.seq) || !l.isAtomic)
    && (s.core k).flights.all fun f =>
      decide (before ≤ f.seq) || (decide (f.seq < (s.core k).birth) && decide ((s.core k).birth ≤ before)) || s.performed k sc f.w

/-- Every earlier write of the core, its messages among them (R292), is performed at a scope: what a release waits for (R297). -/
def State.released (s : State) (k before : Nat) (sc : Scope) : Bool :=
  s.writesDone k before sc && (s.core k).sent.all fun m => decide (before ≤ m.seq)

def State.readsDone (s : State) (k before : Nat) : Bool := (s.core k).loads.all fun l => decide (before ≤ l.seq)

/-! ## Reading -/

/-- The place that a key names: the scratchpad of a pinned sector (R309), or itself. -/
def State.realKey (s : State) (key : Nat) : Nat :=
  match s.pinnedAt key with
  | some t => s.pinnedKey t key
  | none => key

/-- A buffered store at the place that it names; one that runs into a second sector falls into two. -/
def State.placeStore (s : State) (e : Store) : List Store :=
  let n := 1024 - e.key % 1024
  if e.bytes.length ≤ n then [{ e with key := s.realKey e.key }]
  else [{ e with key := s.realKey e.key, bytes := e.bytes.take n },
        { e with key := s.realKey (e.key + n), bytes := e.bytes.drop n }]

/-- Buffered stores by the places that they name, so that a pinned sector's DRAM address and its window address meet (R309). -/
def State.placed (s : State) (buf : List Store) : List Store := buf.flatMap s.placeStore

/-- Does a buffered store cover the byte? -/
def coversByte (buf : List Store) (a : Nat) : Bool :=
  buf.any fun e => match e.kind with
    | .write | .writeFull => decide (e.key ≤ a) && decide (a < e.key + e.bytes.length)
    | _ => false

/-- The bytes with the core's own buffered stores laid over them, the youngest on top (R130). -/
def overlay (buf : List Store) (key : Nat) (bs : List Byte) : List Byte :=
  buf.foldl (fun acc e => match e.kind with
    | .write | .writeFull => acc.mapIdx fun i b =>
        if e.key ≤ key + i ∧ key + i < e.key + e.bytes.length then e.bytes.getD (key + i - e.key) b else b
    | _ => acc) bs

/-- Does a buffered reduction touch the bytes? A later read of the thread waits for it (R303). -/
def blockedBy (buf : List Store) (key n : Nat) : Bool :=
  buf.any fun e => match e.kind with
    | .red _ ty => overlaps e.key (ty.width / 8) key n
    | _ => false

/-- Does any buffered write touch the bytes? A fill of the read-only cache waits for it, so that a block brings the thread's own
stores whole (R137, R304). -/
def touchedBy (buf : List Store) (key n : Nat) : Bool := buf.any fun e => overlaps e.key e.bytes.length key n

/-- The value at a key for core `k`: the bank, the scratchpad of a pinned sector, a tile-cache block or the home. What it reads is
seen (R153, R294). -/
def State.fetchBytes (s : State) (k key n : Nat) (hint : Hint) : State × List Byte :=
  if isDram key then
    match s.pinnedAt key with
    | some t => let p := s.pinnedKey t key; (s.sawStamps k p n, s.read p n)
    | none =>
      if isTileCore k then
        (if (s.blockFor (coreTile k) key hint).isSome then s else s.tally k 64 0).cachedRead (coreTile k) key n hint
      else let s := (s.tally k n 0).settleRange key n; (s.homeSeen k key, s.read key n)
  else (s.sawStamps k key n, s.read key n)

/-- Does the byte that core `k` reads at a key carry an uncorrectable mark: at its bank, in the tile's block, or at the home (R348)? -/
def State.badAt (s : State) (k key : Nat) : Bool :=
  if isDram key then
    match s.pinnedAt key with
    | some t => s.isMarked (s.pinnedKey t key)
    | none =>
      match (if isTileCore k then (s.tile (coreTile k)).blocks.find? fun b =>
          b.pa == key / 64 * 64 && s.valid (coreTile k) b else none) with
      | some b => b.bad.getLsbD (key % 64 / 8)
      | none => s.isMarked key
  else s.isMarked key

/-- The same on the read-only path (R137). -/
def State.badRo (s : State) (k key : Nat) : Bool :=
  match (s.tile (coreTile k)).ro.find? fun e => e.pa == key / 64 * 64 with
  | some e => e.bad.getLsbD (key % 64 / 8)
  | none => s.isMarked key

/-- Does a read of `n` bytes bring a marked one that no older store of the thread covers (R138)? `real` is the place that `key`
names. -/
def anyBad (bad : Nat → Bool) (older : List Store) (key real n : Nat) : Bool :=
  (List.range n).any fun i => !coversByte older (real + i) && bad (key + i)

/-- The same for a thread's read by core `k` that follows the stores `older`. -/
def State.readsBad (s : State) (k : Nat) (older : List Store) (key n : Nat) : Bool :=
  anyBad (s.badAt k) (s.placed older) key (s.realKey key) n

/-- Does a reduction of the thread among the buffered stores `older` hold back a read of the bytes (R303)? -/
def State.readBlocked (s : State) (older : List Store) (key n : Nat) : Bool := blockedBy (s.placed older) (s.realKey key) n

/-- A load's bytes as its thread sees them, which has the stores `older` in its buffer (R130). -/
def State.seenBytes (s : State) (k : Nat) (older : List Store) (key n : Nat) (hint : Hint) : State × List Byte :=
  let r := s.fetchBytes k key n hint
  (r.1, overlay (s.placed older) (s.realKey key) r.2)

/-- The bytes of a load that every buffered store of the core precedes. -/
def State.loadBytes (s : State) (k key n : Nat) (hint : Hint) : State × List Byte := s.seenBytes k (s.core k).sbuf key n hint

/-- The register value of loaded bytes (R130). -/
def loadValue (ty : ITy) (bs : List Byte) : Word := ty.extend (leNat bs : Nat)

/-- Mark a register poisoned when its data came from a marked word (R138). -/
def Core.poisonIf (c : Core) (bad : Bool) (words : List Nat) (va : Word) : Core :=
  if bad then { c with poison := words.foldl (fun p w => p.put w va) c.poison } else c

/-! ## Writing -/

/-- What a byte of a store's first 12 KiB comes to hold when a supervisor core stores `b` over `old` (R11, R93, R142, R151, R200): p0
stays 1, reserved fields stay 0, arrival objects change only as R142 lays down. -/
def fixByte (off : Nat) (b old : Byte) : Byte :=
  if off < 0x1000 then
    let r := off % 0x400
    if r = 0 then b ||| 1 else if r < 8 ∨ (0x300 ≤ r ∧ r < 0x320) then 0 else b
  else if off < 0x2000 then b
  else if off < 0x2400 then old
  else if off < 0x3000 then
    let r := (off - 0x2400) % 0x300
    if r < 0x100 then (if r % 4 = 0 then b else if r % 4 = 1 then b &&& 1 else 0)
    else if r < 0x120 then (if r = 0x102 then b &&& 0x3F else if r = 0x103 ∨ 0x118 ≤ r then 0 else b)
    else if r < 0x128 then (if r = 0x120 then b else if r = 0x121 then b &&& 0x07 else if r = 0x122 then b &&& 0x0F else 0)
    else if r < 0x1A8 then (if r % 4 = 3 then 0 else b)
    else 0
  else b

/-- A write to a store by a core or an engine: fields that hold their value keep it, and registers follow their home. -/
def State.fixStore (s : State) (key : Nat) (bs : List Byte) : State :=
  if isTileStore key && decide (keyOff key < 0x3000) then
    (s.store key (bs.mapIdx fun i b => fixByte (keyOff key + i) b (memGet s.mem (key + i)))).takeHome key bs.length
  else s.store key bs

/-- A core's write at a bank. -/
def State.bankStore (s : State) (k key : Nat) (bs : List Byte) : State := (s.fixStore key bs).stamp k key bs.length

/-- A store that misses brings its block from the home (R152), which counts (R269). -/
def State.tallyWrite (s : State) (k key : Nat) (hint : Hint) : State :=
  let v := s.tile (coreTile k)
  if hint == .nofill || v.cacheBlocks == 0 || v.blocks.any (fun b => b.pa == key / 64 * 64) then s else s.tally k 64 0

/-- A write of bytes that lie in one 64-byte block of DRAM, or in a store: the bank, the scratchpad of a pinned sector, or the
home through the tile's cache. The second part is the timestamp to wait for (R155); 0 where the write is performed at once. -/
def State.writeChunk (s : State) (k key : Nat) (bs : List Byte) (full : Bool) (hint : Hint) : State × Nat :=
  if isDram key then
    match s.pinnedAt key with
    | some t => (s.bankStore k (s.pinnedKey t key) bs, 0)
    | none => if isTileCore k then (s.tallyWrite k key hint).cachedWrite k key bs hint else s.homeWrite (some k) key bs
  else
    let s := s.bankStore k key bs
    (if full then s.setFulls key bs.length true else s, 0)

/-- A write of any length, chunk by chunk of a 64-byte region. -/
def State.writeAt (s : State) (k key : Nat) (bs : List Byte) (full : Bool) (hint : Hint) : State × Nat :=
  (List.range ((key + bs.length + 63) / 64 - key / 64)).foldl (fun r i =>
    let lo := max key ((key / 64 + i) * 64)
    let hi := min (key + bs.length) ((key / 64 + i + 1) * 64)
    let q := r.1.writeChunk k lo ((bs.drop (lo - key)).take (hi - lo)) full hint
    (q.1, max r.2 q.2)) (s, 0)

/-- What an atomic finds and does: the state, the old pattern, the timestamp, and whether the old pattern was marked. -/
structure AtomicOut where
  s : State
  old : Nat
  w : Nat
  bad : Bool

/-- An atomic at a bank. -/
def State.atomicBank (s : State) (k key w : Nat) (f : Word → Option Word) : AtomicOut :=
  let old := s.readNat key w
  let bad := (s.markedIn key w).isSome
  let s := s.sawStamps k key w
  { s := match f (BitVec.ofNat 64 old) with | some v => s.bankStore k key (toBytes w v.toNat) | none => s,
    old := old, w := 0, bad := bad }

/-- An atomic at the place of R322. -/
def State.atomicAt (s : State) (k key : Nat) (ty : ITy) (f : Word → Option Word) : AtomicOut :=
  let w := ty.width / 8
  if isDram key then
    match s.pinnedAt key with
    | some t => s.atomicBank k (s.pinnedKey t key) w f
    | none =>
      let s := ((s.tally k w 0).settle key w).homeSeen k key
      let old := s.readNat key w
      let bad := (s.markedIn key w).isSome
      match f (BitVec.ofNat 64 old) with
        | some v => let r := s.homeWrite (some k) key (toBytes w v.toNat); { s := r.1, old := old, w := r.2, bad := bad }
        | none => { s := s, old := old, w := 0, bad := bad }
  else s.atomicBank k key w f

/-- Store buffer entries leave in order; what becomes of the write is counted by age and scope. -/
def State.addFlight (s : State) (k w : Nat) (sc : Scope) (seq key : Nat) : State :=
  if w = 0 then s else s.onCore k fun c => { c with flights := c.flights ++ [{ w := w, scope := sc, seq := seq, pkg := keyPkg key }] }

/-- Record a lost write (R350); a waiting `wfi` ends when v becomes 1 (R342). -/
def State.loseWrite (s : State) (k cause pkg : Nat) : State :=
  s.onCore k fun c =>
    let r := c.remerr.toNat
    if getFld r 16 1 = 0 then
      { c with remerr := BitVec.ofNat 64 (cause + 2 ^ 16 + 2 ^ 24 + pkg * 2 ^ 32), wfiEvent := true }
    else { c with remerr := BitVec.ofNat 64 (setFld r 24 8 (min (getFld r 24 8 + 1) 255)) }

def State.popStore (s : State) (k : Nat) : State := s.onCore k fun c => { c with sbuf := c.sbuf.drop 1 }

/-- A refusal is on its way to the core (R346); a second one changes nothing. -/
def State.refuseAt (s : State) (k : Nat) (va pc : Word) : State :=
  s.onCore k fun c => { c with refusal := some (c.refusal.getD (va, pc)) }

/-- May the head of the store buffer leave (R128, R294): every earlier read completed, and for a `.rel` store every earlier
write performed at its scope? A frozen thread's stores are held (R346), and behind a refused one no later one is performed
(R359). DEDUCED, Assumption 56. -/
def State.mayDrain (s : State) (k : Nat) (e : Store) : Bool :=
  (s.core k).st != .frozen && (s.core k).refusal.isNone && s.readsDone k e.seq && (!e.rel || s.released k e.seq e.scope)

/-- The die whose partial copy accepts a reduction: the issuer's own, or the one at which it enters a remote home's network
(R324). DESIGN CHOICE, Assumption 85: the die of the issuer's number there. -/
def entryDie (k key : Nat) : Nat := dieKey (keyPkg key) (coreDie k)

/-- A reduction at its target (R324, R325): in DRAM its die's partial copy accepts it and the home takes a timestamp, the second
part; at a bank it is applied at once. -/
def State.reduceAt (s : State) (k key : Nat) (op : AmoOp) (ty : ITy) (v : Word) : State × Nat :=
  let w := ty.width / 8
  if isDram key && (s.pinnedAt key).isNone then
    let s := s.recall key
    (s.acceptRed (entryDie k key) key op ty v).grant k key
  else
    let key := match s.pinnedAt key with | some t => s.pinnedKey t key | none => key
    (s.bankStore k key (toBytes w (op.apply ty (BitVec.ofNat 64 (s.readNat key w)) v).toNat), 0)

/-- Perform the head entry at a target that serves it (R131, R133, R136, R325). -/
def State.performStore (s : State) (k : Nat) (e : Store) : State :=
  let s := s.popStore k
  match e.kind with
  | .write => let r := s.writeAt k e.key e.bytes false e.hint; r.1.addFlight k r.2 e.scope e.seq e.key
  | .writeFull => let r := s.writeAt k e.key e.bytes true e.hint; r.1.addFlight k r.2 e.scope e.seq e.key
  | .red op ty =>
    let r := s.reduceAt k e.key op ty (BitVec.ofNat 64 (leNat e.bytes))
    r.1.addFlight k r.2 e.scope e.seq e.key
  | .clean =>
    let t := coreTile k
    (match (s.tile t).blocks.find? fun b => b.pa == e.key / 64 * 64 && b.owned with
      | some b => (s.writeBlock t b).addFlight k b.wts e.scope e.seq e.key
      | none => s)
  | .inval =>
    let t := coreTile k
    (match (s.tile t).blocks.find? fun b => b.pa == e.key / 64 * 64 with
      | some b => (s.dropBlock t b.pa).addFlight k (if b.owned then b.wts else 0) e.scope e.seq e.key
      | none => s)

/-! ## The split request of a tile (R150) -/

/-- What a write of a kind makes of the old value (R91). -/
def CsrFn.put (f : CsrFn) (old ra : Word) : Word :=
  match f with
  | .write => ra
  | .set => old ||| ra
  | .clr => old &&& ~~~ra

/-- Does a byte of the tile's store move between scratch and cache range when the pending `tsplit` write takes effect? -/
def Tile.moves (v : Tile) (off : Nat) : Bool :=
  match v.req with
  | some r =>
    let a := v.scratchEnd
    let b := ({ v with tsplit := r.fn.put v.tsplit r.ra } : Tile).scratchEnd
    !r.acc && decide (min a b ≤ off) && decide (off < max a b)
  | none => false

/-- Is an access by core `k` to a key held until step 4 of R150? -/
def State.splitHeld (s : State) (k key : Nat) : Bool :=
  isTileCore k && isTileStore key && keyTile key == coreTile k && (s.tile (coreTile k)).moves (keyOff key)

/-- The head of the store buffer meets its target: performed, lost, refused, held, or not yet (R45, R131, R346, R351). -/
def State.drainStore (s : State) (k : Nat) : State :=
  match (s.core k).sbuf with
  | [] => s
  | e :: _ =>
    if !s.mayDrain k e || s.splitHeld k e.key then s
    else match e.kind with
      | .clean | .inval => s.performStore k e
      | _ => match s.route (s.master k) e.key true with
        | .ok => s.performStore k e
        | .err c => (s.popStore k).loseWrite k c (keyPkg e.key)
        | .page => (s.popStore k).loseWrite k causePage (keyPkg e.key)
        | .dead => (s.popStore k).loseWrite k causeRemoteDead (keyPkg e.key)
        | .refuse => (s.popStore k).refuseAt k e.va e.pc
        | .gone => s.popStore k
        | .held => s

/-! ## Waiting for a full word (R135) -/

/-- Does a request still wait? -/
def State.waits (s : State) (w : Waiter) : Bool :=
  match w.load with
  | some q => (s.core w.core).loads.any fun l => l.seq == q
  | none => (s.core w.core).st == .running && (s.core w.core).waitFrom.isSome && (s.core w.core).pc == w.pc

/-- The word is full and no earlier request for it waits: this one's turn. -/
def State.bankTurn (s : State) (k key : Nat) (load : Option Nat) : Bool :=
  s.isFull key && (match s.waiters.find? fun w => w.word == key / 8 && s.waits w with
    | some w => w.core == k && w.load == load
    | none => true)

/-- A request arrives at the bank, after those that wait. -/
def State.lineUp (s : State) (k key : Nat) (load : Option Nat) : State :=
  let ws := s.waiters.filter s.waits
  if ws.any fun w => w.word == key / 8 && w.core == k && w.load == load then { s with waiters := ws }
  else { s with waiters := ws ++ [{ word := key / 8, core := k, load := load, pc := (s.core k).pc }] }

/-- A request is served. -/
def State.leaveLine (s : State) (k key : Nat) (load : Option Nat) : State :=
  { s with waiters := s.waiters.filter fun w => !(w.word == key / 8 && w.core == k && w.load == load) }

/-! ## Long loads at their target -/

/-- The home words a load writes. -/
def Load.words (l : Load) : List Nat :=
  match l.kind with
  | .handle => hWords (BitVec.ofNat 4 l.reg)
  | _ => xWords (BitVec.ofNat 5 l.reg)

/-- Write a load's destination, poisoned where its data was marked, and retire it. -/
def State.retireLoad (s : State) (k : Nat) (l : Load) (bad : Bool) (f : Core → Core) : State :=
  (s.onCore k fun c => { c with loads := c.loads.drop 1 }).lateWrite k l.words fun c => (f c).poisonIf bad l.words l.va

/-- Is a `ldc` served by the tile's read-only cache (R137)? -/
def State.roServes (s : State) (k key : Nat) : Bool :=
  isDram key && isTileCore k && (s.pinnedAt key).isNone && keyPkg key == corePkg k

/-- Does the read-only cache of the core's tile hold the block of a key? -/
def State.roHolds (s : State) (k key : Nat) : Bool := (s.tile (coreTile k)).ro.any fun e => e.pa == key / 64 * 64

/-- The stores of the buffer that come before a load. -/
def Core.olderStores (c : Core) (l : Load) : List Store := c.sbuf.filter fun e => decide (e.seq < l.seq)

/-- May the load be performed now: a full bit, an empty store buffer before an atomic, no reduction of its own to wait for, no store of
its own before a fill of the read-only cache? DEDUCED, Assumption 111. -/
def State.loadReady (s : State) (k : Nat) (l : Load) : Bool :=
  match l.kind with
  | .ro =>
    if s.roServes k l.key then s.roHolds k l.key || !touchedBy ((s.core k).olderStores l) (l.key / 64 * 64) 64
    else !s.readBlocked ((s.core k).olderStores l) l.key l.size
  | .take | .wait => s.bankTurn k l.key (some l.seq)
  | .amo _ | .cas => ((s.core k).sbuf.all fun e => decide (l.seq ≤ e.seq)) && (!l.rel || s.released k l.seq l.scope)
  | .done => s.performed k l.scope l.b.toNat
  | _ => !s.readBlocked ((s.core k).olderStores l) l.key l.size

/-- An atomic's function of the old pattern (R321). -/
def Load.newValue (l : Load) (old : Word) : Option Word :=
  match l.kind with
  | .amo op => some (op.apply l.ty old l.a)
  | .cas => if old.toNat % 2 ^ l.ty.width = l.a.toNat % 2 ^ l.ty.width then some l.b else none
  | _ => none

/-- An atomic acts; its register waits until its write is performed at its scope (R323). -/
def State.performAtomic (s : State) (k : Nat) (l : Load) (value : Nat → Word) : State :=
  let o := s.atomicAt k l.key l.ty l.newValue
  o.s.onCore k fun c =>
    { c with loads := { l with kind := .done, a := value o.old, b := BitVec.ofNat 64 o.w, bad := o.bad } :: c.loads.drop 1 }

/-- Core `k` reads through its tile's read-only cache. -/
def State.roBytes (s : State) (k key n : Nat) : State × List Byte :=
  (if s.roHolds k key then s else s.tally k 64 0).roRead (coreTile k) key n

/-- Perform the oldest long load at a target that serves it (R126, R135, R137, R190, R323). -/
def State.performLoad (s : State) (k : Nat) (l : Load) : State :=
  let r := BitVec.ofNat 5 l.reg
  let older := (s.core k).olderStores l
  match l.kind with
  | .done => (s.retireLoad k l l.bad fun c => c.wx r l.a).addFlight k l.b.toNat l.scope l.seq l.key
  | .handle =>
    let b := s.seenBytes k older l.key 32 l.hint
    b.1.retireLoad k l (b.1.readsBad k older l.key 32) fun c => c.wh (BitVec.ofNat 4 l.reg) (BitVec.ofNat 256 (leNat b.2))
  | .amo op => s.performAtomic k l (op.oldValue l.ty)
  | .cas => s.performAtomic k l fun old => l.ty.extend (old : Nat)
  | .ro =>
    if s.roServes k l.key then
      let b := s.roBytes k l.key l.size
      b.1.retireLoad k l (anyBad (b.1.badRo k) [] l.key l.key l.size) fun c => c.wx r (loadValue l.ty b.2)
    else
      let b := s.seenBytes k older l.key l.size l.hint
      b.1.retireLoad k l (b.1.readsBad k older l.key l.size) fun c => c.wx r (loadValue l.ty b.2)
  | _ =>
    let b := s.seenBytes k older l.key l.size l.hint
    let s1 := (if l.kind == .take then b.1.setFull l.key false else b.1).leaveLine k l.key (some l.seq)
    s1.retireLoad k l (b.1.readsBad k older l.key l.size) fun c => c.wx r (loadValue l.ty b.2)

/-! ## What a compact member holds (R288, R310) -/

/-- The commands of a core, changed at one age. -/
def State.onCmd (s : State) (k age : Nat) (f : Cmd → Cmd) : State :=
  s.onCore k fun c => { c with cmds := c.cmds.map fun d => if d.age = age then f d else d }

/-! ## Engine and host accesses -/

/-- The home versions of a range are seen by an engine of core `k` (R153, R294). -/
def State.seenRange (s : State) (k key n : Nat) : State :=
  if isDram key then (List.range ((key + n + 63) / 64 - key / 64)).foldl (fun t i => t.homeSeen k ((key / 64 + i) * 64)) s else s

/-- An engine of core `k` has read a range: in DRAM its home versions, in a store what its words' writers knew (R153, R269, R294). -/
def State.engineSaw (s : State) (k key n : Nat) : State :=
  if isDram key then (s.tally k n 0).seenRange k key n else s.sawStamps k key n

/-- Bytes for an engine, of core `k` where it works for one: the pinned scratchpad, or the settled home (R194, R380). -/
def State.engineRead (s : State) (k : Option Nat) (key n : Nat) : State × List Byte :=
  let a := s.realKey key
  let s := s.settleRange a n
  (match k with | some k => s.engineSaw k a n | none => s, s.read a n)

/-- An engine's write: in a store with the full bits of whole words, past every lease in DRAM (R144, R154).
DESIGN CHOICE, Assumption 57. -/
def State.engineWrite (s : State) (key : Nat) (bs : List Byte) (full : Bool) : State :=
  let a := s.realKey key
  if isDram a then ((s.homeWrite none a bs).1).dropCopies a bs.length
  else let s := s.fixStore a bs; if full && !isDram key then s.setWhole a bs.length else s

/-- Command `age` of core `k` has written `n` bytes of a store: each word of which it has now written every byte gets its full bit
(R144). DEDUCED, Assumption 50. -/
def State.completeWords (s : State) (k age key n : Nat) : State :=
  if isDram key then s
  else
    let all := match (s.core k).cmds.find? fun d => d.age == age with
      | some d => (key, n) :: d.prog.wrote
      | none => [(key, n)]
    let whole (w : Nat) : Bool := (List.range 8).all fun i => all.any fun r => decide (r.1 ≤ 8 * w + i) && decide (8 * w + i < r.1 + r.2)
    let ws := wordsOf key n
    let s := ws.foldl (fun u w => if whole w then u.setFull (8 * w) true else u) s
    if ws.all whole then s else s.onCmd k age fun d => { d with prog := { d.prog with wrote := all } }

/-- A read of the host is answered (R380). -/
def State.hostGet (s : State) (key n : Nat) : State :=
  let r := (List.range ((key + n + 63) / 64 - key / 64)).foldl (fun (acc : State × List Byte) i =>
    let lo := max key ((key / 64 + i) * 64)
    let b := acc.1.engineRead none lo (min (key + n) ((key / 64 + i + 1) * 64) - lo)
    (b.1, acc.2 ++ b.2)) (s, [])
  { r.1 with hostReply := some r.2 }

/-! ## Serving what a member holds -/

/-- Is it the write of the host that a compact member holds at a key? -/
def Posted.heldAt (e : Posted) (key : Nat) : Bool :=
  match e.req with
  | .write a _ => e.sent && a == key
  | _ => false

/-- Is the command of a held piece still there, with the piece to be written? A cancelled or dead one's is never written (R202, R306). -/
def State.putStands (s : State) (p : HeldPut) : Bool :=
  match p.piece with
  | some q => (s.core p.core).cmds.any fun d => d.age == p.age && d.prog.pieces.contains q
  | none => s.posted.any fun e => e.heldAt p.key

/-- A write of a copy piece or of the host is performed, on what the bits that it does not cover hold, and counted (R144, R310, R348). -/
def State.putHeld (s : State) (p : HeldPut) : State :=
  let key := s.realKey p.key
  let r := s.engineRead none key p.len
  let old := leNat r.2
  let s := r.1.engineWrite key (toBytes p.len (p.bits % 2 ^ p.cov + old / 2 ^ p.cov * 2 ^ p.cov)) false
  let s := if p.full && !isDram p.key then s.completeWords p.core p.age key p.len else s
  let s := p.bad.foldl (fun u o => u.setMark (key + min o (p.len - 1)) true) s
  let s := match p.count with | some c => s.countArrival c.1 c.2 p.len | none => s
  match p.piece with
  | some q => s.onCmd p.core p.age fun d =>
      { d with prog := { d.prog with pieces := d.prog.pieces.filter fun x => x != q, held := d.prog.held.filter fun x => x != q,
                                     sent := d.prog.sent.filter fun x => x != q } }
  | none => { s with posted := s.posted.eraseP fun e => e.heldAt p.key }

def State.servePut (s : State) (p : HeldPut) : State := if s.putStands p then s.putHeld p else s

/-- A held read of the instruction at a core's pc, which still waits there, takes its bytes, its own buffered stores over them. -/
def State.serveRead (s : State) (core : Nat) (pc : Word) (va key n : Nat) : State :=
  let c := s.core core
  if c.st == .running && c.pc == pc && c.waitFrom.isSome then
    let b := s.loadBytes core key n .keep
    let got : Got := { va := va, bytes := b.2, bad := b.1.readsBad core c.sbuf key n }
    b.1.onCore core fun c => { c with got := c.got ++ [got] }
  else s

/-- A held absmax word is reduced; the vector instruction or the `DRAIN` waits until that is performed (R184, R310). -/
def State.serveAmax (s : State) (core age key : Nat) (v : Word32) : State :=
  if (s.core core).vq.any (fun e => e.age == age) || (s.core core).cmds.any (fun d => d.age == age) then
    let r := s.reduceAt core key .max .n32 (v.zeroExtend 64)
    r.1.onCore core fun c =>
      { c with vq := c.vq.map fun e => if e.age = age then { e with granted := 6, due := r.2 } else e,
               cmds := c.cmds.map fun d => if d.age = age then { d with prog := { d.prog with k := 2, off := r.2 } } else d }
  else s

/-- A held read of a copy takes its bytes; the command keeps them until its piece is written. -/
def State.serveGet (s : State) (core age va key n : Nat) : State :=
  let key := s.realKey key
  let got : Got := { va := va, bytes := s.read key n, bad := (s.markedIn key n).isSome }
  s.onCmd core age fun d => { d with prog := { d.prog with got := d.prog.got ++ [got] } }

/-- Serve one held access. -/
def State.serveOne (s : State) : Held → State
  | .load k q =>
    match (s.core k).loads with
    | l :: _ =>
      if l.seq == q && s.routeLoad (s.master k) l.key l.writes == .ok then
        (if s.loadReady k l then s.performLoad k l
         else if l.kind == .take || l.kind == .wait then s.lineUp k l.key (some l.seq) else s)
      else s
    | [] => s
  | .store k q =>
    match (s.core k).sbuf with
    | e :: _ => if e.seq == q then s.drainStore k else s
    | [] => s
  | .read k pc va key n => s.serveRead k pc va key n
  | .get k age va key n => s.serveGet k age va key n
  | .amax k age key v => s.serveAmax k age key v
  | .put p => s.servePut p
  | .host key n => s.hostGet key n

/-- Serve what a compact member holds, in arrival order (R288, R310): the window is open. -/
def State.serveHeld (s : State) (t : Nat) : State :=
  match (s.tile t).compact with
  | none => s
  | some c => c.held.foldl State.serveOne (s.setTile t { s.tile t with compact := some { c with held := [] } })

/-- An access arrives at a compact member and is held behind those that wait (R288, R310). -/
def State.holdAt (s : State) (t : Nat) (h : Held) : State :=
  match (s.tile t).compact with
  | some c => if c.held.contains h then s else s.setTile t { s.tile t with compact := some { c with held := c.held ++ [h] } }
  | none => s

end Machine
end Sys2Proof
end

