-- ==== Sys2Proof/Machine/Ops.lean ====
section
/-! DEFINITION. The operations that every instruction shares: how a compact ends at a tile, stopping, freezing and killing a
core, TAKING A TRAP and returning from one, waiting, and the issue of a word (R73, R98, R127, R313, R328, R337, R346). -/

namespace Sys2Proof
namespace Machine

/-! ## The end of a compact at a tile (R290, R313) -/

/-- The sixteen blocks of a sector that was pinned at tile-store key `key`, every byte dirty (R290). -/
def pinnedBlocks (s : State) (key sector tf : Nat) : List Block :=
  (List.range 16).map fun i =>
    { pa := sector * 1024 + 64 * i, wts := tf, rts := tf, owned := true, dirty := BitVec.allOnes 64,
      data := s.read (key + 64 * i) 64, bad := s.badWords (key + 64 * i), low := false }

/-- Step 1 of R290 at one tile: what it holds is served. Its clock passes those of the writers of its pinned words, so that T_f does
(R297). -/
def State.openTile (s : State) (t : Nat) : State :=
  match (s.tile t).compact with
  | none => s
  | some c =>
    let s := (s.onTile t fun v => { v with compact := some { c with window := true } }).serveHeld t
    c.pinned.foldl (fun u e => u.raiseClock t (u.stampOf (tileKey t e.2) 1024)) s

/-- Steps 2 to 4 of R290 at one tile: pinned sectors become owned cache blocks, free mode returns. -/
def State.releaseTile (s : State) (t tf : Nat) : State :=
  match (s.tile t).compact with
  | none => s
  | some c =>
    let blocks := c.pinned.flatMap fun e => pinnedBlocks s (tileKey t e.2) e.1 tf
    let s := c.pinned.foldl (fun u e => u.onSector e.1 fun x =>
      { x with wts := tf, rts := tf, owner := some t, pinned := false }) s
    let back (v : Tile) : Tile := { v with compact := none, blocks := v.blocks ++ blocks, arriving := [], rots := 0, rotated := [] }
    let s := (s.onTile t back).raiseClock t tf
    let e := (s.tile t).scratchEnd
    s.zeroRange (tileKey t e) (0x100000 - e)

/-- The greatest logical clock among the tiles (R290). -/
def State.greatestClock (s : State) (ts : List Nat) : Nat := ts.foldl (fun m t => max m (s.clock t)) 0

/-- R290 at every tile of `ts`, under one T_f. -/
def State.releaseAll (s : State) (ts : List Nat) : State :=
  let s := ts.foldl State.openTile s
  let tf := s.greatestClock ts
  ts.foldl (fun u t => u.releaseTile t tf) s

def Compact.tiles (c : Compact) : List Nat := c.members.map fun m => m.pkg * 1024 + m.tile

/-- The dies that hold members. -/
def Compact.dies (c : Compact) : List Nat := (c.tiles.map tileDieKey).eraseDups

/-- The compact's barrier becomes free on every die that it holds (R290, R313). -/
def State.freeBar (s : State) (c : Compact) : State :=
  c.dies.foldl (fun t d => if (t.bar d c.bid.toNat).kind = .compact c.id c.job then t.onBar d c.bid.toNat fun b =>
    { b with kind := .free, mask := 0, links := [], arrived := 0, since := none } else t) s

/-- Which command of the matrix queue it is (R88). -/
def Cmd.opc (d : Cmd) : Nat := (fld d.w 0 8).toNat

/-- Does a command hold a tag (R87)? -/
def Cmd.tag (d : Cmd) : Option Nat := if d.w.getLsbD 14 then some (fld d.w 8 6).toNat else none

/-- The tag that a command of the core's present thread holds; the tags are no earlier thread's (R31). -/
def Core.tagOf (c : Core) (d : Cmd) : Option Nat := if c.birth ≤ d.age then d.tag else none

/-- Remove a command from its core: its tag is released (R198) and its counter falls. -/
def State.retireCmd (s : State) (k : Nat) (d : Cmd) : State :=
  let s := s.onCore k fun c => { c with cmds := c.cmds.filter fun e => e.age != d.age }
  match (s.core k).tagOf d with
  | some t => s.tagDrop k t
  | none => s

/-- The number of a queue (R191). -/
def qNum (q : QName) : Nat := q.code.toNat

/-- With the first recorded fault that is a compact's break its descriptor address is kept for the supervisor record (R338). -/
def State.noteDesc (s : State) (k cause : Nat) : State :=
  if cause = causeCompactBroken ∧ !s.faultPend k then s.onCore k fun c => { c with brokenDesc := (s.tile (coreTile k)).desc } else s

/-- A command completes with a fault recorded (R201). -/
def State.faultCmd (s : State) (k : Nat) (d : Cmd) (cause va : Nat) : State :=
  (s.noteDesc k cause).recordFault k cause (qNum d.q) (fld d.w 0 64).toNat va d.tag

/-- Is it the same compact: one id of one job? -/
def Compact.same (c e : Compact) : Bool := e.id == c.id && e.job == c.job

/-- The member tiles of a compact that stand in it, and those whose thread still executes its `sign`. -/
def State.joined (s : State) (c : Compact) : List Nat := c.tiles.filter fun t => (s.tile t).compact.any c.same
def State.joining (s : State) (c : Compact) : List Nat :=
  c.tiles.filter fun t => (s.tile t).compact.isNone && (s.tile t).signing.any c.same

/-- A member's signing thread learns of the break: at its next `xfer`, `sstep` or `dissolve`, or at the one in which it waits. -/
def State.tellBroken (s : State) (t : Nat) : State :=
  match (s.tile t).compact.bind (·.signer) with
  | some k => s.onCore k fun c => { c with broken := true }
  | none => s

/-- The `sign` that a member waits in, before it has pinned, is over: it traps COMPACT_BROKEN as one that has arrived would. -/
def State.breakSign (s : State) (t : Nat) : State :=
  let s1 := s.onTile t fun v => { v with signing := none }
  match (s.tile t).signing.bind (·.signer) with
  | some k => s1.onCore k fun c => { c with broken := true, token := some (c.token.getD 0) }
  | none => s1

/-- The running `MROT` commands and the transfer copies of a member end with COMPACT_BROKEN; a saved thread's `MROT` when it resumes.
The fault record holds address 0. DESIGN CHOICE, Assumption 53. -/
def State.breakWork (s : State) (t : Nat) : State :=
  (List.range 4).foldl (fun u i =>
    let k := t * 4 + i
    ((u.core k).cmds.filter fun d => d.xfer || (d.q == .mxq && d.opc == 0x11 && d.started && (u.core k).st != .saved)).foldl
      (fun u d => (u.faultCmd k d causeCompactBroken 0).retireCmd k d) u) s

/-- A compact breaks (R313): its signing threads learn of it, what its members run for it ends, every member returns to free mode, and
bid is free. -/
def State.breakWhole (s : State) (c : Compact) : State :=
  let ts := s.joined c
  let s := (s.joining c).foldl State.breakSign s
  let s := ts.foldl (fun u t => (u.tellBroken t).breakWork t) s
  (s.releaseAll ts).freeBar c

/-- The compact in which tile `t` stands breaks. -/
def State.breakCompact (s : State) (t : Nat) : State :=
  match (s.tile t).compact with
  | none => s
  | some c => s.breakWhole c

/-- The compact that tile `t` stands in, or that a thread of it signs. -/
def Tile.compactOf (v : Tile) : Option Compact := if v.compact.isSome then v.compact else v.signing

/-- Every compact of a kind breaks, by what stands at its tiles. -/
def State.breakAll (s : State) (hit : Compact → Bool) : State :=
  ((s.tiles.filterMap fun e => e.2.compactOf).filter hit).foldl State.breakWhole s

/-- A kill breaks the compact whose signing thread it is, also before its `sign` has pinned (R313). -/
def State.breakIfSigner (s : State) (k : Nat) : State :=
  if isTileCore k then
    match (s.tile (coreTile k)).compactOf with
    | some c => if c.signer = some k then s.breakWhole c else s
    | none => s
  else s

/-- The signing thread of a tile has ended: no later thread on its core is the signing thread (R307). -/
def State.signerLeaves (s : State) (k : Nat) : State :=
  if isTileCore k then
    s.onTile (coreTile k) fun v =>
      { v with compact := v.compact.map fun c => if c.signer = some k then { c with signer := none } else c }
  else s

/-- Does a tile stand in a compact, or does a thread of it execute its `sign`? -/
def Tile.takesPart (v : Tile) (id : BitVec 16) (j : Job) : Bool :=
  match v.compact, v.signing with
  | some c, _ => c.id == id && c.job == j
  | none, some c => c.id == id && c.job == j
  | none, none => false

/-- A `sign` that has not pinned yet is given up: its claim of bid is withdrawn unless another member of the die made one (R308). -/
def State.dropSign (s : State) (k : Nat) : State :=
  let t := coreTile k
  match (if isTileCore k then (s.tile t).signing else none) with
  | some c =>
    if c.signer = some k then
      let s := s.onTile t fun v => { v with signing := none }
      let d := coreDieKey k
      if (s.bar d c.bid.toNat).kind = .compact c.id c.job
          ∧ !(s.tiles.any fun e => tileDieKey e.1 == d && e.2.takesPart c.id c.job) then
        s.onBar d c.bid.toNat fun b => { b with kind := .free, mask := 0, links := [], arrived := 0, since := none }
      else s
    else s
  | none => s

/-! ## Leaving the running state -/

/-- What a thread forgets of the instruction it waited in. -/
def Core.unwait (c : Core) : Core :=
  { c with waitFrom := none, token := none, bwaiting := none, abwaiting := none, wfiLimit := none, wfiEvent := false,
           snap := none, plan := [], got := [] }

def Core.ungang (c : Core) : Core := { c with gang := false, gangPos := 0, gangPath := [] }

/-- A member leaves its gang; when it is core 0, the leader, the others leave with it (R41). -/
def State.leaveGang (s : State) (k : Nat) : State :=
  if (s.core k).gang then
    if k % 4 = 0 then (List.range 4).foldl (fun u i => u.onCore (k + i) Core.ungang) s
    else s.onCore k Core.ungang
  else s

/-- A write of `tsplit` or `accsplit` that core `k` waits in is given up. -/
def State.dropReq (s : State) (k : Nat) : State :=
  if isTileCore k && (s.tile (coreTile k)).req.any fun r => r.core == k then s.onTile (coreTile k) fun v => { v with req := none } else s

/-- The instruction that core `k` waits in does not complete: it issues again, or never. -/
def State.abandon (s : State) (k : Nat) : State := (s.dropReq k).dropSign k

/-- Stop a thread on a trap that goes to its supervisor (R19, R20): every register stands in the home. -/
def State.stopThread (s : State) (k : Nat) (st : ThreadState) : State :=
  let ids := s.barsOf k
  let s := (s.keepFloors k).abandon k
  (((s.onCore k fun c => { c.unwait with st := st, left := if c.st = .stopped then c.left ++ ids else ids }).flushRc k).leaveBarriers k).leaveGang k

/-- The commands whose work outlives the death or end of their thread: gradient records accepted (R339, R368). -/
def Cmd.survives (d : Cmd) : Bool :=
  match d.q with
  | .gq _ => true
  | _ => false

/-- The writes of atomics that have acted, as writes in flight. -/
def Core.acted (c : Core) : List Flight :=
  (c.loads.filter fun l => l.kind == .done && l.b != 0).map fun l =>
    { w := l.b.toNat, scope := l.scope, seq := l.seq, pkg := keyPkg l.key }

/-- Engine work of a thread that is killed or ended: copies are cancelled, tags released, the rest stops at whole element writes
(R202, R306, R339). -/
def State.dropWork (s : State) (k : Nat) : State :=
  let s := ((s.core k).cmds.filter fun d => !d.survives).foldl (fun u d => u.retireCmd k d) s
  let s := s.onCore k fun c => { c with vq := [], loads := [], flights := c.flights ++ c.acted }
  if isTileCore k then (s.abandon k).onTile (coreTile k) fun v => { v with smm := if v.smm = some k then none else v.smm } else s

/-- The records queued at a killed churn are discarded (R368). -/
def State.dropGrads (s : State) (churn : Nat) : State :=
  (List.range 8).foldl (fun t n =>
    let gs := t.grads.get [] (gradKey churn n)
    let t := gs.foldl (fun u g => match (u.core g.src).cmds.find? fun d => d.age == g.age with
      | some d =>
        (if (u.core g.src).birth ≤ d.age then u.faultCmd g.src d causeRemoteDead (fld d.w 64 64).toNat else u).retireCmd g.src d
      | none => u) t
    { t with grads := t.grads.del (gradKey churn n) }) s

/-- A killed tile core sends no further heartbeat (R328). -/
def State.silence (s : State) (k : Nat) : State :=
  if isTileCore k then s.onDie (coreDieKey k) fun v =>
    { v with silent := v.silent.put (physKey (coreTile k / 64 % 4) (s.ptile (coreTile k)) (k % 4)) true }
  else s

/-- The age of the first write of a core that has not left it: a buffered store, or an atomic that has not acted. -/
def Core.firstWrite (c : Core) (now : Nat) : Nat :=
  (c.loads.filter (·.writes)).foldl (fun m l => min m l.seq) (c.sbuf.foldl (fun m e => min m e.seq) now)

/-- Kill a core (R328): the store buffer is discarded, messages that had not followed the writes before them out with it (R306); the
fatal report is on its way. -/
def State.killCore (s : State) (k : Nat) (tpc tval : Word) : State :=
  let c := s.core k
  if c.st = .killed then s
  else
    let s := (s.keepFloors k).setCore k { c.unwait with
      st := .killed, tcause := BitVec.ofNat 64 causeEccFatal, tpc := tpc, tval := tval, sbuf := [],
      msgs := c.msgs.filter fun m => decide (m.seq < c.firstWrite s.seq), report := true, dead := false, mark := false }
    let s := s.breakIfSigner k
    let s := ((s.dropWork k).leaveBarriers k).mailClear k
    let s := (s.leaveGang k).signerLeaves k
    (if isChurn k then s.dropGrads k else s).silence k

/-- Freeze a core when a refusal arrives (R346). -/
def State.freezeCore (s : State) (k : Nat) (tval aux : Word) : State :=
  let c := s.core k
  if c.st = .killed ∨ c.st = .frozen then s.onCore k fun c => { c with refusal := none }
  else
    let s := s.onCore k fun c => { c with refusal := none, tcause := BitVec.ofNat 64 causeAccess, tpc := c.pc, tval := tval }
    (s.stopThread k .frozen).recordCore k causeAccess recFrozen 0 c.pc tval aux

/-! ## Traps (R337) -/

/-- The value of `tcause`: the cause and eng (R336). -/
def tcauseOf (cause : Nat) (eng : Bool) : Word := BitVec.ofNat 64 (cause + if eng then 2 ^ 16 else 0)

/-- TAKE A TRAP at core `k`: `pc` is the trapping instruction's address, `aux` the record's last word. -/
def State.takeTrap (s : State) (k cause : Nat) (eng : Bool) (pc tval aux : Word) : State :=
  let c := s.core k
  if cause = causeAccess then s.freezeCore k tval aux
  else if cause = causeEccFatal then s.killCore k pc tval
  else if c.tvec = 0 ∨ c.inh ∨ cause = causeBarrierTimeout then
    let s := s.onCore k fun c => { c with tcause := tcauseOf cause eng, tpc := pc, tval := tval }
    (s.stopThread k .stopped).recordCore k cause recStopped 0 pc tval aux
  else
    (((s.keepFloors k).abandon k).onCore k fun c =>
      { c.unwait with tcause := tcauseOf cause eng, tpc := pc, tval := tval, inh := true, pc := c.tvec }).leaveGang k

/-- RETURN FROM A TRAP (R341): the pc and inh together. -/
def State.returnTrap (s : State) (k : Nat) : State :=
  s.onCore k fun c => { c.unwait with pc := c.tpc, inh := false }

/-! ## Waiting and completing -/

/-- The instruction at pc waits (R44). -/
def State.await (s : State) (k : Nat) : State :=
  s.onCore k fun c => { c with waitFrom := some (c.waitFrom.getD s.time) }

/-- The same, where the count of a timeout begins with the instruction's own wait, not with one before it issued (R146, R319). -/
def State.awaitFresh (s : State) (k : Nat) (counting : Bool) : State :=
  s.onCore k fun c => { c with waitFrom := some (if counting then c.waitFrom.getD s.time else s.time) }

/-- The word at pc completes and the next is `n` bytes on. -/
def Core.advance (c : Core) (n : Nat) : Core := { c.unwait with pc := c.pc + BitVec.ofNat 64 n }

def State.finish (s : State) (k : Nat) : State := s.onCore k fun c => c.advance 8

/-- How many addresses a leader remembers: more than the skew of a gang. -/
def gangDepth : Nat := 8

/-- The leader's next address for the word that follower `c` has completed: one that the leader `v` has passed, or the one at which it
holds its arrival at a barrier. -/
def Core.leads (v c : Core) : Option Word :=
  if c.gangPos < v.gangPos then v.gangPath[v.gangPos - c.gangPos - 1]?
  else if c.gangPos = v.gangPos ∧ v.token.isSome then some (v.pc + 8)
  else none

/-- A member has completed a word: the leader notes the address that follows; a follower whose next address is not the leader's for
the same word leaves (R41). -/
def State.stepGang (s : State) (k : Nat) : State :=
  let c := s.core k
  if !c.gang then s
  else if k % 4 = 0 then s.onCore k fun c => { c with gangPos := c.gangPos + 1, gangPath := (c.pc :: c.gangPath).take gangDepth }
  else if (s.core (k / 4 * 4)).leads c = some c.pc then s.onCore k fun c => { c with gangPos := c.gangPos + 1 }
  else s.leaveGang k

/-- An event completes the word that core `k` waits in. -/
def State.complete (s : State) (k : Nat) : State := (s.finish k).stepGang k

/-- Complete with a change of the core. -/
def State.finishWith (s : State) (k : Nat) (f : Core → Core) : State := s.onCore k fun c => (f c).advance 8

/-- Has every earlier instruction of the thread completed, so that a later one's trap may be taken (R127)? -/
def Core.settled (c : Core) : Bool := c.loads.isEmpty && c.vq.all fun v => v.i.lateWords.isEmpty

/-- Trap at the instruction at pc, once every earlier instruction has completed. -/
def State.trap (s : State) (k cause : Nat) (tval : Word) : State :=
  let c := s.core k
  if c.settled then s.takeTrap k cause false c.pc tval 0 else s.await k

/-- The same with eng set (R201, R351). -/
def State.trapEng (s : State) (k cause : Nat) (tval : Word) : State :=
  let c := s.core k
  if c.settled then s.takeTrap k cause true c.pc tval 0 else s.await k

/-- The trap of a pending engine fault, which the trap clears (R201). -/
def State.trapFault (s : State) (k : Nat) : State :=
  let c := s.core k
  if c.settled then
    let r := s.readNat (s.faultAt k) 32
    let aux := if getFld r 0 16 = causeCompactBroken then c.brokenDesc else 0
    (s.clearPend k).takeTrap k (getFld r 0 16) true c.pc (BitVec.ofNat 64 (getFld r 128 64)) aux
  else s.await k

/-! ## Issue -/

/-- The core whose turn it is. -/
def State.me (s : State) : Nat := coreKey s.cur

/-- Is a checked load outstanding (R127)? -/
def Core.checked (c : Core) : Bool := c.loads.any (·.checked)

/-- What may issue while a checked load is outstanding (R127). -/
def mayPass (i : Instr) : Bool :=
  match i with
  | .ld .. | .ldc .. | .hld .. | .pref .. | .wait .. => true
  | _ => false

/-- The number of lanes is needed only for a vector word's own issue; here a word names what it waits for. -/
def Core.mustWait (c : Core) (i : Instr) : Bool :=
  let u := i.uses
  let p := c.pendingWords
  (i.guardWords ++ u.1 ++ u.2).any p.contains || (c.checked && !mayPass i)

/-- The instructions that decode refuses by the core that runs them (R73, step 4; R343, R345, R360, R366). -/
def refusedByRole (k : Nat) (i : Instr) : Bool :=
  match i with
  | .arrive .. | .bwait .. | .bmask .. | .bmaskRd .. | .gang .. | .sign .. | .dissolve .. | .xfer .. | .sstep .. => isChurn k
  | .push _ q _ | .pushTry _ q _ _ _ | .qstat _ q _ => isChurn k && q != .cpq && q != .lnq
  | .qget .. => !isChurn k
  | .tlbi .. => !isSup k
  | .seal _ _ rb => !isSup k && rb != 0
  | _ => false

/-- Control registers that a core may name, and those it may write (R90, R358, R360). -/
def csrNamed (k n : Nat) : Bool :=
  if isSup k then decide (0x800 ≤ n ∧ n ≤ 0x808) || decide (0x810 ≤ n ∧ n ≤ 0x813) || n == 0x820 || n == 0x830
    || decide (0x840 ≤ n ∧ n ≤ 0x850) || decide (n ≤ 5) || decide (0x100 ≤ n ∧ n ≤ 0x104) || decide (0x200 ≤ n ∧ n ≤ 0x205)
  else decide (n ≤ 5) || decide (0x100 ≤ n ∧ n ≤ 0x104) || decide (0x200 ≤ n ∧ n ≤ 0x205)
    || (isChurn k && n == 6) || (isTileCore k && decide (0x300 ≤ n ∧ n ≤ 0x302))

def csrWritable (n : Nat) : Bool := !(decide (n ≤ 6) || n == 0x202 || n == 0x203)

def refusedCsr (k : Nat) (i : Instr) : Bool :=
  match i with
  | .csrr _ _ n => !csrNamed k n.toNat
  | .csrw _ o | .csrset _ o | .csrclr _ o => !csrNamed k o.csr.toNat || !csrWritable o.csr.toNat
  | _ => false

/-- A suppressed scalar word (R98): it advances past its words; a compare under `clr` clears its pair. -/
def Core.suppress (c : Core) (i : Instr) : Core :=
  (match i with
    | .cmp _ o => c.clearPair o.wm o.pt o.pf
    | .fcmp _ o => c.clearPair o.wm o.pt o.pf
    | .tbit _ o => c.clearPair o.wm o.pt o.pf
    | _ => c).advance i.size

/-- Does a suppressed word write its pair, so that it waits like any other (R127)? -/
def clears (i : Instr) : Bool :=
  match i with
  | .cmp _ o => o.wm == .clr
  | .fcmp _ o => o.wm == .clr
  | .tbit _ o => o.wm == .clr
  | .vcmp _ o => o.wm == .clr
  | _ => false

/-- Name the registers of a word: wait for late writers, fill the register cache, consume poison, then go on (R94, R127, R138). -/
def State.withOperands (s : State) (k : Nat) (i : Instr) (body : State → State) : State :=
  if (s.core k).mustWait i then s.await k
  else
    let u := i.uses
    let s := s.fill k (i.guardWords ++ u.1) u.2
    match (s.core k).poisonOf u.1 with
    | some va => s.takeTrap k causeEccFatal false (s.core k).pc va 0
    | none => body s

/-- Issue a scalar word on the core whose turn it is: decode checks that depend on the core, the guard, operands, then the effect.
A core that runs no thread does nothing. -/
def State.issue (s : State) (i : Instr) (body : Nat → State → State) : State :=
  let k := s.me
  let c := s.core k
  if c.st ≠ .running then s
  else if refusedByRole k i || refusedCsr k i then s.trap k causeIllegal (encode i)
  else if i.guardWords.any c.pendingWords.contains then s.await k
  else
    let s := s.fill k i.guardWords []
    match (s.core k).poisonOf i.guardWords with
    | some va => s.takeTrap k causeEccFatal false c.pc va 0
    | none =>
      if i.guard.eval c then s.withOperands k i (body k)
      else if clears i && c.mustWait i then s.await k
      else (if clears i then s.fill k [] i.uses.2 else s).onCore k fun c => c.suppress i

end Machine
end Sys2Proof
end

