-- ==== Sys2Proof/Machine/Scalar.lean ====
section
/-! DEFINITION. Integer and address arithmetic (R101 to R109). -/

namespace Sys2Proof
namespace Machine

/-- What every meaning answers. -/
abbrev Out := Host.Outcome State Fault Refusal

/-- A scalar word that changes its core and no more: issue, the change, the next word. -/
def scalarWord (i : Instr) (s : State) (f : Core → Core) : Out :=
  .next (s.issue i fun k t => t.finishWith k f)

/-- The register form (R101): operands at width w, the exact result narrowed and extended. -/
def intR (o : IntR) (f : ITy → Int → Int → Int) (c : Core) : Core :=
  c.wx o.rd (o.ty.extend (f o.ty (o.ty.value (c.rx o.ra)) (o.ty.value (c.rx o.rb))))

/-- The immediate form (R101): the immediate is sign-extended and then taken to w bits. -/
def intI (o : IntI) (f : ITy → Int → Int → Int) (c : Core) : Core :=
  c.wx o.rd (o.ty.extend (f o.ty (o.ty.value (c.rx o.ra)) (o.ty.value (o.imm.signExtend 64))))

/-- A shift amount of the register form: b<5:0> (R104). -/
def shiftAmount (b : Int) : Nat := (b % 64).toNat

/-- The one-source form (R105): a function of xa<w-1:0>. -/
def intU (o : IntU) (f : ITy → Nat → Word) (c : Core) : Core :=
  c.wx o.rd (f o.ty ((c.rx o.ra).toNat % 2 ^ o.ty.width))

/-- R102: the exact sum, narrowed. -/
def execAdd (g : Guard) (o : IntR) (s : State) : Out :=
  scalarWord (.add g o) s (intR o (fun _ a b => a + b))

/-- R102: the exact difference, narrowed. -/
def execSub (g : Guard) (o : IntR) (s : State) : Out :=
  scalarWord (.sub g o) s (intR o (fun _ a b => a - b))

/-- R102: the exact product, narrowed. -/
def execMul (g : Guard) (o : IntR) (s : State) : Out :=
  scalarWord (.mul g o) s (intR o (fun _ a b => a * b))

/-- R102: the upper w bits of the exact 2w-bit product. -/
def execMulh (g : Guard) (o : IntR) (s : State) : Out :=
  scalarWord (.mulh g o) s (intR o (fun ty a b => (a * b) / 2 ^ ty.width))

/-- R102, R103: division truncated towards zero; it never traps. -/
def execDiv (g : Guard) (o : IntR) (s : State) : Out :=
  scalarWord (.div g o) s (intR o (divInt))

/-- R102, R103: the remainder with the sign of a. -/
def execRem (g : Guard) (o : IntR) (s : State) : Out :=
  scalarWord (.rem g o) s (intR o (remInt))

/-- R102. -/
def execAnd (g : Guard) (o : IntR) (s : State) : Out :=
  scalarWord (.and g o) s (intR o (fun _ => bitInt (· &&& ·)))

/-- R102. -/
def execOr (g : Guard) (o : IntR) (s : State) : Out :=
  scalarWord (.or g o) s (intR o (fun _ => bitInt (· ||| ·)))

/-- R102. -/
def execXor (g : Guard) (o : IntR) (s : State) : Out :=
  scalarWord (.xor g o) s (intR o (fun _ => bitInt (· ^^^ ·)))

/-- R102: a AND NOT b. -/
def execAndn (g : Guard) (o : IntR) (s : State) : Out :=
  scalarWord (.andn g o) s (intR o (fun _ => bitInt fun a b => a &&& ~~~b))

/-- R104. -/
def execSll (g : Guard) (o : IntR) (s : State) : Out :=
  scalarWord (.sll g o) s (intR o (fun ty a b => sllInt ty a (shiftAmount b)))

/-- R104. -/
def execSrl (g : Guard) (o : IntR) (s : State) : Out :=
  scalarWord (.srl g o) s (intR o (fun ty a b => srlInt ty a (shiftAmount b)))

/-- R104. -/
def execSra (g : Guard) (o : IntR) (s : State) : Out :=
  scalarWord (.sra g o) s (intR o (fun ty a b => sraInt ty a (shiftAmount b)))

/-- R104. -/
def execRot (g : Guard) (o : IntR) (s : State) : Out :=
  scalarWord (.rot g o) s (intR o (fun ty a b => rotInt ty a (shiftAmount b)))

/-- R102. -/
def execMin (g : Guard) (o : IntR) (s : State) : Out :=
  scalarWord (.min g o) s (intR o (fun _ a b => min a b))

/-- R102. -/
def execMax (g : Guard) (o : IntR) (s : State) : Out :=
  scalarWord (.max g o) s (intR o (fun _ a b => max a b))

/-- R102: the exact sum, narrowed. -/
def execAddImm (g : Guard) (o : IntI) (s : State) : Out :=
  scalarWord (.addImm g o) s (intI o (fun _ a b => a + b))

/-- R102: the exact product, narrowed. -/
def execMulImm (g : Guard) (o : IntI) (s : State) : Out :=
  scalarWord (.mulImm g o) s (intI o (fun _ a b => a * b))

/-- R102. -/
def execAndImm (g : Guard) (o : IntI) (s : State) : Out :=
  scalarWord (.andImm g o) s (intI o (fun _ => bitInt (· &&& ·)))

/-- R102. -/
def execOrImm (g : Guard) (o : IntI) (s : State) : Out :=
  scalarWord (.orImm g o) s (intI o (fun _ => bitInt (· ||| ·)))

/-- R102. -/
def execXorImm (g : Guard) (o : IntI) (s : State) : Out :=
  scalarWord (.xorImm g o) s (intI o (fun _ => bitInt (· ^^^ ·)))

/-- R102: a AND NOT b. -/
def execAndnImm (g : Guard) (o : IntI) (s : State) : Out :=
  scalarWord (.andnImm g o) s (intI o (fun _ => bitInt fun a b => a &&& ~~~b))

/-- R104. -/
def execSllImm (g : Guard) (o : IntI) (s : State) : Out :=
  scalarWord (.sllImm g o) s (intI o (fun ty a b => sllInt ty a (shiftAmount b)))

/-- R104. -/
def execSrlImm (g : Guard) (o : IntI) (s : State) : Out :=
  scalarWord (.srlImm g o) s (intI o (fun ty a b => srlInt ty a (shiftAmount b)))

/-- R104. -/
def execSraImm (g : Guard) (o : IntI) (s : State) : Out :=
  scalarWord (.sraImm g o) s (intI o (fun ty a b => sraInt ty a (shiftAmount b)))

/-- R104. -/
def execRotImm (g : Guard) (o : IntI) (s : State) : Out :=
  scalarWord (.rotImm g o) s (intI o (fun ty a b => rotInt ty a (shiftAmount b)))

/-- R102. -/
def execMinImm (g : Guard) (o : IntI) (s : State) : Out :=
  scalarWord (.minImm g o) s (intI o (fun _ a b => min a b))

/-- R102. -/
def execMaxImm (g : Guard) (o : IntI) (s : State) : Out :=
  scalarWord (.maxImm g o) s (intI o (fun _ a b => max a b))

/-- R105: leading zeros of xa<w-1:0>. -/
def execClz (g : Guard) (o : IntU) (s : State) : Out :=
  scalarWord (.clz g o) s (intU o fun ty n => BitVec.ofNat 64 (leadZeros n ty.width))

/-- R105: trailing zeros of xa<w-1:0>. -/
def execCtz (g : Guard) (o : IntU) (s : State) : Out :=
  scalarWord (.ctz g o) s (intU o fun ty n => BitVec.ofNat 64 (trailZeros n ty.width))

/-- R105: ones of xa<w-1:0>. -/
def execPopc (g : Guard) (o : IntU) (s : State) : Out :=
  scalarWord (.popc g o) s (intU o fun ty n => BitVec.ofNat 64 (popCount n ty.width))

/-- R105: sign extension. -/
def execSext (g : Guard) (o : IntU) (s : State) : Out :=
  scalarWord (.sext g o) s (intU o fun ty n => ty.extend n)

/-- R105: zero extension. -/
def execZext (g : Guard) (o : IntU) (s : State) : Out :=
  scalarWord (.zext g o) s (intU o fun ty n => ty.extend n)

/-- R106. -/
def execLi (g : Guard) (rd : XReg) (imm : BitVec 35) (s : State) : Out :=
  scalarWord (.li g rd imm) s fun c => c.wx rd (imm.signExtend 64)

/-- R106: the upper half; the lower half stays. -/
def execLih (g : Guard) (rd : XReg) (imm : BitVec 32) (s : State) : Out :=
  scalarWord (.lih g rd imm) s fun c => c.wx rd (imm ++ fld (c.rx rd) 0 32)

/-- The address of format M: xb + SignExtend(disp20), modulo 2^64 (R125). -/
def memAddr (c : Core) (rb : XReg) (disp : BitVec 20) : Word := c.rx rb + disp.signExtend 64

/-- R107. -/
def execLea (g : Guard) (o : AddrM) (s : State) : Out :=
  scalarWord (.lea g o) s fun c => c.wx o.r (memAddr c o.rb o.disp)

/-- R108: the word's own address plus the offset in bytes. -/
def execAdr (g : Guard) (rd : XReg) (imm : BitVec 35) (s : State) : Out :=
  scalarWord (.adr g rd imm) s fun c => c.wx rd (c.pc + imm.signExtend 64)

/-- R109: a tile-window address from xa<9:0> and xb<9:0>. -/
def execPadr (g : Guard) (rd ra rb : XReg) (s : State) : Out :=
  scalarWord (.padr g rd ra rb) s fun c =>
    c.wx rd (0x0100000000000000 ||| (fld (c.rx ra) 0 10).zeroExtend 64 <<< 30 ||| (fld (c.rx rb) 0 10).zeroExtend 64 <<< 20)

end Machine
end Sys2Proof
end

