-- ==== Sys2Proof/Machine/Float.lean ====
section
/-! DEFINITION. Scalar floating point (R110 to R115): every operation sets the sticky flags it raises and traps FP when one is
enabled. -/

namespace Sys2Proof
namespace Machine

/-- A floating word: the new value of `rd` and the flags, from the core. An enabled flag traps after the flags are set, with
xd unchanged (R111); the trap waits until every earlier instruction has completed. -/
def floatWord (i : Instr) (s : State) (rd : XReg) (f : Core → Word × Flags) : Out :=
  .next (s.issue i fun k t =>
    let c := t.core k
    let r := f c
    if c.fpTraps r.2 then
      (if c.settled then (t.onCore k fun c => c.raise r.2).trap k causeFp (r.2.zeroExtend 64) else t.await k)
    else t.finishWith k fun c => (c.raise r.2).wx rd r.1)

/-- The two-source form (R112). -/
def float2 (o : FloatR) (f : Rm → Val → Val → Res) (c : Core) : Word × Flags :=
  o.ty.pack o.rm (f o.rm (o.ty.val (c.rx o.ra)) (o.ty.val (c.rx o.rb)))

/-- R112. -/
def execFadd (g : Guard) (o : FloatR) (s : State) : Out := floatWord (.fadd g o) s o.rd (float2 o Val.add)

/-- R112. -/
def execFsub (g : Guard) (o : FloatR) (s : State) : Out :=
  floatWord (.fsub g o) s o.rd (float2 o fun rm a b => Val.add rm a b.neg)

/-- R112. -/
def execFmul (g : Guard) (o : FloatR) (s : State) : Out := floatWord (.fmul g o) s o.rd (float2 o fun _ => Val.mul)

/-- R112: one rounding. -/
def execFma (g : Guard) (o : FmaR) (s : State) : Out :=
  floatWord (.fma g o) s o.rd fun c =>
    o.ty.pack o.rm (Val.fma o.rm (o.ty.val (c.rx o.ra)) (o.ty.val (c.rx o.rb)) (o.ty.val (c.rx o.rc)))

/-- R112. -/
def execFdiv (g : Guard) (o : FloatR) (s : State) : Out := floatWord (.fdiv g o) s o.rd (float2 o fun _ => Val.div)

/-- R112. -/
def execFsqrt (g : Guard) (o : FsqrtR) (s : State) : Out :=
  floatWord (.fsqrt g o) s o.rd fun c => o.ty.pack o.rm (Val.sqrt (o.ty.val (c.rx o.ra)))

/-- The lesser or greater of two patterns (R113): the result's pattern and the flags. -/
def pickMin (f : Fmt) (greater : Bool) (a b : Nat) : Nat × Flags :=
  let va := valueOf f a
  let vb := valueOf f b
  (if va.isNan then (if vb.isNan then f.nanC.getD 0 else b)
   else if vb.isNan then a
   else if Val.lessEq va vb != greater then a else b, sigFlags [va, vb])

/-- R113. -/
def execFmin (g : Guard) (o : FminR) (s : State) : Out :=
  floatWord (.fmin g o) s o.rd fun c =>
    let r := pickMin o.ty.fmt false (o.ty.bits (c.rx o.ra)) (o.ty.bits (c.rx o.rb))
    (BitVec.ofNat 64 r.1, r.2)

/-- R113. -/
def execFmax (g : Guard) (o : FminR) (s : State) : Out :=
  floatWord (.fmax g o) s o.rd fun c =>
    let r := pickMin o.ty.fmt true (o.ty.bits (c.rx o.ra)) (o.ty.bits (c.rx o.rb))
    (BitVec.ofNat 64 r.1, r.2)

/-- A value rounded to an integer magnitude (R114). -/
def roundToInt (rm : Rm) (neg : Bool) (m : Mag) : Nat × Bool :=
  let q := m.n / m.d
  let exact := q * m.d == m.n
  let up := match rm with
    | .rtz => false
    | .rup => !neg
    | .rdn => neg
    | _ => if 2 * (m.n - q * m.d) > m.d then true else if 2 * (m.n - q * m.d) < m.d then false else q % 2 == 1
  (if exact then q else if up then q + 1 else q, exact)

/-- A float to an integer kind (R114). -/
def toIntKind (ty : ITy) (rm : Rm) (v : Val) : Word × Flags :=
  let lo : Int := if ty.signed then -(2 ^ (ty.width - 1) : Nat) else 0
  let hi : Int := if ty.signed then (2 ^ (ty.width - 1) : Nat) - 1 else (2 ^ ty.width : Nat) - 1
  match v with
  | .nan _ => (0, flInvalid)
  | .inf n => (ty.extend (if n then lo else hi), flSaturated)
  | .fin n m =>
    let r := roundToInt rm n m
    let x : Int := sgn n r.1
    if x < lo then (ty.extend lo, flSaturated)
    else if hi < x then (ty.extend hi, flSaturated)
    else (ty.extend x, if r.2 then noFlags else flInexact)

/-- An integer as a value. -/
def intVal (x : Int) : Val := .fin (decide (x < 0)) (Mag.scaled x.natAbs 0)

/-- R114; two integer kinds never pass decode, and would convert through their value. -/
def convert (dst src : Kind) (rm : Rm) (x : Word) : Word × Flags :=
  match dst, src with
  | .int d, .int t => (d.extend (t.value x), noFlags)
  | .int d, .f32 => toIntKind d rm (FTy.f32.val x)
  | .int d, .f64 => toIntKind d rm (FTy.f64.val x)
  | .f32, .int t => FTy.f32.pack rm (intVal (t.value x), noFlags)
  | .f64, .int t => FTy.f64.pack rm (intVal (t.value x), noFlags)
  | .f32, .f32 => FTy.f32.pack rm (FTy.f32.val x, noFlags)
  | .f32, .f64 => FTy.f32.pack rm (FTy.f64.val x, noFlags)
  | .f64, .f32 => FTy.f64.pack rm (FTy.f32.val x, noFlags)
  | .f64, .f64 => FTy.f64.pack rm (FTy.f64.val x, noFlags)

/-- R114. -/
def execFcvt (g : Guard) (o : FcvtR) (s : State) : Out :=
  floatWord (.fcvt g o) s o.rd fun c => convert o.dst o.src o.rm (c.rx o.ra)

/-- The bit of R115. -/
def classBit (f : Fmt) (bits : Nat) : Nat :=
  match valueOf f bits with
  | .nan sig => if sig then 8 else 9
  | .inf n => if n then 0 else 7
  | .fin n m =>
    if m.isZero then (if n then 3 else 4)
    else if (match minNormal f with | some x => Mag.lt m x | none => false) then (if n then 2 else 5)
    else if n then 1 else 6

/-- R115: no flag. -/
def execFclass (g : Guard) (o : FclassR) (s : State) : Out :=
  scalarWord (.fclass g o) s fun c => c.wx o.rd (BitVec.ofNat 64 (2 ^ classBit o.ty.fmt (o.ty.bits (c.rx o.ra))))

end Machine
end Sys2Proof
end

