-- ==== Sys2Proof/Machine/Compare.lean ====
section
/-! DEFINITION. Compares and predicate moves (R100, R116 to R120). -/

namespace Sys2Proof
namespace Machine

/-- The operands of `cmp` at width w (R116). -/
def cmpArgs (o : CmpC) (c : Core) : Int × Int :=
  (o.ty.value (c.rx o.ra), match o.b with
    | .reg r => o.ty.value (c.rx r)
    | .imm v => o.ty.value (v.signExtend 64))

/-- R116. -/
def execCmp (g : Guard) (o : CmpC) (s : State) : Out :=
  scalarWord (.cmp g o) s fun c => c.setPair o.wm o.pt o.pf (intCond o.cond (cmpArgs o c).1 (cmpArgs o c).2)

/-- R117: an enabled invalid traps and the pair is not written. -/
def execFcmp (g : Guard) (o : FcmpC) (s : State) : Out :=
  .next (s.issue (.fcmp g o) fun k t =>
    let c := t.core k
    let r := fpCond o.cond (o.ty.val (c.rx o.ra)) (o.ty.val (c.rx o.rb))
    if c.fpTraps r.2 then
      (if c.settled then (t.onCore k fun c => c.raise r.2).trap k causeFp (r.2.zeroExtend 64) else t.await k)
    else t.finishWith k fun c => (c.raise r.2).setPair o.wm o.pt o.pf r.1)

/-- R118. -/
def execTbit (g : Guard) (o : TbitC) (s : State) : Out :=
  scalarWord (.tbit g o) s fun c => c.setPair o.wm o.pt o.pf ((c.rx o.ra).getLsbD o.n.toNat != o.zero)

/-- R119. -/
def execPlog (g : Guard) (o : PlogC) (s : State) : Out :=
  scalarWord (.plog g o) s fun c => c.wp o.pd (tableBit o.table (c.rp o.sa) (c.rp o.sb) (c.rp o.sc))

/-- R120: the byte p7 … p0 with bit 0 equal to 1. -/
def execPmovToX (g : Guard) (x : XReg) (s : State) : Out :=
  scalarWord (.pmovToX g x) s fun c => c.wx x ((c.p ||| 1).zeroExtend 64)

/-- R120: p1 to p7 from xa<7:1>. -/
def execPmovToPr (g : Guard) (x : XReg) (s : State) : Out :=
  scalarWord (.pmovToPr g x) s fun c => { c with p := fld (c.rx x) 0 8 ||| 1, poison := allPWords.foldl SMap.del c.poison }

end Machine
end Sys2Proof
end

