-- ==== Sys2Proof/Machine/Control.lean ====
section
/-! DEFINITION. Control flow (R121 to R124) and the system instructions `trap` and `eret` (R340, R341). A target without execute
permission traps when it is fetched (R123). -/

namespace Sys2Proof
namespace Machine

/-- The address of a branch: its own plus 8 · off32 (R78, R121). -/
def branchTarget (pc : Word) (off : BitVec 32) : Word := pc + (off.signExtend 64) * 8

/-- Go on at `t`. -/
def Core.jump (c : Core) (t : Word) : Core := { c.unwait with pc := t }

/-- R121. -/
def execBr (g : Guard) (off : BitVec 32) (s : State) : Out :=
  .next (s.issue (.br g off) fun k t => t.onCore k fun c => c.jump (branchTarget c.pc off))

/-- R121: the link first. -/
def execCall (g : Guard) (off : BitVec 32) (s : State) : Out :=
  .next (s.issue (.call g off) fun k t => t.onCore k fun c => (c.wx 1 (c.pc + 8)).jump (branchTarget c.pc off))

/-- R122: the target is read before the link is written. -/
def execJr (g : Guard) (rd ra : XReg) (s : State) : Out :=
  .next (s.issue (.jr g rd ra) fun k t =>
    let c := t.core k
    let a := c.rx ra
    if fld a 0 3 != 0 then t.trap k causeAlign a
    else t.onCore k fun c => (c.wx rd (c.pc + 8)).jump a)

/-- R340. -/
def execTrap (g : Guard) (code : BitVec 16) (s : State) : Out :=
  .next (s.issue (.trap g code) fun k t => t.trap k causeSoft (code.zeroExtend 64))

/-- R341: a `tpc` that is not a multiple of 8 traps ALIGN and leaves inh. -/
def execEret (g : Guard) (s : State) : Out :=
  .next (s.issue (.eret g) fun k t =>
    let c := t.core k
    if fld c.tpc 0 3 != 0 then t.trap k causeAlign c.tpc else t.returnTrap k)

end Machine
end Sys2Proof
end

