-- ==== Sys2Proof/Machine/MemoryI.lean ====
section
/-! DEFINITION. Scalar memory access, handles in memory, atomics and messages (R125 to R141, R190, R320 to R325), and the answers
and drains that complete them. -/

namespace Sys2Proof
namespace Machine

/-! ## Addresses (R125) -/

/-- The checks of R125 after the address is formed: the key, or the cause of the trap. -/
def State.checkAddr (s : State) (k : Nat) (va : Word) (size : Nat) (need : Need) : State × Except Nat Nat :=
  if !canonical va.toNat then (s, .error causePage)
  else if va.toNat % size != 0 then (s, .error causeAlign)
  else
    let r := s.resolve k va.toNat need
    (r.1, match r.2 with | some key => .ok key | none => .error causePage)

/-- An address of the core's own store, as an offset: through its tile's window, or, on a churn, whose store has none (R361), as the
local offset itself. DESIGN CHOICE, Assumption 94. -/
def ownOff (k : Nat) (va : Word) : Option Nat :=
  if isChurn k then (if va.toNat < 0x80000 then some va.toNat else none)
  else if inWindow va.toNat && isTileCore k && va.toNat / 2 ^ 20 % 2 ^ 20 == coreTile k then some (va.toNat % 2 ^ 20)
  else none

/-- Where the general range of the core's own store ends (R149, R361). -/
def State.ownEnd (s : State) (k : Nat) : Nat := if isChurn k then 0x80000 else (s.tile (coreTile k)).scratchEnd

/-- Is the key in the register home or mailbox of another core of the tile (R126)? -/
def otherHome (k key : Nat) : Bool :=
  isTileStore key && keyTile key == coreTile k && decide (keyOff key < 0x2000) && keyOff key % 0x1000 / 0x400 != k % 4

/-- A short load (R126): the core's own tile store, and no home or mailbox of another core. -/
def isShort (k key : Nat) : Bool := isTileCore k && isTileStore key && keyTile key == coreTile k && !otherHome k key

/-- A load that can be answered with an error (R126). -/
def isChecked (k key : Nat) : Bool :=
  if isTileStore key then !(isTileCore k && keyTile key == coreTile k) || otherHome k key else keyPkg key != corePkg k

/-- The key lies in a sector that a compact of another tile pins: an access there is checked (R288). -/
def State.pinnedElse (s : State) (k key : Nat) : Bool :=
  match s.pinnedAt key with
  | some t => !(isTileCore k && coreTile k == t)
  | none => false

/-- The boundary window closes at a word of the tile that touches the general range or a pinned sector (R288). -/
def State.closeWindow (s : State) (k key : Nat) : State :=
  if isTileCore k then
    let t := coreTile k
    match (s.tile t).compact with
    | some c =>
      if c.window && ((isTileStore key && keyTile key == t && decide (0x3000 ≤ keyOff key)) || s.pinnedAt key == some t) then
        s.onTile t fun v => { v with compact := some { c with window := false } }
      else s
    | none => s
  else s

/-- Check, then go on with the key; a failed check traps with `tval` = addr, and an access to a word that a pending write of
`tsplit` moves is held (R150). -/
def State.withKey (s : State) (k : Nat) (va : Word) (size : Nat) (need : Need) (body : Nat → State → State) : State :=
  let r := s.checkAddr k va size need
  match r.2 with
  | .error c => r.1.trap k c va
  | .ok key => if r.1.splitHeld k key then r.1.await k else body key (r.1.closeWindow k key)

/-- Enter a long load (R126): at most 64 outstanding; a target that is dead or PAGE at issue traps there (R151, R352). -/
def State.enterLoad (s : State) (k : Nat) (l : Load) : State :=
  match s.routeLoad (s.master k) l.key l.writes with
  | .page => s.trap k causePage l.va
  | .dead => s.trap k causeRemoteDead l.va
  | _ =>
    if 64 ≤ (s.core k).loads.length then s.await k
    else (s.finishWith k fun c => { c with loads := c.loads ++ [l] }).tick

/-- Enter the store buffer (R131): at most 255 in `st`; a free-mode cache range of the own tile is PAGE at issue (R151). -/
def State.enterStore (s : State) (k : Nat) (e : Store) : State :=
  match s.route (s.master k) e.key true with
  | .page => s.trap k causePage e.va
  | _ =>
    if 255 ≤ s.cntSt k then s.await k
    else (s.finishWith k fun c => { c with sbuf := c.sbuf ++ [e] }).tick

/-- A load of format M; `kind` is what it does when it is long. -/
def loadOf (kind : LoadKind) (o : MemM) (k : Nat) (va : Word) (key : Nat) (s : State) : Load :=
  { kind := kind, hint := o.hint, bad := false, reg := o.r.toNat, ty := o.ty, size := o.ty.width / 8, va := va, key := key, a := 0,
    b := 0, scope := o.scope, acq := o.ord, rel := false, checked := isChecked k key || s.pinnedElse k key, err := 0,
    pc := (s.core k).pc, seq := s.seq }

/-- A short load (R126): after every earlier load, and after the thread's own reductions there. A refusal leaves the destination
unchanged and is on its way (R346). -/
def State.shortLoad (s : State) (k : Nat) (o : MemM) (va : Word) (key : Nat) (take : Bool) : State :=
  let n := o.ty.width / 8
  let c := s.core k
  match s.route (s.master k) key false with
  | .page => s.trap k causePage va
  | .refuse => (s.refuseAt k va c.pc).finish k
  | _ =>
    if !c.loads.isEmpty || s.readBlocked c.sbuf key n then s.await k
    else
      let b := s.loadBytes k key n o.hint
      let bad := b.1.readsBad k c.sbuf key n
      let s1 := if take then b.1.setFull key false else b.1
      s1.finishWith k fun c => (c.wx o.r (loadValue o.ty b.2)).poisonIf bad (xWords o.r) va

/-- An `lds` of the own tile's store (R135): it stands in line at the bank and waits there for its turn. -/
def State.bankLoad (s : State) (k : Nat) (o : MemM) (va : Word) (key : Nat) : State :=
  if !(s.core k).loads.isEmpty || s.readBlocked (s.core k).sbuf key (o.ty.width / 8) then s.await k
  else if s.bankTurn k key none then (s.leaveLine k key none).shortLoad k o va key o.take
  else (s.await k).lineUp k key none

/-- Is the key in the register home or mailbox of a killed core, which answers a read with an error (R329)? -/
def State.killedRange (s : State) (key : Nat) : Bool :=
  isTileStore key && decide (keyOff key < 0x2000)
    && (s.core (keyTile key * 4 + keyOff key % 0x1000 / 0x400)).st == .killed

/-- R130. -/
def execLd (g : Guard) (o : MemM) (s : State) : Out :=
  .next (s.issue (.ld g o) fun k t =>
    let va := memAddr (t.core k) o.rb o.disp
    t.withKey k va (o.ty.width / 8) .rd fun key u =>
      if isShort k key then u.shortLoad k o va key false else u.enterLoad k (loadOf .plain o k va key u))

/-- R137: the read-only path for DRAM homed on this package; elsewhere as `ld`. -/
def execLdc (g : Guard) (o : MemM) (s : State) : Out :=
  .next (s.issue (.ldc g o) fun k t =>
    let va := memAddr (t.core k) o.rb o.disp
    t.withKey k va (o.ty.width / 8) .rd fun key u =>
      if isShort k key then u.shortLoad k o va key false
      else u.enterLoad k (loadOf (if isDram key then .ro else .plain) o k va key u))

/-- The general range that `lds` and `stf` accept at the target tile (R134). -/
def State.fullRange (s : State) (key : Nat) : Bool :=
  isTileStore key && decide (0x3000 ≤ keyOff key) && decide (keyOff key < (s.tile (keyTile key)).scratchEnd)

/-- R134, R135: an own-tile word is waited for here, another tile's at its bank; a killed core's home and mailbox answer with the
error of R329, and any other address outside the general range traps. DEDUCED, Assumption 76. -/
def execLds (g : Guard) (o : MemM) (s : State) : Out :=
  .next (s.issue (.lds g o) fun k t =>
    let va := memAddr (t.core k) o.rb o.disp
    t.withKey k va (o.ty.width / 8) .rd fun key u =>
      if !u.fullRange key && !u.killedRange key then u.trap k causePage va
      else if isShort k key then u.bankLoad k o va key
      else u.enterLoad k (loadOf (if o.take then .take else .wait) o k va key u))

/-- The store of `n` bytes of a register. -/
def storeOf (kind : StoreKind) (o : MemM) (va : Word) (key : Nat) (k : Nat) (s : State) : Store :=
  { kind := kind, va := va, key := key, bytes := toBytes (o.ty.width / 8) ((s.core k).rx o.r).toNat, scope := o.scope,
    rel := o.ord, hint := o.hint, pc := (s.core k).pc, seq := s.seq }

/-- R131. -/
def execSt (g : Guard) (o : MemM) (s : State) : Out :=
  .next (s.issue (.st g o) fun k t =>
    let va := memAddr (t.core k) o.rb o.disp
    t.withKey k va (o.ty.width / 8) .wr fun key u => u.enterStore k (storeOf .write o va key k u))

/-- R136: accepted only in a target tile's general range (R134); a mailbox refuses it and freezes the master (R134, DEDUCED,
Assumption 32), and any other address traps PAGE. -/
def execStf (g : Guard) (o : MemM) (s : State) : Out :=
  .next (s.issue (.stf g o) fun k t =>
    let va := memAddr (t.core k) o.rb o.disp
    t.withKey k va (o.ty.width / 8) .wr fun key u =>
      if !u.fullRange key && !(isTileStore key && decide (0x1000 ≤ keyOff key) && decide (keyOff key < 0x2000)) then
        u.trap k causePage va
      else u.enterStore k (storeOf .writeFull o va key k u))

/-- R132: a request that is never reported; `.keep` fills the tile cache. -/
def execPref (g : Guard) (o : BlockM) (s : State) : Out :=
  .next (s.issue (.pref g o) fun k t =>
    let va := memAddr (t.core k) o.rb o.disp
    let r := t.resolve k va.toNat .rd
    (match r.2 with
      | some key =>
        if isDram key && isTileCore k && o.hint == .keep && (r.1.pinnedAt key).isNone
            && r.1.route (r.1.master k) key false == .ok
            && !((r.1.tile (coreTile k)).blocks.any fun b => b.pa == key / 64 * 64)
        then ((r.1.tally k 64 0).fillBlock (coreTile k) key true false).finish k
        else t.finish k
      | none => t.finish k))

/-- The block operations (R133): they count in `st` when the tile holds a block for addr, and complete at once otherwise. They read and
write no range, so they close no window (R288). R163 names no permission for them: the model asks for rd.
DESIGN CHOICE, Assumption 86. -/
def State.blockOp (s : State) (k : Nat) (o : BlockM) (kind : StoreKind) : State :=
  let va := memAddr (s.core k) o.rb o.disp
  let r := s.checkAddr k va 1 .rd
  let u := r.1
  match r.2 with
  | .error c => u.trap k c va
  | .ok key =>
    if isDram key && isTileCore k
        && ((u.tile (coreTile k)).blocks.any (fun b => b.pa == key / 64 * 64)
          || (u.core k).sbuf.any fun e => e.key / 64 == key / 64) then
      (if 255 ≤ u.cntSt k then u.await k
       else (u.finishWith k fun c => { c with sbuf := c.sbuf ++ [{
          kind := kind, va := va, key := key, bytes := [], scope := o.scope, rel := false, hint := .keep,
          pc := c.pc, seq := u.seq }] }).tick)
    else u.finish k

/-- R133. -/
def execClean (g : Guard) (o : BlockM) (s : State) : Out :=
  .next (s.issue (.clean g o) fun k t => t.blockOp k o .clean)

/-- R133. -/
def execInval (g : Guard) (o : BlockM) (s : State) : Out :=
  .next (s.issue (.inval g o) fun k t => t.blockOp k o .inval)

/-! ## Handles in memory (R190) -/

/-- R190: always a long load. -/
def execHld (g : Guard) (o : HandleM) (s : State) : Out :=
  .next (s.issue (.hld g o) fun k t =>
    let va := memAddr (t.core k) o.rb o.disp
    t.withKey k va 32 .rd fun key u =>
      u.enterLoad k { kind := .handle, hint := o.hint, bad := false, reg := o.h.toNat, ty := .n64, size := 32, va := va, key := key,
                      a := 0, b := 0, scope := o.scope, acq := o.ord, rel := false,
                      checked := isChecked k key || u.pinnedElse k key, err := 0, pc := (u.core k).pc, seq := u.seq })

/-- R190. -/
def execHst (g : Guard) (o : HandleM) (s : State) : Out :=
  .next (s.issue (.hst g o) fun k t =>
    let va := memAddr (t.core k) o.rb o.disp
    t.withKey k va 32 .wr fun key u =>
      u.enterStore k { kind := .write, va := va, key := key, bytes := toBytes 32 ((u.core k).rh o.h).toNat, scope := o.scope,
                       rel := o.ord, hint := o.hint, pc := (u.core k).pc, seq := u.seq })

/-! ## Atomics and reductions (R320 to R325) -/

/-- R321: `a` is the operand or the expected value, `b` the new value of a `cas`. -/
def State.enterAtomic (s : State) (k : Nat) (kind : LoadKind) (rd : XReg) (ty : ITy) (va a b : Word) (sc : Scope)
    (ord : AOrd) : State :=
  s.withKey k va (ty.width / 8) .rw fun key u =>
    u.enterLoad k { kind := kind, hint := .keep, bad := false, reg := rd.toNat, ty := ty, size := ty.width / 8, va := va, key := key,
                    a := a, b := b, scope := sc, acq := ord == .acq || ord == .acqRel, rel := ord == .rel || ord == .acqRel,
                    checked := isChecked k key || u.pinnedElse k key, err := 0, pc := (u.core k).pc, seq := u.seq }

/-- R321. -/
def execAmo (g : Guard) (o : AmoR) (s : State) : Out :=
  .next (s.issue (.amo g o) fun k t =>
    t.enterAtomic k (.amo o.op) o.rd o.ty ((t.core k).rx o.ra) ((t.core k).rx o.rb) 0 o.scope o.ord)

/-- R321. -/
def execCas (g : Guard) (o : CasR) (s : State) : Out :=
  .next (s.issue (.cas g o) fun k t =>
    t.enterAtomic k .cas o.rd o.ty ((t.core k).rx o.ra) ((t.core k).rx o.rb) ((t.core k).rx o.rc) o.scope o.ord)

/-- R321, R324, R325: through the store buffer. -/
def execRed (g : Guard) (o : RedR) (s : State) : Out :=
  .next (s.issue (.red g o) fun k t =>
    let va := (t.core k).rx o.ra
    t.withKey k va (o.ty.width / 8) .rw fun key u =>
      u.enterStore k { kind := .red o.op o.ty, va := va, key := key, bytes := toBytes (o.ty.width / 8) ((u.core k).rx o.rb).toNat,
                       scope := o.scope, rel := o.ord == .rel, hint := .keep, pc := (u.core k).pc, seq := u.seq })

/-! ## Answers and drains -/

/-- A load answered with an error (R127): the trap is taken at the load, later loads are discarded; a thread that was draining
for a save takes the trap instead (R275). A thread that no longer runs only loses its loads. -/
def State.loadError (s : State) (k : Nat) (l : Load) (cause : Nat) : State :=
  let c := s.core k
  if c.st = .running ∨ c.st = .saving then
    (if c.vq.all fun v => v.i.lateWords.isEmpty then
      (s.onCore k fun c => { c with loads := [], st := .running }).takeTrap k cause false l.pc l.va 0
    else s)
  else s.onCore k fun c => { c with loads := c.loads.drop 1 }

/-- Does the load wait for a full word (R135)? -/
def Load.waitsFull (l : Load) : Bool := l.kind == .take || l.kind == .wait

/-- The answer to the oldest long load of core `k`: its value, an error, a refusal on its way, or not yet. A full/empty load that issued
towards a killed core's home finds no full word there once that thread is gone (R134). A load that its target
serves is answered from the bytes held there, also where the capacity behind it has gone since it issued (R385). DESIGN CHOICE,
Assumption 87. -/
def State.answerLoad (s : State) (k : Nat) : State :=
  match (s.core k).loads with
  | [] => s
  | l :: _ =>
    if l.kind = .done then (if s.loadReady k l then s.performLoad k l else s)
    else if s.splitHeld k l.key then s
    else match s.routeLoad (s.master k) l.key l.writes with
      | .ok =>
        if l.waitsFull && !s.fullRange l.key then s.loadError k l causePage
        else if s.loadReady k l then s.performLoad k l
        else if l.waitsFull then s.lineUp k l.key (some l.seq)
        else s
      | .err c => s.loadError k l c
      | .page => s.loadError k l causePage
      | .dead => s.loadError k l causeRemoteDead
      | .refuse => (s.refuseAt k l.va l.pc).onCore k fun c => { c with loads := c.loads.drop 1 }
      | .gone => s
      | .held => s

/-- R127. -/
def execLongLoadAnswer (c : CoreId) (s : State) : Out := .next (s.answerLoad (coreKey c))

/-- R45: the oldest entry of a store buffer leaves it. -/
def execStoreBufferDrain (c : CoreId) (s : State) : Out := .next (s.drainStore (coreKey c))

/-- R324: a reduction at the head of a store buffer is accepted by its die's partial copy. -/
def execRedAccept (c : CoreId) (s : State) : Out :=
  .next (match (s.core (coreKey c)).sbuf with
    | e :: _ => (match e.kind with | .red _ _ => s.drainStore (coreKey c) | _ => s)
    | [] => s)

/-- The tile whose compact an access to a key meets. -/
def State.holder (s : State) (key : Nat) : Nat := (s.pinnedAt key).getD (keyTile key)

/-- Is an access of the core held already? -/
def State.isHeld (s : State) (key : Nat) (h : Held) : Bool :=
  match (s.tile (s.holder key)).compact with
  | some c => c.held.contains h
  | none => false

/-- The oldest load of a core that is not held yet, with every earlier one held: the next to arrive. -/
def State.nextLoad (s : State) (k : Nat) : Option Load :=
  (s.core k).loads.find? fun l => !s.isHeld l.key (.load k l.seq)

/-- May a load that its target holds arrive there? A thread's reads are performed in program order (R294): every earlier load waits at the
same tile; before an atomic there is none. DEDUCED, Assumption 102. -/
def State.arrives (s : State) (k : Nat) (l : Load) : Bool :=
  let earlier := (s.core k).loads.takeWhile fun e => e.seq != l.seq
  earlier.all (fun e => s.holder e.key == s.holder l.key) && (!l.writes || earlier.isEmpty) && (l.waitsFull || s.loadReady k l)

/-- The next store of a core to arrive, all earlier ones being held. -/
def State.nextStore (s : State) (k : Nat) : Option Store :=
  (s.core k).sbuf.find? fun e => !s.isHeld e.key (.store k e.seq)

/-- R288, R310: an outsider's next load or store, in program order, reaches a compact member and is held in arrival order; where the
window is open, the oldest one is served. -/
def execHeldAccessArrive (c : CoreId) (s : State) : Out :=
  .next (
    let k := coreKey c
    match s.nextLoad k with
    | some l =>
      if l.kind != .done && s.routeLoad (s.master k) l.key l.writes == .held then
        (if s.arrives k l then s.holdAt (s.holder l.key) (.load k l.seq) else s)
      else s.answerLoad k
    | none => match s.nextStore k with
      | some e => if s.mayDrain k e && s.route (s.master k) e.key true == .held then s.holdAt (s.holder e.key) (.store k e.seq)
          else s.drainStore k
      | none => s)

/-! ## Messages (R139 to R141) -/

/-- The own-tile address of `msend` and `mrecv` (R139): canonical (R162), 32-byte aligned, in the general range reached through the
own window. DEDUCED, Assumption 55. -/
def State.withBox (s : State) (k : Nat) (va : Word) (body : Nat → State → State) : State :=
  if canonical va.toNat && va.toNat % 32 != 0 then s.trap k causeAlign va
  else match ownOff k va with
    | none => s.trap k causePage va
    | some off =>
      if off < 0x3000 ∨ s.ownEnd k ≤ off then s.trap k causePage va
      else
        let key := storeBase k + off
        if s.splitHeld k key then s.await k else body key (s.closeWindow k key)

/-- Send the 32 bytes at a key of the core's own store (R139): at most 8 messages outstanding; the bytes include the thread's own
reductions there (R303), and an uncorrectable mark goes with them. DESIGN CHOICE, Assumption 96. -/
def State.send (s : State) (k : Nat) (r : XReg) (key : Nat) : State :=
  if 8 ≤ s.mailOut k ∨ 255 ≤ s.cntSt k ∨ s.readBlocked (s.core k).sbuf key 32 then s.await k
  else
    let b := s.loadBytes k key 32 .keep
    let bad := b.1.readsBad k (s.core k).sbuf key 32
    ((b.1.setMail k (b.1.mailHead k) (b.1.mailUsed k) (b.1.mailOut k + 1)).finishWith k fun c =>
      { c with msgs := c.msgs ++ [{ dst := fld (c.rx r) 0 22, data := BitVec.ofNat 256 (leNat b.2), bad := bad,
                                    clk := b.1.clk k, seq := s.seq }] }).tick

/-- R139. -/
def execMsend (g : Guard) (o : AddrM) (s : State) : Out :=
  .next (s.issue (.msend g o) fun k t => t.withBox k (memAddr (t.core k) o.rb o.disp) fun key u => u.send k o.r key)

/-- What happens to a message at its destination (R140). -/
inductive Fate where
  | deliver | hold | back
deriving DecidableEq, Repr

def State.fate (s : State) (k : Nat) (m : Msg) : Fate :=
  let d := m.dst.toNat
  let c := s.core d
  if s.nonMembers.contains (d / 4096) || s.deadSeen (coreDieKey k) (d / 4096) || c.job != (s.core k).job || c.sealed then .back
  else match c.st with
    | .running | .saving | .stopped | .frozen => if s.mailUsed d < 24 then .deliver else .hold
    | .saved => .hold
    | .killed | .ended | .empty => .back

/-- Is the message one of the thread that the core holds, not of an earlier one (R306)? -/
def Core.sentIt (c : Core) (m : Msg) : Bool := decide (c.birth ≤ m.seq)

/-- Deliver or return one message of core `k`. One that an earlier thread of the core sent is none of the present thread's outstanding
ones, and its return finds the mailbox that was cleared. -/
def State.settleMsg (s : State) (k : Nat) (m : Msg) : State :=
  let s := s.onCore k fun c => { c with msgs := c.msgs.filter fun n => n.seq != m.seq }
  let mine := (s.core k).sentIt m
  match s.fate k m with
  | .deliver =>
    let s := s.mailPut m.dst.toNat (if isTileCore k then k else 0) false m
    if mine then s.setMail k (s.mailHead k) (s.mailUsed k) (s.mailOut k - 1) else s
  | .back =>
    if mine && decide (s.mailUsed k < 32) then s.mailPut k m.dst.toNat true m
    else s
  | .hold => s

/-- Is it the message's turn: every earlier write of its thread is performed, messages to whatever destination among them (R139, R292,
R297), and every earlier message of the core to its destination is gone (R140)? DEDUCED, Assumption 103. -/
def State.msgTurn (s : State) (k : Nat) (m : Msg) : Bool :=
  let c := s.core k
  s.writesDone k m.seq .pod && c.msgs.all fun n => decide (m.seq ≤ n.seq) || (n.dst != m.dst && c.sentIt m && !c.sentIt n)

/-- R140: the oldest message of the core that may go now. -/
def execMessageDelivery (c : CoreId) (s : State) : Out :=
  .next (
    let k := coreKey c
    match (s.core k).msgs.find? fun m => s.fate k m != .hold && s.msgTurn k m with
    | some m => s.settleMsg k m
    | none => s)

/-- Take the oldest message into the 32 bytes at a key (R141), its sender's clock and an uncorrectable mark of the entry with it
(DESIGN CHOICE, Assumption 96). The write keeps its place among the thread's reads and writes (DEDUCED, Assumption 99). -/
def State.receive (s : State) (k : Nat) (r : XReg) (key : Nat) : State :=
  if s.mailUsed k = 0 ∨ !(s.core k).loads.isEmpty ∨ !(s.core k).sbuf.isEmpty then s.await k
  else
    let i := s.mailHead k
    let from1 := mailKey k + 32 * i
    let st := s.readNat (tagKey k + 0x128 + 4 * i) 4
    let bad := (List.range 4).filter fun j => s.isMarked (from1 + 8 * j)
    let u := (s.sawStamps k from1 32).bankStore k key (s.read from1 32)
    let u := bad.foldl (fun v j => v.setMark (key + 8 * j) true) u
    let u := u.storeNat (tagKey k + 0x128 + 4 * i) 4 0
    let u := u.setMail k (i + 1) (u.mailUsed k - 1) (u.mailOut k - getFld st 22 1)
    u.finishWith k fun c => c.wx r (BitVec.ofNat 64 (getFld st 0 23))

/-- R141. -/
def execMrecv (g : Guard) (o : AddrM) (s : State) : Out :=
  .next (s.issue (.mrecv g o) fun k t => t.withBox k (memAddr (t.core k) o.rb o.disp) fun key u => u.receive k o.r key)

end Machine
end Sys2Proof
end

