-- ==== Sys2Proof/Machine/Reach.lean ====
section
/-! DEFINITION. How an engine, or an instruction that reads memory for itself, reaches an address (R194, R201, R288, R346), and the bytes
that such an instruction reads (R265, R267, R282, R284, R316). -/

namespace Sys2Proof
namespace Machine

/-! ## Reaching an address -/

/-- What becomes of an engine's access: a key, a fault to record, a refusal on its way, or no answer yet: at a key that a compact
member holds, or none where a tile's state is in its image (R279) or a dead package discards the access (R352). -/
inductive Grip where
  | key (a : Nat)
  | fault (cause : Nat)
  | refuse
  | wait (held : Option Nat)
deriving DecidableEq, Repr

def Grip.waits : Grip → Bool
  | .wait _ => true
  | _ => false

/-- An access of an engine for core `k` at a virtual address. -/
def State.engineAt (s : State) (k va : Nat) (need : Need) : State × Grip :=
  let r := s.resolve k va need
  match r.2 with
  | none => (r.1, .fault causePage)
  | some key => (r.1, match r.1.route (r.1.master k) key (need != .rd) with
    | .ok => .key key
    | .err c => .fault c
    | .page => .fault causePage
    | .dead => .fault causeRemoteDead
    | .refuse => .refuse
    | .held => .wait (if (r.1.tile (r.1.holder key)).compact.isSome then some key else none)
    | .gone => .wait none)

/-- A failed access: what became of it and where. -/
structure Failed where
  grip : Grip
  va : Nat
deriving DecidableEq, Repr

/-- Offsets and lengths of the pieces of at most 64 bytes that `n` bytes at `a` fall into (R144). -/
def cut (a n : Nat) : List (Nat × Nat) :=
  if n = 0 then []
  else (List.range ((a + n + 63) / 64 - a / 64)).map fun i =>
    (max a ((a / 64 + i) * 64) - a, min (a + n) ((a / 64 + i + 1) * 64) - max a ((a / 64 + i) * 64))

/-- Bytes and whether any of them is marked uncorrectable. -/
abbrev Grabbed := List Byte × Bool

/-- What the pieces of a read have brought, with one more: a piece that waits lets the others be asked for, a fault ends the read. -/
def gather2 (acc r : Except Failed Grabbed) : Except Failed Grabbed :=
  match acc, r with
  | .ok g, .ok x => .ok (g.1 ++ x.1, g.2 || x.2)
  | .error f, .error e => if f.grip.waits then .error e else .error f
  | .error f, .ok _ => .error f
  | .ok _, .error e => .error e

/-- Has a read failed for good? -/
def stopped (r : Except Failed Grabbed) : Bool :=
  match r with
  | .error f => !f.grip.waits
  | .ok _ => false

/-! ## Reading memory for an instruction -/

/-- One piece, at most 64 bytes of one region, as a load of core `k` reads it: what a held read has brought, or the bytes, or a place
among what a compact member holds (R288). A word that a pending write of `tsplit` moves waits (R150). -/
def State.readPiece (s : State) (k va n : Nat) : State × Except Failed Grabbed :=
  let c := s.core k
  match c.got.find? fun g => g.va == va && g.bytes.length == n with
  | some g => (s, .ok (g.bytes, g.bad))
  | none =>
    let r := s.engineAt k va .rd
    match r.2 with
    | .key key =>
      if r.1.splitHeld k key then (r.1, .error { grip := .wait none, va := va })
      else
        let b := (r.1.closeWindow k key).loadBytes k key n .keep
        (b.1, .ok (b.2, b.1.readsBad k c.sbuf key n))
    | .wait (some key) => ((r.1.await k).holdAt (r.1.holder key) (.read k c.pc va key n), .error { grip := .wait (some key), va := va })
    | w => (r.1, .error { grip := w, va := va })

/-- `n` bytes at a virtual address as a load of core `k` reads them, its own buffered stores included; and whether any is marked. -/
def State.readMem (s : State) (k va n : Nat) : State × Except Failed Grabbed :=
  (cut va n).foldl (fun acc e =>
    if stopped acc.2 then acc
    else let r := acc.1.readPiece k (va + e.1) e.2; (r.1, gather2 acc.2 r.2)) (s, .ok ([], false))

/-- The piece of such a read that brings a marked word, by its address (R348). -/
def State.markedVa (s : State) (k va n : Nat) : Nat :=
  ((cut va n).findSome? fun e => match (s.readPiece k (va + e.1) e.2).2 with
    | .ok (_, true) => some (va + e.1)
    | _ => none).getD va

/-- An instruction whose own read of memory failed: the trap, the freeze of a refusal (R346), or a wait at a compact. -/
def State.readFailed (s : State) (k : Nat) (f : Failed) (tval : Word) : State :=
  match f.grip with
  | .fault c => s.trap k c (if c = causePage then BitVec.ofNat 64 f.va else tval)
  | .refuse => (s.refuseAt k (BitVec.ofNat 64 f.va) (s.core k).pc).finish k
  | _ => s.await k

/-- Read, then go on with the bytes; marked data is consumed (R348). DEDUCED, Assumption 37. -/
def State.withBytes (s : State) (k va n : Nat) (body : List Byte → State → State) : State :=
  let r := s.readMem k va n
  match r.2 with
  | .error f => r.1.readFailed k f (BitVec.ofNat 64 va)
  | .ok (bs, bad) =>
    if bad then r.1.takeTrap k causeEccFatal false (r.1.core k).pc (BitVec.ofNat 64 va) 0 else body bs r.1

end Machine
end Sys2Proof
end

