-- ==== Sys2Proof/Machine/Barrier.lean ====
section
/-! DEFINITION. Wired barriers, `gang` and fences (R281, R301, R302, R304, R315 to R319, R326). -/

namespace Sys2Proof
namespace Machine

/-- Is the core a member of barrier `b` of its die, and has it arrived? -/
def State.member (s : State) (k b : Nat) : Bool := isTileCore k && (s.bar (coreDieKey k) b).mask.getLsbD (coreBit k)
def State.hasArrived (s : State) (k b : Nat) : Bool := (s.bar (coreDieKey k) b).arrived.getLsbD (coreBit k)

/-- Is barrier `b` of the core's die a compact's (R319)? -/
def State.isCompactBar (s : State) (k b : Nat) : Bool :=
  match (s.bar (coreDieKey k) b).kind with
  | .compact .. => true
  | _ => false

/-- Core `k` arrives at the current phase (R317) and brings its logical clock; what it inherited there ends (R271), and the first
arrival starts the die's count (R289). -/
def State.arriveAt (s : State) (k d b bit : Nat) : State :=
  let w := s.clk k
  (s.onCore k fun c => { c with floors := c.floors.del b }).onBar d b fun x =>
    { x with arrived := x.arrived ||| BitVec.twoPow 1024 bit, since := some (x.since.getD s.time), clk := max x.clk w }

/-- The acquire of a completed phase (R297, R319): the core's clock passes those of the barrier's arrivals. -/
def State.acquireBar (s : State) (k b : Nat) : State :=
  let d := coreDieKey k
  s.raiseClk k (((s.bar d b).group d).foldl (fun m e => max m (s.bar e b).clk) 0)

/-- The phase of barrier `b` on the core's die. -/
def State.phase (s : State) (k b : Nat) : BitVec 8 := (s.bar (coreDieKey k) b).phase

/-- R317: a release; a member that has arrived already waits for the phase. -/
def execArrive (g : Guard) (rd : XReg) (bid : BitVec 6) (s : State) : Out :=
  .next (s.issue (.arrive g rd bid) fun k t =>
    let b := bid.toNat
    let d := coreDieKey k
    if t.isCompactBar k b then t.trap k causeFormat (bid.zeroExtend 64)
    else if !t.member k b then t.finishWith k fun c => c.wx rd ((t.phase k b).zeroExtend 64)
    else if t.hasArrived k b || !t.released k t.seq (t.barScope d b k) then t.await k
    else (t.arriveAt k d b (coreBit k)).finishWith k fun c => c.wx rd ((t.phase k b).zeroExtend 64))

/-- R318: the token's distance behind the phase decides. -/
def execBwait (g : Guard) (bid : BitVec 6) (ra : XReg) (pt pf : PReg) (s : State) : Out :=
  .next (s.issue (.bwait g bid ra pt pf) fun k t =>
    let tok := fld ((t.core k).rx ra) 0 8
    let d := (t.phase k bid.toNat - tok).toNat
    if t.isCompactBar k bid.toNat then t.trap k causeFormat (bid.zeroExtend 64)
    else if 128 ≤ d then t.trap k causeBarrierFuture (tok.zeroExtend 64)
    else if 1 ≤ d then
      (t.acquireBar k bid.toNat).finishWith k fun c => c.writePair pt pf (decide (2 ≤ d), !decide (2 ≤ d))
    else (t.awaitFresh k (t.core k).bwaiting.isSome).onCore k fun c => { c with bwaiting := some (bid, tok) })

/-- The tile clocks after which `bwait` and `abwait` time out (R146, R319). -/
def barrierLimit : Nat := 2 ^ 26

/-- R319: the phase has not changed in time: the thread stops and leaves the barrier. DESIGN CHOICE, Assumption 80. -/
def execBarrierTimeout (c : CoreId) (s : State) : Out :=
  .next (
    let k := coreKey c
    let v := s.core k
    match v.bwaiting, v.waitFrom with
    | some (b, p), some t0 =>
      if v.st = .running ∧ s.phase k b.toNat = p ∧ t0 + barrierLimit ≤ s.time ∧ v.settled then
        s.takeTrap k causeBarrierTimeout false v.pc (b.zeroExtend 64) 0
      else s
    | _, _ => s)

/-- R315: a phase completes when every member of every linked die has arrived. -/
def execBarrierPhaseComplete (d : DieId) (bid : BitVec 6) (s : State) : Out :=
  .next (
    let e := dieKey d.pkg.toNat d.die.toNat
    if s.phaseReady e bid.toNat then s.completePhase e bid.toNat else s)

/-! ## The membership image (R315, R316) -/

/-- The 256 bytes of a barrier's image. -/
def Barrier.image (b : Barrier) : Nat :=
  b.mask.toNat + b.links.length * 2 ^ 1024 + b.phase.toNat * 2 ^ 1032
    + ((List.range b.links.length).map fun i =>
        (b.links.getD i 0 / 4 + b.links.getD i 0 % 4 * 2 ^ 10) * 2 ^ (1088 + 64 * i)).foldl (· + ·) 0

/-- The links of an image as die numbers. -/
def imageLinks (v : Nat) : List Nat :=
  (List.range (getFld v 1024 4)).map fun i => getFld v (1088 + 64 * i) 10 * 4 + getFld v (1088 + 64 * i + 10) 2

/-- The image checks of R316, step 3. -/
def State.imageBad (s : State) (d v : Nat) : Bool :=
  getFld v 1028 4 != 0 || getFld v 1040 48 != 0
    || (List.range 15).any (fun i => if i < getFld v 1024 4 then getFld v (1088 + 64 * i + 12) 52 != 0
        else getFld v (1088 + 64 * i) 64 != 0)
    || (imageLinks v).any fun e => e == d || s.nonMembers.contains (e / 4)

/-- Does a link of the image name a die that the job's partition does not own (R347, R386)? DESIGN CHOICE, Assumption 104. -/
def State.linksLeave (s : State) (k v : Nat) : Bool :=
  (imageLinks v).any fun e => s.partOf (e / 4) (e % 4) != (s.core k).job.part.toNat

/-- The cores that wait on a barrier of their die. -/
def State.waitersOf (s : State) (d b : Nat) : List Nat :=
  (s.cores.filter fun e => coreDieKey e.1 == d && e.2.bwaiting.any fun w => w.1.toNat == b).map (·.1)

/-- A write of the image: a member keeps what a waiter has passed to it, since the phase that it sets is no advance of the barrier; one
that the new mask leaves out does not (R271, R316). -/
def State.setImage (s : State) (d b v : Nat) : State :=
  let out := (maskCores d ((s.bar d b).mask &&& ~~~(BitVec.ofNat 1024 v)))
  let s := (s.waitersOf d b).foldl State.keepFloors s
  let s := out.foldl (fun u k => u.onCore k fun c => { c with floors := c.floors.del b }) s
  s.onBar d b fun x => { x with mask := BitVec.ofNat 1024 v, links := imageLinks v, phase := 0, since := none }

/-- R316, a write. -/
def execBmask (g : Guard) (bid : BitVec 6) (ra : XReg) (s : State) : Out :=
  .next (s.issue (.bmask g bid ra) fun k t =>
    let va := (t.core k).rx ra
    let d := coreDieKey k
    let b := t.bar d bid.toNat
    if canonical va.toNat && va.toNat % 64 != 0 then t.trap k causeAlign va
    else
      let r := t.readMem k va.toNat 256
      match r.2 with
      | .error f => r.1.readFailed k (if f.grip = .fault causePage then { f with va := va.toNat } else f) va
      | .ok (bs, bad) =>
        let v := leNat bs
        if b.kind != .free then (r.1.refuseAt k va (r.1.core k).pc).finish k
        else if bad then r.1.takeTrap k causeEccFatal false (r.1.core k).pc (BitVec.ofNat 64 (t.markedVa k va.toNat 256)) 0
        else if r.1.imageBad d v then r.1.trap k causeFormat va
        else if r.1.linksLeave k v then (r.1.refuseAt k va (r.1.core k).pc).finish k
        else if b.arrived != 0 then r.1.await k
        else (r.1.setImage d bid.toNat v).finish k)

/-- R316, a read: the image goes through the store buffer; two entries where it crosses a page. -/
def execBmaskRd (g : Guard) (bid : BitVec 6) (ra : XReg) (s : State) : Out :=
  .next (s.issue (.bmaskRd g bid ra) fun k t =>
    let va := (t.core k).rx ra
    let img := toBytes 256 (t.bar (coreDieKey k) bid.toNat).image
    let n := min 256 (2 ^ 16 - va.toNat % 2 ^ 16)
    let mk (a : Word) (key : Nat) (bs : List Byte) (u : State) : Store :=
      { kind := .write, va := a, key := key, bytes := bs, scope := .pod, rel := false, hint := .keep,
        pc := (u.core k).pc, seq := u.seq }
    t.withKey k va 64 .wr fun key u =>
      if n = 256 then u.enterStore k (mk va key img u)
      else
        let a2 := va + BitVec.ofNat 64 n
        match (u.checkAddr k a2 64 .wr).2 with
        | .error _ => u.trap k causePage va
        | .ok key2 =>
          if 254 ≤ u.cntSt k then u.await k
          else (u.onCore k fun c => { c with sbuf := c.sbuf ++ [mk va key (img.take n) u] }).enterStore k
            (mk a2 key2 (img.drop n) u))

/-! ## Ganging (R39, R281) -/

/-- Does core `j` wait at the same `gang` as core `k`, as a member of the barrier and of the same team (R281)? -/
def State.sameGang (s : State) (k j b : Nat) : Bool :=
  let c := s.core k
  let d := s.core j
  d.st == .running && d.pc == c.pc && d.token == c.token && d.bwaiting == c.bwaiting && s.member j b
    && d.job == c.job && d.base == c.base && d.size == c.size && d.bid == c.bid

/-- The cores of the tile that pass a `gang` together: those that wait at it with core `k`. -/
def State.gangOf (s : State) (k b : Nat) : List Nat :=
  if isTileCore k && s.member k b then ((List.range 4).map (k / 4 * 4 + ·)).filter fun j => s.sameGang k j b else [k]

/-- The wait of a `gang` completes: where core 0 is among those that pass it, they pass it together and form one gang, all at the
leader's place; else the core goes on alone (R281). A gang counts it as a word of its stream. DEDUCED, Assumption 14. -/
def State.passGang (s : State) (k b : Nat) : State :=
  let js := s.gangOf k b
  let l := k / 4 * 4
  if js.contains l && isTileCore k then
    let c := s.core l
    let n := if c.gang then c.gangPos + 1 else 0
    let path := if c.gang then ((c.pc + 8) :: c.gangPath).take gangDepth else []
    js.foldl (fun t j => (t.acquireBar j b).finishWith j fun c =>
      { c with gang := true, gangPos := n, gangPath := if j = l then path else [] }) s
  else (s.acquireBar k b).finish k

/-- R281: `arrive`, then `bwait` on the token received; it writes no register. -/
def execGang (g : Guard) (bid : BitVec 6) (s : State) : Out :=
  .next (s.issue (.gang g bid) fun k t =>
    let b := bid.toNat
    let d := coreDieKey k
    if t.isCompactBar k b then t.trap k causeFormat (bid.zeroExtend 64)
    else match (t.core k).token with
      | none =>
        if t.member k b && (t.hasArrived k b || !t.released k t.seq (t.barScope d b k)) then t.await k
        else
          let p := t.phase k b
          let t := if t.member k b then t.arriveAt k d b (coreBit k) else t
          (t.await k).onCore k fun c => { c with token := some p, bwaiting := some (bid, p), waitFrom := some t.time }
      | some p =>
        let n := (t.phase k b - p).toNat
        if 128 ≤ n then t.trap k causeBarrierFuture (p.zeroExtend 64)
        else if 1 ≤ n then t.passGang k b
        else t.await k)

/-! ## Fences (R301, R326) -/

/-- A lost write that `remerr` records is reported once (R351): v and count are cleared. -/
def State.trapLost (s : State) (k : Nat) : State :=
  let c := s.core k
  if c.settled then
    (s.onCore k fun c => { c with remerr := BitVec.ofNat 64 (setFld (setFld c.remerr.toNat 16 1 0) 24 8 0) }).takeTrap k
      (getFld c.remerr.toNat 0 16) true c.pc c.remerr 0
  else s.await k

/-- Is a lost write recorded? -/
def Core.lost (c : Core) : Bool := c.remerr.getLsbD 16

/-- The orders of R301 hold: reads completed, writes and messages performed at the scope. Engine writes are performed when
their command completes (R300). -/
def State.fenceHolds (s : State) (k : Nat) (o : FenceS) : Bool :=
  let reads := (s.core k).loads.isEmpty
  let writes := s.released k s.seq o.scope
  (!(o.ld || o.acq || o.rel || o.sc || o.ro) || reads) && (!(o.st || o.rel || o.sc) || writes)

/-- A fence of kind `sc` takes its place in the one order of R302: its clock passes those of the fences before it, and theirs after
it pass its own. One order serves every scope and job. DEDUCED, Assumption 81. -/
def State.fenceSc (s : State) (k : Nat) : State :=
  let t := s.raiseClk k s.scClk
  { t with scClk := max s.scClk (t.clk k) }

/-- R326. -/
def execFence (g : Guard) (o : FenceS) (s : State) : Out :=
  .next (s.issue (.fence g o) fun k t =>
    if t.faultPend k then t.trapFault k
    else if (t.core k).lost then t.trapLost k
    else if !t.fenceHolds k o then t.await k
    else
      let t := if o.sc then t.fenceSc k else t
      (if o.ro && isTileCore k then t.emptyRo (coreTile k) else t).finish k)

end Machine
end Sys2Proof
end

