-- ==== Sys2Proof/Machine/Command.lean ====
section
/-! DEFINITION. Tile commands: their words (R87, R88), the handles they name, and the checks that a push makes (R89, R188 and the
entries of the commands). -/

namespace Sys2Proof
namespace Machine

/-- Bits [lo + n - 1 : lo] of a command, counted from bit 0 of w0 (R87). -/
def cf (w : Wide) (lo n : Nat) : Nat := getFld w.toNat lo n

/-- w1, w2 and w3 whole. -/
def cw1 (w : Wide) : Nat := cf w 64 64
def cw2 (w : Wide) : Nat := cf w 128 64
def cw3 (w : Wide) : Nat := cf w 192 64

/-- The command block at x4n (R87). -/
def Core.block (c : Core) (cb : BitVec 3) : Wide :=
  BitVec.ofNat 256 ((c.rx (BitVec.ofNat 5 (4 * cb.toNat))).toNat + (c.rx (BitVec.ofNat 5 (4 * cb.toNat + 1))).toNat * 2 ^ 64
    + (c.rx (BitVec.ofNat 5 (4 * cb.toNat + 2))).toNat * 2 ^ 128 + (c.rx (BitVec.ofNat 5 (4 * cb.toNat + 3))).toNat * 2 ^ 192)

/-- Is the opcode assigned and accepted by the queue (R88)? -/
def opcAccepted (q : QName) (op : Nat) : Bool :=
  match q with
  | .cpq => decide (1 ≤ op ∧ op ≤ 3)
  | .mxq => decide (0x10 ≤ op ∧ op ≤ 0x13) || decide (0x18 ≤ op ∧ op ≤ 0x1A)
  | .clq => op == 0x20
  | .ofq => op == 0x28 || op == 0x29
  | .gq n => op == 0x40 + n.toNat
  | .lnq => op == 0x50

/-- Entries per core of a queue (R191). -/
def queueCap (q : QName) : Nat :=
  match q with
  | .mxq => 16
  | .cpq => 32
  | _ => 4

/-- The handle registers that a command names, by field; none where the field names no handle. -/
def cmdHandles (w : Wide) : List (Option Nat) :=
  let op := cf w 0 8
  if op = 1 ∨ op = 2 ∨ op = 3 then [some (cf w 16 4), some (cf w 20 4)]
  else if op = 0x10 ∨ op = 0x11 then [if cf w 28 1 = 1 then none else some (cf w 20 4), some (cf w 24 4)]
  else if op = 0x12 then [some (cf w 20 4)]
  else if op = 0x13 then (if cf w 19 2 = 1 ∨ cf w 19 2 = 2 then [some (cf w 21 4)] else [])
  else if op = 0x18 ∨ op = 0x1A then [some (cf w 20 4), some (cf w 24 4)]
  else []

/-- The handles by value, in field order. -/
def Core.snapshot (c : Core) (w : Wide) : List Wide :=
  (cmdHandles w).map fun o => match o with | some n => c.rh (BitVec.ofNat 4 n) | none => 0

/-- Does the command take a tag when tv = 1 (R198)? DEDUCED, Assumption 73. -/
def takesTag (op : Nat) : Bool :=
  decide (1 ≤ op ∧ op ≤ 3) || op == 0x20 || op == 0x28 || op == 0x29 || op == 0x50

/-! ## Ranges that a core's local handles may use (R187, R188, R361) -/

/-- The first and the last-but-one offset of local extents. -/
def State.localRange (s : State) (k : Nat) : Nat × Nat :=
  if isTileCore k then (0x3000, (s.tile (coreTile k)).scratchEnd)
  else if isChurn k then (0x3000, 0x80000) else (0, 0)

/-- Does the core own the accumulator (R203)? -/
def State.ownsAcc (s : State) (k a : Nat) : Bool :=
  isTileCore k && getFld (s.tile (coreTile k)).accsplit.toNat (2 * a) 2 == k % 4

/-! ## FP32 operands -/

def isNan32 (v : Nat) : Bool := decide (0x7F800000 < v % 2 ^ 31)
def isInf32 (v : Nat) : Bool := v % 2 ^ 31 == 0x7F800000

/-! ## Operand checks of each command (step 5 of R188) -/

def isLocal (h : Wide) : Bool := hSpace h == 0
def isGlobal (h : Wide) : Bool := hSpace h == 2
def sameShape (a b : Wide) : Bool := hRows a == hRows b && hCols a == hCols b && hFmt a == hFmt b && hGeom a == hGeom b

/-- The byte ranges of a handle's extent, as offset and length. -/
def extents (h : Wide) : List (Nat × Nat) :=
  (hBase h, (hLines h - 1) * hPitch h + lineBytes h) ::
    (if hGeom h = 0 then [] else [(hBase h + hSoff h, hScount h)])

def extentsOverlap (a b : Wide) : Bool := (extents a).any fun x => (extents b).any fun y => overlaps x.1 x.2 y.1 y.2

/-- The quadrant whose tiles a peer mask names (R205), by quadrant number of the pod. -/
def copyQuad (k : Nat) (w : Wide) : Nat :=
  if cf w 31 1 = 1 then quadKey (cf w 32 10) (cf w 42 2) (cf w 44 2) else coreQuad k

/-- Does a copy write its own tile? -/
def copiesHome (k : Nat) (w hd : Wide) : Bool :=
  if cw1 w = 0 then isLocal hd
  else isTileCore k && copyQuad k w == coreQuad k && getFld (cw1 w) (coreTile k % 64) 1 == 1

/-- R205. -/
def copyBad (k : Nat) (w hd hs : Wide) : Bool :=
  cf w 46 18 != 0 || cw2 w != 0 || cw3 w != 0 || (cf w 31 1 == 0 && cf w 32 14 != 0)
    || !sameShape hs hd || (hGeom hd == 1 && hCol hd != hCol hs) || (cw1 w != 0 && !isLocal hd)
    || (cf w 31 1 == 1 && cw1 w == 0) || (cf w 30 1 == 1 && isGlobal hd)
    || (isLocal hs && isLocal hd && copiesHome k w hd && extentsOverlap hs hd)

/-- R207. -/
def rowsBad (w hd hs : Wide) : Bool :=
  cf w 31 33 != 0 || cw2 w != 0 || cw3 w != 0 || cw1 w % 4 != 0 || hCol hd || hCol hs
    || !(hCols hs == hCols hd && hFmt hs == hFmt hd && hGeom hs == hGeom hd) || hGeom hd == 2
    || (cf w 30 1 == 1 && isGlobal hd)

/-- Orientation under `row32`: A row-major, B column-major (R175). -/
def laidWrong (ha hb : Wide) : Bool := (hGeom ha == 1 && hCol ha) || (hGeom hb == 1 && !hCol hb)

/-- R208; the families pair (R176). -/
def State.mmaBad (s : State) (k : Nat) (w ha hb : Wide) : Bool :=
  let ca := cf w 28 1 == 1
  let kk := cf w 48 16
  cf w 40 8 != 0 || cf w 96 32 != 0 || cw2 w != 0 || cw3 w != 0 || kk % 32 != 0 || kk == 0
    || !s.ownsAcc k (cf w 16 3)
    || (if ca then
          cf w 20 4 != 0 || !s.ownsAcc k (cf w 29 3) || cf w 29 3 == cf w 16 3 || decide (14 < cf w 32 5)
            || decide (5 < cf w 37 3) || kk != 32 || family (cf w 32 5) != family (hFmt hb)
        else
          cf w 29 3 != 0 || cf w 32 8 != 0 || cf w 64 32 != 0 || !isLocal ha || hRows ha != 32 || hCols ha != kk
            || family (hFmt ha) != family (hFmt hb) || (hGeom ha == 1 && hCol ha))
    || !isLocal hb || hRows hb != kk || hCols hb != 32 || (hGeom hb == 1 && !hCol hb)

/-- The rotation grid g of the compact that holds a tile (R282); 0 for none. -/
def State.gridOf (s : State) (t : Nat) : Nat :=
  match (s.tile t).compact with
  | some c => if c.grid = 0 then 0 else 2 ^ c.grid.toNat
  | none => 0

/-- R212. -/
def State.drainBad (s : State) (k : Nat) (w hd : Wide) : Bool :=
  decide (5 < cf w 24 3) || cw3 w != 0 || !s.ownsAcc k (cf w 16 3) || hRows hd != 32 || hCols hd != 32 || !isLocal hd
    || isNan32 (cf w 64 32) || isInf32 (cf w 64 32) || isNan32 (cf w 96 32) || cf w 127 1 == 1
    || (cf w 27 1 == 1 && hGeom hd == 0)
    || (if cf w 28 1 = 1 then cf w 29 3 == 0 || decide (5 < cf w 29 3) || cw2 w % 4 != 0
        else cf w 29 3 != 0 || cw2 w != 0)

/-- R214. -/
def State.accBad (s : State) (k : Nat) (w h : Wide) : Bool :=
  let fn := cf w 19 2
  let bad := hRows h != 32 || hCols h != 32 || !isLocal h || hFmt h != 0
  cf w 29 35 != 0 || cw1 w != 0 || cw2 w != 0 || cw3 w != 0 || !s.ownsAcc k (cf w 16 3)
    || (match fn with
        | 0 => cf w 21 4 != 0 || cf w 25 3 != 0
        | 1 => cf w 25 3 != 0 || bad
        | 2 => cf w 25 3 != 0 || cf w 28 1 != 0 || bad
        | _ => cf w 21 4 != 0 || cf w 28 1 != 0 || !s.ownsAcc k (cf w 25 3))

/-- The operands of `NORM` and `SMM` (R245). -/
def ladleOperands (ha hb : Wide) : Bool :=
  let fam (h : Wide) : Bool := family (hFmt h) == .float || family (hFmt h) == .log
  isLocal ha && isLocal hb && hRows ha == 32 && hCols hb == 32 && hCols ha == hRows hb && decide (hCols ha ≤ 4096)
    && fam ha && family (hFmt ha) == family (hFmt hb) && !laidWrong ha hb

/-- R245. -/
def normBad (w ha hb : Wide) : Bool :=
  cf w 16 4 != 0 || cf w 28 36 != 0 || cw1 w != 0 || cw2 w != 0 || cw3 w != 0 || !ladleOperands ha hb

/-- R250. -/
def State.smmBad (s : State) (k : Nat) (w ha hb : Wide) : Bool :=
  let tol := cf w 128 32
  let limit := cf w 192 22
  let stat := cf w 224 20
  cf w 28 4 != 0 || cf w 176 16 != 0 || cf w 214 10 != 0 || cf w 244 12 != 0 || !ladleOperands ha hb
    || !s.ownsAcc k (cf w 16 3) || isNan32 tol || isInf32 tol || decide (2 ^ 31 ≤ tol) || cf w 160 16 == 0
    || limit % 32 != 0 || limit == 0 || decide (2097120 < limit) || stat % 16 != 0
    || decide (stat < (s.localRange k).1) || decide ((s.localRange k).2 < stat + 16)

/-- R369. -/
def collBad (w : Wide) : Bool :=
  let e := if cf w 21 5 = 0 then 4 else 2
  decide (4 < cf w 16 3) || cf w 19 2 == 3 || decide (1 < cf w 21 5) || cf w 27 5 != 0 || cf w 32 32 == 0
    || (decide (cf w 16 3 < 3) && cf w 64 10 != 0) || cf w 74 2 != 0 || cw2 w % e != 0 || cw3 w % e != 0

/-- R375. -/
def offloadBad (w : Wide) : Bool :=
  cf w 16 8 != 0 || (cf w 0 8 == 0x28 && cf w 24 7 != 0) || cf w 31 1 != 0 || cf w 32 16 == 0 || cf w 48 16 != 0
    || cw1 w % 32 != 0 || cw2 w != 0 || cw3 w != 0

/-- R364. -/
def recordBad (w : Wide) : Bool :=
  cf w 8 8 != 0 || cf w 21 43 != 0 || (decide (cf w 0 8 < 0x44) &&
    (!canonical (cw1 w) || inWindow (cw1 w) || cw1 w % 64 != 0 || cf w 128 32 % 64 != 0 || cf w 128 32 == 0
      || decide (2 ^ 31 < cf w 128 32)))

/-- R266. -/
def launchBad (w : Wide) : Bool := cf w 20 44 != 0 || cw1 w % 64 != 0 || cw2 w != 0 || cw3 w != 0

/-- The checks that give FORMAT: the header, the handles named (R188, steps 1 to 4) and the command's own. -/
def State.cmdBad (s : State) (k : Nat) (w : Wide) (hs : List Wide) : Bool :=
  let op := cf w 0 8
  let h0 := hs.getD 0 0
  let h1 := hs.getD 1 0
  let lr := s.localRange k
  let named := ((cmdHandles w).zip hs).filterMap fun e => e.1.map fun _ => e.2
  cf w 15 1 != 0 || (!takesTag op && cf w 8 7 != 0)
    || named.any (fun h => handleReserved h || handleShape h || handleSpace h || (isLocal h && !extentInside h lr.1 lr.2))
    || (if op = 1 then copyBad k w h0 h1
        else if op = 2 ∨ op = 3 then rowsBad w h0 h1
        else if op = 0x10 then s.mmaBad k w h0 h1
        else if op = 0x11 then s.mmaBad k w h0 h1 || cf w 28 1 != 0 || s.gridOf (coreTile k) == 0
        else if op = 0x12 then s.drainBad k w h0
        else if op = 0x13 then s.accBad k w h0
        else if op = 0x18 then normBad w h0 h1
        else if op = 0x19 then cf w 16 48 != 0 || cw1 w != 0 || cw2 w != 0 || cw3 w != 0
        else if op = 0x1A then s.smmBad k w h0 h1
        else if op = 0x20 then collBad w
        else if op = 0x28 ∨ op = 0x29 then offloadBad w
        else if op = 0x50 then launchBad w
        else recordBad w)

/-- Step 6 of R188. -/
def scaleShort (w : Wide) (hs : List Wide) : Bool :=
  ((cmdHandles w).zip hs).any fun e => e.1.isSome && hGeom e.2 != 0 && decide (hScount e.2 < scaleCount e.2)

end Machine
end Sys2Proof
end

