-- ==== Sys2Proof/Machine/Queue.lean ====
section
/-! DEFINITION. Engine queues, class counters, tags and arrival objects: `push`, `qstat`, `wait`, `twait`, `tany`, `tfind`,
`cancel`, `abinit`, `abinit.reset`, `abwait` (R143 to R146, R191 to R202). -/

namespace Sys2Proof
namespace Machine

/-! ## Acceptance (R89, R192) -/

/-- Commands of a queue that have not started. -/
def Core.queued (c : Core) (q : QName) : Nat := (c.cmds.filter fun d => d.q == q && !d.started).length

/-- Accepted commands of a queue that have not completed. -/
def Core.live (c : Core) (q : QName) : Nat := (c.cmds.filter fun d => d.q == q).length

/-- Does a waiting change of `tsplit` or `accsplit` hold the tile's pushes (R150, R203)? -/
def State.queueHeld (s : State) (k : Nat) (q : QName) : Bool :=
  isTileCore k && (match (s.tile (coreTile k)).req with | some r => !r.acc || q == .mxq | none => false)

/-- Is the queue full for a push: no free entry, a held queue, or a command that waits for the provenance log (R356)? -/
def State.queueFull (s : State) (k : Nat) (q : QName) : Bool :=
  decide (queueCap q ≤ (s.core k).queued q) || s.queueHeld k q || (s.core k).cmds.any fun d => d.q == q && d.logWait

/-- The churn that a record names (R364). -/
def recordChurn (k : Nat) (w : Wide) : Nat := 2 ^ 22 + corePkg k * 32 + cf w 16 5

/-- Progress of a command that has not begun. -/
def Progress.start : Progress :=
  { k := 0, batch := 0, f := 0, v := 0, pieces := [], sent := [], held := [], got := [], wrote := [], idx := 0, off := 0,
    counted := false, nums := [] }

/-- The key under which a die numbers the collectives of a job and group id (R371). -/
def collKey (j : Job) (gid : Nat) : Nat := gid + j.ctx.toNat * 2 ^ 16 + j.part.toNat * 2 ^ 28

/-- The group id in the descriptor that a `COLL` names, where it can be read. -/
def State.collGid (s : State) (k : Nat) (w : Wide) : Option Nat :=
  match (s.resolve k (cw1 w / 4096 * 4096) .rd).2 with
  | some key => some ((s.settle key 2).readNat (s.realKey key) 2)
  | none => none

/-- A `COLL` takes its number among those of its group id that the die has accepted; group id and number stay with it until it starts.
The group id that counts is the one that its descriptor then holds. DESIGN CHOICE, Assumption 44. -/
def State.collSeat (s : State) (k : Nat) (q : QName) (w : Wide) : Option (Nat × Nat) :=
  if q = .clq then (s.collGid k w).map fun g => (g, (s.die (coreDieKey k)).collSeq.get 0 (collKey (s.core k).job g)) else none

/-- The die has accepted the `COLL` that took the number. -/
def State.collTaken (s : State) (k : Nat) (seat : Option (Nat × Nat)) : State :=
  match seat with
  | some (g, n) => s.onDie (coreDieKey k) fun v => { v with collSeq := v.collSeq.put (collKey (s.core k).job g) (n + 1) }
  | none => s

/-- What a command brings from its acceptance. -/
def Progress.seated (seat : Option (Nat × Nat)) : Progress :=
  match seat with
  | some (g, n) => { Progress.start with nums := [g, n] }
  | none => Progress.start

/-- A gradient record reaches its churn's queue; a churn on a die of another partition refuses it (R347, R386): the record is gone and the
refusal is on its way, with the record's addr as the refused address. DESIGN CHOICE, Assumption 104. -/
def State.sendGrad (s : State) (k n : Nat) (d : Cmd) : State :=
  let churn := recordChurn k d.w
  if s.partOf (corePkg k) (coreDie churn) != (s.core k).job.part.toNat then
    (s.refuseAt k (fld d.w 64 64) d.pc).onCore k fun c => { c with cmds := c.cmds.filter fun e => e.age != d.age }
  else
    let key := gradKey churn n
    let g : Grad := { w := d.w, src := k, cls := BitVec.ofNat 2 (s.eff k), age := d.age, clk := s.clk k }
    { s with grads := s.grads.put key (s.grads.get [] key ++ [g]) }.onCore churn fun c => { c with wfiEvent := true }

/-- Put a command into the core's queues with its snapshots, its tag and its record (R89, R183, R198, R364). -/
def State.accept (s : State) (k : Nat) (q : QName) (w : Wide) (hs : List Wide) (pc : Word) (xfer : Bool) : State :=
  let c := s.core k
  let w := match q with
    | .gq _ => BitVec.ofNat 256 (w.toNat + (if isTileCore k then k else 0) * 2 ^ 42)
    | _ => w
  let seat := s.collSeat k q w
  let d : Cmd := { q := q, w := w, hs := hs, dph := c.dph, pc := pc, age := s.seq, since := s.time, started := false, xfer := xfer,
                   logWait := false, born := (if isTileCore k then s.ptile (coreTile k) else 0, s.interval k),
                   prog := Progress.seated seat }
  let s := s.onCore k fun c =>
    let c := { c with cmds := c.cmds ++ [d] }
    if q = .mxq ∧ cf w 0 8 = 0x12 ∧ cf w 24 3 = 5 then c.advanceDph else c
  let s := match d.tag with
    | some t => s.tagTake k t
    | none => s
  let s := match q with
    | .gq n => s.sendGrad k n.toNat d
    | _ => s.collTaken k seat
  s.tick

/-- Does a command name the general range of the core's own tile, so that its push closes the boundary window (R288)? -/
def namesRange (k : Nat) (w : Wide) (hs : List Wide) : Bool :=
  let op := cf w 0 8
  let own (va : Nat) : Bool := match ownOff k (BitVec.ofNat 64 va) with | some o => decide (0x3000 ≤ o) | none => false
  (((cmdHandles w).zip hs).any fun e => e.1.isSome && (isLocal e.2 || (hSpace e.2 == 1 && own (hBase e.2))))
    || op == 0x1A || ((op == 2 || op == 3) && own (cw1 w)) || (op == 0x12 && cf w 28 1 == 1 && own (cw2 w))
    || (op == 0x20 && (own (cw1 w / 4096 * 4096) || own (cw2 w) || own (cw3 w)))
    || ((op == 0x28 || op == 0x29 || op == 0x50) && own (cw1 w))

/-- The window closes. -/
def State.shutWindow (s : State) (k : Nat) : State :=
  if isTileCore k then
    match (s.tile (coreTile k)).compact with
    | some c => s.onTile (coreTile k) fun v => { v with compact := some { c with window := false } }
    | none => s
  else s

/-- The home words of the handles that a command names. -/
def namedWords (w : Wide) : List Nat := (cmdHandles w).flatMap fun o => match o with
  | some n => hWords (BitVec.ofNat 4 n)
  | none => []

/-- The first word of a command. -/
def cmdWord0 (w : Wide) : Word := fld w 0 64

/-- Does a push wait for the release that it is: the earlier writes of one to a gradient queue at package scope (R297, R305)? -/
def State.pushWaits (s : State) (k : Nat) (q : QName) : Bool :=
  match q with
  | .gq _ => !s.released k s.seq .package
  | _ => false

/-- The checks of a command with its snapshots, and its acceptance (R89); `full` is what happens without a free entry, `done` what
an accepted push writes. -/
def State.pushChecked (s : State) (k : Nat) (q : QName) (w : Wide) (hs : List Wide) (full : State → State) (done : Core → Core) :
    State :=
  if s.cmdBad k w hs then s.trap k causeFormat (cmdWord0 w)
  else if scaleShort w hs then s.trap k causeScaleShort (cmdWord0 w)
  else if s.queueFull k q then full s
  else if s.pushWaits k q then s.await k
  else ((if namesRange k w hs then s.shutWindow k else s).accept k q w hs (s.core k).pc false).finishWith k done

/-- A command whose handles are read: they fill the register cache and consume poison. -/
def State.pushFilled (s : State) (k : Nat) (q : QName) (w : Wide) (full : State → State) (done : Core → Core) : State :=
  match (s.core k).poisonOf (namedWords w) with
  | some va => s.takeTrap k causeEccFatal false (s.core k).pc va 0
  | none => s.pushChecked k q w ((s.core k).snapshot w) full done

/-- R89 in its order. -/
def State.pushBody (s : State) (k : Nat) (q : QName) (cb : BitVec 3) (full : State → State) (done : Core → Core) : State :=
  let w := (s.core k).block cb
  if s.faultPend k then s.trapFault k
  else if !opcAccepted q (cf w 0 8) then s.trap k causeIllegalCmd (cmdWord0 w)
  else if (namedWords w).any (s.core k).pendingWords.contains then s.await k
  else (s.fill k (namedWords w) []).pushFilled k q w full done

/-- R192. -/
def execPush (g : Guard) (q : QName) (cb : BitVec 3) (s : State) : Out :=
  .next (s.issue (.push g q cb) fun k t => t.pushBody k q cb (fun u => u.await k) id)

/-- R89: the pair reports acceptance. -/
def execPushTry (g : Guard) (q : QName) (cb : BitVec 3) (pt pf : PReg) (s : State) : Out :=
  .next (s.issue (.pushTry g q cb pt pf) fun k t =>
    t.pushBody k q cb (fun u => u.finishWith k fun c => c.writePair pt pf (false, true)) fun c => c.writePair pt pf (true, false))

/-- R193. -/
def execQstat (g : Guard) (q : QName) (rd : XReg) (s : State) : Out :=
  .next (s.issue (.qstat g q rd) fun k t =>
    let c := t.core k
    t.finishWith k fun c' => c'.wx rd (BitVec.ofNat 64 (c.queued q + queueCap q * 2 ^ 8 + c.live q * 2 ^ 16)))

/-! ## Counters and tags -/

/-- Is a counter at most a limit of `wait`; 15 places no condition (R196)? -/
def within (n : Nat) (lim : BitVec 4) : Bool := lim == 15 || decide (n ≤ lim.toNat)

/-- R196: a pending fault first (R201). -/
def execWait (g : Guard) (o : WaitS) (s : State) : Out :=
  .next (s.issue (.wait g o) fun k t =>
    let c := t.core k
    if t.faultPend k then t.trapFault k
    else if within c.cntLd o.ld && within (t.cntSt k) o.st && within c.cntVx o.vx && within c.cntCp o.cp && within c.cntTl o.tl
    then t.finish k else t.await k)

/-- R199. DEDUCED, Assumption 74. -/
def execTwait (g : Guard) (tag : BitVec 6) (s : State) : Out :=
  .next (s.issue (.twait g tag) fun k t =>
    if t.faultPend k then t.trapFault k
    else if (t.core k).tags.getLsbD tag.toNat then t.finish k else t.await k)

/-- R199. -/
def execTany (g : Guard) (rd ra : XReg) (s : State) : Out :=
  .next (s.issue (.tany g rd ra) fun k t =>
    let c := t.core k
    let m := c.tags &&& c.rx ra
    if t.faultPend k then t.trapFault k
    else if m != 0 || c.rx ra == 0 then t.finishWith k fun c => c.wx rd m else t.await k)

/-- flt is cleared with the bit (R200). -/
def State.clearFlt (s : State) (k : Nat) (mask : Word) : State :=
  (List.range 64).foldl (fun t i => if mask.getLsbD i then
    t.setTagEntry k i (setFld (t.tagEntry k i) 8 1 0) else t) s

/-- R199: the lowest bit is taken and cleared in one step. -/
def execTfind (g : Guard) (rd ra : XReg) (s : State) : Out :=
  .next (s.issue (.tfind g rd ra) fun k t =>
    let c := t.core k
    let m := c.tags &&& c.rx ra
    if t.faultPend k then t.trapFault k
    else if c.rx ra = 0 then t.finishWith k fun c => c.wx rd 64
    else if m = 0 then t.await k
    else
      let i := trailZeros m.toNat 64
      (t.clearFlt k (BitVec.twoPow 64 i)).finishWith k fun c =>
        { c with tags := c.tags &&& ~~~(BitVec.twoPow 64 i) }.wx rd (BitVec.ofNat 64 i))

/-- R202: removed before they start, stopped at a piece boundary after it; every receiver confirms at once, since pieces are
written whole when they arrive. -/
def execCancel (g : Guard) (tag : BitVec 6) (rd : XReg) (s : State) : Out :=
  .next (s.issue (.cancel g tag rd) fun k t =>
    let hit := (t.core k).own.filter fun d => d.tag == some tag.toNat
    let removed := (hit.filter fun d => !d.started).length
    let t := hit.foldl (fun u d => u.retireCmd k d) t
    (t.onCore k fun c => { c with tags := c.tags ||| BitVec.twoPow 64 tag.toNat }).finishWith k fun c =>
      c.wx rd (BitVec.ofNat 64 (removed + (hit.length - removed) * 2 ^ 8)))

/-! ## Arrival objects (R143 to R146) -/

/-- The tile-window address of an offset of a tile (R165). -/
def windowVa (t off : Nat) : Nat := 2 ^ 56 + t * 2 ^ 20 + off

/-- R143, fn 0. -/
def execAbinit (g : Guard) (obj : BitVec 6) (ra : XReg) (s : State) : Out :=
  .next (s.issue (.abinit g obj ra) fun k t =>
    let key := arrivalKey (storeBase k) obj.toNat
    (t.setArrival key (t.readNat key 4) (fld ((t.core k).rx ra) 0 32).toNat true).finish k)

/-- R143, fn 1. -/
def execAbinitReset (g : Guard) (obj : BitVec 6) (ra : XReg) (s : State) : Out :=
  .next (s.issue (.abinitReset g obj ra) fun k t =>
    (t.setArrival (arrivalKey (storeBase k) obj.toNat) 0 (fld ((t.core k).rx ra) 0 32).toNat true).finish k)

/-- R143, R201. -/
def execAbwait (g : Guard) (obj : BitVec 6) (s : State) : Out :=
  .next (s.issue (.abwait g obj) fun k t =>
    if t.faultPend k then t.trapFault k
    else if getFld (t.readNat (arrivalKey (storeBase k) obj.toNat) 16) 65 1 = 1 then t.finish k
    else (t.awaitFresh k (t.core k).abwaiting.isSome).onCore k fun c => { c with abwaiting := some obj })

/-- R146: `tval` is the tile-window address of the object; on a churn, whose store has no window (R361), that address with the
churn's place in the tile field. DESIGN CHOICE, Assumption 88. -/
def execAbwaitTimeout (c : CoreId) (s : State) : Out :=
  .next (
    let k := coreKey c
    let v := s.core k
    match v.abwaiting, v.waitFrom with
    | some obj, some t0 =>
      if v.st = .running ∧ t0 + barrierLimit ≤ s.time ∧ v.settled
          ∧ getFld (s.readNat (arrivalKey (storeBase k) obj.toNat) 16) 65 1 = 0 then
        s.takeTrap k causeBarrierTimeout false v.pc (BitVec.ofNat 64 (windowVa (coreTile k) (0x2000 + 16 * obj.toNat))) 0
      else s
    | _, _ => s)

end Machine
end Sys2Proof
end

