-- ==== Sys2Proof/Machine/Handle.lean ====
section
/-! DEFINITION. The handle instructions of the register layout (R189). -/

namespace Sys2Proof
namespace Machine

/-- The place and width of a field by its fld code. -/
def handleField (f : BitVec 4) : Nat × Nat :=
  match f.toNat with
  | 0 => (0, 64) | 1 => (64, 16) | 2 => (80, 16) | 3 => (96, 32) | 4 => (128, 32) | 5 => (160, 32) | 6 => (208, 24)
  | 7 => (232, 24) | 8 => (192, 5) | 9 => (197, 2) | 10 => (199, 1) | 11 => (200, 2) | 12 => (64, 64) | 13 => (128, 64)
  | _ => (192, 64)

/-- Set a field from the low bits of a word. -/
def handleSet (h : Wide) (f : BitVec 4) (v : Word) : Wide :=
  BitVec.ofNat 256 (setFld h.toNat (handleField f).1 (handleField f).2 v.toNat)

/-- Read a field: sign-extended for cursor and step. -/
def handleGet (h : Wide) (f : BitVec 4) : Word :=
  let n := getFld h.toNat (handleField f).1 (handleField f).2
  if f = 4 ∨ f = 5 then (BitVec.ofNat 32 n).signExtend 64 else BitVec.ofNat 64 n

/-- R189, fn 0. -/
def execHset (g : Guard) (h : HReg) (f : BitVec 4) (x : XReg) (s : State) : Out :=
  scalarWord (.hset g h f x) s fun c => c.wh h (handleSet (c.rh h) f (c.rx x))

/-- R189, fn 1. -/
def execHget (g : Guard) (x : XReg) (h : HReg) (f : BitVec 4) (s : State) : Out :=
  scalarWord (.hget g x h f) s fun c => c.wx x (handleGet (c.rh h) f)

/-- R189, fn 2. -/
def execHmov (g : Guard) (h hs : HReg) (s : State) : Out :=
  scalarWord (.hmov g h hs) s fun c => c.wh h (c.rh hs)

/-- R189, fn 3: n is 1 when no register is named. -/
def execHadv (g : Guard) (h : HReg) (x : XReg) (s : State) : Out :=
  scalarWord (.hadv g h x) s fun c => c.wh h (hAdvance (c.rh h) (if x = 0 then 1 else fld (c.rx x) 0 32))

end Machine
end Sys2Proof
end

