-- ==== Sys2Proof/Machine/Narrow.lean ====
section
/-! DEFINITION. Elements of local tensors, and the narrowing that `DRAIN`, `vcvt` and `vquant` share: scale, clip, one rounding,
computed block scales, random bits and thresholds (R170, R175, R178, R182 to R184, R213). -/

namespace Sys2Proof
namespace Machine

/-! ## Elements -/

/-- The first byte of element (r, c) of a handle in a store. -/
def elemKey (store : Nat) (h : Wide) (r c : Nat) : Nat := store + hBase h + elemBit h r c / 8

/-- The bits of element (r, c) of a local handle in the store from `store`. -/
def State.elem (s : State) (store : Nat) (h : Wide) (r c : Nat) : Nat :=
  s.readBits (store + hBase h) (elemBit h r c) (hWidth h)

def State.setElem (s : State) (store : Nat) (h : Wide) (r c v : Nat) : State :=
  s.writeBits (store + hBase h) (elemBit h r c) (hWidth h) v

/-- The bytes that an element touches. -/
def elemBytes (h : Wide) (r c : Nat) : Nat := (elemBit h r c % 8 + hWidth h + 7) / 8

/-- The address of the scale of element (r, c). -/
def scaleKey (store : Nat) (h : Wide) (r c : Nat) : Nat := store + hBase h + hSoff h + scaleIndex h r c

/-- The stored scale of element (r, c). -/
def State.scaleOf (s : State) (store : Nat) (h : Wide) (r c : Nat) : Option Int :=
  scaleExp (hFmt h) (if hGeom h = 0 then 127 else s.readNat (scaleKey store h r c) 1)

/-- The value of element (r, c), its block scale applied. -/
def State.elemVal (s : State) (store : Nat) (h : Wide) (r c : Nat) : Val :=
  elemValue (hFmt h) (s.elem store h r c) (s.scaleOf store h r c)

/-- The first marked byte of what a read of element (r, c) and its scale consumes (R348). -/
def State.elemMarked (s : State) (store : Nat) (h : Wide) (r c : Nat) : Option Nat :=
  if s.marks.isEmpty then none
  else match s.markedIn (elemKey store h r c) (elemBytes h r c) with
    | some a => some a
    | none => if hGeom h = 0 then none else s.markedIn (scaleKey store h r c) 1

/-- The bits of a store that element (r, c) has, by the first one's number and how many, and those of its scale. -/
def elemSpan (store : Nat) (h : Wide) (r c : Nat) : Nat × Nat := (8 * (store + hBase h) + elemBit h r c, hWidth h)
def scaleSpan (key : Nat) : Nat × Nat := (8 * key, 8)

/-- An engine has written these bits, no bit twice: an 8-byte word of which they replace every bit has fresh ECC (R348). -/
def State.freshWords (s : State) (bits : List (Nat × Nat)) : State :=
  if s.marks.isEmpty then s
  else ((bits.map fun b => b.1 / 64).eraseDups).foldl (fun u w =>
    let n := bits.foldl (fun n b => n + (min (64 * w + 64) (b.1 + b.2) - max (64 * w) b.1)) 0
    if 64 ≤ n then u.setMark (8 * w) false else u) s

/-! ## Random bits and thresholds -/

/-- Key(purpose, salt) of the thread of core `k` (R182, R363). -/
def State.key (s : State) (k purpose : Nat) (salt : Word32) : Word :=
  if isChurn k then churnKey (s.core k).jobseed purpose (corePkg k) ((k - 2 ^ 22) % 32) salt
  else rngKey (s.core k).jobseed purpose (if isTileCore k then k else 0) salt

/-- What rounding element (r, c) of a destination draws. -/
def State.draw (s : State) (k : Nat) (salt : Word32) (hd : Wide) (dph : BitVec 5) (r c : Nat) : Draw :=
  { u := roundBits (s.key k 0 salt) r c, theta := dither (hGeom hd) (hCol hd) dph.toNat r c }

/-! ## Scale and clip (R178) -/

/-- t: the value times the scale, over the divisor, clipped; and whether a clip raised saturated. -/
def clipped (v scale clip : Val) (divisor : Nat) : Val × Flags :=
  let p := (Val.mul v scale).1
  let p : Val := match p with
    | .fin n m => .fin n { m with d := m.d * divisor }
    | p => p
  match p, clip with
  | .nan _, _ => (.nan false, noFlags)
  | .inf n, .fin _ c => (.fin n c, flSaturated)
  | .fin n m, .fin _ c => if Mag.lt c m then (.fin n c, flSaturated) else (p, noFlags)
  | p, _ => (p, noFlags)

/-- Round t into a format under a block scale (R178, R179): the pattern and the flags. -/
def roundBlock (fmt : Nat) (rm : Rm) (sc : Option Int) (t : Val) (d : Draw) : Nat × Flags :=
  let f := fmtOf fmt
  match sc, t with
  | none, _ => writeNan f
  | _, .nan _ => writeNan f
  | _, .inf n => roundInf f n
  | some e, .fin n m => roundSat f rm n (m.shift (-e)) d

/-! ## Computed block scales (R213, step 2) -/

/-- The exponent E of an element kind. -/
def scaleE (fmt : Nat) : Int :=
  match fmt with
  | 15 => 8 | 16 => 15 | 17 => 2 | 18 => 2 | 19 => 0 | 20 => 3 | _ => 1

/-- The greater of two magnitudes of values that are no NaN; infinity above all. -/
def maxMag (a : Option Mag) (v : Val) : Option Mag :=
  match a, v with
  | none, _ => none
  | some m, .fin _ n => if Mag.lt m n then some n else some m
  | some m, .nan _ => some m
  | _, .inf _ => none

/-- The scale byte of a block whose largest magnitude is `m`; none is infinite. -/
def scaleByte (fmt : Nat) (m : Option Mag) : Nat :=
  let shift := scaleKind fmt == .shift
  match m with
  | none => if shift then 127 else 254
  | some m =>
    if m.isZero then 0
    else
      let l := m.log2 - scaleE fmt
      if shift then ((max (-128) (min l 127)) % 256).toNat else (max 0 (min (l + 127) 254)).toNat

/-! ## The absmax word (R184) -/

/-- Max of Bits(|v|). -/
def maxBits (vs : List Val) : Nat := vs.foldl (fun a v => max a (absBits v)) 0

end Machine
end Sys2Proof
end

