-- ==== Sys2Proof/Machine/Vector.lean ====
section
/-! DEFINITION. The issue of vector words (R215 to R218) and the arbiter of the lane groups (R225). -/

namespace Sys2Proof
namespace Machine

/-- The operand slots of a vector word (R82). -/
structure Slots where
  d : Option VOp
  a : Option VOp
  b : Option VOp
  c : Option VOp
deriving DecidableEq, Repr

end Machine
open Machine

/-- The slots that hold handles and scalar operands; predicates are none. -/
def Instr.slots : Instr → Slots
  | .vadd _ o | .vsub _ o | .vmul _ o => { d := some (.h o.d), a := some o.a, b := some o.b, c := none }
  | .vfma _ o => { d := some (.h o.d), a := some (.h o.a), b := some o.b, c := some o.c }
  | .vmin _ o | .vmax _ o => { d := some (.h o.d), a := some o.a, b := some o.b, c := none }
  | .vabs _ o | .vneg _ o => { d := some (.h o.d), a := some (.h o.a), b := none, c := none }
  | .vexp2 _ o | .vlog2 _ o | .vrcp _ o | .vrsq _ o | .vtanh _ o =>
    { d := some (.h o.d), a := some (.h o.a), b := none, c := none }
  | .vcvt _ o => { d := some (.h o.d), a := some (.h o.a), b := o.scale.map .x, c := o.clip.map .x }
  | .vquant _ o => { d := some (.h o.d), a := some (.h o.a), b := o.scale.map .x, c := o.amax.map fun p => .x p.1 }
  | .vamax _ o | .vred _ o => { d := none, a := some (.h o.a), b := some (.x o.xb), c := none }
  | .vcmp _ o => { d := none, a := some (.h o.a), b := some o.b, c := none }
  | .vsel _ o => { d := some (.h o.d), a := some o.a, b := some o.b, c := none }
  | .vperm _ o => { d := some (.h o.d), a := some (.h o.a), b := some (.h o.ix), c := none }
  | .vbcast _ o => { d := some (.h o.d), a := some (.h o.a), b := some (.x o.x), c := none }
  | .vmov _ o | .vfill _ o => { d := some (.h o.d), a := some o.a, b := none, c := none }
  | .vempty _ d => { d := some (.h d), a := none, b := none, c := none }
  | .vpmovFromX _ o => { d := none, a := none, b := some (.x o.x), c := none }
  | _ => { d := none, a := none, b := none, c := none }

namespace Machine

def Slots.list (o : Slots) : List (Option VOp) := [o.d, o.a, o.b, o.c]

/-- The handles that a word names, in the order hd, a, b, c. -/
def Slots.handles (o : Slots) : List VHandle := o.list.filterMap fun v => match v with | some (.h h) => some h | _ => none

/-- The number of lanes, by the widest handle format (R215). A reserved format, which has no width, counts with
those of 4 bits until check 1 of R218 refuses it.
DESIGN CHOICE, Assumption 105. -/
def lanesOf (hs : List Wide) : Nat :=
  let w := hs.foldl (fun m h => max m (hWidth h)) 0
  if w = 32 then 64 else if w = 16 then 128 else 256

/-! ## Which elements a lane touches (R216) -/

/-- The coordinates of lane `i` in a handle; none for a tail lane. -/
def laneAt (h : Wide) (i : Nat) : Option (Nat × Nat) :=
  let e := hCursor h + i
  if 0 ≤ e ∧ e < (hRows h * hCols h : Nat) then some (e.toNat / hCols h, e.toNat % hCols h) else none

/-! ## The format rules, check 5 of R218 -/

/-- The classes of R228. -/
inductive VClass where
  | arith | compare | move | convert
deriving DecidableEq, Repr

end Machine
open Machine

def Instr.vclass : Instr → VClass
  | .vcmp .. => .compare
  | .vsel .. | .vperm .. | .vbcast .. | .vmov .. | .vfill .. | .vempty .. => .move
  | .vcvt .. | .vquant .. => .convert
  | _ => .arith

namespace Machine

def VClass.admits (c : VClass) (fmt : Nat) : Bool :=
  match c with
  | .arith => decide (fmt < 3)
  | .compare => decide (fmt < 3) || decide (8 ≤ fmt ∧ fmt ≤ 11)
  | .move | .convert => decide (fmt < 22)

/-- A rule of check 5 on the first handle alone: `ord` and `uno` on an integer format (R235), the scales that `vquant` computes (R233). -/
def firstRule (i : Instr) (h : Wide) : Bool :=
  match i with
  | .vcmp _ o => (o.cond == .ord || o.cond == .uno) && decide (8 ≤ hFmt h)
  | .vquant _ o => o.calcScales && (hGeom h != 1 || hCol h)
  | _ => false

/-- The first handle that breaks its class or a rule of its own, or whose format differs from the first one's where all must carry the
same. DEDUCED, Assumption 70. -/
def formatRule (i : Instr) (hs : List (HReg × Wide)) : Option Nat :=
  let f0 := match hs with | (_, h) :: _ => hFmt h | [] => 0
  let index : Option HReg := match i with | .vperm _ o => some o.ix.h | _ => none
  (hs.zipIdx.find? fun e =>
    let f := hFmt e.1.2
    let isIndex := index.isSome && e.2 == 2
    if isIndex then f != 9
    else !i.vclass.admits f || (i.vclass != .convert && f != f0) || (e.2 == 0 && firstRule i e.1.2)).map fun e => e.1.1.toNat

/-- The rest of check 5: the scalar operands of `vcvt` and `vquant`. The result is `tval`. -/
def entryRule (i : Instr) (c : Core) : Option Nat :=
  let bad32 (x : XReg) : Option Nat :=
    let v := (c.rx x).toNat % 2 ^ 32
    if isNan32 v || isInf32 v then some (0x100 + x.toNat) else none
  let badClip (x : XReg) : Option Nat :=
    let v := (c.rx x).toNat % 2 ^ 32
    if isNan32 v || decide (2 ^ 31 ≤ v) then some (0x100 + x.toNat) else none
  match i with
  | .vcvt _ o => (o.scale.bind bad32).or (o.clip.bind badClip)
  | .vquant _ o => o.scale.bind bad32
  | _ => none

/-- Does the instruction read or write block scales (check 6)? -/
def usesScales (i : Instr) : Bool :=
  match i with
  | .vcvt .. | .vquant .. => true
  | _ => false

/-- The checks of R218: the cause and `tval` of the first failure. -/
def State.vecCheck (s : State) (k : Nat) (i : Instr) : Option (Nat × Nat) :=
  let c := s.core k
  let hs := i.slots.handles.map fun v => (v.h, c.rh v.h)
  let lr := s.localRange k
  let first (p : Wide → Bool) (cause : Nat) : Option (Nat × Nat) :=
    (hs.find? fun e => p e.2).map fun e => (cause, e.1.toNat)
  (first handleReserved causeFormat).or <|
  (first handleShape causeFormat).or <|
  (first (fun h => hSpace h != 0) causeVecNonlocal).or <|
  (first (fun h => !extentInside h lr.1 lr.2) causeVecNonlocal).or <|
  ((formatRule i hs).map fun v => (causeFormat, v)).or <|
  ((entryRule i c).map fun v => (causeFormat, v)).or <|
  (if usesScales i then first (fun h => hGeom h != 0 && decide (hScount h < scaleCount h)) causeScaleShort else none)

/-- The absmax address of `vquant`. -/
def absmaxAddr (i : Instr) (c : Core) : Option Word :=
  match i with
  | .vquant _ o => o.amax.map fun p => c.rx p.1
  | _ => none

/-! ## Issue (R217) -/

/-- The snapshot of a slot: a handle by value, a scalar zero-extended. -/
def Core.slot (c : Core) (o : Option VOp) : Wide :=
  match o with
  | some (.h v) => c.rh v.h
  | some (.x r) => (c.rx r).zeroExtend 256
  | none => 0

/-- The vector predicates that a word reads beside its guard, by slot a, b, c. -/
def Core.predSlots (c : Core) (i : Instr) : Wide × Wide × Wide :=
  match i with
  | .vsel _ o => (0, 0, c.rvp o.sel)
  | .vplog _ o => (c.rvp o.sa, c.rvp o.sb, c.rvp o.sc)
  | .vpcnt _ o | .vpfirst _ o => (c.rvp o.a, 0, 0)
  | .vpmovToX _ o => (c.rvp o.a, 0, 0)
  | _ => (0, 0, 0)

/-- Advance each marked handle register once (R217, step 5). -/
def Core.advanceCursors (c : Core) (i : Instr) : Core :=
  let marked := (i.slots.handles.filter (·.adv)).map (·.h) |>.eraseDups
  marked.foldl (fun c h => c.wh h (hAdvance (c.rh h) 1)) c

/-- What `vcmp` with mode `clr` does when every lane is suppressed (R235): its pair is cleared in all N lanes. -/
def Core.clearLanes (c : Core) (i : Instr) (n : Nat) : Core :=
  match i with
  | .vcmp _ o =>
    if o.wm = .clr then
      let keep : Wide := ~~~(BitVec.ofNat 256 (2 ^ n - 1))
      let c := c.wvp o.pt (c.rvp o.pt &&& keep)
      c.wvp o.pf (c.rvp o.pf &&& keep)
    else c
  | _ => c

/-- The queue holds 32 entries, `vx` at most 255 (R195, R217). -/
def vqCap : Nat := 32

/-- The entry of a word that passed its checks. -/
def Core.vecEntry (c : Core) (i : Instr) (n seq : Nat) (mask : Wide) (key : Nat) : VEntry :=
  let p := c.predSlots i
  { i := i, n := n, d := c.slot i.slots.d, a := c.slot i.slots.a ||| p.1, b := c.slot i.slots.b ||| p.2.1,
    c := c.slot i.slots.c ||| p.2.2 ||| (BitVec.ofNat 256 key <<< 64), mask := mask, dph := c.dph, pc := c.pc, age := seq,
    granted := 0, amax := 0, due := 0 }

/-- Steps 3 to 6 of R217 for a word with a true lane. -/
def State.vecEnter (s : State) (k : Nat) (i : Instr) (n : Nat) (mask : Wide) : State :=
  let c := s.core k
  match s.vecCheck k i with
  | some (cause, v) => s.trap k cause (BitVec.ofNat 64 v)
  | none =>
    let enter (key : Nat) (s : State) : State :=
      if vqCap ≤ (s.core k).vq.length then s.await k
      else
        let s := s.shutWindow k
        let e := (s.core k).vecEntry i n s.seq mask key
        (s.finishWith k fun c => { c.advanceCursors i with vq := c.vq ++ [e] }).tick
    match absmaxAddr i c with
    | none => enter 0 s
    | some va => s.withKey k va 4 .rw enter

/-- Issue a vector word (R217): it waits for what it names, evaluates its lanes, checks, and enters the queue. -/
def State.issueVec (s : State) (i : Instr) : State :=
  let k := s.me
  let c := s.core k
  if c.st ≠ .running then s
  else
    let u := i.uses
    if (i.guardWords ++ u.1 ++ u.2).any c.pendingWords.contains then s.await k
    else
      let s := s.fill k i.guardWords []
      match (s.core k).poisonOf i.guardWords with
      | some va => s.takeTrap k causeEccFatal false c.pc va 0
      | none =>
        let n := lanesOf (i.slots.handles.map fun v => c.rh v.h)
        let mask := i.guard.lanes c n
        if mask = 0 then
          (if clears i && (c.checked || i.lateWords.any c.pendingWords.contains) then s.await k
           else (if clears i then s.fill k [] i.lateWords else s).onCore k fun c => (c.clearLanes i n).advance 8)
        else if c.checked then s.await k
        else
          let s := s.fill k u.1 u.2
          match (s.core k).poisonOf u.1 with
          | some va => s.takeTrap k causeEccFatal false c.pc va 0
          | none => s.vecEnter k i n mask

/-! ## Arbitration (R225, R272) -/

/-- A core with something ready at an engine. -/
structure Cand where
  core : Nat
  cls : Nat
  weight : Nat
  credit : Int
  age : Nat
deriving DecidableEq, Repr

def Cand.older (a b : Cand) : Bool := decide (a.age < b.age) || (a.age == b.age && decide (a.core < b.core))

/-- The best of a list under a strict order. -/
def bestBy (better : Cand → Cand → Bool) : List Cand → Option Cand
  | [] => none
  | c :: cs => match bestBy better cs with
    | none => some c
    | some d => some (if better d c then d else c)

/-- Among those of non-zero weight and positive credit: the greatest credit, then the older, then the lower core. -/
def byCredit (cs : List Cand) : Option Cand :=
  bestBy (fun a b => decide (b.credit < a.credit) || (a.credit == b.credit && a.older b))
    (cs.filter fun c => c.weight != 0 && decide (0 < c.credit))

/-- A credit after `n` refills, each of which adds the weight and is capped at it (R225, step 3). -/
def refill (n w : Nat) (credit : Int) : Int := if n = 0 then credit else min (credit + n * w) w

/-- How many refills make a credit that is not positive positive. -/
def Cand.need (c : Cand) : Nat := ((1 - c.credit).toNat + c.weight - 1) / c.weight

/-- The winner of the highest class, and how many refills were made (R225, steps 2 to 4): as many as it takes for a credit of a
core of non-zero weight to be positive. -/
def pickCand (cs : List Cand) : Option (Cand × Nat) :=
  match byCredit cs with
  | some c => some (c, 0)
  | none =>
    match cs.filter fun c => c.weight != 0 with
    | [] => (bestBy Cand.older cs).map fun c => (c, 0)
    | d :: ds =>
      let n := ds.foldl (fun m c => min m c.need) d.need
      (byCredit (cs.map fun c => { c with credit := refill n c.weight c.credit })).map fun c => (c, n)

/-- The classes that have something ready and whose oldest has gone unserved for `63 - j` grants or more. -/
def dueWithin (starve : SMap Nat) (cs : List Cand) (j : Nat) : List Nat :=
  [3, 2, 1, 0].filter fun cl => decide (63 ≤ starve.get 0 cl + j) && cs.any (·.cls == cl)

/-- The candidate that the bound of R46 calls for: the oldest of a class that has gone unserved for 63 grants, or earlier of the class that
has waited longest where several come due together, so that each is served within its 64. -/
def boundPick (starve : SMap Nat) (cs : List Cand) : Option Cand :=
  match [0, 1, 2, 3].find? fun j => decide (j < (dueWithin starve cs j).length) with
  | none => none
  | some j =>
    let due := dueWithin starve cs j
    let most := due.foldl (fun m cl => max m (starve.get 0 cl)) 0
    match due.find? fun cl => starve.get 0 cl == most with
    | some cl => bestBy Cand.older (cs.filter (·.cls == cl))
    | none => none

/-- The bound of R46; else the pick of the highest class. -/
def arbitrate (starve : SMap Nat) (cs : List Cand) : Option (Cand × Nat) :=
  match boundPick starve cs with
  | some c => some (c, 0)
  | none =>
    let top := cs.foldl (fun m c => max m c.cls) 0
    pickCand (cs.filter (·.cls == top))

/-- Grants since the oldest of each class was served, after a grant to `w`. -/
def starveNext (starve : SMap Nat) (cs : List Cand) (w : Cand) : SMap Nat :=
  [0, 1, 2, 3].foldl (fun m cl =>
    match bestBy Cand.older (cs.filter (·.cls == cl)) with
    | none => m.put cl 0
    | some o => m.put cl (if o.core = w.core ∧ o.age = w.age then 0 else starve.get 0 cl + 1)) []

/-- The cores that share an engine with core `k`: its tile's, or itself. -/
def sharers (k : Nat) : List Nat := if isTileCore k then (List.range 4).map (k / 4 * 4 + ·) else [k]

/-- The credits after a pick at the engine of core `k` (R225): every sharer's refilled as often as the pick was repeated, the winner's
one less. `upd` changes a core's credit at the engine. -/
def State.charge (s : State) (k : Nat) (weight : Nat → Nat) (w : Cand) (refills : Nat) (upd : (Int → Int) → Core → Core) : State :=
  ((sharers k).foldl (fun u j => u.onCore j (upd (refill refills (weight j)))) s).onCore w.core (upd (· - 1))

/-- A core's weight at the vector unit (R224). -/
def State.weight (s : State) (k : Nat) : Nat :=
  if isTileCore k then getFld (s.tile (coreTile k)).vshare.toNat (4 * (k % 4)) 4 else 1

/-- The head of a vector queue that still has a quarter to be granted. -/
def Core.vecHead (c : Core) : Option VEntry := c.vq.find? fun e => decide (e.granted < 4)

/-- The ready quarters of the unit of core `k`. -/
def State.vecCands (s : State) (k : Nat) : List Cand :=
  (sharers k).filterMap fun j => (s.core j).vecHead.map fun e =>
    { core := j, cls := s.eff j, weight := s.weight j, credit := (s.core j).vcredit, age := e.age }

/-- R225: one lane group takes one quarter at the unit that core `c` uses. -/
def execVectorQuarterGrant (c : CoreId) (s : State) : Out :=
  .next (
    let k := coreKey c
    let cs := s.vecCands k
    let starve := if isTileCore k then (s.tile (coreTile k)).vstarve else []
    match arbitrate starve cs with
    | none => s
    | some (w, refills) =>
      let s := (s.charge k s.weight w refills fun f v => { v with vcredit := f v.vcredit }).onCore w.core fun v =>
        { v with vq := match v.vecHead with
                   | some h => v.vq.map fun e => if e.age = h.age then { e with granted := e.granted + 1 } else e
                   | none => v.vq }
      if isTileCore k then s.onTile (coreTile k) fun v => { v with vstarve := starveNext v.vstarve cs w } else s)

end Machine
end Sys2Proof
end

