-- ==== Sys2Proof/Machine/VectorExec.lean ====
section
/-! DEFINITION. What each vector instruction computes when it completes (R220 to R222, R229 to R240). -/

namespace Sys2Proof
namespace Machine

/-! ## Lanes of an entry -/

/-- A slot that holds a handle, with its snapshot. -/
def asHandle (o : Option VOp) (w : Wide) : Option Wide :=
  match o with
  | some (.h _) => some w
  | _ => none

def VEntry.handles (e : VEntry) : List Wide :=
  [asHandle e.i.slots.d e.d, asHandle e.i.slots.a e.a, asHandle e.i.slots.b e.b, asHandle e.i.slots.c e.c].filterMap id

/-- The handles whose elements the lanes read; no instruction reads the elements of its destination. -/
def VEntry.sources (e : VEntry) : List Wide :=
  [asHandle e.i.slots.a e.a, asHandle e.i.slots.b e.b, asHandle e.i.slots.c e.c].filterMap id

/-- Is the lane active (R216)? -/
def VEntry.activeLane (e : VEntry) (i : Nat) : Bool :=
  e.mask.getLsbD i && e.handles.all fun h => (laneAt h i).isSome

def VEntry.active (e : VEntry) : List Nat := (List.range e.n).filter e.activeLane

/-- The bits of a slot at a lane: the element, or a scalar's low bits at width `w`. -/
def State.slotBits (s : State) (store : Nat) (o : Option VOp) (v : Wide) (w lane : Nat) : Nat :=
  match asHandle o v with
  | some h => (match laneAt h lane with | some (r, c) => s.elem store h r c | none => 0)
  | none => v.toNat % 2 ^ w

/-- The value of a slot at a lane; a scalar is FP32 (R227). -/
def State.slotVal (s : State) (store : Nat) (o : Option VOp) (v : Wide) (lane : Nat) : Val :=
  match asHandle o v with
  | some h => (match laneAt h lane with | some (r, c) => s.elemVal store h r c | none => .nan false)
  | none => f32Val (v.truncate 32)

/-- Does the conversion read the stored scales of hd (R232, R233)? -/
def readsDestScale (i : Instr) : Bool :=
  match i with
  | .vcvt .. => true
  | .vquant _ o => !o.calcScales
  | _ => false

/-- The first marked byte that the active lanes read (R348). `vperm` and `vbcast` read their source lane whatever its guard, and
none at N or above (R237). -/
def State.vecMarked (s : State) (store : Nat) (e : VEntry) : Option Nat :=
  if s.marks.isEmpty then none
  else
    let at1 (h : Wide) (i : Nat) : Option Nat := match laneAt h i with
      | some (r, c) => if usesScales e.i then s.elemMarked store h r c else s.markedIn (elemKey store h r c) (elemBytes h r c)
      | none => none
    let from1 (j : Nat) : Option Nat := if j < e.n then at1 e.a j else none
    let scale1 (i : Nat) : Option Nat := match laneAt e.d i with
      | some (r, c) => if readsDestScale e.i && hGeom e.d != 0 then s.markedIn (scaleKey store e.d r c) 1 else none
      | none => none
    e.active.findSome? fun i => match e.i with
      | .vempty .. => none
      | .vperm .. => (at1 e.b i).or (from1 (s.slotBits store e.i.slots.b e.b 8 i))
      | .vbcast .. => from1 (e.b.toNat % 256)
      | _ => (e.sources.findSome? fun h => at1 h i).or (scale1 i)

/-- The first offset of the core's own store that the active lanes reach, an element or its stored scale, and a supervisor has closed
for the core (R218, R346, R347). `vperm` and `vbcast` reach the source lane that they read (R237). -/
def State.vecClosed (s : State) (k : Nat) (e : VEntry) : Option Nat :=
  if s.closures.isEmpty then none
  else
    let store := storeBase k
    let shut (key : Nat) : Option Nat := if s.closedFor (s.master k) key then some (key - store) else none
    let at1 (h : Wide) (i : Nat) : Option Nat := match laneAt h i with
      | some (r, c) => (shut (elemKey store h r c)).or
          (if usesScales e.i && hGeom h != 0 then shut (scaleKey store h r c) else none)
      | none => none
    let dest (i : Nat) : Option Nat := (asHandle e.i.slots.d e.d).bind fun h => at1 h i
    let from1 (j : Nat) : Option Nat := if j < e.n then at1 e.a j else none
    e.active.findSome? fun i => (dest i).or (match e.i with
      | .vperm .. => (from1 (s.slotBits store e.i.slots.b e.b 8 i)).or (at1 e.b i)
      | .vbcast .. => from1 (e.b.toNat % 256)
      | _ => e.sources.findSome? fun h => at1 h i)

/-- Write patterns into the destination's lanes. -/
def State.putLanes (s : State) (store : Nat) (hd : Wide) (ps : List (Nat × Nat)) : State :=
  ps.foldl (fun t e => match laneAt hd e.1 with | some (r, c) => t.setElem store hd r c e.2 | none => t) s

/-- Patterns and flags of every active lane, all read before any is written (R220, R238). -/
def State.mapLanes (s : State) (k : Nat) (e : VEntry) (f : Nat → Nat × Flags) : State :=
  let rs := e.active.map fun i => (i, f i)
  let fl := rs.foldl (fun a r => a ||| r.2.2) noFlags
  let spans := e.active.filterMap fun i => (laneAt e.d i).map fun rc => elemSpan (storeBase k) e.d rc.1 rc.2
  ((s.putLanes (storeBase k) e.d (rs.map fun r => (r.1, r.2.1))).freshWords spans).onCore k fun c => c.raise fl

/-! ## Exact sums -/

/-- A dyadic magnitude. -/
def Mag.dyadic (neg : Bool) (m : Mag) : Dyadic :=
  { m := if neg then -(m.n : Int) else (m.n : Int), e := -(m.d.log2 : Int) }

/-- The exact sum of values (R177, R234): NaN for a NaN or opposite infinities; a zero sum has the sign of `zero`. -/
def sumVals (zero : Bool) (vs : List Val) : Val :=
  if vs.any Val.isNan then .nan false
  else
    let pos := vs.any fun v => v == .inf false
    let neg := vs.any fun v => v == .inf true
    if pos && neg then .nan false
    else if pos then .inf false
    else if neg then .inf true
    else
      let t := vs.foldl (fun a v => match v with | .fin n m => a.add (m.dyadic n) | _ => a) Dyadic.zero
      .fin (if t.m = 0 then zero else decide (t.m < 0)) t.mag

/-! ## Arithmetic (R229 to R231) -/

/-- Round to the destination's format by R110. -/
def vecPack (e : VEntry) (rm : Rm) (r : Res) : Nat × Flags :=
  let o := packIeee (fmtOf (hFmt e.d)) rm r.1
  (o.1, o.2 ||| r.2)

/-- `vmin` and `vmax` with a scalar: `sb` its FP32 bits; `first` when the scalar is slot a (R230). -/
def pickScalar (fmt : Nat) (greater first : Bool) (eb : Nat) (sb : Nat) : Nat × Flags :=
  let f := fmtOf fmt
  let ve := valueOf f eb
  let vs := f32Val (BitVec.ofNat 32 sb)
  let sig := sigFlags [ve, vs]
  let scalar : Nat × Flags :=
    if fmt = 0 then (sb, noFlags) else packIeee f .rne vs
  let takeElem : Bool :=
    if vs.isNan then true else if ve.isNan then false
    else if first then (Val.lessEq vs ve == greater) else (Val.lessEq ve vs != greater)
  if ve.isNan && vs.isNan then (f.nanC.getD 0, sig)
  else if takeElem then (eb, sig) else (scalar.1, scalar.2 ||| sig)

/-- The result of one lane of the arithmetic instructions. -/
def State.arithLane (s : State) (store : Nat) (e : VEntry) (i : Nat) : Nat × Flags :=
  let sl := e.i.slots
  let va := s.slotVal store sl.a e.a i
  let vb := s.slotVal store sl.b e.b i
  let f := fmtOf (hFmt e.d)
  let w := f.w
  let minmax (greater : Bool) : Nat × Flags :=
    match asHandle sl.a e.a, asHandle sl.b e.b with
    | some _, some _ => pickMin f greater (s.slotBits store sl.a e.a w i) (s.slotBits store sl.b e.b w i)
    | some _, none => pickScalar (hFmt e.d) greater false (s.slotBits store sl.a e.a w i) (e.b.toNat % 2 ^ 32)
    | none, _ => pickScalar (hFmt e.d) greater true (s.slotBits store sl.b e.b w i) (e.a.toNat % 2 ^ 32)
  let bits := s.slotBits store sl.a e.a w i
  match e.i with
  | .vadd _ o => vecPack e o.rm (Val.add o.rm va vb)
  | .vsub _ o => vecPack e o.rm (Val.add o.rm va vb.neg)
  | .vmul _ o => vecPack e o.rm (Val.mul va vb)
  | .vfma _ o => vecPack e o.rm (Val.fma o.rm va vb (s.slotVal store sl.c e.c i))
  | .vmin .. => minmax false
  | .vmax .. => minmax true
  | .vabs .. => (bits % 2 ^ (w - 1), noFlags)
  | .vneg .. => ((bits + 2 ^ (w - 1)) % 2 ^ w, noFlags)
  | .vexp2 _ o => elemExp2 f o.rm va
  | .vlog2 _ o => elemLog2 f o.rm va
  | .vrcp _ o => elemRcp f o.rm va
  | .vrsq _ o => elemRsq f o.rm va
  | .vtanh _ o => elemTanh f o.rm va
  | _ => (0, noFlags)

/-! ## Conversions (R232, R233) -/

/-- Scale, clip, salt and mode of a conversion. -/
def VEntry.narrow (e : VEntry) : Val × Val × Word32 × Rm :=
  let one := f32Val 0x3F800000
  let noClip : Val := .inf false
  let at1 (p : Bool) : Val × Word32 := if p then (f32Val (e.b.truncate 32), fld e.b 32 32) else (one, 0)
  match e.i with
  | .vcvt _ o => ((at1 o.scale.isSome).1, if o.clip.isSome then f32Val (e.c.truncate 32) else noClip, (at1 o.scale.isSome).2, o.rm)
  | .vquant _ o => ((at1 o.scale.isSome).1, noClip, (at1 o.scale.isSome).2, o.rm)
  | _ => (one, noClip, 0, .rne)

/-- One converted lane, under the block scale given. -/
def State.cvtLane (s : State) (k : Nat) (e : VEntry) (sc : Option Int) (i : Nat) : Nat × Flags :=
  match laneAt e.d i with
  | none => (0, noFlags)
  | some (r, c) =>
    let p := e.narrow
    let t := clipped (s.slotVal (storeBase k) e.i.slots.a e.a i) p.1 p.2.1 1
    let o := roundBlock (hFmt e.d) p.2.2.2 sc t.1 (s.draw k p.2.2.1 e.d e.dph r c)
    (o.1, o.2 ||| t.2)

/-- The stored scale of a lane's block in hd. -/
def State.laneScale (s : State) (store : Nat) (e : VEntry) (i : Nat) : Option Int :=
  match laneAt e.d i with
  | some (r, c) => s.scaleOf store e.d r c
  | none => some 0

/-- Write the computed scale of every block of hd with an active lane (R213, R233). -/
def State.writeScales (s : State) (k : Nat) (e : VEntry) : State :=
  let store := storeBase k
  let p := e.narrow
  let ts := e.active.filterMap fun i => (laneAt e.d i).map fun rc =>
    (scaleKey store e.d rc.1 rc.2, (clipped (s.slotVal store e.i.slots.a e.a i) p.1 p.2.1 1).1)
  let ks := (ts.map (·.1)).eraseDups
  (ks.foldl (fun u a =>
    u.store a [BitVec.ofNat 8 (scaleByte (hFmt e.d)
      ((ts.filter fun x => x.1 == a).foldl (fun m x => maxMag m x.2) (some Mag.zero)))]) s).freshWords (ks.map scaleSpan)

/-- The conversion of every active lane; the values are read before a scale or an element is written. -/
def State.convertLanes (s : State) (k : Nat) (e : VEntry) (scales : Bool) : State :=
  let t := if scales then s.writeScales k e else s
  t.mapLanes k e fun i => s.cvtLane k e (t.laneScale (storeBase k) e i) i

/-! ## Compares (R235) -/

/-- The condition of a lane and its flags. -/
def State.cmpLane (s : State) (store : Nat) (e : VEntry) (cond : Cond) (i : Nat) : Bool × Flags :=
  let va := s.slotVal store e.i.slots.a e.a i
  let vb := match asHandle e.i.slots.b e.b with
    | some _ => s.slotVal store e.i.slots.b e.b i
    | none => if 8 ≤ hFmt e.a then intVal (e.b.truncate 64 : Word).toInt else f32Val (e.b.truncate 32)
  fpCond cond va vb

/-- Set bit `i` of a predicate. -/
def setLane (v : Wide) (i : Nat) (b : Bool) : Wide :=
  if b then v ||| BitVec.twoPow 256 i else v &&& ~~~(BitVec.twoPow 256 i)

/-- The pair of `vcmp` lane by lane (R100, R235); pf is written last. -/
def State.compareLanes (s : State) (k : Nat) (e : VEntry) (o : VecCmp) : State :=
  let c := s.core k
  let r := (List.range e.n).foldl (fun (acc : Wide × Wide × Flags) i =>
    if e.activeLane i then
      let v := s.cmpLane (storeBase k) e o.cond i
      let p := pairTrue o.wm v.1 ((c.rvp o.pt).getLsbD i) ((c.rvp o.pf).getLsbD i)
      (setLane acc.1 i p.1, setLane acc.2.1 i p.2, acc.2.2 ||| v.2)
    else if o.wm = .clr then (setLane acc.1 i false, setLane acc.2.1 i false, acc.2.2)
    else acc) (c.rvp o.pt, c.rvp o.pf, noFlags)
  (s.lateWrite k e.i.lateWords fun c => (c.wvp o.pt r.1).wvp o.pf r.2.1).onCore k fun c => c.raise r.2.2

/-! ## Reductions (R234) -/

/-- The sign of a zero sum: −0 when every element is −0; of a cancellation, −0 under `rdn` only. -/
def zeroSign (rm : Rm) (vs : List Val) : Bool :=
  if vs.all fun v => v.isZero && v.isNeg then true
  else if vs.all fun v => v.isZero && !v.isNeg then false
  else rm == .rdn

def vredResult (rm : Rm) (xb : Nat) (vs : List Val) : Nat × Flags :=
  let b := f32Val (BitVec.ofNat 32 xb)
  if vs.isEmpty then (if b.isNan then writeNan fmtF32 else (xb % 2 ^ 32, noFlags))
  else
    let r := Val.add rm b (sumVals (zeroSign rm vs) vs)
    match r.1 with
    | .nan _ => writeNan fmtF32
    | v => packIeee fmtF32 rm v

/-! ## Predicates (R239, R240) -/

/-- The lanes of a predicate under a guard mask. -/
def countBits (v : Wide) : Nat := popCount v.toNat 256

def firstBit (v : Wide) : Nat := trailZeros v.toNat 256

/-! ## The effect of an entry -/

/-- The bits that a lane of a move writes. -/
def State.moveLane (s : State) (store : Nat) (e : VEntry) (i : Nat) : Nat × Flags :=
  let w := hWidth e.d
  let sl := e.i.slots
  let fromLane (j : Nat) : Nat :=
    if j < e.n then (match laneAt e.a j with | some (r, c) => s.elem store e.a r c | none => 0) else 0
  (match e.i with
    | .vsel .. => if e.c.getLsbD i then s.slotBits store sl.a e.a w i else s.slotBits store sl.b e.b w i
    | .vperm .. => fromLane (s.slotBits store sl.b e.b 8 i)
    | .vbcast .. => fromLane (e.b.toNat % 256)
    | _ => s.slotBits store sl.a e.a w i, noFlags)

/-- The full bits of the words that the active lanes of hd touch (R222). -/
def State.laneFulls (s : State) (k : Nat) (e : VEntry) (b : Bool) : State :=
  e.active.foldl (fun t i => match laneAt e.d i with
    | some (r, c) => t.setFulls (elemKey (storeBase k) e.d r c) (elemBytes e.d r c) b
    | none => t) s

/-- The effect of a vector instruction of core `k`, its reduction of an absmax word aside. -/
def State.vecEffect (s : State) (k : Nat) (e : VEntry) : State :=
  let store := storeBase k
  let va := e.active.map fun i => s.slotVal store e.i.slots.a e.a i
  match e.i with
  | .vcvt .. => s.convertLanes k e false
  | .vquant _ o => s.convertLanes k e o.calcScales
  | .vsel .. | .vperm .. | .vbcast .. | .vmov .. => s.mapLanes k e (s.moveLane store e)
  | .vfill .. => (s.mapLanes k e (s.moveLane store e)).laneFulls k e true
  | .vempty .. => s.laneFulls k e false
  | .vred _ o =>
    let r := vredResult o.rm (e.b.toNat % 2 ^ 32) va
    (s.lateWrite k e.i.lateWords fun c => c.wx o.rd (BitVec.ofNat 64 r.1)).onCore k fun c => c.raise r.2
  | .vamax _ o => s.lateWrite k e.i.lateWords fun c => c.wx o.rd (BitVec.ofNat 64 (max (e.b.toNat % 2 ^ 32) (maxBits va)))
  | .vcmp _ o => s.compareLanes k e o
  | .vplog _ o =>
    let t := tableLanes o.table e.a e.b e.c
    s.lateWrite k e.i.lateWords fun c => c.wvp o.pd ((c.rvp o.pd &&& ~~~e.mask) ||| (t &&& e.mask))
  | .vpcnt _ o => s.lateWrite k e.i.lateWords fun c => c.wx o.rd (BitVec.ofNat 64 (countBits (e.a &&& e.mask)))
  | .vpfirst _ o => s.lateWrite k e.i.lateWords fun c => c.wx o.rd (BitVec.ofNat 64 (firstBit (e.a &&& e.mask)))
  | .vpmovFromX _ o =>
    let q := 64 * o.q.toNat
    let win : Wide := (BitVec.ofNat 256 (2 ^ 64 - 1)) <<< q
    let put : Wide := ((e.b.truncate 64 : Word).zeroExtend 256) <<< q
    s.lateWrite k e.i.lateWords fun c =>
      let rest := if o.keep then c.rvp o.pd &&& ~~~win else 0
      c.wvp o.pd ((c.rvp o.pd &&& ~~~e.mask) ||| ((put ||| rest) &&& e.mask))
  | .vpmovToX _ o =>
    s.lateWrite k e.i.lateWords fun c => c.wx o.rd (((e.a &&& e.mask) >>> (64 * o.q.toNat)).truncate 64)
  | _ => s.mapLanes k e (s.arithLane store e)

/-- The scope of an absmax target. -/
def VEntry.scope (e : VEntry) : Scope :=
  match e.i with
  | .vquant _ o => (match o.amax with | some p => p.2 | none => .core)
  | _ => .core

/-- Does the entry reduce an absmax word? -/
def VEntry.reduces (e : VEntry) : Bool :=
  match e.i with
  | .vquant _ o => o.amax.isSome
  | _ => false

/-- An absmax word is reduced at its target (R184, R218): done with a timestamp, lost, refused, discarded, or held for now. -/
def State.reduceAmax (s : State) (k key : Nat) (va pc : Word) (v : Nat) : State × Option Nat :=
  match s.route (s.master k) key true with
  | .ok => let r := s.reduceAt k key .max .n32 (BitVec.ofNat 64 v); (r.1, some r.2)
  | .err c => (s.loseWrite k c (keyPkg key), some 0)
  | .page => (s.loseWrite k causePage (keyPkg key), some 0)
  | .dead => (s.loseWrite k causeRemoteDead (keyPkg key), some 0)
  | .refuse => (s.refuseAt k va pc, some 0)
  | .gone => (s, some 0)
  | .held => (s, none)

/-- A compact member holds an absmax word that has reached it (R310); a tile whose job state is in its image is asked again (R279). -/
def State.holdAmax (s : State) (k age key : Nat) (v : Word32) : State :=
  if (s.tile (s.holder key)).compact.isSome then s.holdAt (s.holder key) (.amax k age key v) else s

/-- R220: the oldest vector instruction of core `c`, every quarter granted, takes effect and completes. Where an access table refuses
one of its accesses, none of them is performed. DESIGN CHOICE, Assumption 89. -/
def execVectorComplete (c : CoreId) (s : State) : Out :=
  .next (
    let k := coreKey c
    match (s.core k).vq with
    | [] => s
    | e :: _ =>
      let setHead (f : VEntry → VEntry) (u : State) : State := u.onCore k fun c =>
        { c with vq := c.vq.map fun x => if x.age = e.age then f x else x }
      let retire (u : State) : State := u.onCore k fun c => { c with vq := c.vq.filter fun x => x.age != e.age }
      if e.granted < 4 then s
      else if e.granted = 4 then
        match s.vecClosed k e, s.vecMarked (storeBase k) e with
        | some off, _ => retire (s.refuseAt k (BitVec.ofNat 64 (windowVa (coreTile k) off)) e.pc)
        | none, some a => s.killCore k e.pc (BitVec.ofNat 64 (windowVa (coreTile k) ((a - storeBase k) / 8 * 8)))
        | none, none =>
          let s := s.tally k 0 e.active.length
          if e.reduces then
            let v := maxBits (e.active.map fun i => s.slotVal (storeBase k) e.i.slots.a e.a i)
            setHead (fun x => { x with granted := 5, amax := BitVec.ofNat 32 v }) (s.vecEffect k e)
          else retire (s.vecEffect k e)
      else if e.granted = 5 then
        let key := (fld e.c 64 64).toNat
        match s.reduceAmax k key (e.c.truncate 64) e.pc e.amax.toNat with
        | (u, some w) => setHead (fun x => { x with granted := 6, due := w }) u
        | (u, none) => u.holdAmax k e.age key e.amax
      else if e.due = 0 || s.performed k e.scope e.due then retire s else s)

/-! ## The instructions: each enters the queue (R217) -/

/-- R229. -/
def execVadd (g : Guard) (o : VecR2) (s : State) : Out := .next (s.issueVec (.vadd g o))

/-- R229. -/
def execVsub (g : Guard) (o : VecR2) (s : State) : Out := .next (s.issueVec (.vsub g o))

/-- R229. -/
def execVmul (g : Guard) (o : VecR2) (s : State) : Out := .next (s.issueVec (.vmul g o))

/-- R229. -/
def execVfma (g : Guard) (o : VecR3) (s : State) : Out := .next (s.issueVec (.vfma g o))

/-- R230. -/
def execVmin (g : Guard) (o : VecMin) (s : State) : Out := .next (s.issueVec (.vmin g o))

/-- R230. DEDUCED, Assumption 17. -/
def execVmax (g : Guard) (o : VecMin) (s : State) : Out := .next (s.issueVec (.vmax g o))

/-- R230. -/
def execVabs (g : Guard) (o : VecU) (s : State) : Out := .next (s.issueVec (.vabs g o))

/-- R230. -/
def execVneg (g : Guard) (o : VecU) (s : State) : Out := .next (s.issueVec (.vneg g o))

/-- R231. -/
def execVexp2 (g : Guard) (o : VecF) (s : State) : Out := .next (s.issueVec (.vexp2 g o))

/-- R231. -/
def execVlog2 (g : Guard) (o : VecF) (s : State) : Out := .next (s.issueVec (.vlog2 g o))

/-- R231. -/
def execVrcp (g : Guard) (o : VecF) (s : State) : Out := .next (s.issueVec (.vrcp g o))

/-- R231. -/
def execVrsq (g : Guard) (o : VecF) (s : State) : Out := .next (s.issueVec (.vrsq g o))

/-- R231. -/
def execVtanh (g : Guard) (o : VecF) (s : State) : Out := .next (s.issueVec (.vtanh g o))

/-- R232. -/
def execVcvt (g : Guard) (o : VecCvt) (s : State) : Out := .next (s.issueVec (.vcvt g o))

/-- R233. -/
def execVquant (g : Guard) (o : VecQuant) (s : State) : Out := .next (s.issueVec (.vquant g o))

/-- R234. -/
def execVamax (g : Guard) (o : VecRed) (s : State) : Out := .next (s.issueVec (.vamax g o))

/-- R234. -/
def execVred (g : Guard) (o : VecRed) (s : State) : Out := .next (s.issueVec (.vred g o))

/-- R235. -/
def execVcmp (g : Guard) (o : VecCmp) (s : State) : Out := .next (s.issueVec (.vcmp g o))

/-- R236. -/
def execVsel (g : Guard) (o : VecSel) (s : State) : Out := .next (s.issueVec (.vsel g o))

/-- R237. -/
def execVperm (g : Guard) (o : VecPerm) (s : State) : Out := .next (s.issueVec (.vperm g o))

/-- R237. -/
def execVbcast (g : Guard) (o : VecBcast) (s : State) : Out := .next (s.issueVec (.vbcast g o))

/-- R238. -/
def execVmov (g : Guard) (o : VecMov) (s : State) : Out := .next (s.issueVec (.vmov g o))

/-- R238. -/
def execVfill (g : Guard) (o : VecMov) (s : State) : Out := .next (s.issueVec (.vfill g o))

/-- R238. -/
def execVempty (g : Guard) (d : VHandle) (s : State) : Out := .next (s.issueVec (.vempty g d))

/-- R239. -/
def execVplog (g : Guard) (o : VecPlog) (s : State) : Out := .next (s.issueVec (.vplog g o))

/-- R240. -/
def execVpcnt (g : Guard) (o : VecPcnt) (s : State) : Out := .next (s.issueVec (.vpcnt g o))

/-- R240. -/
def execVpfirst (g : Guard) (o : VecPcnt) (s : State) : Out := .next (s.issueVec (.vpfirst g o))

/-- R240. -/
def execVpmovFromX (g : Guard) (o : VecFromX) (s : State) : Out := .next (s.issueVec (.vpmovFromX g o))

/-- R240. -/
def execVpmovToX (g : Guard) (o : VecToX) (s : State) : Out := .next (s.issueVec (.vpmovToX g o))

end Machine
end Sys2Proof
end

