-- ==== Sys2Proof/Machine/Csr.lean ====
section
/-! DEFINITION. Control registers (R90, R91, R344, R358): what each reads, which bits a write changes, the changes of `tsplit` and
`accsplit` that wait for the tile's engines (R150, R203), and the tile map (R35 to R37). -/

namespace Sys2Proof
namespace Machine

/-! ## Reading -/

/-- `tstat` (R336). -/
def State.tstat (s : State) (k : Nat) : Word :=
  BitVec.ofNat 64 ((s.core k).inh.toNat + (s.faultPend k).toNat * 2 + (s.core k).lost.toNat * 4)

/-- `team` (R33); 0 on a churn (R360). -/
def State.teamReg (s : State) (k : Nat) : Word :=
  let c := s.core k
  if isTileCore k then
    BitVec.ofNat 64 (c.base.toNat + c.size.toNat * 2 ^ 22 + c.bid.toNat * 2 ^ 35 + c.bv.toNat * 2 ^ 41)
  else 0

/-- The logical tile that `tmsel` selects: bits [7:0] name a logical tile of the die (DEDUCED, Assumption 23). -/
def selTile (d : Nat) (sel : Word) : Nat := d * 256 + sel.toNat % 256

/-- The value of a control register for core `k`; `tmap` reads the tile-map entry that `tmsel` selects (R358). -/
def State.csr (s : State) (k n : Nat) : Word :=
  let c := s.core k
  let t := s.tile (coreTile k)
  match n with
  | 0x000 => if isTileCore k then BitVec.ofNat 64 k else 0
  | 0x001 => if isTileCore k then BitVec.ofNat 64 (coreTile k % 1024) else 0
  | 0x002 => s.teamReg k
  | 0x003 => s.pcore k
  | 0x004 => BitVec.ofNat 64 (c.job.ctx.toNat + c.job.part.toNat * 2 ^ 12)
  | 0x005 => c.jobseed
  | 0x006 => BitVec.ofNat 64 (corePkg k + (k - 2 ^ 22) % 32 * 2 ^ 10)
  | 0x100 => c.tvec
  | 0x101 => c.tcause
  | 0x102 => c.tpc
  | 0x103 => c.tval
  | 0x104 => s.tstat k
  | 0x200 => c.fpstat
  | 0x201 => c.tags
  | 0x202 => s.cnt k
  | 0x203 => s.prioReg k
  | 0x204 => c.rngctr
  | 0x205 => c.remerr
  | 0x300 => t.vshare
  | 0x301 => t.tsplit
  | 0x302 => t.accsplit
  | 0x808 => BitVec.ofNat 64 (s.ptile (selTile (coreDieKey k) (s.sup (coreDieKey k) 0x807)))
  | n => s.sup (coreDieKey k) n

/-- The bits of access RW (R91); a supervisor register is written whole. -/
def csrMask (n : Nat) : Word :=
  match n with
  | 0x100 => 0xFFFFFFFFFFFFFFF8
  | 0x101 => 0x1FFFF
  | 0x104 => 1
  | 0x200 => 0x1F1F1F
  | 0x205 => 0x3FFFF01FFFF
  | 0x300 => 0xFFFF
  | 0x301 => 0x1F
  | 0x302 => 0xFFFF
  | _ => BitVec.allOnes 64

/-! ## The tile map (R35 to R37) -/

/-- Does a logical tile hold no thread and no compact state? -/
def State.idleTile (s : State) (t : Nat) : Bool :=
  (List.range 4).all (fun i => !(s.core (t * 4 + i)).alive) && (s.tile t).compact.isNone

/-- Is a logical tile quiesced for a remap (R36)? A stopped or killed thread needs no safe point (R333); a saved one's matrix command
stopped at its boundary (R276). DEDUCED, Assumption 60. -/
def State.quiesced (s : State) (t : Nat) : Bool :=
  (List.range 4).all (fun i => (s.core (t * 4 + i)).st != .running && (s.core (t * 4 + i)).st != .saving
    && (s.core (t * 4 + i)).vq.isEmpty
    && ((s.core (t * 4 + i)).st == .saved || (s.core (t * 4 + i)).cmds.all fun d => !((d.q == .mxq || d.q == .cpq) && d.started)))
  && (match (s.tile t).compact with | some c => c.window | none => true)

/-- Point a logical tile at a physical tile of its quadrant: a spare, or one that an idle logical tile exchanges (R36, R37). A
target out of service, under test or with a lost core is refused; a tile left with a killed core on it is lost until it passes a
test (DEDUCED, Assumption 31). -/
def State.remap (s : State) (t ptile : Nat) : State :=
  let q := tileQuadKey t
  let v := s.quad q
  let old := s.ptile t
  let other := (List.range 64).find? fun i => i != t % 64 && s.ptile (q * 64 + i) == ptile
  let free := match other with | some i => s.idleTile (q * 64 + i) | none => true
  if decide (ptile < 66) && s.quiesced t && free && !v.out.contains ptile && !v.lost.contains ptile
      && v.testing != some ptile then
    let map (m : SMap Nat) : SMap Nat := match other with
      | some i => (m.put (t % 64) ptile).put i old
      | none => m.put (t % 64) ptile
    let lost := (List.range 4).any fun i => (s.core (t * 4 + i)).st == .killed
    let told (m : SMap Bool) (i : Nat) : SMap Bool :=
      if (s.core (t * 4 + i)).st = .killed then m.put (physKey (q % 4) old i) true else m
    (s.onDie (tileDieKey t) fun v => { v with declared := (List.range 4).foldl told v.declared }).onQuad q fun v =>
      { v with tmap := map v.tmap, served := v.served.put old (t % 64), lost := if lost then v.lost ++ [old] else v.lost }
  else s

/-! ## The supervisor's marks (R273, R358) -/

/-- Mark a thread or withdraw the mark; a mark ends a `wfi` (R342), and a withdrawal releases a saved thread that was held for it
(DEDUCED, Assumption 43). -/
def State.setMarkOf (s : State) (k : Nat) (on : Bool) : State :=
  s.onCore k fun c => { c with mark := on && c.alive, wfiEvent := c.wfiEvent || on, hold := on && c.hold }

/-! ## The dead mask (R352, R358) -/

/-- Writes of core `k` to package `p` that are not yet performed are lost (R350, R352); `remerr` tells the thread of its own. -/
def State.loseFlights (s : State) (k p : Nat) : State :=
  let gone (f : Flight) : Bool := f.pkg == p && !s.performed k f.scope f.w
  ((s.core k).flown.filter gone).foldl (fun u _ => u.loseWrite k causeRemoteDead p)
    (s.onCore k fun c => { c with flights := c.flights.filter fun f => !gone f })

/-- Die `d` comes to know that package `p` is dead: what its cores had on their way there is lost, and the compacts of its tiles that have
a member there break (R313, R352). -/
def State.dieLoses (s : State) (d p : Nat) : State :=
  let hit := (s.tiles.filter fun e => tileDieKey e.1 == d && e.2.compactOf.any fun c => c.members.any fun m => m.pkg == p).map (·.1)
  let s := hit.foldl (fun u t => match (u.tile t).compactOf with | some c => u.breakWhole c | none => u) s
  ((s.cores.filter fun e => coreDieKey e.1 == d).map (·.1)).foldl (fun u k => u.loseFlights k p) s

/-- A supervisor writes a word of its die's dead mask: each bit that it sets takes effect. -/
def State.setDead (s : State) (d n : Nat) (v : Word) : State :=
  let new := v &&& ~~~(s.sup d n)
  (List.range 64).foldl (fun u i => if new.getLsbD i then u.dieLoses d (64 * (n - 0x840) + i) else u) (s.setSup d n v)

/-! ## Writing -/

/-- Write a control register that takes its value at once. -/
def State.setCsr (s : State) (k n : Nat) (v : Word) : State :=
  match n with
  | 0x100 => s.onCore k fun c => { c with tvec := v }
  | 0x101 => s.onCore k fun c => { c with tcause := v }
  | 0x102 => s.onCore k fun c => { c with tpc := v }
  | 0x103 => s.onCore k fun c => { c with tval := v }
  | 0x104 => s.onCore k fun c => { c with inh := v.getLsbD 0 }
  | 0x200 => s.onCore k fun c => { c with fpstat := v }
  | 0x201 => (s.clearFlt k ((s.core k).tags &&& ~~~v)).onCore k fun c => { c with tags := v }
  | 0x204 => s.onCore k fun c => { c with rngctr := v }
  | 0x205 => s.onCore k fun c => { c with remerr := v }
  | 0x300 => s.onTile (coreTile k) fun t => { t with vshare := v }
  | 0x301 => s.onTile (coreTile k) fun t => { t with tsplit := v }
  | 0x302 => s.onTile (coreTile k) fun t => { t with accsplit := v }
  | 0x806 => (s.setSup (coreDieKey k) n v).setMarkOf (v.toNat % 2 ^ 22) (!v.getLsbD 63)
  | 0x808 => (s.setSup (coreDieKey k) n v).remap (selTile (coreDieKey k) (s.sup (coreDieKey k) 0x807)) (v.toNat % 128)
  | n => if decide (0x840 ≤ n) && decide (n ≤ 0x84F) then s.setDead (coreDieKey k) n v else s.setSup (coreDieKey k) n v

/-! ## `tsplit` (R149, R150) -/

/-- The end of local scratch under a split. -/
def splitEnd (split : Nat) : Nat := min (0x3000 + 0x10000 * split) 0x100000

/-- May the value be written (R149)? -/
def State.splitAllowed (s : State) (t : Nat) (v : Word) : Bool :=
  decide ((fld v 0 5).toNat ≤ 16) && (match (s.tile t).compact with
    | some c => decide (splitEnd (fld v 0 5).toNat ≤ c.poff)
    | none => true)

/-- Are the tile's engines idle, for `tsplit`? -/
def State.enginesIdle (s : State) (t : Nat) : Bool :=
  (List.range 4).all fun i => (s.core (t * 4 + i)).vq.isEmpty && (s.core (t * 4 + i)).cmds.isEmpty

/-- Steps 2 to 4 of R150. -/
def State.applySplit (s : State) (t : Nat) (v : Word) : State :=
  let e0 := (s.tile t).scratchEnd
  let e1 := splitEnd (fld v 0 5).toNat
  let cap := (0x100000 - e1) / 64
  let n := (s.tile t).blocks.length - cap
  let s := ((s.tile t).blocks.take n).foldl (fun u b => u.dropBlock t b.pa) s
  let s := s.zeroRange (tileKey t (min e0 e1)) (max e0 e1 - min e0 e1)
  s.onTile t fun w => { w with tsplit := v }

/-! ## `accsplit` (R203) -/

/-- Does the matrix engine hold no command? A saved thread holds the write when its core owns an accumulator, so that its amask is not
zero, and no other saved thread does (R203, R276). -/
def State.accIdle (s : State) (t : Nat) : Bool :=
  (List.range 4).all fun i =>
    let c := s.core (t * 4 + i)
    if c.st = .saved then c.amask == 0 else c.cmds.all fun d => d.q != .mxq

/-- A write of `tsplit` that takes effect at once: unchanged, or in compact mode. -/
def State.splitAtOnce (s : State) (t : Nat) (v : Word) : Bool :=
  (s.tile t).compact.isSome || fld v 0 5 == fld (s.tile t).tsplit 0 5

/-- Make a waiting write. -/
def State.makeSplit (s : State) (t : Nat) (acc : Bool) (v : Word) : State :=
  if acc then s.onTile t fun w => { w with accsplit := v } else s.applySplit t v

/-- May a write of a kind be made now? -/
def State.splitReady (s : State) (t : Nat) (acc : Bool) : Bool := if acc then s.accIdle t else s.enginesIdle t

/-! ## The instructions -/

/-- The read-modify-write of R91: the writable bits take what the kind of write makes of the old value. -/
def CsrFn.value (f : CsrFn) (n : Nat) (old ra : Word) : Word := (old &&& ~~~(csrMask n)) ||| (f.put old ra &&& csrMask n)

/-- R91. A write of `tsplit` or `accsplit` that must wait is kept with its operand. -/
def State.writeCsr (s : State) (k : Nat) (i : Instr) (o : CsrS) (f : CsrFn) : State :=
  let n := o.csr.toNat
  let t := coreTile k
  let old := s.csr k n
  let ra := (s.core k).rx o.ra
  let v := f.value n old ra
  if n = 0x301 ∨ n = 0x302 then
    let acc := n == 0x302
    if !acc && !s.splitAllowed t v then s.trap k causeIllegal (encode i)
    else if !acc && s.splitAtOnce t v then ((s.dropReq k).setCsr k n v).finishWith k fun c => c.wx o.rd old
    else match (s.tile t).req with
      | some _ => s.await k
      | none =>
        if s.splitReady t acc then (s.makeSplit t acc v).finishWith k fun c => c.wx o.rd old
        else (s.await k).onTile t fun w => { w with req := some { core := k, rd := o.rd.toNat, acc := acc, fn := f, ra := ra } }
  else (s.setCsr k n v).finishWith k fun c => c.wx o.rd old

/-- R344: a plain read. -/
def execCsrr (g : Guard) (rd : XReg) (csr : BitVec 12) (s : State) : Out :=
  .next (s.issue (.csrr g rd csr) fun k t => let v := t.csr k csr.toNat; t.finishWith k fun c => c.wx rd v)

/-- R91. -/
def execCsrw (g : Guard) (o : CsrS) (s : State) : Out :=
  .next (s.issue (.csrw g o) fun k t => t.writeCsr k (.csrw g o) o .write)

/-- R91. -/
def execCsrset (g : Guard) (o : CsrS) (s : State) : Out :=
  .next (s.issue (.csrset g o) fun k t => t.writeCsr k (.csrset g o) o .set)

/-- R91. -/
def execCsrclr (g : Guard) (o : CsrS) (s : State) : Out :=
  .next (s.issue (.csrclr g o) fun k t => t.writeCsr k (.csrclr g o) o .clr)

/-- A tile of the pod. -/
def tileNum (t : TileId) : Nat := t.pkg.toNat * 1024 + t.tile.toNat

/-- A waiting write takes effect, on the value that it then finds, and its instruction completes, its register filled and dirty again if
it was evicted (R91, R94). A `tsplit` write whose tile has become compact meanwhile, or whose new value is no longer allowed, completes or
traps at its own turn instead. -/
def State.grantSplit (s : State) (t : Nat) (acc : Bool) : State :=
  match (s.tile t).req with
  | none => s
  | some r =>
    let old := if acc then (s.tile t).accsplit else (s.tile t).tsplit
    let v := r.fn.value (if acc then 0x302 else 0x301) old r.ra
    let rd := BitVec.ofNat 5 r.rd
    if r.acc = acc ∧ (s.core r.core).st = .running ∧ s.splitReady t acc ∧ (acc ∨ (s.tile t).compact.isNone) then
      if acc ∨ s.splitAllowed t v then
        (((s.makeSplit t acc v).onTile t fun w => { w with req := none }).lateWrite r.core (xWords rd) fun c => c.wx rd old).complete r.core
      else s.onTile t fun w => { w with req := none }
    else s

/-- R150: the tile's engines are idle, and the new split takes effect. -/
def execTsplitWrite (t : TileId) (s : State) : Out := .next (s.grantSplit (tileNum t) false)

/-- R203. -/
def execAccsplitWrite (t : TileId) (s : State) : Out := .next (s.grantSplit (tileNum t) true)

end Machine
end Sys2Proof
end

