-- ==== Sys2Proof/Machine/System.lean ====
section
/-! DEFINITION. `wfi`, `seal`, `tlbi`, `prio` and `rand` (R166, R259, R270, R342, R343, R345). -/

namespace Sys2Proof
namespace Machine

/-! ## Waiting for an event (R342) -/

/-- May a waiting `wfi` complete: an event since it issued, or its clocks have passed? -/
def Core.wakes (c : Core) (now : Nat) : Bool :=
  match c.wfiLimit, c.waitFrom with
  | some n, some t0 => c.wfiEvent || (n != 0 && decide (t0 + n ≤ now))
  | _, _ => false

/-- R342: an event that is present at issue does not end the wait. -/
def execWfi (g : Guard) (ra : XReg) (s : State) : Out :=
  .next (s.issue (.wfi g ra) fun k t =>
    let c := t.core k
    match c.wfiLimit with
    | none => (t.await k).onCore k fun c =>
        { c with wfiLimit := some (fld (c.rx ra) 0 32).toNat, wfiEvent := false, waitFrom := some t.time }
    | some _ => if c.wakes t.time then t.finish k else t.await k)

/-- R342: the clocks that a `wfi` names have passed. -/
def execWfiTimeout (c : CoreId) (s : State) : Out :=
  .next (
    let k := coreKey c
    let v := s.core k
    match v.wfiLimit, v.waitFrom with
    | some n, some t0 => if v.st = .running ∧ n ≠ 0 ∧ t0 + n ≤ s.time then s.complete k else s
    | _, _ => s)

/-! ## Sealing (R343) -/

/-- R343: on a supervisor core rb names the register that gives the core. -/
def execSeal (g : Guard) (ra rb : XReg) (s : State) : Out :=
  .next (s.issue (.seal g ra rb) fun k t =>
    let c := t.core k
    let on := (c.rx ra).getLsbD 0
    let target := if isSup k && rb != 0 then (fld (c.rx rb) 0 22).toNat else k
    (t.onCore target fun c => { c with sealed := on }).finish k)

/-! ## Shoot-down (R166, R345) -/

/-- Is unit core `j` in a scope named on core `k`? -/
def coreInScope (sc : Scope) (k j : Nat) : Bool :=
  match sc with
  | .lane | .core => j == k
  | .tile => j == k || (isTileCore k && isTileCore j && coreTile k == coreTile j)
  | .die => coreDieKey k == coreDieKey j
  | .package => corePkg k == corePkg j
  | .pod => true

/-- The pages that a `tlbi` names: every page of the context, or those that hold `xa`. -/
def tlbiHits (j : Job) (xa : Word) (e : Tlb) : Bool :=
  e.job == j && (xa.getLsbD 0 || (decide (e.va ≤ xa.toNat % 2 ^ 57) && decide (xa.toNat % 2 ^ 57 < e.va + e.size)))

/-- Does an address lie in what a `tlbi` names? Pages may be as large as 1 GiB; every entry of the 1 GiB around counts.
DEDUCED, Assumption 54. -/
def tlbiNear (xa va : Word) : Bool := xa.getLsbD 0 || xa.toNat / 2 ^ 30 == va.toNat / 2 ^ 30

/-- Drop every matching entry of every TLB in scope. -/
def State.tlbDrop (s : State) (k : Nat) (sc : Scope) (hit : Tlb → Bool) : State :=
  let keep (l : List Tlb) : List Tlb := l.filter fun e => !hit e
  { s with
    cores := s.cores.map fun e => if coreInScope sc k e.1 then (e.1, { e.2 with tlb := keep e.2.tlb }) else e,
    tiles := s.tiles.map fun e => if coreInScope sc k (4 * e.1) then (e.1, { e.2 with tlb := keep e.2.tlb }) else e,
    quads := s.quads.map fun e =>
      if (sc == .die || sc == .package || sc == .pod) && coreInScope sc k (256 * e.1)
      then (e.1, { e.2 with tlb := keep e.2.tlb }) else e }

/-- Does a compact member hold a copy access of core `k`? -/
def State.copyHeld (s : State) (k : Nat) : Bool :=
  s.tiles.any fun e => match e.2.compact with
    | some c => c.held.any fun h => match h with
      | .get j .. => j == k
      | .put p => p.core == k && p.piece.isSome
      | _ => false
    | none => false

/-- Has every access of the job in scope, translated through such an entry, completed or been performed: loads, stores, absmax
words, and accesses of copies that a compact holds? -/
def State.tlbSettled (s : State) (k : Nat) (sc : Scope) (j : Job) (xa : Word) : Bool :=
  s.cores.all fun e => !(coreInScope sc k e.1 && e.2.job == j)
    || ((e.2.loads.all fun l => !tlbiNear xa l.va) && (e.2.sbuf.all fun w => !tlbiNear xa w.va)
        && (e.2.vq.all fun v => !(v.reduces && tlbiNear xa (v.c.truncate 64)))
        && (e.2.flights.all fun f => s.performed e.1 f.scope f.w) && !s.copyHeld e.1)

/-- R345. -/
def execTlbi (g : Guard) (ra rb : XReg) (scope : Scope) (s : State) : Out :=
  .next (s.issue (.tlbi g ra rb scope) fun k t =>
    let xa := (t.core k).rx ra
    let xb := (t.core k).rx rb
    let j : Job := { part := fld xb 12 2, ctx := fld xb 0 12 }
    if !xa.getLsbD 0 && fld xa 0 16 != 0 then t.trap k causeFormat xa
    else
      let t := t.tlbDrop k scope (tlbiHits j xa)
      if t.tlbSettled k scope j xa then t.finish k else t.await k)

/-! ## Priority and random words -/

/-- R270: cls := min(n, cap). -/
def execPrio (g : Guard) (n : BitVec 2) (s : State) : Out :=
  scalarWord (.prio g n) s fun c => { c with cls := if n ≤ c.cap then n else c.cap }

/-- R259. -/
def execRand (g : Guard) (rd : XReg) (s : State) : Out :=
  .next (s.issue (.rand g rd) fun k t =>
    let key := t.key k 2 0
    t.finishWith k fun c => { c with rngctr := c.rngctr + 1 }.wx rd (rngWord key c.rngctr))

end Machine
end Sys2Proof
end

