-- ==== Sys2Proof/Machine/Engine.lean ====
section
/-! DEFINITION. What every engine shares: how it reaches an address (R194, R201, R346), reads bytes with their marks (R348), writes
them, and logs what leaves the package (R356). -/

namespace Sys2Proof
namespace Machine

/-- One piece of a read for command `d` of core `k`: the bytes that a boundary window has brought (R288), or the bytes at its target, or a
place among what a compact member holds, in arrival order. -/
def State.grabPiece (s : State) (k : Nat) (d : Cmd) (va n : Nat) : State × Except Failed Grabbed :=
  match d.prog.got.find? fun g => g.va == va && g.bytes.length == n with
  | some g => (s, .ok (g.bytes, g.bad))
  | none =>
    let r := s.engineAt k va .rd
    match r.2 with
    | .key key =>
      let b := r.1.engineRead (some k) key n
      (b.1, .ok (b.2, (b.1.markedIn (b.1.realKey key) n).isSome))
    | .wait (some key) => (r.1.holdAt (r.1.holder key) (.get k d.age va key n), .error { grip := .wait (some key), va := va })
    | w => (r.1, .error { grip := w, va := va })

/-- `n` bytes at a virtual address for command `d` of core `k`; every piece is asked for, also behind one that waits. -/
def State.grab (s : State) (k : Nat) (d : Cmd) (va n : Nat) : State × Except Failed Grabbed :=
  (cut va n).foldl (fun acc e =>
    if stopped acc.2 then acc
    else let r := acc.1.grabPiece k d (va + e.1) e.2; (r.1, gather2 acc.2 r.2)) (s, .ok ([], false))

/-- Is a local range of the core's own store closed to it (R346, R347)? -/
def State.localClosed (s : State) (k off n : Nat) : Bool :=
  s.closures.any fun c => overlaps c.lo (c.hi - c.lo) (storeBase k + off) n
    && ((List.range n).any fun i => s.closedFor (s.master k) (storeBase k + off + i))

/-- `n` bytes at an offset from the base of a handle. -/
def State.grabH (s : State) (k : Nat) (d : Cmd) (h : Wide) (off n : Nat) : State × Except Failed Grabbed :=
  if isLocal h then
    let key := storeBase k + hBase h + off
    if s.localClosed k (hBase h + off) n then (s, .error { grip := .refuse, va := windowVa (coreTile k) (hBase h + off) })
    else (s, .ok (s.read key n, (s.markedIn key n).isSome))
  else s.grab k d (hBase h + off) n

/-! ## Faults of a command (R201) -/

/-- Record what a failed access calls for; a refusal is on its way to the core, with the address of the push. -/
def State.cmdFailed (s : State) (k : Nat) (d : Cmd) (f : Failed) : State :=
  match f.grip with
  | .fault c => s.faultCmd k d c f.va
  | .refuse => s.refuseAt k (BitVec.ofNat 64 f.va) d.pc
  | _ => s

/-- The oldest command of a queue that is not complete. -/
def Core.headOf (c : Core) (q : QName) : Option Cmd := c.cmds.find? fun d => d.q == q

/-- A command whose read data has an uncorrectable error that arithmetic consumes kills the core that pushed it (R348). -/
def State.killCmd (s : State) (k : Nat) (d : Cmd) (va : Word) : State := s.takeTrap k causeEccFatal false d.pc va 0

/-! ## The provenance log (R356) -/

/-- Append one entry to the log of the die of core `k`; none when it is full. With no log set up nothing is appended
(DESIGN CHOICE, Assumption 24). -/
def State.logProvenance (s : State) (k : Nat) (born : Nat × Nat) (dpkg daddr bytes : Nat) : Option State :=
  let d := coreDieKey k
  let len := (s.sup d 0x811).toNat
  let tail := s.sup d 0x813
  if len = 0 then some s
  else if len ≤ (tail - s.sup d 0x812).toNat then none
  else
    let place := if isTileCore k then
      coreTile k % 1024 + born.1 * 2 ^ 10 + coreTile k / 64 % 4 * 2 ^ 17 else 0
    let v := place + coreDie k * 2 ^ 19 + born.2 % 2 ^ 32 * 2 ^ 32 + dpkg % 1024 * 2 ^ 64 + daddr % 2 ^ 64 * 2 ^ 128
      + bytes % 2 ^ 32 * 2 ^ 192
    some ((s.storeNat ((s.sup d 0x810).toNat + 32 * (tail.toNat % len)) 32 v).setSup d 0x813 (tail + 1))

end Machine
end Sys2Proof
end

