-- ==== Sys2Proof/Machine/CopyEngine.lean ====
section
/-! DEFINITION. The copy engine: `COPY`, `GATHER`, `SCATTER` and their pieces (R144, R194, R205 to R207). -/

namespace Sys2Proof
namespace Machine

/-! ## Pieces -/

/-- Scale bytes of one row under `row32`. -/
def rowScales (h : Wide) : Nat := if hGeom h = 1 then (hCols h + 31) / 32 else 0

/-- The pieces that write one line of a handle. -/
def linePieces (hd : Wide) (recv line src : Nat) : List Piece :=
  (cut (hBase hd + line * hPitch hd) (lineBytes hd)).map fun e =>
    { recv := recv, line := line, src := src, first := e.1, len := e.2, scale := false }

/-- The pieces that write `n` scale bytes from byte `off` of a handle's scales. -/
def scalePieces (hd : Wide) (recv line src off n : Nat) : List Piece :=
  (cut (hBase hd + hSoff hd + off) n).map fun e =>
    { recv := recv, line := line, src := src, first := off + e.1, len := e.2, scale := true }

/-- The tiles that the peer mask of a copy names. -/
def receivers (k : Nat) (w : Wide) : List Nat :=
  ((List.range 64).filter fun j => (cw1 w).testBit j).map (copyQuad k w * 64 + ·)

/-- Every piece of a `COPY` (R206). -/
def copyPieces (k : Nat) (d : Cmd) : List Piece :=
  let hd := d.hs.getD 0 0
  let one (r : Nat) : List Piece :=
    (List.range (hLines hd)).flatMap (fun l => linePieces hd r l 0) ++ scalePieces hd r 0 0 0 (scaleCount hd)
  if cw1 d.w = 0 then one 0 else (receivers k d.w).flatMap one

/-- A row of a `GATHER` or `SCATTER` with its scales: destination row and source row. -/
def rowPieces (hd : Wide) (row src : Nat) : List Piece :=
  linePieces hd 0 row src ++ scalePieces hd 0 row src (row * rowScales hd) (rowScales hd)

/-- The number of entries of a `GATHER`'s or `SCATTER`'s list (R207). -/
def listCount (d : Cmd) : Nat := if d.opc = 2 then hRows (d.hs.getD 0 0) else hRows (d.hs.getD 1 0)

/-- Entry `i` of the list. -/
def State.listEntryAt (s : State) (k : Nat) (d : Cmd) (i : Nat) : State × Except Failed Grabbed := s.grab k d (cw1 d.w + 4 * i) 4

/-- Ask for every entry of the list; the second part tells whether one has no answer yet, so that the command waits (R288). -/
def State.listWaits (s : State) (k : Nat) (d : Cmd) : State × Bool :=
  (List.range (listCount d)).foldl (fun acc i =>
    let r := acc.1.listEntryAt k d i
    (r.1, acc.2 || (match r.2 with | .error f => f.grip.waits | .ok _ => false))) (s, false)

/-- Read the list and make its pieces; an entry that cannot be read is a failed part (R201, R207). -/
def State.listPieces (s : State) (k : Nat) (d : Cmd) : State × List Piece :=
  let hd := d.hs.getD 0 0
  let hs := d.hs.getD 1 0
  (List.range (listCount d)).foldl (fun acc i =>
    let r := acc.1.listEntryAt k d i
    match r.2 with
    | .error f => (r.1.cmdFailed k d f, acc.2)
    | .ok g =>
      let j := leNat g.1
      (r.1, acc.2 ++ if d.opc = 2 then rowPieces hd i j
        else if j < hRows hd ∧ i < hRows hs then rowPieces hd j i else [])) (s, [])

/-! ## What a piece carries -/

/-- The source coordinates of destination element (r, c) of a piece; none for the zero rows of a `GATHER`. -/
def sourceOf (d : Cmd) (p : Piece) (r c : Nat) : Option (Nat × Nat) :=
  if d.opc = 1 then some (r, c) else if p.src < hRows (d.hs.getD 1 0) then some (p.src, c) else none

/-- The bits of a piece and the bytes of it that came from marked words. -/
structure PieceBits where
  bits : Nat
  bad : List Nat
deriving DecidableEq, Repr

/-- The bits of a piece so far with one more element, at bit `sh`, whose bytes are the piece's bytes `at`: an element that waits lets
the others be asked for, a fault ends the reading. -/
def addElement (acc : Except Failed PieceBits) (r : Except Failed (Nat × Bool)) (sh : Nat) (place : List Nat) : Except Failed PieceBits :=
  match acc, r with
  | .ok b, .ok x => .ok { bits := b.bits + x.1 * 2 ^ sh, bad := if x.2 then b.bad ++ place else b.bad }
  | .ok _, .error e => .error e
  | .error f, .error e => if f.grip.waits then .error e else .error f
  | .error f, .ok _ => .error f

/-- The element bytes of a piece, formed from the source's elements, all of which are asked for (R170, R206, R288).
DESIGN CHOICE, Assumption 58. -/
def State.pieceBits (s : State) (k : Nat) (d : Cmd) (p : Piece) : State × Except Failed PieceBits :=
  let hd := d.hs.getD 0 0
  let hs := d.hs.getD 1 0
  let w := hWidth hd
  if p.scale then
    let off := if d.opc = 1 then p.first else p.src * rowScales hs + (p.first - p.line * rowScales hd)
    if d.opc = 2 && !(decide (p.src < hRows hs)) then (s, .ok { bits := 0, bad := [] })
    else
      let g := s.grabH k d hs (hSoff hs + off) p.len
      (g.1, g.2.map fun b => { bits := leNat b.1, bad := if b.2 then [0, p.len - 1] else [] })
  else
    let e0 := 8 * p.first / w
    let e1 := min (hLineLen hd) ((8 * (p.first + p.len) + w - 1) / w)
    let r := (List.range (e1 - e0)).foldl (fun (acc : State × Except Failed PieceBits) i =>
      let e := e0 + i
      match (if hCol hd then sourceOf d p e p.line else sourceOf d p p.line e), acc.2 with
      | none, _ => acc
      | some (r, c), a =>
        if (match a with | .error f => !f.grip.waits | .ok _ => false) then acc
        else
          let g := acc.1.grabH k d hs (elemBit hs r c / 8) (elemBytes hs r c)
          (g.1, addElement a (g.2.map fun x => (getFld (leNat x.1) (elemBit hs r c % 8) w, x.2)) (w * i)
            [w * e / 8 - p.first, (w * e + w - 1) / 8 - p.first]))
      (s, .ok { bits := 0, bad := [] })
    (r.1, r.2.map fun b => { b with bits := getFld b.bits (8 * p.first - w * e0) (8 * p.len) })

/-- How many low bits of a piece its line covers. -/
def coveredBits (hd : Wide) (p : Piece) : Nat :=
  if p.scale then 8 * p.len else min (8 * p.len) (hWidth hd * hLineLen hd - 8 * p.first)

/-! ## Where a piece goes -/

/-- The offset of a piece from the base of the destination. -/
def pieceOff (hd : Wide) (p : Piece) : Nat := if p.scale then hSoff hd + p.first else p.line * hPitch hd + p.first

/-- The virtual address of an offset from the destination's base at a receiver. -/
def destVa (d : Cmd) (p : Piece) (off : Nat) : Nat :=
  let hd := d.hs.getD 0 0
  if cw1 d.w ≠ 0 && d.opc == 1 then windowVa p.recv (hBase hd + off) else hBase hd + off

/-- Does the destination name the executing core's own store without translation? -/
def destHome (d : Cmd) : Bool := isLocal (d.hs.getD 0 0) && !(d.opc == 1 && cw1 d.w != 0)

/-- The store whose arrival object counts a piece (R144): the receiver's. -/
def arrivalStore (k : Nat) (d : Cmd) (p : Piece) (key : Nat) : Nat :=
  if destHome d then storeBase k
  else if cw1 d.w ≠ 0 && d.opc == 1 then tileKey p.recv 0 else tileKey (keyTile key) 0

/-- Remove pieces of a command. -/
def State.dropPieces (s : State) (k age : Nat) (gone : Piece → Bool) : State :=
  s.onCmd k age fun d => { d with prog := { d.prog with pieces := d.prog.pieces.filter fun p => !gone p,
                                                        sent := d.prog.sent.filter fun p => !gone p } }

/-- The write of a piece at a key, and what it counts (R144). -/
def putOf (k : Nat) (d : Cmd) (p : Piece) (key : Nat) (b : PieceBits) : HeldPut :=
  { core := k, age := d.age, piece := some p, key := key, len := p.len, bits := b.bits, cov := coveredBits (d.hs.getD 0 0) p,
    bad := b.bad, count := if cf d.w 30 1 = 1 then some (arrivalStore k d p key, cf d.w 24 6) else none, full := true }

/-- A piece arrives at a compact member that holds it until a boundary (R310). -/
def State.holdPiece (s : State) (k : Nat) (d : Cmd) (p : Piece) (key : Nat) (b : PieceBits) : State :=
  (s.holdAt (s.holder key) (.put (putOf k d p key b))).onCmd k d.age fun c => { c with prog := { c.prog with held := c.prog.held ++ [p] } }

/-- Do two tiles stand in one compact? -/
def State.compactMates (s : State) (t u : Nat) : Bool :=
  match (s.tile t).compact, (s.tile u).compact with
  | some a, some b => a.id == b.id && a.job == b.job
  | _, _ => false

/-- Does a failed access fail all that a copy has at its tile: a window that answers with an error? Elsewhere its line alone fails.
DEDUCED, Assumption 51. -/
def State.wholeFails (s : State) (w : Grip) (va : Nat) : Bool :=
  w == .refuse || (inWindow va && (w != .fault causePage || s.nonMembers.contains (va / 2 ^ 30 % 1024)))

/-- The write of a piece with its bits: done, held, or failed. A receiver that answers with an error gets no further piece and records
its window address once; any other failure fails its line (R201, R206). DEDUCED, Assumption 51. A piece of an
`xfer` whose receiver has left the compact fails before all else (R311). -/
def State.deliverPiece (s : State) (k : Nat) (d : Cmd) (p : Piece) (b : PieceBits) : State :=
  let hd := d.hs.getD 0 0
  let off := pieceOff hd p
  let va := destVa d p off
  if destHome d then
    if s.localClosed k (hBase hd + off) p.len then
      (s.cmdFailed k d { grip := .refuse, va := windowVa (coreTile k) (hBase hd + off) }).dropPieces k d.age fun _ => true
    else s.putHeld (putOf k d p (storeBase k + hBase hd + off) b)
  else if d.xfer && !s.compactMates (coreTile k) (va / 2 ^ 20 % 2 ^ 20) then
    (s.faultCmd k d causeCompactBroken va).dropPieces k d.age fun _ => true
  else
    let r := s.engineAt k va .wr
    match r.2 with
    | .key key => r.1.putHeld (putOf k d p key b)
    | .wait (some key) => r.1.holdPiece k d p key b
    | .wait none => r.1
    | w =>
      let whole := r.1.wholeFails w va
      let at1 := if whole then destVa d p 0 else va
      (r.1.cmdFailed k d { grip := w, va := at1 }).dropPieces k d.age fun q =>
        q.recv == p.recv && (whole || (q.line == p.line && q.scale == p.scale))

/-- A piece of a started copy arrives: its source is read, and it is written; a part whose source fails is dropped: what comes from a
source that answers with an error, else what the row or line gives to the same line (R201, R207). DEDUCED, Assumption 51. -/
def State.pieceArrive (s : State) (k : Nat) (d : Cmd) (p : Piece) : State :=
  let data := s.pieceBits k d p
  match data.2 with
  | .error f =>
    if f.grip.waits then data.1
    else (data.1.cmdFailed k d f).dropPieces k d.age fun q =>
      data.1.wholeFails f.grip f.va || (q.line == p.line && q.scale == p.scale && q.src == p.src)
  | .ok b => data.1.deliverPiece k d p b

/-! ## Regions

What the engine grants and a receiver takes at once is what a copy writes to one 64-byte region there: its parts of several lines that
share a word make the word whole (R144, R202). DEDUCED, Assumption 90. -/

/-- The byte range of a piece at its destination. -/
def pieceSpan (d : Cmd) (p : Piece) : Nat × Nat := (hBase (d.hs.getD 0 0) + pieceOff (d.hs.getD 0 0) p, p.len)

def sameRegion (d : Cmd) (p q : Piece) : Bool := q.recv == p.recv && (pieceSpan d q).1 / 64 == (pieceSpan d p).1 / 64

/-- The first pieces of a list that do not overlap: of a `SCATTER` two rows may have one destination row (R207). -/
def apart (d : Cmd) (acc : List Piece) : List Piece → List Piece
  | [] => acc
  | q :: qs =>
    let x := pieceSpan d q
    if acc.any fun p => overlaps (pieceSpan d p).1 (pieceSpan d p).2 x.1 x.2 then acc else apart d (acc ++ [q]) qs

/-- The pieces among `ps` that go with `p`. -/
def withPiece (d : Cmd) (ps : List Piece) (p : Piece) : List Piece := apart d [] (ps.filter (sameRegion d p))

/-- The pieces that the engine has yet to grant, and those that are on their way and not held. -/
def Progress.unsent (p : Progress) : List Piece := p.pieces.filter fun x => !p.sent.contains x && !p.held.contains x
def Progress.coming (p : Progress) : List Piece := p.pieces.filter fun x => p.sent.contains x && !p.held.contains x

/-! ## Starting (R194, R356) -/

/-- The package that a piece goes to, where it is not the core's own. -/
def State.pieceLeaves (s : State) (k : Nat) (d : Cmd) (p : Piece) : Option Nat :=
  let out (pkg : Nat) : Option Nat := if pkg = corePkg k then none else some pkg
  if destHome d then none
  else match (s.resolve k (destVa d p (pieceOff (d.hs.getD 0 0) p)) .wr).2 with
    | some key => out (keyPkg key)
    | none => none

/-- Of pieces that leave the package: the first one's package, the destination there and the bytes. -/
def State.leavesTo (s : State) (k : Nat) (d : Cmd) (ps : List Piece) : Option (Nat × Nat × Nat) :=
  match ps.filterMap fun p => (s.pieceLeaves k d p).map fun pkg => (pkg, p) with
  | [] => none
  | e :: es => some (e.1, destVa d e.2 0, (e :: es).foldl (fun n x => n + x.2.len) 0)

/-- Start a command of the copy queue with its pieces. -/
def State.beginCopy (s : State) (k : Nat) (d : Cmd) (ps : List Piece) : State :=
  s.onCmd k d.age fun c => { c with started := true, logWait := false, prog := { c.prog with pieces := ps } }

/-- Start the oldest waiting command of the copy queue when it has opcode `op`: at most 4 run at once, and one whose writes leave
the package is logged first. -/
def State.startCopy (s : State) (k op : Nat) : State :=
  match (s.core k).cmds.find? fun d => d.q == .cpq && !d.started with
  | none => s
  | some d =>
    if d.opc ≠ op ∨ 4 ≤ ((s.core k).cmds.filter fun e => e.q == .cpq && e.started).length then s
    else
      let w := if op = 1 then (s, false) else s.listWaits k d
      if w.2 then w.1
      else
        let r := if op = 1 then (s, copyPieces k d) else w.1.listPieces k d
        match r.1.leavesTo k d r.2 with
        | none => r.1.beginCopy k d r.2
        | some (pkg, va, n) => match r.1.logProvenance k d.born pkg va n with
          | none => s.onCmd k d.age fun c => { c with logWait := true }
          | some u => u.beginCopy k d r.2

/-! ## Arbitration (R46, R272) -/

/-- The running copies of a core with a piece to be granted, and those pieces. -/
def Core.copyReady (c : Core) : List (Cmd × Piece) :=
  (c.cmds.filter fun d => d.q == .cpq && d.started).flatMap fun d => d.prog.unsent.map fun p => (d, p)

/-- The copy engine that core `k` uses grants one region to the core that R225 picks, every weight 1; `n` chooses among that core's. -/
def State.copyGrant (s : State) (k n : Nat) : State :=
  let cs : List Cand := (sharers k).filterMap fun j => (s.core j).copyReady.head?.map fun e =>
    { core := j, cls := s.eff j, weight := 1, credit := (s.core j).ccredit, age := e.1.age }
  match arbitrate (if isTileCore k then (s.tile (coreTile k)).cstarve else []) cs with
  | none => s
  | some (w, refills) =>
    let s := s.charge k (fun _ => 1) w refills fun f v => { v with ccredit := f v.ccredit }
    let starve := if isTileCore k then (s.tile (coreTile k)).cstarve else []
    let ps := (s.core w.core).copyReady.filter fun e => (boundPick starve cs).isNone || e.1.age == w.age
    match ps[n % (max ps.length 1)]? with
    | some e =>
      let s := if isTileCore k then s.onTile (coreTile k) fun v => { v with cstarve := starveNext starve cs { w with age := e.1.age } } else s
      s.onCmd w.core e.1.age fun d => { d with prog := { d.prog with sent := d.prog.sent ++ withPiece d d.prog.unsent e.2 } }
    | none => s

/-! ## The events -/

/-- R206. -/
def execCopy (c : CoreId) (s : State) : Out := .next (s.startCopy (coreKey c) 1)

/-- R207. -/
def execGather (c : CoreId) (s : State) : Out := .next (s.startCopy (coreKey c) 2)

/-- R207. -/
def execScatter (c : CoreId) (s : State) : Out := .next (s.startCopy (coreKey c) 3)

/-- The pieces that are on their way. -/
def Core.piecesReady (c : Core) : List (Cmd × Piece) :=
  (c.cmds.filter fun d => d.q == .cpq && d.started).flatMap fun d => d.prog.coming.map fun p => (d, p)

/-- A piece of a command, if both are still there. -/
def State.pieceIfThere (s : State) (k age : Nat) (p : Piece) : State :=
  match (s.core k).cmds.find? fun d => d.age == age && d.prog.pieces.contains p with
  | some d => s.pieceArrive k d p
  | none => s

/-- R144: one region of those granted, any of them. -/
def execCopyPieceArrive (c : CoreId) (n : Nat) (s : State) : Out :=
  .next (
    let k := coreKey c
    let ps := (s.core k).piecesReady
    match ps[n % (max ps.length 1)]? with
    | some e => (withPiece e.1 e.1.prog.coming e.2).foldl (fun u p => u.pieceIfThere k e.1.age p) s
    | none => s)

/-- R206: every receiver has counted every byte or answered its refusal. -/
def execCopyComplete (c : CoreId) (s : State) : Out :=
  .next (
    let k := coreKey c
    match (s.core k).cmds.find? fun d => d.q == .cpq && d.started && d.prog.pieces.isEmpty with
    | some d => s.retireCmd k d
    | none => s)

end Machine
end Sys2Proof
end

