-- ==== Sys2Proof/Machine/Matrix.lean ====
section
/-! DEFINITION. The matrix engine: accumulators, `MMA`, `MROT`, `DRAIN` and `ACC` (R177, R194, R203, R204, R208 to R214, R255). -/

namespace Sys2Proof
namespace Machine

/-! ## Accumulators (R204, R255) -/

/-- The 1,024 words of accumulator `a`. -/
def Tile.words (v : Tile) (a : Nat) : List Word32 := v.acc.get (List.replicate 1024 0) a

/-- Is the type INT32? -/
def Tile.isInt (v : Tile) (a : Nat) : Bool := v.accTy.getLsbD a

def Tile.divisor (v : Tile) (a : Nat) : Nat := v.accDiv.get 1 a

/-- Replace the words; an accumulator of zeros is unlisted. -/
def Tile.putWords (v : Tile) (a : Nat) (ws : List Word32) : Tile :=
  { v with acc := if ws.all (· == 0) then v.acc.del a else v.acc.put a ws }

def Tile.putType (v : Tile) (a : Nat) (int : Bool) : Tile :=
  { v with accTy := if int then v.accTy ||| BitVec.twoPow 8 a else v.accTy &&& ~~~(BitVec.twoPow 8 a) }

def Tile.putDivisor (v : Tile) (a n : Nat) : Tile :=
  { v with accDiv := if n = 1 then v.accDiv.del a else v.accDiv.put a n }

/-- The value of a word of an accumulator: FP32, or an exact integer. -/
def accVal (int : Bool) (w : Word32) : Val := if int then intVal w.toInt else f32Val w

/-! ## Operand elements -/

/-- An element with its format and its block's scale. -/
structure Elem where
  fmt : Nat
  bits : Nat
  sc : Option Int
deriving DecidableEq, Repr

def Elem.val (e : Elem) : Val := elemValue e.fmt e.bits e.sc

/-- The exact product of two elements, scales applied; of two log elements by R174. -/
def Elem.times (a b : Elem) : Val :=
  if family a.fmt == .log then
    match a.sc, b.sc with
    | some x, some y => logProduct (fmtOf a.fmt) a.bits (fmtOf b.fmt) b.bits x y
    | _, _ => .nan false
  else (Val.mul a.val b.val).1

/-- The integer of an element of the integer family. -/
def Elem.int (e : Elem) : Int :=
  match e.val with
  | .fin n m => sgn n m.n
  | _ => 0

/-- Element (r, c) of a local operand. -/
def State.elemOf (s : State) (k : Nat) (h : Wide) (r c : Nat) : Elem :=
  { fmt := hFmt h, bits := s.elem (storeBase k) h r c, sc := s.scaleOf (storeBase k) h r c }

/-- The first marked byte that a read of rows `r0` on and columns `c0` on consumes. -/
def State.blockMarked (s : State) (k : Nat) (h : Wide) (r0 nr c0 nc : Nat) : Option Nat :=
  if s.marks.isEmpty then none
  else (List.range nr).findSome? fun r => (List.range nc).findSome? fun c =>
    s.elemMarked (storeBase k) h (r0 + r) (c0 + c)

/-- The first marked scale byte of the 32×32 elements of a handle: what a write by stored scales reads of it. -/
def State.scalesMarked (s : State) (k : Nat) (h : Wide) : Option Nat :=
  if s.marks.isEmpty ∨ hGeom h = 0 then none
  else (List.range 1024).findSome? fun e => s.markedIn (scaleKey (storeBase k) h (e / 32) (e % 32)) 1

/-- The window address of the 8-byte word of the core's own store that holds a byte, as an error names it (R348).
DEDUCED, Assumption 75. -/
def ownVa (k key : Nat) : Word := BitVec.ofNat 64 (windowVa (coreTile k) ((key - storeBase k) / 8 * 8))

/-! ## The sums of R177 -/

/-- Words with the flags raised on the way. -/
abbrev Summed := Word32 × Flags

/-- FP32: one rounding per product. -/
def dotF32 (ps : List (Elem × Elem)) (c : Word32) : Summed :=
  ps.foldl (fun acc p =>
    let r := engineRound (Val.fma .rne p.1.val p.2.val (f32Val acc.1))
    (r.1, acc.2 ||| r.2)) (c, noFlags)

/-- G of a group: the exact sum, rounded once. -/
def groupSum (vs : List Val) : Summed :=
  match sumVals false vs with
  | .nan _ => (0x7FC00000, flInvalid)
  | v => engineRound (v, noFlags)

/-- C := Round(C + G). -/
def addGroup (c : Word32) (vs : List Val) : Summed :=
  let g := groupSum vs
  let r := engineRound (Val.add .rne (f32Val c) (f32Val g.1))
  (r.1, g.2 ||| r.2)

/-- Float and log families: groups of 32. -/
def dotGroups (ps : List (Elem × Elem)) (c : Word32) : Summed :=
  (List.range (ps.length / 32)).foldl (fun acc g =>
    let r := addGroup acc.1 (((ps.drop (32 * g)).take 32).map fun p => p.1.times p.2)
    (r.1, acc.2 ||| r.2)) (c, noFlags)

/-- Integers modulo 2^32. -/
def dotInt (ps : List (Elem × Elem)) (c : Word32) : Summed :=
  (BitVec.ofInt 32 (ps.foldl (fun a p => a + p.1.int * p.2.int) c.toInt), noFlags)

/-- The sum of a family over some of K. -/
def dot (f : Family) (ps : List (Elem × Elem)) (c : Word32) : Summed :=
  match f with
  | .fp32 => dotF32 ps c
  | .integer => dotInt ps c
  | _ => dotGroups ps c

/-- The native step of the wider operand format (R272). -/
def kStep (fa fb : Nat) : Nat :=
  let w := max (fmtOf fa).w (fmtOf fb).w
  if 16 ≤ w then 32 else if w = 8 then 64 else 128

/-! ## `MMA` (R208 to R210) -/

/-- Element (r, c) of Down(acc a) with its flags (R210). DEDUCED, Assumption 52. -/
def State.down (s : State) (k : Nat) (d : Cmd) (r c : Nat) : Elem × Flags :=
  let v := s.tile (coreTile k)
  let a := cf d.w 29 3
  let fmt := cf d.w 32 5
  let t := clipped (accVal (v.isInt a) ((v.words a).getD (32 * r + c) 0)) (f32Val 0x3F800000) (.inf false) 1
  let rm := (Rm.ofCode (fld d.w 37 3)).getD .rne
  let dr : Draw := { u := roundBits (s.key k 0 (BitVec.ofNat 32 (cf d.w 64 32))) r c, theta := dither 0 false d.dph.toNat r c }
  let o := roundBlock fmt rm (some 0) t.1 dr
  ({ fmt := fmt, bits := o.1, sc := some 0 }, o.2 ||| t.2)

/-- Column `c` of row `r` of A. -/
def State.elemA (s : State) (k : Nat) (d : Cmd) (r c : Nat) : Elem × Flags :=
  if cf d.w 28 1 = 1 then s.down k d r c else (s.elemOf k (d.hs.getD 0 0) r c, noFlags)

/-- The format of A. -/
def Cmd.fmtA (d : Cmd) : Nat := if cf d.w 28 1 = 1 then cf d.w 32 5 else hFmt (d.hs.getD 0 0)

/-- The first marked byte that k0 to k0 + n - 1 of A and B consume. -/
def State.mmaMarked (s : State) (k : Nat) (d : Cmd) (k0 n : Nat) : Option Nat :=
  (if cf d.w 28 1 = 1 then none else s.blockMarked k (d.hs.getD 0 0) 0 32 k0 n).or
    (s.blockMarked k (d.hs.getD 1 0) k0 n 0 32)

/-- One advance of the contraction by `n` from `k0` (R209): the words of acc d and the flags. The operands are read in `src`. -/
def State.mmaAdvance (s src : State) (k : Nat) (d : Cmd) (k0 n : Nat) : State :=
  let t := coreTile k
  let a := cf d.w 16 3
  let old := if k0 = 0 ∧ cf d.w 19 1 = 1 then List.replicate 1024 0 else (s.tile t).words a
  let rows := (List.range 32).map fun r => (List.range n).map fun c => src.elemA k d r (k0 + c)
  let cols := (List.range 32).map fun c => (List.range n).map fun r => src.elemOf k (d.hs.getD 1 0) (k0 + r) c
  let fam := family d.fmtA
  let rs := old.mapIdx fun e w =>
    dot fam (((rows.getD (e / 32) []).map (·.1)).zip (cols.getD (e % 32) [])) w
  let fl := rs.foldl (fun f r => f ||| r.2) (rows.flatten.foldl (fun f e => f ||| e.2) noFlags)
  ((s.tally k 0 (1024 * n)).onTile t fun v => ((v.putWords a (rs.map (·.1))).putType a (fam == .integer)).putDivisor a 1).onCore k
    fun c => c.raise fl

/-- The length of the K-step that a command is at. -/
def Cmd.stepLen (d : Cmd) : Nat := min (kStep d.fmtA (hFmt (d.hs.getD 1 0))) (cf d.w 48 16 - d.prog.k)

/-- One K-step of the `MMA` at the head of core `k`'s queue; the last one completes it. -/
def State.mmaStep (s : State) (k : Nat) (d : Cmd) : State :=
  let total := cf d.w 48 16
  let k0 := d.prog.k
  let n := d.stepLen
  match s.mmaMarked k d k0 n with
  | some a => s.killCmd k d (ownVa k a)
  | none =>
    let s := s.mmaAdvance s k d k0 n
    if total ≤ k0 + n then s.retireCmd k d
    else s.onCmd k d.age fun c => { c with started := true, prog := { c.prog with k := k0 + n } }

/-! ## `MROT` (R211) -/

/-- The tile one place west, or north, of a tile inside its rotation grid (R282). -/
def rotNeighbour (t g : Nat) (west : Bool) : Nat :=
  let q := t / 64
  let r := t % 64 / 8
  let c := t % 8
  if west then q * 64 + r * 8 + (if c % g = 0 then c + g - 1 else c - 1)
  else q * 64 + (if r % g = 0 then r + g - 1 else r - 1) * 8 + c

/-- The bytes of a local extent, by offset in the store: elements, then scales (R187). -/
def State.extentBytes (s : State) (k : Nat) (h : Wide) : List (Nat × List Byte) :=
  (extents h).map fun e => (e.1, s.read (storeBase k + e.1) e.2)

/-- Steps 1 and 2: the operands are read whole and sent. They stay with the command: step 4 may overwrite them in the store while it
multiplies. DEDUCED, Assumption 91. -/
def State.mrotBegin (s : State) (k : Nat) (d : Cmd) : State :=
  let t := coreTile k
  let g := s.gridOf t
  let n := (s.tile t).rots
  let send (dst : Nat) (fromEast : Bool) (h : Wide) (u : State) : State :=
    let out : List Rotated := (s.extentBytes k h).map fun e => { n := n, fromEast := fromEast, off := e.1, bytes := e.2 }
    u.onTile dst fun v => { v with arriving := v.arriving ++ out }
  let got : List Got := (s.extentBytes k (d.hs.getD 0 0) ++ s.extentBytes k (d.hs.getD 1 0)).map fun e =>
    { va := e.1, bytes := e.2, bad := false }
  let s := send (rotNeighbour t g true) true (d.hs.getD 0 0) s
  let s := send (rotNeighbour t g false) false (d.hs.getD 1 0) s
  let s := s.onTile t fun v => { v with rots := n + 1, rotated := v.rotated.put n (k, 0) }
  s.onCmd k d.age fun c => { c with started := true, prog := { c.prog with got := got, idx := n } }

/-- The state in which an `MROT` reads its operands: as step 1 read them. -/
def State.withOperandsOf (s : State) (k : Nat) (d : Cmd) : State :=
  d.prog.got.foldl (fun u g => u.write (storeBase k + g.va) g.bytes) s

/-- Complete the `MROT` of number `n` once it has multiplied and both operands are written (R211). -/
def State.mrotDone (s : State) (t n : Nat) : State :=
  match (s.tile t).rotated.find n with
  | some (k, got) =>
    if got < 2 ∨ (s.core k).st = .saved then s
    else match (s.core k).cmds.find? fun d =>
        d.q == .mxq && d.opc == 0x11 && d.started && d.prog.idx == n && decide (cf d.w 48 16 ≤ d.prog.k) with
      | some d => (s.retireCmd k d).onTile t fun v => { v with rotated := v.rotated.del n }
      | none => s
  | none => s

/-- Step 3, one K-step. -/
def State.mrotMultiply (s : State) (k : Nat) (d : Cmd) : State :=
  let k1 := d.prog.k + d.stepLen
  let s := (s.mmaAdvance (s.withOperandsOf k d) k d d.prog.k d.stepLen).onCmd k d.age fun c => { c with prog := { c.prog with k := k1 } }
  if cf d.w 48 16 ≤ k1 then s.mrotDone (coreTile k) d.prog.idx else s

/-- Is the compact in which a started `MROT` sent its operands still there? -/
def State.rotates (s : State) (k : Nat) (d : Cmd) : Bool :=
  match (s.tile (coreTile k)).rotated.find d.prog.idx with
  | some e => e.1 == k
  | none => false

/-- One unit of the `MROT` at the head: at its first, it begins; one whose compact's grid is gone before it starts ends with
COMPACT_BROKEN at address 0 (R211, R313). DESIGN CHOICE, Assumption 107. -/
def State.mrotStep (s : State) (k : Nat) (d : Cmd) : State :=
  if (if d.started then !s.rotates k d else s.gridOf (coreTile k) == 0) then (s.faultCmd k d causeCompactBroken 0).retireCmd k d
  else if d.started then s.mrotMultiply k d
  else match s.mmaMarked k d 0 (cf d.w 48 16) with
    | some a => s.killCmd k d (ownVa k a)
    | none =>
      let s := s.mrotBegin k d
      match (s.core k).headOf .mxq with
      | some e => s.mrotMultiply k e
      | none => s

/-- R211, step 4: one operand that has arrived for a `MROT` that has read its own is written, and the `MROT` may complete. -/
def execMrotBytesArrive (t : TileId) (s : State) : Out :=
  .next (
    let u := tileNum t
    let v := s.tile u
    match v.arriving.find? fun a => (v.rotated.find a.n).isSome with
    | none =>
      v.rotated.foldl (fun s e => s.mrotDone u e.1) s
    | some a =>
      let same (b : Rotated) : Bool := b.n == a.n && b.fromEast == a.fromEast
      let parts := v.arriving.filter same
      let s := parts.foldl (fun s b => s.engineWrite (tileKey u b.off) b.bytes true) s
      let s := s.onTile u fun v =>
        { v with arriving := v.arriving.filter fun b => !same b,
                 rotated := v.rotated.put a.n ((v.rotated.get (0, 0) a.n).1, (v.rotated.get (0, 0) a.n).2 + 1) }
      s.mrotDone u a.n)

/-! ## `DRAIN` (R212, R213) -/

/-- What the 1,024 elements of a `DRAIN` narrow to before rounding, with the flags of the clip. -/
def State.drainVals (s : State) (k : Nat) (d : Cmd) : List (Val × Flags) :=
  let v := s.tile (coreTile k)
  let a := cf d.w 16 3
  (v.words a).map fun w => clipped (accVal (v.isInt a) w) (f32Val (BitVec.ofNat 32 (cf d.w 64 32)))
    (f32Val (BitVec.ofNat 32 (cf d.w 96 32))) (v.divisor a)

/-- Steps 1 to 5, the absmax reduction aside. A clip that binds raises saturated also where the block's stored scale is a NaN. DEDUCED,
Assumption 106. -/
def State.drainEffect (s : State) (k : Nat) (d : Cmd) : State :=
  let hd := d.hs.getD 0 0
  let store := storeBase k
  let t := coreTile k
  let a := cf d.w 16 3
  let vs := s.drainVals k d
  let at1 (e : Nat) : Nat := scaleKey store hd (e / 32) (e % 32)
  let ks := if cf d.w 27 1 = 0 then [] else ((List.range 1024).map at1).eraseDups
  let s1 := ks.foldl (fun u key =>
    let m := (vs.zipIdx.filter fun x => at1 x.2 == key).foldl (fun m x => maxMag m x.1.1) (some Mag.zero)
    (u.store key [BitVec.ofNat 8 (scaleByte (hFmt hd) m)]).setFulls key 1 true) s
  let rm := (Rm.ofCode (fld d.w 24 3)).getD .rne
  let salt : Word32 := BitVec.ofNat 32 (cf d.w 32 32)
  let rs := vs.mapIdx fun e v =>
    roundBlock (hFmt hd) rm (s1.scaleOf store hd (e / 32) (e % 32)) v.1 (s1.draw k salt hd d.dph (e / 32) (e % 32))
  let spans := (List.range 1024).map fun e => elemSpan store hd (e / 32) (e % 32)
  let s2 := ((List.range 1024).foldl (fun u e =>
    let r := e / 32
    let c := e % 32
    (u.setElem store hd r c (rs.getD e (0, noFlags)).1).setFulls (elemKey store hd r c) (elemBytes hd r c) true) s1).freshWords
      (spans ++ ks.map scaleSpan)
  let fl := rs.foldl (fun f r => f ||| r.2) (vs.foldl (fun f v => f ||| v.2) noFlags)
  let s3 := if cf d.w 19 1 = 1 then
    s2.onTile t fun v => (v.putWords a (List.replicate 1024 0)).putDivisor a 1 else s2
  s3.onCore k fun c => c.raise fl

/-- The largest magnitude pattern of the words drained (R184). -/
def State.drainMax (s : State) (k : Nat) (d : Cmd) : Nat :=
  let v := s.tile (coreTile k)
  let a := cf d.w 16 3
  maxBits ((v.words a).map (accVal (v.isInt a)))

/-- The scope of a `DRAIN`'s absmax. -/
def Cmd.ascope (d : Cmd) : Scope := (Scope.ofCode (fld d.w 29 3)).getD .core

/-- A `DRAIN` runs: first the elements; then, with an absmax target, the reduction; then it waits until that is performed. -/
def State.drainStep (s : State) (k : Nat) (d : Cmd) : State :=
  if d.prog.k = 0 then
    match (if cf d.w 27 1 = 1 then none else s.scalesMarked k (d.hs.getD 0 0)) with
    | some a => s.killCmd k d (ownVa k a)
    | none =>
      let v := s.drainMax k d
      let s := s.drainEffect k d
      if cf d.w 28 1 = 0 then s.retireCmd k d
      else s.onCmd k d.age fun c => { c with started := true, prog := { c.prog with k := 1, f := BitVec.ofNat 32 v } }
  else if d.prog.k = 1 then
    let va := cw2 d.w
    let r := s.engineAt k va .rw
    match r.2 with
    | .key key =>
      let q := r.1.reduceAt k key .max .n32 (d.prog.f.zeroExtend 64)
      q.1.onCmd k d.age fun c => { c with prog := { c.prog with k := 2, off := q.2 } }
    | .wait (some key) => r.1.holdAt (r.1.holder key) (.amax k d.age key d.prog.f)
    | .wait none => r.1
    | w => (r.1.cmdFailed k d { grip := w, va := va }).retireCmd k d
  else if s.performed k d.ascope d.prog.off then s.retireCmd k d else s

/-! ## `ACC` (R214) -/

/-- The element bits of an `ACC` handle, row by row. -/
def State.accElems (s : State) (k : Nat) (h : Wide) : List Nat :=
  (List.range 1024).map fun e => s.elem (storeBase k) h (e / 32) (e % 32)

/-- The effect of an `ACC` command; one that reads marked data kills its core (R348). -/
def State.accStep (s : State) (k : Nat) (d : Cmd) : State :=
  let t := coreTile k
  let a := cf d.w 16 3
  let fn := cf d.w 19 2
  let int := cf d.w 28 1 == 1
  let h := d.hs.getD 0 0
  match (if fn = 1 ∨ fn = 2 then s.blockMarked k h 0 32 0 32 else none) with
  | some m => s.killCmd k d (ownVa k m)
  | none =>
    let v := s.tile t
    let s := match fn with
      | 0 => s.setTile t (((v.putWords a (List.replicate 1024 0)).putType a int).putDivisor a 1)
      | 1 => s.setTile t (((v.putWords a ((s.accElems k h).map (BitVec.ofNat 32))).putType a int).putDivisor a 1)
      | 2 =>
        let es := s.accElems k h
        let rs : List Summed := (v.words a).mapIdx fun e w =>
          if v.isInt a then (w + BitVec.ofNat 32 (es.getD e 0), noFlags)
          else engineRound (Val.add .rne (f32Val w) (f32Val (BitVec.ofNat 32 (es.getD e 0))))
        (s.setTile t ((v.putWords a (rs.map Prod.fst)).putDivisor a 1)).onCore k fun c =>
          c.raise (rs.foldl (fun (f : Flags) (r : Summed) => f ||| r.2) noFlags)
      | _ =>
        let b := cf d.w 25 3
        s.setTile t (((v.putWords a (v.words b)).putType a (v.isInt b)).putDivisor a (v.divisor b))
    s.retireCmd k d

/-! ## The events of the matrix engine -/

/-- The command at the head of a core's matrix queue, when it has opcode `op` and the thread is not saved
(R276). -/
def Core.matrixHead (c : Core) (op : Nat) : Option Cmd :=
  match c.headOf .mxq with
  | some d => if d.opc = op ∧ c.st ≠ .saved then some d else none
  | none => none

end Machine
end Sys2Proof
end

