-- ==== Sys2Proof/Machine/Ladle.lean ====
section
/-! DEFINITION. The ladle: `NORM`, `ALIAS`, `SMM` (R243 to R255), and the arbitration of the matrix engine (R46, R272). -/

namespace Sys2Proof
namespace Machine

/-! ## Engine arithmetic in FP32 -/

/-- a · b, rounded. -/
def mul32 (a b : Word32) : Summed := engineRound (Val.mul (f32Val a) (f32Val b))

/-- a + b, rounded. -/
def add32 (a b : Word32) : Summed := engineRound (Val.add .rne (f32Val a) (f32Val b))

def one32 : Word32 := 0x3F800000

/-- A small natural number as an exact value. -/
def natVal (n : Nat) : Val := .fin false (Mag.scaled n 0)

/-! ## `NORM` (R246) -/

/-- The norm of a list of elements: the fused sum of squares in order, then the root; invalid for a NaN value. -/
def normOf (es : List Elem) : Summed :=
  let r := es.foldl (fun (acc : Summed) e =>
    let p := e.times e
    let q := engineRound (Val.add .rne p (f32Val acc.1))
    (q.1, acc.2 ||| q.2 ||| (if p.isNan then flInvalid else noFlags))) (0, noFlags)
  let q := engineRound (Val.sqrt (f32Val r.1))
  (q.1, r.2 ||| q.2)

/-- The ladle is held by another core's `SMM` (R244). -/
def State.ladleHeld (s : State) (k : Nat) : Bool :=
  match (s.tile (coreTile k)).smm with
  | some j => j != k
  | none => false

/-- R246. -/
def State.normStep (s : State) (k : Nat) (d : Cmd) : State :=
  let ha := d.hs.getD 0 0
  let hb := d.hs.getD 1 0
  let n := hCols ha
  match (s.blockMarked k ha 0 32 0 n).or (s.blockMarked k hb 0 n 0 32) with
  | some a => s.killCmd k d (ownVa k a)
  | none =>
    let as := (List.range n).map fun c => normOf ((List.range 32).map fun r => s.elemOf k ha r c)
    let bs := (List.range n).map fun r => normOf ((List.range 32).map fun c => s.elemOf k hb r c)
    let fl := (as ++ bs).foldl (fun (f : Flags) (r : Summed) => f ||| r.2) noFlags
    let s := s.onTile (coreTile k) fun v => { v with ladle := { v.ladle with
      owner := some k, stage := .normed, k := n, nA := as.map Prod.fst, nB := bs.map Prod.fst } }
    (s.onCore k fun c => c.raise fl).retireCmd k d

/-! ## `ALIAS` (R248) -/

/-- Fix(w): w · 2^32 rounded to the nearest even and clamped. -/
def fix32 (w : Word32) : Nat :=
  match f32Val w with
  | .fin false m =>
    let n := m.n * 2 ^ 32
    let q := n / m.d
    let r := n % m.d
    min (if 2 * r > m.d || (2 * r == m.d && q % 2 == 1) then q + 1 else q) 0xFFFFFFFF
  | _ => 0

/-- The table under construction: the weights, thresholds, aliases and the two stacks, their tops first. -/
structure Building where
  w : List Word32
  thr : List Word32
  al : List Nat
  small : List Nat
  large : List Nat
  fl : Flags
deriving DecidableEq, Repr

/-- Is w below 1? -/
def below1 (w : Word32) : Bool := decide (Val.cmp (f32Val w) (f32Val one32) < 0)

/-- The pairing loop; each turn takes one column off the small stack. -/
def pairColumns : Nat → Building → Building
  | 0, b => b
  | fuel + 1, b =>
    match b.small, b.large with
    | sm :: small, l :: large =>
      let ws := b.w.getD sm 0
      let sum := Val.add .rne (Val.add .rne (f32Val (b.w.getD l 0)) (f32Val ws)).1 (f32Val 0xBF800000)
      let r := engineRound sum
      let b := { b with w := b.w.set l r.1, thr := b.thr.set sm (BitVec.ofNat 32 (fix32 ws)), al := b.al.set sm l,
                        fl := b.fl ||| r.2 }
      pairColumns fuel (if below1 r.1 then { b with small := l :: small, large := large }
        else { b with small := small, large := l :: large })
    | _, _ => b

/-- What the columns left on the stacks take. -/
def leftColumns (f : Nat) (b : Building) : Building :=
  let full (b : Building) (l : Nat) : Building := { b with thr := b.thr.set l 0xFFFFFFFF, al := b.al.set l l }
  let b := b.large.foldl full b
  b.small.foldl (fun b i =>
    if decide (0 < Val.cmp (f32Val (b.w.getD i 0)) (f32Val 0)) then full b i
    else { b with thr := b.thr.set i 0, al := b.al.set i f }) b

/-- The lowest index of the greatest weight. -/
def greatest (ws : List Word32) : Nat :=
  (ws.zipIdx.foldl (fun (m : Nat × Word32) e => if 0 < Val.cmp (f32Val e.1) (f32Val m.2) then (e.2, e.1) else m)
    (0, ws.getD 0 0)).1

/-- Sums of a list in order. -/
def sum32 (xs : List Word32) : Summed :=
  xs.foldl (fun acc x => let r := add32 acc.1 x; (r.1, acc.2 ||| r.2)) (0, noFlags)

/-- The alias table of products `x` with a finite sum `sum` that is not 0. -/
def buildTable (x : List Word32) (sum : Word32) : Building × List Word32 :=
  let k := x.length
  let ws := x.map fun v => engineRound (Val.div (Val.mul (natVal k) (f32Val v)).1 (f32Val sum))
  let gs := x.map fun v => if (f32Val v).isZero then ((0, noFlags) : Summed)
    else engineRound (Val.div (f32Val sum) (Val.mul (natVal 32) (f32Val v)).1)
  let w := ws.map Prod.fst
  let idx := List.range k
  let b : Building := {
    w := w, thr := List.replicate k 0, al := List.replicate k 0,
    small := (idx.filter fun i => below1 (w.getD i 0)).reverse,
    large := (idx.filter fun i => !below1 (w.getD i 0)).reverse,
    fl := (ws ++ gs).foldl (fun (f : Flags) (r : Summed) => f ||| r.2) noFlags }
  (leftColumns (greatest w) (pairColumns (2 * k) b), gs.map Prod.fst)

/-- R248. -/
def State.aliasStep (s : State) (k : Nat) (d : Cmd) : State :=
  let t := coreTile k
  let v := (s.tile t).ladle
  if v.owner ≠ some k ∨ v.stage = .empty then (s.onCore k fun c => c.raise flInvalid).retireCmd k d
  else
    let xs := (v.nA.zip v.nB).map fun p => mul32 p.1 p.2
    let x := xs.map Prod.fst
    let sum := sum32 x
    let fl := xs.foldl (fun (f : Flags) (r : Summed) => f ||| r.2) sum.2
    let put (l : Ladle) (f : Flags) : State :=
      ((s.onTile t fun v => { v with ladle := l }).onCore k fun c => c.raise f).retireCmd k d
    let v := { v with x := x, s := sum.1 }
    match f32Val sum.1 with
    | .fin _ m =>
      if m.isZero then put { v with stage := .zero } fl
      else
        let b := buildTable x sum.1
        put { v with stage := .built, thr := b.1.thr, al := b.1.al, g := b.2 } (fl ||| b.1.fl)
    | _ => put { v with stage := .invalid } (fl ||| flInvalid)

/-! ## `SMM` (R249 to R254) -/

/-- The index of draw `n` (R249). DEDUCED, Assumption 18. -/
def drawIndex (v : Ladle) (key ctr : Word) (n : Nat) : Nat :=
  let u := rngWord key (ctr + BitVec.ofNat 64 n)
  let i := (fld u 32 32).toNat * v.k / 2 ^ 32
  if fld u 0 32 < v.thr.getD i 0 then i else v.al.getD i 0

/-- Write the status word and complete; the second word is written last (R253, R254). -/
def State.smmEnd (s : State) (k : Nat) (d : Cmd) (n : Nat) (f v : Word32) (b reason : Nat) : State :=
  let key := storeBase k + cf d.w 224 20
  let w := n + f.toNat * 2 ^ 32 + v.toNat * 2 ^ 64 + b * 2 ^ 96 + reason * 2 ^ 112
  let s := (s.engineWrite key (toBytes 8 (w % 2 ^ 64)) true).engineWrite (key + 8) (toBytes 8 (w / 2 ^ 64)) true
  (s.onTile (coreTile k) fun v => { v with smm := none }).retireCmd k d

/-- The batch pass of R252: the words of acc d after it, with the flags. -/
def State.smmPass (s : State) (k : Nat) (d : Cmd) (ks : List Nat) (old : List Word32) : List Summed :=
  let g := (s.tile (coreTile k)).ladle.g
  let rows := (List.range 32).map fun r => ks.map fun c => s.elemOf k (d.hs.getD 0 0) r c
  let cols := (List.range 32).map fun c => ks.map fun r => s.elemOf k (d.hs.getD 1 0) r c
  let gs := ks.map fun i => f32Val (g.getD i 0)
  old.mapIdx fun e w =>
    addGroup w ((((rows.getD (e / 32) []).zip (cols.getD (e % 32) [])).zip gs).map fun p =>
      (Val.mul (p.1.1.times p.1.2) p.2).1)

/-- F of R252: the fused sum of the squares of word / b. -/
def smmF (ws : List Word32) (b : Nat) : Summed :=
  ws.foldl (fun acc w =>
    let q := engineRound (Val.div (f32Val w) (natVal b))
    let r := engineRound (Val.fma .rne (f32Val q.1) (f32Val q.1) (f32Val acc.1))
    (r.1, acc.2 ||| q.2 ||| r.2)) (0, noFlags)

/-- V of R252. -/
def smmV (sum f : Word32) (n : Nat) : Summed :=
  let ss := mul32 sum sum
  let df := engineRound (Val.add .rne (f32Val ss.1) (f32Val f).neg)
  let v := engineRound (Val.div (f32Val df.1) (natVal n))
  (v.1, ss.2 ||| df.2 ||| v.2)

/-- One batch of a running `SMM`, with its stop decision. -/
def State.smmBatch (s : State) (k : Nat) (d : Cmd) : State :=
  let t := coreTile k
  let a := cf d.w 16 3
  let v := (s.tile t).ladle
  let key := s.key k 1 (BitVec.ofNat 32 (cf d.w 32 32))
  let ks := (List.range 32).map fun i => drawIndex v key (BitVec.ofNat 64 (cw1 d.w)) (d.prog.k + i)
  match (ks.findSome? fun c => s.blockMarked k (d.hs.getD 0 0) 0 32 c 1).or
      (ks.findSome? fun r => s.blockMarked k (d.hs.getD 1 0) r 1 0 32) with
  | some m => s.killCmd k d (ownVa k m)
  | none =>
    let old := if d.prog.batch = 0 ∧ cf d.w 19 1 = 1 then List.replicate 1024 0 else (s.tile t).words a
    let rs := s.smmPass k d ks old
    let ws := rs.map Prod.fst
    let n := d.prog.k + 32
    let b := d.prog.batch + 1
    let f := smmF ws b
    let w := smmV v.s f.1 n
    let tf := mul32 (BitVec.ofNat 32 (cf d.w 128 32)) f.1
    let fl := rs.foldl (fun (f : Flags) (r : Summed) => f ||| r.2) (f.2 ||| w.2 ||| (if cf d.w 160 16 ≤ b then tf.2 else noFlags))
    let stop := decide (cf d.w 160 16 ≤ b) && (!(f32Val w.1).isNan && !(f32Val tf.1).isNan
      && decide (Val.cmp (f32Val w.1) (f32Val tf.1) ≤ 0))
    let s := ((s.tally k 0 32768).onTile t fun v => (v.putWords a ws).putType a false).onCore k fun c => c.raise fl
    if stop || decide (cf d.w 192 22 ≤ n) then
      (s.onTile t fun v => v.putDivisor a b).smmEnd k d n f.1 w.1 b (if stop then 1 else 2)
    else s.onCmd k d.age fun c => { c with prog := { c.prog with k := n, batch := b, f := f.1, v := w.1 } }

/-- Start an `SMM` (R251), or run its next batch. -/
def State.smmStep (s : State) (k : Nat) (d : Cmd) : State :=
  let t := coreTile k
  let a := cf d.w 16 3
  let v := (s.tile t).ladle
  if d.started then s.smmBatch k d
  else if v.owner ≠ some k ∨ v.stage = .empty ∨ v.stage = .normed ∨ (v.stage = .built ∧ v.k ≠ hCols (d.hs.getD 0 0)) then
    (s.onCore k fun c => c.raise flInvalid).smmEnd k d 0 0 0 0 5
  else if v.stage = .invalid then (s.onCore k fun c => c.raise flInvalid).smmEnd k d 0 0x7FC00000 0x7FC00000 0 4
  else if v.stage = .zero then
    (s.onTile t fun v => ((v.putWords a (List.replicate 1024 0)).putType a false).putDivisor a 1).smmEnd k d 0 0 0 0 3
  else
    let s := (s.onTile t fun v => { v with smm := some k }).onCmd k d.age fun c => { c with started := true }
    s.smmBatch k { d with started := true }

/-! ## Arbitration (R46, R272) -/

/-- Can the head of a core's matrix queue use the engine now? An `MROT` that has multiplied waits for its neighbours (R211), one whose
compact has gone ends. -/
def State.matrixReady (s : State) (k : Nat) : Option Cmd :=
  match (s.core k).headOf .mxq with
  | none => none
  | some d =>
    let ready := if (s.core k).st = .saved then false
      else if d.opc = 0x11 then !d.started || decide (d.prog.k < cf d.w 48 16) || !s.rotates k d
      else if d.opc = 0x12 then d.prog.k == 0
      else if 0x18 ≤ d.opc then !s.ladleHeld k else true
    if ready then some d else none

/-- The first offset of a local operand that a supervisor has closed for the core (R346, R347). -/
def State.cmdClosed (s : State) (k : Nat) (d : Cmd) : Option Nat :=
  if s.closures.isEmpty then none
  else (((cmdHandles d.w).zip d.hs).filter fun e => e.1.isSome && isLocal e.2).findSome? fun e =>
    (extents e.2).findSome? fun x =>
      (List.range x.2).findSome? fun i => if s.closedFor (s.master k) (storeBase k + x.1 + i) then some (x.1 + i) else none

/-- One unit of grant to the command `d` at the head of core `k`'s queue. A refused access freezes the core that pushed it (R346): the
command ends there. DESIGN CHOICE, Assumption 89. -/
def State.matrixUnit (s : State) (k : Nat) (d : Cmd) : State :=
  match (if d.started then none else s.cmdClosed k d) with
  | some off => (s.refuseAt k (BitVec.ofNat 64 (windowVa (coreTile k) off)) d.pc).retireCmd k d
  | none =>
    if d.opc = 0x10 then s.mmaStep k d
    else if d.opc = 0x11 then s.mrotStep k d
    else if d.opc = 0x12 then s.drainStep k d
    else if d.opc = 0x13 then s.accStep k d
    else if d.opc = 0x18 then s.normStep k d
    else if d.opc = 0x19 then s.aliasStep k d
    else s.smmStep k d

/-- The cores of a tile whose heads can use its matrix engine. -/
def State.matrixCands (s : State) (u : Nat) : List Cand :=
  ((List.range 4).map (4 * u + ·)).filterMap fun j => (s.matrixReady j).map fun d =>
    { core := j, cls := s.eff j, weight := 1, credit := (s.core j).mcredit, age := d.age }

/-- The core that the matrix engine of a tile serves next, every weight 1, and the refills that takes (R225, R272). -/
def State.matrixPick (s : State) (u : Nat) : Option (Cand × Nat) := arbitrate (s.tile u).mstarve (s.matrixCands u)

/-- One grant of the matrix engine of tile `u`, when it goes to a command that `want` names. -/
def State.matrixGrant (s : State) (u : Nat) (want : Nat → Cmd → Bool) : State :=
  match s.matrixPick u with
  | none => s
  | some (w, refills) => match s.matrixReady w.core with
    | none => s
    | some d =>
      if want w.core d then
        let cs := s.matrixCands u
        let s := (s.charge (4 * u) (fun _ => 1) w refills fun f v => { v with mcredit := f v.mcredit }).onTile u fun v =>
          { v with mstarve := starveNext v.mstarve cs w }
        s.matrixUnit w.core d
      else s

/-- R272: the matrix engine of a tile serves one K-step, one `SMM` batch or one whole command of the core that R225 picks.
DESIGN CHOICE, Assumption 49. -/
def execMatrixKstepGrant (t : TileId) (s : State) : Out := .next (s.matrixGrant (tileNum t) fun _ _ => true)

/-- Up to `n` grants in a row to the command of age `age` of core `k`, while the engine picks it. -/
def State.runMatrix (k age : Nat) : Nat → State → State
  | 0, s => s
  | n + 1, s => runMatrix k age n (s.matrixGrant (coreTile k) fun j d => j == k && d.age == age)

/-- The grants that a command may take. -/
def Cmd.units (d : Cmd) : Nat :=
  if d.opc = 0x10 ∨ d.opc = 0x11 then
    let n := kStep d.fmtA (hFmt (d.hs.getD 1 0))
    (cf d.w 48 16 - d.prog.k + n - 1) / n
  else if d.opc = 0x1A then cf d.w 192 22 / 32 else 1

/-- Run the command at the head of core `k`'s matrix queue when it has opcode `op`, for as long as the engine picks it. DEDUCED,
Assumption 77. -/
def State.runHead (s : State) (k op : Nat) : State :=
  match (s.core k).matrixHead op with
  | some d => State.runMatrix k d.age d.units s
  | none => s

/-! ## The events of the matrix engine and the ladle -/

/-- R209. -/
def execMma (c : CoreId) (s : State) : Out := .next (s.runHead (coreKey c) 0x10)

/-- R211. -/
def execMrot (c : CoreId) (s : State) : Out := .next (s.runHead (coreKey c) 0x11)

/-- R213: the drain itself is one grant; its absmax reduction and the wait for it follow. -/
def execDrain (c : CoreId) (s : State) : Out :=
  .next (match (s.core (coreKey c)).matrixHead 0x12 with
    | some d => if d.prog.k = 0 then s.runHead (coreKey c) 0x12 else s.drainStep (coreKey c) d
    | none => s)

/-- Run the `ACC` at the head when its fn is `fn`. -/
def State.runAcc (s : State) (k fn : Nat) : State :=
  match (s.core k).matrixHead 0x13 with
  | some d => if cf d.w 19 2 = fn then s.runHead k 0x13 else s
  | none => s

/-- R214, fn 0. -/
def execAccZero (c : CoreId) (s : State) : Out := .next (s.runAcc (coreKey c) 0)

/-- R214, fn 1. -/
def execAccLoad (c : CoreId) (s : State) : Out := .next (s.runAcc (coreKey c) 1)

/-- R214, fn 2. -/
def execAccAdd (c : CoreId) (s : State) : Out := .next (s.runAcc (coreKey c) 2)

/-- R214, fn 3. -/
def execAccMove (c : CoreId) (s : State) : Out := .next (s.runAcc (coreKey c) 3)

/-- R244, R246. -/
def execNorm (c : CoreId) (s : State) : Out := .next (s.runHead (coreKey c) 0x18)

/-- R244, R248. -/
def execAliasBuild (c : CoreId) (s : State) : Out := .next (s.runHead (coreKey c) 0x19)

/-- R251, R252. -/
def execSmm (c : CoreId) (s : State) : Out := .next (s.runHead (coreKey c) 0x1A)

end Machine
end Sys2Proof
end

