-- ==== Sys2Proof/Machine/Compact.lean ====
section
/-! DEFINITION. Compacts: the descriptor and its checks, `sign`, `xfer`, `sstep`, `dissolve` and the timeout of their barrier
(R282 to R290, R307 to R314). -/

namespace Sys2Proof
namespace Machine

/-! ## The descriptor (R282, R283) -/

/-- A descriptor as read: the header and the member entries. -/
structure Desc where
  hdr : Nat
  entries : List Nat
deriving DecidableEq, Repr

def Desc.id (d : Desc) : BitVec 16 := BitVec.ofNat 16 (getFld d.hdr 0 16)
def Desc.nm (d : Desc) : Nat := getFld d.hdr 16 6
def Desc.grid (d : Desc) : Nat := getFld d.hdr 22 2
def Desc.bid (d : Desc) : Nat := getFld d.hdr 24 6
def Desc.timeout (d : Desc) : Nat := getFld d.hdr 32 32
def Desc.poff (d : Desc) : Nat := getFld d.hdr 64 20
def Desc.plen (d : Desc) : Nat := getFld d.hdr 84 12

/-- The tile of a member entry. -/
def entryTile (e : Nat) : Nat := getFld e 10 10 * 1024 + getFld e 0 10

def Desc.tiles (d : Desc) : List Nat := d.entries.map entryTile

/-- Check 3 of R308. -/
def State.descBad (s : State) (d : Desc) : Bool :=
  getFld d.hdr 30 2 != 0 || getFld d.hdr 96 160 != 0 || d.plen == 0 || decide (1012 < d.plen) || d.poff % 1024 != 0
    || d.timeout == 0 || d.tiles.eraseDups.length != d.tiles.length
    || d.entries.any fun e =>
        getFld e 20 44 != 0 || getFld e 192 64 != 0 || s.nonMembers.contains (getFld e 10 10)
          || getFld e 64 64 % 1024 != 0 || !canonical (getFld e 64 64) || inWindow (getFld e 64 64)
          || getFld e 128 64 % 8 != 0

/-- Check 8: an aligned block of a quadrant holds none or all of its tiles as members. -/
def Desc.gridBad (d : Desc) : Bool :=
  let g := 2 ^ d.grid
  let block (t : Nat) : Nat := t / 64 * 64 + t % 64 / 8 / g * 8 + t % 8 / g
  d.grid != 0 && d.tiles.any fun t => (d.tiles.filter fun u => block u == block t).length != g * g

/-- Check 7, on the die of core `k`. -/
def State.barTaken (s : State) (k : Nat) (d : Desc) : Bool :=
  let b := s.bar (coreDieKey k) d.bid
  match b.kind with
  | .free => b.mask != 0
  | .compact id j => id != d.id || j != (s.core k).job
  | _ => true

/-- The member entry of the issuing core's tile. -/
def Desc.entryOf (d : Desc) (k : Nat) : Option Nat := d.entries.find? fun e => entryTile e == coreTile k

/-- Checks 1 to 4 of R308, then `body` with the descriptor and the tile's own entry. -/
def State.withDesc (s : State) (k : Nat) (va : Word) (body : Desc → Nat → State → State) : State :=
  if va.toNat % 32 != 0 then s.trap k causeAlign va
  else s.withBytes k va.toNat 32 fun bs s =>
    let hdr := leNat bs
    let n := getFld hdr 16 6 + 1
    s.withBytes k (va.toNat + 32) (32 * n) fun bs s =>
      let v := leNat bs
      let d : Desc := { hdr := hdr, entries := (List.range n).map fun i => getFld v (256 * i) 256 }
      if s.descBad d then s.trap k causeFormat va
      else match d.entryOf k with
        | none => s.trap k causeFormat va
        | some e => body d e s

/-- The trap of a break (R313): it clears the thread's knowledge of it; the record's aux is the descriptor address (R338). -/
def State.trapBroken (s : State) (k : Nat) (va : Word) : State :=
  let c := s.core k
  if c.settled then (s.onCore k fun c => { c with broken := false }).takeTrap k causeCompactBroken false c.pc va va
  else s.await k

/-- Is the thread the signing thread of its tile's compact under this id? -/
def State.signs (s : State) (k : Nat) (d : Desc) : Bool :=
  match (s.tile (coreTile k)).compact with
  | some c => c.id == d.id && c.signer == some k && c.job == (s.core k).job
  | none => false

/-! ## Arriving at the compact barrier -/

/-- The compact barrier's membership on die `e`. -/
def Compact.mask (c : Compact) (e : Nat) : BitVec 1024 :=
  (c.tiles.filter fun t => tileDieKey t == e).foldl (fun m t => m ||| BitVec.twoPow 1024 (coreBit (4 * t))) 0

/-- The first member of a die to pass check 7 makes bid a compact barrier (R308). -/
def State.claimBar (s : State) (k : Nat) (c : Compact) : State :=
  let e := coreDieKey k
  match (s.bar e c.bid.toNat).kind with
  | .free => s.onBar e c.bid.toNat fun _ =>
      { kind := .compact c.id c.job, phase := 0, mask := c.mask e, links := c.dies.filter (· != e), arrived := 0,
        since := none, clk := 0 }
  | _ => s

/-- Another compact of the job at the same barrier of a linked die whose values differ (R308). -/
def State.mismatch (s : State) (t : Nat) : Option Nat :=
  match (s.tile t).compact with
  | none => none
  | some c =>
    (s.tiles.find? fun e => match e.2.compact with
      | some o => o.job == c.job && o.bid == c.bid && c.dies.contains (tileDieKey e.1)
          && (o.id != c.id || o.nm != c.nm || o.grid != c.grid)
      | none => false).map (·.1)

/-- The tile arrives at its compact barrier and the thread waits on the token; values that differ break the compact: those of another
compact of the job there, or where `same` is false those of the instruction's own descriptor. -/
def State.arriveCompact (s : State) (k bid : Nat) (same : Bool) : State :=
  let t := coreTile k
  let p := s.phase k bid
  let s := s.arriveAt k (coreDieKey k) bid (coreBit (4 * t))
  let s := (s.await k).onCore k fun c => { c with token := some p }
  match s.mismatch t with
  | some u => (s.breakCompact u).breakCompact t
  | none => if same then s else s.breakCompact t

/-- An arrival carries nm, bid and grid of the descriptor that its instruction names; it is made at the barrier that the compact holds
(R308). DEDUCED, Assumption 108. -/
def Compact.agrees (c : Compact) (d : Desc) : Bool := c.nm.toNat == d.nm && c.bid.toNat == d.bid && c.grid.toNat == d.grid

/-! ## `sign` (R285, R309) -/

/-- The addresses of the pages that a member's own range touches. -/
def rangePages (pbase plen : Nat) : List Nat :=
  (List.range ((pbase + 1024 * plen + 65535) / 65536 - pbase / 65536)).map fun i => max pbase ((pbase / 65536 + i) * 65536)

/-- Check 9: the first page of the range that cannot be read and written. -/
def State.rangeCheck (s : State) (k : Nat) : List Nat → State × Option Failed
  | [] => (s, none)
  | a :: as =>
    let r := s.engineAt k a .rw
    match r.2 with
    | .key _ => r.1.rangeCheck k as
    | .fault c => (r.1, some { grip := .fault c, va := a })
    | w => (r.1, some { grip := w, va := a })

/-- Step 4 of R285 for one sector: ownership at the home, a timestamp past every lease, the bytes with their marks and with what their
writers knew (R294). -/
def State.pinSector (s : State) (k key off : Nat) : State :=
  let t := coreTile k
  let s := (s.gather key 1024).recall key
  let bs := s.read key 1024
  let bad := (List.range 128).filter fun i => s.isMarked (key + 8 * i)
  let wts := (s.sector (key / 1024)).wts
  let s := (s.grant k key).1
  let s := ((s.store (tileKey t off) bs).setFulls (tileKey t off) 1024 true).stampAt (tileKey t off) 1024 wts
  let s := bad.foldl (fun u i => u.setMark (tileKey t off + 8 * i) true) s
  s.onSector (key / 1024) fun e => { e with owner := some t, pinned := true }

/-- The physical sectors of a range with their tile-store offsets. -/
def State.rangeSectors (s : State) (k pbase poff plen : Nat) : List (Nat × Nat) :=
  (List.range plen).filterMap fun i => match (s.resolve k (pbase + 1024 * i) .rw).2 with
    | some key => some (key / 1024, poff + 1024 * i)
    | none => none

/-- The compact that a descriptor names, for the tile whose own entry is `e`. -/
def Desc.compact (d : Desc) (va : Word) (j : Job) (k team : Nat) (secs : List (Nat × Nat)) : Compact :=
  let member (e : Nat) : Member :=
    { pkg := getFld e 10 10, tile := getFld e 0 10, pbase := BitVec.ofNat 64 (getFld e 64 64),
      xprog := BitVec.ofNat 64 (getFld e 128 64) }
  { id := d.id, nm := BitVec.ofNat 6 d.nm, grid := BitVec.ofNat 2 d.grid, bid := BitVec.ofNat 6 d.bid, timeout := d.timeout,
    poff := d.poff, plen := d.plen, desc := va, job := j, signer := some k, team := team, members := d.entries.map member,
    pinned := secs, signed := false, window := false, held := [] }

/-- Steps 2 to 6 of R285: a new compact, of which the thread has no break to report. -/
def State.signTile (s : State) (k : Nat) (c : Compact) : State :=
  let t := coreTile k
  let s := s.flushCache t
  let end0 := (s.tile t).scratchEnd
  let s := s.zeroRange (tileKey t end0) (0x100000 - end0)
  let s := c.pinned.foldl (fun u p => u.pinSector k (p.1 * 1024) p.2) s
  let s := s.onTile t fun v => { v with compact := some c, signing := none, desc := c.desc, rots := 0, arriving := [], rotated := [] }
  (s.onCore k fun c => { c with broken := false }).arriveCompact k c.bid.toNat true

/-- A `sign` that has passed its checks: it waits for its release and for sectors that another compact pins. -/
def State.signOn (s : State) (k : Nat) (c : Compact) : State :=
  if c.pinned.any (fun p => (s.sector p.1).pinned) || !s.released k s.seq .pod then s.await k else s.signTile k c

/-- Checks 5 to 9 of `sign`, and the claim of bid that check 7 makes (R308). -/
def State.signChecked (s : State) (k : Nat) (va : Word) (d : Desc) (e : Nat) : State :=
  let t := coreTile k
  if (s.tile t).compact.isSome || (s.tile t).signing.isSome then s.trap k causeFormat va
  else if d.poff < (s.tile t).scratchEnd ∨ 0x100000 < d.poff + 1024 * d.plen then s.trap k causeFormat va
  else if s.barTaken k d || d.gridBad then s.trap k causeFormat va
  else
    let r := s.rangeCheck k (rangePages (getFld e 64 64) d.plen)
    match r.2 with
    | some f => r.1.readFailed k f va
    | none =>
      let s := r.1
      let c := d.compact va (s.core k).job k (s.core k).base.toNat (s.rangeSectors k (getFld e 64 64) d.poff d.plen)
      ((s.claimBar k c).onTile t fun v => { v with signing := some c }).signOn k c

/-- R285: the checks, the conversion and the arrival; then the wait for every member. -/
def execSign (g : Guard) (ra : XReg) (s : State) : Out :=
  .next (s.issue (.sign g ra) fun k s =>
    let va := (s.core k).rx ra
    let t := coreTile k
    match (s.core k).token with
    | some p =>
      if (s.core k).broken then s.trapBroken k va
      else match (s.tile t).compact with
        | some c =>
          if c.signer ≠ some k then s.finish k
          else if s.phase k c.bid.toNat = p then s.await k
          else ((s.onTile t fun v => { v with compact := some { c with signed := true } }).acquireBar k c.bid.toNat).finish k
        | none => s.finish k
    | none => match (s.tile t).signing with
      | some c => if c.signer = some k then s.signOn k c else s.withDesc k va fun _ _ u => u.trap k causeFormat va
      | none => s.withDesc k va fun d e u => u.signChecked k va d e)

/-! ## The other three share check 5 (R308) -/

/-- Checks 1 to 5; a break that the thread has not yet seen comes before check 5. -/
def State.withCompact (s : State) (k : Nat) (va : Word) (body : Compact → Desc → Nat → State → State) : State :=
  s.withDesc k va fun d e s =>
    if (s.core k).broken then s.trapBroken k va
    else match (s.tile (coreTile k)).compact with
      | some c => if s.signs k d then body c d e s else s.trap k causeFormat va
      | none => s.trap k causeFormat va

/-! ## `xfer` (R284, R286, R311) -/

/-- An entry of a transfer program that breaks R311. -/
def xferBad (nm : Nat) (w : Word) : Bool :=
  let n := (fld w 48 16).toNat
  let src := (fld w 0 20).toNat
  let dst := (fld w 20 20).toNat
  w.getLsbD 47 || n == 0 || decide (nm < (fld w 40 6).toNat) || src % 8 != 0 || dst % 8 != 0
    || decide (src < 0x3000) || decide (dst < 0x3000) || decide (0x100000 < src + 8 * n) || decide (0x100000 < dst + 8 * n)

/-- What reading a transfer program gives: its entries, a failed read, or the address of a bad entry. -/
inductive Program where
  | ok (ws : List Word)
  | failed (f : Failed)
  | bad (va : Nat)
deriving DecidableEq, Repr

/-- Read and check a program of at most `fuel` entries. -/
def State.readProgram (s : State) (k nm : Nat) : Nat → Nat → State × Program
  | va, 0 => (s, .bad va)
  | va, fuel + 1 =>
    let r := s.readMem k va 8
    match r.2 with
    | .error f => (r.1, .failed f)
    | .ok g =>
      let w : Word := BitVec.ofNat 64 (leNat g.1)
      if xferBad nm w then (r.1, .bad va)
      else if w.getLsbD 46 then (r.1, .ok [w])
      else
        let q := r.1.readProgram k nm (va + 8) fuel
        (q.1, match q.2 with | .ok ws => .ok (w :: ws) | p => p)

/-- The handle of `n` bytes: one row of bytes, or rows of 8. -/
def bytesHandle (base n space : Nat) : Wide :=
  let rows := if n < 2 ^ 16 then 1 else n / 8
  let cols := if n < 2 ^ 16 then n else 8
  BitVec.ofNat 256 (base + rows * 2 ^ 64 + cols * 2 ^ 80 + cols * 2 ^ 96 + 9 * 2 ^ 192 + space * 2 ^ 197)

/-- Push the copies of a transfer program, each to its receiver's tile, waiting for a free entry before each (R286). -/
def State.pushPlan (s : State) (k : Nat) : List (Word × Nat) → State
  | [] => s.finish k
  | (w, t) :: ws =>
    if s.queueFull k .cpq then (s.await k).onCore k fun c => { c with plan := (w, t) :: ws }
    else
      let n := 8 * (fld w 48 16).toNat
      let hd := bytesHandle (windowVa t (fld w 20 20).toNat) n 1
      (s.accept k .cpq 1 [hd, bytesHandle (fld w 0 20).toNat n 0] (s.core k).pc true).pushPlan k ws

/-- R286, R311: it closes the boundary window. -/
def execXfer (g : Guard) (ra : XReg) (s : State) : Out :=
  .next (s.issue (.xfer g ra) fun k s =>
    let va := (s.core k).rx ra
    match (s.core k).plan with
    | w :: ws => if (s.core k).broken then s.trapBroken k va else s.pushPlan k (w :: ws)
    | [] => s.withCompact k va fun _ d e s =>
      let r := s.readProgram k d.nm (getFld e 128 64) 4097
      match r.2 with
      | .failed f => r.1.readFailed k f va
      | .bad a => r.1.trap k causeFormat (BitVec.ofNat 64 a)
      | .ok ws => (r.1.shutWindow k).pushPlan k (ws.map fun w => (w, d.tiles.getD (fld w 40 6).toNat 0)))

/-! ## `sstep` (R287) -/

/-- Has every copy that `xfer` pushed on the tile completed? -/
def State.transfersDone (s : State) (t : Nat) : Bool :=
  (List.range 4).all fun i => (s.core (4 * t + i)).cmds.all fun d => !d.xfer

/-- R287, R288: completion opens the boundary window and serves what is held. -/
def execSstep (g : Guard) (ra : XReg) (s : State) : Out :=
  .next (s.issue (.sstep g ra) fun k s =>
    let va := (s.core k).rx ra
    let t := coreTile k
    match (s.core k).token with
    | some p =>
      if (s.core k).broken then s.trapBroken k va
      else match (s.tile t).compact with
        | some c =>
          if c.signer ≠ some k then s.finish k
          else if s.phase k c.bid.toNat = p then s.await k
          else ((((s.onTile t fun v => { v with compact := some { c with window := true } }).serveHeld t).acquireBar k
            c.bid.toNat).finish k)
        | none => s.finish k
    | none => s.withCompact k va fun c d _ s =>
      if !s.transfersDone t || !s.released k s.seq .pod then s.await k else s.arriveCompact k c.bid.toNat (c.agrees d))

/-! ## `dissolve` (R290) -/

/-- Steps 1 to 4 of R290 at every member, under one T_f, and the barrier is free. DESIGN CHOICE, Assumption 53. -/
def State.dissolveAll (s : State) (c : Compact) : State :=
  (s.releaseAll (s.joined c)).freeBar c

/-- R290. -/
def execDissolve (g : Guard) (ra : XReg) (s : State) : Out :=
  .next (s.issue (.dissolve g ra) fun k s =>
    let va := (s.core k).rx ra
    let t := coreTile k
    match (s.core k).token with
    | some p =>
      if (s.core k).broken then s.trapBroken k va
      else match (s.tile t).compact with
        | some c =>
          if c.signer ≠ some k then s.finish k
          else if s.phase k c.bid.toNat = p then s.await k else (s.dissolveAll c).finish k
        | none => s.finish k
    | none => s.withCompact k va fun c d _ s =>
      if !s.released k s.seq .pod then s.await k else s.arriveCompact k c.bid.toNat (c.agrees d))

/-- R289, R312: a die's count of the current phase has reached the timeout of the compact that holds the barrier. -/
def execCompactTimeout (d : DieId) (bid : BitVec 6) (s : State) : Out :=
  .next (
    let e := dieKey d.pkg.toNat d.die.toNat
    let b := s.bar e bid.toNat
    match b.kind, b.since with
    | .compact id j, some t0 =>
      (match s.tiles.find? fun x => tileDieKey x.1 == e && (match x.2.compact with
          | some c => c.id == id && c.job == j && decide (t0 + c.timeout * 1024 ≤ s.time)
          | none => false) with
        | some x => if s.phaseReady e bid.toNat then s else s.breakCompact x.1
        | none => s)
    | _, _ => s)

end Machine
end Sys2Proof
end

