-- ==== Sys2Proof/Machine/Image.lean ====
section
/-! DEFINITION. The state that a job leaves on a tile: the tile image of saved threads (R279), and the tile store of ended ones
(R18). -/

namespace Sys2Proof
namespace Machine

/-! ## The ladle's bytes -/

/-- The code of a stage. -/
def LadleStage.code : LadleStage → Nat
  | .empty => 0
  | .normed => 1
  | .built => 2
  | .zero => 3
  | .invalid => 4

def stageOf (n : Nat) : LadleStage :=
  match n with
  | 0 => .empty
  | 1 => .normed
  | 2 => .built
  | 3 => .zero
  | _ => .invalid

/-- The ladle's bytes; owner, stage and K share the first 8 at [31:0], [39:32] and [63:48] (DESIGN CHOICE, Assumption 26). -/
def Ladle.image (v : Ladle) : List Byte :=
  toBytes 8 ((match v.owner with | some o => o | none => 2 ^ 32 - 1) + v.stage.code * 2 ^ 32 + v.k * 2 ^ 48)
    ++ toBytes 4 v.s.toNat ++ toBytes 4 0
    ++ (List.range v.k).flatMap fun i =>
      [(v.nA.getD i 0).toNat, (v.nB.getD i 0).toNat, (v.x.getD i 0).toNat, (v.thr.getD i 0).toNat, (v.g.getD i 0).toNat,
        v.al.getD i 0].flatMap (toBytes 4)

/-- The ladle as its bytes at `a` give it. -/
def State.ladleAt (s : State) (a : Nat) : Ladle :=
  let h := s.readNat a 8
  let n := getFld h 48 16
  let col (i : Nat) : List Nat := (List.range n).map fun j => s.readNat (a + 16 + 24 * j + 4 * i) 4
  let words (i : Nat) : List Word32 := (col i).map (BitVec.ofNat 32)
  { owner := if getFld h 0 32 = 2 ^ 32 - 1 then none else some (getFld h 0 32), stage := stageOf (getFld h 32 8), k := n,
    nA := words 0, nB := words 1, x := words 2, s := BitVec.ofNat 32 (s.readNat (a + 8) 4), thr := words 3, al := col 5,
    g := words 4 }

/-! ## The tile image (R279) -/

/-- The listed bytes of a range, by offset. -/
def State.cellsOf (s : State) (src n : Nat) : List Host.Cell :=
  (s.mem.filter fun e => decide (src ≤ e.1) && decide (e.1 < src + n)).map fun e => (e.1 - src, e.2)

/-- A tile store, or its image, at `dst` comes to hold listed bytes. The four bytes of p0, always 1 (R93), are written too: an image
has no such byte by itself. -/
def State.putCells (s : State) (dst n : Nat) (cells : List Host.Cell) : State :=
  let rest := s.mem.filter fun e => !(decide (dst ≤ e.1) && decide (e.1 < dst + n))
  let m := cells.foldl (fun m e => memPut m (dst + e.1) e.2) rest
  { s with mem := [0, 0x400, 0x800, 0xC00].foldl (fun m o => memPut m (dst + o) (memGet m (dst + o) ||| 1)) m }

/-- The indices of a bit map that stand in a range of words from `w`. -/
def bitsIn (m : SMap Bool) (w n : Nat) : List Nat := (m.filter fun e => decide (w ≤ e.1) && decide (e.1 < w + n)).map fun e => e.1 - w

/-- Write bit indices as a bit map of `n` bytes at `a`. -/
def State.putBits (s : State) (a n : Nat) (is : List Nat) : State :=
  let s := { s with mem := s.mem.filter fun e => !(decide (a ≤ e.1) && decide (e.1 < a + n)) }
  is.foldl (fun u i => u.write (a + i / 8) [memGet u.mem (a + i / 8) ||| BitVec.twoPow 8 (i % 8)]) s

/-- The bit indices of a bit map of `n` bytes at `a`. -/
def State.getBits (s : State) (a n : Nat) : List Nat :=
  (s.mem.filter fun e => decide (a ≤ e.1) && decide (e.1 < a + n)).flatMap fun e =>
    ((List.range 8).filter fun i => e.2.getLsbD i).map (8 * (e.1 - a) + ·)

/-- Write the job state of a tile to its image, and leave the tile as no job's; a job that comes next finds 0 in the store, arrival
objects included (DESIGN CHOICE, Assumption 93). -/
def State.swapOut (s : State) (t : Nat) (j : Job) : State :=
  let a := s.imageAt t j
  let v := s.tile t
  let w := tileKey t 0 / 8
  let s := s.flushCache t
  let s := s.putCells a 0x100000 (s.cellsOf (tileKey t 0) 0x100000)
  let s := s.putBits (a + 0x100000) 0x4000 (bitsIn s.full w 0x20000)
  let s := s.putBits (a + 0x104000) 0x4000 (bitsIn s.marks w 0x20000)
  let s := (List.range 8).foldl (fun u i => u.write (a + 0x108000 + 4096 * i) ((v.words i).flatMap fun x => toBytes 4 x.toNat)) s
  let s := s.write (a + 0x110000) (toBytes 8 v.tsplit.toNat ++ toBytes 8 v.accsplit.toNat ++ toBytes 8 v.vshare.toNat
    ++ toBytes 8 v.accTy.toNat ++ (List.range 8).flatMap fun i => toBytes 4 (v.divisor i))
  let s := s.write (a + 0x110040) v.ladle.image
  (s.zeroRange (tileKey t 0) 0x100000).onTile t fun v =>
    { v with job := none, images := v.images ++ [j], acc := [], accTy := 0, accDiv := [], ladle := Ladle.idle }

/-- Bring the job state of a tile back. -/
def State.swapIn (s : State) (t : Nat) (j : Job) : State :=
  let a := s.imageAt t j
  let w := tileKey t 0 / 8
  let s := s.flushCache t
  let full := s.getBits (a + 0x100000) 0x4000
  let marks := s.getBits (a + 0x104000) 0x4000
  let s := (s.zeroRange (tileKey t 0) 0x100000).putCells (tileKey t 0) 0x100000 (s.cellsOf a 0x100000)
  let s := full.foldl (fun u i => { u with full := u.full.put (w + i) true }) s
  let s := marks.foldl (fun u i => { u with marks := u.marks.put (w + i) true }) s
  let words (i : Nat) : List Word32 := (List.range 1024).map fun n => BitVec.ofNat 32 (s.readNat (a + 0x108000 + 4096 * i + 4 * n) 4)
  let reg (i : Nat) : Word := BitVec.ofNat 64 (s.readNat (a + 0x110000 + 8 * i) 8)
  let put (v : Tile) : Tile := (List.range 8).foldl (fun v i =>
    (v.putWords i (words i)).putDivisor i (s.readNat (a + 0x110020 + 4 * i) 4)) v
  let back (v : Tile) : Tile := { put v with
    job := some j, images := v.images.filter (· != j), tsplit := reg 0, accsplit := reg 1, vshare := reg 2,
    accTy := fld (reg 3) 0 8, ladle := s.ladleAt (a + 0x110040) }
  s.onTile t back

/-- The tile store of a job whose threads have all ended is kept (R18), and the tile is no job's: accumulators and ladle are cleared
(R204, R243). DESIGN CHOICE, Assumption 92. -/
def State.keepStore (s : State) (t : Nat) (j : Job) : State :=
  let w := tileKey t 0 / 8
  let e : Kept := { job := j, tsplit := (s.tile t).tsplit, cells := s.cellsOf (tileKey t 0) 0x100000,
                    full := bitsIn s.full w 0x20000, marks := bitsIn s.marks w 0x20000 }
  ((s.flushCache t).zeroRange (tileKey t 0) 0x100000).onTile t fun v =>
    { v with job := none, kept := v.kept.filter (·.job != j) ++ [e], acc := [], accTy := 0, accDiv := [], ladle := Ladle.idle }

/-- A job without a tile image comes to a tile: it finds the store that it left there (R18); one that has left none finds what the
tile holds, which is 0 where another job has left it (DESIGN CHOICE, Assumption 93). A job is known by partition and context number: one
created anew under the number of a destroyed context finds what the earlier one left (DESIGN CHOICE, Assumption 92). -/
def State.takeStore (s : State) (t : Nat) (j : Job) : State :=
  let w := tileKey t 0 / 8
  let s := match (s.tile t).kept.find? (·.job == j) with
    | some e =>
      let s := ((s.flushCache t).zeroRange (tileKey t 0) 0x100000).putCells (tileKey t 0) 0x100000 e.cells
      let s := e.full.foldl (fun (u : State) i => { u with full := u.full.put (w + i) true }) s
      let s := e.marks.foldl (fun (u : State) i => { u with marks := u.marks.put (w + i) true }) s
      s.onTile t fun v => { v with tsplit := e.tsplit, kept := v.kept.filter (·.job != j) }
    | none => s
  s.onTile t fun v => { v with job := some j }

/-- A tile comes to hold the state of job `j`: the present job's makes way, to its image where saved threads of it are to go on (R279),
and `j`'s comes back from its image or as it was left. -/
def State.bringIn (s : State) (t : Nat) (j : Job) : State :=
  if (s.tile t).job = some j then s
  else
    let s := match (s.tile t).job with
      | some i => if s.tileBusy t i then s.swapOut t i else s.keepStore t i
      | none => s
    if (s.tile t).images.contains j then s.swapIn t j else s.takeStore t j

end Machine
end Sys2Proof
end

