-- ==== Sys2Proof/Machine/Launch.lean ====
section
/-! DEFINITION. Launch records and queues, `spawn`, `join`, `LAUNCH`, the host's tail write, taking a record and placing its team
(R15, R24, R26, R30 to R34, R262 to R268). -/

namespace Sys2Proof
namespace Machine

/-! ## Launch records (R15) -/

/-- A field of a record. -/
def rf (r : BitVec 512) (lo n : Nat) : Nat := getFld r.toNat lo n

def recEntry (r : BitVec 512) : Nat := rf r 0 64
def recSize (r : BitVec 512) : Nat := rf r 64 16
def recTile (r : BitVec 512) : Nat := rf r 80 10
def recPin (r : BitVec 512) : Bool := rf r 90 1 == 1
def recCap (r : BitVec 512) : Nat := rf r 91 2
def recArgs (r : BitVec 512) : Nat := rf r 128 64
def recDone (r : BitVec 512) : Nat := rf r 192 64

/-- The class that the team's threads start with (R31). -/
def recClass (r : BitVec 512) : Nat := min 1 (recCap r)

/-- How many tiles the team takes (R30). -/
def recTiles (r : BitVec 512) : Nat := (recSize r + 3) / 4

/-- The key that an address of a job names, by the walk alone. -/
def State.mapped (s : State) (pkg : Nat) (j : Job) (va : Nat) (need : Need) : Option Nat :=
  if inWindow va then
    if need == .ex || s.nonMembers.contains (va / 2 ^ 30 % 1024) then none
    else some (tileKey (va / 2 ^ 30 % 1024 * 1024 + va / 2 ^ 20 % 1024) (va % 2 ^ 20))
  else if !canonical va then none
  else match s.pageWalk pkg j va with
    | none => none
    | some e =>
      let pa := e.pa + (va % 2 ^ 57 - e.va)
      if e.permits need && s.backed pa then some pa else none

/-- The completion counter of a record whose done passes its checks. -/
def State.doneKey (s : State) (pkg : Nat) (j : Job) (r : BitVec 512) : Option Nat :=
  if recDone r % 8 = 0 then s.mapped pkg j (recDone r) .wr else none

/-- The checks of R264. -/
def State.recordOk (s : State) (pkg part : Nat) (j : Job) (r : BitVec 512) : Bool :=
  rf r 93 35 == 0 && rf r 256 256 == 0 && recEntry r % 8 == 0 && (s.mapped pkg j (recEntry r) .ex).isSome
    && (s.doneKey pkg j r).isSome && decide (1 ≤ recSize r ∧ recSize r ≤ 4096)
    && (!recPin r || (List.range (recTiles r)).all fun i =>
        decide (recTile r + i < 1024) && s.partOf pkg ((recTile r + i) / 256) == part)

/-- May a store change the bytes at a key: in DRAM, or in the scratch range of a tile (R142, R151)? -/
def State.storable (s : State) (key : Nat) : Bool :=
  isDram key || (decide (0x3000 ≤ keyOff key) && decide (keyOff key < (s.tile (keyTile key)).scratchEnd))

/-- What is written at a key is known to its readers with all that was known at clock `clk` (R297). -/
def State.publish (s : State) (key clk : Nat) : State :=
  match s.pinnedAt key with
  | some t => s.stampAt (s.pinnedKey t key) 8 clk
  | none =>
    if isDram key then s.onSector (key / 1024) fun e => { e with wts := max e.wts clk, rts := max e.rts clk }
    else s.stampAt key 8 clk

/-- Add to a completion counter in one indivisible update that releases what was known at `clk` (R16, R264). A counter where no
store can be is not changed. DEDUCED, Assumption 97. -/
def State.addDone (s : State) (key n clk : Nat) : State :=
  if s.storable key then
    let r := s.engineRead none key 8
    (r.1.engineWrite key (toBytes 8 ((leNat r.2 + n) % 2 ^ 64)) false).publish key clk
  else s

/-- What a failed team adds (R264, R339). -/
def failedTeam : Nat := 2 ^ 63 + 1

/-- A record that fails: its counter, where done passes, and the report to the partition's supervisor (R264, R338).
DESIGN CHOICE, Assumption 35. -/
def State.refuseRecord (s : State) (pkg part : Nat) (j : Job) (r : BitVec 512) (lcn aux : Nat) : State :=
  let s := match s.doneKey pkg j r with
    | some key => s.addDone key failedTeam 0
    | none => s
  s.record (s.partDie pkg part) lcn j causeLaunchRefused recReport 0 0 0 (s.pcore lcn) (BitVec.ofNat 64 aux)

/-! ## Launch queues (R262) -/

/-- Where a queue's descriptor stands, and its 32 bytes. -/
def State.queueAt (s : State) (pkg part q : Nat) : Nat := (s.sup (s.partDie pkg part) 0x801).toNat + 32 * q

def State.queueDesc (s : State) (pkg part q : Nat) : Nat :=
  let a := s.queueAt pkg part q
  (s.settle a 32).readNat a 32

def qBase (d : Nat) : Nat := getFld d 0 57
def qSlots (d : Nat) : Nat := 2 ^ (getFld d 64 4 + 4)
def qSized (d : Nat) : Bool := decide (getFld d 64 4 ≤ 8)
def qFed (d : Nat) : Bool := getFld d 68 1 == 1
def qOn (d : Nat) : Bool := getFld d 69 1 == 1 && qSized d
def qHead (d : Nat) : Nat := getFld d 128 32
def qTail (d : Nat) : Nat := getFld d 192 32
def qFull (d : Nat) : Bool := (qTail d + 2 ^ 32 - qHead d) % 2 ^ 32 == qSlots d
def qSlot (d i : Nat) : Nat := qBase d + 64 * (i % qSlots d)

/-- Write a record at the tail and count it. -/
def State.putRecord (s : State) (pkg part q : Nat) (r : BitVec 512) : State :=
  let d := s.queueDesc pkg part q
  let s := s.engineWrite (qSlot d (qTail d)) (toBytes 64 r.toNat) false
  s.engineWrite (s.queueAt pkg part q + 24) (toBytes 4 ((qTail d + 1) % 2 ^ 32)) false

/-- The index of a queue in the package's maps. -/
def queueKey (part q : Nat) : Nat := 16 * part + q

/-- Append the record of a thread of job `j` whose logical clock is `clk` (R265, R266). -/
def State.appendRecord (s : State) (pkg part q : Nat) (j : Job) (clk : Nat) (r : BitVec 512) : State :=
  (s.putRecord pkg part q r).onPkg pkg fun p =>
    { p with fed := p.fed.put (queueKey part q) (p.fed.get [] (queueKey part q) ++ [(j, clk)]) }

/-- The context of a host-fed record: the lowest live one of the partition (DESIGN CHOICE, Assumption 25). -/
def State.hostJob (s : State) (pkg part : Nat) : Job :=
  let j (n : Nat) : Job := { part := BitVec.ofNat 2 part, ctx := BitVec.ofNat 12 n }
  j (((List.range 4096).find? fun n => s.ctxField pkg (j n) 357 1 == 1).getD 0)

/-- The job of the next record of a queue. -/
def State.recordJob (s : State) (pkg part q : Nat) : Job :=
  match (s.pkg pkg).fed.get [] (queueKey part q) with
  | e :: _ => e.1
  | [] => s.hostJob pkg part

/-- The logical clock of the thread that appended it (R298). -/
def State.recordClk (s : State) (pkg part q : Nat) : Nat :=
  match (s.pkg pkg).fed.get [] (queueKey part q) with
  | e :: _ => e.2
  | [] => 0

/-- Is the partition part of a merge that runs (R387)? -/
def State.merging (s : State) (pkg part : Nat) : Bool :=
  (s.pkg pkg).merges.any fun m => m.p == part || m.q == part

/-- Do the die schedulers of the partition start threads: it exists, no merge drains it (R387), and its package is not dead (R353)? -/
def State.serves (s : State) (pkg part : Nat) : Bool :=
  ((s.pkg pkg).parts.find part).isSome && !(s.pkg pkg).dead && !s.merging pkg part

/-! ## `spawn` and `join` (R265, R267) -/

/-- May core `k` append the record to queue `q`: enabled, fed, the record passes, and its prcap is within the thread's cap? -/
def State.mayLaunch (s : State) (k q : Nat) (r : BitVec 512) : Bool :=
  let j := (s.core k).job
  let d := s.queueDesc (corePkg k) j.part.toNat q
  qOn d && qFed d && s.recordOk (corePkg k) j.part.toNat j r && decide (recCap r ≤ (s.core k).cap.toNat)

/-- Wait for the earlier writes and for a free slot, then append. -/
def State.spawnStep (s : State) (k q : Nat) (r : BitVec 512) : State :=
  let j := (s.core k).job
  if !s.released k s.seq .pod || qFull (s.queueDesc (corePkg k) j.part.toNat q) then
    (s.await k).onCore k fun c => { c with snap := some r }
  else (s.appendRecord (corePkg k) j.part.toNat q j (s.clk k) r).finish k

/-- R265: the snapshot is taken once. -/
def execSpawn (g : Guard) (lq : BitVec 4) (ra : XReg) (s : State) : Out :=
  .next (s.issue (.spawn g lq ra) fun k t =>
    let a := (t.core k).rx ra
    match (t.core k).snap with
    | some r => t.spawnStep k lq.toNat r
    | none =>
      if a.toNat % 64 != 0 then t.trap k causeAlign a
      else t.withBytes k a.toNat 64 fun bs u =>
        let r : BitVec 512 := BitVec.ofNat 512 (leNat bs)
        if u.mayLaunch k lq.toNat r then u.spawnStep k lq.toNat r else u.trap k causeFormat a)

/-- R267. -/
def execJoin (g : Guard) (ra rb : XReg) (s : State) : Out :=
  .next (s.issue (.join g ra rb) fun k t =>
    let a := (t.core k).rx ra
    t.withKey k a 8 .rd fun _ u => u.withBytes k a.toNat 8 fun bs w =>
      let v : Word := BitVec.ofNat 64 (leNat bs)
      if (w.core k).rx rb ≤ v || v.getLsbD 63 then w.finish k else w.await k)

/-! ## `LAUNCH` (R266) -/

/-- Step 4: the record that was read and checked is appended once the queue has room. -/
def State.launchAppend (s : State) (k : Nat) (d : Cmd) (r : BitVec 512) : State :=
  let q := cf d.w 16 4
  let j := (s.core k).job
  if qFull (s.queueDesc (corePkg k) j.part.toNat q) then s
  else (s.appendRecord (corePkg k) j.part.toNat q j (s.clk k) r).retireCmd k d

/-- The command at the head of a core's launch queue; the record is read and checked once. DESIGN CHOICE, Assumption 36. -/
def State.launchStep (s : State) (k : Nat) (d : Cmd) : State :=
  let j := (s.core k).job
  match d.prog.nums with
  | n :: _ => s.launchAppend k d (BitVec.ofNat 512 n)
  | [] =>
    if !s.released k d.age .pod then s
    else
      let g := s.grab k d (cw1 d.w) 64
      match g.2 with
      | .error f => if f.grip.waits then g.1 else (g.1.cmdFailed k d f).retireCmd k d
      | .ok (bs, bad) =>
        let r : BitVec 512 := BitVec.ofNat 512 (leNat bs)
        if bad then g.1.killCmd k d (BitVec.ofNat 64 (cw1 d.w))
        else if !g.1.mayLaunch k (cf d.w 16 4) r then
          (g.1.refuseRecord (corePkg k) j.part.toNat j r k (cw1 d.w)).retireCmd k d
        else (g.1.onCmd k d.age fun c => { c with started := true, prog := { c.prog with nums := [leNat bs] } }).launchAppend k d r

/-- R266: no trap is taken. -/
def execLaunch (c : CoreId) (s : State) : Out :=
  .next (match (s.core (coreKey c)).headOf .lnq with
    | some d => s.launchStep (coreKey c) d
    | none => s)

/-! ## The taking of a record (R264) -/

/-- The host as a master of a partition (R380). -/
def hostMaster (pkg part : Nat) : Master :=
  { pkg := pkg, job := { part := BitVec.ofNat 2 part, ctx := 0 }, core := 4096 * pkg, host := true }

/-- May a record be taken from the queue now: served, not empty, none of its records waiting (R264, R268)? -/
def State.takeable (s : State) (pkg part q : Nat) : Bool :=
  let d := s.queueDesc pkg part q
  s.serves pkg part && qOn d && qTail d != qHead d && ((s.pkg pkg).waiting.find (queueKey part q)).isNone

/-- The head record of a queue leaves the list of jobs. -/
def State.popFed (s : State) (pkg part q : Nat) : State :=
  s.onPkg pkg fun p => match p.fed.get [] (queueKey part q) with
    | _ :: j :: js => { p with fed := p.fed.put (queueKey part q) (j :: js) }
    | _ => { p with fed := p.fed.del (queueKey part q) }

/-- The tails of a partition's queues. -/
def State.tailsOf (s : State) (pkg part : Nat) : SMap Nat :=
  (List.range 16).foldl (fun m q => m.put (queueKey part q) (qTail (s.queueDesc pkg part q))) []

/-- The die schedulers of the merges that take in a partition see the tails of its queues (R263, R387). -/
def State.seeTails (s : State) (pkg part : Nat) : State :=
  let m0 := s.tailsOf pkg part
  s.onPkg pkg fun p => { p with merges := p.merges.map fun m => if m.p = part ∨ m.q = part then
    { m with seen := m0.foldl (fun r e => r.put e.1 e.2) m.seen } else m }

/-- R264: the record at head is read and checked, and head advances. While a merge drains the partition none is taken: its scheduler sees
new tails (R387). -/
def execLaunchRecordTake (q : QueueId) (s : State) : Out :=
  .next (
    let pkg := q.pkg.toNat
    let part := q.part.toNat
    let n := q.q.toNat
    if !s.takeable pkg part n then (if s.merging pkg part then s.seeTails pkg part else s)
    else
      let d := s.queueDesc pkg part n
      let slot := qSlot d (qHead d)
      let b := s.engineRead none slot 64
      let r : BitVec 512 := BitVec.ofNat 512 (leNat b.2)
      let j := b.1.recordJob pkg part n
      let s := b.1.engineWrite (s.queueAt pkg part n + 16) (toBytes 4 ((qHead d + 1) % 2 ^ 32)) false
      if s.recordOk pkg part j r then s.onPkg pkg fun p => { p with waiting := p.waiting.put (queueKey part n) (r, slot) }
      else (s.refuseRecord pkg part j r (4096 * pkg + 4 * recTile r) slot).popFed pkg part n)

/-! ## Teams (R16, R28) -/

/-- The key of a team in the package's list. -/
def teamKey (base size : Nat) : Nat := base * 8192 + size

def Core.teamKey (c : Core) : Nat := Machine.teamKey c.base.toNat c.size.toNat

/-- The cores that hold, or last held, a thread of the team. -/
def State.teamCores (s : State) (base size : Nat) : List Nat :=
  ((List.range size).map (base + ·)).filter fun i => (s.core i).base.toNat == base && (s.core i).size.toNat == size

/-- Has the last thread of the team that core `k` names ended, and R16 has yet to follow? -/
def State.teamOver (s : State) (k : Nat) : Bool :=
  let c := s.core k
  c.st == .ended && ((s.pkg (corePkg k)).teams.find c.teamKey).isSome
    && (s.teamCores c.base.toNat c.size.toNat).all fun i => !(s.core i).alive

/-! ## Placement (R24, R26, R30 to R32, R268) -/

/-- Is the logical tile in service (R38), and on no physical tile that lost a core (DEDUCED, Assumption 31)? -/
def State.inService (s : State) (t : Nat) : Bool :=
  !(s.quad (tileQuadKey t)).gone.contains (t % 64) && !(s.quad (tileQuadKey t)).lost.contains (s.ptile t)

/-- Does R24 let a thread of job `j` onto the tile? Every other job's thread has left it by ending or by being saved, and compact
state belongs to `j`; the state that another job left makes way (R279). -/
def State.admits (s : State) (t : Nat) (j : Job) : Bool :=
  !s.othersOn t j

/-- May saved core `k` be resumed now (R268, R280)? No supervisor holds it, its tile is in service, and R24 lets it in.
DEDUCED, Assumption 43. -/
def State.resumable (s : State) (k : Nat) : Bool :=
  let c := s.core k
  c.st == .saved && !c.hold && s.inService (coreTile k) && s.admits (coreTile k) c.job && s.serves (corePkg k) c.job.part.toNat

/-- Does the partition have a saved thread that must be resumed before any record is placed? -/
def State.resumeFirst (s : State) (pkg part : Nat) : Bool :=
  s.cores.any fun e => isTileCore e.1 && corePkg e.1 == pkg && e.2.job.part.toNat == part && s.resumable e.1

/-- Is a logical core free: no thread in any state but ended, and R16 has followed its last team? -/
def State.coreFree (s : State) (k : Nat) : Bool := !(s.core k).alive && !s.teamOver k

/-- Do `size` cores from `base` take a team of job `j` of the partition? -/
def State.roomAt (s : State) (pkg part : Nat) (j : Job) (base size : Nat) : Bool :=
  (List.range size).all (fun i => s.coreFree (base + i) && decide (base + i < 4096 * (pkg + 1)))
    && ((List.range ((size + 3) / 4)).all fun i =>
      let t := base / 4 + i
      s.admits t j && s.inService t && s.partOf pkg (t / 256 % 4) == part)

/-- The permitted core parts of a base (R30). -/
def baseStep (size : Nat) : Nat := if size = 1 then 1 else if size = 2 then 2 else 4

/-- The dies that hold cores `base` to `base + size - 1`. -/
def coreDies (base size : Nat) : List Nat := ((List.range size).map fun i => coreDieKey (base + i)).eraseDups

/-- Is a barrier id free on a die (R32)? -/
def State.barFree (s : State) (d b : Nat) : Bool :=
  let x := s.bar d b
  x.kind == .free && x.mask == 0 && x.links.isEmpty

/-- The lowest barrier id that is free on every die. -/
def State.freeBarrier (s : State) (ds : List Nat) : Option Nat :=
  (List.range 64).find? fun b => ds.all fun d => s.barFree d b

/-- The team barrier that a team would receive, none for one thread (R32); none at all where no id is free. -/
def State.teamBar (s : State) (base size : Nat) : Option (Option Nat) :=
  if size = 1 then some none else (s.freeBarrier (coreDies base size)).map some

/-- Does a team fit at a base now: cores and a barrier id are free (R30, R32)? -/
def State.fits (s : State) (pkg part : Nat) (j : Job) (base size : Nat) : Bool :=
  s.roomAt pkg part j base size && (s.teamBar base size).isSome

/-- The lowest permitted base in a tile at which the team fits. -/
def State.baseIn (s : State) (pkg part : Nat) (j : Job) (t size : Nat) : Option Nat :=
  ((List.range 4).filter fun c => c % baseStep size == 0).findSome? fun c =>
    if s.fits pkg part j (4 * t + c) size then some (4 * t + c) else none

/-- May the team of a record take this base (R30, R268)? -/
def State.baseOk (s : State) (pkg part : Nat) (j : Job) (r : BitVec 512) (base : Nat) : Bool :=
  match s.baseIn pkg part j (1024 * pkg + recTile r) (recSize r) with
  | some b => b == base
  | none => !recPin r && base % 4 % baseStep (recSize r) == 0 && s.fits pkg part j base (recSize r)

/-! ## The pairing of kernels (R269) -/

/-- The label of a kernel; one that is not measured counts as balanced. -/
def State.labelFor (s : State) (pkg : Nat) (j : Job) (entry : Word) : Label :=
  match (s.pkg pkg).kernels.find? fun e => e.part == j.part.toNat && e.ctx == j.ctx.toNat && e.entry == entry with
  | some e => e.label.getD .balanced
  | none => .balanced

def Label.opposite : Label → Label → Bool
  | .compute, .memory | .memory, .compute => true
  | _, _ => false

/-- The quadrants of the package that run threads of other contexts of the partition with the label opposite to the kernel's. -/
def State.pairQuads (s : State) (pkg : Nat) (j : Job) (entry : Word) : List Nat :=
  let l := s.labelFor pkg j entry
  (s.cores.filter fun e => isTileCore e.1 && corePkg e.1 == pkg && e.2.st == .running && e.2.job.part == j.part
    && e.2.job.ctx != j.ctx && l.opposite (s.labelFor pkg e.2.job e.2.entry)).map fun e => tileQuadKey (coreTile e.1)

/-- A base that a waiting record's team may take now: in the tile it names, else the first where kernels pair, else the lowest. -/
def State.placeBase (s : State) (pkg part : Nat) (j : Job) (r : BitVec 512) : Option Nat :=
  let at1 (t : Nat) : Option Nat := s.baseIn pkg part j (1024 * pkg + t) (recSize r)
  match at1 (recTile r) with
  | some b => some b
  | none =>
    if recPin r then none
    else
      let qs := s.pairQuads pkg j (BitVec.ofNat 64 (recEntry r))
      let ts := (List.range 1024).filter fun t => qs.contains (tileQuadKey (1024 * pkg + t))
      (ts ++ List.range 1024).findSome? at1

/-- A record of a waiting queue, with its base, if its team can be placed now. -/
def State.placeable1 (s : State) (pkg part q : Nat) : Option Nat :=
  match (s.pkg pkg).waiting.find (queueKey part q) with
  | some (r, _) => s.placeBase pkg part (s.recordJob pkg part q) r
  | none => none

/-- The queue whose record is placed next: round robin among those that can be (R268). -/
def State.placeNext (s : State) (pkg part : Nat) : Option (Nat × Nat) :=
  let n := (s.pkg pkg).nextq.get 0 part
  if s.serves pkg part && !s.resumeFirst pkg part then
    ((List.range 16).map fun i => (n + i) % 16).findSome? fun q => (s.placeable1 pkg part q).map fun b => (q, b)
  else none

/-- A kernel's team starts: its measurement begins with its first, and it is the one used last (R269). -/
def State.useKernel (s : State) (pkg : Nat) (j : Job) (entry : Word) : State :=
  let mine (e : Kernel) : Bool := e.part == j.part.toNat && e.ctx == j.ctx.toNat && e.entry == entry
  let new : Kernel := { part := j.part.toNat, ctx := j.ctx.toNat, entry := entry, since := s.time, d := 0, o := 0, label := none }
  s.onPkg pkg fun p =>
    let rest := p.kernels.filter fun e => !mine e
    let full := decide (256 ≤ (rest.filter fun e => e.part == j.part.toNat).length)
    let kept := if full then rest.eraseP fun e => e.part == j.part.toNat else rest
    { p with kernels := kept ++ [(p.kernels.find? mine).getD new] }

/-! ## The start of a team (R26, R31, R32) -/

/-- The state in which a thread of a team starts (R31). -/
def startCore (j : Job) (seed : Word) (base size : Nat) (bar : Option Nat) (r : BitVec 512) (weight : Nat) : Core :=
  { Core.idle with
    st := .running, pc := BitVec.ofNat 64 (recEntry r), x := (Core.idle.x).set 10 (BitVec.ofNat 64 (recArgs r)), job := j,
    jobseed := seed, entry := BitVec.ofNat 64 (recEntry r), base := BitVec.ofNat 22 base, size := BitVec.ofNat 13 size,
    bid := BitVec.ofNat 6 (bar.getD 0), bv := bar.isSome, cls := BitVec.ofNat 2 (recClass r), cap := BitVec.ofNat 2 (recCap r),
    vcredit := weight, mcredit := 1, ccredit := 1 }

/-- A tile's window opens to a job (R18). -/
def State.openWindow (s : State) (t : Nat) (j : Job) : State :=
  s.onTile t fun v => { v with openTo := if v.openTo.contains j then v.openTo else v.openTo ++ [j] }

/-- A tile takes a job: its state comes to the tile (R18, R279), the context's defaults are set where the tile held nothing of it
(R26), its window opens (R18), and its read-only cache empties (R168). -/
def State.takeTile (s : State) (pkg : Nat) (j : Job) (t : Nat) : State :=
  let bare := !s.tileBusy t j
  let s := s.bringIn t j
  let s := if bare then
      (s.applySplit t (BitVec.ofNat 64 (s.ctxField pkg j 352 5))).onTile t fun v =>
        { v with vshare := BitVec.ofNat 64 (s.ctxField pkg j 320 16), accsplit := BitVec.ofNat 64 (s.ctxField pkg j 336 16) }
    else s
  (s.openWindow t j).emptyRo t

/-- A thread takes a core: its registers and its home, with the mailbox and tag state cleared (R31, R94, R200). Gradient records that
an earlier thread pushed stay (R368), and messages that it sent are on their way, behind its writes that are not performed yet (R306,
R333). -/
def State.startThread (s : State) (k : Nat) (c : Core) : State :=
  let v := s.core k
  ((s.setCore k { c with cmds := v.cmds.filter Cmd.survives, msgs := v.msgs, birth := s.seq,
                         flights := v.flights.filter fun f => !s.performed k .pod f.w }).initHome k).tagClear k

/-- The team barrier of R32. -/
def State.teamBarrier (s : State) (b base size : Nat) : State :=
  let ds := coreDies base size
  ds.foldl (fun u d =>
    let m := (((List.range size).map (base + ·)).filter fun k => coreDieKey k == d).foldl
      (fun (m : BitVec 1024) k => m ||| BitVec.twoPow 1024 (coreBit k)) 0
    u.onBar d b fun _ =>
      { kind := .team, phase := 0, mask := m, links := ds.filter (· != d), arrived := 0, since := none, clk := 0 }) s

/-- The weight of a core in a `vshare` (R224). -/
def shareOf (vshare : Word) (slot : Nat) : Nat := getFld vshare.toNat (4 * slot) 4

/-- Place the team of a record of job `j` at `base`, with team barrier `bar`; each thread knows what was known at clock `clk`. -/
def State.placeTeam (s : State) (pkg : Nat) (j : Job) (r : BitVec 512) (base : Nat) (bar : Option Nat) (clk : Nat) : State :=
  let n := recSize r
  let seed : Word := BitVec.ofNat 64 (s.ctxField pkg j 256 64)
  let s := (List.range (recTiles r)).foldl (fun u i => u.takeTile pkg j (base / 4 + i)) s
  let s := (List.range n).foldl (fun u i =>
    let k := base + i
    (u.startThread k (startCore j seed base n bar r (shareOf (u.tile (coreTile k)).vshare (coreSlot k)))).raiseClk k clk) s
  let s := match bar with
    | some b => s.teamBarrier b base n
    | none => s
  (s.useKernel pkg j (BitVec.ofNat 64 (recEntry r))).onPkg pkg fun p =>
    { p with teams := p.teams.put (teamKey base n) { rcd := r, base := base, job := j, failed := false } }

/-- R30 to R32, R268: every thread of a waiting record's team is placed at once, or none. -/
def execTeamPlacement (q : QueueId) (base : BitVec 12) (s : State) : Out :=
  .next (
    let pkg := q.pkg.toNat
    let part := q.part.toNat
    let n := q.q.toNat
    let b := 4096 * pkg + base.toNat
    match (s.pkg pkg).waiting.find (queueKey part n), s.placeNext pkg part with
    | some (r, _), some (m, _) =>
      let j := s.recordJob pkg part n
      (match s.teamBar b (recSize r) with
      | some bar =>
        if m != n || !s.baseOk pkg part j r b then s
        else ((s.placeTeam pkg j r b bar (s.recordClk pkg part n)).onPkg pkg fun p =>
          { p with waiting := p.waiting.del (queueKey part n), nextq := p.nextq.put part ((n + 1) % 16) }).popFed pkg part n
      | none => s)
    | _, _ => s)

end Machine
end Sys2Proof
end

