-- ==== Sys2Proof/Machine/Threads.lean ====
section
/-! DEFINITION. `exit` and the end of a team; marks, `safe`, `yield`, saving and resuming; the swap of a tile's job state; what a
supervisor does with a thread (R16, R19, R124, R273 to R280, R333, R339). -/

namespace Sys2Proof
namespace Machine

/-! ## The end of a thread and of a team (R16, R124) -/

/-- The start slot of a churn (R362). -/
def State.startSlot (s : State) (k : Nat) : Nat :=
  (s.sup (s.partDie (corePkg k) (s.partOf (corePkg k) (coreDie k))) 0x801).toNat + 0x200 + 128 * ((k - 2 ^ 22) % 32)

/-- Write go and run of a churn's start slot. -/
def State.setSlot (s : State) (k : Nat) (go run : Bool) : State :=
  let a := s.startSlot k + 64
  let r := s.engineRead none a 1
  r.1.engineWrite a (toBytes 1 (setFld (leNat r.2) 0 2 (go.toNat + 2 * run.toNat))) false

/-- go of a churn's start slot. -/
def State.slotGo (s : State) (k : Nat) : Bool := getFld ((s.settle (s.startSlot k + 64) 1).readNat (s.startSlot k + 64) 1) 0 1 == 1

/-- A team or churn thread counts as failed (R339). -/
def State.failTeam (s : State) (k : Nat) : State :=
  let fail (m : SMap Team) (n : Nat) : SMap Team := match m.find n with
    | some t => m.put n { t with failed := true }
    | none => m
  s.onPkg (corePkg k) fun p =>
    if isTileCore k then { p with teams := fail p.teams (s.core k).teamKey }
    else if isChurn k then { p with churns := fail p.churns ((k - 2 ^ 22) % 32) } else p

/-- The thread of core `k` ends (R19, R124, R243): its messages are discarded and its registers stand in the home. It leaves its
barriers; the last thread of a team leaves them when step 1 of R16 has taken effect. -/
def State.endThread (s : State) (k : Nat) : State :=
  let s := (((s.mailClear k).flushRc k).leaveGang k).signerLeaves k
  let s := s.onCore k fun c => { c.unwait with st := .ended, mark := false, refusal := none, broken := false, report := false }
  let s := if isTileCore k && s.teamOver k then s else s.leaveBarriers k
  if isTileCore k then s.onTile (coreTile k) fun v =>
    { v with ladle := if v.ladle.owner = some k then { v.ladle with owner := none } else v.ladle }
  else if isChurn k then s.setSlot k (s.slotGo k) false else s

/-- R124, R201, R351: it waits until every counter is 0 and, since the team's end is a release (R16), until every write is
performed at `pod` scope. DEDUCED, Assumption 33. -/
def execExit (g : Guard) (s : State) : Out :=
  .next (s.issue (.exit g) fun k t =>
    if t.faultPend k then t.trapFault k
    else if (t.core k).lost then t.trapLost k
    else if !t.quiet k || !t.released k t.seq .pod then t.await k
    else t.endThread k)

/-- Step 1 of R16 at one tile. -/
def State.shutTile (s : State) (t : Nat) (j : Job) : State :=
  if s.tileBusy t j then s else s.onTile t fun v => { v with openTo := v.openTo.filter (· != j) }

/-- Step 3 of R16, a release of what the team's threads, the cores `cs`, wrote and saw. DESIGN CHOICE, Assumption 34. -/
def State.countTeam (s : State) (pkg : Nat) (tm : Team) (cs : List Nat) : State :=
  match s.doneKey pkg tm.job tm.rcd with
  | some key => s.addDone key (if tm.failed then failedTeam else 1) (cs.foldl (fun m k => max m (s.clk k)) 0)
  | none => s

/-- The team barrier returns to the free pool (R32). -/
def State.freeTeamBar (s : State) (b base size : Nat) : State :=
  (coreDies base size).foldl (fun u d => u.onBar d b fun x => { x with kind := .free, mask := 0, links := [], arrived := 0 }) s

/-- A compact of a tile that a thread of the team signed breaks with the team's end (R313). -/
def State.breakIfTeam (s : State) (t base : Nat) : State :=
  match (s.tile t).compactOf with
  | some c => if c.team = base then s.breakWhole c else s
  | none => s

/-- The three steps of R16 for the team of core `k`; a compact that one of its threads signed breaks first (R313). -/
def State.endTeam (s : State) (k : Nat) (tm : Team) : State :=
  let c := s.core k
  let n := c.size.toNat
  let cs := s.teamCores tm.base n
  let s := (List.range (recTiles tm.rcd)).foldl (fun u i => u.breakIfTeam (tm.base / 4 + i) tm.base) s
  let s := (List.range (recTiles tm.rcd)).foldl (fun u i => u.shutTile (tm.base / 4 + i) tm.job) s
  let s := cs.foldl (fun u i => u.leaveBarriers i) s
  let s := s.countTeam (corePkg k) tm cs
  let s := if c.bv then s.freeTeamBar c.bid.toNat tm.base n else s
  s.onPkg (corePkg k) fun p => { p with teams := p.teams.del (teamKey tm.base n) }

/-- R16: the last thread of the team has ended. A churn's thread is its whole team (R362). -/
def execTeamEnd (c : CoreId) (s : State) : Out :=
  .next (
    let k := coreKey c
    let p := s.pkg (corePkg k)
    if isChurn k then
      match p.churns.find ((k - 2 ^ 22) % 32) with
      | some tm =>
        if (s.core k).st = .ended then
          (s.countTeam (corePkg k) tm [k]).onPkg (corePkg k) fun p => { p with churns := p.churns.del ((k - 2 ^ 22) % 32) }
        else s
      | none => s
    else if s.teamOver k then
      match p.teams.find (s.core k).teamKey with
      | some tm => s.endTeam k tm
      | none => s
    else s)

/-! ## Marks and safe points (R273 to R275) -/

/-- R273: a supervisor marks a thread, or withdraws the mark. -/
def execSupervisorMark (c : CoreId) (withdraw : Bool) (s : State) : Out :=
  .next (if isTileCore (coreKey c) then s.setMarkOf (coreKey c) (!withdraw) else s)

/-- Step 1 of R275: the thread issues nothing further and goes on at the word after the map word, or after the `yield`. -/
def State.beginSave (s : State) (k : Nat) (map : Word) (n : Nat) : State :=
  (s.onCore k fun c => { c.advance n with st := .saving, saveMap := map, savePc := c.pc }).leaveGang k

/-- R273, R360. -/
def execSafe (g : Guard) (map : Word) (s : State) : Out :=
  .next (s.issue (.safe g map) fun k t =>
    if (t.core k).mark && isTileCore k then t.beginSave k map 16 else t.onCore k fun c => c.advance 16)

/-- Does a saved thread wait for a core on die `d` only because R24 keeps its tile for another job (R274)? -/
def State.kept (s : State) (k : Nat) : Bool :=
  let c := s.core k
  c.st == .saved && !c.hold && s.inService (coreTile k) && s.serves (corePkg k) c.job.part.toNat && !s.admits (coreTile k) c.job

/-- Are there too few free cores for the team of a record, or does R24 keep every tile that would take it (R274)? -/
def State.noRoom (s : State) (pkg part : Nat) (j : Job) (r : BitVec 512) : Bool :=
  (if recPin r then [recTile r] else List.range 1024).all fun t =>
    ((List.range 4).filter fun c => c % baseStep (recSize r) == 0).all fun c =>
      !s.roomAt pkg part j (4 * (1024 * pkg + t) + c) (recSize r)

/-- The second condition of R274 for core `k`. -/
def State.othersWait (s : State) (k : Nat) : Bool :=
  let me := s.core k
  let pkg := corePkg k
  let part := me.job.part.toNat
  let e := s.eff k
  s.cores.any (fun x => isTileCore x.1 && coreDieKey x.1 == coreDieKey k && x.2.job.part == me.job.part && s.kept x.1
      && decide (e ≤ x.2.savedCls.toNat))
    || (s.pkg pkg).waiting.any fun x =>
      x.1 / 16 == part && decide (e ≤ recClass x.2.1)
        && (!recPin x.2.1 || decide (recTile x.2.1 / 256 = coreDie k))
        && s.noRoom pkg part (s.recordJob pkg part (x.1 % 16)) x.2.1

/-- The map word of a `yield`: every register is live (R274). -/
def allLive : Word := 0x1FFFFFFFFFFFFFFF

/-- R274, R360. -/
def execYield (g : Guard) (s : State) : Out :=
  .next (s.issue (.yield g) fun k t =>
    if isTileCore k && ((t.core k).mark || t.othersWait k) then t.beginSave k allLive 8 else t.finish k)

/-! ## The saved context (R277, R278) -/

/-- The registers that a map word makes live (R86), by number. -/
def liveX (m : Word) : List Nat := ((List.range 31).filter fun i => m.getLsbD i).map (· + 1)
def liveH (m : Word) : List Nat := (List.range 16).filter fun i => m.getLsbD (38 + i)
def liveV (m : Word) : List Nat := ((List.range 7).filter fun i => m.getLsbD (54 + i)).map (· + 1)
def liveP (m : Word) : BitVec 8 := fld m 31 7 ++ 0#1

/-- The home words of live registers. -/
def liveWords (m : Word) : List Nat :=
  liveX m ++ (if liveP m = 0 then [] else [0]) ++ (liveH m).flatMap (fun i => (List.range 4).map (32 + 4 * i + ·))
    ++ (liveV m).flatMap fun i => (List.range 4).map (96 + 4 * i + ·)

/-- Where a thread's save slot stands (R275, step 5). -/
def State.saveSlot (s : State) (k : Nat) : Nat :=
  corePkg k * 2 ^ 47 + s.ctxField (corePkg k) (s.core k).job 128 47 + 0x28000 * (k % 4096)

/-- The control part. -/
def State.ctlBytes (s : State) (k : Nat) : List Byte :=
  let c := s.core k
  [c.fpstat, c.tags, s.cnt k, s.prioReg k, c.rngctr, c.tvec, c.tcause, c.tpc, c.tval, s.tstat k, c.remerr, 0].flatMap
    fun w => toBytes 8 w.toNat

/-- The progress record of a started command. -/
def Cmd.progress (d : Cmd) : Nat :=
  let smm := d.opc == 0x1A
  d.opc + cf d.w 16 3 * 2 ^ 8 + d.prog.k % 2 ^ 32 * 2 ^ 32
    + (if smm then d.prog.batch % 2 ^ 16 * 2 ^ 16 + (cw1 d.w + d.prog.k) % 2 ^ 64 * 2 ^ 64 + d.prog.f.toNat * 2 ^ 128
        + d.prog.v.toNat * 2 ^ 160 else 0)

/-- A saved command: its word, then its handles. -/
def Cmd.image (d : Cmd) : List Byte :=
  toBytes 32 d.w.toNat ++ (List.range 3).flatMap fun i => toBytes 32 (d.hs.getD i 0).toNat

/-- The accumulators that `accsplit` gives a core (R276). -/
def State.ownAccs (s : State) (k : Nat) : List Nat := (List.range 8).filter fun a => s.ownsAcc k a

/-- The whole context of core `k`. -/
def State.context (s : State) (k : Nat) : List Byte :=
  let c := s.core k
  let m := c.saveMap
  let v := s.tile (coreTile k)
  let mx := c.cmds.filter fun d => d.q == .mxq
  let busy := mx.filter (·.started)
  let accs := s.ownAccs k
  let lad := v.ladle.owner == some k
  let body := (liveX m).flatMap (fun i => toBytes 8 (c.homeWord i).toNat)
    ++ (if liveP m = 0 then [] else toBytes 8 (c.homeWord 0).toNat)
    ++ (liveH m).flatMap (fun i => toBytes 32 (c.rh (BitVec.ofNat 4 i)).toNat)
    ++ (liveV m).flatMap (fun i => toBytes 32 (c.rvp (BitVec.ofNat 3 i)).toNat)
    ++ s.ctlBytes k
    ++ busy.flatMap (fun d => toBytes 32 d.progress)
    ++ mx.flatMap Cmd.image
    ++ accs.flatMap (fun a => toBytes 8 ((v.isInt a).toNat + 2 * (v.divisor a % 2 ^ 16)))
    ++ accs.flatMap (fun a => (v.words a).flatMap fun w => toBytes 4 w.toNat)
    ++ (if lad then v.ladle.image else [])
  let hdr := m.toNat + c.pc.toNat * 2 ^ 64 + (k % 2 ^ 22 + c.job.ctx.toNat * 2 ^ 22 + c.job.part.toNat * 2 ^ 34
    + (!busy.isEmpty).toNat * 2 ^ 40 + (accs.foldl (fun n a => n + 2 ^ a) 0) * 2 ^ 41 + lad.toNat * 2 ^ 49
    + (mx.length - busy.length) % 32 * 2 ^ 50) * 2 ^ 128 + (32 + body.length) * 2 ^ 192
  toBytes 32 hdr ++ body

/-! ## Saving (R275, R276) -/

/-- Steps 2 and 3 of R275 hold: counters `ld`, `st`, `vx` and `cp` are 0 and the matrix queue stands at a boundary.
DEDUCED, Assumption 42. -/
def State.savable (s : State) (k : Nat) : Bool :=
  let c := s.core k
  c.st == .saving && c.loads.isEmpty && s.cntSt k == 0 && c.vq.isEmpty && c.cntCp == 0 && c.refusal.isNone
    && (match c.headOf .mxq with | some d => !(d.opc == 0x12 && d.started) | none => true)

/-- The live registers whose home words are marked or that hold poison keep it across the save. DEDUCED, Assumption 40. -/
def State.savedPoison (s : State) (k : Nat) : SMap Word :=
  let c := s.core k
  (liveWords c.saveMap).foldl (fun p i => match c.poison.find i with
    | some a => p.put i a
    | none => if !(c.rc.any fun e => e.1 == i) && s.isMarked (homeKey k + 8 * i) then
        (namesOf i).foldl (fun q w => q.put w (homeVa k i)) p else p) []

/-- The accumulators that a save of core `k` writes, as a mask (R276, R277). -/
def State.amaskOf (s : State) (k : Nat) : BitVec 8 :=
  (s.ownAccs k).foldl (fun m a => m ||| BitVec.twoPow 8 a) 0

/-- R275, R276: the thread drains, its context is written, and it leaves its core. A supervisor that marked it now holds it
(DEDUCED, Assumption 43). -/
def execThreadSave (c : CoreId) (s : State) : Out :=
  .next (
    let k := coreKey c
    if !s.savable k then s
    else
      let poison := s.savedPoison k
      let s := s.flushRc k
      let v := s.core k
      let cls := s.eff k
      let am := s.amaskOf k
      let s := s.store (s.saveSlot k) (s.context k)
      let s := s.recordCore k causePreempt recSaved 0 v.savePc v.tval v.saveMap
      let s := s.onCore k fun c =>
        { c with st := .saved, poison := poison, savedAt := s.time, savedCls := BitVec.ofNat 2 cls, amask := am, hold := c.mark,
                 mark := false, tlb := [] }
      s.onTile (coreTile k) fun t => { t with smm := if t.smm = some k then none else t.smm })

/-! ## Resuming (R280) -/

/-- The parts of the context at a slot: where the control part stands, then the header's fields. -/
structure CtxParts where
  map : Word
  hdr : Nat
  ctl : Nat
deriving DecidableEq, Repr

def State.ctxParts (s : State) (slot : Nat) : CtxParts :=
  let m : Word := BitVec.ofNat 64 (s.readNat slot 8)
  { map := m, hdr := s.readNat (slot + 16) 8,
    ctl := slot + 32 + 8 * (liveX m).length + (if liveP m = 0 then 0 else 8) + 32 * (liveH m).length + 32 * (liveV m).length }

def CtxParts.pv (p : CtxParts) : Nat := getFld p.hdr 40 1
def CtxParts.accs (p : CtxParts) : List Nat := (List.range 8).filter fun a => p.hdr.testBit (41 + a)
def CtxParts.lad (p : CtxParts) : Bool := p.hdr.testBit 49
def CtxParts.cmds (p : CtxParts) : Nat := p.ctl + 96 + 32 * p.pv
def CtxParts.accInfo (p : CtxParts) : Nat := p.cmds + 128 * (p.pv + getFld p.hdr 50 5)
def CtxParts.ladle (p : CtxParts) : Nat := p.accInfo + 4104 * p.accs.length

/-- The live registers of a context; every other one is 0. -/
def State.ctxRegs (s : State) (slot : Nat) (c : Core) : Core :=
  let m := (s.ctxParts slot).map
  let x0 := slot + 32
  let p0 := x0 + 8 * (liveX m).length
  let h0 := p0 + (if liveP m = 0 then 0 else 8)
  let v0 := h0 + 32 * (liveH m).length
  let wide (a : Nat) : Wide := BitVec.ofNat 256 (s.readNat a 32)
  { c with
    x := Vector.ofFn fun i => if (liveX m).contains i.val then BitVec.ofNat 64 (s.readNat (x0 + 8 * (liveX m).idxOf i.val) 8) else 0,
    p := BitVec.ofNat 8 (s.readNat p0 1) &&& liveP m,
    h := Vector.ofFn fun i => if (liveH m).contains i.val then wide (h0 + 32 * (liveH m).idxOf i.val) else 0,
    vp := Vector.ofFn fun i => if (liveV m).contains i.val then wide (v0 + 32 * (liveV m).idxOf i.val) else 0 }

/-- The control part. A bit of `tags` or `fpstat` that a command still running set meanwhile stays set (R275).
DEDUCED, Assumption 39. -/
def State.ctxCtl (s : State) (ctl : Nat) (c : Core) : Core :=
  let w (i : Nat) : Word := BitVec.ofNat 64 (s.readNat (ctl + 8 * i) 8)
  { c with fpstat := w 0 ||| c.fpstat, tags := w 1 ||| c.tags, cls := fld (w 3) 0 2, cap := fld (w 3) 2 2, rngctr := w 4, tvec := w 5,
           tcause := w 6, tpc := w 7, tval := w 8, inh := (w 9).getLsbD 0, remerr := w 10 }

/-- The commands of the matrix queue, as the context holds them. DEDUCED, Assumption 41. -/
def State.ctxCmds (s : State) (p : CtxParts) (c : Core) : Core :=
  let mx := c.cmds.filter fun d => d.q == .mxq
  let pr := s.readNat (p.ctl + 96) 32
  let new := mx.mapIdx fun i d =>
    let a := p.cmds + 128 * i
    let d : Cmd := { d with w := BitVec.ofNat 256 (s.readNat a 32),
                            hs := d.hs.mapIdx fun j _ => BitVec.ofNat 256 (s.readNat (a + 32 + 32 * j) 32) }
    if i = 0 ∧ p.pv = 1 then
      let g : Progress := { d.prog with k := getFld pr 32 32, batch := getFld pr 16 16, f := BitVec.ofNat 32 (getFld pr 128 32),
                                        v := BitVec.ofNat 32 (getFld pr 160 32) }
      { d with started := true, prog := g }
    else d
  { c with cmds := c.cmds.map fun d => (new.find? fun e => e.age == d.age).getD d }

/-- The accumulators and the ladle of a context go back to the tile. -/
def State.ctxEngines (s : State) (p : CtxParts) (k : Nat) : State :=
  let words (a : Nat) : List Word32 := (List.range 1024).map fun i => BitVec.ofNat 32 (s.readNat (a + 4 * i) 4)
  let n := p.accs.length
  let s1 := p.accs.zipIdx.foldl (fun (u : State) e =>
    let info := s.readNat (p.accInfo + 8 * e.2) 8
    u.onTile (coreTile k) fun v =>
      ((v.putWords e.1 (words (p.accInfo + 8 * n + 4096 * e.2))).putType e.1 (getFld info 0 1 == 1)).putDivisor e.1
        (getFld info 1 16)) s
  if p.lad then
    let busy := (s1.core k).cmds.any fun d => d.opc == 0x1A && d.started
    s1.onTile (coreTile k) fun v => { v with ladle := s.ladleAt p.ladle, smm := if busy then some k else v.smm }
  else s1

/-- Is another saved thread of the partition to be resumed before core `k` (R268)? -/
def State.resumesBefore (s : State) (k : Nat) : Bool :=
  let c := s.core k
  s.cores.any fun e => e.1 != k && isTileCore e.1 && corePkg e.1 == corePkg k && e.2.job.part == c.job.part && s.resumable e.1
    && (decide (s.eff k < s.eff e.1) || (s.eff k == s.eff e.1 && decide (e.2.savedAt < c.savedAt)))

/-- Resume a saved thread from its slot, once its job's state stands on the tile (R279). -/
def State.resumeThread (s : State) (k : Nat) : State :=
  let s := s.bringIn (coreTile k) (s.core k).job
  let slot := s.saveSlot k
  let p := s.ctxParts slot
  let c := s.core k
  let s := s.setCore k (s.ctxCmds p (s.ctxCtl p.ctl (s.ctxRegs slot c)))
  let s := (s.ctxEngines p k).initHome k
  let s := s.onCore k fun v =>
    { v with st := .running, pc := BitVec.ofNat 64 (s.readNat (slot + 8) 8), poison := c.poison, tlb := [], amask := 0 }
  s.openWindow (coreTile k) c.job

/-- R280. The ladle is restored with the thread, which waits for another core's `SMM` first (DEDUCED, Assumption 27). -/
def execThreadResume (c : CoreId) (s : State) : Out :=
  .next (
    let k := coreKey c
    if !isTileCore k || !s.resumable k || s.resumesBefore k || s.ladleHeld k then s else s.resumeThread k)

/-! ## The tile image (R279) -/

/-- Does every thread that the tile holds stand saved, with no compact on it or in the making (R24)? -/
def State.allSaved (s : State) (t : Nat) : Bool :=
  ((List.range 4).all fun i => !(s.core (4 * t + i)).alive || (s.core (4 * t + i)).st == .saved) && (s.tile t).compact.isNone
    && (s.tile t).signing.isNone

/-- A job, not the tile's present one, that has a saved thread on the tile. -/
def State.savedJob (s : State) (t : Nat) : Option Job :=
  (((List.range 4).map fun i => s.core (4 * t + i)).find? fun c => c.st == .saved && (s.tile t).job != some c.job).map (·.job)

/-- Does a record of another job than the tile's wait to be placed? -/
def State.recordWants (s : State) (t : Nat) (j : Job) : Bool :=
  (s.pkg (t / 1024)).waiting.any fun x => s.recordJob (t / 1024) (x.1 / 16) (x.1 % 16) != j

/-- R279: the state of a job whose threads on the tile are all saved makes way for another job's saved thread or waiting record,
and a saved thread's comes back. -/
def execTileImageSwap (t : TileId) (s : State) : Out :=
  .next (
    let u := tileNum t
    if !s.allSaved u then s
    else match s.savedJob u with
      | some j => s.bringIn u j
      | none => match (s.tile u).job with
        | some j => if s.tileBusy u j && s.recordWants u j then s.swapOut u j else s
        | none => s)

/-! ## The tile map (R37) -/

/-- R36, R37. -/
def execTmapWrite (t : TileId) (ptile : BitVec 7) (s : State) : Out := .next (s.remap (tileNum t) ptile.toNat)

/-! ## What a supervisor does with a thread (R333, R339) -/

/-- A thread re-enters a barrier as a member that has not arrived. DEDUCED, Assumption 79. -/
def State.reenter (s : State) (k b : Nat) : State :=
  let x := s.bar (coreDieKey k) b
  let c := s.core k
  let mine := match x.kind with
    | .compact .. => false
    | .team => c.bv && c.bid.toNat == b
    | _ => true
  if mine then s.onBar (coreDieKey k) b fun x =>
    { x with mask := x.mask ||| BitVec.twoPow 1024 (coreBit k), arrived := x.arrived &&& ~~~(BitVec.twoPow 1024 (coreBit k)) }
  else s

/-- The start record of a thread: its team's launch record, or its churn's (R333, R368). -/
def State.startRecord (s : State) (k : Nat) : Option Team :=
  if isChurn k then (s.pkg (corePkg k)).churns.find ((k - 2 ^ 22) % 32) else (s.pkg (corePkg k)).teams.find (s.core k).teamKey

/-- R333: the thread starts again from its start record; `dropWork` is what R306 leaves of its earlier work, all of which it sees: no
leased block of its tile's cache is older (R359). -/
def State.restartThread (s : State) (k : Nat) (tm : Team) : State :=
  let c := s.core k
  let s := s.dropWork k
  let s := s.startThread k (startCore c.job c.jobseed c.base.toNat c.size.toNat (if c.bv then some c.bid.toNat else none) tm.rcd
    (if isTileCore k then shareOf (s.tile (coreTile k)).vshare (coreSlot k) else 1))
  let s := if c.bv then s.reenter k c.bid.toNat else s
  if isTileCore k then ((s.openWindow (coreTile k) c.job).emptyRo (coreTile k)).dropClean (coreTile k) else s

/-- Does the tile map give core `k` a physical core that no kill has silenced (R328, R333)? -/
def State.onGoodCore (s : State) (k : Nat) : Bool :=
  !isTileCore k || !(s.die (coreDieKey k)).silent.get false (physKey (coreTile k / 64 % 4) (s.ptile (coreTile k)) (k % 4))

/-- R333, R339, R349: a killed thread restarts once its core is declared dead (R328) and its logical tile has been remapped; a stopped
or frozen one whenever a supervisor wishes. -/
def execThreadRestart (c : CoreId) (s : State) : Out :=
  .next (
    let k := coreKey c
    let v := s.core k
    let may := (v.st == .killed && v.dead && s.onGoodCore k) || v.st == .stopped || v.st == .frozen
    match s.startRecord k with
    | some tm => if may then s.restartThread k tm else s
    | none => s)

/-- R339: the thread takes its registers from its home and goes on at `tpc`. -/
def State.resumeStopped (s : State) (k : Nat) : State :=
  let ids := (s.core k).left
  let s := (s.loadHome k).onCore k fun c => { c with st := .running, pc := c.tpc, left := [] }
  ids.foldl (fun u b => u.reenter k b) s

/-- R339. -/
def execThreadSupervisorResume (c : CoreId) (s : State) : Out :=
  .next (
    let k := coreKey c
    if (s.core k).st = .stopped ∨ (s.core k).st = .frozen then s.resumeStopped k else s)

/-- Has the quadrant a target for a remap of tile `t` (R36)? -/
def State.hasTarget (s : State) (t : Nat) : Bool :=
  let q := tileQuadKey t
  let v := s.quad q
  (List.range 66).any fun p => p != s.ptile t && !v.out.contains p && !v.lost.contains p && v.testing != some p
    && (List.range 64).all fun i => s.ptile (64 * q + i) != p || s.idleTile (64 * q + i)

/-- A logical tile goes out of service; a compact of which it is a member breaks (R38, R313, R349). -/
def State.retireTile (s : State) (t : Nat) : State :=
  (s.breakAll fun c => c.tiles.contains t).onQuad (tileQuadKey t) fun v =>
    { v with gone := if v.gone.contains (t % 64) then v.gone else v.gone ++ [t % 64] }

/-- Has a dead core's tile no target, so that every thread on it ends and it goes out of service (R349)? -/
def State.tileLost (s : State) (t : Nat) : Bool :=
  ((List.range 4).any fun i => (s.core (4 * t + i)).st == .killed && (s.core (4 * t + i)).dead) && !s.hasTarget t

/-- R339: end a thread that no longer runs. -/
def State.endBySupervisor (s : State) (k : Nat) : State := ((s.failTeam k).dropWork k).endThread k

/-- The threads that end with core `k`'s: its own, and every one on a tile that is lost (R349). -/
def State.endWith (s : State) (k : Nat) : List Nat :=
  if isTileCore k && s.tileLost (coreTile k) then
    ((List.range 4).map (4 * coreTile k + ·)).filter fun i => (s.core i).alive
  else [k]

/-- May a thread that no longer runs end: its stores and messages have taken effect? -/
def State.spent (s : State) (k : Nat) : Bool :=
  (s.core k).sbuf.isEmpty && s.writesDone k s.seq .pod && (s.core k).msgs.isEmpty

/-- A supervisor ends threads: running ones stop first, a frozen one's held stores are discarded, and the others' buffered stores and
messages take effect before they end. -/
def State.endThreads (s : State) (ks : List Nat) : State :=
  let runs := ks.filter fun k => (s.core k).st == .running || (s.core k).st == .saving
  if !runs.isEmpty then runs.foldl (fun u k => u.stopThread k .stopped) s
  else
    let s := (ks.filter fun k => (s.core k).st == .frozen).foldl (fun u k => u.onCore k fun c => { c with sbuf := [] }) s
    if ks.all s.spent then ks.foldl State.endBySupervisor s else s

/-- R36, R339, R349: a supervisor ends a thread; a lost tile goes out of service when its threads have ended. -/
def execThreadSupervisorEnd (c : CoreId) (s : State) : Out :=
  .next (
    let k := coreKey c
    if !(s.core k).alive then s
    else
      let ks := s.endWith k
      let lost := isTileCore k && s.tileLost (coreTile k)
      let s := s.endThreads ks
      if lost && ks.all (fun i => !(s.core i).alive) then s.retireTile (coreTile k) else s)

end Machine
end Sys2Proof
end

