-- ==== Sys2Proof/Machine/Churn.lean ====
section
/-! DEFINITION. Churns: the start of a churn's thread and `qget` (R46, R362, R366, R367). -/

namespace Sys2Proof
namespace Machine

/-! ## `qget` (R366, R367) -/

/-- The records of a queue as the arbiter sees them: the class at acceptance, then age, within the bound of R46. -/
def gradCands (gs : List Grad) : List Cand :=
  gs.map fun g => { core := g.age, cls := g.cls.toNat, weight := 0, credit := 0, age := g.age }

/-- How many records their pushers' order puts before the oldest record of each class, together: at most 3 for a class (R365). -/
def gradLead (gs : List Grad) : Nat :=
  [0, 1, 2, 3].foldl (fun n cl => match gs.find? fun g => g.cls.toNat == cl with
    | some o => n + (gs.filter fun g => g.src == o.src && decide (g.age < o.age)).length
    | none => n) 0

/-- The record that is taken next, and the bookkeeping of the bound after it: of the pusher that has the record which the arbiter picks,
its first one, since a pusher's records are taken in push order; the bound of R46 comes due early enough for those before it.
DEDUCED, Assumption 109. -/
def State.nextGrad (s : State) (key : Nat) : Option (Grad × SMap Nat) :=
  let gs := s.grads.get [] key
  let cs := gradCands gs
  let starve := s.gstarve.get [] key
  let soon : SMap Nat := [0, 1, 2, 3].foldl (fun m cl => m.put cl (starve.get 0 cl + gradLead gs)) []
  match arbitrate soon cs with
  | none => none
  | some (w, _) => match gs.find? fun g => g.age == w.age with
    | none => none
    | some r => (gs.find? fun g => g.src == r.src).map fun g => (g, starveNext starve cs { w with core := g.age, age := g.age })

/-- A record leaves its queue, its pusher's window and `tl`. -/
def State.takeGrad (s : State) (key : Nat) (g : Grad) (starve : SMap Nat) : State :=
  let s := { s with grads := s.grads.put key ((s.grads.get [] key).filter fun x => x.age != g.age),
                    gstarve := s.gstarve.put key starve }
  match (s.core g.src).cmds.find? fun d => d.age == g.age with
  | some d => s.retireCmd g.src d
  | none => s

/-- x(rd) to x(rd + 3) take the four words of a record. -/
def Core.wx4 (c : Core) (rd : XReg) (w : Wide) : Core :=
  (((c.wx rd (fld w 0 64)).wx (rd + 1) (fld w 64 64)).wx (rd + 2) (fld w 128 64)).wx (rd + 3) (fld w 192 64)

/-- R366: the waiting form names p0 twice. The taking is an acquire: the churn knows what the pusher knew (R305). -/
def execQget (g : Guard) (rd : XReg) (q : BitVec 3) (pt pf : PReg) (s : State) : Out :=
  .next (s.issue (.qget g rd q pt pf) fun k t =>
    let key := gradKey k q.toNat
    let waits := pt == 0 && pf == 0
    match t.nextGrad key with
    | some (r, st) =>
      ((t.takeGrad key r st).raiseClk k r.clk).finishWith k fun c => (c.wx4 rd r.w).writePair pt pf (true, false)
    | none => if waits then t.await k else t.finishWith k fun c => c.writePair pt pf (false, true))

/-! ## The start of a churn's thread (R362) -/

/-- R362: an idle churn takes the record of its start slot. -/
def execChurnStart (pkg : BitVec 10) (c : BitVec 5) (s : State) : Out :=
  .next (
    let k := coreKey (.churn pkg c)
    let p := pkg.toNat
    let part := s.partOf p (coreDie k)
    if (s.core k).alive || ((s.pkg p).churns.find c.toNat).isSome || !s.serves p part || !s.slotGo k then s
    else
      let b := s.engineRead none (s.startSlot k) 128
      let v := leNat b.2
      let r : BitVec 512 := BitVec.ofNat 512 v
      let j : Job := { part := BitVec.ofNat 2 part, ctx := BitVec.ofNat 12 (getFld v 514 12) }
      let s := b.1
      if s.recordOk p part j r && recSize r == 1 && recTile r == 0 && !recPin r then
        let s := s.setSlot k false true
        let s := s.startThread k (startCore j (BitVec.ofNat 64 (s.ctxField p j 256 64)) 0 0 none r 1)
        (s.useKernel p j (BitVec.ofNat 64 (recEntry r))).onPkg p fun x =>
          { x with churns := x.churns.put c.toNat { rcd := r, base := k, job := j, failed := false } }
      else (s.refuseRecord p part j r (4096 * p + 4 * recTile r) (s.startSlot k)).setSlot k false false)

end Machine
end Sys2Proof
end

