-- ==== Sys2Proof/Machine/Collective.lean ====
section
/-! DEFINITION. The collective engine (R369 to R374): the start of a `COLL`, the pairing of its members, the chunks, and how a group
fails or re-forms. -/

namespace Sys2Proof
namespace Machine

/-! ## Fields (R369) -/

def collKind (w : Wide) : Nat := cf w 16 3
def collOp (w : Wide) : Nat := cf w 19 2
def collCount (w : Wide) : Nat := cf w 32 32
def collRoot (w : Wide) : Nat := cf w 64 10
def collGroup (w : Wide) : Nat := cw1 w / 4096 * 4096

/-- Bytes of an element: FP32 or `bf16`. -/
def collSize (w : Wide) : Nat := if cf w 21 5 = 0 then 4 else 2

/-- What paired commands must agree in (R371). -/
def collAgree (a b : Wide) : Bool := cf a 16 16 == cf b 16 16 && collCount a == collCount b && collRoot a == collRoot b

/-- Elements that a member's destination holds, of `m` members. -/
def collDest (w : Wide) (m : Nat) : Nat := if collKind w = 2 then m * collCount w else collCount w

/-- Does the kind reduce? -/
def collReduces (w : Wide) : Bool := collKind w == 0 || collKind w == 1 || collKind w == 4

/-! ## Arithmetic (R372) -/

/-- An element as an FP32 pattern. -/
def collElem (size v : Nat) : Word32 := if size = 4 then BitVec.ofNat 32 v else BitVec.ofNat 32 (v * 2 ^ 16)

/-- One combination; that of an add is the saturating Round of R14 and R179. -/
def combine (op : Nat) (a b : Word32) : Summed :=
  let x := f32Val a
  let y := f32Val b
  if x.isNan || y.isNan then (0x7FC00000, flInvalid)
  else if op = 0 then
    let v := Val.add .rne x y
    let r := roundBlock 0 .rne (some 0) v.1 { u := 0, theta := 0 }
    (BitVec.ofNat 32 r.1, r.2 ||| v.2)
  else if Val.lessEq x y = (op == 2) then (a, noFlags) else (b, noFlags)

/-- Combine in order, the first on the left. -/
def combineAll (op : Nat) : List Word32 → Summed
  | [] => (0, noFlags)
  | v :: vs => vs.foldl (fun (acc : Summed) x => let r := combine op acc.1 x; (r.1, acc.2 ||| r.2)) (v, noFlags)

/-- One level of the tree. -/
def treeLevel (op : Nat) : List Summed → List Summed
  | a :: b :: rest => (let r := combine op a.1 b.1; (r.1, a.2 ||| b.2 ||| r.2)) :: treeLevel op rest
  | rest => rest

/-- Levels until one partial is left. -/
def treeAll (op : Nat) : Nat → List Summed → Summed
  | 0, ps => ps.headD (0, noFlags)
  | fuel + 1, ps => if ps.length ≤ 1 then ps.headD (0, noFlags) else treeAll op fuel (treeLevel op ps)

/-- The order in which a ring combines element `y` of `n` (R372): from rank (s + 1) mod m up to rank s. -/
def ringOrder (m n y : Nat) : List Nat :=
  let seg := y / ((n + m - 1) / m)
  (List.range m).map fun i => (seg + 1 + i) % m

/-- A reduced element from the members' values in rank order: its pattern in the element format, and the flags.
DESIGN CHOICE, Assumption 46. -/
def reduceElem (w : Wide) (n y : Nat) (vs : List Word32) : Nat × Flags :=
  let m := vs.length
  let r : Summed := if cf w 26 1 = 1 then treeAll (collOp w) m (vs.map fun v => (v, noFlags))
    else combineAll (collOp w) ((ringOrder m n y).map fun i => vs.getD i 0)
  if (f32Val r.1).isNan then (if collSize w = 4 then 0x7FC00000 else 0x7FC0, r.2 ||| flInvalid)
  else if collSize w = 4 then (r.1.toNat, r.2)
  else
    let o := roundBlock 1 .rne (some 0) (f32Val r.1) { u := 0, theta := 0 }
    (o.1, r.2 ||| o.2)

/-! ## Starting and pairing (R370, R371) -/

/-- A command ends with FORMAT recorded. -/
def State.collFormat (s : State) (k : Nat) (d : Cmd) : State := (s.faultCmd k d causeFormat (cw1 d.w)).retireCmd k d

/-- What becomes of a command whose descriptor cannot be read. -/
def State.collUnread (s : State) (k : Nat) (d : Cmd) (f : Failed) : State :=
  if f.grip.waits then s else if f.grip = .refuse then (s.cmdFailed k d f).retireCmd k d else s.collFormat k d

/-- The chunk size of a descriptor's header, and its number of members. -/
def collChunkSize (h : Nat) : Nat := getFld h 32 32
def collSizeOf (h : Nat) : Nat := getFld h 16 10 + 1

/-- The dies that a descriptor's member entries name, in rank order. -/
def collDies (es : List Nat) : List Nat := es.map fun e => dieKey (getFld e 0 10) (getFld e 10 2)

/-- Is the descriptor malformed for a member on die `me` (R370)? `res0` of a member entry is ignored (R11). -/
def collHeadBad (h me : Nat) (es : List Nat) : Bool :=
  let chunk := collChunkSize h
  getFld h 26 6 != 0 || getFld h 64 448 != 0 || chunk % 1024 != 0 || chunk == 0 || decide (2 ^ 20 < chunk)
    || ((collDies es).filter (· == me)).length != 1

/-- The number of a command whose descriptor holds group id `g`: the one it took at its acceptance; where it took none for that group
id, it takes one now. DESIGN CHOICE, Assumption 44. -/
def State.collNumbered (s : State) (k : Nat) (d : Cmd) (g : Nat) : State × Nat :=
  let me := coreDieKey k
  let key := collKey (s.core k).job g
  let n := (s.die me).collSeq.get 0 key
  match d.prog.nums with
  | [g0, n0] => if g0 = g then (s, n0) else (s.onDie me fun v => { v with collSeq := v.collSeq.put key (n + 1) }, n)
  | _ => (s.onDie me fun v => { v with collSeq := v.collSeq.put key (n + 1) }, n)

/-- The command starts: its own rank, the chunk size and the members' dies are kept with it. -/
def State.collEnter (s : State) (k : Nat) (d : Cmd) (h : Nat) (es : List Nat) : State :=
  let me := coreDieKey k
  if collHeadBad h me es then s.collFormat k d
  else
    let r := s.collNumbered k d (getFld h 0 16)
    let pr : Progress := { d.prog with k := (collDies es).idxOf me, batch := collSizeOf h, off := getFld h 0 16, idx := r.2,
                                       nums := collChunkSize h :: collDies es }
    r.1.onCmd k d.age fun c => { c with started := true, prog := pr }

/-- The member entries of a descriptor whose header is `h`. -/
def State.collHeader (s : State) (k : Nat) (d : Cmd) (h : Nat) : State :=
  let q := s.grab k d (collGroup d.w + 64) (8 * collSizeOf h)
  match q.2 with
  | .error f => q.1.collUnread k d f
  | .ok b => q.1.collEnter k d h ((List.range (collSizeOf h)).map fun i => getFld (leNat b.1) (64 * i) 64)

/-- The engine reads the descriptor. -/
def State.collStart (s : State) (k : Nat) (d : Cmd) : State :=
  let g := s.grab k d (collGroup d.w) 64
  match g.2 with
  | .error f => g.1.collUnread k d f
  | .ok b => g.1.collHeader k d (leNat b.1)

/-- The paired command at a member die, with its core. -/
def State.collPartner (s : State) (j : Job) (d : Cmd) (die : Nat) : Option (Nat × Cmd) :=
  s.cores.findSome? fun e =>
    if isTileCore e.1 && coreDieKey e.1 == die && e.2.job == j then
      (e.2.cmds.find? fun c => c.q == .clq && c.started && c.prog.off == d.prog.off && c.prog.idx == d.prog.idx).map fun c => (e.1, c)
    else none

/-- A member with its rank, core and command. -/
structure CollMember where
  rank : Nat
  core : Nat
  cmd : Cmd
deriving DecidableEq, Repr

/-- Do data of member `m` go to member `o` (R371)? -/
def collFlows (kind root : Nat) (m o : CollMember) : Bool :=
  match kind with
  | 3 => m.rank == root
  | 4 => o.rank == root
  | _ => true

/-- Log each member's command whose data leaves its package; none when a log is full (R356, R373). -/
def State.collLog (s : State) (ms : List CollMember) : Option State :=
  ms.foldl (fun (acc : Option State) m => acc.bind fun u =>
    match ms.find? fun o => collFlows (collKind m.cmd.w) (collRoot m.cmd.w) m o && corePkg o.core != corePkg m.core with
    | some o => u.logProvenance m.core m.cmd.born (corePkg o.core) 0 (collCount m.cmd.w * collSize m.cmd.w)
    | none => some u) (some s)

/-- A group forms of the members that are alive; the command ages by rank. -/
def State.collForm (s : State) (d : Cmd) (dies ranks : List Nat) (ms : List CollMember) : State :=
  let who (r : Nat) : Nat × Nat := match ms.find? fun m => m.rank == r with | some m => (m.core, m.cmd.age) | none => (0, 0)
  let g : Coll := { gid := d.prog.off, kind := collKind d.w, dies := dies, who := (List.range dies.length).map who,
                    alive := ranks, chunk := 0, chunkLen := d.prog.nums.headD 1024 }
  let s := ms.foldl (fun u m => u.onCmd m.core m.cmd.age fun c => { c with logWait := false, prog := { c.prog with counted := true } }) s
  let s := if ranks.length = dies.length then s
    else ms.foldl (fun u m => u.faultCmd m.core m.cmd causeRemoteDead (cw3 m.cmd.w)) s
  { s with colls := s.colls ++ [g] }

/-- The ranks of a group that take part: all, or with `reform` those on packages not known dead. -/
def State.collRanks (s : State) (k : Nat) (dies : List Nat) (reform : Bool) : List Nat :=
  (List.range dies.length).filter fun r =>
    let e := dies.getD r 0
    !(reform && e / 4 != corePkg k && s.deadSeen (coreDieKey k) (e / 4))

/-- The commands paired with one, by rank. -/
def State.collFound (s : State) (k : Nat) (d : Cmd) (dies ranks : List Nat) : List CollMember :=
  ranks.filterMap fun r => (s.collPartner (s.core k).job d (dies.getD r 0)).map fun p =>
    ({ rank := r, core := p.1, cmd := p.2 } : CollMember)

/-- The dies that a command's descriptor lists, once it has started. -/
def Cmd.lists (d : Cmd) : List Nat := if d.started then d.prog.nums.drop 1 else []

/-- Every command of the job that has the group id and number of `d`, started or not. -/
def State.collNamesakes (s : State) (j : Job) (d : Cmd) : List CollMember :=
  (s.cores.filter fun e => isTileCore e.1 && e.2.job == j).flatMap fun e =>
    (e.2.cmds.filter fun c => c.q == .clq && (if c.started then c.prog.off == d.prog.off && c.prog.idx == d.prog.idx
      else c.prog.nums == [d.prog.off, d.prog.idx])).map fun c => { rank := 0, core := e.1, cmd := c }

/-- Those of `all` that descriptors tie to one of `ms`, directly or through others. -/
def collTied (all : List CollMember) : Nat → List CollMember → List CollMember
  | 0, ms => ms
  | n + 1, ms => collTied all n (all.filter fun a =>
      ms.any fun m => m == a || a.cmd.lists.contains (coreDieKey m.core) || m.cmd.lists.contains (coreDieKey a.core))

/-- The commands that pair with a started one: by its own descriptor, or by theirs. -/
def State.collPaired (s : State) (k : Nat) (d : Cmd) : List CollMember :=
  let all := s.collNamesakes (s.core k).job d
  collTied all all.length (all.filter fun m => m.core == k && m.cmd.age == d.age)

/-- Does a paired command agree with one? One that has yet to start does not disagree. -/
def CollMember.agrees (m : CollMember) (d : Cmd) : Bool :=
  !m.cmd.started || (collAgree m.cmd.w d.w && m.cmd.prog.nums == d.prog.nums && m.cmd.prog.batch == d.prog.batch)

/-- The group of a started command forms once every member that is not on a dead package has started its own; `reform` lets dead
packages be left out (R371, R374). On a disagreement every member of which a command is there records FORMAT; one that is in a group
already disagrees with one that is not. DEDUCED, Assumption 110. -/
def State.collMatch (s : State) (k : Nat) (d : Cmd) (reform : Bool) : State :=
  let dies := d.prog.nums.drop 1
  let ranks := s.collRanks k dies reform
  let ms := s.collFound k d dies ranks
  let paired := s.collPaired k d
  if ms.length ≠ ranks.length then s
  else if !(paired.all fun m => m.agrees d && !m.cmd.prog.counted) then
    (paired.filter fun m => !m.cmd.prog.counted).foldl (fun u m => u.collFormat m.core m.cmd) s
  else match s.collLog ms with
    | none => ms.foldl (fun u m => u.onCmd m.core m.cmd.age fun c => { c with logWait := true }) s
    | some s => s.collForm d dies ranks ms

/-- The commands of the die's tile cores that `ready` picks, as its engine sees them: class, then age (R272). -/
def State.dieCands (s : State) (e : Nat) (ready : Nat → Core → List Cmd) : List Cand :=
  (s.cores.filter fun c => isTileCore c.1 && coreDieKey c.1 == e).flatMap fun c =>
    (ready c.1 c.2).map fun d => { core := c.1, cls := s.eff c.1, weight := 0, credit := 0, age := d.age }

/-- The `COLL`s that may start on a die: every write that a pusher made before the push is performed (R373). -/
def State.collCands (s : State) (e : Nat) : List Cand :=
  s.dieCands e fun k c => c.cmds.filter fun d => d.q == .clq && !d.started && s.released k d.age .pod

/-- The command that the collective engine of a die starts next, with the bookkeeping of the bound after it (R46, R272). -/
def State.collNext (s : State) (e : Nat) : Option (Cand × SMap Nat) :=
  let cs := s.collCands e
  let starve := (s.die e).clstarve
  (arbitrate starve cs).map fun w => (w.1, starveNext starve cs w.1)

/-- The `COLL` that the engine starts next, where it is of a kind and core `k` pushed it. One whose descriptor has no answer yet stays
where it is, and the engine asks again. -/
def State.collGrant (s : State) (k kind : Nat) : State :=
  match s.collNext (coreDieKey k) with
  | some (w, starve) =>
    (match (s.core k).cmds.find? fun d => w.core == k && d.age == w.age && collKind d.w == kind with
    | some d =>
      let u := s.collStart k d
      if (u.core k).cmds.any fun c => c.age == d.age && !c.started then u
      else u.onDie (coreDieKey k) fun v => { v with clstarve := starve }
    | none => s)
  | none => s

/-- A step of the `COLL`s of a kind on core `k`: one starts where it is its turn, and the group of every one that has started forms if it
can. -/
def State.collEvent (s : State) (k kind : Nat) : State :=
  let s := s.collGrant k kind
  let open_ (d : Cmd) : Bool := d.q == .clq && collKind d.w == kind && d.started && !d.prog.counted
  (((s.core k).cmds.filter open_).map (·.age)).foldl (fun u a => match (u.core k).cmds.find? fun d => d.age == a && open_ d with
    | some d => u.collMatch k d false
    | none => u) s

/-- R371, R372: allreduce. -/
def execCollAllreduce (c : CoreId) (s : State) : Out := .next (s.collEvent (coreKey c) 0)

/-- R371, R372: reduce-scatter. -/
def execCollReduceScatter (c : CoreId) (s : State) : Out := .next (s.collEvent (coreKey c) 1)

/-- R371: allgather. -/
def execCollAllgather (c : CoreId) (s : State) : Out := .next (s.collEvent (coreKey c) 2)

/-- R371: broadcast. -/
def execCollBroadcast (c : CoreId) (s : State) : Out := .next (s.collEvent (coreKey c) 3)

/-- R371, R372: reduce. -/
def execCollReduce (c : CoreId) (s : State) : Out := .next (s.collEvent (coreKey c) 4)

/-! ## Chunks (R373) -/

/-- Pieces of `n` bytes at `a` that cross no multiple of `u`. -/
def cutBy (u a n : Nat) : List (Nat × Nat) :=
  if n = 0 then []
  else (List.range ((a + n + u - 1) / u - a / u)).map fun i =>
    (max a ((a / u + i) * u) - a, min (a + n) ((a / u + i + 1) * u) - max a ((a / u + i) * u))

/-- Write bytes at a virtual address for a command, piece by piece; a piece that fails is recorded. `bad` marks the words. -/
def State.putVa (s : State) (k : Nat) (d : Cmd) (va : Nat) (bs : List Byte) (bad : Bool) : State :=
  (cut va bs.length).foldl (fun u e =>
    let r := u.engineAt k (va + e.1) .wr
    match r.2 with
    | .key key =>
      let w := (r.1.engineWrite key ((bs.drop e.1).take e.2) false).completeWords k d.age (r.1.realKey key) e.2
      if bad then (cutBy 8 key e.2).foldl (fun x p => x.setMark (x.realKey (key + p.1)) true) w else w
    | g => r.1.cmdFailed k d { grip := g, va := va + e.1 }) s

/-- The live members of a group with their commands; none when a command is gone. -/
def State.collMembers (s : State) (g : Coll) : Option (List CollMember) :=
  g.alive.foldr (fun r acc => acc.bind fun ms =>
    let w := g.who.getD r (0, 0)
    ((s.core w.1).cmds.find? fun d => d.q == .clq && d.age == w.2).map fun d => { rank := r, core := w.1, cmd := d } :: ms) (some [])

/-- A group is over. -/
def State.collDrop (s : State) (g : Coll) : State := { s with colls := s.colls.filter (· != g) }

/-- A group changes. -/
def State.collPut (s : State) (g g1 : Coll) : State := { s with colls := s.colls.map fun x => if x == g then g1 else x }

/-- A group one of whose commands is gone fails at the others (R374). -/
def State.collFail (s : State) (g : Coll) : State :=
  let s := s.collDrop g
  g.alive.foldl (fun u r =>
    let w := g.who.getD r (0, 0)
    match (u.core w.1).cmds.find? fun d => d.q == .clq && d.age == w.2 with
    | some d => (u.faultCmd w.1 d causeBarrierTimeout (cw1 d.w)).retireCmd w.1 d
    | none => u) s

/-- The source bytes of every member from an offset; each can be read (`collProbe`). -/
def State.collRead (s : State) (off n : Nat) : List CollMember → State × List (List Byte)
  | [] => (s, [])
  | m :: ms =>
    let r := s.grab m.core m.cmd (cw2 m.cmd.w + off) n
    let q := r.1.collRead off n ms
    (q.1, (match r.2 with | .ok g => g.1 | .error _ => []) :: q.2)

/-- Elements `lo` to `hi - 1` of the reduction over the members' sources, at consumers `cs`, `base` elements into the source. -/
def State.collReduceInto (s : State) (w : Wide) (ms cs : List CollMember) (n base lo hi : Nat) : State :=
  let e := collSize w
  let r := s.collRead ((base + lo) * e) ((hi - lo) * e) ms
  let outs := (List.range (hi - lo)).map fun i =>
    reduceElem w n (base + lo + i) (r.2.map fun bs => collElem e (leNat ((bs.drop (i * e)).take e)))
  let bytes := outs.flatMap fun o => toBytes e o.1
  let fl := outs.foldl (fun (f : Flags) o => f ||| o.2) noFlags
  cs.foldl (fun u m => (u.putVa m.core m.cmd (cw3 m.cmd.w + lo * e) bytes false).onCore m.core fun c => c.raise fl) r.1

/-- Copy `n` bytes of a member's source, `off` bytes in, to `dst` bytes into every consumer's destination, marks included. -/
def State.collCopyInto (s : State) (m : CollMember) (cs : List CollMember) (off dst n : Nat) : State :=
  let a := cw2 m.cmd.w + off
  (cutBy (if s.marks.isEmpty then 64 else 8) a n).foldl (fun u p =>
    let r := u.grab m.core m.cmd (a + p.1) p.2
    match r.2 with
    | .error _ => r.1
    | .ok (bs, bad) => cs.foldl (fun x c => x.putVa c.core c.cmd (cw3 c.cmd.w + dst + p.1) bs bad) r.1) s

/-- Form and commit elements `lo` to `hi - 1` of every consumer's destination. -/
def State.collChunk (s : State) (g : Coll) (w : Wide) (ms : List CollMember) (lo hi : Nat) : State :=
  let e := collSize w
  let n := collCount w
  let total := g.dies.length * n
  match g.kind with
  | 0 => s.collReduceInto w ms ms n 0 lo hi
  | 1 => ms.foldl (fun u m => u.collReduceInto w ms [m] total (m.rank * n) lo hi) s
  | 2 => ms.foldl (fun u m =>
      let a := max lo (m.rank * n)
      let b := min hi ((m.rank + 1) * n)
      if a < b then u.collCopyInto m ms ((a - m.rank * n) * e) (a * e) ((b - a) * e) else u) s
  | 3 => match ms.find? fun m => m.rank == collRoot w with
    | some m => s.collCopyInto m ms (lo * e) (lo * e) ((hi - lo) * e)
    | none => s
  | _ => match ms.filter fun m => m.rank == collRoot w with
    | [] => s
    | cs => s.collReduceInto w ms cs n 0 lo hi

/-- The source ranges that elements `lo` to `hi - 1` of every destination come from: member, offset and length. -/
def collSources (kind : Nat) (w : Wide) (ms : List CollMember) (lo hi : Nat) : List (CollMember × Nat × Nat) :=
  let e := collSize w
  let n := collCount w
  match kind with
  | 1 => ms.flatMap fun c => ms.map fun m => (m, (c.rank * n + lo) * e, (hi - lo) * e)
  | 2 => ms.filterMap fun m =>
      let a := max lo (m.rank * n)
      let b := min hi ((m.rank + 1) * n)
      if a < b then some (m, (a - m.rank * n) * e, (b - a) * e) else none
  | 3 => (ms.filter fun m => m.rank == collRoot w).map fun m => (m, lo * e, (hi - lo) * e)
  | _ => ms.map fun m => (m, lo * e, (hi - lo) * e)

/-- What asking for a chunk's accesses gives: all can be made; one waits, at a compact member that holds it or with no answer (R310,
R352); a member's source fails, or brings marked data at an address. -/
inductive Probe where
  | ok
  | waits
  | failed (m : CollMember) (f : Failed)
  | marked (m : CollMember) (va : Nat)
deriving DecidableEq, Repr

/-- Has the asking ended? A piece that waits lets the others be asked for. -/
def Probe.ends : Probe → Bool
  | .ok | .waits => false
  | .failed .. | .marked .. => true

/-- Ask for one piece of member `m`'s source: it has been brought, can be read, waits, or fails. Marks count where the data enters
arithmetic. -/
def State.probeRead (s : State) (m : CollMember) (va n : Nat) : State × Probe :=
  let seen (bad : Bool) : Probe := if bad && collReduces m.cmd.w then .marked m va else .ok
  match m.cmd.prog.got.find? fun g => g.va == va && g.bytes.length == n with
  | some g => (s, seen g.bad)
  | none =>
    let r := s.engineAt m.core va .rd
    match r.2 with
    | .key key => (r.1, seen (r.1.markedIn (r.1.realKey key) n).isSome)
    | .wait (some key) => (r.1.holdAt (r.1.holder key) (.get m.core m.cmd.age va key n), .waits)
    | .wait none => (r.1, .waits)
    | w => (r.1, .failed m { grip := w, va := va })

/-- Ask for one piece of member `m`'s destination: a failure there is the member's own. -/
def State.probeWrite (s : State) (m : CollMember) (va : Nat) : State × Probe :=
  let r := s.engineAt m.core va .wr
  (r.1, if r.2.waits then .waits else .ok)

/-- Ask for every access that a chunk makes. Until none waits, no member writes any of it: a chunk commits whole (R373). -/
def State.collProbe (s : State) (g : Coll) (w : Wide) (ms : List CollMember) (lo hi : Nat) : State × Probe :=
  let e := collSize w
  let cs := if g.kind = 4 then ms.filter fun m => m.rank == collRoot w else ms
  let and1 (acc : State × Probe) (ask : State → State × Probe) : State × Probe :=
    if acc.2.ends then acc else let r := ask acc.1; (r.1, if r.2 == .ok then acc.2 else r.2)
  let reads := (collSources g.kind w ms lo hi).flatMap fun x =>
    (cut (cw2 x.1.cmd.w + x.2.1) x.2.2).map fun p => (x.1, cw2 x.1.cmd.w + x.2.1 + p.1, p.2)
  let writes := cs.flatMap fun m => (cut (cw3 m.cmd.w + lo * e) ((hi - lo) * e)).map fun p => (m, cw3 m.cmd.w + lo * e + p.1)
  let r := reads.foldl (fun acc x => and1 acc fun u => u.probeRead x.1 x.2.1 x.2.2) (s, .ok)
  writes.foldl (fun acc x => and1 acc fun u => u.probeWrite x.1 x.2) r

/-- Is the package of a rank dead, as its group's survivors learn (R352, R374)? -/
def State.rankDead (s : State) (g : Coll) (r : Nat) : Bool :=
  let p := g.dies.getD r 0 / 4
  (s.pkg p).dead || g.alive.any fun o => g.dies.getD o 0 / 4 != p && !(s.pkg (g.dies.getD o 0 / 4)).dead && s.deadSeen (g.dies.getD o 0) p

/-- A group loses its ranks on dead packages and goes on at the first chunk not committed; each survivor records REMOTE_DEAD.
DESIGN CHOICE, Assumption 45. -/
def State.collShrink (s : State) (g : Coll) : State × Coll :=
  let g1 : Coll := { g with alive := g.alive.filter fun r => !s.rankDead g r }
  if g1.alive = g.alive then (s, g)
  else
    (g1.alive.foldl (fun u r =>
      let w := g.who.getD r (0, 0)
      match (u.core w.1).cmds.find? fun d => d.q == .clq && d.age == w.2 with
      | some d => u.faultCmd w.1 d causeRemoteDead (cw3 d.w + g.chunk * g.chunkLen)
      | none => u) (s.collPut g g1), g1)

/-- The next chunk is done with; after the last one every member completes. -/
def State.collGoOn (s : State) (g : Coll) (ms : List CollMember) (last : Bool) : State :=
  if last then ms.foldl (fun u x => u.retireCmd x.core x.cmd) (s.collDrop g)
  else s.collPut g { g with chunk := g.chunk + 1 }

/-- Member `m`'s source cannot be read: the chunk is no member's. A fault is recorded by every member, at the others with the address of
the chunk in their destination; a refusal ends the group. DESIGN CHOICE, Assumption 45. -/
def State.collLost (s : State) (g : Coll) (ms : List CollMember) (m : CollMember) (f : Failed) (off : Nat) (last : Bool) : State :=
  match f.grip with
  | .fault c =>
    let s := ms.foldl (fun u x =>
      if x == m then u.cmdFailed x.core x.cmd f else u.faultCmd x.core x.cmd c (cw3 x.cmd.w + off)) s
    s.collGoOn g ms last
  | _ => ((s.cmdFailed m.core m.cmd f).retireCmd m.core m.cmd).collFail g

/-- Is a member's package off, and its death not yet known to the others? The group then waits for it to be declared (R330, R374). -/
def State.collStalls (s : State) (g : Coll) : Bool := g.alive.any fun r => (s.pkg (g.dies.getD r 0 / 4)).off

/-- Commit the next chunk of a group. Marked data that a reduction reads kills the core that pushed that member's command (R348), and a
copy takes its marks along. -/
def State.collCommit (s : State) (g : Coll) : State :=
  match s.collMembers g with
  | none => if s.collStalls g then s else s.collFail g
  | some [] => s.collDrop g
  | some (m :: ms) =>
    let w := m.cmd.w
    let per := g.chunkLen / collSize w
    let all := collDest w g.dies.length
    let lo := g.chunk * per
    let hi := min all ((g.chunk + 1) * per)
    let last := decide (all ≤ (g.chunk + 1) * per)
    let r := s.collProbe g w (m :: ms) lo hi
    match r.2 with
    | .ok => (r.1.collChunk g w (m :: ms) lo hi).collGoOn g (m :: ms) last
    | .waits => r.1
    | .failed x f => r.1.collLost g (m :: ms) x f (lo * collSize w) last
    | .marked x va => r.1.killCmd x.core x.cmd (BitVec.ofNat 64 va)

/-- The next chunk of the first group that does not wait; a group with ranks on dead packages re-forms first. -/
def State.collMove (s : State) : List Coll → State
  | [] => s
  | g :: gs =>
    let r := s.collShrink g
    let u := r.1.collCommit r.2
    if u.colls.contains r.2 then u.collMove gs else u

/-- R373, R374: the groups of a die, the oldest first. -/
def execCollChunkCommit (d : DieId) (s : State) : Out :=
  .next (s.collMove (s.colls.filter fun g => g.dies.contains (dieKey d.pkg.toNat d.die.toNat)))

/-! ## Failures (R371, R374) -/

/-- The tile clocks that a member waits for its partners. -/
def collLimit : Nat := 2 ^ 30

/-- Has a command that pairs with `d` been accepted at a die? -/
def State.collAccepted (s : State) (j : Job) (d : Cmd) (die : Nat) : Bool :=
  s.cores.any fun e => isTileCore e.1 && coreDieKey e.1 == die && e.2.job == j && e.2.cmds.any fun c => c.q == .clq
    && (if c.started then c.prog.off == d.prog.off && c.prog.idx == d.prog.idx else c.prog.nums == [d.prog.off, d.prog.idx])

/-- Is a partner of a started command missing? -/
def State.collMissing (s : State) (k : Nat) (d : Cmd) : Bool :=
  d.started && (d.prog.nums.drop 1).any fun e => !s.collAccepted (s.core k).job d e

/-- R371: the partner commands of a member's command in no group have not all arrived. -/
def execCollTimeout (c : CoreId) (s : State) : Out :=
  .next (
    let k := coreKey c
    match (s.core k).cmds.find? fun d =>
        d.q == .clq && !d.prog.counted && decide (d.since + collLimit ≤ s.time) && s.collMissing k d with
    | some d => (s.faultCmd k d causeBarrierTimeout (cw1 d.w)).retireCmd k d
    | none => s)

/-- R374: the groups of a die re-form without the members of dead packages, those that have yet to form included. -/
def execCollReform (d : DieId) (s : State) : Out :=
  .next (
    let e := dieKey d.pkg.toNat d.die.toNat
    let s := (s.colls.filter fun g => g.dies.contains e).foldl (fun u g => (u.collShrink g).1) s
    let waiting := s.cores.flatMap fun c =>
      if isTileCore c.1 && coreDieKey c.1 == e then
        (c.2.cmds.filter fun d => d.q == .clq && d.started && !d.prog.counted).map fun d => (c.1, d)
      else []
    waiting.foldl (fun u p => match (u.core p.1).cmds.find? fun x => x.age == p.2.age with
      | some x => u.collMatch p.1 x true
      | none => u) s)

end Machine
end Sys2Proof
end

