-- ==== Sys2Proof/Machine/Offload.lean ====
section
/-! DEFINITION. The offload engine: `OFFLOAD`, `REPLAY`, and the host's answers to it and to the signing unit (R375 to R378, R390). -/

namespace Sys2Proof
namespace Machine

/-! ## Host memory -/

/-- The key of a bus address as a package's host sees it, above every key of the pod's own memory. -/
def hostKey (pkg hba : Nat) : Nat := 2 ^ 80 + pkg * 2 ^ 64 + hba % 2 ^ 64

def State.hostPut (s : State) (pkg hba : Nat) (bs : List Byte) : State :=
  { s with hostMem := memWrite s.hostMem (hostKey pkg hba) bs,
           hostBad := (wordsOf (hostKey pkg hba) bs.length).foldl (fun m w => m.del w) s.hostBad }

/-- Words of a write go out in a poisoned TLP (R376); `bad` holds their offsets. -/
def State.hostPoison (s : State) (pkg hba : Nat) (bad : List Nat) : State :=
  { s with hostBad := bad.foldl (fun m o => m.put ((hostKey pkg hba + o) / 8) true) s.hostBad }

/-! ## The list (R375) -/

/-- An entry: dva, hba and bytes; none where it is bad. `res0` is ignored (R11). -/
def listEntry (v : Nat) : Option (List Nat) :=
  let dva := getFld v 0 64
  let hba := getFld v 64 64
  let n := getFld v 128 32
  if dva % 64 ≠ 0 ∨ hba % 64 ≠ 0 ∨ n % 64 ≠ 0 ∨ n = 0 then none else some [dva, hba, n]

def Cmd.entries (d : Cmd) : Nat := cf d.w 32 16

/-- The entry in hand: its dva, hba and length. -/
def Progress.dva (p : Progress) : Nat := p.nums.getD 0 0
def Progress.hba (p : Progress) : Nat := p.nums.getD 1 0
def Progress.bytes (p : Progress) : Nat := p.nums.getD 2 0

/-- Does the entry in hand have a piece left? -/
def Progress.more (p : Progress) : Bool := decide (p.off < p.bytes)

def State.onProg (s : State) (k : Nat) (d : Cmd) (f : Progress → Progress) : State :=
  s.onCmd k d.age fun c => { c with prog := f c.prog }

/-- The rest of the entry in hand is left out. DESIGN CHOICE, Assumption 47. -/
def Progress.skip (p : Progress) : Progress := { p with off := p.bytes, counted := false }

/-- Read entry number `i` and take it in hand; a bad entry records FORMAT and is skipped. -/
def State.takeEntry (s : State) (k : Nat) (d : Cmd) (i : Nat) : State :=
  let a := cw1 d.w + 32 * i
  let r := s.grab k d a 32
  match r.2 with
  | .error f =>
    if f.grip.waits then r.1 else (r.1.cmdFailed k d f).onProg k d fun p => { p.skip with idx := p.idx + 1 }
  | .ok (bs, _) => match listEntry (leNat bs) with
    | none => (r.1.faultCmd k d causeFormat a).onProg k d fun p => { p.skip with idx := p.idx + 1 }
    | some e => r.1.onProg k d fun p => { p with nums := e, off := 0, idx := p.idx + 1 }

/-- hba of entry 0 and the bytes of the good entries, for the provenance log; none while a compact member holds the list. -/
def State.listSum (s : State) (k : Nat) (d : Cmd) : State × Option (Nat × Nat) :=
  (List.range d.entries).foldl (fun acc i =>
    match acc.2 with
    | none => acc
    | some (hba, n) =>
      let r := acc.1.grab k d (cw1 d.w + 32 * i) 32
      match r.2 with
      | .ok (bs, _) =>
        let v := leNat bs
        let more := match listEntry v with | some e => e.getD 2 0 | none => 0
        (r.1, some (if i = 0 then getFld v 64 64 else hba, n + more))
      | .error f => (r.1, if f.grip.waits then none else some (hba, n))) (s, some (0, 0))

/-! ## Arbitration (R46, R272) -/

/-- The heads of the offload queues of a die's cores that have not started: one command of a core runs at a time (R378). -/
def State.offloadCands (s : State) (e : Nat) : List Cand :=
  s.dieCands e fun _ c => match c.headOf .ofq with
    | some d => if d.started then [] else [d]
    | none => []

/-- Does the offload engine of its die grant the command of core `k` next? -/
def State.offloadNext (s : State) (k : Nat) : Bool :=
  match arbitrate (s.die (coreDieKey k)).ofstarve (s.offloadCands (coreDieKey k)) with
  | some (w, _) => w.core == k
  | none => false

/-- The engine starts a command: the bookkeeping of R46. -/
def State.offloadStart (s : State) (k : Nat) (d : Cmd) : State :=
  let cs := s.offloadCands (coreDieKey k)
  let s := match cs.find? fun c => c.core == k with
    | some w => s.onDie (coreDieKey k) fun v => { v with ofstarve := starveNext v.ofstarve cs w }
    | none => s
  s.onCmd k d.age fun c => { c with started := true, logWait := false }

/-! ## `OFFLOAD` (R376) -/

/-- Start the command at the head, an `OFFLOAD` once it is logged (R356). -/
def State.offloadBegin (s : State) (k : Nat) (d : Cmd) (log : Bool) : State :=
  if !s.offloadNext k then s
  else if !log then s.offloadStart k d
  else
    let e := s.listSum k d
    match e.2 with
    | none => e.1
    | some (hba, n) => match e.1.logProvenance k d.born (corePkg k) hba n with
      | none => s.onCmd k d.age fun c => { c with logWait := true }
      | some u => u.offloadStart k d

/-- The offsets of the marked words among 64 bytes of a piece (R376). -/
def State.pieceBad (s : State) (k va : Nat) : List Nat :=
  match (s.resolve k va .rd).2 with
  | some key => ((List.range 8).map (8 * ·)).filter fun o => (s.markedIn (s.realKey (key + o)) 8).isSome
  | none => []

/-- One piece, the next entry, or the read that ends the command. -/
def State.offloadStep (s : State) (k : Nat) (d : Cmd) : State :=
  let p := d.prog
  if !d.started then s.offloadBegin k d true
  else if p.counted then s
  else if p.more then
    let r := s.grab k d (p.dva + p.off) 64
    match r.2 with
    | .error f => if f.grip.waits then r.1 else (r.1.cmdFailed k d f).onProg k d Progress.skip
    | .ok (bs, bad) =>
      let u := r.1.hostPut (corePkg k) (p.hba + p.off) bs
      let u := if bad then u.hostPoison (corePkg k) (p.hba + p.off) (r.1.pieceBad k (p.dva + p.off)) else u
      u.onProg k d fun p => { p with off := p.off + 64 }
  else if p.idx < d.entries then s.takeEntry k d p.idx
  else if p.nums.isEmpty then s.retireCmd k d
  else s.onProg k d fun p => { p with counted := true }

/-- R376, R378: the head of a core's offload queue goes on. -/
def execOffload (c : CoreId) (s : State) : Out :=
  .next (match (s.core (coreKey c)).headOf .ofq with
    | some d => if d.opc = 0x28 then s.offloadStep (coreKey c) d else s
    | none => s)

/-! ## `REPLAY` (R377) -/

/-- The request of a piece, the next entry from the last to the first, or the end. -/
def State.replayStep (s : State) (k : Nat) (d : Cmd) : State :=
  let p := d.prog
  if !d.started then s.offloadBegin k d false
  else if p.counted then s
  else if p.more then s.onProg k d fun p => { p with counted := true }
  else if p.idx < d.entries then s.takeEntry k d (d.entries - 1 - p.idx)
  else s.retireCmd k d

/-- R377, R378. -/
def execReplay (c : CoreId) (s : State) : Out :=
  .next (match (s.core (coreKey c)).headOf .ofq with
    | some d => if d.opc = 0x29 then s.replayStep (coreKey c) d else s
    | none => s)

/-- Data of a `REPLAY` arrives: it is written with full bits, counted, and marked when the host poisoned it. A write that leaves the
package is logged once per command (R356). -/
def State.replayWrite (s : State) (k : Nat) (d : Cmd) (poisoned : Bool) : State :=
  let p := d.prog
  let bs := memRead s.hostMem (hostKey (corePkg k) (p.hba + p.off)) 64
  let r := s.engineAt k (p.dva + p.off) .wr
  match r.2 with
  | .key key =>
    let out := keyPkg key != corePkg k && p.batch == 0
    match (if out then r.1.logProvenance k d.born (keyPkg key) p.dva p.bytes else some r.1) with
    | none => s.onCmd k d.age fun c => { c with logWait := true }
    | some s =>
      let s := s.engineWrite key bs true
      let s := if poisoned then (List.range 8).foldl (fun u i => u.setMark (u.realKey (key + 8 * i)) true) s else s
      let s := if cf d.w 30 1 = 1 then s.countArrival (s.jobStore k) (cf d.w 24 6) 64 else s
      s.onCmd k d.age fun c =>
        { c with logWait := false, prog := { c.prog with off := c.prog.off + 64, counted := false, batch := if out then 1 else c.prog.batch } }
  | .wait _ => r.1
  | g => (r.1.cmdFailed k d { grip := g, va := p.dva + p.off }).onProg k d Progress.skip

/-! ## The host's answers -/

/-- The oldest command of the offload engine of die `e` that waits for the host. -/
def State.awaiting (s : State) (e : Nat) : Option (Nat × Cmd) :=
  let all := s.cores.flatMap fun c =>
    if isTileCore c.1 && coreDieKey c.1 == e then
      (c.2.cmds.filter fun d => d.q == .ofq && d.started && d.prog.counted).map fun d => (c.1, d)
    else []
  all.foldl (fun m x => match m with
    | some y => if x.2.age < y.2.age then some x else m
    | none => some x) none

/-- The signing unit's read-back returns: the whole report is at the host and areq becomes 0, unless the host has asked again since (R390).
DESIGN CHOICE, Assumption 48. -/
def State.reportDone (s : State) (pkg fn : Nat) : State :=
  s.onPkg pkg fun p =>
    let c := p.control.get Control.idle fn
    { p with reporting := none, control := p.control.put fn { c with areq := c.asked.isSome } }

/-- R375 to R377, R390: the host answers the oldest request of a die; the signing unit stands with die 0. A request that the host
refuses records PAGE with the bus address. -/
def execHostCompletion (d : DieId) (a : HostAnswer) (s : State) : Out :=
  .next (
    let e := dieKey d.pkg.toNat d.die.toNat
    let good := a == .ok || a == .poisoned
    match s.awaiting e with
    | some (k, d) =>
      let p := d.prog
      if d.opc = 0x28 then
        (if good then s else s.faultCmd k d causePage (p.hba + p.bytes - 64)).retireCmd k d
      else if good then s.replayWrite k d (a == .poisoned)
      else (s.faultCmd k d causePage (p.hba + p.off)).onProg k d Progress.skip
    | none => match (s.pkg d.pkg.toNat).reporting with
      | some fn => if d.die = 0 && good then s.reportDone d.pkg.toNat fn else s
      | none => s)

end Machine
end Sys2Proof
end

