-- ==== Sys2Proof/Machine/Faults.lean ====
section
/-! DEFINITION. Refusals and fatal reports on their way, heartbeats, dead packages, failed links, soft errors and the test rotation
(R328, R330, R346, R348, R352 to R355, R374, R384). -/

namespace Sys2Proof
namespace Machine

/-! ## Refusals and fatal reports -/

/-- R346: the refusal arrives and the core freezes; at a saved thread, which holds no core, it arrives when it has resumed.
DEDUCED, Assumption 12. -/
def execAccessRefusal (c : CoreId) (s : State) : Out :=
  .next (
    let k := coreKey c
    let v := s.core k
    match v.refusal with
    | none => s
    | some (va, pc) =>
      if v.st = .running ∨ v.st = .saving ∨ v.st = .stopped then s.freezeCore k va pc
      else if v.st = .saved then s
      else s.onCore k fun c => { c with refusal := none })

/-- The physical core on which a killed tile core stands is declared dead (R330), if it is the one that the kill has silenced. -/
def State.markDeclared (s : State) (k : Nat) : State :=
  let p := physKey (coreTile k / 64 % 4) (s.ptile (coreTile k)) (k % 4)
  if isTileCore k && (s.die (coreDieKey k)).silent.get false p then
    s.onDie (coreDieKey k) fun v => { v with declared := v.declared.put p true }
  else s

/-- The core that serves logical core `k` is declared dead: its record (R328, R330). A thread that still runs on a core that sends no
beats is killed with it; where no thread stands, the record says so and its physical tile is lost (DEDUCED, Assumption 31). -/
def State.declareDead (s : State) (k how : Nat) : State :=
  let c := s.core k
  let s := if c.alive && c.st != .killed then s.killCore k c.pc 0 else s
  let s := if c.alive || !isTileCore k then s
    else s.onQuad (tileQuadKey (coreTile k)) fun v => { v with lost := v.lost ++ [s.ptile (coreTile k)] }
  let v := s.core k
  ((s.onCore k fun c => { c with report := false, dead := true }).markDeclared k).recordCore k causeEccFatal
    (if c.alive then recKilled else recReport) how v.tpc v.tval 0

/-- R328, step 2. -/
def execFatalReport (c : CoreId) (s : State) : Out :=
  .next (if (s.core (coreKey c)).report then s.declareDead (coreKey c) 1 else s)

/-! ## Heartbeats (R330) -/

end Machine
open Machine

def QuadId.key (q : QuadId) : Nat := quadKey q.pkg.toNat q.die.toNat q.quad.toNat

def PhysCore.dieNum (p : PhysCore) : Nat := dieKey p.quad.pkg.toNat p.quad.die.toNat

def PhysCore.index (p : PhysCore) : Nat := physKey p.quad.quad.toNat p.ptile.toNat p.core.toNat

namespace Machine

/-- Does a physical core send beats: powered, and not killed? -/
def State.beats (s : State) (p : PhysCore) : Bool :=
  let d := s.die p.dieNum
  decide (p.ptile.toNat < 66) && !d.off && !(s.pkg p.quad.pkg.toNat).off && !d.silent.get false p.index

/-- The tile clocks of one heartbeat interval, and the interval that runs now. -/
def beatTime : Nat := 65536

def State.beatNow (s : State) : Nat := s.time / beatTime

/-- R330: a beat resets the count. -/
def execHeartbeat (p : PhysCore) (s : State) : Out :=
  .next (if s.beats p then s.onDie p.dieNum fun v =>
      { v with missed := v.missed.del p.index, beat := v.beat.put p.index (s.beatNow + 1) }
    else s)

/-- The logical core that a physical core serves now. -/
def State.servedCore (s : State) (p : PhysCore) : Option Nat :=
  ((List.range 64).find? fun i => s.ptile (64 * p.quad.key + i) == p.ptile.toNat).map fun i =>
    4 * (64 * p.quad.key + i) + p.core.toNat

/-- `pcore` of a physical tile's core 0. -/
def physPcore (q p : Nat) : Word := BitVec.ofNat 64 (p * 2 ^ 2 + q % 4 * 2 ^ 9 + q / 4 % 4 * 2 ^ 11 + q / 16 * 2 ^ 13)

/-- The partition and context of a report that names a unit's lowest core (R338): the partition of its die, and the context of the
thread that the core holds. -/
def State.unitJob (s : State) (k : Nat) : Job :=
  { part := BitVec.ofNat 2 (s.partOf (corePkg k) (coreDie k)), ctx := (s.core k).job.ctx }

/-- A physical core that serves no logical core is declared dead: its tile is lost, and the report names the core of its place on the
logical tile that its tile last served (DEDUCED, Assumption 31). -/
def State.declareSpare (s : State) (p : PhysCore) : State :=
  let q := p.quad.key
  let pt := p.ptile.toNat
  let lcn := 4 * (64 * q + (s.quad q).served.get (if pt < 64 then pt else 0) pt) + p.core.toNat
  (s.onQuad q fun v => { v with lost := v.lost ++ [pt] }).record p.dieNum lcn { s.unitJob lcn with ctx := 0 } causeEccFatal recReport 2 0 0
    (physPcore q pt + p.core.zeroExtend 64) 0

/-- R330: an interval that ended without a beat is counted, once; the third in a row declares the physical core dead, if it is not
yet. -/
def execHeartbeatMiss (p : PhysCore) (s : State) : Out :=
  .next (
    let v := s.die p.dieNum
    let now := s.beatNow
    if s.beats p || !decide (p.ptile.toNat < 66) || decide (now ≤ v.counted.get 0 p.index) then s
    else
      let n := v.missed.get 0 p.index + if now ≤ v.beat.get 0 p.index then 0 else 1
      let s := s.onDie p.dieNum fun v => { v with missed := v.missed.put p.index n, counted := v.counted.put p.index now }
      if n < 3 ∨ v.declared.get false p.index then s
      else
        let s := s.onDie p.dieNum fun v => { v with declared := v.declared.put p.index true }
        match s.servedCore p with
        | some k => s.declareDead k 2
        | none => s.declareSpare p)

/-! ## A package that dies (R352, R353) -/

/-- Packages of the pod that live. -/
def State.livePkgs (s : State) : List Nat := (s.pkgs.filter fun e => e.2.booted && !e.2.dead && !e.2.off).map (·.1)

/-- The threads, teams, records, gradient records and tiles of a package are lost. What its tiles had written is in effect at homes that
live (R353), and members of barriers keep what they inherited from its threads (R271). Compacts with a member there break at the members
left (R313), and what live packages had on its way there is lost. DESIGN CHOICE, Assumption 69. -/
def State.losePackage (s : State) (p : Nat) : State :=
  let s := ((s.cores.map (·.1)).filter fun k => corePkg k == p).foldl State.keepFloors s
  let s := ((s.tiles.map (·.1)).filter fun t => t / 1024 == p).foldl State.flushCache s
  let free (x : Sector) : Sector := match x.owner with
    | some t => if t / 1024 = p then { x with owner := none, pinned := false } else x
    | none => x
  let s := { s with cores := s.cores.filter fun (e : Nat × Core) => corePkg e.1 != p,
                      tiles := s.tiles.filter fun (e : Nat × Tile) => e.1 / 1024 != p,
                    sectors := s.sectors.map fun (e : Nat × Sector) => (e.1, free e.2),
                    grads := s.grads.filter fun e => corePkg (e.1 / 8) != p, gstarve := s.gstarve.filter fun e => corePkg (e.1 / 8) != p }
  let s := s.onPkg p fun x => { x with teams := [], churns := [], waiting := [], fed := [], merges := [] }
  let s := s.breakAll fun c => c.members.any fun m => m.pkg == p
  (s.cores.map (·.1)).foldl (fun u k => u.loseFlights k p) s

/-- Declare a package dead: its mask bit on every live package, and one record of the declaring one, `by1` if it lives (R338, R352).
`how` as R338 numbers it. DEDUCED, Assumption 98. -/
def State.declarePkg (s : State) (p how : Nat) (by1 : Option Nat) : State :=
  if (s.pkg p).dead then s
  else
    let j := s.unitJob (4096 * p)
    let pc := s.pcore (4096 * p)
    let s := s.onPkg p fun x => { x with dead := true }
    let live := s.livePkgs
    let bit : Word := BitVec.twoPow 64 (p % 64)
    let s := live.foldl (fun u q => (List.range 4).foldl (fun u d =>
      u.setSup (dieKey q d) (0x840 + p / 64) (u.sup (dieKey q d) (0x840 + p / 64) ||| bit)) u) s
    let s := s.losePackage p
    match (live.filter fun q => by1 == some q) ++ live with
    | q :: _ => s.record (dieKey q 0) (4096 * p) j causePkgDead recReport how 0 0 pc (BitVec.ofNat 64 p)
    | [] => s

/-- R352: a package's own supervisor reports a fatal condition. -/
def execPkgDead (pkg : BitVec 10) (s : State) : Out := .next (s.declarePkg pkg.toNat 1 none)

/-- R352: the instant at which the packages exchange beats, for one package's beat; a package that is off misses it, and the third
miss in a row declares it dead. DESIGN CHOICE, Assumption 62. -/
def execPkgHeartbeat (pkg : BitVec 10) (s : State) : Out :=
  .next (
    let p := pkg.toNat
    if !(s.pkg p).off && !(s.pkg p).dead then
      s.livePkgs.foldl (fun u q => u.onPkg q fun x => { x with missed := x.missed.del p, beat := x.beat.put p true }) s
    else
      let s := (s.livePkgs.filter (· != p)).foldl (fun u q => u.onPkg q fun x =>
        { x with missed := x.missed.put p (x.missed.get 0 p + 1), beat := x.beat.del p }) s
      match s.livePkgs.find? fun q => decide (3 ≤ (s.pkg q).missed.get 0 p) with
      | some q => s.declarePkg p 2 (some q)
      | none => s)

/-- R352, R374: a link fails. Where another path reaches the far package only the route changes; where none does, that package is
declared dead. -/
def execLinkFailure (a b : BitVec 10) (rerouted : Bool) (s : State) : Out :=
  .next (
    let e := (a.toNat, b.toNat)
    let s := if s.linksDown.contains e then s else { s with linksDown := s.linksDown ++ [e] }
    if rerouted then s else s.declarePkg b.toNat 3 (some a.toNat))

/-- R289, R384: the transport retransmits what is lost; only timing changes. -/
def execUeRetransmit (_c : CoreId) (_k : Nat) (s : State) : Out := .next s

/-! ## Soft errors (R348, R358) -/

/-- Another corrected error on a die; the counter saturates (R358). -/
def State.countError (s : State) (d : Nat) : State :=
  s.setSup d 0x850 (if s.sup d 0x850 = BitVec.allOnes 64 then BitVec.allOnes 64 else s.sup d 0x850 + 1)

/-- An uncorrectable error strikes an ECC word of a block that tile `t` holds. -/
def State.strikeBlock (s : State) (t key : Nat) : State :=
  s.onTile t fun v => { v with blocks := v.blocks.map fun b =>
    if b.pa = key / 64 * 64 then { b with bad := b.bad ||| BitVec.twoPow 8 (key % 64 / 8) } else b }

/-- R348: an error at an address of core `c`'s job strikes the word where core `c` reads it, in its tile's cache or at its home: an
uncorrectable one marks it; one of a single bit is met by a read, which corrects and counts it. DESIGN CHOICE, Assumption 67. -/
def execSoftError (va : Word) (c : CoreId) (uncorrectable : Bool) (s : State) : Out :=
  .next (
    let k := coreKey c
    let r := s.resolve k va.toNat .rd
    match r.2 with
    | none => s
    | some key =>
      let cached := isTileCore k && isDram key && (s.pinnedAt key).isNone
        && (s.tile (coreTile k)).blocks.any fun b => b.pa == key / 64 * 64 && s.valid (coreTile k) b
      if uncorrectable then (if cached then s.strikeBlock (coreTile k) key else s.setMark (s.realKey key) true)
      else s.countError (if cached then coreDieKey k else dieKey (keyPkg (s.realKey key)) (keyDie (s.realKey key))))

/-! ## The test rotation (R354, R355) -/

/-- The physical tile whose turn it is: the next one in service. -/
def Quad.nextTile (v : Quad) : Option Nat :=
  ((List.range 66).map fun i => (v.turn + i) % 66).find? fun p => !v.out.contains p

/-- The logical tile of a quadrant on a physical tile. -/
def State.onPtile (s : State) (q p : Nat) : Option Nat :=
  ((List.range 64).find? fun i => s.ptile (64 * q + i) == p).map fun i => 64 * q + i

/-- A spare that is idle: serves no logical tile, in service with every core (DEDUCED, Assumption 31), not under test. -/
def State.idleSpare (s : State) (q p : Nat) : Bool :=
  (s.onPtile q p).isNone && !(s.quad q).out.contains p && !(s.quad q).lost.contains p && (s.quad q).testing != some p

/-- Mark the threads of a tile, or let them go on. -/
def State.markTile (s : State) (t : Nat) (on : Bool) : State :=
  (List.range 4).foldl (fun u i => u.setMarkOf (4 * t + i) on) s

/-- `skimctl` of a quadrant's die. -/
def State.skimctl (s : State) (q : Nat) : Nat := (s.sup (q / 4) 0x820).toNat

/-- R354, steps 1 and 2: a turn begins; a mapped tile drains first, and once it is quiesced moves to a spare. -/
def execSkimTurn (qid : QuadId) (s : State) : Out :=
  .next (
    let q := qid.key
    let v := s.quad q
    match v.testing, v.drain with
    | some _, _ => s
    | none, some (p, _) =>
      (match s.onPtile q p, (List.range 66).find? fun i => i != p && s.idleSpare q i with
        | some t, some sp =>
          if s.quiesced t then
            ((s.remap t sp).markTile t false).onQuad q fun v => { v with drain := none, testing := some p }
          else s
        | none, _ => s.onQuad q fun v => { v with drain := none, testing := some p }
        | _, _ => s)
    | none, none =>
      if !(s.skimctl q).testBit 0 || decide (s.time < v.lastTurn + getFld (s.skimctl q) 16 32 * 2 ^ 16) then s
      else match v.nextTile with
        | none => s
        | some p =>
          let s := s.onQuad q fun v => { v with lastTurn := s.time }
          match s.onPtile q p with
          | some t => (s.markTile t true).onQuad q fun v => { v with drain := some (p, s.time) }
          | none => s.onQuad q fun v => { v with testing := some p })

/-- The tile clocks that a drain may take. -/
def skimLimit : Nat := 2 ^ 26

/-- R354: a tile that is not quiesced in time is skipped in this turn. -/
def execSkimQuiesceTimeout (qid : QuadId) (s : State) : Out :=
  .next (
    let q := qid.key
    match (s.quad q).drain with
    | some (p, t0) =>
      if t0 + skimLimit ≤ s.time then
        let s := match s.onPtile q p with
          | some t => s.markTile t false
          | none => s
        s.onQuad q fun v => { v with drain := none, turn := (p + 1) % 66 }
      else s
    | none => s)

/-- R354, steps 3 and 4: a tile that passes becomes a spare; one that fails goes out of service with a record of its interval.
DESIGN CHOICE, Assumption 68. -/
def execSkimResult (qid : QuadId) (pass : Bool) (s : State) : Out :=
  .next (
    let q := qid.key
    let v := s.quad q
    match v.testing with
    | none => s
    | some p =>
      let n := v.passes.get 0 p
      if pass then
        let s := s.onQuad q fun v => { v with
          testing := none, turn := (p + 1) % 66, passes := v.passes.put p (n + 1), lost := v.lost.filter (· != p) }
        let four (m : SMap Bool) : SMap Bool := (List.range 4).foldl (fun m i => m.del (physKey (q % 4) p i)) m
        s.onDie (q / 4) fun v => { v with silent := four v.silent, declared := four v.declared }
      else
        let lcn := 4 * (64 * q + v.served.get (if p < 64 then p else 0) p)
        let s := s.onQuad q fun v => { v with testing := none, turn := (p + 1) % 66, out := v.out ++ [p] }
        s.record (q / 4) lcn (s.unitJob lcn) causeSkimFail recReport 0 0 0 (physPcore q p) (BitVec.ofNat 64 n))

end Machine
end Sys2Proof
end

