-- ==== Sys2Proof/Machine/Sha.lean ====
section
/-! DEFINITION. SHA-256 and RSASSA-PSS, the standard algorithms that R8 and R388 to R390 name (PRESUMED, Assumption 29). -/

namespace Sys2Proof
namespace Machine

/-- The round constants. -/
def shaK : List Word32 :=
  [0x428A2F98, 0x71374491, 0xB5C0FBCF, 0xE9B5DBA5, 0x3956C25B, 0x59F111F1, 0x923F82A4, 0xAB1C5ED5]
    ++ [0xD807AA98, 0x12835B01, 0x243185BE, 0x550C7DC3, 0x72BE5D74, 0x80DEB1FE, 0x9BDC06A7, 0xC19BF174]
    ++ [0xE49B69C1, 0xEFBE4786, 0x0FC19DC6, 0x240CA1CC, 0x2DE92C6F, 0x4A7484AA, 0x5CB0A9DC, 0x76F988DA]
    ++ [0x983E5152, 0xA831C66D, 0xB00327C8, 0xBF597FC7, 0xC6E00BF3, 0xD5A79147, 0x06CA6351, 0x14292967]
    ++ [0x27B70A85, 0x2E1B2138, 0x4D2C6DFC, 0x53380D13, 0x650A7354, 0x766A0ABB, 0x81C2C92E, 0x92722C85]
    ++ [0xA2BFE8A1, 0xA81A664B, 0xC24B8B70, 0xC76C51A3, 0xD192E819, 0xD6990624, 0xF40E3585, 0x106AA070]
    ++ [0x19A4C116, 0x1E376C08, 0x2748774C, 0x34B0BCB5, 0x391C0CB3, 0x4ED8AA4A, 0x5B9CCA4F, 0x682E6FF3]
    ++ [0x748F82EE, 0x78A5636F, 0x84C87814, 0x8CC70208, 0x90BEFFFA, 0xA4506CEB, 0xBEF9A3F7, 0xC67178F2]

/-- The initial hash value. -/
def shaInit : List Word32 := [0x6A09E667, 0xBB67AE85, 0x3C6EF372, 0xA54FF53A, 0x510E527F, 0x9B05688C, 0x1F83D9AB, 0x5BE0CD19]

/-- Rotate a word right. -/
def rotr (x : Word32) (n : Nat) : Word32 := (x >>> n) ||| (x <<< (32 - n))

/-- The schedule, newest word first, grown by `n` words. -/
def shaSchedule : Nat → List Word32 → List Word32
  | 0, w => w
  | n + 1, w =>
    let a := w.getD 14 0
    let b := w.getD 1 0
    let s0 := rotr a 7 ^^^ rotr a 18 ^^^ (a >>> 3)
    let s1 := rotr b 17 ^^^ rotr b 19 ^^^ (b >>> 10)
    shaSchedule n ((w.getD 15 0 + s0 + w.getD 6 0 + s1) :: w)

/-- One round on the eight working words, with the sum of its constant and schedule word. -/
def shaRound (v : List Word32) (kw : Word32) : List Word32 :=
  let a := v.getD 0 0
  let b := v.getD 1 0
  let c := v.getD 2 0
  let e := v.getD 4 0
  let s1 := rotr e 6 ^^^ rotr e 11 ^^^ rotr e 25
  let ch := (e &&& v.getD 5 0) ^^^ (~~~e &&& v.getD 6 0)
  let t1 := v.getD 7 0 + s1 + ch + kw
  let s0 := rotr a 2 ^^^ rotr a 13 ^^^ rotr a 22
  let maj := (a &&& b) ^^^ (a &&& c) ^^^ (b &&& c)
  [t1 + s0 + maj, a, b, c, v.getD 3 0 + t1, e, v.getD 5 0, v.getD 6 0]

/-- A big-endian word of bytes. -/
def beWord (bs : List Byte) : Word32 := bs.foldl (fun w b => (w <<< 8) ||| b.zeroExtend 32) 0

/-- Process one block of 64 bytes. -/
def shaBlock (h : List Word32) (bs : List Byte) : List Word32 :=
  let w0 := (List.range 16).map fun i => beWord ((bs.drop (4 * i)).take 4)
  let w := (shaSchedule 48 w0.reverse).reverse
  let v := (shaK.zip w).foldl (fun v p => shaRound v (p.1 + p.2)) h
  (h.zip v).map fun p => p.1 + p.2

/-- The padded message. -/
def shaPad (bs : List Byte) : List Byte :=
  let n := bs.length
  bs ++ [0x80] ++ List.replicate ((119 - n % 64) % 64) 0 ++ (toBytes 8 (8 * n)).reverse

/-- The digest of a message, its first byte in the highest place. -/
def sha256 (bs : List Byte) : BitVec 256 :=
  let m := shaPad bs
  let h := (List.range (m.length / 64)).foldl (fun h i => shaBlock h ((m.drop (64 * i)).take 64)) shaInit
  BitVec.ofNat 256 (h.foldl (fun n w => n * 2 ^ 32 + w.toNat) 0)

/-- The bytes of a digest in the order that the algorithm gives them. -/
def digestBytes (d : BitVec 256) : List Byte := (toBytes 32 d.toNat).reverse

/-! ## RSASSA-PSS with RSA-3072, SHA-256 and a salt of 32 bytes (R388, R390)

Octet strings stand for numbers with the most significant octet first, as the standard has them; the manual gives no other order
(DESIGN CHOICE, Assumption 21). -/

/-- The number of an octet string. -/
def beNat (bs : List Byte) : Nat := bs.foldl (fun n b => n * 256 + b.toNat) 0

/-- `n` octets of a number. -/
def beBytes (n v : Nat) : List Byte := (toBytes n v).reverse

/-- b ^ e mod n, over the low `bits` bits of e. -/
def powMod (b n : Nat) : Nat → Nat → Nat
  | 0, _ => 1 % n
  | bits + 1, e =>
    let r := powMod (b * b % n) n bits (e / 2)
    if e % 2 = 1 then r * b % n else r

/-- The octets of an encoded message, and of its masked data block. -/
def pssLen : Nat := 384
def pssData : Nat := pssLen - 33

/-- The mask of the data block: MGF1 with SHA-256. -/
def pssMask (h : List Byte) : List Byte :=
  ((List.range 11).flatMap fun i => digestBytes (sha256 (h ++ beBytes 4 i))).take pssData

def xorBytes (a b : List Byte) : List Byte := (a.zip b).map fun p => p.1 ^^^ p.2

/-- The hash of the padded digest and salt. -/
def pssHash (digest : List Byte) (salt : List Byte) : List Byte :=
  digestBytes (sha256 (List.replicate 8 0 ++ digest ++ salt))

/-- The top bit of an encoded message is 0: the modulus has 3,072 bits. -/
def clearTop (bs : List Byte) : List Byte :=
  match bs with
  | [] => []
  | b :: rest => (b &&& 0x7F) :: rest

/-- The encoding of a digest. -/
def pssEncode (digest salt : List Byte) : List Byte :=
  let h := pssHash digest salt
  let db := List.replicate (pssData - 33) 0 ++ [0x01] ++ salt
  clearTop (xorBytes db (pssMask h)) ++ h ++ [0xBC]

/-- Does an encoded message belong to a digest? -/
def pssGood (digest em : List Byte) : Bool :=
  let masked := em.take pssData
  let h := (em.drop pssData).take 32
  let db := clearTop (xorBytes masked (pssMask h))
  em.length == pssLen && em.getLast? == some 0xBC && (em.headD 0) &&& 0x80 == 0
    && db.take (pssData - 32) == List.replicate (pssData - 33) 0 ++ [0x01] && h == pssHash digest (db.drop (pssData - 32))

/-- Verify a signature over a digest with a public key. -/
def rsaVerifies (key digest signature : List Byte) : Bool :=
  let n := beNat (key.take pssLen)
  let e := beNat (key.drop pssLen)
  signature.length == pssLen && decide (beNat signature < n)
    && pssGood digest (beBytes pssLen (powMod (beNat signature) n (8 * (key.drop pssLen).length) e))

/-- The signature of a package's signing unit over a digest. -/
def rsaSign (pkg draw : Nat) (digest : List Byte) : List Byte :=
  beBytes pssLen (powMod (beNat (pssEncode digest (digestBytes (Config.signSalt pkg draw)))) (Config.identityModulus pkg) 3072
    (Config.identityPrivate pkg))

end Machine
end Sys2Proof
end

