-- ==== Sys2Proof/Machine/Caches.lean ====
section
/-! DEFINITION. Steps of the caches, the logical clocks and the page walker (R152 to R155, R163, R164). -/

namespace Sys2Proof
namespace Machine

/-- May a tile hold a block of the address: DRAM that a device backs, pinned nowhere, and a tile in free mode? -/
def State.cacheable (s : State) (t pa : Nat) : Bool :=
  isDram pa && s.backed pa && (s.pinnedAt pa).isNone && (s.tile t).compact.isNone && decide (0 < (s.tile t).cacheBlocks)

/-- R152, R153: a tile fills or renews a clean block from its home. -/
def execTileCacheFill (t : TileId) (pa : BitVec 57) (s : State) : Out :=
  .next (
    let u := tileNum t
    let a := pa.toNat
    if s.cacheable u a && !(s.tile u).blocks.any (fun b => b.pa == a / 64 * 64 && b.owned) then s.fillBlock u a true false else s)

/-- R154: the home grants a tile ownership of a sector under a timestamp that passes every lease. -/
def execOwnershipGrant (t : TileId) (pa : BitVec 57) (s : State) : Out :=
  .next (
    let u := tileNum t
    let a := pa.toNat
    if !s.cacheable u a || (s.sector (a / 1024)).owner == some u then s
    else
      let s := (s.gather (a / 1024 * 1024) 1024).recall a
      let s := (s.grant (4 * u) a).1
      s.onSector (a / 1024) fun e => { e with owner := some u })

/-- R153: a tile's logical clock advances. -/
def execLogicalClockTick (t : TileId) (n : Nat) (s : State) : Out :=
  .next (s.raiseClock (tileNum t) (s.clock (tileNum t) + n))

/-- R155: the minimum of a package, or of the pod, is brought up to date. -/
def execClockMinUpdate (pkg : Option (BitVec 10)) (s : State) : Out :=
  .next (match pkg with
    | some p => { s with pkgMin := s.pkgMin.put p.toNat (max (s.pkgMin.get 0 p.toNat) (s.minClock (1024 * p.toNat) 1024)) }
    | none => { s with podMin := max s.podMin (s.minClock 0 (1024 * 1024)) })

/-- R163, R164: a walk for core `c`; one that ends in a leaf fills the TLBs. -/
def execPageWalk (c : CoreId) (va : Word) (s : State) : Out :=
  .next (
    let k := coreKey c
    match s.pageWalk (corePkg k) (s.core k).job va.toNat with
    | some e => s.tlbFill k e
    | none => s)

end Machine
end Sys2Proof
end

