-- ==== Sys2Proof/Machine/HostPod.lean ====
section
/-! DEFINITION. The host's accesses, partitions and their merge, boot and attestation, kernels' labels, power and memory that comes
and goes (R269, R379 to R391). -/

namespace Sys2Proof
namespace Machine

/-! ## The partition control block (R381) -/

def State.control (s : State) (pkg fn : Nat) : Control := (s.pkg pkg).control.get Control.idle fn

def State.onControl (s : State) (pkg fn : Nat) (f : Control → Control) : State :=
  s.onPkg pkg fun p => { p with control := p.control.put fn (f (p.control.get Control.idle fn)) }

/-- The 64 bytes of a control block. -/
def State.controlImage (s : State) (pkg fn : Nat) : Nat :=
  let c := s.control pkg fn
  (s.sup (s.partDie pkg fn) 0x801).toNat % 2 ^ 57 + ((s.pkg pkg).parts.get 0 fn).toNat * 2 ^ 64 + c.mreq.toNat * 2 ^ 72
    + c.mst.toNat * 2 ^ 76 + c.nonce.toNat * 2 ^ 128 + c.areq.toNat * 2 ^ 192 + c.raddr.toNat * 2 ^ 256

/-- Does the function's partition exist (R379)? -/
def State.present (s : State) (pkg fn : Nat) : Bool := ((s.pkg pkg).parts.find fn).isSome

/-! ## Merging partitions (R387) -/

/-- The partition that a die mask names exactly. -/
def Pkg.byMask (p : Pkg) (mask : BitVec 4) : Option Nat := (p.parts.find? fun e => e.2 == mask).map (·.1)

/-- Has a partition a live context? -/
def State.anyLive (s : State) (pkg part : Nat) : Bool :=
  (List.range 4096).any fun n => s.ctxField pkg { part := BitVec.ofNat 2 part, ctx := BitVec.ofNat 12 n } 357 1 == 1

/-- The cores of a partition that the state lists. -/
def State.partCores (s : State) (pkg part : Nat) : List Nat :=
  (s.cores.filter fun e => corePkg e.1 == pkg && s.partOf pkg (coreDie e.1) == part && !isSup e.1).map (·.1)

/-- Mark every tile thread of a partition, or let them go on. -/
def State.markPart (s : State) (pkg part : Nat) (on : Bool) : State :=
  ((s.partCores pkg part).filter isTileCore).foldl (fun u k => u.setMarkOf k on) s

/-- Steps 1 and 2. A partition that another merge drains already is busy. DESIGN CHOICE, Assumption 65. -/
def State.startMerge (s : State) (pkg fn : Nat) (mask : BitVec 4) : State :=
  let refuse (n : BitVec 3) : State := s.onControl pkg fn fun c => { c with mst := n }
  match (s.pkg pkg).byMask mask with
  | none => refuse 5
  | some q =>
    if q = fn then refuse 5
    else if s.anyLive pkg (max fn q) then refuse 4
    else if s.merging pkg fn || s.merging pkg q then refuse 3
    else
      let s := s.onControl pkg fn fun c => { c with mst := 1 }
      let s := s.onPkg pkg fun p => { p with merges := p.merges ++ [{ p := fn, q := q, since := s.time, seen := [], seenAt := s.time }] }
      let s := (s.seeTails pkg fn).seeTails pkg q
      (s.markPart pkg fn true).markPart pkg q true

/-- Is a partition drained (step 3): every thread saved, every queue idle by the tails that the schedulers have seen, every gradient
record taken? -/
def State.drained (s : State) (pkg part : Nat) (m : Merge) : Bool :=
  let ks := s.partCores pkg part
  (ks.all fun k =>
    let c := s.core k
    (!c.alive || c.st == .saved) && c.cmds.all (fun d => d.q == .mxq && c.st == .saved)
      && (List.range 8).all fun n => (s.grads.get [] (gradKey k n)).isEmpty)
    && (List.range 16).all fun q =>
      let d := s.queueDesc pkg part q
      m.seen.get (qTail d) (queueKey part q) == qHead d

/-- The boundary register between two dies of a package (R387). -/
def boundKey (d e : Nat) : Nat := 4 * min d e + max d e

/-- Traffic passes between every two dies of a mask. -/
def openBounds (mask : BitVec 4) (m : SMap Bool) : SMap Bool :=
  (List.range 4).foldl (fun m d => (List.range d).foldl (fun m e =>
    if mask.getLsbD d && mask.getLsbD e then m.put (boundKey d e) true else m) m) m

/-- The interleave entries of two partitions joined unchanged. -/
def joinInter (m : SMap (SMap Interleave)) (lo hi : Nat) : SMap (SMap Interleave) :=
  let a := m.get [] lo
  let n := a.foldl (fun n e => max n (e.1 + 1)) 0
  (m.del hi).put lo ((m.get [] hi).foldl (fun r e => r.put (n + e.1) e.2) a)

/-- Steps 4 to 7. DESIGN CHOICE, Assumption 65. -/
def State.finishMerge (s : State) (pkg : Nat) (m : Merge) : State :=
  let lo := min m.p m.q
  let hi := max m.p m.q
  let ps := (s.pkg pkg).parts
  let mask := ps.get 0 lo ||| ps.get 0 hi
  let ctxtab := s.sup (s.partDie pkg lo) 0x800
  let lnarea := s.sup (s.partDie pkg lo) 0x801
  let ts := (s.tiles.filter fun e => e.1 / 1024 == pkg && mask.getLsbD (e.1 / 256 % 4)).map (·.1)
  let s := ts.foldl (fun u t => (u.flushCache t).emptyRo t) s
  let s := (s.markPart pkg lo false).markPart pkg hi false
  let s := s.onPkg pkg fun p => { p with
    parts := (p.parts.del hi).put lo mask, merges := p.merges.filter (· != m), bounds := openBounds mask p.bounds,
    inter := joinInter p.inter lo hi, waiting := p.waiting.filter fun e => e.1 / 16 != hi, fed := p.fed.filter fun e => e.1 / 16 != hi }
  let s := (s.setSup (s.partDie pkg lo) 0x800 ctxtab).setSup (s.partDie pkg lo) 0x801 lnarea
  let hit (e : Tlb) : Bool := e.pkg == pkg && (e.job.part.toNat == lo || e.job.part.toNat == hi)
  let s := s.tlbDrop (4096 * pkg) .package hit
  s.onControl pkg m.p fun c => { c with mst := 2 }

/-- The tile clocks that a merge may drain. -/
def mergeLimit : Nat := 2 ^ 24

/-- The tile clocks within which a scheduler sees a new tail (R263). -/
def tailTime : Nat := 4096

/-- A merge that a function started goes on to its end, within its time; a tail written in the last 4,096 tile clocks may be unseen, and
its record then waits for the merged partition (R263, R387). -/
def State.mergeOn (s : State) (pkg : Nat) (m : Merge) : State :=
  let old := decide (m.seenAt + tailTime ≤ s.time)
  let m1 : Merge := if old then
    { m with seen := (s.tailsOf pkg m.q).foldl (fun r e => r.put e.1 e.2) (s.tailsOf pkg m.p), seenAt := s.time } else m
  let s := s.onPkg pkg fun p => { p with merges := p.merges.map fun x => if x == m then m1 else x }
  if s.time < m.since + mergeLimit ∧ s.drained pkg m.p m1 ∧ s.drained pkg m.q m1 then s.finishMerge pkg m1 else s

/-- A write of mreq, ignored while mst = 1, or the merge it started going on to its end (R381, R387). -/
def State.mergeStep (s : State) (pkg fn : Nat) (mask : BitVec 4) : State :=
  if !s.present pkg fn then s
  else match (s.pkg pkg).merges.find? fun m => m.p == fn with
    | some m => s.mergeOn pkg m
    | none =>
      let s := s.onControl pkg fn fun c => { c with mreq := mask }
      if mask = 0 then s else s.startMerge pkg fn mask

/-- R387. -/
def execMergeRequest (pkg : BitVec 10) (fn : BitVec 2) (mask : BitVec 4) (s : State) : Out :=
  .next (s.mergeStep pkg.toNat fn.toNat mask)

/-- R387, step 3: the wait of a merge runs out; nothing has been rewritten. -/
def execMergeDrainTimeout (pkg : BitVec 10) (s : State) : Out :=
  .next (match (s.pkg pkg.toNat).merges.find? fun m => decide (m.since + mergeLimit ≤ s.time) with
    | some m =>
      let s := (s.markPart pkg.toNat m.p false).markPart pkg.toNat m.q false
      let s := s.onPkg pkg.toNat fun p => { p with merges := p.merges.filter (· != m) }
      s.onControl pkg.toNat m.p fun c => { c with mst := 3 }
    | none => s)

/-! ## Attestation (R389, R390) -/

/-- Bytes 0x000 to 0x13F of a report for a nonce. -/
def State.reportBody (s : State) (pkg fn : Nat) (nonce : Word) : List Byte :=
  let p := s.pkg pkg
  toBytes 8 (1 + 704 * 2 ^ 16) ++ toBytes 8 nonce.toNat ++ toBytes 16 (Config.serialNumber pkg).toNat
    ++ (List.range 8).flatMap (fun i => digestBytes (p.meas.get 0 i))
    ++ toBytes 8 ((p.parts.get 0 fn).toNat + fn * 2 ^ 4) ++ List.replicate 24 0

/-- A request for a report: nonce and raddr count as they stand at it (R390). -/
def State.askReport (s : State) (pkg fn : Nat) : State :=
  s.onControl pkg fn fun c => if c.areq then c else { c with areq := true, asked := some (c.nonce, c.raddr) }

/-- The signing unit, free, takes the request of a function, writes its report and asks for the last bytes back. The 384 octets of the
signature stand most significant first, as the algorithm gives them (DESIGN CHOICE, Assumption 21). -/
def State.attest (s : State) (pkg fn : Nat) : State :=
  match (s.pkg pkg).reporting, (s.control pkg fn).asked with
  | none, some (nonce, raddr) =>
    let body := s.reportBody pkg fn nonce
    let sig := rsaSign pkg (s.pkg pkg).draws (digestBytes (sha256 body))
    ((s.hostPut pkg raddr.toNat (body ++ sig)).onPkg pkg fun p => { p with draws := p.draws + 1, reporting := some fn }).onControl
      pkg fn fun c => { c with asked := none }
  | _, _ => s

/-- R390. -/
def execAttestationRequest (pkg : BitVec 10) (fn : BitVec 2) (s : State) : Out :=
  .next (if s.present pkg.toNat fn.toNat then (s.askReport pkg.toNat fn.toNat).attest pkg.toNat fn.toNat else s)

/-! ## The host's accesses (R379, R380) -/

/-- The pieces of `n` bytes at a key that cross no 64-byte region. -/
def hostPieces (key n : Nat) : List (Nat × Nat) := (cut key n).map fun e => (key + e.1, e.2)

/-- What becomes of a host access through BAR2: refused where a piece is, held where one is (R310), else served (R380). -/
def State.hostRoute (s : State) (pkg fn off n : Nat) (write : Bool) : Route :=
  let r (e : Nat × Nat) : Route := if s.backed e.1 then s.route (hostMaster pkg fn) e.1 write else .refuse
  let rs := (hostPieces (pkg * 2 ^ 47 + off) n).map r
  if !s.present pkg fn || decide (2 ^ 42 < off + n) || rs.any fun x => x != .ok && x != .held then .refuse
  else if rs.contains .held then .held else .ok

/-- The 64 KiB of BAR0: the control block, and zeros (R379). -/
def State.bar0 (s : State) (pkg fn off n : Nat) : List Byte :=
  (List.range n).map fun i => if off + i < 64 then (toBytes 64 (s.controlImage pkg fn)).getD (off + i) 0 else 0

/-- A read of the host is answered: one of BAR2 is served at the home and returns the coherent value, after the boundary where a compact
member holds it (R310); one of BAR0 returns the control block. Any other is an Unsupported Request (R379, R380). -/
def State.hostAnswer (s : State) (p f : Nat) (bar2 : Bool) (off n : Nat) : State :=
  let key := p * 2 ^ 47 + off
  if bar2 then
    match s.hostRoute p f off n false with
    | .ok => s.hostGet key n
    | .held => match (hostPieces key n).find? fun e => (s.pinnedAt e.1).isSome with
      | some e => s.holdAt (s.holder e.1) (.host key n)
      | none => s
    | _ => { s with hostReply := none }
  else if s.present p f && decide (off + n ≤ 2 ^ 16) then { s with hostReply := some (s.bar0 p f off n) }
  else { s with hostReply := none }

/-- A write to BAR0: only the fields that the host writes change; mreq starts a merge and areq a report (R381, R387, R390). -/
def State.controlWrite (s : State) (pkg fn off : Nat) (data : List Byte) : State :=
  let old := toBytes 64 (s.controlImage pkg fn)
  let v := leNat (old.mapIdx fun i b => if off ≤ i ∧ i < off + data.length then data.getD (i - off) b else b)
  let s := s.onControl pkg fn fun c => { c with nonce := BitVec.ofNat 64 (getFld v 128 64), raddr := BitVec.ofNat 64 (getFld v 256 64) }
  let hits (n : Nat) : Bool := decide (off ≤ n) && decide (n < off + data.length)
  let s := if hits 9 && (s.control pkg fn).mst != 1 then s.mergeStep pkg fn (BitVec.ofNat 4 (getFld v 72 4)) else s
  if !hits 24 then s
  else if getFld v 192 1 = 1 then (s.askReport pkg fn).attest pkg fn
  else s.onControl pkg fn fun c => { c with areq := false, asked := none }

/-! ## The order of what the host posts (R263, R380) -/

/-- The host posts requests of a function; they wait behind what its package has not served. -/
def State.post (s : State) (pkg fn : Nat) (rs : List HostReq) : State :=
  { s with posted := s.posted ++ rs.map fun r => { pkg := pkg, fn := fn, req := r, sent := false } }

/-- The first request of a list of hosts' requests leaves it. -/
def State.unpost (s : State) (e : Posted) : State := { s with posted := s.posted.erase e }

/-- Where a posted write to a byte of BAR2 goes (R380). -/
def State.postRoute (s : State) (e : Posted) (key n : Nat) : Route :=
  if paPkg key = e.pkg then s.hostRoute e.pkg e.fn (key % 2 ^ 47) n true else .refuse

/-- A posted write stands at the compact member that holds it (R310). -/
def State.postSent (s : State) (e : Posted) : State := { s with posted := s.posted.replace e { e with sent := true } }

/-- A posted write that crosses regions stands as its parts, each within one. -/
def Posted.parts (e : Posted) (key : Nat) (bs : List Byte) : List Posted :=
  (cut key bs.length).map fun p => { e with req := .write (key + p.1) ((bs.drop p.1).take p.2) }

/-- The piece that a compact member holds for a posted write. -/
def hostHeld (key : Nat) (bs : List Byte) : HeldPut :=
  { core := 0, age := 0, piece := none, key := key, len := bs.length, bits := leNat bs, cov := 8 * bs.length, bad := [], count := none,
    full := false }

/-- The bytes of a posted write, region by region. -/
def State.postBytes (s : State) (key : Nat) (bs : List Byte) : State :=
  (cut key bs.length).foldl (fun u p => u.engineWrite (key + p.1) ((bs.drop p.1).take p.2) false) s

/-- The host's write at the head: performed, dropped where it is refused, cut where it crosses regions, or held at a compact member, and
every later request of the package behind it (R310). -/
def State.postWrite (s : State) (e : Posted) (key : Nat) (bs : List Byte) : State :=
  match s.postRoute e key bs.length with
  | .ok => (s.unpost e).postBytes key bs
  | .held =>
    if 1 < (e.parts key bs).length then { s with posted := s.posted.flatMap fun x => if x = e then e.parts key bs else [x] }
    else (s.holdAt (s.holder key) (.put (hostHeld key bs))).postSent e
  | _ => s.unpost e

/-- One step for the request at the head of a package's. -/
def State.postStep (s : State) (pkg : Nat) : State :=
  match s.posted.find? fun e => e.pkg == pkg with
  | none => s
  | some e =>
    if e.sent then s
    else match e.req with
      | .write key bs => s.postWrite e key bs
      | .control off bs => (s.controlWrite e.pkg e.fn off bs).unpost e
      | .read bar2 off n => (s.hostAnswer e.pkg e.fn bar2 off n).unpost e

/-- Up to `n` such steps. -/
def State.postOn (pkg : Nat) : Nat → State → State
  | 0, s => s
  | n + 1, s => postOn pkg n (s.postStep pkg)

/-- A package's station goes on with what its host has posted. -/
def State.postAll (s : State) (pkg : Nat) : State := State.postOn pkg (2 * s.posted.length) s

/-- R379, R380: a read passes no write posted before it. -/
def execHostRead (pkg : BitVec 10) (fn : BitVec 2) (off : BarAddr) (n : Nat) (s : State) : Out :=
  .next ((s.post pkg.toNat fn.toNat [.read off.bar2 off.off.toNat n]).postAll pkg.toNat)

/-- R380, R381: a refused or absent target drops the posted write. -/
def execHostWrite (pkg : BitVec 10) (fn : BitVec 2) (bar2 : Bool) (off : BitVec 42) (data : List Byte) (s : State) : Out :=
  .next (
    let p := pkg.toNat
    let f := fn.toNat
    if bar2 then (s.post p f [.write (p * 2 ^ 47 + off.toNat) data]).postAll p
    else if s.present p f && decide (off.toNat < 64) then (s.post p f [.control off.toNat data]).postAll p else s)

/-- The tail of a queue as its producer, the host, knows it: what it posted last, or the descriptor's. -/
def State.hostTail (s : State) (pkg part q : Nat) : Nat :=
  s.posted.foldl (fun n e => match e.req with
    | .write key bs => if key = s.queueAt pkg part q + 24 then leNat bs else n
    | _ => n) (qTail (s.queueDesc pkg part q))

/-- R263: the record, then the tail, two posted writes. A record appended to a full queue overwrites its slot.
DESIGN CHOICE, Assumption 38. -/
def execHostTailWrite (q : QueueId) (rec : BitVec 512) (s : State) : Out :=
  .next (
    let pkg := q.pkg.toNat
    let part := q.part.toNat
    let n := q.q.toNat
    let d := s.queueDesc pkg part n
    let tail := s.hostTail pkg part n
    if ((s.pkg pkg).parts.find part).isNone || qFed d || !qSized d then s
    else (s.post pkg part [.write (qSlot d tail) (toBytes 64 rec.toNat),
      .write (s.queueAt pkg part n + 24) (toBytes 4 ((tail + 1) % 2 ^ 32))]).postAll pkg)

/-! ## Boot (R388, R389) -/

/-- Is image `n` verified: its digest, and its signature under its key, which for image 0 the fuses name? Keys and signatures are octet
strings, most significant octet first; the header's digest is the hash that PSS encodes. DESIGN CHOICE, Assumption 21. -/
def imageGood (pkg n : Nat) : Bool :=
  sha256 (Config.bootImage pkg n) == Config.bootDigest pkg n
    && rsaVerifies (Config.bootKey pkg n) (digestBytes (Config.bootDigest pkg n)) (Config.bootSignature pkg n)
    && (n != 0 || sha256 (Config.bootKey pkg 0) == Config.fusedDigest pkg)

/-- M := SHA-256(M ‖ digest) (R389). DESIGN CHOICE, Assumption 63. -/
def extend (m d : BitVec 256) : BitVec 256 := sha256 (digestBytes m ++ digestBytes d)

/-- The partitions of the configuration: each of whole dies, no die in two (R386). DESIGN CHOICE, Assumption 64. -/
def bootParts (pkg : Nat) : SMap (BitVec 4) :=
  ((List.range 4).foldl (fun (acc : SMap (BitVec 4) × BitVec 4) n =>
    let m := Config.partitionDies pkg n
    if m = 0 ∨ m &&& acc.2 ≠ 0 then acc else (acc.1.put n m, acc.2 ||| m)) ([], 0)).1

/-- The boot-time test of a quadrant (R355): a tile that fails never enters service. A logical tile that stood on it goes to a spare
that passes, while there is one; else it is out of service. DESIGN CHOICE, Assumption 68. -/
def Quad.tested (q : Nat) (v : Quad) : Quad :=
  let bad := (Config.bootFails q).filter fun p => decide (p < 66)
  let spares := [64, 65].filter fun p => !bad.contains p
  let moved := (List.range 64).filter fun i => bad.contains i
  { v with
    out := bad, gone := moved.drop spares.length,
    tmap := (moved.zip spares).foldl (fun m e => m.put e.1 e.2) v.tmap }

/-- R388, R389: power, the four stages in order, their measurements, the boot-time test, and the partitions; or a failed check, after
which nothing comes up. -/
def execBoot (pkg : BitVec 10) (s : State) : Out :=
  .next (
    let p := pkg.toNat
    let v := s.pkg p
    if v.booted || v.bootFailed then s
    else if (List.range 4).all (imageGood p) then
      let s := (List.range 16).foldl (fun u i => u.onQuad (16 * p + i) (Quad.tested (16 * p + i))) s
      s.onPkg p fun v => { v with
        off := false, booted := true, parts := bootParts p, bounds := (bootParts p).foldl (fun m e => openBounds e.2 m) [],
        meas := (List.range 4).foldl (fun m i => m.put i (extend (m.get 0 i) (Config.bootDigest p i))) v.meas }
    else s.onPkg p fun v => { v with off := false, bootFailed := true })

/-! ## Power, clocks and memory (R385, R391) -/

/-- R391: the die is powered off and its package is declared dead. -/
def execThermalTrip (d : DieId) (s : State) : Out :=
  .next ((s.onDie (dieKey d.pkg.toNat d.die.toNat) fun v => { v with off := true }).declarePkg d.pkg.toNat 3 none)

/-- An island as made: the tile clock's nominal 4.0 GHz (R3); the manual gives no voltage (DESIGN CHOICE, Assumption 16). -/
def nominalIsland : Nat × Nat := (4000, 0)

/-- Frequency and voltage of an island. -/
def State.island (s : State) (pkg i : Nat) : Nat × Nat := (s.pkg pkg).islands.get nominalIsland i

/-- The islands of tiles: one for each physical tile, below the 96 others. DESIGN CHOICE, Assumption 16. -/
def tileIslands : Nat := 1056

/-- R391: the clock of one of the 1,152 islands, a tile's within the range of the tile clock; timing only.
DESIGN CHOICE, Assumption 16. -/
def execIslandClockChange (pkg : BitVec 10) (island mhz mv : Nat) (s : State) : Out :=
  .next (if island < 1152 ∧ (island < tileIslands → 1200 ≤ mhz ∧ mhz ≤ 4400) then
    s.onPkg pkg.toNat fun p => { p with islands := p.islands.put island (mhz, mv) } else s)

/-- R385: what is left backs a shorter range. -/
def execCxlHotRemove (pkg : BitVec 10) (port : BitVec 1) (cap : Nat) (s : State) : Out :=
  .next (s.onPkg pkg.toNat fun p => { p with cxl := p.cxl.put port.toNat (min (cap / 2 ^ 28 * 2 ^ 28) (2 ^ 42)) })

/-- Every store of a package, and its DRAM, as power-up finds it (R142; Assumption 2). CXL memory stays. -/
def State.clearMemory (s : State) (p : Nat) : State :=
  ((s.zeroRange (tileKey (1024 * p) 0) (1024 * 2 ^ 20)).zeroRange (churnBase + 32 * p * 2 ^ 19) (32 * 2 ^ 19)).zeroRange
    (p * 2 ^ 47) 0x40000000000

/-- R391: power-off ends every context of the package; its measurements start at 0 again (R389), and its stores lose what they held.
DESIGN CHOICE, Assumption 66. -/
def execPowerOff (pkg : BitVec 10) (s : State) : Out :=
  .next (
    let p := pkg.toNat
    let s := (s.losePackage p).clearMemory p
    let s := { s with posted := s.posted.filter fun e => e.pkg != p,
                         quads := s.quads.filter fun (e : Nat × Quad) => e.1 / 16 != p,
                         dies := s.dies.filter fun (e : Nat × Die) => e.1 / 4 != p }
    s.onPkg p fun v => { Pkg.idle with off := true, dead := v.dead })

/-! ## The label of a kernel (R269) -/

def labelOf (d o : Nat) : Label :=
  if o = 0 then .memory else if 1024 * d / o < 64 then .compute else if 512 < 1024 * d / o then .memory else .balanced

/-- R269: a kernel whose measurement has run its 2^20 tile clocks is labelled. -/
def execKernelLabel (pkg : BitVec 10) (part : BitVec 2) (ctx : BitVec 12) (entry : Word) (s : State) : Out :=
  .next (
    let due (e : Kernel) : Bool := e.part == part.toNat && e.ctx == ctx.toNat && e.entry == entry && e.label.isNone
      && decide (e.since + measureTime ≤ s.time)
    s.onPkg pkg.toNat fun p =>
      { p with kernels := p.kernels.map fun e => if due e then { e with label := some (labelOf e.d e.o) } else e })

/-! ## What supervisor software does through registers without a number -/

/-- One such act. DESIGN CHOICE, Assumption 95. -/
def State.supAct (s : State) (a : SupAct) : State :=
  match a with
  | .tpc c v =>
    if (s.core (coreKey c)).st = .stopped ∨ (s.core (coreKey c)).st = .frozen then s.onCore (coreKey c) fun c => { c with tpc := v } else s
  | .release c => s.onCore (coreKey c) fun c => { c with hold := false }
  | .reserve d bid on =>
    let e := dieKey d.pkg.toNat d.die.toNat
    if on then (if s.barFree e bid.toNat then s.onBar e bid.toNat fun b => { b with kind := .reserved } else s)
    else if (s.bar e bid.toNat).kind = .reserved then s.onBar e bid.toNat fun b => { b with kind := .free } else s
  | .close e on =>
    if on then (if s.closures.contains e then s else { s with closures := s.closures ++ [e] })
    else { s with closures := s.closures.filter (· != e) }
  | .extend pkg m digest => s.onPkg pkg.toNat fun p => { p with meas := p.meas.put (4 + m.toNat) (extend (p.meas.get 0 (4 + m.toNat)) digest) }
  | .interleave pkg part n e => s.onPkg pkg.toNat fun p =>
      { p with inter := p.inter.put part.toNat ((p.inter.get [] part.toNat).put n e) }

end Machine
end Sys2Proof
end

