-- ==== Sys2Proof/Machine/Dispatch.lean ====
section
/-! DEFINITION. What each instruction and event does: one arm per constructor of `Instr`, each a call of its meaning. -/

namespace Sys2Proof
namespace Machine

def exec (i : Instr) (s : State) : Host.Outcome State Fault Refusal :=
  match i with
  | .add g o => Sys2Proof.Machine.execAdd g o s
  | .sub g o => Sys2Proof.Machine.execSub g o s
  | .mul g o => Sys2Proof.Machine.execMul g o s
  | .mulh g o => Sys2Proof.Machine.execMulh g o s
  | .div g o => Sys2Proof.Machine.execDiv g o s
  | .rem g o => Sys2Proof.Machine.execRem g o s
  | .and g o => Sys2Proof.Machine.execAnd g o s
  | .or g o => Sys2Proof.Machine.execOr g o s
  | .xor g o => Sys2Proof.Machine.execXor g o s
  | .andn g o => Sys2Proof.Machine.execAndn g o s
  | .sll g o => Sys2Proof.Machine.execSll g o s
  | .srl g o => Sys2Proof.Machine.execSrl g o s
  | .sra g o => Sys2Proof.Machine.execSra g o s
  | .rot g o => Sys2Proof.Machine.execRot g o s
  | .min g o => Sys2Proof.Machine.execMin g o s
  | .max g o => Sys2Proof.Machine.execMax g o s
  | .addImm g o => Sys2Proof.Machine.execAddImm g o s
  | .mulImm g o => Sys2Proof.Machine.execMulImm g o s
  | .andImm g o => Sys2Proof.Machine.execAndImm g o s
  | .orImm g o => Sys2Proof.Machine.execOrImm g o s
  | .xorImm g o => Sys2Proof.Machine.execXorImm g o s
  | .andnImm g o => Sys2Proof.Machine.execAndnImm g o s
  | .sllImm g o => Sys2Proof.Machine.execSllImm g o s
  | .srlImm g o => Sys2Proof.Machine.execSrlImm g o s
  | .sraImm g o => Sys2Proof.Machine.execSraImm g o s
  | .rotImm g o => Sys2Proof.Machine.execRotImm g o s
  | .minImm g o => Sys2Proof.Machine.execMinImm g o s
  | .maxImm g o => Sys2Proof.Machine.execMaxImm g o s
  | .clz g o => Sys2Proof.Machine.execClz g o s
  | .ctz g o => Sys2Proof.Machine.execCtz g o s
  | .popc g o => Sys2Proof.Machine.execPopc g o s
  | .sext g o => Sys2Proof.Machine.execSext g o s
  | .zext g o => Sys2Proof.Machine.execZext g o s
  | .li g rd imm => Sys2Proof.Machine.execLi g rd imm s
  | .lih g rd imm => Sys2Proof.Machine.execLih g rd imm s
  | .lea g o => Sys2Proof.Machine.execLea g o s
  | .adr g rd imm => Sys2Proof.Machine.execAdr g rd imm s
  | .padr g rd ra rb => Sys2Proof.Machine.execPadr g rd ra rb s
  | .fadd g o => Sys2Proof.Machine.execFadd g o s
  | .fsub g o => Sys2Proof.Machine.execFsub g o s
  | .fmul g o => Sys2Proof.Machine.execFmul g o s
  | .fma g o => Sys2Proof.Machine.execFma g o s
  | .fdiv g o => Sys2Proof.Machine.execFdiv g o s
  | .fsqrt g o => Sys2Proof.Machine.execFsqrt g o s
  | .fmin g o => Sys2Proof.Machine.execFmin g o s
  | .fmax g o => Sys2Proof.Machine.execFmax g o s
  | .fcvt g o => Sys2Proof.Machine.execFcvt g o s
  | .fclass g o => Sys2Proof.Machine.execFclass g o s
  | .cmp g o => Sys2Proof.Machine.execCmp g o s
  | .fcmp g o => Sys2Proof.Machine.execFcmp g o s
  | .tbit g o => Sys2Proof.Machine.execTbit g o s
  | .plog g o => Sys2Proof.Machine.execPlog g o s
  | .pmovToX g x => Sys2Proof.Machine.execPmovToX g x s
  | .pmovToPr g x => Sys2Proof.Machine.execPmovToPr g x s
  | .br g off => Sys2Proof.Machine.execBr g off s
  | .call g off => Sys2Proof.Machine.execCall g off s
  | .jr g rd ra => Sys2Proof.Machine.execJr g rd ra s
  | .exit g => Sys2Proof.Machine.execExit g s
  | .ld g o => Sys2Proof.Machine.execLd g o s
  | .st g o => Sys2Proof.Machine.execSt g o s
  | .lds g o => Sys2Proof.Machine.execLds g o s
  | .stf g o => Sys2Proof.Machine.execStf g o s
  | .ldc g o => Sys2Proof.Machine.execLdc g o s
  | .pref g o => Sys2Proof.Machine.execPref g o s
  | .clean g o => Sys2Proof.Machine.execClean g o s
  | .inval g o => Sys2Proof.Machine.execInval g o s
  | .longLoadAnswer c => Sys2Proof.Machine.execLongLoadAnswer c s
  | .storeBufferDrain c => Sys2Proof.Machine.execStoreBufferDrain c s
  | .msend g o => Sys2Proof.Machine.execMsend g o s
  | .messageDelivery c => Sys2Proof.Machine.execMessageDelivery c s
  | .mrecv g o => Sys2Proof.Machine.execMrecv g o s
  | .amo g o => Sys2Proof.Machine.execAmo g o s
  | .cas g o => Sys2Proof.Machine.execCas g o s
  | .red g o => Sys2Proof.Machine.execRed g o s
  | .redAccept c => Sys2Proof.Machine.execRedAccept c s
  | .fence g o => Sys2Proof.Machine.execFence g o s
  | .arrive g rd bid => Sys2Proof.Machine.execArrive g rd bid s
  | .bwait g bid ra pt pf => Sys2Proof.Machine.execBwait g bid ra pt pf s
  | .bmask g bid ra => Sys2Proof.Machine.execBmask g bid ra s
  | .bmaskRd g bid ra => Sys2Proof.Machine.execBmaskRd g bid ra s
  | .barrierPhaseComplete d bid => Sys2Proof.Machine.execBarrierPhaseComplete d bid s
  | .barrierTimeout c => Sys2Proof.Machine.execBarrierTimeout c s
  | .push g q cb => Sys2Proof.Machine.execPush g q cb s
  | .pushTry g q cb pt pf => Sys2Proof.Machine.execPushTry g q cb pt pf s
  | .qstat g q rd => Sys2Proof.Machine.execQstat g q rd s
  | .wait g o => Sys2Proof.Machine.execWait g o s
  | .twait g tag => Sys2Proof.Machine.execTwait g tag s
  | .tany g rd ra => Sys2Proof.Machine.execTany g rd ra s
  | .tfind g rd ra => Sys2Proof.Machine.execTfind g rd ra s
  | .cancel g tag rd => Sys2Proof.Machine.execCancel g tag rd s
  | .abinit g obj ra => Sys2Proof.Machine.execAbinit g obj ra s
  | .abinitReset g obj ra => Sys2Proof.Machine.execAbinitReset g obj ra s
  | .abwait g obj => Sys2Proof.Machine.execAbwait g obj s
  | .abwaitTimeout c => Sys2Proof.Machine.execAbwaitTimeout c s
  | .hset g h f x => Sys2Proof.Machine.execHset g h f x s
  | .hget g x h f => Sys2Proof.Machine.execHget g x h f s
  | .hmov g h hs => Sys2Proof.Machine.execHmov g h hs s
  | .hadv g h x => Sys2Proof.Machine.execHadv g h x s
  | .hld g o => Sys2Proof.Machine.execHld g o s
  | .hst g o => Sys2Proof.Machine.execHst g o s
  | .vadd g o => Sys2Proof.Machine.execVadd g o s
  | .vsub g o => Sys2Proof.Machine.execVsub g o s
  | .vmul g o => Sys2Proof.Machine.execVmul g o s
  | .vfma g o => Sys2Proof.Machine.execVfma g o s
  | .vmin g o => Sys2Proof.Machine.execVmin g o s
  | .vmax g o => Sys2Proof.Machine.execVmax g o s
  | .vabs g o => Sys2Proof.Machine.execVabs g o s
  | .vneg g o => Sys2Proof.Machine.execVneg g o s
  | .vexp2 g o => Sys2Proof.Machine.execVexp2 g o s
  | .vlog2 g o => Sys2Proof.Machine.execVlog2 g o s
  | .vrcp g o => Sys2Proof.Machine.execVrcp g o s
  | .vrsq g o => Sys2Proof.Machine.execVrsq g o s
  | .vtanh g o => Sys2Proof.Machine.execVtanh g o s
  | .vcvt g o => Sys2Proof.Machine.execVcvt g o s
  | .vquant g o => Sys2Proof.Machine.execVquant g o s
  | .vamax g o => Sys2Proof.Machine.execVamax g o s
  | .vred g o => Sys2Proof.Machine.execVred g o s
  | .vcmp g o => Sys2Proof.Machine.execVcmp g o s
  | .vsel g o => Sys2Proof.Machine.execVsel g o s
  | .vperm g o => Sys2Proof.Machine.execVperm g o s
  | .vbcast g o => Sys2Proof.Machine.execVbcast g o s
  | .vmov g o => Sys2Proof.Machine.execVmov g o s
  | .vfill g o => Sys2Proof.Machine.execVfill g o s
  | .vempty g d => Sys2Proof.Machine.execVempty g d s
  | .vplog g o => Sys2Proof.Machine.execVplog g o s
  | .vpcnt g o => Sys2Proof.Machine.execVpcnt g o s
  | .vpfirst g o => Sys2Proof.Machine.execVpfirst g o s
  | .vpmovFromX g o => Sys2Proof.Machine.execVpmovFromX g o s
  | .vpmovToX g o => Sys2Proof.Machine.execVpmovToX g o s
  | .vectorQuarterGrant c => Sys2Proof.Machine.execVectorQuarterGrant c s
  | .vectorComplete c => Sys2Proof.Machine.execVectorComplete c s
  | .csrr g rd csr => Sys2Proof.Machine.execCsrr g rd csr s
  | .csrw g o => Sys2Proof.Machine.execCsrw g o s
  | .csrset g o => Sys2Proof.Machine.execCsrset g o s
  | .csrclr g o => Sys2Proof.Machine.execCsrclr g o s
  | .tsplitWrite t => Sys2Proof.Machine.execTsplitWrite t s
  | .accsplitWrite t => Sys2Proof.Machine.execAccsplitWrite t s
  | .trap g code => Sys2Proof.Machine.execTrap g code s
  | .eret g => Sys2Proof.Machine.execEret g s
  | .wfi g ra => Sys2Proof.Machine.execWfi g ra s
  | .wfiTimeout c => Sys2Proof.Machine.execWfiTimeout c s
  | .seal g ra rb => Sys2Proof.Machine.execSeal g ra rb s
  | .tlbi g ra rb scope => Sys2Proof.Machine.execTlbi g ra rb scope s
  | .spawn g lq ra => Sys2Proof.Machine.execSpawn g lq ra s
  | .join g ra rb => Sys2Proof.Machine.execJoin g ra rb s
  | .safe g map => Sys2Proof.Machine.execSafe g map s
  | .yield g => Sys2Proof.Machine.execYield g s
  | .prio g n => Sys2Proof.Machine.execPrio g n s
  | .gang g bid => Sys2Proof.Machine.execGang g bid s
  | .sign g ra => Sys2Proof.Machine.execSign g ra s
  | .dissolve g ra => Sys2Proof.Machine.execDissolve g ra s
  | .xfer g ra => Sys2Proof.Machine.execXfer g ra s
  | .sstep g ra => Sys2Proof.Machine.execSstep g ra s
  | .heldAccessArrive c => Sys2Proof.Machine.execHeldAccessArrive c s
  | .compactTimeout d bid => Sys2Proof.Machine.execCompactTimeout d bid s
  | .qget g rd q pt pf => Sys2Proof.Machine.execQget g rd q pt pf s
  | .rand g rd => Sys2Proof.Machine.execRand g rd s
  | .copy c => Sys2Proof.Machine.execCopy c s
  | .copyPieceArrive c k => Sys2Proof.Machine.execCopyPieceArrive c k s
  | .copyComplete c => Sys2Proof.Machine.execCopyComplete c s
  | .gather c => Sys2Proof.Machine.execGather c s
  | .scatter c => Sys2Proof.Machine.execScatter c s
  | .mma c => Sys2Proof.Machine.execMma c s
  | .mrot c => Sys2Proof.Machine.execMrot c s
  | .mrotBytesArrive t => Sys2Proof.Machine.execMrotBytesArrive t s
  | .drain c => Sys2Proof.Machine.execDrain c s
  | .accZero c => Sys2Proof.Machine.execAccZero c s
  | .accLoad c => Sys2Proof.Machine.execAccLoad c s
  | .accAdd c => Sys2Proof.Machine.execAccAdd c s
  | .accMove c => Sys2Proof.Machine.execAccMove c s
  | .norm c => Sys2Proof.Machine.execNorm c s
  | .aliasBuild c => Sys2Proof.Machine.execAliasBuild c s
  | .smm c => Sys2Proof.Machine.execSmm c s
  | .collAllreduce c => Sys2Proof.Machine.execCollAllreduce c s
  | .collReduceScatter c => Sys2Proof.Machine.execCollReduceScatter c s
  | .collAllgather c => Sys2Proof.Machine.execCollAllgather c s
  | .collBroadcast c => Sys2Proof.Machine.execCollBroadcast c s
  | .collReduce c => Sys2Proof.Machine.execCollReduce c s
  | .collChunkCommit d => Sys2Proof.Machine.execCollChunkCommit d s
  | .collTimeout c => Sys2Proof.Machine.execCollTimeout c s
  | .collReform d => Sys2Proof.Machine.execCollReform d s
  | .offload c => Sys2Proof.Machine.execOffload c s
  | .replay c => Sys2Proof.Machine.execReplay c s
  | .launch c => Sys2Proof.Machine.execLaunch c s
  | .hostTailWrite q rec => Sys2Proof.Machine.execHostTailWrite q rec s
  | .launchRecordTake q => Sys2Proof.Machine.execLaunchRecordTake q s
  | .teamPlacement q base => Sys2Proof.Machine.execTeamPlacement q base s
  | .teamEnd c => Sys2Proof.Machine.execTeamEnd c s
  | .supervisorMark c withdraw => Sys2Proof.Machine.execSupervisorMark c withdraw s
  | .threadSave c => Sys2Proof.Machine.execThreadSave c s
  | .threadResume c => Sys2Proof.Machine.execThreadResume c s
  | .tileImageSwap t => Sys2Proof.Machine.execTileImageSwap t s
  | .tmapWrite t ptile => Sys2Proof.Machine.execTmapWrite t ptile s
  | .threadRestart c => Sys2Proof.Machine.execThreadRestart c s
  | .threadSupervisorResume c => Sys2Proof.Machine.execThreadSupervisorResume c s
  | .threadSupervisorEnd c => Sys2Proof.Machine.execThreadSupervisorEnd c s
  | .accessRefusal c => Sys2Proof.Machine.execAccessRefusal c s
  | .fatalReport c => Sys2Proof.Machine.execFatalReport c s
  | .heartbeat p => Sys2Proof.Machine.execHeartbeat p s
  | .heartbeatMiss p => Sys2Proof.Machine.execHeartbeatMiss p s
  | .pkgHeartbeat pkg => Sys2Proof.Machine.execPkgHeartbeat pkg s
  | .pkgDead pkg => Sys2Proof.Machine.execPkgDead pkg s
  | .linkFailure a b rerouted => Sys2Proof.Machine.execLinkFailure a b rerouted s
  | .ueRetransmit c k => Sys2Proof.Machine.execUeRetransmit c k s
  | .skimTurn q => Sys2Proof.Machine.execSkimTurn q s
  | .skimQuiesceTimeout q => Sys2Proof.Machine.execSkimQuiesceTimeout q s
  | .skimResult q pass => Sys2Proof.Machine.execSkimResult q pass s
  | .tileCacheFill t pa => Sys2Proof.Machine.execTileCacheFill t pa s
  | .ownershipGrant t pa => Sys2Proof.Machine.execOwnershipGrant t pa s
  | .logicalClockTick t n => Sys2Proof.Machine.execLogicalClockTick t n s
  | .clockMinUpdate pkg => Sys2Proof.Machine.execClockMinUpdate pkg s
  | .pageWalk c va => Sys2Proof.Machine.execPageWalk c va s
  | .churnStart pkg c => Sys2Proof.Machine.execChurnStart pkg c s
  | .hostRead pkg fn off n => Sys2Proof.Machine.execHostRead pkg fn off n s
  | .hostWrite pkg fn bar2 off data => Sys2Proof.Machine.execHostWrite pkg fn bar2 off data s
  | .mergeRequest pkg fn mask => Sys2Proof.Machine.execMergeRequest pkg fn mask s
  | .mergeDrainTimeout pkg => Sys2Proof.Machine.execMergeDrainTimeout pkg s
  | .attestationRequest pkg fn => Sys2Proof.Machine.execAttestationRequest pkg fn s
  | .boot pkg => Sys2Proof.Machine.execBoot pkg s
  | .thermalTrip d => Sys2Proof.Machine.execThermalTrip d s
  | .islandClockChange pkg island mhz mv => Sys2Proof.Machine.execIslandClockChange pkg island mhz mv s
  | .cxlHotRemove pkg port cap => Sys2Proof.Machine.execCxlHotRemove pkg port cap s
  | .softError va c uncorrectable => Sys2Proof.Machine.execSoftError va c uncorrectable s
  | .powerOff pkg => Sys2Proof.Machine.execPowerOff pkg s
  | .hostCompletion d a => Sys2Proof.Machine.execHostCompletion d a s
  | .matrixKstepGrant t => Sys2Proof.Machine.execMatrixKstepGrant t s
  | .kernelLabel pkg part ctx entry => Sys2Proof.Machine.execKernelLabel pkg part ctx entry s

end Machine
end Sys2Proof
end

