-- ==== Sys2Proof/Machine/Fetch.lean ====
section
/-! DEFINITION. Instruction fetch (R96, R123, R168), and what the units of the pod have to do next: the order that R44, R128 and
R217 leave to timing is plain data in `agenda`. -/

namespace Sys2Proof
namespace Machine

/-! ## Fetch -/

/-- A trap of the fetch itself: both `tpc` and `tval` hold the address (R123), once every earlier instruction has completed. -/
def State.fetchTrap (s : State) (k cause : Nat) (va : Word) : State :=
  if (s.core k).settled then s.takeTrap k cause false va va 0 else s.await k

/-- Is code at an address fetched through the tile's read-only cache? All of DRAM is, whatever package is its home (R96, R168). -/
def State.codeServes (s : State) (k key : Nat) : Bool := isDram key && isTileCore k && (s.pinnedAt key).isNone

/-- The eight bytes of a word of code. -/
def State.codeBytes (s : State) (k key : Nat) : State × List Byte :=
  if s.codeServes k key then s.roBytes k key 8 else s.fetchBytes k key 8 .keep

/-- Does the word bring a marked byte? -/
def State.codeBad (s : State) (k key : Nat) : Bool :=
  anyBad (if s.codeServes k key then s.badRo k else s.badAt k) [] key (s.realKey key) 8

/-- Does a buffered store of the thread hold back the fetch: one to the word, or to the block that a fill would bring (R96, R304)?
DEDUCED, Assumption 111. -/
def State.codeBehind (s : State) (k key : Nat) : Bool :=
  let buf := (s.core k).sbuf
  if s.codeServes k key then !s.roHolds k key && touchedBy (s.placed buf) (key / 64 * 64) 64
  else touchedBy (s.placed buf) (s.realKey key) 8

/-- The word at a key that answers, or the trap of a marked one. -/
def State.codeWord (s : State) (k : Nat) (va : Word) (key : Nat) : State × Option (List Byte) :=
  if s.codeBehind k key then (s.await k, none)
  else if s.codeBad k key then (s.fetchTrap k causeEccFatal va, none) else let b := s.codeBytes k key; (b.1, some b.2)

/-- Fetch the word at `va`: its bytes, or none where the thread traps, dies or waits instead; a refused fetch waits for the refusal to
arrive (R346), and one that a compact member holds for the boundary (R288). DESIGN CHOICE, Assumption 10. -/
def State.fetchWord (s : State) (k : Nat) (va : Word) : State × Option (List Byte) :=
  if va.toNat % 8 ≠ 0 then (s.fetchTrap k causeAlign va, none)
  else match (s.core k).got.find? fun g => g.va == va.toNat && g.bytes.length == 8 with
  | some g => if g.bad then (s.fetchTrap k causeEccFatal va, none) else (s, some g.bytes)
  | none =>
    let r := s.resolve k va.toNat .ex
    match r.2 with
    | none => (r.1.fetchTrap k causePage va, none)
    | some key =>
      if r.1.codeServes k key && r.1.roHolds k key then r.1.codeWord k va key
      else match r.1.route (r.1.master k) key false with
        | .ok => r.1.codeWord k va key
        | .err c => (r.1.fetchTrap k c va, none)
        | .page => (r.1.fetchTrap k causePage va, none)
        | .dead => (r.1.fetchTrap k causeRemoteDead va, none)
        | .refuse => ((r.1.refuseAt k va va).await k, none)
        | .held => ((r.1.await k).holdAt (r.1.holder key) (.read k (s.core k).pc va.toNat key 8), none)
        | .gone => (r.1.await k, none)

/-! ## The order of a gang (R40, R41) -/

/-- The place of core `k` behind the leader: the members before it. -/
def State.gangRank (s : State) (k : Nat) : Nat :=
  ((List.range (k % 4)).filter fun i => (s.core (k / 4 * 4 + i)).gang).length

/-- May the next word of core `k` issue? A follower is behind its leader, but where the leader waits in its arrival at a barrier; the
leader is ahead of no follower by more than the skew (R40). DEDUCED, Assumption 14. -/
def State.gangReady (s : State) (k : Nat) : Bool :=
  let l := k / 4 * 4
  let c := s.core k
  if !c.gang then true
  else if k = l then
    (List.range 4).all fun i => !(s.core (l + i)).gang || decide (c.gangPos ≤ (s.core (l + i)).gangPos + s.gangRank (l + i))
  else decide (c.gangPos < (s.core l).gangPos) || (c.gangPos == (s.core l).gangPos && (s.core l).token.isSome)

/-- A member has completed a word in a turn that began with the core as `was`. -/
def State.keepStep (s : State) (k : Nat) (was : Core) : State :=
  let c := s.core k
  if was.gang && c.gang && c.st == .running && c.waitFrom.isNone && c.gangPos == was.gangPos then s.stepGang k else s

/-- Fetch the instruction at the pc: one word, or a `safe` and its map word (R72). DEDUCED, Assumption 11. -/
def State.fetch (s : State) (k : Nat) : State × Option (List Byte) :=
  let pc := (s.core k).pc
  if !s.gangReady k then (s.await k, none)
  else
    let r := s.fetchWord k pc
    match r.2 with
    | none => r
    | some bs =>
      if isSafeWord (leWord bs) then
        let q := r.1.fetchWord k (pc + 8)
        (q.1, q.2.map fun ms => bs ++ ms)
      else r

/-- `tval` of a decode trap (R73): the word, or the map word of a `safe` that failed through it. -/
def illegalWord (bs : List Byte) : Word :=
  let w := leWord bs
  if isSafeWord w then (match decodeWord w 0 with
    | .ok _ => leWord (bs.drop 8)
    | .error _ => w)
  else w

/-! ## What the units have to do -/

/-- The tile, die and launch queue of numbers, as the events name them. -/
def tileOf (t : Nat) : TileId := { pkg := BitVec.ofNat 10 (t / 1024), tile := BitVec.ofNat 10 t }
def dieOf (d : Nat) : DieId := { pkg := BitVec.ofNat 10 (d / 4), die := BitVec.ofNat 2 d }
def queueOf (pkg n : Nat) : QueueId := { pkg := BitVec.ofNat 10 pkg, part := BitVec.ofNat 2 (n / 16), q := BitVec.ofNat 4 n }

/-- Events where a condition holds. -/
def onlyIf (b : Bool) (l : List Instr) : List Instr := if b then l else []

/-- Has a `DRAIN` of the core come to step `n` of its absmax reduction: 1 to be made, 2 made and not yet performed (R213)? -/
def Core.drains (c : Core) (n : Nat) : Bool := c.cmds.any fun d => d.q == .mxq && d.opc == 0x12 && decide (n ≤ d.prog.k)

/-- Steps of the engines for the commands of a core. -/
def cmdEvents (k : Nat) (c : Core) : List Instr :=
  let me := coreOf k
  let has (q : QName) : Bool := c.cmds.any fun d => d.q == q
  List.flatten [
    onlyIf (has .mxq) [Instr.matrixKstepGrant (tileOf (coreTile k))],
    onlyIf (c.drains 1) [Instr.drain me],
    onlyIf (has .cpq) [Instr.copy me, Instr.gather me, Instr.scatter me],
    (c.copyReady ++ c.piecesReady).map fun _ => Instr.copyPieceArrive me 0,
    onlyIf (has .cpq) [Instr.copyComplete me],
    onlyIf (has .clq) [Instr.collAllreduce me, Instr.collReduceScatter me, Instr.collAllgather me, Instr.collBroadcast me,
      Instr.collReduce me, Instr.collTimeout me],
    onlyIf (has .ofq) [Instr.offload me, Instr.replay me],
    onlyIf (has .lnq) [Instr.launch me]]

/-- What a core and its thread have outstanding. -/
def State.coreEvents (s : State) (k : Nat) (c : Core) : List Instr :=
  let me := coreOf k
  List.flatten [
    onlyIf c.refusal.isSome [Instr.accessRefusal me],
    onlyIf c.report [Instr.fatalReport me],
    c.loads.flatMap fun _ => [Instr.heldAccessArrive me, Instr.longLoadAnswer me],
    c.sbuf.flatMap fun _ => [Instr.heldAccessArrive me, Instr.storeBufferDrain me],
    c.msgs.map fun _ => Instr.messageDelivery me,
    c.vq.flatMap fun _ => List.replicate 4 (Instr.vectorQuarterGrant me) ++ List.replicate 2 (Instr.vectorComplete me),
    cmdEvents k c,
    onlyIf c.bwaiting.isSome [Instr.barrierTimeout me],
    onlyIf c.abwaiting.isSome [Instr.abwaitTimeout me],
    onlyIf c.wfiLimit.isSome [Instr.wfiTimeout me],
    onlyIf (c.st == .saving) [Instr.threadSave me],
    onlyIf (c.st == .saved && (s.tile (coreTile k)).job != some c.job) [Instr.tileImageSwap (tileOf (coreTile k))],
    onlyIf (c.st == .saved) [Instr.threadResume me],
    onlyIf (c.st == .ended && (isChurn k || s.teamOver k)) [Instr.teamEnd me]]

/-- What a tile has outstanding. -/
def tileEvents (t : Nat) (v : Tile) : List Instr :=
  (match v.req with | some r => [if r.acc then Instr.accsplitWrite (tileOf t) else Instr.tsplitWrite (tileOf t)] | none => [])
    ++ onlyIf (!(v.arriving.isEmpty && v.rotated.isEmpty)) [Instr.mrotBytesArrive (tileOf t)]

/-- What a die's barriers and collectives have outstanding. -/
def State.dieEvents (s : State) (d : Nat) (v : Die) : List Instr :=
  (v.bars.flatMap fun e => if s.phaseReady d e.1 then [Instr.barrierPhaseComplete (dieOf d) (BitVec.ofNat 6 e.1)]
    else onlyIf e.2.since.isSome [Instr.compactTimeout (dieOf d) (BitVec.ofNat 6 e.1)])
    ++ onlyIf (s.colls.any fun g => g.dies.contains d) [Instr.collChunkCommit (dieOf d)]

/-- A partition's records to be placed and taken, by its number. -/
def State.partEvents (s : State) (p part : Nat) : List Instr :=
  (match s.placeNext p part with
    | some (q, b) => [Instr.teamPlacement (queueOf p (queueKey part q)) (BitVec.ofNat 12 b)]
    | none => [])
    ++ ((List.range 16).filter (s.takeable p part)).map fun q => Instr.launchRecordTake (queueOf p (queueKey part q))

/-- What a package has outstanding: records, churns to start, merges that drain, a report to sign, kernels to label. -/
def State.pkgEvents (s : State) (p : Nat) (v : Pkg) : List Instr :=
  let me := BitVec.ofNat 10 p
  List.flatten [
    v.parts.flatMap fun e => s.partEvents p e.1,
    onlyIf v.booted ((List.range 32).map fun c => Instr.churnStart me (BitVec.ofNat 5 c)),
    v.merges.flatMap fun m => [Instr.mergeRequest me (BitVec.ofNat 2 m.p) 0, Instr.mergeDrainTimeout me],
    onlyIf v.reporting.isNone ((v.control.filter fun e => e.2.asked.isSome).map fun e => Instr.attestationRequest me (BitVec.ofNat 2 e.1)),
    (v.kernels.filter fun e => e.label.isNone && decide (e.since + measureTime ≤ s.time)).map fun e =>
      Instr.kernelLabel me (BitVec.ofNat 2 e.part) (BitVec.ofNat 12 e.ctx) e.entry]

/-- Time and clocks that writes in flight wait for (R155). -/
def State.clockActs (s : State) : List Act :=
  if s.cores.any fun e => !e.2.flights.isEmpty || e.2.vq.any (fun v => decide (0 < v.due)) || e.2.loads.any (fun l => l.kind == .done)
      || e.2.drains 2 then
    [.elapse 1024] ++ (s.pkgs.map fun e => Act.event (.clockMinUpdate (some (BitVec.ofNat 10 e.1)))) ++ [.event (.clockMinUpdate none)]
  else []

/-- The regions that copy engines have to grant. -/
def State.grantActs (s : State) : List Act :=
  s.cores.flatMap fun e => e.2.copyReady.map fun _ => Act.grant (coreOf e.1) 0

/-- Packages whose hosts' requests wait. -/
def State.postActs (s : State) : List Act := ((s.posted.filter fun e => !e.sent).map (·.pkg)).eraseDups.map Act.posted

/-- Everything that is outstanding, in one order: any other order is a matter of what `agenda` holds.
DESIGN CHOICE, Assumption 7. -/
def State.pending (s : State) : List Act :=
  s.clockActs ++ s.grantActs ++ s.postActs
    ++ ((s.cores.flatMap fun e => s.coreEvents e.1 e.2) ++ (s.tiles.flatMap fun e => tileEvents e.1 e.2)
        ++ (s.dies.flatMap fun e => s.dieEvents e.1 e.2) ++ (s.pkgs.flatMap fun e => s.pkgEvents e.1 e.2)).map Act.event

/-- The next core that runs a thread, after core `k` in turn; `k` itself where there is no other. -/
def State.nextCore (s : State) (k : Nat) : Nat :=
  let ready := (s.cores.filter fun e => e.2.st == .running).map (·.1)
  (ready.find? fun i => decide (k < i)).getD (ready.headD k)

/-- What follows a turn that began with the current core as `was`: its gang's order is kept, a tile clock passes, and every 64 clocks,
or when the thread did not move, the units and the other cores take their steps. DESIGN CHOICE, Assumption 13. -/
def State.after (s : State) (was : Core) : State :=
  let s := s.keepStep s.me was
  let s := { s with time := s.time + 1 }
  if s.time % 64 = 0 ∨ (s.core s.me).pc = was.pc then
    { s with agenda := s.pending ++ [.core (coreOf (s.nextCore s.me))] }
  else s

/-- R168: the read-only cache may lose any block at any time. -/
def State.drop (s : State) (t blk : Nat) : State := s.onTile t fun v => { v with ro := v.ro.filter fun e => e.pa != blk }

/-- R94: the register cache may evict any word at any time; a dirty one is written back. -/
def State.evictWord (s : State) (k i : Nat) : State :=
  match (s.core k).rc.find? fun e => e.1 == i with
  | none => s
  | some e =>
    let s := if e.2 then s.writeHome k i else s
    s.onCore k fun c => { c with rc := c.rc.filter fun e => e.1 != i }

/-- The replacements and gatherings that R94, R152, R168 and R324 let happen at any time, time passing, a grant of the copy engine, and
what supervisor software does. -/
def State.idleAct (s : State) (a : Act) : State :=
  match a with
  | .elapse n => { s with time := s.time + n }
  | .dropRo t blk => s.drop t blk
  | .dropBlock t blk => s.dropBlock t blk
  | .evict c i => s.evictWord (coreKey c) i
  | .gather key => s.gather key 1
  | .grant c n => s.copyGrant (coreKey c) n
  | .sup a => s.supAct a
  | .posted p => s.postAll p
  | .event _ | .core _ => s

/-! ## Placing one instruction where the next step fetches it -/

/-- The physical address of the first byte of code of `placeCode`, in the HBM of package 0, and its virtual address.
DESIGN CHOICE, Assumption 3. -/
def codeBase : Nat := 0x100000

/-- May two words stand at the address, in one page (R72, R162)? -/
def placeable (va : Nat) : Bool := decide (va % 8 = 0) && canonical va && !inWindow va && decide (va % 2 ^ 16 + 16 ≤ 2 ^ 16)

/-- The core that fetches next: the current one, with a thread that runs at an address it can fetch from. Where it has none, a
thread of job (0, 0) runs at `codeBase`. -/
def State.placeThread (s : State) : State :=
  let k := s.me
  let s : State := { s with agenda := [] }
  let s := if s.gangReady k then s else s.onCore k Core.ungang
  s.onCore k fun c => { c with
    st := .running, refusal := none, pc := if c.st = .running ∧ placeable c.pc.toNat then c.pc else BitVec.ofNat 64 codeBase }

/-- Map the page of `va` for core `k`, read, write and execute, at physical address `va` where a walk gives no executable page. -/
def State.placePage (s : State) (k va : Nat) : State :=
  match (s.resolve k va .ex).2 with
  | some _ => s
  | none =>
    let a := va % 2 ^ 16
    let e : Tlb := { pkg := corePkg k, job := (s.core k).job, va := va - a, size := 2 ^ 16, pa := codeBase, rd := true, wr := true,
                     ex := true, cls := 0 }
    s.onCore k fun c => { c with tlb := e :: c.tlb }

/-- The partition of core `k`'s job holds every die of its package. -/
def State.placePart (s : State) (k : Nat) : State :=
  if s.partOf (corePkg k) 0 = (s.core k).job.part.toNat then s
  else s.onPkg (corePkg k) fun p => { p with booted := true, parts := [((s.core k).job.part.toNat, 15)] }

/-- Store the bytes of code at `va`, past every cached copy of them. -/
def State.placeCode (s : State) (k va : Nat) (bs : List Byte) : State :=
  match (s.resolve k va .ex).2 with
  | none => s
  | some key =>
    let s := ((s.settle key 64).store key bs).setMark key false
    let t := coreTile k
    if isTileCore k then (s.drop t (key / 64 * 64)).onTile t fun v =>
      { v with blocks := v.blocks.filter fun b => !overlaps b.pa 64 key bs.length } else s

/-- The instruction whose bits are `w` stands where the next step fetches: a thread runs on the current core, its page is mapped,
and the bytes are stored. -/
def State.placeWord (s : State) (nbits w : Nat) : State :=
  let s := s.placeThread
  let k := s.me
  let pc := (s.core k).pc.toNat
  let s := (s.placePart k).placePage k pc
  let bs := toBytes 16 (w % 2 ^ nbits)
  s.placeCode k pc bs

end Machine
end Sys2Proof
end

