-- ==== Sys2Proof/Machine/Step.lean ====
section
/-! DEFINITION. One step of the machine: the act at the head of the agenda, or one instruction of the core whose turn it is. -/

namespace Sys2Proof
namespace Machine

/-- Fetch, decode and run the instruction at the pc of the current core; a core that runs no thread lets a clock pass. -/
def State.turn (s : State) : Host.Outcome State Fault Refusal :=
  let k := s.me
  let c := s.core k
  if c.st ≠ .running then .next (s.after c)
  else
    let r := s.fetch k
    match r.2 with
    | none => .next (r.1.after c)
    | some bs =>
      match decodeBytes bs with
      | .error _ => .next ((r.1.trap k causeIllegal (illegalWord bs)).after c)
      | .ok (i, _) =>
        match exec i r.1 with
        | .next t => .next (t.after c)
        | .fault f => .fault f
        | .refused f => .refused f

/-- One act of the agenda. An event is a step of a unit: an instruction word runs only from memory. -/
def State.act (s : State) (a : Act) : Host.Outcome State Fault Refusal :=
  match a with
  | .event i => if i.isWord then .next s else exec i s
  | .core c => State.turn { s with cur := c }
  | _ => .next (s.idleAct a)

/-- One step. -/
def step (s : State) : Host.Outcome State Fault Refusal :=
  match s.agenda with
  | a :: as => State.act { s with agenda := as } a
  | [] => s.turn

/-- The instruction whose bits are `w`, where `step` fetches its next instruction (R10, R72). -/
def State.withFetchWord (s : State) (nbits w : Nat) : State := s.placeWord nbits w

end Machine
end Sys2Proof
end

