-- ==== Sys2Proof/Safety.lean ====
section
/-! DEFINITION. What counts as a safe run, and the terms in which statements are made. -/

namespace Sys2Proof
namespace Machine

/-- A step that stops for nothing: every trap, freeze, kill and refusal of the manual is a next state. -/
def Safe (s : State) : Prop := ∃ t, step s = .next t

/-- The canonical form of the state as data: every memory lists rising addresses and no byte that an unlisted one reads as, and
every table of units has rising keys, so that no unit is listed twice. -/
structure State.Canon (s : State) : Prop where
  mem : Memory.wf s.mem = true
  hostMem : Memory.wf s.hostMem = true
  full : s.full.wfFrom 0 = true
  marks : s.marks.wfFrom 0 = true
  cores : s.cores.wfFrom 0 = true
  tiles : s.tiles.wfFrom 0 = true
  quads : s.quads.wfFrom 0 = true
  dies : s.dies.wfFrom 0 = true
  pkgs : s.pkgs.wfFrom 0 = true
  sectors : s.sectors.wfFrom 0 = true
  pkgMin : s.pkgMin.wfFrom 0 = true
  grads : s.grads.wfFrom 0 = true
  gstarve : s.gstarve.wfFrom 0 = true
  stamps : s.stamps.wfFrom 0 = true
  hostBad : s.hostBad.wfFrom 0 = true

/-- What holds of the next state where there is one. -/
def Holds (P : State → Prop) : Host.Outcome State Fault Refusal → Prop
  | .next t => P t
  | _ => True

/-! ## When a word takes its effect -/

/-- The home words that a word and its guard name. -/
def named (i : Instr) : List Nat := i.guardWords ++ i.uses.1 ++ i.uses.2

/-- A named word of core `k` is sound: it is not poisoned, and the home word that backs it neither holds a poisoned register nor is marked
(R138, R327). -/
structure State.Sound (s : State) (k w : Nat) : Prop where
  own : (s.core k).poison.find w = none
  mates : ∀ v ∈ namesOf (homeWordOf w), (s.core k).poison.find v = none
  home : s.isMarked (homeKey k + 8 * homeWordOf w) = false

/-- The word `i` takes its effect on the core whose turn it is: the core runs a thread, may execute the word (R73, step 4), its
guard is true (R97), no register that the word names waits for a late writer and no checked load is outstanding that it may not
pass (R127), and no register that it names is poisoned or stands in a marked home word (R138, R327). The state is canonical, as
every step leaves it. -/
structure State.Runs (s : State) (i : Instr) : Prop where
  canon : s.Canon
  running : (s.core s.me).st = .running
  role : refusedByRole s.me i = false
  csr : refusedCsr s.me i = false
  guard : i.guard.eval (s.core s.me) = true
  ready : ∀ w ∈ named i, w ∉ (s.core s.me).pendingWords
  passes : (s.core s.me).checked = false ∨ mayPass i = true
  clean : ∀ w ∈ named i, s.Sound s.me w

/-- The word `i` is suppressed on the core whose turn it is (R98): the core may execute it and its guard is false. A compare in
write mode `clr`, which still clears its pair, waits like any other word (R127). -/
structure State.Suppresses (s : State) (i : Instr) : Prop where
  canon : s.Canon
  running : (s.core s.me).st = .running
  role : refusedByRole s.me i = false
  csr : refusedCsr s.me i = false
  guard : i.guard.eval (s.core s.me) = false
  ready : ∀ w ∈ i.guardWords, w ∉ (s.core s.me).pendingWords
  clean : ∀ w ∈ i.guardWords, s.Sound s.me w
  pair : clears i = true → (∀ w ∈ named i, w ∉ (s.core s.me).pendingWords) ∧ (s.core s.me).checked = false ∧
    ∀ w ∈ i.uses.2, s.Sound s.me w

/-- Core `k` waits in nothing that others see: no barrier phase (R271), no change of `tsplit` or `accsplit` (R150, R203), no `sign`
(R308). -/
structure State.Unbound (s : State) (k : Nat) : Prop where
  phase : (s.core k).bwaiting = none
  split : ∀ r, (s.tile (coreTile k)).req = some r → r.core ≠ k
  sign : ∀ c, (s.tile (coreTile k)).signing = some c → c.signer ≠ some k

/-- What taking a trap to the thread's handler does to its core (R337, step 4). -/
def Core.handled (c : Core) (cause : Nat) (pc tval : Word) : Core :=
  { c.unwait with tcause := BitVec.ofNat 64 cause, tpc := pc, tval := tval, inh := true, pc := c.tvec }

/-- Outside the register home of core `k` (R93). -/
def OutsideHome (k a : Nat) : Prop := a < homeKey k ∨ homeKey k + 0x400 ≤ a

/-- `t` is `s` but for core `k`, for the bytes of its register home, to which the register cache may write registers back at any
time (R94), and for the marks of those bytes. -/
structure State.SameBut (s t : State) (k : Nat) : Prop where
  rest : { t with mem := s.mem, marks := s.marks, cores := s.cores } = s
  others : ∀ j, j ≠ k → t.core j = s.core j
  mem : ∀ a, OutsideHome k a → memGet t.mem a = memGet s.mem a
  marks : ∀ a, OutsideHome k a → t.isMarked a = s.isMarked a

/-- Two cores with the same thread state: all but which registers the register cache holds (R94). -/
def Core.Same (c d : Core) : Prop := { c with rc := d.rc } = d

/-- A word of the core whose turn it is changes that core by `f` and nothing else. -/
structure State.Did (s t : State) (f : Core → Core) : Prop extends s.SameBut t s.me where
  core : (t.core s.me).Same (f (s.core s.me))

/-- The state in which an issued word finds its operands: the registers that its guard and it name stand in the register cache
(R94). It differs from `s` as `State.SameBut` says, and no register has another value. -/
def State.ready (s : State) (i : Instr) : State :=
  (s.fill s.me i.guardWords []).fill s.me (i.guardWords ++ i.uses.1) i.uses.2

/-- Whenever the word `i` takes its effect, it changes its core by `f`, goes on to the next word, and changes nothing else. -/
def Completes (s : State) (i : Instr) (f : Core → Core) : Prop :=
  s.Runs i → ∃ t, exec i s = .next t ∧ s.Did t (fun c => (f c).advance 8)

/-- The word of the core whose turn it is takes a trap of a cause to its handler (R337): its trap registers are set, no other register
changes, and where the core waits in nothing that others see and is in no gang, nothing else changes either. -/
structure State.TrapsTo (s t : State) (cause : Nat) (v : Word) : Prop where
  tcause : (t.core s.me).tcause = BitVec.ofNat 64 cause
  tpc : (t.core s.me).tpc = (s.core s.me).pc
  tval : (t.core s.me).tval = v
  inh : (t.core s.me).inh = true
  pc : (t.core s.me).pc = (s.core s.me).tvec
  st : (t.core s.me).st = .running
  x : (t.core s.me).x = (s.core s.me).x
  p : (t.core s.me).p = (s.core s.me).p
  h : (t.core s.me).h = (s.core s.me).h
  vp : (t.core s.me).vp = (s.core s.me).vp
  only : s.Unbound s.me → (s.core s.me).gang = false → s.Did t fun c => c.handled cause c.pc v

/-- The core has a handler, is not inside it, and every earlier instruction of it has completed: a trap is taken now (R127, R337). -/
structure State.Handles (s : State) (k : Nat) : Prop where
  tvec : (s.core k).tvec ≠ 0
  inh : (s.core k).inh = false
  settled : (s.core k).settled = true

/-! ## What a word that enters a load or a store leaves -/

/-- What a word that enters a load leaves: the load stands last, the pc has moved on, and nothing else has changed. -/
def EntersLoad (v t : State) (k : Nat) (l : Load) : Prop :=
  t = { v with seq := v.seq + 1, cores := t.cores } ∧ (∀ j, j ≠ k → t.core j = v.core j) ∧
    t.core k = { (v.core k).advance 8 with loads := (v.core k).loads ++ [l] }

/-- What a word that enters the store buffer leaves. -/
def EntersStore (v t : State) (k : Nat) (e : Store) : Prop :=
  t = { v with seq := v.seq + 1, cores := t.cores } ∧ (∀ j, j ≠ k → t.core j = v.core j) ∧
    t.core k = { (v.core k).advance 8 with sbuf := (v.core k).sbuf ++ [e] }

/-! ## The same of a vector word (R215 to R217) -/

/-- The number of lanes of a vector word on the core whose turn it is (R215). -/
def State.laneCount (s : State) (i : Instr) : Nat := lanesOf (i.slots.handles.map fun v => (s.core s.me).rh v.h)

/-- The lanes in which its guard is true (R97). -/
def State.laneMask (s : State) (i : Instr) : Wide := i.guard.lanes (s.core s.me) (s.laneCount i)

/-- A vector word issues with at least one true lane: the conditions of `State.Runs`, with the guard read lane by lane. -/
structure State.RunsLanes (s : State) (i : Instr) : Prop where
  canon : s.Canon
  running : (s.core s.me).st = .running
  lanes : s.laneMask i ≠ 0
  ready : ∀ w ∈ named i, w ∉ (s.core s.me).pendingWords
  passes : (s.core s.me).checked = false
  clean : ∀ w ∈ named i, s.Sound s.me w

/-- The state in which a vector word finds its operands. -/
def State.readyLanes (s : State) (i : Instr) : State := (s.fill s.me i.guardWords []).fill s.me i.uses.1 i.uses.2

/-! ## Commands -/

/-- No command of core `k` has age `age`: the one that had it is complete. -/
def State.Retired (s : State) (k age : Nat) : Prop := ∀ e ∈ (s.core k).cmds, e.age ≠ age

/-- `x` is `s` but for the arbiter's account at the matrix engine of tile `u` (R46, R225): what a grant leaves before its work. -/
structure State.Granted (s x : State) (u : Nat) : Prop where
  rest : { s with cores := x.cores, tiles := x.tiles } = x
  cores : ∀ j, { x.core j with mcredit := (s.core j).mcredit } = s.core j
  tiles : ∀ j, { x.tile j with mstarve := if j = u then (s.tile j).mstarve else (x.tile j).mstarve } = s.tile j

/-- Outside the tag state and the fault records of every core, where they now stand (R200, R279). -/
def State.OutsideTags (s : State) (a : Nat) : Prop := ∀ k, a < s.tagAt k ∨ s.tagAt k + 0x300 ≤ a

/-- What stands outside the tag state is as before. -/
def State.SameOutsideTags (s t : State) : Prop := ∀ a, s.OutsideTags a → memGet t.mem a = memGet s.mem a

end Machine
end Sys2Proof
end

