-- ==== Sys2Proof/Certificates/Slice0/Obligations.lean ====
section
/-! DEFINITION. The statements for the provers. Each is about every state; what an instruction does is stated under conditions on
the state and the operands alone, with all that it leaves unchanged. -/

open Sys2Proof Sys2Proof.Machine

/-! ## Words -/

/-- O1. Words written out from the encodings of R71 to R86, and two counter-examples of the manual, decode as the manual says. A
sanity statement. -/
def Obligations.WrittenWordsDecode : Prop :=
  decodeWord 0xFF00306015818000 0 = .ok (.cmp ⟨0xFF, 0, 0, 0⟩ ⟨3, 0, .set, .ne, 11, .reg 0, .s64⟩) ∧
  decodeWord 0xF0603B0000000000 0 = .ok (.exit ⟨0xF0, 3, 0, 0⟩) ∧
  decodeWord 0xFF00103158FFFFFF 0 = .ok (.addImm ⟨0xFF, 0, 0, 0⟩ ⟨6, 5, .s64, 0xFFFFFF⟩) ∧
  decodeWord 0x0F201F300C000000 0 = .ok (.padr ⟨0x0F, 1, 0, 0⟩ 6 0 6) ∧
  decodeWord 0x0F204061B2803040 0 = .ok (.ld ⟨0x0F, 1, 0, 0⟩ ⟨12, 6, .n32, false, .pod, .keep, false, 0x3040⟩) ∧
  decodeWord 0xF020604020C00000 0 =
    .ok (.vadd ⟨0xF0, 1, 0, 0⟩ ⟨⟨4, false⟩, .h ⟨1, false⟩, .h ⟨3, false⟩, .rne⟩) ∧
  decodeWord 0xFF00710000000042 0 = .ok (.trap ⟨0xFF, 0, 0, 0⟩ 0x42) ∧
  decodeWord 0xFF00718535000000 0 = .ok (.tlbi ⟨0xFF, 0, 0, 0⟩ 5 6 .pod) ∧
  decodeWord 0xFF0070C852050000 0 = .ok (.csrclr ⟨0xFF, 0, 0, 0⟩ ⟨4, 5, 0x205⟩) ∧
  decodeWord 0xF0603B0000000001 0 = .error .reserved ∧
  decodeWord 0xF020604020C03000 0 = .error .code

/-- O2. R71 to R86: the word of every instruction decodes to that instruction, whatever its operands. -/
def Obligations.EncodedWordDecodes : Prop :=
  ∀ i : Instr, i.isWord = true → i.wf = true → decodeWord (encode i) i.mapWord = .ok i

/-- O3. R73: a word that decodes is the word of the instruction it decodes to, so that no bit of it is ignored and no two words
mean the same; what it decodes to is well formed. -/
def Obligations.DecodedWordEncodes : Prop :=
  ∀ (w m : Word) (i : Instr), decodeWord w m = .ok i → i.isWord = true ∧ i.wf = true ∧ encode i = w

/-! ## Steps -/

/-- O4. A STEP RUNS THE DECODED INSTRUCTION. Where nothing stands in the agenda, the current core runs a thread, and the fetch
at its pc answers bytes that decode to `i`, the step is `exec i` after the fetch, followed by what `State.after` adds: a tile
clock, and the order in which the units take their steps (a DESIGN CHOICE, Assumption 5). -/
def Obligations.StepRunsTheDecodedInstruction : Prop :=
  ∀ (s : State) (bs : List Byte) (i : Instr) (n : Nat),
    s.agenda = [] → (s.core s.me).st = .running → (s.fetch s.me).2 = some bs → decodeBytes bs = .ok (i, n) →
    step s = match exec i (s.fetch s.me).1 with
      | .next t => .next (t.after (s.core s.me))
      | .fault f => .fault f
      | .refused r => .refused r

/-- O5. R73, steps 1 to 4: bytes that decode to nothing trap ILLEGAL with `tval` the word (the map word of a `safe` that fails
through it), once every earlier instruction has completed. What `State.after` adds, the tile clock and the order of the units' steps,
is the model's choice (Assumption 5), not a rule of the spec. -/
def Obligations.UndecodedWordTraps : Prop :=
  ∀ (s : State) (bs : List Byte) (e : DecodeError),
    s.agenda = [] → (s.core s.me).st = .running → (s.fetch s.me).2 = some bs → decodeBytes bs = .error e →
    ((s.fetch s.me).1.core s.me).settled = true →
    step s = .next (((s.fetch s.me).1.takeTrap s.me causeIllegal false ((s.fetch s.me).1.core s.me).pc (illegalWord bs) 0).after
      (s.core s.me))

/-- O6. Reset leaves the canonical form. -/
def Obligations.ResetIsCanonical : Prop := State.reset.Canon

/-- O7. Every step keeps the canonical form: memories list rising addresses and nothing that an unlisted address reads as, and no
unit is listed twice. -/
def Obligations.StepKeepsCanonicalForm : Prop :=
  ∀ s t : State, s.Canon → step s = .next t → t.Canon

/-- O8. No step ends in a fault or a refusal: every trap, freeze, kill and refused access of the manual is a next state. That the
model has an answer everywhere is the model's choice (Assumption 4, DEDUCED), not a rule of the spec. -/
def Obligations.EveryStepAnswers : Prop := ∀ s : State, ∃ t, step s = .next t

/-- O9. R98: a suppressed scalar word changes nothing but the pc, which passes its words; under `clr` a compare clears its pair. -/
def Obligations.SuppressedWordOnlyAdvances : Prop :=
  ∀ (s : State) (i : Instr), i.isWord = true → i.isVector = false → s.Suppresses i →
    ∃ t, exec i s = .next t ∧ s.Did t fun c =>
      (match i with
        | .cmp _ o => if o.wm = Wm.clr then (c.wp o.pt false).wp o.pf false else c
        | .fcmp _ o => if o.wm = Wm.clr then (c.wp o.pt false).wp o.pf false else c
        | .tbit _ o => if o.wm = Wm.clr then (c.wp o.pt false).wp o.pf false else c
        | _ => c).advance i.size

/-! ## Scalar arithmetic -/

/-- O10. R101, R102, R103 and R104, the register form: the exact result on operands of width w, narrowed and extended; x0 reads
0 and discards a write (R92); nothing else changes. -/
def Obligations.IntegerRegisterResults : Prop :=
  ∀ (s : State) (g : Guard) (o : IntR),
    let w := o.ty.width
    let exact (f : Int → Int → Int) (c : Core) : Core :=
      c.wx o.rd (o.ty.extend (f (o.ty.value (c.rx o.ra)) (o.ty.value (c.rx o.rb))))
    let bits (f : Word → Word → Word) (c : Core) : Core := c.wx o.rd (o.ty.extend ((f (c.rx o.ra) (c.rx o.rb)).toNat : Int))
    let shift (f : Nat → Nat → Int) (c : Core) : Core :=
      c.wx o.rd (o.ty.extend (f ((c.rx o.ra).toNat % 2 ^ w) ((c.rx o.rb).toNat % 64)))
    Completes s (.add g o) (exact fun a b => a + b) ∧
    Completes s (.sub g o) (exact fun a b => a - b) ∧
    Completes s (.mul g o) (exact fun a b => a * b) ∧
    Completes s (.mulh g o) (exact fun a b => Int.fdiv (a * b) (2 ^ w)) ∧
    Completes s (.div g o) (exact fun a b => if b = 0 then -1 else Int.tdiv a b) ∧
    Completes s (.rem g o) (exact fun a b => if b = 0 then a else a - b * Int.tdiv a b) ∧
    Completes s (.and g o) (bits (· &&& ·)) ∧
    Completes s (.or g o) (bits (· ||| ·)) ∧
    Completes s (.xor g o) (bits (· ^^^ ·)) ∧
    Completes s (.andn g o) (bits fun a b => a &&& ~~~b) ∧
    Completes s (.sll g o) (shift fun p n => if n < w then p * 2 ^ n else 0) ∧
    Completes s (.srl g o) (shift fun p n => if n < w then p / 2 ^ n else 0) ∧
    Completes s (.sra g o) (shift fun p n => (if p < 2 ^ (w - 1) then (p : Int) else p - 2 ^ w) / 2 ^ n) ∧
    Completes s (.rot g o) (shift fun p n => p / 2 ^ (n % w) + p % 2 ^ (n % w) * 2 ^ (w - n % w)) ∧
    Completes s (.min g o) (exact fun a b => if a ≤ b then a else b) ∧
    Completes s (.max g o) (exact fun a b => if a ≤ b then b else a)

/-- O11. R101, R102 and R104, the immediate form: the immediate is sign-extended and then taken to w bits; a shift amount is the
immediate itself, 0 to 63. -/
def Obligations.IntegerImmediateResults : Prop :=
  ∀ (s : State) (g : Guard) (o : IntI),
    let w := o.ty.width
    let imm : Word := o.imm.signExtend 64
    let exact (f : Int → Int → Int) (c : Core) : Core := c.wx o.rd (o.ty.extend (f (o.ty.value (c.rx o.ra)) (o.ty.value imm)))
    let bits (f : Word → Word → Word) (c : Core) : Core := c.wx o.rd (o.ty.extend ((f (c.rx o.ra) imm).toNat : Int))
    let shift (f : Nat → Nat → Int) (c : Core) : Core := c.wx o.rd (o.ty.extend (f ((c.rx o.ra).toNat % 2 ^ w) o.imm.toNat))
    Completes s (.addImm g o) (exact fun a b => a + b) ∧
    Completes s (.mulImm g o) (exact fun a b => a * b) ∧
    Completes s (.andImm g o) (bits (· &&& ·)) ∧
    Completes s (.orImm g o) (bits (· ||| ·)) ∧
    Completes s (.xorImm g o) (bits (· ^^^ ·)) ∧
    Completes s (.andnImm g o) (bits fun a b => a &&& ~~~b) ∧
    Completes s (.minImm g o) (exact fun a b => if a ≤ b then a else b) ∧
    Completes s (.maxImm g o) (exact fun a b => if a ≤ b then b else a) ∧
    (o.imm.toNat < 64 →
      Completes s (.sllImm g o) (shift fun p n => if n < w then p * 2 ^ n else 0) ∧
      Completes s (.srlImm g o) (shift fun p n => if n < w then p / 2 ^ n else 0) ∧
      Completes s (.sraImm g o) (shift fun p n => (if p < 2 ^ (w - 1) then (p : Int) else p - 2 ^ w) / 2 ^ n) ∧
      Completes s (.rotImm g o) (shift fun p n => p / 2 ^ (n % w) + p % 2 ^ (n % w) * 2 ^ (w - n % w)))

/-- O12. R105: counts of leading zeros, trailing zeros and ones among the low w bits, and the extensions. -/
def Obligations.OneSourceResults : Prop :=
  ∀ (s : State) (g : Guard) (o : IntU),
    let w := o.ty.width
    let put (f : Nat → Word) (c : Core) : Core := c.wx o.rd (f ((c.rx o.ra).toNat % 2 ^ w))
    (∀ p, p < 2 ^ w → p ≠ 0 → leadZeros p w = w - 1 - Nat.log2 p) ∧ leadZeros 0 w = w ∧
    Completes s (.clz g o) (put fun p => BitVec.ofNat 64 (leadZeros p w)) ∧
    (∀ p, p < 2 ^ w → p ≠ 0 → p.testBit (trailZeros p w) = true ∧ p % 2 ^ trailZeros p w = 0) ∧ trailZeros 0 w = w ∧
    Completes s (.ctz g o) (put fun p => BitVec.ofNat 64 (trailZeros p w)) ∧
    Completes s (.popc g o) (put fun p => BitVec.ofNat 64 ((List.range w).filter fun n => p.testBit n).length) ∧
    (o.ty.signed = true → Completes s (.sext g o) (put fun p =>
      BitVec.ofInt 64 (if p < 2 ^ (w - 1) then (p : Int) else p - 2 ^ w))) ∧
    (o.ty.signed = false → Completes s (.zext g o) (put fun p => BitVec.ofNat 64 p))

/-- O13. R106, R107, R108, R109. -/
def Obligations.ConstantsAndAddresses : Prop :=
  ∀ (s : State) (g : Guard) (rd ra rb : XReg) (imm : BitVec 35) (up : BitVec 32) (o : AddrM),
    Completes s (.li g rd imm) (fun c => c.wx rd (imm.signExtend 64)) ∧
    Completes s (.lih g rd up) (fun c => c.wx rd (up ++ (c.rx rd).truncate 32)) ∧
    Completes s (.lea g o) (fun c => c.wx o.r (c.rx o.rb + o.disp.signExtend 64)) ∧
    Completes s (.adr g rd imm) (fun c => c.wx rd (c.pc + imm.signExtend 64)) ∧
    Completes s (.padr g rd ra rb) (fun c => c.wx rd (BitVec.ofNat 64
      (0x0100000000000000 + (c.rx ra).toNat % 1024 * 2 ^ 30 + (c.rx rb).toNat % 1024 * 2 ^ 20)))

/-! ## Floating point, compares, predicates -/

/-- O14. R110 to R114: where no flag that the operation raises has its trap enabled, the rounded result goes to the destination
and its flags into `fpstat`, and nothing else changes. The exact results are those of `Val.add`, `Val.mul`, `Val.fma`, `Val.div`
and `Val.sqrt`, rounded once by `FTy.pack`. -/
def Obligations.FloatResults : Prop :=
  ∀ (s : State) (g : Guard) (o : FloatR) (p : FmaR) (q : FsqrtR) (m : FminR) (v : FcvtR),
    let c := s.core s.me
    let a := o.ty.val (c.rx o.ra)
    let b := o.ty.val (c.rx o.rb)
    let runs (i : Instr) (rd : XReg) (r : Word × Flags) : Prop :=
      c.fpTraps r.2 = false → Completes s i fun c => (c.raise r.2).wx rd r.1
    runs (.fadd g o) o.rd (o.ty.pack o.rm (Val.add o.rm a b)) ∧
    runs (.fsub g o) o.rd (o.ty.pack o.rm (Val.add o.rm a b.neg)) ∧
    runs (.fmul g o) o.rd (o.ty.pack o.rm (Val.mul a b)) ∧
    runs (.fdiv g o) o.rd (o.ty.pack o.rm (Val.div a b)) ∧
    runs (.fma g p) p.rd (p.ty.pack p.rm (Val.fma p.rm (p.ty.val (c.rx p.ra)) (p.ty.val (c.rx p.rb)) (p.ty.val (c.rx p.rc)))) ∧
    runs (.fsqrt g q) q.rd (q.ty.pack q.rm (Val.sqrt (q.ty.val (c.rx q.ra)))) ∧
    (let r := pickMin m.ty.fmt false (m.ty.bits (c.rx m.ra)) (m.ty.bits (c.rx m.rb))
     runs (.fmin g m) m.rd (BitVec.ofNat 64 r.1, r.2)) ∧
    (let r := pickMin m.ty.fmt true (m.ty.bits (c.rx m.ra)) (m.ty.bits (c.rx m.rb))
     runs (.fmax g m) m.rd (BitVec.ofNat 64 r.1, r.2)) ∧
    runs (.fcvt g v) v.rd (convert v.dst v.src v.rm (c.rx v.ra))

/-- O15. R111: a raised flag whose trap is enabled is set in `fpstat`, and the instruction traps FP with the destination unchanged,
`tpc` at it and `tval` the flags, once every earlier instruction has completed. -/
def Obligations.FloatTrap : Prop :=
  ∀ (s : State) (g : Guard) (o : FloatR) (f : FcmpC),
    let c := s.core s.me
    let trapped (i : Instr) (fl : Flags) : Prop :=
      s.Runs i → s.Unbound s.me → c.settled = true → c.fpTraps fl = true → c.tvec ≠ 0 → c.inh = false → c.gang = false →
      ∃ t, exec i s = .next t ∧ s.Did t fun c => (c.raise fl).handled 15 c.pc (fl.zeroExtend 64)
    trapped (.fadd g o) (o.ty.pack o.rm (Val.add o.rm (o.ty.val (c.rx o.ra)) (o.ty.val (c.rx o.rb)))).2 ∧
    trapped (.fdiv g o) (o.ty.pack o.rm (Val.div (o.ty.val (c.rx o.ra)) (o.ty.val (c.rx o.rb)))).2 ∧
    trapped (.fcmp g f) (fpCond f.cond (f.ty.val (c.rx f.ra)) (f.ty.val (c.rx f.rb))).2

/-- O16. R115 to R117, R100: classes, and the pairs that compares write; pf is written last (R99). `fclass` sets exactly one of
its ten bits and raises no flag. -/
def Obligations.CompareResults : Prop :=
  ∀ (s : State) (g : Guard) (o : CmpC) (f : FcmpC) (k : FclassR),
    let pair (wm : Wm) (pt pf : PReg) (v : Bool) (c : Core) : Core :=
      let p := c.rp pt
      let q := c.rp pf
      match wm with
      | .set | .clr => (c.wp pt v).wp pf (!v)
      | .and => (c.wp pt (p && v)).wp pf (q || !v)
      | .or => (c.wp pt (p || v)).wp pf (q && !v)
    Completes s (.cmp g o) (fun c => pair o.wm o.pt o.pf (intCond o.cond (o.ty.value (c.rx o.ra))
      (match o.b with | .reg r => o.ty.value (c.rx r) | .imm v => o.ty.value (v.signExtend 64))) c) ∧
    (let r := fpCond f.cond (f.ty.val ((s.core s.me).rx f.ra)) (f.ty.val ((s.core s.me).rx f.rb))
     (s.core s.me).fpTraps r.2 = false → Completes s (.fcmp g f) fun c => pair f.wm f.pt f.pf r.1 (c.raise r.2)) ∧
    (∀ n, classBit k.ty.fmt n < 10) ∧
    Completes s (.fclass g k) (fun c => c.wx k.rd (BitVec.ofNat 64 (2 ^ classBit k.ty.fmt (k.ty.bits (c.rx k.ra)))))

/-- O17. R118, R119, R120. -/
def Obligations.PredicateResults : Prop :=
  ∀ (s : State) (g : Guard) (o : TbitC) (l : PlogC) (x : XReg),
    Completes s (.tbit g o) (fun c => c.setPair o.wm o.pt o.pf ((c.rx o.ra).getLsbD o.n.toNat != o.zero)) ∧
    Completes s (.plog g l) (fun c =>
      c.wp l.pd (l.table.getLsbD ((if c.rp l.sa then 4 else 0) + (if c.rp l.sb then 2 else 0) + if c.rp l.sc then 1 else 0))) ∧
    Completes s (.pmovToX g x) (fun c =>
      c.wx x (BitVec.ofNat 64 (((List.range 8).filter fun n => c.rp (BitVec.ofNat 3 n)).foldl (fun a n => a + 2 ^ n) 0))) ∧
    Completes s (.pmovToPr g x) (fun c =>
      { c with p := (c.rx x).truncate 8 ||| 1, poison := allPWords.foldl SMap.del c.poison }) ∧
    (∀ (c : Core) (n : PReg), { c with p := (c.rx x).truncate 8 ||| 1 : Core }.rp n = (n == 0 || (c.rx x).getLsbD n.toNat))

/-! ## Control flow, traps and returns -/

/-- O18. R121, R122, R72: branches and jumps; the link is written after the target is read, and an unaligned target traps ALIGN at
the jump with no other effect. -/
def Obligations.BranchesAndJumps : Prop :=
  ∀ (s : State) (g : Guard) (off : BitVec 32) (rd ra : XReg),
    let c := s.core s.me
    (s.Runs (.br g off) → ∃ t, exec (.br g off) s = .next t ∧ s.Did t fun c =>
      { c.unwait with pc := c.pc + 8 * off.signExtend 64 }) ∧
    (s.Runs (.call g off) → ∃ t, exec (.call g off) s = .next t ∧ s.Did t fun c =>
      { (c.wx 1 (c.pc + 8)).unwait with pc := c.pc + 8 * off.signExtend 64 }) ∧
    (s.Runs (.jr g rd ra) → (c.rx ra).toNat % 8 = 0 → ∃ t, exec (.jr g rd ra) s = .next t ∧ s.Did t fun c =>
      { (c.wx rd (c.pc + 8)).unwait with pc := c.rx ra }) ∧
    (s.Runs (.jr g rd ra) → (c.rx ra).toNat % 8 ≠ 0 → s.Handles s.me → ∃ t, exec (.jr g rd ra) s = .next t ∧ s.TrapsTo t 4 (c.rx ra))

/-- O19. R337: how a trap is directed. ACCESS freezes and ECC_FATAL kills; without a handler, inside one, or at BARRIER_TIMEOUT the
thread stops with its trap registers set; otherwise the handler is entered and nothing else changes. -/
def Obligations.TrapDirection : Prop :=
  ∀ (s : State) (k cause : Nat) (eng : Bool) (pc tval aux : Word),
    let c := s.core k
    let t := s.takeTrap k cause eng pc tval aux
    (cause = 6 → t = s.freezeCore k tval aux) ∧
    (cause = 9 → t = s.killCore k pc tval) ∧
    (cause ≠ 6 → cause ≠ 9 → c.tvec = 0 ∨ c.inh = true ∨ cause = 13 →
      (t.core k).st = .stopped ∧ (t.core k).tcause = BitVec.ofNat 64 (cause + if eng then 2 ^ 16 else 0) ∧
      (t.core k).tpc = pc ∧ (t.core k).tval = tval ∧ (t.core k).pc = c.pc ∧ (t.core k).x = c.x) ∧
    (cause ≠ 6 → cause ≠ 9 → cause ≠ 13 → c.tvec ≠ 0 → c.inh = false → s.Unbound k → c.gang = false →
      t = s.setCore k (c.handled (cause + if eng then 2 ^ 16 else 0) pc tval)) ∧
    (cause ≠ 6 → cause ≠ 9 → cause ≠ 13 → c.tvec ≠ 0 → c.inh = false → s.Unbound k → c.gang = true →
      t.core k = (c.handled (cause + if eng then 2 ^ 16 else 0) pc tval).ungang)

/-- O20. R340 and R341: `trap` traps SOFT with `tpc` its own address and `tval` its code; `eret` sets the pc to `tpc` and clears
inh in one step, whether or not a handler runs; a `tpc` that is no multiple of 8 traps ALIGN and inh is not cleared, so that with
inh = 1 the thread stops for its supervisor. A trap is taken once every earlier instruction has completed. -/
def Obligations.SoftTrapAndReturn : Prop :=
  ∀ (s : State) (g : Guard) (n : BitVec 16),
    let c := s.core s.me
    let traps (i : Instr) (cause : Nat) (v : Word) : Prop :=
      ∃ t, exec i s = .next t ∧
        (c.tvec ≠ 0 → c.inh = false → s.TrapsTo t cause v) ∧
        (c.tvec = 0 ∨ c.inh = true → (t.core s.me).st = .stopped ∧ (t.core s.me).tcause = BitVec.ofNat 64 cause ∧
          (t.core s.me).tpc = c.pc ∧ (t.core s.me).tval = v ∧ (t.core s.me).inh = c.inh ∧ (t.core s.me).pc = c.pc ∧
          (t.core s.me).x = c.x)
    (s.Runs (.trap g n) → c.settled = true → traps (.trap g n) 16 (n.zeroExtend 64)) ∧
    (s.Runs (.eret g) → c.tpc.toNat % 8 = 0 →
      ∃ t, exec (.eret g) s = .next t ∧ s.Did t fun c => { c.unwait with pc := c.tpc, inh := false }) ∧
    (s.Runs (.eret g) → c.tpc.toNat % 8 ≠ 0 → c.settled = true → traps (.eret g) 4 c.tpc)

/-- O21. R92, R99, R71: x0 reads 0 and p0 reads 1 whatever is written; a register reads what was last written to it and no other
register changes. -/
def Obligations.RegisterRules : Prop :=
  ∀ (c : Core) (v : Word) (b : Bool),
    (∀ r, (c.wx r v).rx 0 = 0 ∧ (r ≠ 0 → (c.wx r v).rx r = v) ∧ ∀ q, q ≠ r → (c.wx r v).rx q = c.rx q) ∧
    (c.wx 0 v = c) ∧
    (∀ r, (c.wp r b).rp 0 = true ∧ (r ≠ 0 → (c.wp r b).rp r = b) ∧ ∀ q, q ≠ r → (c.wp r b).rp q = c.rp q) ∧
    (c.wp 0 b = c) ∧
    (∀ (h : HReg) (w : Wide), (c.wh h w).rh h = w ∧ ∀ j, j ≠ h → (c.wh h w).rh j = c.rh j) ∧
    (∀ (r : PReg) (w : Wide), (c.wvp r w).rvp 0 = BitVec.allOnes 256 ∧ (r ≠ 0 → (c.wvp r w).rvp r = w) ∧
      ∀ q, q ≠ r → (c.wvp r w).rvp q = c.rvp q)

/-! ## Addresses and scalar memory access -/

/-- O22. R125, R162, R163, R165: forming and checking an address changes the TLBs alone; it fails with PAGE for an address that is
not canonical and with ALIGN for a canonical one that is no multiple of the size; an address of the window region in a package of
the pod needs no walk and names the tile and the offset that it spells. -/
def Obligations.AddressChecks : Prop :=
  ∀ (s : State) (k : Nat) (va : Word) (size : Nat) (need : Need),
    let r := s.checkAddr k va size need
    (∃ (cs : SMap Core) (ts : SMap Tile) (qs : SMap Quad), r.1 = { s with cores := cs, tiles := ts, quads := qs }) ∧
    (∀ j, { r.1.core j with tlb := (s.core j).tlb } = s.core j) ∧ (∀ j, { r.1.tile j with tlb := (s.tile j).tlb } = s.tile j) ∧
    (∀ j, { r.1.quad j with tlb := (s.quad j).tlb } = s.quad j) ∧
    (canonical va.toNat = false → r.2 = .error 5) ∧
    (canonical va.toNat = true → va.toNat % size ≠ 0 → r.2 = .error 4) ∧
    (inWindow va.toNat = true → va.toNat % size = 0 → need ≠ .ex → s.nonMembers.contains (va.toNat / 2 ^ 30 % 1024) = false →
      r = (s, .ok (tileKey (va.toNat / 2 ^ 20 % 2 ^ 20) (va.toNat % 2 ^ 20))))

/-- O23. R125: a memory word whose check fails traps with `tval` the address and `tpc` the word, no register changed and nothing
accessed, once every earlier instruction has completed. `v` is the state after the check. -/
def Obligations.MemoryWordTraps : Prop :=
  ∀ (s v : State) (g : Guard) (o : MemM) (h : HandleM) (a : AmoR) (cause : Nat),
    let c := s.core s.me
    let trapped (i : Instr) (va : Word) (size : Nat) (need : Need) : Prop :=
      s.Runs i → (s.ready i).checkAddr s.me va size need = (v, .error cause) → s.Unbound s.me → c.settled = true → c.tvec ≠ 0 →
      c.inh = false → c.gang = false →
      ∃ t, exec i s = .next t ∧ v.SameBut t s.me ∧ t.core s.me = (v.core s.me).handled cause c.pc va
    trapped (.ld g o) (c.rx o.rb + o.disp.signExtend 64) (o.ty.width / 8) .rd ∧
    trapped (.st g o) (c.rx o.rb + o.disp.signExtend 64) (o.ty.width / 8) .wr ∧
    trapped (.lds g o) (c.rx o.rb + o.disp.signExtend 64) (o.ty.width / 8) .rd ∧
    trapped (.stf g o) (c.rx o.rb + o.disp.signExtend 64) (o.ty.width / 8) .wr ∧
    trapped (.ldc g o) (c.rx o.rb + o.disp.signExtend 64) (o.ty.width / 8) .rd ∧
    trapped (.hld g h) (c.rx h.rb + h.disp.signExtend 64) 32 .rd ∧
    trapped (.hst g h) (c.rx h.rb + h.disp.signExtend 64) 32 .wr ∧
    trapped (.amo g a) (c.rx a.ra) (a.ty.width / 8) .rw

/-- O24. R126, R130, R134, R135: a short load, in the core's own tile, waits for nothing but earlier loads and its own reductions
there (`lds` also for a full word and its turn among those that wait for it) and completes with the value of the bytes at its key
under the thread's own buffered stores (R303), extended by its type; every other register and every byte of memory outside the home is
unchanged, the tile's clock passes that of the word's writer (DEDUCED, Assumption 81), and only `lds.take` empties the word it
read. `v` is the state after the address check. -/
def Obligations.ShortLoads : Prop :=
  ∀ (s v : State) (g : Guard) (o : MemM) (key : Nat),
    let k := s.me
    let n := o.ty.width / 8
    let u := v.closeWindow k key
    let value : Word := o.ty.extend (leNat (overlay (u.placed (s.core k).sbuf) (u.realKey key) (u.read key n)))
    let starts (i : Instr) : Prop :=
      s.Runs i ∧ (s.ready i).checkAddr k ((s.core k).rx o.rb + o.disp.signExtend 64) n .rd = (v, .ok key) ∧
      isShort k key = true ∧ v.splitHeld k key = false ∧ u.route (u.master k) key false ≠ .page ∧
      u.route (u.master k) key false ≠ .refuse ∧ (s.core k).loads = [] ∧
      u.readBlocked (s.core k).sbuf key n = false ∧ u.readsBad k (s.core k).sbuf key n = false
    let loads (u t : State) : Prop :=
      u.SameBut t k ∧ t.core k = ((u.core k).wx o.r value).advance 8
    let full : Prop := u.fullRange key = true ∧ u.bankTurn k key none = true
    let served : State := (u.leaveLine k key none).sawStamps k key n
    (starts (.ld g o) → ∃ t, exec (.ld g o) s = .next t ∧ loads (u.sawStamps k key n) t) ∧
    (starts (.ldc g o) → ∃ t, exec (.ldc g o) s = .next t ∧ loads (u.sawStamps k key n) t) ∧
    (starts (.lds g o) → full → o.take = false → ∃ t, exec (.lds g o) s = .next t ∧ loads served t) ∧
    (starts (.lds g o) → full → o.take = true → ∃ t, exec (.lds g o) s = .next t ∧ loads (served.setFull key false) t)

/-- O25. R126, R127, R137, R190, R321: a long load, a handle load and an atomic enter the thread's loads in issue order with what they
read at issue; at most 64 are outstanding; nothing else changes. That an `lds` of a killed core's home or mailbox enters its loads, to be
answered with the error of R329, is DEDUCED, Assumption 76. `v` is the state after the address check. -/
def Obligations.LongLoadsEnter : Prop :=
  ∀ (s v : State) (g : Guard) (o : MemM) (h : HandleM) (a : AmoR) (b : CasR) (key : Nat),
    let k := s.me
    let c := s.core k
    let w := v.closeWindow k key
    let enters (i : Instr) (va : Word) (size : Nat) (need : Need) (l : State → Load) : Prop :=
      s.Runs i → (s.ready i).checkAddr k va size need = (v, .ok key) → v.splitHeld k key = false →
      w.routeLoad (w.master k) key (l w).writes ≠ .page → w.routeLoad (w.master k) key (l w).writes ≠ .dead → c.loads.length < 64 →
      ∃ t, exec i s = .next t ∧ EntersLoad w t k (l w)
    let va := c.rx o.rb + o.disp.signExtend 64
    let n := o.ty.width / 8
    let ck := isChecked k key || w.pinnedElse k key
    (isShort k key = false → enters (.ld g o) va n .rd (loadOf .plain o k va key)) ∧
    (isShort k key = false → enters (.ldc g o) va n .rd (loadOf (if isDram key then .ro else .plain) o k va key)) ∧
    (isShort k key = false → w.fullRange key = true ∨ w.killedRange key = true →
      enters (.lds g o) va n .rd (loadOf (if o.take then .take else .wait) o k va key)) ∧
    enters (.hld g h) (c.rx h.rb + h.disp.signExtend 64) 32 .rd (fun u =>
      { kind := .handle, hint := h.hint, bad := false, reg := h.h.toNat, ty := .n64, size := 32,
        va := c.rx h.rb + h.disp.signExtend 64, key := key, a := 0, b := 0,
        scope := h.scope, acq := h.ord, rel := false, checked := ck, err := 0, pc := c.pc, seq := u.seq }) ∧
    enters (.amo g a) (c.rx a.ra) (a.ty.width / 8) .rw (fun u =>
      { kind := .amo a.op, hint := .keep, bad := false, reg := a.rd.toNat, ty := a.ty, size := a.ty.width / 8, va := c.rx a.ra,
        key := key, a := c.rx a.rb, b := 0, scope := a.scope, acq := a.ord == .acq || a.ord == .acqRel,
        rel := a.ord == .rel || a.ord == .acqRel, checked := ck, err := 0, pc := c.pc, seq := u.seq }) ∧
    enters (.cas g b) (c.rx b.ra) (b.ty.width / 8) .rw (fun u =>
      { kind := .cas, hint := .keep, bad := false, reg := b.rd.toNat, ty := b.ty, size := b.ty.width / 8, va := c.rx b.ra,
        key := key, a := c.rx b.rb, b := c.rx b.rc, scope := b.scope, acq := b.ord == .acq || b.ord == .acqRel,
        rel := b.ord == .rel || b.ord == .acqRel, checked := ck, err := 0, pc := c.pc, seq := u.seq })

/-- O26. R127, R129, R130, R135, R137, R153, R190: the answer to the oldest long load gives its register (a `hld` its handle) the
value of the bytes at its place, under the thread's older buffered stores, and retires it. At a store, `lds` waits for its turn at a
full word, and `lds.take` empties that word and no other; in DRAM the bytes are those of the block that the tile may serve, else those
of the home brought up to date, where `ldc` of the core's own package reads a block of the read-only cache as it stands. Memory outside
the register home is as the read leaves it, and no other register changes. That a reader's clock passes that of the bytes' writer is
DEDUCED, Assumption 81. -/
def Obligations.LongLoadAnswers : Prop :=
  ∀ (s : State) (c : CoreId) (l : Load) (ls : List Load),
    let k := coreKey c
    let T := coreTile k
    let older := (s.core k).olderStores l
    let a := l.key / 64 * 64
    let waits : Bool := l.kind == .wait || l.kind == .take
    let under (bs : List Byte) : List Byte := overlay (s.placed older) (s.realKey l.key) bs
    let line (u : State) : State := if waits || l.kind == .plain then
      (if l.kind = .take then u.setFull l.key false else u).leaveLine k l.key (some l.seq) else u
    let answered (u : State) (mem : List Host.Cell) (bs : List Byte) : Prop :=
      ∃ t, exec (.longLoadAnswer c) s = .next t ∧ (line u).SameBut t k ∧ (t.core k).loads = ls ∧ (t.core k).pc = (s.core k).pc ∧
        (∀ x, OutsideHome k x → memGet t.mem x = memGet mem x) ∧
        (l.kind = .handle → (t.core k).x = (s.core k).x ∧ ∀ h, (t.core k).rh h = if h = BitVec.ofNat 4 l.reg
          then BitVec.ofNat 256 (leNat bs) else (s.core k).rh h) ∧
        (l.kind ≠ .handle → (t.core k).h = (s.core k).h ∧ ∀ r, (t.core k).rx r = if r = BitVec.ofNat 5 l.reg ∧ r ≠ 0
          then l.ty.extend (leNat bs) else (s.core k).rx r)
    s.Canon → (s.core k).loads = l :: ls → (s.core k).st = .running → s.splitHeld k l.key = false →
    s.routeLoad (s.master k) l.key l.writes = .ok → s.loadReady k l = true → (l.kind = .handle → l.size = 32) →
    (waits = true → s.fullRange l.key = true) →
    (l.kind = .plain ∨ waits = true ∨ l.kind = .handle ∨ l.kind = .ro ∧ s.roServes k l.key = false →
      let u := (s.fetchBytes k l.key l.size l.hint).1
      (isDram l.key = false → answered (s.sawStamps k l.key l.size) s.mem (under (s.read l.key l.size))) ∧
      (∀ p, s.pinnedAt l.key = some p → answered u s.mem (under (s.read (s.pinnedKey p l.key) l.size))) ∧
      (isDram l.key = true → s.pinnedAt l.key = none → isTileCore k = true →
        (∀ b, s.blockFor T l.key l.hint = some b → answered u s.mem (under ((b.data.drop (l.key % 64)).take l.size))) ∧
        (s.blockFor T l.key l.hint = none →
          (s.tile T).blocks.length < (s.tile T).cacheBlocks ∨ l.hint = .nofill ∨ (s.tile T).cacheBlocks = 0 →
          answered u (s.settle a 64).mem (under ((s.settle a 64).read l.key l.size)))) ∧
      (isDram l.key = true → s.pinnedAt l.key = none → isTileCore k = false →
        answered u (s.settleRange l.key l.size).mem (under ((s.settleRange l.key l.size).read l.key l.size)))) ∧
    (l.kind = .ro → s.roServes k l.key = true →
      let u := (s.roBytes k l.key l.size).1
      (∀ e, (s.tile T).ro.find? (fun e => e.pa == a) = some e → answered u s.mem ((e.data.drop (l.key % 64)).take l.size)) ∧
      ((s.tile T).ro.find? (fun e => e.pa == a) = none →
        answered u (s.settle a 64).mem ((((s.settle a 64).read a 64).drop (l.key % 64)).take l.size)))

/-- O27. R322, R323: an `amo` or a `cas` acts at its place in one step, at a store, at the scratchpad of a pinned sector or at its home
in DRAM brought up to date: it reads the old pattern, writes Op(old, b), or its new value where the old one is as expected, and
nothing elsewhere; its old value waits for that write to be performed, and then goes to the register. -/
def Obligations.AtomicActsOnce : Prop :=
  ∀ (s : State) (c : CoreId) (l : Load) (ls : List Load) (op : AmoOp),
    let k := coreKey c
    let w := l.ty.width / 8
    let p := s.realKey l.key
    let acted (u : State) (value : Nat → Word) (new : Nat → Nat) : Prop :=
      let old := u.readNat p w
      ∃ t b, exec (.longLoadAnswer c) s = .next t ∧
        (t.core k).loads = { l with kind := .done, a := value old, b := b, bad := (u.markedIn p w).isSome } :: ls ∧
        (isDram p = false → b = 0) ∧ (t.core k).x = (s.core k).x ∧ t.readNat p w = new old ∧
        ∀ a, a < p ∨ p + w ≤ a → memGet t.mem a = memGet u.mem a
    let acts (u : State) : Prop :=
      (l.kind = .amo op → acted u (op.oldValue l.ty) fun old => (op.apply l.ty (BitVec.ofNat 64 old) l.a).toNat % 2 ^ l.ty.width) ∧
      (l.kind = .cas → acted u (fun old => l.ty.extend (old : Nat)) fun old =>
        if old = l.a.toNat % 2 ^ l.ty.width then l.b.toNat % 2 ^ l.ty.width else old)
    s.Canon → (s.core k).loads = l :: ls →
    (l.size = w → s.splitHeld k l.key = false → s.routeLoad (s.master k) l.key true = .ok → s.loadReady k l = true →
      (isDram p = false → (isTileStore p = true → 0x3000 ≤ keyOff p) → acts s) ∧
      (isDram l.key = true → s.pinnedAt l.key = none → l.key % w = 0 → acts (s.settle l.key w))) ∧
    (l.kind = .done → s.performed k l.scope l.b.toNat = true → (s.core k).st = .running →
      ∃ t, exec (.longLoadAnswer c) s = .next t ∧ (t.core k).loads = ls ∧ (t.core k).pc = (s.core k).pc ∧
        (∀ r, (t.core k).rx r = if r = BitVec.ofNat 5 l.reg ∧ r ≠ 0 then l.a else (s.core k).rx r) ∧
        ∀ a, OutsideHome k a → memGet t.mem a = memGet s.mem a)

/-- O28. R131, R136, R190, R325: a store, `stf`, `hst` and `red` enter the store buffer with the address and the data they read at
issue, while fewer than 255 writes are outstanding; no byte of memory changes yet, and no register but the pc. That an
`stf` to a mailbox enters it, to be refused there, is DEDUCED, Assumption 32. `v` is the state
after the address check. -/
def Obligations.StoresEnter : Prop :=
  ∀ (s v : State) (g : Guard) (o : MemM) (h : HandleM) (r : RedR) (key : Nat),
    let k := s.me
    let c := s.core k
    let w := v.closeWindow k key
    let enters (i : Instr) (va : Word) (size : Nat) (need : Need) (e : State → Store) : Prop :=
      s.Runs i → (s.ready i).checkAddr k va size need = (v, .ok key) → v.splitHeld k key = false →
      w.route (w.master k) key true ≠ .page → w.cntSt k < 255 →
      ∃ t, exec i s = .next t ∧ EntersStore w t k (e v)
    let va := c.rx o.rb + o.disp.signExtend 64
    let n := o.ty.width / 8
    enters (.st g o) va n .wr (fun u =>
      { kind := .write, va := va, key := key, bytes := toBytes n (c.rx o.r).toNat, scope := o.scope, rel := o.ord,
        hint := o.hint, pc := c.pc, seq := u.seq }) ∧
    (w.fullRange key = true ∨ (isTileStore key = true ∧ 0x1000 ≤ keyOff key ∧ keyOff key < 0x2000) → enters (.stf g o) va n .wr (fun u =>
      { kind := .writeFull, va := va, key := key, bytes := toBytes n (c.rx o.r).toNat, scope := o.scope, rel := o.ord,
        hint := o.hint, pc := c.pc, seq := u.seq })) ∧
    enters (.hst g h) (c.rx h.rb + h.disp.signExtend 64) 32 .wr (fun u =>
      { kind := .write, va := c.rx h.rb + h.disp.signExtend 64, key := key, bytes := toBytes 32 (c.rh h.h).toNat, scope := h.scope,
        rel := h.ord, hint := h.hint, pc := c.pc, seq := u.seq }) ∧
    enters (.red g r) (c.rx r.ra) (r.ty.width / 8) .rw (fun u =>
      { kind := .red r.op r.ty, va := c.rx r.ra, key := key, bytes := toBytes (r.ty.width / 8) (c.rx r.rb).toNat, scope := r.scope,
        rel := r.ord == .rel, hint := .keep, pc := c.pc, seq := u.seq })

/-- O29. R45, R129, R131, R136, R152, R154, R324, R325: the oldest entry of a store buffer leaves it. At a store, or at the scratchpad
of a pinned sector, its bytes stand at its place; a write to DRAM stands in the block that its tile owns, brought from the home where
the tile has none, or at the home where the core has no block to hold it. A reduction writes Op(old, operand) at a store, and in DRAM
goes into the partial copy of its die. Every other byte is as before, no register changes, and only `stf` fills words. -/
def Obligations.StoreBufferDrains : Prop :=
  ∀ (s : State) (c : CoreId) (e : Store) (es : List Store),
    let k := coreKey c
    let T := coreTile k
    let v := s.tile T
    let p := s.realKey e.key
    let a := e.key / 64 * 64
    let n := e.bytes.length
    let left (t : State) : Prop := exec (.storeBufferDrain c) s = .next t ∧ (t.core k).sbuf = es ∧
      ∀ j, (t.core j).x = (s.core j).x ∧ (t.core j).pc = (s.core j).pc
    let wrote (t u : State) : Prop := left t ∧ t.read p n = e.bytes ∧
      ∀ x, x < p ∨ p + n ≤ x → memGet t.mem x = memGet u.mem x
    let banked : Prop := isDram p = false ∧ (isTileStore p = true → 0x3000 ≤ keyOff p)
    let home : Prop := isDram e.key = true ∧ s.pinnedAt e.key = none
    let piece : Prop := e.key / 64 = (e.key + n - 1) / 64 ∧ n ≠ 0
    let mine : Bool := (s.sector (e.key / 1024)).owner == some T
    let u := if mine then s.gather a 64 else (s.gather a 64).recall e.key
    let held : Bool := v.blocks.any fun b => b.pa == a && b.owned
    s.Canon → (s.core k).sbuf = e :: es → s.mayDrain k e = true → s.splitHeld k e.key = false →
    s.route (s.master k) e.key true = .ok →
    (e.kind = .write → piece →
      (banked → ∃ t, wrote t s ∧ t.full = s.full) ∧
      (home → isTileCore k = false → ∃ t, wrote t (s.settleRange e.key n) ∧ t.full = s.full) ∧
      (home → isTileCore k = true → held = false → e.hint = .nofill ∨ v.cacheBlocks = 0 → ∃ t, wrote t u ∧ t.full = s.full) ∧
      (home → isTileCore k = true → held = false → e.hint ≠ .nofill → v.blocks.length < v.cacheBlocks →
        ∃ t, left t ∧ t.mem = u.mem ∧ t.full = s.full ∧ (t.sector (e.key / 1024)).owner = some T ∧
          ∃ b ∈ (t.tile T).blocks, b.pa = a ∧ b.owned = true ∧
            b.data = (u.read a 64).take (e.key % 64) ++ e.bytes ++ (u.read a 64).drop (e.key % 64 + n)) ∧
      (home → isTileCore k = true → mine = true → ∀ b ∈ v.blocks, b.pa = a → b.owned = true →
        ∃ t, left t ∧ t.mem = u.mem ∧ t.full = s.full ∧
          ∃ x ∈ (t.tile T).blocks, x.pa = a ∧ x.owned = true ∧
            x.data = b.data.take (e.key % 64) ++ e.bytes ++ b.data.drop (e.key % 64 + n))) ∧
    (e.kind = .writeFull → piece → isDram e.key = false → banked → ∃ t, wrote t s ∧ t.isFull e.key = true) ∧
    (∀ op ty, e.kind = .red op ty →
      let w := ty.width / 8
      let x : Word := BitVec.ofNat 64 (leNat e.bytes)
      let die := entryDie k e.key
      (banked → ∃ t, left t ∧ exec (.redAccept c) s = .next t ∧ t.full = s.full ∧
        t.readNat p w = (op.apply ty (BitVec.ofNat 64 (s.readNat p w)) x).toNat % 2 ^ ty.width ∧
        ∀ b, b < p ∨ p + w ≤ b → memGet t.mem b = memGet s.mem b) ∧
      (home → (∀ q ∈ s.partials, q.key / 8 = e.key / 8 → q.op = op ∧ q.ty = ty) →
        ∃ t, left t ∧ exec (.redAccept c) s = .next t ∧ t.full = s.full ∧ t.mem = (s.recall e.key).mem ∧
          ((∀ q ∈ s.partials, q.key = e.key → q.die ≠ die) → t.partials = s.partials ++
            [{ key := e.key, die := die, op := op, ty := ty, val := op.apply ty (op.identity ty) x }]) ∧
          ((∃ q ∈ s.partials, q.key = e.key ∧ q.die = die) → t.partials = s.partials.map fun q =>
            if q.key = e.key ∧ q.die = die then { q with val := op.apply ty q.val x } else q)))

/-- O30. R346, R350, R351: a write that its target does not serve is lost: it leaves the buffer, no byte of memory changes, and
`remerr`, where it records none yet, takes the cause and the package; a write refused by an access table puts the refusal on its way. -/
def Obligations.LostWrites : Prop :=
  ∀ (s : State) (c : CoreId) (e : Store) (es : List Store) (cause : Nat),
    let k := coreKey c
    (s.core k).sbuf = e :: es → s.mayDrain k e = true → s.splitHeld k e.key = false → e.kind = .write →
    (s.route (s.master k) e.key true = .err cause → (s.core k).lost = false → cause < 2 ^ 16 →
      ∃ t, exec (.storeBufferDrain c) s = .next t ∧ t.mem = s.mem ∧ (t.core k).sbuf = es ∧ (t.core k).lost = true ∧
        (t.core k).remerr = BitVec.ofNat 64 (cause + 2 ^ 16 + 2 ^ 24 + keyPkg e.key * 2 ^ 32)) ∧
    (s.route (s.master k) e.key true = .refuse →
      ∃ t, exec (.storeBufferDrain c) s = .next t ∧ t.mem = s.mem ∧ (t.core k).sbuf = es ∧ (t.core k).refusal = some (e.va, e.pc))

/-- O31. R132, R133: `pref` never traps after decode, and like `clean` and `inval` changes no register and no byte outside the
caches where the address does not translate or the tile holds nothing of the block; a `clean` or `inval` of a block that is held
enters the store buffer. That `clean` and `inval` ask for rd is a DESIGN CHOICE, Assumption 86. `v` is the state after the address check. -/
def Obligations.BlockOperations : Prop :=
  ∀ (s v : State) (g : Guard) (o : BlockM) (key : Nat),
    let k := s.me
    let c := s.core k
    let va := c.rx o.rb + o.disp.signExtend 64
    let held (u : State) : Bool := isDram key && isTileCore k &&
      ((u.tile (coreTile k)).blocks.any (fun b => b.pa == key / 64 * 64) || (u.core k).sbuf.any fun e => e.key / 64 == key / 64)
    (s.Runs (.pref g o) → ((s.ready (.pref g o)).resolve k va.toNat .rd).2 = none →
      ∃ t, exec (.pref g o) s = .next t ∧ s.Did t fun c => c.advance 8) ∧
    (s.Runs (.pref g o) → ∃ t, exec (.pref g o) s = .next t ∧ (t.core k).pc = c.pc + 8 ∧ (t.core k).x = c.x ∧ (t.core k).h = c.h) ∧
    (∀ i kind, (i, kind) = (Instr.clean g o, StoreKind.clean) ∨ (i, kind) = (Instr.inval g o, StoreKind.inval) →
      s.Runs i → (s.ready i).checkAddr k va 1 .rd = (v, .ok key) →
      (held v = false → ∃ t, exec i s = .next t ∧ v.SameBut t k ∧ t.core k = (v.core k).advance 8) ∧
      (held v = true → v.cntSt k < 255 → ∃ t, exec i s = .next t ∧ EntersStore v t k
          { kind := kind, va := va, key := key, bytes := [], scope := o.scope, rel := false, hint := .keep, pc := c.pc,
            seq := v.seq }))

/-- O32. R288, R310: an outsider's next load, or its next store where every load is held, at a tile in compact mode whose window is
closed, or at a sector that it pins, is held behind those that wait there; no byte of memory and no core changes.
Which load may arrive while earlier ones wait (`State.arrives`) is DEDUCED, Assumption 102. -/
def Obligations.HeldAccessArrives : Prop :=
  ∀ (s : State) (c : CoreId) (l : Load) (e : Store) (cp : Compact),
    let k := coreKey c
    let holds (t : Nat) (h : Held) : Prop := exec (.heldAccessArrive c) s = .next (s.setTile t
      { s.tile t with compact := some { cp with held := cp.held ++ [h] } })
    (s.nextLoad k = some l → l.kind ≠ .done → s.routeLoad (s.master k) l.key l.writes = .held → s.arrives k l = true →
      (s.tile (s.holder l.key)).compact = some cp → holds (s.holder l.key) (.load k l.seq)) ∧
    (s.nextLoad k = none → s.nextStore k = some e → s.mayDrain k e = true → s.route (s.master k) e.key true = .held →
      (s.tile (s.holder e.key)).compact = some cp → holds (s.holder e.key) (.store k e.seq))

/-! ## Messages, fences and barriers -/

/-- O33. R139 to R141: a message goes out with the 32 bytes at its own-tile address, as the thread sees them (R303), and is counted; once
the sender's earlier writes are performed it enters the mailbox of a live thread of the same job with the sender's number, or comes
back; and `mrecv` takes the oldest message into the 32 bytes named, gives its status word and frees its entry. No other register
changes, and no other byte but those of the register home and of the mailbox's own control. That an uncorrectable mark and the
sender's clock go with a message are choices of the model (Assumptions 96 and 81), as are a churn's
own store (Assumption 94, DESIGN CHOICE), that `mrecv` writes at once (Assumption 99, DEDUCED) and that a message waits for the thread's
earlier ones (`State.msgTurn`, Assumption 103, DEDUCED). -/
def Obligations.Messages : Prop :=
  ∀ (s : State) (g : Guard) (o : AddrM) (off : Nat) (d : CoreId) (m : Msg) (ms : List Msg),
    let k := s.me
    let c := s.core k
    let va := c.rx o.rb + o.disp.signExtend 64
    let key := storeBase k + off
    let boxed : Prop := va.toNat % 32 = 0 ∧ ownOff k va = some off ∧ 0x3000 ≤ off ∧ off < s.ownEnd k ∧ s.splitHeld k key = false
    let sent : Msg :=
      { dst := (c.rx o.r).truncate 22, data := BitVec.ofNat 256 (leNat (overlay (s.placed c.sbuf) key (s.read key 32))),
        bad := s.readsBad k c.sbuf key 32, clk := (s.sawStamps k key 32).clk k, seq := s.seq }
    let keeps (t : State) (lo n : Nat) : Prop := ∀ a, OutsideHome k a → a < lo ∨ lo + n ≤ a →
      a < tagKey k + 0x120 ∨ tagKey k + 0x1A8 ≤ a → memGet t.mem a = memGet s.mem a
    (s.Runs (.msend g o) → boxed → s.mailOut k < 8 → s.cntSt k < 255 → s.readBlocked c.sbuf key 32 = false →
      ∃ t, exec (.msend g o) s = .next t ∧ (t.core k).pc = c.pc + 8 ∧ (t.core k).x = c.x ∧ (t.core k).h = c.h ∧ (t.core k).p = c.p ∧
        t.mailOut k = s.mailOut k + 1 ∧ t.mailUsed k = s.mailUsed k ∧ t.mailHead k = s.mailHead k ∧ keeps t key 0 ∧
        (t.core k).msgs = c.msgs ++ [sent]) ∧
    (s.Runs (.mrecv g o) → boxed → c.loads = [] → c.sbuf = [] → s.mailUsed k ≠ 0 →
      ∃ t, exec (.mrecv g o) s = .next t ∧ (t.core k).pc = c.pc + 8 ∧ (t.core k).h = c.h ∧ (t.core k).p = c.p ∧
        (∀ r, (t.core k).rx r = if r = o.r ∧ r ≠ 0 then
          BitVec.ofNat 64 (getFld (s.readNat (tagKey k + 0x128 + 4 * s.mailHead k) 4) 0 23) else c.rx r) ∧
        t.read key 32 = s.read (mailKey k + 32 * s.mailHead k) 32 ∧ keeps t key 32 ∧ t.mailUsed k = s.mailUsed k - 1 ∧
        t.mailHead k = (s.mailHead k + 1) % 32) ∧
    (let j := coreKey d
     s.Canon → (s.core j).msgs = m :: ms → (∀ n ∈ ms, n.seq ≠ m.seq) → s.msgTurn j m = true →
      (s.fate j m = .deliver → j ≠ m.dst.toNat →
        ∃ t, exec (.messageDelivery d) s = .next t ∧ (t.core j).msgs = ms ∧ t.mailUsed m.dst.toNat = s.mailUsed m.dst.toNat + 1 ∧
          ((s.core j).birth ≤ m.seq → t.mailOut j = s.mailOut j - 1) ∧
          (t.core m.dst.toNat).wfiEvent = true ∧ (t.core m.dst.toNat).x = (s.core m.dst.toNat).x ∧
          t.readNat (mailKey m.dst.toNat + 32 * ((s.mailHead m.dst.toNat + s.mailUsed m.dst.toNat) % 32)) 32 = m.data.toNat) ∧
      (s.fate j m = .back → (s.core j).birth ≤ m.seq → s.mailUsed j < 32 →
        ∃ t, exec (.messageDelivery d) s = .next t ∧ (t.core j).msgs = ms ∧ t.mailUsed j = s.mailUsed j + 1 ∧
          (t.core j).wfiEvent = true ∧ (t.core j).x = (s.core j).x))

/-- O34. R301, R326, R196, R201: where no engine fault is pending, `fence` and `wait` complete once what they name is complete,
and change nothing (a `fence` with kind `ro` empties the read-only cache of its tile, and one with kind `sc` takes its place in the
order of such fences: a clock's rise, DEDUCED, Assumption 81); a `fence` reports a lost write by its trap. -/
def Obligations.FencesAndWaits : Prop :=
  ∀ (s : State) (g : Guard) (o : FenceS) (w : WaitS),
    let k := s.me
    let c := s.core k
    (s.Runs (.fence g o) → s.faultPend k = false → c.lost = false →
      (o.ld || o.acq || o.rel || o.sc || o.ro) = false ∨ c.loads = [] →
      (o.st || o.rel || o.sc) = false ∨ s.released k s.seq o.scope = true →
      let u := if o.sc = true then s.fenceSc k else s
      let v := if o.ro = true ∧ isTileCore k = true then u.emptyRo (coreTile k) else u
      ∃ t, exec (.fence g o) s = .next t ∧ v.SameBut t k ∧ (t.core k).Same ((v.core k).advance 8)) ∧
    (s.Runs (.wait g w) → s.faultPend k = false →
      within c.cntLd w.ld = true → within (s.cntSt k) w.st = true → within c.cntVx w.vx = true → within c.cntCp w.cp = true →
      within c.cntTl w.tl = true →
      ∃ t, exec (.wait g w) s = .next t ∧ s.Did t fun c => c.advance 8) ∧
    (s.Runs (.fence g o) → s.faultPend k = false → c.lost = true → c.remerr.toNat % 2 ^ 16 ∉ [6, 9, 13] →
      s.Handles k → ∃ t, exec (.fence g o) s = .next t ∧ (t.core k).lost = false ∧ (t.core k).pc = c.tvec ∧
        (t.core k).tval = c.remerr ∧ (t.core k).tcause = BitVec.ofNat 64 (c.remerr.toNat % 2 ^ 16 + 2 ^ 16) ∧ (t.core k).x = c.x)

/-- O35. R315 to R319: an arrival is a release that gives the phase as its token; `bwait` completes when the phase has left its
token behind and reports a stale one, and waits while it has not; a barrier of a compact traps FORMAT, and a token from the future
BARRIER_FUTURE. The rise of clocks with which a member sees what the others wrote is DEDUCED, Assumption 81. -/
def Obligations.BarrierWords : Prop :=
  ∀ (s : State) (g : Guard) (rd ra : XReg) (bid : BitVec 6) (pt pf : PReg),
    let k := s.me
    let c := s.core k
    let n := bid.toNat
    let b := s.bar (coreDieKey k) n
    let tok : BitVec 8 := (c.rx ra).truncate 8
    let d := (b.phase - tok).toNat
    (s.Runs (.arrive g rd bid) → s.isCompactBar k n = false → s.member k n = false →
      ∃ t, exec (.arrive g rd bid) s = .next t ∧ s.Did t fun c => (c.wx rd (b.phase.zeroExtend 64)).advance 8) ∧
    (s.Runs (.arrive g rd bid) → s.isCompactBar k n = false → s.member k n = true → s.hasArrived k n = false →
      s.released k s.seq (s.barScope (coreDieKey k) n k) = true →
      let u := s.arriveAt k (coreDieKey k) n (coreBit k)
      ∃ t, exec (.arrive g rd bid) s = .next t ∧ u.SameBut t k ∧
        (t.core k).Same (((u.core k).wx rd (b.phase.zeroExtend 64)).advance 8) ∧ t.hasArrived k n = true) ∧
    (s.Runs (.bwait g bid ra pt pf) → s.isCompactBar k n = false → 1 ≤ d → d < 128 →
      let u := s.acquireBar k n
      ∃ t, exec (.bwait g bid ra pt pf) s = .next t ∧ u.SameBut t k ∧
        (t.core k).Same ((((u.core k).wp pt (decide (2 ≤ d))).wp pf (!decide (2 ≤ d))).advance 8)) ∧
    (s.Runs (.bwait g bid ra pt pf) → s.isCompactBar k n = false → d = 0 →
      ∃ t, exec (.bwait g bid ra pt pf) s = .next t ∧ s.SameBut t k ∧ (t.core k).bwaiting = some (bid, tok) ∧
        (t.core k).pc = c.pc ∧ (t.core k).x = c.x ∧ (t.core k).p = c.p) ∧
    (s.Runs (.bwait g bid ra pt pf) → s.isCompactBar k n = false → 128 ≤ d → s.Handles k →
      ∃ t, exec (.bwait g bid ra pt pf) s = .next t ∧ s.TrapsTo t 12 (tok.zeroExtend 64)) ∧
    (∀ i, i = .arrive g rd bid ∨ i = .bwait g bid ra pt pf → s.Runs i → s.isCompactBar k n = true → s.Handles k →
      ∃ t, exec i s = .next t ∧ s.TrapsTo t 3 (bid.zeroExtend 64))

/-- O36. R316: `bmask` replaces the membership of a free barrier by the image in memory, with phase 0, and reading the image
puts its 256 bytes into the store buffer, in two entries where it crosses a page; an image that fails the checks traps FORMAT, and an
address that is no multiple of 64 ALIGN. That a link to a die of another partition is refused is a DESIGN CHOICE, Assumption 104. `v`
and `u` are the states after the address check and after the reads. -/
def Obligations.MembershipImages : Prop :=
  ∀ (s v u : State) (g : Guard) (bid : BitVec 6) (ra : XReg) (key key2 : Nat) (bs : List Byte),
    let k := s.me
    let c := s.core k
    let va := c.rx ra
    let d := coreDieKey k
    let w := v.closeWindow k key
    let img := toBytes 256 (s.bar d bid.toNat).image
    let entry (a : Word) (key : Nat) (bytes : List Byte) : Store :=
      { kind := .write, va := a, key := key, bytes := bytes, scope := .pod, rel := false, hint := .keep, pc := c.pc, seq := v.seq }
    let n := 2 ^ 16 - va.toNat % 2 ^ 16
    let image (bad : Bool) : Prop := s.Runs (.bmask g bid ra) ∧ va.toNat % 64 = 0 ∧ (s.bar d bid.toNat).kind = .free ∧
      (s.ready (.bmask g bid ra)).readMem k va.toNat 256 = (u, .ok (bs, false)) ∧ u.imageBad d (leNat bs) = bad
    (image false → u.linksLeave k (leNat bs) = false → (s.bar d bid.toNat).arrived = 0 →
      ∃ t, exec (.bmask g bid ra) s = .next t ∧ (t.core k).pc = (u.core k).pc + 8 ∧ (t.core k).x = (u.core k).x ∧
        (t.bar d bid.toNat).mask = BitVec.ofNat 1024 (leNat bs) ∧ (t.bar d bid.toNat).phase = 0 ∧
        (t.bar d bid.toNat).links = imageLinks (leNat bs) ∧ t.mem = u.mem) ∧
    (image true → exec (.bmask g bid ra) s = .next (u.trap k 3 va)) ∧
    (s.Runs (.bmask g bid ra) → canonical va.toNat = true → va.toNat % 64 ≠ 0 → s.Handles k →
      ∃ t, exec (.bmask g bid ra) s = .next t ∧ s.TrapsTo t 4 va) ∧
    (s.Runs (.bmaskRd g bid ra) → (s.ready (.bmaskRd g bid ra)).checkAddr k va 64 .wr = (v, .ok key) → v.splitHeld k key = false →
      256 ≤ n → w.route (w.master k) key true ≠ .page → w.cntSt k < 255 →
      ∃ t, exec (.bmaskRd g bid ra) s = .next t ∧ EntersStore w t k (entry va key img)) ∧
    (s.Runs (.bmaskRd g bid ra) → (s.ready (.bmaskRd g bid ra)).checkAddr k va 64 .wr = (v, .ok key) → v.splitHeld k key = false →
      n < 256 → (w.checkAddr k (va + BitVec.ofNat 64 n) 64 .wr).2 = .ok key2 → w.route (w.master k) key2 true ≠ .page →
      w.cntSt k < 254 →
      ∃ t, exec (.bmaskRd g bid ra) s = .next t ∧ t = { w with seq := w.seq + 1, cores := t.cores } ∧
        (∀ j, j ≠ k → t.core j = w.core j) ∧ t.core k = { (w.core k).advance 8 with
          sbuf := (w.core k).sbuf ++ [entry va key (img.take n), entry (va + BitVec.ofNat 64 n) key2 (img.drop n)] })

/-- O37. R315, R319: a phase completes when every member of every linked die has arrived: the phase rises by one and nobody has
arrived; a `bwait` whose limit has passed stops its thread with BARRIER_TIMEOUT. -/
def Obligations.PhasesAndTimeouts : Prop :=
  ∀ (s : State) (d : DieId) (bid : BitVec 6) (c : CoreId) (tok : BitVec 8) (t0 : Nat),
    let e := dieKey d.pkg.toNat d.die.toNat
    let k := coreKey c
    (s.phaseReady e bid.toNat = true → ∃ t, exec (.barrierPhaseComplete d bid) s = .next t ∧ t.mem = s.mem ∧
      (t.bar e bid.toNat).phase = (s.bar e bid.toNat).phase + 1 ∧ (t.bar e bid.toNat).arrived = 0 ∧
      (t.bar e bid.toNat).mask = (s.bar e bid.toNat).mask) ∧
    (s.phaseReady e bid.toNat = false → exec (.barrierPhaseComplete d bid) s = .next s) ∧
    ((s.core k).bwaiting = some (bid, tok) → (s.core k).waitFrom = some t0 → (s.core k).st = .running → s.phase k bid.toNat = tok →
      t0 + 2 ^ 26 ≤ s.time → (s.core k).settled = true → ∃ t, exec (.barrierTimeout c) s = .next t ∧ (t.core k).st = .stopped ∧
        (t.core k).tcause = 13 ∧ (t.core k).tval = bid.zeroExtend 64 ∧ (t.core k).tpc = (s.core k).pc)

/-! ## Engine queues, tags, arrival objects, handles -/

/-- O38. R89, R192, R193: a command block that passes the checks enters its queue with the handles it names by value, takes its
tag, and the thread goes on (a gradient push, which is a release, once its earlier writes are performed: R305);
`push.try` reports acceptance or a full queue; `qstat` gives the number queued, the capacity and the number live. -/
def Obligations.PushAndQstat : Prop :=
  ∀ (s : State) (g : Guard) (q : QName) (cb : BitVec 3) (pt pf : PReg) (rd : XReg),
    let k := s.me
    let c := s.core k
    let w := c.block cb
    let hs := c.snapshot w
    let u (i : Instr) : State := (s.ready i).fill k (namedWords w) []
    let fits (i : Instr) : Prop := s.Runs i ∧ s.faultPend k = false ∧ opcAccepted q (cf w 0 8) = true ∧
      (∀ n ∈ namedWords w, n ∉ c.pendingWords ∧ s.Sound k n) ∧
      (u i).cmdBad k w hs = false ∧ scaleShort w hs = false
    let put (t : State) : Prop := ∃ d : Cmd, (t.core k).cmds = c.cmds ++ [d] ∧ d.q = q ∧ d.hs = hs ∧ d.pc = c.pc ∧
      d.started = false ∧ (∀ n, d.tag = some n → (t.core k).tags.getLsbD n = false) ∧
      d.w = match q with
        | .gq _ => BitVec.ofNat 256 (w.toNat + (if isTileCore k then k else 0) * 2 ^ 42)
        | _ => w
    (fits (.push g q cb) → (u (.push g q cb)).queueFull k q = false → (u (.push g q cb)).pushWaits k q = false →
      ∃ t, exec (.push g q cb) s = .next t ∧ put t ∧ (t.core k).pc = c.pc + 8 ∧ (t.core k).x = c.x ∧ (t.core k).p = c.p) ∧
    (fits (.pushTry g q cb pt pf) → (u (.pushTry g q cb pt pf)).queueFull k q = false →
      (u (.pushTry g q cb pt pf)).pushWaits k q = false →
      ∃ t, exec (.pushTry g q cb pt pf) s = .next t ∧ put t ∧ (t.core k).pc = c.pc + 8 ∧ (t.core k).x = c.x ∧
        (t.core k).p = ((c.wp pt true).wp pf false).p) ∧
    (fits (.pushTry g q cb pt pf) → (u (.pushTry g q cb pt pf)).queueFull k q = true →
      ∃ t, exec (.pushTry g q cb pt pf) s = .next t ∧ (t.core k).cmds = c.cmds ∧ (t.core k).pc = c.pc + 8 ∧
        (t.core k).p = ((c.wp pt false).wp pf true).p ∧ (t.core k).x = c.x) ∧
    Completes s (.qstat g q rd) (fun c => c.wx rd (BitVec.ofNat 64 ((c.cmds.filter fun d => d.q == q && !d.started).length +
      queueCap q * 2 ^ 8 + (c.cmds.filter fun d => d.q == q).length * 2 ^ 16)))

/-- O39. R199, R202: `twait`, `tany` and `tfind` on a set tag; `tfind` takes the lowest tag named and clears it; with no tag named
it gives 64; `cancel` removes the thread's commands of its tag and sets the tag. -/
def Obligations.TagWords : Prop :=
  ∀ (s : State) (g : Guard) (tag : BitVec 6) (rd ra : XReg),
    let k := s.me
    let c := s.core k
    let m := c.tags &&& c.rx ra
    (s.Runs (.twait g tag) → s.faultPend k = false → c.tags.getLsbD tag.toNat = true →
      ∃ t, exec (.twait g tag) s = .next t ∧ s.Did t fun c => c.advance 8) ∧
    (s.Runs (.tany g rd ra) → s.faultPend k = false → m ≠ 0 ∨ c.rx ra = 0 →
      ∃ t, exec (.tany g rd ra) s = .next t ∧ s.Did t fun c => (c.wx rd m).advance 8) ∧
    (s.Runs (.tfind g rd ra) → s.faultPend k = false → c.rx ra = 0 →
      ∃ t, exec (.tfind g rd ra) s = .next t ∧ s.Did t fun c => (c.wx rd 64).advance 8) ∧
    (s.Runs (.tfind g rd ra) → s.faultPend k = false → m ≠ 0 →
      ∃ t n, exec (.tfind g rd ra) s = .next t ∧ n < 64 ∧ m.getLsbD n = true ∧ (∀ j, j < n → m.getLsbD j = false) ∧
        (t.core k).rx rd = (if rd = 0 then 0 else BitVec.ofNat 64 n) ∧ (t.core k).pc = c.pc + 8 ∧
        ∀ j, (t.core k).tags.getLsbD j = (c.tags.getLsbD j && j != n)) ∧
    (s.Runs (.cancel g tag rd) →
      ∃ t, exec (.cancel g tag rd) s = .next t ∧ (t.core k).pc = c.pc + 8 ∧ (t.core k).tags.getLsbD tag.toNat = true ∧
        (∀ e ∈ (t.core k).own, e.tag ≠ some tag.toNat) ∧
        (t.core k).rx rd = if rd = 0 then 0 else BitVec.ofNat 64
          ((c.own.filter fun e => e.tag == some tag.toNat && !e.started).length +
            (c.own.filter fun e => e.tag == some tag.toNat && e.started).length * 2 ^ 8))

/-- O40. R143, R144, R146: `abinit` arms an object with its expected total and keeps its count, `abinit.reset` clears the count;
the object is met at once where the count has reached the total; nothing outside the object changes. `abwait` completes at a met
object and changes nothing; a wait whose limit has passed stops its thread. What `tval` is on a churn, and the
objects of a supervisor core, are DESIGN CHOICES, Assumption 88. -/
def Obligations.ArrivalObjects : Prop :=
  ∀ (s : State) (g : Guard) (obj : BitVec 6) (ra : XReg) (c : CoreId) (t0 : Nat),
    let k := s.me
    let key := arrivalKey (storeBase k) obj.toNat
    let total := ((s.core k).rx ra).toNat % 2 ^ 32
    let armed (t : State) (count : Nat) : Prop :=
      (t.core k).Same ((s.core k).advance 8) ∧ (∀ j, j ≠ k → t.core j = s.core j) ∧
      getFld (t.readNat key 16) 0 32 = count ∧ getFld (t.readNat key 16) 32 32 = total ∧
      getFld (t.readNat key 16) 64 1 = 1 ∧ (getFld (t.readNat key 16) 65 1 = 1 ↔ total ≤ count) ∧
      ∀ a, OutsideHome k a → a < key ∨ key + 16 ≤ a → memGet t.mem a = memGet s.mem a
    (s.Runs (.abinit g obj ra) → ∃ t, exec (.abinit g obj ra) s = .next t ∧ armed t (getFld (s.readNat key 16) 0 32)) ∧
    (s.Runs (.abinitReset g obj ra) → ∃ t, exec (.abinitReset g obj ra) s = .next t ∧ armed t 0) ∧
    (s.Runs (.abwait g obj) → s.faultPend k = false → getFld (s.readNat key 16) 65 1 = 1 →
      ∃ t, exec (.abwait g obj) s = .next t ∧ s.Did t fun c => c.advance 8) ∧
    (let j := coreKey c
     (s.core j).abwaiting = some obj → (s.core j).waitFrom = some t0 → (s.core j).st = .running → t0 + 2 ^ 26 ≤ s.time →
      (s.core j).settled = true → getFld (s.readNat (arrivalKey (storeBase j) obj.toNat) 16) 65 1 = 0 →
      ∃ t, exec (.abwaitTimeout c) s = .next t ∧ (t.core j).st = .stopped ∧ (t.core j).tcause = 13 ∧ (t.core j).tpc = (s.core j).pc ∧
        (t.core j).tval = BitVec.ofNat 64 (2 ^ 56 + coreTile j * 2 ^ 20 + 0x2000 + 16 * obj.toNat))

/-- O41. R189: a field of a handle is set from the low bits of a register and leaves every other bit; a field is read zero-extended,
cursor and step sign-extended; a handle is copied whole; `hadv` moves the cursor by step times n, modulo 2^32. -/
def Obligations.HandleRegisterWords : Prop :=
  ∀ (s : State) (g : Guard) (h hs : HReg) (f : BitVec 4) (x : XReg),
    let lo := (handleField f).1
    let n := (handleField f).2
    Completes s (.hset g h f x) (fun c => c.wh h (handleSet (c.rh h) f (c.rx x))) ∧
    (f ≠ 15 → ∀ (v : Wide) (w : Word) (b : Nat), b < 256 →
      (handleSet v f w).getLsbD b = if lo ≤ b ∧ b < lo + n then w.getLsbD (b - lo) else v.getLsbD b) ∧
    Completes s (.hget g x h f) (fun c => c.wx x (if f = 4 ∨ f = 5
      then ((c.rh h).extractLsb' lo 32).signExtend 64 else BitVec.ofNat 64 ((c.rh h).toNat / 2 ^ lo % 2 ^ n))) ∧
    Completes s (.hmov g h hs) (fun c => c.wh h (c.rh hs)) ∧
    (∃ f : Core → Core, Completes s (.hadv g h x) f ∧ ∀ c : Core,
      f c = c.wh h ((f c).rh h) ∧
      hCursor ((f c).rh h) = (BitVec.ofInt 32 (hCursor (c.rh h) +
        (hStep (c.rh h)).toInt * (if x = 0 then 1 else ((c.rx x).toNat : Int)))).toInt ∧
      ∀ b, b < 128 ∨ 160 ≤ b → ((f c).rh h).getLsbD b = (c.rh h).getLsbD b)

/-! ## The vector unit -/

/-- O42. R217: a vector word that passes its checks enters the queue, which holds 32, with its operands and its guard's lanes by
value; each handle register marked `+` moves on once; no other register changes and no byte of memory, and the tile's boundary
window closes (R288). An absmax address of
`vquant` is checked at issue and its key stands in the entry. `Instr.isVector` holds of `vadd`, `vsub`, `vmul`, `vfma`, `vmin`,
`vmax`, `vabs`, `vneg`, `vexp2`, `vlog2`, `vrcp`, `vrsq`, `vtanh`, `vcvt`, `vquant`, `vamax`, `vred`, `vcmp`, `vsel`, `vperm`,
`vbcast`, `vmov`, `vfill`, `vempty`, `vplog`, `vpcnt`, `vpfirst`, `vpmovFromX` and `vpmovToX`: each of them completes its issue
so. -/
def Obligations.VectorWordsEnter : Prop :=
  ∀ (s : State) (i : Instr), i.isVector = true → s.RunsLanes i →
    let k := s.me
    let u := s.readyLanes i
    u.vecCheck k i = none → (s.core k).vq.length < 32 →
    let entered (v t : State) (key : Nat) : Prop := v.SameBut { t with seq := s.seq } k ∧ t.seq = s.seq + 1 ∧
      (t.core k).vq = (s.core k).vq ++ [(s.core k).vecEntry i (s.laneCount i) s.seq (s.laneMask i) key] ∧
      (t.core k).pc = (s.core k).pc + 8 ∧ (t.core k).x = (s.core k).x ∧ (t.core k).p = (s.core k).p ∧ (t.core k).vp = (s.core k).vp ∧
      ∀ h : HReg, (t.core k).rh h = if h ∈ (i.slots.handles.filter (·.adv)).map (·.h) then hAdvance ((s.core k).rh h) 1
        else (s.core k).rh h
    (absmaxAddr i (s.core k) = none → ∃ t, exec i s = .next t ∧ entered (s.shutWindow k) t 0) ∧
    (∀ va v key, absmaxAddr i (s.core k) = some va → u.checkAddr k va 4 .rw = (v, .ok key) → v.splitHeld k key = false →
      ∃ t, exec i s = .next t ∧ entered ((v.closeWindow k key).shutWindow k) t key)

/-- O43. R218: the first check that fails gives the trap, before anything enters the queue; the destination and every operand
keep their values. -/
def Obligations.VectorChecksTrap : Prop :=
  ∀ (s : State) (i : Instr) (cause v : Nat), i.isVector = true → s.RunsLanes i →
    let k := s.me
    (s.readyLanes i).vecCheck k i = some (cause, v) → s.Handles k →
    ∃ t, exec i s = .next t ∧ s.TrapsTo t cause (BitVec.ofNat 64 v)

/-- O44. R98, R216, R127: a vector word with no true lane only advances, also while a checked load is outstanding; `vcmp` with mode `clr`
clears its pair in every lane, once it may write it. -/
def Obligations.VectorWordsSuppressed : Prop :=
  ∀ (s : State) (i : Instr), i.isVector = true → s.Canon → (s.core s.me).st = .running → s.laneMask i = 0 →
    (∀ w ∈ named i, w ∉ (s.core s.me).pendingWords) → (∀ w ∈ i.guardWords, s.Sound s.me w) →
    (clears i = true → (s.core s.me).checked = false ∧ ∀ w ∈ i.lateWords, w ∉ (s.core s.me).pendingWords ∧ s.Sound s.me w) →
    ∃ t, exec i s = .next t ∧ s.Did t fun c => (c.clearLanes i (s.laneCount i)).advance 8

/-- O45. R225, R219, R220, R229 to R240: one grant gives one quarter to the queue head of the best candidate and to nobody else,
and memory and registers stay; the oldest vector word whose four quarters are granted takes the effect of `vecEffect` and leaves
the queue, or keeps the greatest magnitude that it will reduce at its absmax word; until then it changes nothing. -/
def Obligations.QuartersAndCompletion : Prop :=
  ∀ (s : State) (c : CoreId) (w : Cand) (n : Nat) (e : VEntry) (es : List VEntry),
    let k := coreKey c
    (arbitrate (if isTileCore k then (s.tile (coreTile k)).vstarve else []) (s.vecCands k) = some (w, n) →
      ∃ t, exec (.vectorQuarterGrant c) s = .next t ∧ t.mem = s.mem ∧ w.core ∈ sharers k ∧
        (∀ j, (t.core j).x = (s.core j).x ∧ (t.core j).h = (s.core j).h ∧ (t.core j).pc = (s.core j).pc) ∧
        (∀ j, j ≠ w.core → (t.core j).vq = (s.core j).vq) ∧
        ∃ e, (s.core w.core).vecHead = some e ∧
          (t.core w.core).vq = (s.core w.core).vq.map fun x => if x.age = e.age then { x with granted := x.granted + 1 } else x) ∧
    ((s.core k).vq = e :: es → e.granted < 4 → exec (.vectorComplete c) s = .next s) ∧
    (let u := (s.tally k 0 e.active.length).vecEffect k e
     (s.core k).vq = e :: es → e.granted = 4 → s.vecClosed k e = none → s.vecMarked (storeBase k) e = none →
      (e.reduces = false → ∃ t, exec (.vectorComplete c) s = .next t ∧ t.mem = u.mem ∧ t.full = u.full ∧
        (∀ x ∈ (t.core k).vq, x.age ≠ e.age) ∧ (t.core k).x = (u.core k).x ∧
        (t.core k).vp = (u.core k).vp ∧ (t.core k).fpstat = (u.core k).fpstat) ∧
      (e.reduces = true → ∃ t, exec (.vectorComplete c) s = .next t ∧ t.mem = u.mem ∧
        ∀ x ∈ (t.core k).vq, x.age = e.age → x.granted = 5 ∧
          x.amax = BitVec.ofNat 32 (maxBits (e.active.map fun i => s.slotVal (storeBase k) e.i.slots.a e.a i))))

/-- O46. R220, R222, R227, R229 to R240: what each vector instruction leaves. Every active lane of a destination handle takes the result
of its operands as they stood before any lane was written, rounded where the rule rounds; every byte outside the elements written is
as before (`vquant` with sm = 1 also writes the scale of each block that it touches), and so are the full bits, but for those that `vfill`
sets and `vempty` clears; the flags of all active lanes are set, and no register changes. A reduction, a predicate count or move and a
compare change their own destination alone, and no byte outside the register home. -/
def Obligations.LaneArithmetic : Prop :=
  ∀ (s : State) (k : Nat) (e : VEntry) (g : Guard), s.Canon →
    let c := s.core k
    let st := storeBase k
    let t := s.vecEffect k e
    let f := fmtOf (hFmt e.d)
    let w := hWidth e.d
    let sl := e.i.slots
    let bits (o : Option VOp) (v : Wide) (i : Nat) : Nat := s.slotBits st o v w i
    let a (i : Nat) : Val := s.slotVal st sl.a e.a i
    let b (i : Nat) : Val := s.slotVal st sl.b e.b i
    let vs := e.active.map a
    let at1 (i : Nat) : Nat × Nat := (laneAt e.d i).getD (0, 0)
    let key (i : Nat) : Nat := scaleKey st e.d (at1 i).1 (at1 i).2
    let inside (x i : Nat) : Prop := elemKey st e.d (at1 i).1 (at1 i).2 ≤ x ∧
      x < elemKey st e.d (at1 i).1 (at1 i).2 + elemBytes e.d (at1 i).1 (at1 i).2
    let writes (skip : Nat → Prop) (v : Nat → Nat × Flags) : Prop := hFmt e.d < 22 → handleShape e.d = false →
      (∀ i ∈ e.active, t.elem st e.d (at1 i).1 (at1 i).2 = (v i).1 % 2 ^ w) ∧
      (∀ x, ¬ skip x → (∀ i ∈ e.active, ¬ inside x i) → memGet t.mem x = memGet s.mem x) ∧
      (t.core k).fpstat = e.active.foldl (fun f i => f ||| (v i).2.zeroExtend 64) c.fpstat ∧
      (t.core k).x = c.x ∧ (t.core k).h = c.h ∧ (t.core k).vp = c.vp
    let lanes (v : Nat → Nat × Flags) : Prop := writes (fun _ => False) v ∧ t.full = s.full
    let pack (rm : Rm) (r : Res) : Nat × Flags := ((packIeee f rm r.1).1, (packIeee f rm r.1).2 ||| r.2)
    let narrow (rm : Rm) (scale clip : Val) (salt : Word32) (sc : Nat → Option Int) (i : Nat) : Nat × Flags :=
      let x := clipped (a i) scale clip 1
      let r := roundBlock (hFmt e.d) rm (sc i) x.1 (s.draw k salt e.d e.dph (at1 i).1 (at1 i).2)
      (r.1, r.2 ||| x.2)
    let scaled (p : Bool) : Val := if p then f32Val (e.b.truncate 32) else f32Val 0x3F800000
    let salt (p : Bool) : Word32 := if p then e.b.extractLsb' 32 32 else 0
    let stored (i : Nat) : Option Int := s.scaleOf st e.d (at1 i).1 (at1 i).2
    let source (j : Nat) : Nat := if j < e.n then (match laneAt e.a j with | some (r, c) => s.elem st e.a r c | none => 0) else 0
    let outside : Prop := (∀ x, OutsideHome k x → memGet t.mem x = memGet s.mem x) ∧ t.full = s.full ∧ (t.core k).h = c.h
    let scalar (rd : XReg) (v : Word) (fl : Flags) : Prop := outside ∧ (t.core k).vp = c.vp ∧
      (t.core k).fpstat = c.fpstat ||| fl.zeroExtend 64 ∧ ∀ r, (t.core k).rx r = if r = rd ∧ r ≠ 0 then v else c.rx r
    let predicate (pd : PReg) (v : Nat → Bool) : Prop := outside ∧ (t.core k).x = c.x ∧ (t.core k).fpstat = c.fpstat ∧
      ∀ r, ∀ i < 256, ((t.core k).rvp r).getLsbD i = if r = pd ∧ r ≠ 0 then v i else (c.rvp r).getLsbD i
    (∀ o, e.i = .vadd g o → lanes fun i => pack o.rm (Val.add o.rm (a i) (b i))) ∧
    (∀ o, e.i = .vsub g o → lanes fun i => pack o.rm (Val.add o.rm (a i) (b i).neg)) ∧
    (∀ o, e.i = .vmul g o → lanes fun i => pack o.rm (Val.mul (a i) (b i))) ∧
    (∀ o, e.i = .vfma g o → lanes fun i => pack o.rm (Val.fma o.rm (a i) (b i) (s.slotVal st sl.c e.c i))) ∧
    (∀ o (m : Bool), e.i = (if m then Instr.vmax g o else Instr.vmin g o) → lanes fun i => match o.a, o.b with
      | .h _, .h _ => pickMin f m (bits sl.a e.a i) (bits sl.b e.b i)
      | .h _, .x _ => pickScalar (hFmt e.d) m false (bits sl.a e.a i) (e.b.toNat % 2 ^ 32)
      | .x _, _ => pickScalar (hFmt e.d) m true (bits sl.b e.b i) (e.a.toNat % 2 ^ 32)) ∧
    (∀ o, e.i = .vabs g o → lanes fun i => (bits sl.a e.a i % 2 ^ (w - 1), noFlags)) ∧
    (∀ o, e.i = .vneg g o → lanes fun i => ((bits sl.a e.a i + 2 ^ (w - 1)) % 2 ^ w, noFlags)) ∧
    (∀ o, e.i = .vexp2 g o → lanes fun i => elemExp2 f o.rm (a i)) ∧
    (∀ o, e.i = .vlog2 g o → lanes fun i => elemLog2 f o.rm (a i)) ∧
    (∀ o, e.i = .vrcp g o → lanes fun i => elemRcp f o.rm (a i)) ∧
    (∀ o, e.i = .vrsq g o → lanes fun i => elemRsq f o.rm (a i)) ∧
    (∀ o, e.i = .vtanh g o → lanes fun i => elemTanh f o.rm (a i)) ∧
    (∀ o, e.i = .vcvt g o → lanes (narrow o.rm (scaled o.scale.isSome)
      (if o.clip.isSome then f32Val (e.c.truncate 32) else .inf false) (salt o.scale.isSome) stored)) ∧
    (∀ o, e.i = .vquant g o → o.calcScales = false →
      lanes (narrow o.rm (scaled o.scale.isSome) (.inf false) (salt o.scale.isSome) stored)) ∧
    (∀ o, e.i = .vquant g o → o.calcScales = true → hGeom e.d ≠ 0 →
      let byte (i : Nat) : Nat := scaleByte (hFmt e.d) ((e.active.filter fun j => key j == key i).foldl
        (fun m j => maxMag m (clipped (a j) (scaled o.scale.isSome) (.inf false) 1).1) (some Mag.zero))
      writes (fun x => ∃ i ∈ e.active, x = key i)
        (narrow o.rm (scaled o.scale.isSome) (.inf false) (salt o.scale.isSome) fun i => scaleExp (hFmt e.d) (byte i)) ∧
      t.full = s.full ∧ ∀ i ∈ e.active, (∀ j ∈ e.active, ¬ inside (key i) j) → t.readNat (key i) 1 = byte i) ∧
    (∀ o, e.i = .vsel g o → lanes fun i => (if e.c.getLsbD i then bits sl.a e.a i else bits sl.b e.b i, noFlags)) ∧
    (∀ o, e.i = .vperm g o → lanes fun i => (source (s.slotBits st sl.b e.b 8 i), noFlags)) ∧
    (∀ o, e.i = .vbcast g o → lanes fun _ => (source (e.b.toNat % 256), noFlags)) ∧
    (∀ o, e.i = .vmov g o → lanes fun i => (bits sl.a e.a i, noFlags)) ∧
    (∀ o, e.i = .vfill g o → writes (fun _ => False) (fun i => (bits sl.a e.a i, noFlags)) ∧
      ∀ x, t.isFull x = (s.isFull x || e.active.any fun i =>
        decide (elemKey st e.d (at1 i).1 (at1 i).2 / 8 ≤ x / 8) &&
          decide (x / 8 * 8 < elemKey st e.d (at1 i).1 (at1 i).2 + elemBytes e.d (at1 i).1 (at1 i).2))) ∧
    (∀ d, e.i = .vempty g d → t.mem = s.mem ∧ t.cores = s.cores ∧
      ∀ x, t.isFull x = (s.isFull x && !e.active.any fun i =>
        decide (elemKey st e.d (at1 i).1 (at1 i).2 / 8 ≤ x / 8) &&
          decide (x / 8 * 8 < elemKey st e.d (at1 i).1 (at1 i).2 + elemBytes e.d (at1 i).1 (at1 i).2))) ∧
    (∀ o, e.i = .vred g o →
      let xb := f32Val (e.b.truncate 32)
      let sum := (Val.add o.rm xb (sumVals (zeroSign o.rm vs) vs)).1
      let r := if vs.isEmpty && !xb.isNan then (e.b.toNat % 2 ^ 32, noFlags)
        else if vs.isEmpty || sum.isNan then writeNan fmtF32 else packIeee fmtF32 o.rm sum
      scalar o.rd (BitVec.ofNat 64 r.1) r.2) ∧
    (∀ o, e.i = .vamax g o → scalar o.rd (BitVec.ofNat 64 (max (e.b.toNat % 2 ^ 32) ((vs.map absBits).foldl max 0))) 0) ∧
    (∀ o, e.i = .vcmp g o →
      let v (i : Nat) : Bool × Flags := fpCond o.cond (a i) (match o.b with
        | .h _ => b i
        | .x _ => if 8 ≤ hFmt e.a then intVal (e.b.truncate 64 : Word).toInt else f32Val (e.b.truncate 32))
      let old (r : PReg) (i : Nat) : Bool := (c.rvp r).getLsbD i
      let lane (r : PReg) (p : Nat → Bool) (i : Nat) : Bool := if e.n ≤ i then old r i else if e.activeLane i then p i
        else old r i && o.wm != .clr
      outside ∧ (t.core k).x = c.x ∧ (t.core k).fpstat = e.active.foldl (fun f i => f ||| (v i).2.zeroExtend 64) c.fpstat ∧
      ∀ r, ∀ i < 256, ((t.core k).rvp r).getLsbD i =
        if r = 0 then old r i
        else if r = o.pf then lane r (fun i => match o.wm with
          | .set | .clr => !(v i).1
          | .and => old r i || !(v i).1
          | .or => old r i && !(v i).1) i
        else if r = o.pt then lane r (fun i => match o.wm with
          | .set | .clr => (v i).1
          | .and => old r i && (v i).1
          | .or => old r i || (v i).1) i
        else old r i) ∧
    (∀ o, e.i = .vplog g o → predicate o.pd fun i => if e.mask.getLsbD i then o.table.getLsbD
      ((if e.a.getLsbD i then 4 else 0) + (if e.b.getLsbD i then 2 else 0) + if e.c.getLsbD i then 1 else 0)
      else (c.rvp o.pd).getLsbD i) ∧
    (∀ o, e.i = .vpcnt g o → scalar o.rd (BitVec.ofNat 64
      ((List.range 256).filter fun i => e.a.getLsbD i && e.mask.getLsbD i).length) 0) ∧
    (∀ o, e.i = .vpfirst g o → ∃ n ≤ 256, scalar o.rd (BitVec.ofNat 64 n) 0 ∧
      (∀ j < n, (e.a.getLsbD j && e.mask.getLsbD j) = false) ∧ (n < 256 → (e.a.getLsbD n && e.mask.getLsbD n) = true)) ∧
    (∀ o, e.i = .vpmovFromX g o → predicate o.pd fun i => if e.mask.getLsbD i then
        (if 64 * o.q.toNat ≤ i ∧ i < 64 * o.q.toNat + 64 then e.b.getLsbD (i - 64 * o.q.toNat)
          else o.keep && (c.rvp o.pd).getLsbD i)
      else (c.rvp o.pd).getLsbD i) ∧
    (∀ o, e.i = .vpmovToX g o → ∃ v : Word, scalar o.rd v 0 ∧
      ∀ m < 64, v.getLsbD m = (e.a.getLsbD (64 * o.q.toNat + m) && e.mask.getLsbD (64 * o.q.toNat + m)))

/-! ## Control registers and system words -/

/-- O47. R91, R344: a control register is read whole; `csrw`, `csrset` and `csrclr` give the old value and change only the bits
that software may write; `fpstat` and the trap registers stand for those that a thread owns. -/
def Obligations.ControlRegisterWords : Prop :=
  ∀ (s : State) (g : Guard) (rd : XReg) (n : BitVec 12) (o : CsrS),
    let k := s.me
    let own := [0x100, 0x101, 0x102, 0x103, 0x104, 0x200, 0x204, 0x205]
    let set (c : Core) (v : Word) : Core := match o.csr.toNat with
      | 0x100 => { c with tvec := v }
      | 0x101 => { c with tcause := v }
      | 0x102 => { c with tpc := v }
      | 0x103 => { c with tval := v }
      | 0x104 => { c with inh := v.getLsbD 0 }
      | 0x200 => { c with fpstat := v }
      | 0x204 => { c with rngctr := v }
      | _ => { c with remerr := v }
    let old := s.csr k o.csr.toNat
    let mask := csrMask o.csr.toNat
    let writes (i : Instr) (f : Word → Word → Word) : Prop := o.csr.toNat ∈ own → Completes s i fun c =>
      (set c ((old &&& ~~~mask) ||| (f old (c.rx o.ra) &&& mask))).wx o.rd old
    Completes s (.csrr g rd n) (fun c => c.wx rd (s.csr k n.toNat)) ∧
    writes (.csrw g o) (fun _ a => a) ∧ writes (.csrset g o) (fun v a => v ||| a) ∧ writes (.csrclr g o) (fun v a => v &&& ~~~a)

/-- O48. R90, R73 (step 4): a control register that the core may not name, or may not write, and an instruction that its role
refuses (`tlbi` on a job thread, `qget` on a tile core, barriers and compacts on a churn), trap ILLEGAL with `tval` the word,
whatever the guard. -/
def Obligations.RefusedByDecode : Prop :=
  ∀ (s : State) (i : Instr), i.isWord = true → i.isVector = false →
    let k := s.me
    (s.core k).st = .running → refusedByRole k i = true ∨ refusedCsr k i = true → (s.core k).settled = true →
    exec i s = .next (s.takeTrap k 1 false (s.core k).pc (encode i) 0) ∧
    (∀ g ra rb sc, i = .tlbi g ra rb sc → isSup k = false → refusedByRole k i = true) ∧
    (∀ g rd q pt pf, i = .qget g rd q pt pf → isChurn k = false → refusedByRole k i = true)

/-- O49. R91, R150, R203: a write of `tsplit` or `accsplit` that waited for the tile's engines takes effect when they are idle: the
register takes what the kind of write makes of the value that it holds then, the waiting word completes with that old one, and the
request is gone; what a `tsplit` write moves between scratch and cache holds 0; a value that `tsplit` may not take is not written. -/
def Obligations.SplitWrites : Prop :=
  ∀ (s : State) (t : TileId) (r : SplitReq),
    let u := tileNum t
    let rd : XReg := BitVec.ofNat 5 r.rd
    let made (old mask : Word) : Word := (old &&& ~~~mask) ||| ((match r.fn with
      | .write => r.ra
      | .set => old ||| r.ra
      | .clr => old &&& ~~~r.ra) &&& mask)
    let took (v : State) (old : Word) : Prop := (v.tile u).req = none ∧ (v.core r.core).pc = (s.core r.core).pc + 8 ∧
      ∀ x, (v.core r.core).rx x = if x = rd ∧ x ≠ 0 then old else (s.core r.core).rx x
    let new := made (s.tile u).tsplit 0x1F
    let e0 := (s.tile u).scratchEnd
    let e1 := min (0x3000 + 0x10000 * (new.toNat % 32)) 0x100000
    (s.tile u).req = some r → (s.core r.core).st = .running → s.splitReady u r.acc = true →
    (r.acc = true → ∃ v, exec (.accsplitWrite t) s = .next v ∧ took v (s.tile u).accsplit ∧
      (v.tile u).accsplit = made (s.tile u).accsplit 0xFFFF ∧ ∀ a, OutsideHome r.core a → memGet v.mem a = memGet s.mem a) ∧
    (r.acc = false → (s.tile u).compact = none →
      (s.splitAllowed u new = true → ∃ v, exec (.tsplitWrite t) s = .next v ∧ took v (s.tile u).tsplit ∧ (v.tile u).tsplit = new ∧
        ∀ a, min e0 e1 ≤ a → a < max e0 e1 → memGet v.mem (tileKey u a) = 0) ∧
      (s.splitAllowed u new = false →
        exec (.tsplitWrite t) s = .next (s.onTile u fun w => { w with req := none })))

/-- O50. R342, R343, R345, R259, R270: `wfi` forgets the events before it, completes once an event has come since it issued, or
its clocks have passed; `seal` sets the mailbox, on a supervisor core that of the core named; `tlbi` leaves no entry of the pages it
names in any TLB in scope; `prio` sets the class within the cap; `rand` gives the word of the counter and moves it on. -/
def Obligations.SystemWords : Prop :=
  ∀ (s : State) (g : Guard) (ra rb rd : XReg) (sc : Scope) (n : BitVec 2) (c : CoreId) (lim t0 : Nat),
    let k := s.me
    let me := s.core k
    let xa := me.rx ra
    let xb := me.rx rb
    (s.Runs (.wfi g ra) → me.wfiLimit = none → ∃ t, exec (.wfi g ra) s = .next t ∧ s.SameBut t k ∧ (t.core k).pc = me.pc ∧
      (t.core k).wfiLimit = some (xa.toNat % 2 ^ 32) ∧ (t.core k).wfiEvent = false ∧ (t.core k).waitFrom = some s.time ∧
      (t.core k).x = me.x) ∧
    (s.Runs (.wfi g ra) → me.wfiLimit = some lim → me.waitFrom = some t0 → me.wfiEvent = true ∨ (lim ≠ 0 ∧ t0 + lim ≤ s.time) →
      ∃ t, exec (.wfi g ra) s = .next t ∧ s.Did t fun c => c.advance 8) ∧
    ((s.core (coreKey c)).wfiLimit = some lim → (s.core (coreKey c)).waitFrom = some t0 → (s.core (coreKey c)).st = .running →
      lim ≠ 0 → t0 + lim ≤ s.time →
      exec (.wfiTimeout c) s = .next (s.onCore (coreKey c) fun c => c.advance 8)) ∧
    (s.Runs (.seal g ra rb) → isSup k = false ∨ rb = 0 → ∃ t, exec (.seal g ra rb) s = .next t ∧ s.Did t fun c =>
      ({ c with sealed := (c.rx ra).getLsbD 0 } : Core).advance 8) ∧
    (s.Runs (.seal g ra rb) → isSup k = true → rb ≠ 0 → ∃ t, exec (.seal g ra rb) s = .next t ∧
      (s.onCore (xb.toNat % 2 ^ 22) fun c => { c with sealed := xa.getLsbD 0 }).SameBut t k ∧ (t.core k).pc = me.pc + 8 ∧
      (t.core k).x = me.x ∧ (t.core (xb.toNat % 2 ^ 22)).sealed = xa.getLsbD 0) ∧
    (let j : Job := { part := xb.extractLsb' 12 2, ctx := xb.extractLsb' 0 12 }
     s.Runs (.tlbi g ra rb sc) →
      (xa.getLsbD 0 = true ∨ xa.toNat % 2 ^ 16 = 0 →
        ((s.ready (.tlbi g ra rb sc)).tlbDrop k sc (tlbiHits j xa)).tlbSettled k sc j xa = true →
        ∃ t, exec (.tlbi g ra rb sc) s = .next t ∧ (t.core k).pc = me.pc + 8 ∧ (t.core k).x = me.x ∧
          t.mem = (s.ready (.tlbi g ra rb sc)).mem ∧
          (∀ m, coreInScope sc k m = true → ∀ e ∈ (t.core m).tlb, tlbiHits j xa e = false) ∧
          (∀ m, coreInScope sc k (4 * m) = true → ∀ e ∈ (t.tile m).tlb, tlbiHits j xa e = false) ∧
          (∀ m, sc = .die ∨ sc = .package ∨ sc = .pod → coreInScope sc k (256 * m) = true →
            ∀ e ∈ (t.quad m).tlb, tlbiHits j xa e = false)) ∧
      (xa.getLsbD 0 = false → xa.toNat % 2 ^ 16 ≠ 0 → s.Handles k →
        ∃ t, exec (.tlbi g ra rb sc) s = .next t ∧ s.TrapsTo t 3 xa)) ∧
    Completes s (.prio g n) (fun c => { c with cls := if n ≤ c.cap then n else c.cap }) ∧
    Completes s (.rand g rd) (fun c => ({ c with rngctr := c.rngctr + 1 } : Core).wx rd (rngWord (s.key k 2 0) c.rngctr))

/-! ## Scheduling -/

/-- O51. R263, R265, R267: `spawn` reads its record, checks it, and with the thread's earlier writes performed and a slot free appends
it at the tail, also where it has waited for them since it read; `join` completes when the counter has reached its operand or shows a
failed team; the host appends to a queue that threads do not feed by two
posted writes, the record and then the tail. That the record carries the logical clock of its thread is DEDUCED, Assumption 81. -/
def Obligations.LaunchQueueWords : Prop :=
  ∀ (s v w : State) (g : Guard) (lq : BitVec 4) (ra rb : XReg) (r : BitVec 512) (key : Nat) (bs : List Byte) (q : QueueId),
    let k := s.me
    let c := s.core k
    let pkg := corePkg k
    let u := s.ready (.spawn g lq ra)
    let room (x : State) : Prop := x.released k x.seq .pod = true ∧
      qFull (x.queueDesc pkg (x.core k).job.part.toNat lq.toNat) = false
    let appends (x : State) : Prop := let j := (x.core k).job
      exec (.spawn g lq ra) s = .next ((x.appendRecord pkg j.part.toNat lq.toNat j (x.clk k) r).onCore k fun c => c.advance 8)
    (s.Runs (.spawn g lq ra) → c.snap = some r → room u → appends u) ∧
    (s.Runs (.spawn g lq ra) → c.snap = none → (c.rx ra).toNat % 64 = 0 → u.readMem k (c.rx ra).toNat 64 = (w, .ok (bs, false)) →
      r = BitVec.ofNat 512 (leNat bs) → w.mayLaunch k lq.toNat r = true → room w → appends w) ∧
    (s.Runs (.spawn g lq ra) → c.snap = none → (c.rx ra).toNat % 64 ≠ 0 → s.Handles k →
      ∃ t, exec (.spawn g lq ra) s = .next t ∧ s.TrapsTo t 4 (c.rx ra)) ∧
    (s.Runs (.join g ra rb) → (s.ready (.join g ra rb)).checkAddr k (c.rx ra) 8 .rd = (v, .ok key) → v.splitHeld k key = false →
      (v.closeWindow k key).readMem k (c.rx ra).toNat 8 = (w, .ok (bs, false)) →
      (w.core k).rx rb ≤ BitVec.ofNat 64 (leNat bs) ∨ (BitVec.ofNat 64 (leNat bs) : Word).getLsbD 63 = true →
      exec (.join g ra rb) s = .next (w.onCore k fun c => c.advance 8)) ∧
    (let P := q.pkg.toNat
     let f := q.part.toNat
     let d := s.queueDesc P f q.q.toNat
     let slot := qSlot d (qTail d)
     let tail := s.queueAt P f q.q.toNat + 24
     let x := s.engineWrite slot (toBytes 64 r.toNat) false
     let reaches (y : State) (a n : Nat) : Prop := y.hostRoute P f (a % 2 ^ 47) n true = .ok ∧ paPkg a = P ∧ a % 64 + n ≤ 64
     ((s.pkg P).parts.find f).isSome = true → qFed d = false → qSized d = true → s.posted = [] → reaches s slot 64 → reaches x tail 4 →
      exec (.hostTailWrite q r) s = .next (x.engineWrite tail (toBytes 4 ((qTail d + 1) % 2 ^ 32)) false))

/-- O52. R31, R92, R200: the state in which a thread starts: its entry, x10 its argument and every other register 0, its job, team
and class, and its home holding the same; what an earlier thread of the core left on its way stays (R333, R368). -/
def Obligations.ThreadStarts : Prop :=
  ∀ (s : State) (k : Nat) (j : Job) (seed : Word) (base size : Nat) (bar : Option Nat) (r : BitVec 512) (w : Nat),
    let c := startCore j seed base size bar r w
    let t := s.startThread k c
    c.st = .running ∧ c.pc = r.truncate 64 ∧ (∀ n, c.rx n = if n = 10 then (r.extractLsb' 128 64) else 0) ∧
    c.job = j ∧ c.jobseed = seed ∧ c.tvec = 0 ∧ c.tags = 0 ∧ c.cls.toNat = min 1 (recCap r) ∧ c.cap.toNat = recCap r ∧
    (∀ h, c.rh h = 0) ∧ (∀ p, p ≠ 0 → c.rp p = false ∧ c.rvp p = 0) ∧
    t.core k = { c with
      cmds := (s.core k).cmds.filter Cmd.survives, msgs := (s.core k).msgs,
      flights := (s.core k).flights.filter (fun f => !s.performed k .pod f.w), birth := s.seq } ∧
    (∀ i, i < 0x300 → memGet t.mem (tagKey k + i) = 0) ∧
    (s.Canon → ∀ n : XReg, n ≠ 0 → t.readNat (homeKey k + 8 * n.toNat) 8 = (c.rx n).toNat)

/-- O53. R28, R30 to R32, R264, R266, R268: a record is taken from the head of a queue that is enabled and not empty, and waits, or is
refused; of the queues whose records can be placed the next in turn has its whole team placed at once, each thread at the record's
entry; `LAUNCH` reads and checks the record once and appends it when the queue has room. Choices of the model:
the clock that a record and its team carry (Assumption 81, DEDUCED), the ring to which a refusal is reported (Assumption 35) and that
`LAUNCH` reads the record at the queue's head and keeps it (Assumption 36), both DESIGN CHOICES. -/
def Obligations.RecordsAndTeams : Prop :=
  ∀ (s : State) (q : QueueId) (base : BitVec 12) (r : BitVec 512) (slot b0 m : Nat) (bar : Option Nat) (c : CoreId) (d : Cmd)
    (u : State) (bs : List Byte) (nums : List Nat),
    let pkg := q.pkg.toNat
    let part := q.part.toNat
    let n := queueKey part q.q.toNat
    let j := s.recordJob pkg part q.q.toNat
    let b := 4096 * pkg + base.toNat
    ((s.pkg pkg).waiting.find n = some (r, slot) → s.placeNext pkg part = some (q.q.toNat, b0) →
      s.teamBar b (recSize r) = some bar → s.baseOk pkg part j r b = true →
      ∃ t, exec (.teamPlacement q base) s = .next t ∧
        t = ((s.placeTeam pkg j r b bar (s.recordClk pkg part q.q.toNat)).onPkg pkg fun p =>
          { p with waiting := p.waiting.del n, nextq := p.nextq.put part ((q.q.toNat + 1) % 16) }).popFed pkg part q.q.toNat ∧
        ∀ i, i < recSize r → (t.core (b + i)).st = .running ∧ (t.core (b + i)).pc = r.truncate 64 ∧ (t.core (b + i)).job = j ∧
          (t.core (b + i)).rx 10 = r.extractLsb' 128 64 ∧ (t.core (b + i)).base = BitVec.ofNat 22 b ∧
          (t.core (b + i)).size = BitVec.ofNat 13 (recSize r)) ∧
    (let d := s.queueDesc pkg part q.q.toNat
     let e := s.engineRead none (qSlot d (qHead d)) 64
     let r : BitVec 512 := BitVec.ofNat 512 (leNat e.2)
     let x := e.1.engineWrite (s.queueAt pkg part q.q.toNat + 16) (toBytes 4 ((qHead d + 1) % 2 ^ 32)) false
     let i := e.1.recordJob pkg part q.q.toNat
     s.takeable pkg part q.q.toNat = true →
      (x.recordOk pkg part i r = true → ∃ t, exec (.launchRecordTake q) s = .next t ∧ t.mem = x.mem ∧
        (t.pkg pkg).waiting = (x.pkg pkg).waiting.put n (r, qSlot d (qHead d))) ∧
      (x.recordOk pkg part i r = false → exec (.launchRecordTake q) s =
        .next ((x.refuseRecord pkg part i r (4096 * pkg + 4 * recTile r) (qSlot d (qHead d))).popFed pkg part q.q.toNat))) ∧
    (let k := coreKey c
     let lq := cf d.w 16 4
     let home := (s.core k).job.part.toNat
     (s.core k).headOf .lnq = some d →
      (d.prog.nums = [] → s.released k d.age .pod = true → s.grab k d (cw1 d.w) 64 = (u, .ok (bs, false)) →
        u.mayLaunch k lq (BitVec.ofNat 512 (leNat bs)) = true →
        let v := u.onCmd k d.age fun e => { e with started := true, prog := { e.prog with nums := [leNat bs] } }
        (qFull (v.queueDesc (corePkg k) home lq) = true → exec (.launch c) s = .next v) ∧
        (qFull (v.queueDesc (corePkg k) home lq) = false → ∃ t, exec (.launch c) s = .next t ∧ t.Retired k d.age ∧
          t = (v.appendRecord (corePkg k) home lq (v.core k).job (v.clk k) (BitVec.ofNat 512 (leNat bs))).retireCmd k d)) ∧
      (d.prog.nums = m :: nums → qFull (s.queueDesc (corePkg k) home lq) = false →
        ∃ t, exec (.launch c) s = .next t ∧ t.Retired k d.age ∧
          t = (s.appendRecord (corePkg k) home lq (s.core k).job (s.clk k) (BitVec.ofNat 512 m)).retireCmd k d))

/-! ## Engine commands -/

/-- O54. R144, R194, R206, R207, R356: the oldest waiting command of the copy queue starts while fewer than four run, with the pieces of
a `COPY` (at most 64 bytes each) or of the list of a `GATHER` or `SCATTER`, after an entry in the provenance log where it writes
another package; its start writes nothing else. The pieces of one region that arrive are written one after another: a piece for the
core's own store is written at its place and leaves the command. A command with no piece left completes: it leaves its queue, and
only tag state changes. Choices of the model: the pieces of a region go together (Assumption 90, DEDUCED), a source is read when its
piece is written (Assumption 58, DESIGN CHOICE), and the oldest finished copy completes first (Assumption 51, DEDUCED). -/
def Obligations.CopyCommands : Prop :=
  ∀ (s u w y : State) (c : CoreId) (d f : Cmd) (n pkg va len : Nat) (p : Piece) (ps : List Piece) (b : PieceBits),
    let k := coreKey c
    let began (x t : State) : Prop := t = x.beginCopy k d ps ∧ t.mem = x.mem ∧
      ∀ e ∈ (t.core k).cmds, e.age = d.age → e.started = true ∧ e.prog.pieces = ps
    let begun (i : Instr) (op : Nat) : Prop :=
      (s.core k).cmds.find? (fun e => e.q == .cpq && !e.started) = some d → d.opc = op →
      ((s.core k).cmds.filter fun e => e.q == .cpq && e.started).length < 4 →
      (if op = 1 then u = s ∧ ps = copyPieces k d else s.listWaits k d = (w, false) ∧ w.listPieces k d = (u, ps)) →
      (u.leavesTo k d ps = none → ∃ t, exec i s = .next t ∧ began u t) ∧
      (u.leavesTo k d ps = some (pkg, va, len) → u.logProvenance k d.born pkg va len = some y →
        ∃ t, exec i s = .next t ∧ began y t)
    begun (.copy c) 1 ∧ begun (.gather c) 2 ∧ begun (.scatter c) 3 ∧
    (∀ q ∈ copyPieces k d, q.len ≤ 64) ∧
    (let ready := (s.core k).piecesReady
     ready[n % max ready.length 1]? = some (d, p) → exec (.copyPieceArrive c n) s =
      .next ((withPiece d d.prog.coming p).foldl (fun u q => u.pieceIfThere k d.age q) s)) ∧
    (let hd := f.hs.getD 0 0
     let key := storeBase k + hBase hd + pieceOff hd p
     (s.core k).cmds.find? (fun e => e.age == d.age && e.prog.pieces.contains p) = some f → destHome f = true →
      s.pieceBits k f p = (u, .ok b) → u.localClosed k (hBase hd + pieceOff hd p) p.len = false →
      let t := s.pieceIfThere k d.age p
      t = u.putHeld (putOf k f p key b) ∧ (∀ e ∈ (t.core k).cmds, e.age = f.age → p ∉ e.prog.pieces) ∧
        (u.Canon → isDram key = false → cf f.w 30 1 = 0 → ∀ a, a < key ∨ key + p.len ≤ a → memGet t.mem a = memGet u.mem a)) ∧
    ((s.core k).cmds.find? (fun e => e.q == .cpq && e.started && e.prog.pieces.isEmpty) = some d → s.Canon →
      ∃ t, exec (.copyComplete c) s = .next t ∧ t.Retired k d.age ∧ s.SameOutsideTags t ∧ (t.core k).x = (s.core k).x)

/-- O55. R176, R177, R194, R204, R208 to R214, R243 to R253, R272: what the commands at the head of the matrix queue do where no byte
is marked and the arbiter picks their core: an `ACC`, a `DRAIN` without absmax, a `NORM` and an `ALIAS` take their effect and complete;
on a tile whose other cores ask for nothing an `MMA` and an `SMM` run to their end, and an `MROT` sends its operands and multiplies;
operands arrive; a grant gives one unit of work to the core that the arbiter picks. A K-step of an `MMA` leaves in every word the sum of
R177 over its contraction indices, an INT32 sum exact modulo 2^32; a batch of an `SMM` adds to every word the sum of its 32 drawn
products; a `DRAIN` writes every element rounded under its block's scale, stored or computed, with full bits set, and nothing else, and
zeroes its accumulator where asked. Choices of the model: an event runs its command for as long as the arbiter picks it (Assumptions 49,
DESIGN CHOICE, and 77, DEDUCED); an `MROT` keeps the operands it read (Assumption 91, DEDUCED), and one that starts without its compact ends
at once (Assumption 107, DESIGN CHOICE); a clip raises saturated under any scale (Assumption 106, DEDUCED). -/
def Obligations.MatrixCommands : Prop :=
  ∀ (s : State) (c : CoreId) (ti : TileId) (d : Cmd) (w : Cand) (r : Rotated) (n : Nat),
    let k := coreKey c
    let T := coreTile k
    let a := cf d.w 16 3
    let v := s.tile T
    let h := d.hs.getD 0 0
    let head (op : Nat) : Prop := (s.core k).matrixHead op = some d ∧ s.marks = [] ∧ (d.started = true ∨ s.cmdClosed k d = none) ∧
      ∃ x n, s.matrixPick T = some (x, n) ∧ x.core = k
    let alone : Prop := ∀ i, i < 4 → 4 * T + i ≠ k → s.matrixReady (4 * T + i) = none
    let done (i : Instr) (f : Tile → Tile) : Prop :=
      ∃ t, exec i s = .next t ∧ t.Retired k d.age ∧ t.tile T = { f v with mstarve := (t.tile T).mstarve } ∧
        (∀ j, j ≠ T → t.tile j = s.tile j) ∧ (s.Canon → s.SameOutsideTags t) ∧ (t.core k).x = (s.core k).x
    (head 0x13 → cf d.w 19 2 = 0 → done (.accZero c) fun v =>
      ((v.putWords a (List.replicate 1024 0)).putType a (cf d.w 28 1 == 1)).putDivisor a 1) ∧
    (head 0x13 → cf d.w 19 2 = 1 → done (.accLoad c) fun v =>
      ((v.putWords a ((s.accElems k h).map (BitVec.ofNat 32))).putType a (cf d.w 28 1 == 1)).putDivisor a 1) ∧
    (head 0x13 → cf d.w 19 2 = 2 → v.isInt a = true → done (.accAdd c) fun v =>
      (v.putWords a ((v.words a).mapIdx fun e x => x + BitVec.ofNat 32 ((s.accElems k h).getD e 0))).putDivisor a 1) ∧
    (head 0x13 → cf d.w 19 2 = 3 → done (.accMove c) fun v =>
      let b := cf d.w 25 3
      ((v.putWords a (v.words b)).putType a (v.isInt b)).putDivisor a (v.divisor b)) ∧
    (∀ (x : Tile) (ws : List Word32) (b : Nat), x.acc.wfFrom 0 = true → ws.length = 1024 →
      (x.putWords a ws).words b = if b = a then ws else x.words b) ∧
    (head 0x10 → alone → d.prog.k < cf d.w 48 16 → ∃ t, exec (.mma c) s = .next t ∧ t.Retired k d.age ∧ (s.Canon → s.SameOutsideTags t) ∧
      (∀ b, b ≠ a → (t.tile T).words b = v.words b) ∧ (t.core k).x = (s.core k).x) ∧
    (∀ (ps : List (Elem × Elem)) (x : Word32),
      (dotInt ps x).1 = x + BitVec.ofInt 32 ((ps.map fun p => p.1.int * p.2.int).sum)) ∧
    (head 0x12 → cf d.w 28 1 = 0 → ∃ x t, s.Granted x T ∧ exec (.drain c) s = .next t ∧ t = (x.drainEffect k d).retireCmd k d ∧
      t.Retired k d.age ∧ (t.core k).x = (s.core k).x) ∧
    (head 0x11 → alone → d.started = false → d.prog.k < cf d.w 48 16 → s.gridOf T ≠ 0 →
      ∃ t, exec (.mrot c) s = .next t ∧ (t.tile T).rots = v.rots + 1 ∧ (t.tile T).rotated.find v.rots = some (k, 0) ∧
        (∃ e ∈ (t.core k).cmds, e.age = d.age ∧ e.started = true ∧ cf d.w 48 16 ≤ e.prog.k) ∧ t.mem = s.mem ∧
        (∀ b, b ≠ a → (t.tile T).words b = v.words b) ∧ (t.core k).x = (s.core k).x) ∧
    (let u := tileNum ti
     (s.tile u).arriving.find? (fun x => ((s.tile u).rotated.find x.n).isSome) = some r → s.Canon →
      ∃ t, exec (.mrotBytesArrive ti) s = .next t ∧
        (t.tile u).arriving = (s.tile u).arriving.filter (fun x => !(x.n == r.n && x.fromEast == r.fromEast)) ∧
        ∀ b, s.OutsideTags b → (∀ x ∈ (s.tile u).arriving, b < tileKey u x.off ∨ tileKey u x.off + x.bytes.length ≤ b) →
          memGet t.mem b = memGet s.mem b) ∧
    (head 0x18 → done (.norm c) fun v => { v with ladle := { v.ladle with
      owner := some k, stage := .normed, k := hCols h,
      nA := (List.range (hCols h)).map fun c => (normOf ((List.range 32).map fun r => s.elemOf k h r c)).1,
      nB := (List.range (hCols h)).map fun r => (normOf ((List.range 32).map fun c => s.elemOf k (d.hs.getD 1 0) r c)).1 } }) ∧
    (head 0x19 → v.ladle.owner = some k → v.ladle.stage ≠ .empty →
      ∃ t, exec (.aliasBuild c) s = .next t ∧ t.Retired k d.age ∧
        (t.tile T).ladle.x = (v.ladle.nA.zip v.ladle.nB).map (fun p => (mul32 p.1 p.2).1) ∧
        (t.tile T).ladle.s = (sum32 (t.tile T).ladle.x).1 ∧ (t.tile T).ladle.k = v.ladle.k ∧ (t.core k).x = (s.core k).x) ∧
    (head 0x1A → alone → d.prog.k = 0 → 0 < cf d.w 192 22 → cf d.w 192 22 % 32 = 0 →
      ∃ t, exec (.smm c) s = .next t ∧ t.Retired k d.age ∧ (t.tile T).smm = none ∧ (t.core k).x = (s.core k).x ∧
        (s.Canon → isTileCore k = true → 0x3000 ≤ cf d.w 224 20 → d.started = false → v.ladle.owner = some k → v.ladle.stage = .zero →
          t.readNat (storeBase k + cf d.w 224 20) 8 = 0 ∧ t.readNat (storeBase k + cf d.w 224 20 + 8) 8 = 3 * 2 ^ 48)) ∧
    (let u := tileNum ti
     let j := w.core
     s.matrixPick u = some (w, n) → s.matrixReady j = some d →
      (∃ x, s.Granted x u ∧ exec (.matrixKstepGrant ti) s = .next (x.matrixUnit j d)) ∧
      (d.opc = 0x10 → s.marks = [] → d.started = true ∨ s.cmdClosed j d = none → (s.tile u).acc.wfFrom 0 = true →
        ((s.tile u).words a).length = 1024 → ∃ t, exec (.matrixKstepGrant ti) s = .next t ∧
          (t.tile u).isInt a = (family d.fmtA == .integer) ∧
          ∀ e, e < 1024 → ((t.tile u).words a).getD e 0 = (dot (family d.fmtA)
            ((List.range d.stepLen).map fun i => ((s.elemA j d (e / 32) (d.prog.k + i)).1,
              s.elemOf j (d.hs.getD 1 0) (d.prog.k + i) (e % 32)))
            (if d.prog.k = 0 ∧ cf d.w 19 1 = 1 then 0 else ((s.tile u).words a).getD e 0)).1)) ∧
    (let t := s.smmBatch k d
     let ks := (List.range 32).map fun i =>
       drawIndex v.ladle (s.key k 1 (BitVec.ofNat 32 (cf d.w 32 32))) (BitVec.ofNat 64 (cw1 d.w)) (d.prog.k + i)
     s.marks = [] → v.acc.wfFrom 0 = true → (v.words a).length = 1024 →
      (t.tile T).isInt a = false ∧ ∀ e, e < 1024 → ((t.tile T).words a).getD e 0 =
        (addGroup (if d.prog.batch = 0 ∧ cf d.w 19 1 = 1 then 0 else (v.words a).getD e 0)
          (ks.map fun i => (Val.mul ((s.elemOf k h (e / 32) i).times (s.elemOf k (d.hs.getD 1 0) i (e % 32)))
            (f32Val (v.ladle.g.getD i 0))).1)).1) ∧
    (let t := s.drainEffect k d
     let st := storeBase k
     let f := hFmt h
     let at1 (e : Nat) : Nat := elemKey st h (e / 32) (e % 32)
     let key (e : Nat) : Nat := scaleKey st h (e / 32) (e % 32)
     let val (e : Nat) : Val := (clipped (accVal (v.isInt a) ((v.words a).getD e 0)) (f32Val (BitVec.ofNat 32 (cf d.w 64 32)))
       (f32Val (BitVec.ofNat 32 (cf d.w 96 32))) (v.divisor a)).1
     let byte (e : Nat) : Nat := scaleByte f (((List.range 1024).filter fun j => key j == key e).foldl
       (fun m j => maxMag m (val j)) (some Mag.zero))
     let computed : Bool := cf d.w 27 1 == 1
     let scale (e : Nat) : Option Int := if computed then scaleExp f (byte e) else s.scaleOf st h (e / 32) (e % 32)
     s.Canon → hRows h = 32 → hCols h = 32 → f < 22 → handleShape h = false → (v.words a).length = 1024 →
     (computed = true → hGeom h ≠ 0) →
      (∀ e, e < 1024 → t.isFull (at1 e) = true ∧ t.elem st h (e / 32) (e % 32) = (roundBlock f ((Rm.ofCode (fld d.w 24 3)).getD .rne)
        (scale e) (val e) (s.draw k (BitVec.ofNat 32 (cf d.w 32 32)) h d.dph (e / 32) (e % 32))).1 % 2 ^ hWidth h) ∧
      (∀ x, (∀ e, e < 1024 → x < at1 e ∨ at1 e + elemBytes h (e / 32) (e % 32) ≤ x) → (computed = true → ∀ e, e < 1024 → x ≠ key e) →
        memGet t.mem x = memGet s.mem x) ∧
      (cf d.w 19 1 = 1 → v.acc.wfFrom 0 = true → (t.tile T).words a = List.replicate 1024 0) ∧
      (cf d.w 19 1 = 0 → t.tiles = s.tiles))

/-- O56. R370 to R374: a `COLL` that may start, when its die's engine grants it, reads its descriptor, and its group forms when every
member has started; a chunk of a group commits once no access of it waits, and the last one completes every member's command; a member of
which a partner has not come in 2^30 clocks ends with BARRIER_TIMEOUT; a group re-forms without its dead members. Each member enters a
ring's sum exactly once. R375 to R378, R390: `OFFLOAD` writes 64 bytes at a time to the host, and ends when the host has answered its last
read; `REPLAY` asks for 64 bytes and writes what comes. -/
def Obligations.CollectiveAndOffloadCommands : Prop :=
  ∀ (s u v : State) (c : CoreId) (e : DieId) (a : HostAnswer) (d x : Cmd) (g : Coll) (m : CollMember) (ms : List CollMember)
    (gs : List Coll) (w : Cand) (st : SMap Nat)
    (key fn j : Nat) (bs : List Byte) (bad : Bool),
    let k := coreKey c
    let die := dieKey e.pkg.toNat e.die.toNat
    let starts (i : Instr) (kind : Nat) : Prop :=
      let open_ (y : Cmd) : Bool := y.q == .clq && collKind y.w == kind && y.started && !y.prog.counted
      s.collNext (coreDieKey k) = some (w, st) → w.core = k →
      (s.core k).cmds.find? (fun d => d.age == w.age && collKind d.w == kind) = some d → s.collStart k d = u →
      ((u.core k).cmds.any fun y => y.age == d.age && !y.started) = false → (u.core k).cmds.filter open_ = [x] →
      exec i s = .next ((u.onDie (coreDieKey k) fun n => { n with clstarve := st }).collMatch k x false)
    starts (.collAllreduce c) 0 ∧ starts (.collReduceScatter c) 1 ∧ starts (.collAllgather c) 2 ∧ starts (.collBroadcast c) 3 ∧
    starts (.collReduce c) 4 ∧
    (∀ n y : Nat, 0 < j → (ringOrder j n y).Perm (List.range j)) ∧
    (let per := g.chunkLen / collSize m.cmd.w
     let all := collDest m.cmd.w g.dies.length
     let lo := g.chunk * per
     let hi := min all ((g.chunk + 1) * per)
     let asks (p : Probe) : Prop := s.colls.filter (fun g => g.dies.contains die) = g :: gs ∧
       (∀ r ∈ g.alive, s.rankDead g r = false) ∧ s.collMembers g = some (m :: ms) ∧ s.collProbe g m.cmd.w (m :: ms) lo hi = (u, p)
     let y := u.collChunk g m.cmd.w (m :: ms) lo hi
     (asks .ok → all ≤ (g.chunk + 1) * per →
       ∃ t, exec (.collChunkCommit e) s = .next t ∧ g ∉ t.colls ∧ ∀ z ∈ m :: ms, t.Retired z.core z.cmd.age) ∧
     (asks .ok → ¬ all ≤ (g.chunk + 1) * per →
       exec (.collChunkCommit e) s = .next (y.collPut g { g with chunk := g.chunk + 1 })) ∧
     (asks .waits → gs = [] → exec (.collChunkCommit e) s = .next u)) ∧
    ((s.core k).cmds.find? (fun d => d.q == .clq && !d.prog.counted && decide (d.since + 2 ^ 30 ≤ s.time) && s.collMissing k d) = some d →
      s.Canon → s.faultPend k = false →
      ∃ t, exec (.collTimeout c) s = .next t ∧ t.Retired k d.age ∧ t.faultPend k = true ∧
        getFld (t.readNat (s.faultAt k) 32) 0 16 = 13 ∧ s.SameOutsideTags t) ∧
    (s.colls = [g] → g.dies.contains die = true → (∀ y ∈ s.cores, ∀ z ∈ y.2.cmds, z.q = .clq → z.prog.counted = true) →
      ∃ t, exec (.collReform e) s = .next t ∧ t.colls = [{ g with
        alive := g.alive.filter fun r => !s.rankDead g r }]) ∧
    (let p := d.prog
     let at1 := hostKey (corePkg k) (p.hba + p.off)
     (s.core k).headOf .ofq = some d → d.started = true → p.counted = false → p.more = true →
      (d.opc = 0x28 → s.grab k d (p.dva + p.off) 64 = (u, .ok (bs, bad)) → u.Canon → bs.length = 64 →
        ∃ t, exec (.offload c) s = .next t ∧ memRead t.hostMem at1 64 = bs ∧ t.mem = u.mem ∧
          (∀ b, b < at1 ∨ at1 + 64 ≤ b → memGet t.hostMem b = memGet u.hostMem b) ∧
          ∀ y ∈ (t.core k).cmds, y.age = d.age → ∃ z ∈ (u.core k).cmds, y.prog.off = z.prog.off + 64) ∧
      (d.opc = 0x29 → ∃ t, exec (.replay c) s = .next t ∧ t.mem = s.mem ∧ t.hostMem = s.hostMem ∧
        ∀ y ∈ (t.core k).cmds, y.age = d.age → y.prog.counted = true)) ∧
    (s.awaiting die = some (j, d) → d.opc = 0x28 → a = .ok → exec (.hostCompletion e a) s = .next (s.retireCmd j d)) ∧
    (s.awaiting die = some (j, d) → d.opc = 0x29 → a = .ok → s.engineAt j (d.prog.dva + d.prog.off) .wr = (v, .key key) →
      keyPkg key = corePkg j → isDram key = false → cf d.w 30 1 = 0 → v.Canon →
      ∃ t, exec (.hostCompletion e a) s = .next t ∧
        t.read key 64 = memRead s.hostMem (hostKey (corePkg j) (d.prog.hba + d.prog.off)) 64 ∧
        ∀ b, b < key ∨ key + 64 ≤ b → memGet t.mem b = memGet v.mem b) ∧
    (s.awaiting die = none → (s.pkg e.pkg.toNat).reporting = some fn → e.die = 0 → a = .ok →
      exec (.hostCompletion e a) s = .next (s.reportDone e.pkg.toNat fn))

/-! ## Threads -/

/-- O57. R16, R37, R39, R124, R273 to R281, R333, R339, R362, R366: `exit` ends the thread once all it asked for is done; `safe` and
`yield` start a save or pass; `gang` arrives, passes alone or in a gang once the phase has left its token, and traps where the token
is ahead or the barrier a compact's; a drained thread is saved and resumes at the pc its slot holds; a team's end is followed, tiles
change job, a quiesced tile moves; a supervisor marks, restarts, resumes, stops and ends; a churn starts; `qget` takes the next
record, with no register but its own changed. The model's choice: a save ends the mark (Assumption 43), what a saved image holds and how a tile
changes job (26, 28, 92, 93), and a `qget` raises the clock to the record's (81). -/
def Obligations.ThreadEvents : Prop :=
  ∀ (s : State) (c : CoreId) (g : Guard) (map : Word) (tm : Team) (jb : Job) (t : TileId) (pt : BitVec 7) (on : Bool) (bid : BitVec 6)
    (p : BitVec 8) (rd : XReg) (q : BitVec 3) (p1 p2 : PReg) (r : Grad) (st : SMap Nat) (pkg : BitVec 10) (cn : BitVec 5),
    let k := s.me
    let me := s.core k
    let j := coreKey c
    let u := tileNum t
    let from_ (i : Instr) : State := s.ready i
    (s.Runs (.exit g) → s.faultPend k = false → me.lost = false → s.quiet k = true → s.released k s.seq .pod = true →
      ∃ t, exec (.exit g) s = .next t ∧ (t.core k).st = .ended ∧ (t.core k).x = me.x ∧ (t.core k).pc = me.pc ∧
        (isTileCore k = true → t.mailUsed k = 0)) ∧
    (isChurn j = false → s.teamOver j = true → (s.pkg (corePkg j)).teams.find (s.core j).teamKey = some tm →
      exec (.teamEnd c) s = .next (s.endTeam j tm)) ∧
    (isTileCore j = true → (s.core j).alive = true → ∃ t, exec (.supervisorMark c on) s = .next t ∧ (t.core j).mark = !on ∧
      t.mem = s.mem ∧ ∀ i, i ≠ j → t.core i = s.core i) ∧
    (s.Runs (.safe g map) → (me.mark && isTileCore k) = false →
      ∃ t, exec (.safe g map) s = .next t ∧ s.Did t fun c => c.advance 16) ∧
    (s.Runs (.safe g map) → (me.mark && isTileCore k) = true →
      ∃ t, exec (.safe g map) s = .next t ∧ (t.core k).st = .saving ∧ (t.core k).saveMap = map ∧ (t.core k).savePc = me.pc ∧
        (t.core k).pc = me.pc + 16 ∧ (t.core k).x = me.x) ∧
    (s.Runs (.yield g) → (isTileCore k && (me.mark || (from_ (.yield g)).othersWait k)) = false →
      ∃ t, exec (.yield g) s = .next t ∧ s.Did t fun c => c.advance 8) ∧
    (s.Runs (.yield g) → (isTileCore k && (me.mark || (from_ (.yield g)).othersWait k)) = true →
      ∃ t, exec (.yield g) s = .next t ∧ (t.core k).st = .saving ∧ (t.core k).saveMap = 0x1FFFFFFFFFFFFFFF ∧
        (t.core k).pc = me.pc + 8 ∧ (t.core k).x = me.x) ∧
    (let b := bid.toNat
     let d := coreDieKey k
     s.Runs (.gang g bid) →
      (s.isCompactBar k b = true → s.Handles k → ∃ t, exec (.gang g bid) s = .next t ∧ s.TrapsTo t 3 (bid.zeroExtend 64)) ∧
      (s.isCompactBar k b = false → me.token = none →
        (s.member k b = true → s.hasArrived k b = false ∧ s.released k s.seq (s.barScope d b k) = true) →
        ∃ t, exec (.gang g bid) s = .next t ∧ (t.core k).token = some (s.phase k b) ∧
          (t.core k).bwaiting = some (bid, s.phase k b) ∧ (t.core k).pc = me.pc ∧ (t.core k).x = me.x ∧
          t.hasArrived k b = (s.hasArrived k b || s.member k b) ∧ t.phase k b = s.phase k b) ∧
      (s.isCompactBar k b = false → me.token = some p → 1 ≤ (s.phase k b - p).toNat → (s.phase k b - p).toNat < 128 →
        ∃ t, exec (.gang g bid) s = .next t ∧ (t.core k).pc = me.pc + 8 ∧ (t.core k).token = none ∧ (t.core k).x = me.x ∧
          (isTileCore k = true → k / 4 * 4 ∈ (from_ (.gang g bid)).gangOf k b →
            ∀ i ∈ (from_ (.gang g bid)).gangOf k b, (t.core i).gang = true ∧ (t.core i).pc = me.pc + 8)) ∧
      (s.isCompactBar k b = false → me.token = some p → 128 ≤ (s.phase k b - p).toNat → s.Handles k →
        ∃ t, exec (.gang g bid) s = .next t ∧ s.TrapsTo t 12 (p.zeroExtend 64))) ∧
    (s.savable j = true → s.Canon → ∃ t, exec (.threadSave c) s = .next t ∧ (t.core j).st = .saved ∧ (t.core j).x = (s.core j).x ∧
      (t.core j).tlb = [] ∧ (t.core j).mark = false ∧ (t.core j).amask = s.amaskOf j ∧ ((s.sup (coreDieKey j) 0x803) = 0 →
        t.read ((s.flushRc j).saveSlot j) ((s.flushRc j).context j).length = (s.flushRc j).context j)) ∧
    (let b := s.bringIn (coreTile j) (s.core j).job
     isTileCore j = true → s.resumable j = true → s.resumesBefore j = false → s.ladleHeld j = false → s.Canon →
      b.saveSlot j + 16 ≤ tileBase → ∃ t, exec (.threadResume c) s = .next t ∧ (t.core j).st = .running ∧
        (t.core j).pc = BitVec.ofNat 64 (b.readNat (b.saveSlot j + 8) 8)) ∧
    (s.allSaved u = true → s.savedJob u = some jb →
      ∃ v, exec (.tileImageSwap t) s = .next v ∧ v = s.bringIn u jb ∧ (v.tile u).job = some jb) ∧
    (s.allSaved u = true → s.savedJob u = none → (s.tile u).job = some jb → s.tileBusy u jb = true → s.recordWants u jb = true →
      exec (.tileImageSwap t) s = .next (s.swapOut u jb)) ∧
    (let Q := tileQuadKey u
     let other := (List.range 64).find? fun i => i != u % 64 && s.ptile (Q * 64 + i) == pt.toNat
     pt.toNat < 66 → s.quiesced u = true → (∀ i, other = some i → s.idleTile (Q * 64 + i) = true) →
      pt.toNat ∉ (s.quad Q).out → pt.toNat ∉ (s.quad Q).lost → (s.quad Q).testing ≠ some pt.toNat →
      ∃ v, exec (.tmapWrite t pt) s = .next v ∧ v.ptile u = pt.toNat ∧ (∀ i, other = some i → v.ptile (Q * 64 + i) = s.ptile u) ∧
        v.mem = s.mem ∧ v.cores = s.cores ∧ v.tiles = s.tiles) ∧
    (s.startRecord j = some tm →
      ((s.core j).st = .killed ∧ (s.core j).dead = true ∧ s.onGoodCore j = true) ∨ (s.core j).st = .stopped ∨
        (s.core j).st = .frozen →
      ∃ v, exec (.threadRestart c) s = .next v ∧ v = s.restartThread j tm ∧ (v.core j).st = .running ∧
        (v.core j).pc = tm.rcd.truncate 64) ∧
    ((s.core j).st = .stopped ∨ (s.core j).st = .frozen → ∃ v, exec (.threadSupervisorResume c) s = .next v ∧
      (v.core j).st = .running ∧ (v.core j).pc = (s.core j).tpc ∧ v.mem = s.mem) ∧
    (s.endWith j = [j] → (s.core j).st = .running → ∃ v, exec (.threadSupervisorEnd c) s = .next v ∧ (v.core j).st = .stopped ∧
      (v.core j).x = (s.core j).x) ∧
    ((isTileCore j && s.tileLost (coreTile j)) = false → (s.core j).st = .stopped → s.spent j = true →
      ∃ v, exec (.threadSupervisorEnd c) s = .next v ∧ (v.core j).st = .ended ∧
        ∀ d ∈ (v.core j).cmds, d ∈ (s.core j).cmds ∧ d.survives = true) ∧
    (let k := coreKey (.churn pkg cn)
     let part := s.partOf pkg.toNat (coreDie k)
     let b := s.engineRead none (s.startSlot k) 128
     let r : BitVec 512 := BitVec.ofNat 512 (leNat b.2)
     let n : Job := { part := BitVec.ofNat 2 part, ctx := BitVec.ofNat 12 (getFld (leNat b.2) 514 12) }
     (s.core k).alive = false → (s.pkg pkg.toNat).churns.find cn.toNat = none → s.serves pkg.toNat part = true →
      s.slotGo k = true → b.1.recordOk pkg.toNat part n r = true → recSize r = 1 → recTile r = 0 → recPin r = false →
      ∃ v, exec (.churnStart pkg cn) s = .next v ∧ (v.core k).st = .running ∧ (v.core k).pc = r.truncate 64 ∧ (v.core k).job = n) ∧
    (s.Runs (.qget g rd q p1 p2) → (from_ (.qget g rd q p1 p2)).nextGrad (gradKey k q.toNat) = some (r, st) →
      ∃ v, exec (.qget g rd q p1 p2) s = .next v ∧ (v.core k).x = (me.wx4 rd r.w).x ∧ (v.core k).pc = me.pc + 8 ∧
        (v.core k).p = (me.writePair p1 p2 (true, false)).p ∧ (v.core k).h = me.h ∧ r.clk ≤ v.clk k) ∧
    (s.Runs (.qget g rd q p1 p2) → (from_ (.qget g rd q p1 p2)).nextGrad (gradKey k q.toNat) = none → p1 ≠ 0 ∨ p2 ≠ 0 →
      ∃ v, exec (.qget g rd q p1 p2) s = .next v ∧ s.Did v fun c => (c.writePair p1 p2 (false, true)).advance 8)

/-- O58. R282 to R290, R307 to R313: a descriptor that does not stand on 32 bytes traps ALIGN; `sign` with every check passed claims its
barrier, and signs the tile once its release is done and no other compact pins its range; `sstep` and `dissolve` arrive at the compact
barrier, and all three complete when its phase has left their token behind: `sign` leaves the tile signed, `sstep` opens the boundary
window, `dissolve` returns every member to free mode; a descriptor that fails a check of R308 traps FORMAT, or PAGE for its own range;
a break traps COMPACT_BROKEN, both at the word that waits and, in place of check 5, at the next of the three; `xfer` pushes one copy
for each entry of its program; a phase that lasts too long breaks the compact. The model's choice: `dissolve` frees every member in one
step and `sign` waits for sectors that another compact pins (Assumption 53), and an arrival is made at the compact's own barrier with
the values of the word's descriptor (108). -/
def Obligations.CompactWords : Prop :=
  ∀ (s v y : State) (g : Guard) (ra : XReg) (cp : Compact) (p : BitVec 8) (w : Word × Nat) (ws : List (Word × Nat)) (dsc : Desc) (e : Nat)
    (d : DieId) (bid : BitVec 6) (id : BitVec 16) (jb : Job) (t0 : Nat) (x : Nat × Tile) (fl : Failed),
    let k := s.me
    let c := s.core k
    let T := coreTile k
    let va := c.rx ra
    let from_ (i : Instr) : State := s.ready i
    let passed (i : Instr) : Prop := s.Runs i ∧ c.token = some p ∧ c.broken = false ∧ (s.tile T).compact = some cp ∧
      cp.signer = some k ∧ s.phase k cp.bid.toNat ≠ p
    let read (i : Instr) : Prop := s.Runs i ∧ c.token = none ∧ c.plan = [] ∧ va.toNat % 32 = 0 ∧
      ∃ a hb eb, (from_ i).readMem k va.toNat 32 = (a, .ok (hb, false)) ∧ dsc.hdr = leNat hb ∧
        a.readMem k (va.toNat + 32) (32 * (dsc.nm + 1)) = (v, .ok (eb, false)) ∧
        dsc.entries = (List.range (dsc.nm + 1)).map fun i => getFld (leNat eb) (256 * i) 256
    let described (i : Instr) : Prop := read i ∧ v.descBad dsc = false ∧ dsc.entryOf k = some e
    let fresh : Prop := (v.tile T).compact = none ∧ (v.tile T).signing = none ∧ (v.tile T).scratchEnd ≤ dsc.poff ∧
      dsc.poff + 1024 * dsc.plen ≤ 0x100000 ∧ v.barTaken k dsc = false ∧ dsc.gridBad = false
    let clear (u : State) (f : Compact) : Prop := (f.pinned.any fun n => (u.sector n.1).pinned) = false ∧ u.released k u.seq .pod = true
    (∀ i, i = .sign g ra ∨ i = .xfer g ra ∨ i = .sstep g ra ∨ i = .dissolve g ra → s.Runs i → c.token = none → c.plan = [] →
      (s.tile T).signing = none → va.toNat % 32 ≠ 0 → s.Handles k → ∃ t, exec i s = .next t ∧ s.TrapsTo t 4 va) ∧
    (passed (.sign g ra) → ∃ t, exec (.sign g ra) s = .next t ∧ (t.tile T).compact = some { cp with signed := true } ∧
      (t.core k).pc = c.pc + 8 ∧ (t.core k).token = none ∧ (t.core k).x = c.x) ∧
    (passed (.sstep g ra) → cp.held = [] → ∃ t, exec (.sstep g ra) s = .next t ∧
      (t.tile T).compact = some { cp with window := true, held := [] } ∧ (t.core k).pc = c.pc + 8 ∧ (t.core k).x = c.x) ∧
    (passed (.dissolve g ra) → exec (.dissolve g ra) s = .next (((from_ (.dissolve g ra)).dissolveAll cp).finish k) ∧
      (T ∈ cp.tiles → (∀ u f, (s.tile u).compact = some f → f.held = []) →
        ∃ t, exec (.dissolve g ra) s = .next t ∧ (t.tile T).compact = none ∧ (t.core k).pc = c.pc + 8 ∧ (t.core k).x = c.x)) ∧
    (∀ i, (i = .sign g ra ∨ i = .sstep g ra ∨ i = .dissolve g ra) ∧ c.token = some p ∨ i = .xfer g ra ∧ c.plan = w :: ws →
      s.Runs i → c.broken = true → s.Handles k → ∃ t, exec i s = .next t ∧ (t.core k).tcause = 14 ∧ (t.core k).tpc = c.pc ∧
        (t.core k).tval = va ∧ (t.core k).inh = true ∧ (t.core k).pc = c.tvec ∧ (t.core k).broken = false ∧ (t.core k).x = c.x) ∧
    (∀ i, i = .xfer g ra ∨ i = .sstep g ra ∨ i = .dissolve g ra →
      (described i → (v.core k).broken = true → v.Handles k → ∃ t, exec i s = .next t ∧ (t.core k).tcause = 14 ∧
        (t.core k).tpc = (v.core k).pc ∧ (t.core k).tval = va ∧ (t.core k).inh = true ∧ (t.core k).pc = (v.core k).tvec ∧
        (t.core k).broken = false ∧ (t.core k).x = (v.core k).x) ∧
      (described i → (v.core k).broken = false → v.signs k dsc = false → exec i s = .next (v.trap k 3 va))) ∧
    (∀ i, i = .sign g ra ∧ (s.tile T).signing = none ∨ i = .xfer g ra ∨ i = .sstep g ra ∨ i = .dissolve g ra → read i →
      v.descBad dsc = true ∨ dsc.entryOf k = none → exec i s = .next (v.trap k 3 va)) ∧
    (described (.sign g ra) → (s.tile T).signing = none → ¬fresh → exec (.sign g ra) s = .next (v.trap k 3 va)) ∧
    (described (.sign g ra) → (s.tile T).signing = none → fresh →
      v.rangeCheck k (rangePages (getFld e 64 64) dsc.plen) = (y, some fl) → fl.grip = .fault causePage →
      exec (.sign g ra) s = .next (y.trap k 5 (BitVec.ofNat 64 fl.va))) ∧
    (described (.sign g ra) → (s.tile T).signing = none → fresh → v.rangeCheck k (rangePages (getFld e 64 64) dsc.plen) = (y, none) →
      let f := dsc.compact va (y.core k).job k (y.core k).base.toNat (y.rangeSectors k (getFld e 64 64) dsc.poff dsc.plen)
      let z := (y.claimBar k f).onTile T fun n => { n with signing := some f }
      exec (.sign g ra) s = .next (z.signOn k f) ∧ (clear z f → exec (.sign g ra) s = .next (z.signTile k f))) ∧
    (s.Runs (.sign g ra) → c.token = none → (s.tile T).signing = some cp → cp.signer = some k → clear (from_ (.sign g ra)) cp →
      exec (.sign g ra) s = .next ((from_ (.sign g ra)).signTile k cp)) ∧
    (∀ i, i = .sstep g ra ∧ v.transfersDone T = true ∨ i = .dissolve g ra → described i → (v.core k).broken = false →
      (v.tile T).compact = some cp → v.signs k dsc = true → v.released k v.seq .pod = true →
      exec i s = .next (v.arriveCompact k cp.bid.toNat (cp.agrees dsc))) ∧
    (s.Runs (.xfer g ra) → c.plan = w :: ws → c.broken = false → (s.tile T).compact = some cp → (s.tile T).req = none →
      c.queued .cpq + ws.length < 32 → (c.cmds.any fun d => d.q == .cpq && d.logWait) = false →
      ∃ t, exec (.xfer g ra) s = .next t ∧ (t.core k).pc = c.pc + 8 ∧ (t.core k).plan = [] ∧ (t.core k).x = c.x ∧
        ∃ new, (t.core k).cmds = c.cmds ++ new ∧ new.length = (w :: ws).length ∧ ∀ d ∈ new, d.xfer = true ∧ d.q = .cpq) ∧
    (let dk := dieKey d.pkg.toNat d.die.toNat
     (s.bar dk bid.toNat).kind = .compact id jb → (s.bar dk bid.toNat).since = some t0 → s.phaseReady dk bid.toNat = false →
      s.tiles.find? (fun y => tileDieKey y.1 == dk && (match y.2.compact with
        | some c => c.id == id && c.job == jb && decide (t0 + c.timeout * 1024 ≤ s.time)
        | none => false)) = some x →
      exec (.compactTimeout d bid) s = .next (s.breakCompact x.1))

/-! ## Faults, caches, packages -/

/-- O59. R289, R328, R330, R346, R348, R352, R354, R384: a refusal that arrives freezes its core; a beat is noted, and an interval that
ended without one is counted once; a fatal report, or a third interval in a row without a beat, declares a core dead, and one declared
already is left alone; its own report or the loss of every path declares a package dead; an uncorrectable error marks its word where the
core reads it, and a corrected one is counted; the test rotation drains, moves and tests a tile; retransmission changes nothing. The
model's choice: where a soft error strikes and counts (Assumption 67), the beat of a package as one instant at every live package (62),
and the test's result as an operand of its event (68). -/
def Obligations.FaultEvents : Prop :=
  ∀ (s u : State) (c : CoreId) (va pc : Word) (ph : PhysCore) (a b pkg : BitVec 10) (q : QuadId) (n p t0 t sp key : Nat),
    let k := coreKey c
    let die := ph.dieNum
    let Q := q.key
    ((s.core k).refusal = some (va, pc) → (s.core k).st = .running → ∃ t, exec (.accessRefusal c) s = .next t ∧
      (t.core k).st = .frozen ∧ (t.core k).refusal = none ∧ (t.core k).tcause = 6 ∧ (t.core k).tval = va ∧
      (t.core k).tpc = (s.core k).pc ∧ (t.core k).x = (s.core k).x) ∧
    ((s.core k).report = true → (s.core k).st = .killed → (s.core k).dead = false → ∃ t, exec (.fatalReport c) s = .next t ∧
      (t.core k).dead = true ∧ (t.core k).report = false ∧ (t.core k).x = (s.core k).x) ∧
    (s.beats ph = true → ∃ t, exec (.heartbeat ph) s = .next t ∧ (t.die die).beat.find ph.index = some (s.beatNow + 1) ∧
      t.mem = s.mem ∧ t.cores = s.cores) ∧
    (let miss := (s.die die).missed.get 0 ph.index + if s.beatNow ≤ (s.die die).beat.get 0 ph.index then 0 else 1
     s.beats ph = false → ph.ptile.toNat < 66 → (s.die die).counted.get 0 ph.index < s.beatNow →
      (miss < 3 → ∃ t, exec (.heartbeatMiss ph) s = .next t ∧ (t.die die).missed.get 0 ph.index = miss ∧
        (t.die die).counted.get 0 ph.index = s.beatNow ∧ t.mem = s.mem ∧ t.cores = s.cores) ∧
      (3 ≤ miss → (s.die die).declared.get false ph.index = true → ∃ t, exec (.heartbeatMiss ph) s = .next t ∧
        t.mem = s.mem ∧ t.cores = s.cores ∧ t.quads = s.quads) ∧
      (3 ≤ miss → (s.die die).declared.get false ph.index = false → s.servedCore ph = some n →
        ∃ t, exec (.heartbeatMiss ph) s = .next t ∧ (t.core n).dead = true)) ∧
    ((s.pkg pkg.toNat).off = false → (s.pkg pkg.toNat).dead = false → ∃ t, exec (.pkgHeartbeat pkg) s = .next t ∧ t.mem = s.mem ∧
      ∀ m ∈ s.livePkgs, (t.pkg m).beat.find pkg.toNat = some true) ∧
    ((s.pkg pkg.toNat).dead = false → ∃ t, exec (.pkgDead pkg) s = .next t ∧ (t.pkg pkg.toNat).dead = true) ∧
    (∃ t, exec (.linkFailure a b true) s = .next t ∧ (a.toNat, b.toNat) ∈ t.linksDown ∧ { t with linksDown := s.linksDown } = s) ∧
    ((s.pkg b.toNat).dead = false → ∃ t, exec (.linkFailure a b false) s = .next t ∧ (t.pkg b.toNat).dead = true) ∧
    exec (.ueRetransmit c n) s = .next s ∧
    (let T := coreTile k
     let held := isTileCore k && isDram key && (u.pinnedAt key).isNone
       && (u.tile T).blocks.any fun b => b.pa == key / 64 * 64 && u.valid T b
     let home := u.realKey key
     let at1 := if held then coreDieKey k else dieKey (keyPkg home) (keyDie home)
     s.resolve k va.toNat .rd = (u, some key) →
      (held = false → ∃ t, exec (.softError va c true) s = .next t ∧ t.isMarked home = true ∧ t.mem = u.mem ∧ t.cores = u.cores) ∧
      (held = true → ∃ t, exec (.softError va c true) s = .next t ∧ t.mem = u.mem ∧ t.marks = u.marks ∧ t.cores = u.cores ∧
        ∀ b ∈ (t.tile T).blocks, b.pa = key / 64 * 64 → b.bad.getLsbD (key % 64 / 8) = true) ∧
      ∃ t, exec (.softError va c false) s = .next t ∧ t.mem = u.mem ∧ t.marks = u.marks ∧
        t.sup at1 0x850 = if u.sup at1 0x850 = BitVec.allOnes 64 then BitVec.allOnes 64 else u.sup at1 0x850 + 1) ∧
    ((s.quad Q).testing = none → (s.quad Q).drain = none → (s.skimctl Q).testBit 0 = true →
      (s.quad Q).lastTurn + getFld (s.skimctl Q) 16 32 * 2 ^ 16 ≤ s.time → (s.quad Q).nextTile = some p →
      (s.onPtile Q p = none → ∃ v, exec (.skimTurn q) s = .next v ∧ (v.quad Q).testing = some p ∧ v.cores = s.cores) ∧
      (s.onPtile Q p = some t → ∃ v, exec (.skimTurn q) s = .next v ∧ (v.quad Q).drain = some (p, s.time) ∧
        ∀ i, i < 4 → (v.core (4 * t + i)).mark = (s.core (4 * t + i)).alive)) ∧
    ((s.quad Q).testing = none → (s.quad Q).drain = some (p, t0) → s.onPtile Q p = some t →
      (List.range 66).find? (fun i => i != p && s.idleSpare Q i) = some sp → s.quiesced t = true →
      ∃ v, exec (.skimTurn q) s = .next v ∧ (v.quad Q).testing = some p ∧ (v.quad Q).drain = none ∧ v.mem = s.mem) ∧
    ((s.quad Q).drain = some (p, t0) → t0 + 2 ^ 26 ≤ s.time → ∃ v, exec (.skimQuiesceTimeout q) s = .next v ∧
      (v.quad Q).drain = none ∧ (v.quad Q).turn = (p + 1) % 66 ∧ (v.quad Q).out = (s.quad Q).out ∧ v.mem = s.mem) ∧
    ((s.quad Q).testing = some p → ∃ v, exec (.skimResult q true) s = .next v ∧ (v.quad Q).testing = none ∧
      (v.quad Q).passes.get 0 p = (s.quad Q).passes.get 0 p + 1 ∧ (v.quad Q).out = (s.quad Q).out ∧ v.mem = s.mem) ∧
    ((s.quad Q).testing = some p → ∃ v, exec (.skimResult q false) s = .next v ∧ (v.quad Q).testing = none ∧
      (v.quad Q).out = (s.quad Q).out ++ [p] ∧ (v.quad Q).passes = (s.quad Q).passes)

/-- O60. R152 to R155, R163, R164, R269, R379 to R391: fills, grants and clocks; a walk fills the micro-TLB; the host reads and writes what
its access tables grant, and its control block; a merge begins, completes and times out; a report is written; boot, power, clocks,
memory that leaves, and a kernel's label. The model's choice: what a power-off clears (Assumption 66), the partitions that boot makes
(64) and how it checks an image (21), the tables of a merge (65), and memory that leaves (87). -/
def Obligations.CachesAndHost : Prop :=
  ∀ (s : State) (t : TileId) (pa : BitVec 57) (n : Nat) (o : Option (BitVec 10)) (c : CoreId) (va : Word) (e : Tlb) (pkg : BitVec 10)
    (fn : BitVec 2) (mask : BitVec 4) (m : Merge) (off : BitVec 42) (bs : List Byte) (d : DieId) (i mhz mv cap : Nat) (port : BitVec 1)
    (ctx : BitVec 12) (entry : Word) (b2 : Bool),
    let u := tileNum t
    let P := pkg.toNat
    let F := fn.toNat
    let key := P * 2 ^ 47 + off.toNat
    let route (n : Nat) (w : Bool) : Route := s.hostRoute P F off.toNat n w
    (s.cacheable u pa.toNat = true → (s.tile u).blocks.any (fun b => b.pa == pa.toNat / 64 * 64 && b.owned) = false →
      ∃ v, exec (.tileCacheFill t pa) s = .next v ∧ v = s.fillBlock u pa.toNat true false) ∧
    (s.cacheable u pa.toNat = true → (s.sector (pa.toNat / 1024)).owner ≠ some u →
      ∃ v, exec (.ownershipGrant t pa) s = .next v ∧ (v.sector (pa.toNat / 1024)).owner = some u ∧
        (s.sector (pa.toNat / 1024)).rts < (v.sector (pa.toNat / 1024)).wts ∧ (v.sector (pa.toNat / 1024)).wts ≤ v.clock u) ∧
    (∃ v, exec (.logicalClockTick t n) s = .next v ∧ v.clock u = s.clock u + n ∧ v.mem = s.mem ∧ v.cores = s.cores) ∧
    (∃ v, exec (.clockMinUpdate o) s = .next v ∧ v.mem = s.mem ∧ v.cores = s.cores ∧ s.podMin ≤ v.podMin ∧
      (o = none → s.minClock 0 (1024 * 1024) ≤ v.podMin) ∧
      (o = some pkg → s.minClock (1024 * P) 1024 ≤ v.pkgMin.get 0 P ∧ s.pkgMin.get 0 P ≤ v.pkgMin.get 0 P)) ∧
    (s.pageWalk (corePkg (coreKey c)) (s.core (coreKey c)).job va.toNat = some e →
      ∃ v, exec (.pageWalk c va) s = .next v ∧ e ∈ (v.core (coreKey c)).tlb ∧ v.mem = s.mem) ∧
    (s.posted = [] → route n false = .ok → exec (.hostRead pkg fn ⟨true, off⟩ n) s = .next (s.hostGet key n) ∧
      (n ≠ 0 → key % 64 + n ≤ 64 → exec (.hostRead pkg fn ⟨true, off⟩ n) s =
        .next { (s.engineRead none key n).1 with hostReply := some (s.engineRead none key n).2 })) ∧
    (s.posted = [] → route n false ≠ .ok → route n false ≠ .held →
      exec (.hostRead pkg fn ⟨true, off⟩ n) s = .next { s with hostReply := none }) ∧
    (s.posted = [] → s.present P F = true → off.toNat + n ≤ 2 ^ 16 → ∃ v r, exec (.hostRead pkg fn ⟨false, off⟩ n) s = .next v ∧
      v = { s with hostReply := some r } ∧ r.length = n ∧
      ∀ j, j < n → r.getD j 0 = if off.toNat + j < 64 then (toBytes 64 (s.controlImage P F)).getD (off.toNat + j) 0 else 0) ∧
    (s.posted = [] → route bs.length true = .ok → bs ≠ [] → key % 64 + bs.length ≤ 64 →
      exec (.hostWrite pkg fn true off bs) s = .next (s.engineWrite key bs false)) ∧
    (s.posted = [] → route bs.length true ≠ .ok → route bs.length true ≠ .held → exec (.hostWrite pkg fn true off bs) s = .next s) ∧
    (s.posted = [] → s.present P F = true → off = 16 → bs.length = 8 → ∃ v, exec (.hostWrite pkg fn false off bs) s = .next v ∧
      (v.control P F).nonce = BitVec.ofNat 64 (leNat bs) ∧ (v.control P F).raddr = (s.control P F).raddr ∧
      (v.control P F).mst = (s.control P F).mst ∧ v.mem = s.mem ∧ v.cores = s.cores) ∧
    (s.posted = [] → s.present P F = false → exec (.hostWrite pkg fn b2 off bs) s = .next s) ∧
    (s.present P F = true → (s.pkg P).merges.find? (fun m => m.p == F) = none → mask ≠ 0 → (s.pkg P).byMask mask = some n → n ≠ F →
      s.anyLive P (max F n) = false → s.merging P F = false → s.merging P n = false →
      ∃ v, exec (.mergeRequest pkg fn mask) s = .next v ∧ (v.control P F).mst = 1 ∧ (v.control P F).mreq = mask ∧
        (∃ sn, { p := F, q := n, since := s.time, seen := sn, seenAt := s.time } ∈ (v.pkg P).merges) ∧ v.mem = s.mem) ∧
    (s.present P F = true → (s.pkg P).merges.find? (fun m => m.p == F) = some m → s.time < m.since + 2 ^ 24 →
      s.time < m.seenAt + 4096 → s.drained P m.p m = true → s.drained P m.q m = true → ∃ v, exec (.mergeRequest pkg fn mask) s = .next v ∧
        (v.control P m.p).mst = 2 ∧ m ∉ (v.pkg P).merges ∧ (v.pkg P).parts = ((s.pkg P).parts.del (max m.p m.q)).put (min m.p m.q)
          ((s.pkg P).parts.get 0 (min m.p m.q) ||| (s.pkg P).parts.get 0 (max m.p m.q))) ∧
    ((s.pkg P).merges.find? (fun m => decide (m.since + 2 ^ 24 ≤ s.time)) = some m →
      ∃ v, exec (.mergeDrainTimeout pkg) s = .next v ∧ m ∉ (v.pkg P).merges ∧ (v.control P m.p).mst = 3 ∧
        (v.pkg P).parts = (s.pkg P).parts ∧ v.mem = s.mem) ∧
    (s.present P F = true → (s.pkg P).merges.find? (fun m => m.p == F) = some m → m.seenAt + 4096 ≤ s.time →
      let m1 : Merge := { m with
        seen := (s.tailsOf P m.q).foldl (fun r e => r.put e.1 e.2) (s.tailsOf P m.p), seenAt := s.time }
      (s.drained P m.p m1 = false → ∃ v, exec (.mergeRequest pkg fn mask) s = .next v ∧ m1 ∈ (v.pkg P).merges ∧
        (v.pkg P).parts = (s.pkg P).parts ∧ v.mem = s.mem) ∧
      (s.time < m.since + 2 ^ 24 → s.drained P m.p m1 = true → s.drained P m.q m1 = true →
        ∃ v, exec (.mergeRequest pkg fn mask) s = .next v ∧ (v.control P m.p).mst = 2 ∧ m1 ∉ (v.pkg P).merges)) ∧
    (s.present P F = true → (s.control P F).areq = false → (s.pkg P).reporting = none →
      ∃ v, exec (.attestationRequest pkg fn) s = .next v ∧ (v.control P F).areq = true ∧ (v.control P F).asked = none ∧ (v.pkg P).reporting = some F ∧
        v.mem = s.mem ∧ v.cores = s.cores ∧ (s.Canon → memRead v.hostMem (hostKey P (s.control P F).raddr.toNat) 320 =
          s.reportBody P F (s.control P F).nonce)) ∧
    ((s.pkg P).booted = false → (s.pkg P).bootFailed = false → ∃ v, exec (.boot pkg) s = .next v ∧ v.mem = s.mem ∧
      if (List.range 4).all (imageGood P) = true then (v.pkg P).booted = true ∧ (v.pkg P).parts = bootParts P ∧
        ∀ r, r < 4 → (v.pkg P).meas.get 0 r = extend ((s.pkg P).meas.get 0 r) (Config.bootDigest P r)
      else (v.pkg P).bootFailed = true ∧ (v.pkg P).parts = (s.pkg P).parts) ∧
    ((s.pkg d.pkg.toNat).dead = false → ∃ v, exec (.thermalTrip d) s = .next v ∧ (v.pkg d.pkg.toNat).dead = true ∧
      (v.die (dieKey d.pkg.toNat d.die.toNat)).off = true) ∧
    (i < 1152 → (i < 1056 → 1200 ≤ mhz ∧ mhz ≤ 4400) → ∃ v, exec (.islandClockChange pkg i mhz mv) s = .next v ∧
      v.island P i = (mhz, mv) ∧ v.mem = s.mem ∧ v.cores = s.cores) ∧
    (∃ v, exec (.cxlHotRemove pkg port cap) s = .next v ∧ (v.pkg P).cxl.find port.toNat = some (min (cap / 2 ^ 28 * 2 ^ 28) (2 ^ 42)) ∧
      v.mem = s.mem ∧ v.cores = s.cores) ∧
    (∃ v, exec (.powerOff pkg) s = .next v ∧ (v.pkg P).off = true ∧ (v.pkg P).meas = [] ∧ (v.pkg P).parts = [] ∧
      (v.pkg P).booted = false) ∧
    (∀ l ∈ (s.pkg P).kernels, l.part = F → l.ctx = ctx.toNat → l.entry = entry → l.label = none → l.since + 2 ^ 20 ≤ s.time →
      ∃ v, exec (.kernelLabel pkg fn ctx entry) s = .next v ∧ v.mem = s.mem ∧ v.cores = s.cores ∧
        { l with label := some (labelOf l.d l.o) } ∈ (v.pkg P).kernels)
end

