-- ==== Sys2Proof/Laws/Memory.lean ====
section
/-! SUPPORT. Reads after writes of sparse maps and of the memory list, and its canonical form. -/

namespace Sys2Proof
namespace Machine

/-! ## Sparse maps -/

theorem SMap.find_put_same {α : Type} (m : SMap α) (k : Nat) (v : α) : (m.put k v).find k = some v := by
  induction m with
  | nil => simp [SMap.put, SMap.find]
  | cons e m ih =>
    obtain ⟨k', v'⟩ := e
    simp only [SMap.put]
    split
    · simp [SMap.find]
    · split
      · simp [SMap.find]
      · rename_i h
        simp [SMap.find, h, ih]

theorem SMap.find_put_other {α : Type} (m : SMap α) {k j : Nat} (v : α) (h : j ≠ k) : (m.put k v).find j = m.find j := by
  induction m with
  | nil => simp [SMap.put, SMap.find, h]
  | cons e m ih =>
    obtain ⟨k', v'⟩ := e
    simp only [SMap.put]
    split
    · simp [SMap.find, h]
    · split
      · rename_i hk; subst hk; simp [SMap.find, h]
      · simp [SMap.find, ih]

@[simp] theorem SMap.get_put_same {α : Type} (m : SMap α) (d : α) (k : Nat) (v : α) : (m.put k v).get d k = v := by
  simp [SMap.get, SMap.find_put_same]

theorem SMap.get_put_other {α : Type} (m : SMap α) (d : α) {k j : Nat} (v : α) (h : j ≠ k) : (m.put k v).get d j = m.get d j := by
  simp [SMap.get, SMap.find_put_other m v h]

theorem SMap.find_del_other {α : Type} (m : SMap α) {k j : Nat} (h : j ≠ k) : (m.del k).find j = m.find j := by
  induction m with
  | nil => rfl
  | cons e m ih =>
    obtain ⟨k', v'⟩ := e
    simp only [SMap.del]
    split
    · rename_i hk; subst hk; simp [SMap.find, h]
    · simp [SMap.find, ih]

theorem SMap.find_of_wfFrom {α : Type} {m : SMap α} {lo k : Nat} (h : m.wfFrom lo = true) (hk : k < lo) : m.find k = none := by
  induction m generalizing lo with
  | nil => rfl
  | cons e m ih =>
    obtain ⟨k', v'⟩ := e
    simp only [SMap.wfFrom, Bool.and_eq_true, decide_eq_true_eq] at h
    simp only [SMap.find]
    rw [if_neg (by omega)]
    exact ih h.2 (by omega)

theorem SMap.find_del_same {α : Type} {m : SMap α} {lo : Nat} (k : Nat) (h : m.wfFrom lo = true) : (m.del k).find k = none := by
  induction m generalizing lo with
  | nil => rfl
  | cons e m ih =>
    obtain ⟨k', v'⟩ := e
    simp only [SMap.wfFrom, Bool.and_eq_true, decide_eq_true_eq] at h
    simp only [SMap.del]
    split
    · rename_i hk; subst hk; exact SMap.find_of_wfFrom h.2 (by omega)
    · rename_i hk; simp [SMap.find, hk, ih h.2]

theorem SMap.wfFrom_mono {α : Type} {m : SMap α} {lo lo' : Nat} (h : m.wfFrom lo = true) (hl : lo' ≤ lo) : m.wfFrom lo' = true := by
  cases m with
  | nil => rfl
  | cons e m =>
    obtain ⟨k, v⟩ := e
    simp only [SMap.wfFrom, Bool.and_eq_true, decide_eq_true_eq] at h ⊢
    exact ⟨by omega, h.2⟩

theorem SMap.wfFrom_put {α : Type} {m : SMap α} {lo k : Nat} (v : α) (h : m.wfFrom lo = true) (hk : lo ≤ k) :
    (m.put k v).wfFrom lo = true := by
  induction m generalizing lo with
  | nil => simp [SMap.put, SMap.wfFrom, hk]
  | cons e m ih =>
    obtain ⟨k', v'⟩ := e
    simp only [SMap.wfFrom, Bool.and_eq_true, decide_eq_true_eq] at h
    simp only [SMap.put]
    split
    · simp only [SMap.wfFrom, Bool.and_eq_true, decide_eq_true_eq]; exact ⟨hk, by omega, h.2⟩
    · split
      · rename_i he; subst he; simp only [SMap.wfFrom, Bool.and_eq_true, decide_eq_true_eq]; exact ⟨hk, h.2⟩
      · simp only [SMap.wfFrom, Bool.and_eq_true, decide_eq_true_eq]; exact ⟨h.1, ih h.2 (by omega)⟩

theorem SMap.wfFrom_del {α : Type} {m : SMap α} {lo : Nat} (k : Nat) (h : m.wfFrom lo = true) : (m.del k).wfFrom lo = true := by
  induction m generalizing lo with
  | nil => rfl
  | cons e m ih =>
    obtain ⟨k', v'⟩ := e
    simp only [SMap.wfFrom, Bool.and_eq_true, decide_eq_true_eq] at h
    simp only [SMap.del]
    split
    · exact SMap.wfFrom_mono h.2 (by omega)
    · simp only [SMap.wfFrom, Bool.and_eq_true, decide_eq_true_eq]; exact ⟨h.1, ih h.2⟩

theorem SMap.wfFrom_filter {α : Type} {m : SMap α} {lo : Nat} (f : Nat × α → Bool) (h : m.wfFrom lo = true) :
    SMap.wfFrom lo (List.filter f m) = true := by
  induction m generalizing lo with
  | nil => rfl
  | cons e m ih =>
    obtain ⟨k', v'⟩ := e
    simp only [SMap.wfFrom, Bool.and_eq_true, decide_eq_true_eq] at h
    rw [List.filter_cons]
    split
    · simp only [SMap.wfFrom, Bool.and_eq_true, decide_eq_true_eq]; exact ⟨h.1, ih h.2⟩
    · exact SMap.wfFrom_mono (ih h.2) (by omega)

theorem SMap.all_put {α : Type} {m : SMap α} {k : Nat} {v : α} (f : Nat × α → Bool) (h : List.all m f = true) (hv : f (k, v) = true) :
    List.all (m.put k v) f = true := by
  induction m with
  | nil => simp [SMap.put, hv]
  | cons e m ih =>
    obtain ⟨k', v'⟩ := e
    simp only [List.all_cons, Bool.and_eq_true] at h
    simp only [SMap.put]
    split
    · simp [hv, h.1, h.2]
    · split
      · simp [hv, h.2]
      · simp [h.1, ih h.2]

theorem SMap.all_del {α : Type} {m : SMap α} (k : Nat) (f : Nat × α → Bool) (h : List.all m f = true) :
    List.all (m.del k) f = true := by
  induction m with
  | nil => rfl
  | cons e m ih =>
    obtain ⟨k', v'⟩ := e
    simp only [List.all_cons, Bool.and_eq_true] at h
    simp only [SMap.del]
    split
    · exact h.2
    · simp [h.1, ih h.2]

/-! ## The memory list -/

/-- A write of one byte keeps the canonical form. -/
theorem Memory.wf_memPut {m : List Host.Cell} (a : Nat) (b : Byte) (h : Memory.wf m = true) : Memory.wf (memPut m a b) = true := by
  simp only [Memory.wf, Bool.and_eq_true] at h ⊢
  unfold memPut
  split
  · exact ⟨SMap.wfFrom_del a h.1, SMap.all_del a _ h.2⟩
  · rename_i hb
    exact ⟨SMap.wfFrom_put b h.1 (Nat.zero_le a), SMap.all_put _ h.2 (by simpa using hb)⟩

/-- A write of bytes keeps the canonical form. -/
theorem Memory.wf_memWrite (bs : List Byte) : ∀ {m : List Host.Cell} (a : Nat), Memory.wf m = true → Memory.wf (memWrite m a bs) = true := by
  induction bs with
  | nil => intro m a h; exact h
  | cons b bs ih => intro m a h; exact ih (a + 1) (Memory.wf_memPut a b h)

/-- Unlisting cells keeps the canonical form. -/
theorem Memory.wf_filter {m : List Host.Cell} (f : Host.Cell → Bool) (h : Memory.wf m = true) : Memory.wf (m.filter f) = true := by
  simp only [Memory.wf, Bool.and_eq_true] at h ⊢
  refine ⟨SMap.wfFrom_filter f h.1, ?_⟩
  rw [List.all_eq_true] at h ⊢
  intro x hx
  exact h.2 x (List.mem_filter.1 hx).1

/-- What is read back at the address of a write. -/
theorem memGet_memPut_same {m : List Host.Cell} (a : Nat) (b : Byte) (h : Memory.wf m = true) : memGet (memPut m a b) a = b := by
  simp only [Memory.wf, Bool.and_eq_true] at h
  unfold memGet memPut
  split
  · rename_i hb; simp [SMap.get, SMap.find_del_same a h.1, hb]
  · simp

/-- A write leaves every other byte. -/
theorem memGet_memPut_other (m : List Host.Cell) {a x : Nat} (b : Byte) (h : x ≠ a) : memGet (memPut m a b) x = memGet m x := by
  unfold memGet memPut
  split
  · simp [SMap.get, SMap.find_del_other m h]
  · exact SMap.get_put_other m _ b h

/-- A write of bytes leaves every byte outside them. -/
theorem memGet_memWrite_other (bs : List Byte) : ∀ (m : List Host.Cell) {a x : Nat}, x < a ∨ a + bs.length ≤ x →
    memGet (memWrite m a bs) x = memGet m x := by
  induction bs with
  | nil => intro m a x _; rfl
  | cons b bs ih =>
    intro m a x h
    simp only [List.length_cons] at h
    simp only [memWrite]
    rw [ih _ (by omega), memGet_memPut_other m b (by omega)]

/-- A write of bytes is read back byte by byte. -/
theorem memGet_memWrite_at (bs : List Byte) : ∀ {m : List Host.Cell} (a i : Nat), Memory.wf m = true → (h : i < bs.length) →
    memGet (memWrite m a bs) (a + i) = bs[i] := by
  induction bs with
  | nil => intro m a i _ h; simp at h
  | cons b bs ih =>
    intro m a i hm h
    simp only [memWrite]
    cases i with
    | zero =>
      rw [Nat.add_zero, memGet_memWrite_other bs _ (by omega)]
      exact memGet_memPut_same a b hm
    | succ i =>
      have := ih (a + 1) i (Memory.wf_memPut a b hm) (by simpa using h)
      simpa [Nat.add_assoc, Nat.add_comm 1 i] using this

theorem memRead_length (m : List Host.Cell) (a n : Nat) : (memRead m a n).length = n := by
  induction n generalizing a with
  | zero => rfl
  | succ n ih => simp [memRead, ih]

theorem memRead_get (m : List Host.Cell) (a n i : Nat) (h : i < n) : (memRead m a n)[i]? = some (memGet m (a + i)) := by
  induction n generalizing a i with
  | zero => omega
  | succ n ih =>
    cases i with
    | zero => simp [memRead]
    | succ i => simp only [memRead, List.getElem?_cons_succ]; rw [ih (a + 1) i (by omega)]; congr 2; omega

/-- Memories that agree on a range read alike. -/
theorem memRead_congr {m m' : List Host.Cell} (a n : Nat) (h : ∀ i, i < n → memGet m (a + i) = memGet m' (a + i)) :
    memRead m a n = memRead m' a n := by
  induction n generalizing a with
  | zero => rfl
  | succ n ih =>
    simp only [memRead]
    rw [show memGet m a = memGet m' a from h 0 (by omega)]
    congr 1
    exact ih (a + 1) fun i hi => by have := h (i + 1) (by omega); rwa [show a + (i + 1) = a + 1 + i by omega] at this

end Machine
end Sys2Proof
end

