-- ==== Sys2Proof/Laws/Canon.lean ====
section
/-! SUPPORT. Every operation of the model keeps the canonical form of the state. -/

namespace Sys2Proof
namespace Machine

theorem SMap.wfFrom_map {α β : Type} {m : SMap α} {lo : Nat} (f : Nat × α → Nat × β) (hf : ∀ e, (f e).1 = e.1)
    (h : m.wfFrom lo = true) : SMap.wfFrom lo (List.map f m) = true := by
  induction m generalizing lo with
  | nil => rfl
  | cons e m ih =>
    have he := hf e
    obtain ⟨k, v⟩ := e
    simp only [SMap.wfFrom, Bool.and_eq_true, decide_eq_true_eq] at h
    rw [List.map_cons]
    rcases hfe : f (k, v) with ⟨k', v'⟩
    simp only [hfe] at he
    simp only [SMap.wfFrom, Bool.and_eq_true, decide_eq_true_eq]
    subst he
    exact ⟨h.1, ih h.2⟩

theorem SMap.wfFrom_foldl {α β : Type} {f : SMap α → β → SMap α} (l : List β) {m : SMap α}
    (hf : ∀ m x, m.wfFrom 0 = true → (f m x).wfFrom 0 = true) (h : m.wfFrom 0 = true) : (l.foldl f m).wfFrom 0 = true := by
  induction l generalizing m with
  | nil => exact h
  | cons x l ih => exact ih (hf m x h)

theorem Memory.wf_foldl {β : Type} {f : List Host.Cell → β → List Host.Cell} (l : List β) {m : List Host.Cell}
    (hf : ∀ m x, Memory.wf m = true → Memory.wf (f m x) = true) (h : Memory.wf m = true) : Memory.wf (l.foldl f m) = true := by
  induction l generalizing m with
  | nil => exact h
  | cons x l ih => exact ih (hf m x h)

/-! ## Updates of one field -/

section
variable {s : State} (h : s.Canon)
include h

theorem canon_time (x) : State.Canon { s with time := x } := ⟨h.1, h.2, h.3, h.4, h.5, h.6, h.7, h.8, h.9, h.10, h.11, h.12, h.13, h.14, h.15⟩
theorem canon_cur (x) : State.Canon { s with cur := x } := ⟨h.1, h.2, h.3, h.4, h.5, h.6, h.7, h.8, h.9, h.10, h.11, h.12, h.13, h.14, h.15⟩
theorem canon_agenda (x) : State.Canon { s with agenda := x } := ⟨h.1, h.2, h.3, h.4, h.5, h.6, h.7, h.8, h.9, h.10, h.11, h.12, h.13, h.14, h.15⟩
theorem canon_seq (x) : State.Canon { s with seq := x } := ⟨h.1, h.2, h.3, h.4, h.5, h.6, h.7, h.8, h.9, h.10, h.11, h.12, h.13, h.14, h.15⟩
theorem canon_partials (x) : State.Canon { s with partials := x } := ⟨h.1, h.2, h.3, h.4, h.5, h.6, h.7, h.8, h.9, h.10, h.11, h.12, h.13, h.14, h.15⟩
theorem canon_podMin (x) : State.Canon { s with podMin := x } := ⟨h.1, h.2, h.3, h.4, h.5, h.6, h.7, h.8, h.9, h.10, h.11, h.12, h.13, h.14, h.15⟩
theorem canon_colls (x) : State.Canon { s with colls := x } := ⟨h.1, h.2, h.3, h.4, h.5, h.6, h.7, h.8, h.9, h.10, h.11, h.12, h.13, h.14, h.15⟩
theorem canon_closures (x) : State.Canon { s with closures := x } := ⟨h.1, h.2, h.3, h.4, h.5, h.6, h.7, h.8, h.9, h.10, h.11, h.12, h.13, h.14, h.15⟩
theorem canon_linksDown (x) : State.Canon { s with linksDown := x } := ⟨h.1, h.2, h.3, h.4, h.5, h.6, h.7, h.8, h.9, h.10, h.11, h.12, h.13, h.14, h.15⟩
theorem canon_nonMembers (x) : State.Canon { s with nonMembers := x } := ⟨h.1, h.2, h.3, h.4, h.5, h.6, h.7, h.8, h.9, h.10, h.11, h.12, h.13, h.14, h.15⟩
theorem canon_scClk (x) : State.Canon { s with scClk := x } := ⟨h.1, h.2, h.3, h.4, h.5, h.6, h.7, h.8, h.9, h.10, h.11, h.12, h.13, h.14, h.15⟩
theorem canon_waiters (x) : State.Canon { s with waiters := x } := ⟨h.1, h.2, h.3, h.4, h.5, h.6, h.7, h.8, h.9, h.10, h.11, h.12, h.13, h.14, h.15⟩
theorem canon_posted (x) : State.Canon { s with posted := x } := ⟨h.1, h.2, h.3, h.4, h.5, h.6, h.7, h.8, h.9, h.10, h.11, h.12, h.13, h.14, h.15⟩
theorem canon_hostReply (x) : State.Canon { s with hostReply := x } := ⟨h.1, h.2, h.3, h.4, h.5, h.6, h.7, h.8, h.9, h.10, h.11, h.12, h.13, h.14, h.15⟩
theorem canon_mem {x} (hx : Memory.wf x = true) : State.Canon { s with mem := x } := ⟨hx, h.2, h.3, h.4, h.5, h.6, h.7, h.8, h.9, h.10, h.11, h.12, h.13, h.14, h.15⟩
theorem canon_hostMem {x} (hx : Memory.wf x = true) : State.Canon { s with hostMem := x } := ⟨h.1, hx, h.3, h.4, h.5, h.6, h.7, h.8, h.9, h.10, h.11, h.12, h.13, h.14, h.15⟩
theorem canon_full {x} (hx : SMap.wfFrom 0 x = true) : State.Canon { s with full := x } := ⟨h.1, h.2, hx, h.4, h.5, h.6, h.7, h.8, h.9, h.10, h.11, h.12, h.13, h.14, h.15⟩
theorem canon_marks {x} (hx : SMap.wfFrom 0 x = true) : State.Canon { s with marks := x } := ⟨h.1, h.2, h.3, hx, h.5, h.6, h.7, h.8, h.9, h.10, h.11, h.12, h.13, h.14, h.15⟩
theorem canon_cores {x} (hx : SMap.wfFrom 0 x = true) : State.Canon { s with cores := x } := ⟨h.1, h.2, h.3, h.4, hx, h.6, h.7, h.8, h.9, h.10, h.11, h.12, h.13, h.14, h.15⟩
theorem canon_tiles {x} (hx : SMap.wfFrom 0 x = true) : State.Canon { s with tiles := x } := ⟨h.1, h.2, h.3, h.4, h.5, hx, h.7, h.8, h.9, h.10, h.11, h.12, h.13, h.14, h.15⟩
theorem canon_quads {x} (hx : SMap.wfFrom 0 x = true) : State.Canon { s with quads := x } := ⟨h.1, h.2, h.3, h.4, h.5, h.6, hx, h.8, h.9, h.10, h.11, h.12, h.13, h.14, h.15⟩
theorem canon_dies {x} (hx : SMap.wfFrom 0 x = true) : State.Canon { s with dies := x } := ⟨h.1, h.2, h.3, h.4, h.5, h.6, h.7, hx, h.9, h.10, h.11, h.12, h.13, h.14, h.15⟩
theorem canon_pkgs {x} (hx : SMap.wfFrom 0 x = true) : State.Canon { s with pkgs := x } := ⟨h.1, h.2, h.3, h.4, h.5, h.6, h.7, h.8, hx, h.10, h.11, h.12, h.13, h.14, h.15⟩
theorem canon_sectors {x} (hx : SMap.wfFrom 0 x = true) : State.Canon { s with sectors := x } := ⟨h.1, h.2, h.3, h.4, h.5, h.6, h.7, h.8, h.9, hx, h.11, h.12, h.13, h.14, h.15⟩
theorem canon_pkgMin {x} (hx : SMap.wfFrom 0 x = true) : State.Canon { s with pkgMin := x } := ⟨h.1, h.2, h.3, h.4, h.5, h.6, h.7, h.8, h.9, h.10, hx, h.12, h.13, h.14, h.15⟩
theorem canon_grads {x} (hx : SMap.wfFrom 0 x = true) : State.Canon { s with grads := x } := ⟨h.1, h.2, h.3, h.4, h.5, h.6, h.7, h.8, h.9, h.10, h.11, hx, h.13, h.14, h.15⟩
theorem canon_stamps {x} (hx : SMap.wfFrom 0 x = true) : State.Canon { s with stamps := x } := ⟨h.1, h.2, h.3, h.4, h.5, h.6, h.7, h.8, h.9, h.10, h.11, h.12, h.13, hx, h.15⟩
theorem canon_hostBad {x} (hx : SMap.wfFrom 0 x = true) : State.Canon { s with hostBad := x } := ⟨h.1, h.2, h.3, h.4, h.5, h.6, h.7, h.8, h.9, h.10, h.11, h.12, h.13, h.14, hx⟩

theorem canon_fullPut (k b) : State.Canon { s with full := s.full.put k b } := canon_full h (SMap.wfFrom_put b h.full (Nat.zero_le k))
theorem canon_marksPut (k b) : State.Canon { s with marks := s.marks.put k b } :=
  canon_marks h (SMap.wfFrom_put b h.marks (Nat.zero_le k))
theorem canon_memFilter (f) : State.Canon { s with mem := s.mem.filter f } := canon_mem h (Memory.wf_filter f h.mem)

end

/-! ## Folds and branches -/

theorem holds_next {P : State → Prop} {t : State} (h : P t) : Holds P (.next t) := h

theorem canon_foldl {α : Type} {f : State → α → State} (l : List α) {s : State} (hf : ∀ t x, t.Canon → (f t x).Canon) (h : s.Canon) :
    (l.foldl f s).Canon := by
  induction l generalizing s with
  | nil => exact h
  | cons x l ih => exact ih (hf s x h)

theorem canon_foldl1 {α β : Type} {f : State × β → α → State × β} (l : List α) {r : State × β}
    (hf : ∀ q x, q.1.Canon → (f q x).1.Canon) (h : r.1.Canon) : (l.foldl f r).1.Canon := by
  induction l generalizing r with
  | nil => exact h
  | cons x l ih => exact ih (hf r x h)

theorem canon_ite {p : Prop} [Decidable p] {s t : State} (h : s.Canon) (h' : t.Canon) : (if p then s else t).Canon := by
  split <;> assumption

theorem canon_ite1 {β : Type} {p : Prop} [Decidable p] {s t : State × β} (h : s.1.Canon) (h' : t.1.Canon) : (if p then s else t).1.Canon := by
  split <;> assumption


theorem canon_fst {β : Type} {r : State × β} {u : State} {x : β} (h : r.1.Canon) (e : r = (u, x)) : u.Canon := by
  subst e; exact h

end Machine
end Sys2Proof
end

