-- ==== Sys2Proof/Laws/CanonMachine.lean ====
section
/-! SUPPORT. Every function over memory, pages, homes, accesses and the shared operations of an instruction keeps the canonical form of State.
Each lemma is named after its function; the instruction meanings answer a state that keeps it. -/

namespace Sys2Proof
namespace Machine
set_option linter.all false

/-! ### Mem -/

theorem State.write_canon (s : State) (key : Nat) (bs : List Byte) (h : s.Canon) : (s.write key bs).Canon :=
  canon_mem h (Memory.wf_memWrite bs key h.mem)

theorem State.writeNat_canon (s : State) (key : ℕ) (n : ℕ) (v : ℕ) (hc : s.Canon) : (State.writeNat s key n v).Canon := by
  unfold State.writeNat
  try dsimp only
  repeat' first
    | (intro _; try dsimp only)
    | with_reducible assumption
    | with_reducible apply holds_next
    | with_reducible apply canon_foldl
    | with_reducible apply canon_foldl1
    | with_reducible apply canon_ite
    | with_reducible apply canon_ite1
    | with_reducible apply State.write_canon
    | (refine canon_fst ?_ ‹_ = (_, _)›)
    | split

theorem State.setCore_canon (s : State) (k : Nat) (c : Core) (h : s.Canon) : (s.setCore k c).Canon :=
  canon_cores h (SMap.wfFrom_put c h.cores (Nat.zero_le k))

theorem State.onCore_canon (s : State) (k : ℕ) (f : Core → Core) (hc : s.Canon) : (State.onCore s k f).Canon := by
  unfold State.onCore
  try dsimp only
  repeat' first
    | (intro _; try dsimp only)
    | with_reducible assumption
    | with_reducible apply holds_next
    | with_reducible apply canon_foldl
    | with_reducible apply canon_foldl1
    | with_reducible apply canon_ite
    | with_reducible apply canon_ite1
    | with_reducible apply State.setCore_canon
    | (refine canon_fst ?_ ‹_ = (_, _)›)
    | split

theorem State.setTile_canon (s : State) (t : Nat) (v : Tile) (h : s.Canon) : (s.setTile t v).Canon :=
  canon_tiles h (SMap.wfFrom_put v h.tiles (Nat.zero_le t))

theorem State.onTile_canon (s : State) (t : ℕ) (f : Tile → Tile) (hc : s.Canon) : (State.onTile s t f).Canon := by
  unfold State.onTile
  try dsimp only
  repeat' first
    | (intro _; try dsimp only)
    | with_reducible assumption
    | with_reducible apply holds_next
    | with_reducible apply canon_foldl
    | with_reducible apply canon_foldl1
    | with_reducible apply canon_ite
    | with_reducible apply canon_ite1
    | with_reducible apply State.setTile_canon
    | (refine canon_fst ?_ ‹_ = (_, _)›)
    | split

theorem State.onQuad_canon (s : State) (q : Nat) (f : Quad → Quad) (h : s.Canon) : (s.onQuad q f).Canon :=
  canon_quads h (SMap.wfFrom_put _ h.quads (Nat.zero_le q))

theorem State.onDie_canon (s : State) (d : Nat) (f : Die → Die) (h : s.Canon) : (s.onDie d f).Canon :=
  canon_dies h (SMap.wfFrom_put _ h.dies (Nat.zero_le d))

theorem State.onPkg_canon (s : State) (p : Nat) (f : Pkg → Pkg) (h : s.Canon) : (s.onPkg p f).Canon :=
  canon_pkgs h (SMap.wfFrom_put _ h.pkgs (Nat.zero_le p))

theorem State.onBar_canon (s : State) (d : ℕ) (b : ℕ) (f : Barrier → Barrier) (hc : s.Canon) : (State.onBar s d b f).Canon := by
  unfold State.onBar
  try dsimp only
  repeat' first
    | (intro _; try dsimp only)
    | with_reducible assumption
    | with_reducible apply holds_next
    | with_reducible apply canon_foldl
    | with_reducible apply canon_foldl1
    | with_reducible apply canon_ite
    | with_reducible apply canon_ite1
    | with_reducible apply State.onDie_canon
    | (refine canon_fst ?_ ‹_ = (_, _)›)
    | split

theorem State.onSector_canon (s : State) (n : Nat) (f : Sector → Sector) (h : s.Canon) : (s.onSector n f).Canon :=
  canon_sectors h (SMap.wfFrom_put _ h.sectors (Nat.zero_le n))

theorem State.setSup_canon (s : State) (d : ℕ) (n : ℕ) (v : Sys2Proof.Word) (hc : s.Canon) : (State.setSup s d n v).Canon := by
  unfold State.setSup
  try dsimp only
  repeat' first
    | (intro _; try dsimp only)
    | with_reducible assumption
    | with_reducible apply holds_next
    | with_reducible apply canon_foldl
    | with_reducible apply canon_foldl1
    | with_reducible apply canon_ite
    | with_reducible apply canon_ite1
    | with_reducible apply State.onDie_canon
    | (refine canon_fst ?_ ‹_ = (_, _)›)
    | split

theorem State.tick_canon (s : State) (h : s.Canon) : s.tick.Canon := canon_seq h _

theorem State.setFull_canon (s : State) (key : Nat) (b : Bool) (h : s.Canon) : (s.setFull key b).Canon := by
  unfold State.setFull
  refine canon_full h ?_
  split
  · exact SMap.wfFrom_put _ h.full (Nat.zero_le _)
  · exact SMap.wfFrom_del _ h.full

theorem State.setFulls_canon (s : State) (key : ℕ) (n : ℕ) (b : Bool) (hc : s.Canon) : (State.setFulls s key n b).Canon := by
  unfold State.setFulls
  try dsimp only
  repeat' first
    | (intro _; try dsimp only)
    | with_reducible assumption
    | with_reducible apply holds_next
    | with_reducible apply canon_foldl
    | with_reducible apply canon_foldl1
    | with_reducible apply canon_ite
    | with_reducible apply canon_ite1
    | with_reducible apply State.setFull_canon
    | (refine canon_fst ?_ ‹_ = (_, _)›)
    | split

theorem State.setWhole_canon (s : State) (key : ℕ) (n : ℕ) (hc : s.Canon) : (State.setWhole s key n).Canon := by
  unfold State.setWhole
  try dsimp only
  repeat' first
    | (intro _; try dsimp only)
    | with_reducible assumption
    | with_reducible apply holds_next
    | with_reducible apply canon_foldl
    | with_reducible apply canon_foldl1
    | with_reducible apply canon_ite
    | with_reducible apply canon_ite1
    | with_reducible apply State.setFull_canon
    | (refine canon_fst ?_ ‹_ = (_, _)›)
    | split

theorem State.setMark_canon (s : State) (key : Nat) (b : Bool) (h : s.Canon) : (s.setMark key b).Canon := by
  unfold State.setMark
  refine canon_marks h ?_
  split
  · exact SMap.wfFrom_put _ h.marks (Nat.zero_le _)
  · exact SMap.wfFrom_del _ h.marks

theorem State.zeroRange_canon (s : State) (key n : Nat) (h : s.Canon) : (s.zeroRange key n).Canon :=
  ⟨Memory.wf_filter _ h.1, h.2, SMap.wfFrom_filter _ h.3, SMap.wfFrom_filter _ h.4, h.5, h.6, h.7, h.8, h.9, h.10, h.11, h.12, h.13, h.14, h.15⟩

theorem State.store_canon (s : State) (key : Nat) (bs : List Byte) (h : s.Canon) : (s.store key bs).Canon :=
  canon_foldl _ (fun t _ ht => canon_ite (State.setMark_canon t _ _ ht) ht) (State.write_canon s key bs h)

theorem State.storeNat_canon (s : State) (key : ℕ) (n : ℕ) (v : ℕ) (hc : s.Canon) : (State.storeNat s key n v).Canon := by
  unfold State.storeNat
  try dsimp only
  repeat' first
    | (intro _; try dsimp only)
    | with_reducible assumption
    | with_reducible apply holds_next
    | with_reducible apply canon_foldl
    | with_reducible apply canon_foldl1
    | with_reducible apply canon_ite
    | with_reducible apply canon_ite1
    | with_reducible apply State.store_canon
    | (refine canon_fst ?_ ‹_ = (_, _)›)
    | split

/-! ### Operands -/

theorem State.writeHome_canon (s : State) (k : ℕ) (i : ℕ) (hc : s.Canon) : (State.writeHome s k i).Canon := by
  unfold State.writeHome
  try dsimp only
  repeat' first
    | (intro _; try dsimp only)
    | with_reducible assumption
    | with_reducible apply holds_next
    | with_reducible apply canon_foldl
    | with_reducible apply canon_foldl1
    | with_reducible apply canon_ite
    | with_reducible apply canon_ite1
    | with_reducible apply State.storeNat_canon
    | with_reducible apply State.setMark_canon
    | (refine canon_fst ?_ ‹_ = (_, _)›)
    | split

theorem State.trimRc_canon (s : State) (k : ℕ) (n : ℕ) (hc : s.Canon) : (State.trimRc s k n).Canon := by
  unfold State.trimRc
  try dsimp only
  repeat' first
    | (intro _; try dsimp only)
    | with_reducible assumption
    | with_reducible apply holds_next
    | with_reducible apply canon_foldl
    | with_reducible apply canon_foldl1
    | with_reducible apply canon_ite
    | with_reducible apply canon_ite1
    | with_reducible apply State.writeHome_canon
    | with_reducible apply State.onCore_canon
    | (refine canon_fst ?_ ‹_ = (_, _)›)
    | split

theorem State.fill_canon (s : State) (k : ℕ) (reads : List ℕ) (writes : List ℕ) (hc : s.Canon) : (State.fill s k reads writes).Canon := by
  unfold State.fill
  try dsimp only
  repeat' first
    | (intro _; try dsimp only)
    | with_reducible assumption
    | with_reducible apply holds_next
    | with_reducible apply canon_foldl
    | with_reducible apply canon_foldl1
    | with_reducible apply canon_ite
    | with_reducible apply canon_ite1
    | with_reducible apply State.trimRc_canon
    | with_reducible apply State.setCore_canon
    | (refine canon_fst ?_ ‹_ = (_, _)›)
    | split

theorem State.flushRc_canon (s : State) (k : ℕ) (hc : s.Canon) : (State.flushRc s k).Canon := by
  unfold State.flushRc
  try dsimp only
  repeat' first
    | (intro _; try dsimp only)
    | with_reducible assumption
    | with_reducible apply holds_next
    | with_reducible apply canon_foldl
    | with_reducible apply canon_foldl1
    | with_reducible apply canon_ite
    | with_reducible apply canon_ite1
    | with_reducible apply State.trimRc_canon
    | (refine canon_fst ?_ ‹_ = (_, _)›)
    | split

theorem State.loadHome_canon (s : State) (k : ℕ) (hc : s.Canon) : (State.loadHome s k).Canon := by
  unfold State.loadHome
  try dsimp only
  repeat' first
    | (intro _; try dsimp only)
    | with_reducible assumption
    | with_reducible apply holds_next
    | with_reducible apply canon_foldl
    | with_reducible apply canon_foldl1
    | with_reducible apply canon_ite
    | with_reducible apply canon_ite1
    | with_reducible apply State.setCore_canon
    | (refine canon_fst ?_ ‹_ = (_, _)›)
    | split

theorem State.initHome_canon (s : State) (k : ℕ) (hc : s.Canon) : (State.initHome s k).Canon := by
  unfold State.initHome
  try dsimp only
  repeat' first
    | (intro _; try dsimp only)
    | with_reducible assumption
    | with_reducible apply holds_next
    | with_reducible apply canon_foldl
    | with_reducible apply canon_foldl1
    | with_reducible apply canon_ite
    | with_reducible apply canon_ite1
    | with_reducible apply State.writeHome_canon
    | with_reducible apply State.onCore_canon
    | (refine canon_fst ?_ ‹_ = (_, _)›)
    | split

theorem State.lateWrite_canon (s : State) (k : ℕ) (words : List ℕ) (f : Core → Core) (hc : s.Canon) : (State.lateWrite s k words f).Canon := by
  unfold State.lateWrite
  try dsimp only
  repeat' first
    | (intro _; try dsimp only)
    | with_reducible assumption
    | with_reducible apply holds_next
    | with_reducible apply canon_foldl
    | with_reducible apply canon_foldl1
    | with_reducible apply canon_ite
    | with_reducible apply canon_ite1
    | with_reducible apply State.onCore_canon
    | with_reducible apply State.fill_canon
    | with_reducible apply State.writeHome_canon
    | (refine canon_fst ?_ ‹_ = (_, _)›)
    | split

theorem State.takeHome_canon (s : State) (key : ℕ) (n : ℕ) (hc : s.Canon) : (State.takeHome s key n).Canon := by
  unfold State.takeHome
  try dsimp only
  repeat' first
    | (intro _; try dsimp only)
    | with_reducible assumption
    | with_reducible apply holds_next
    | with_reducible apply canon_foldl
    | with_reducible apply canon_foldl1
    | with_reducible apply canon_ite
    | with_reducible apply canon_ite1
    | with_reducible apply State.onCore_canon
    | (refine canon_fst ?_ ‹_ = (_, _)›)
    | split

theorem State.writeBits_canon (s : State) (key : ℕ) (bit : ℕ) (w : ℕ) (v : ℕ) (hc : s.Canon) : (State.writeBits s key bit w v).Canon := by
  unfold State.writeBits
  try dsimp only
  repeat' first
    | (intro _; try dsimp only)
    | with_reducible assumption
    | with_reducible apply holds_next
    | with_reducible apply canon_foldl
    | with_reducible apply canon_foldl1
    | with_reducible apply canon_ite
    | with_reducible apply canon_ite1
    | with_reducible apply State.storeNat_canon
    | (refine canon_fst ?_ ‹_ = (_, _)›)
    | split

/-! ### Coherence -/

theorem State.raiseClock_canon (s : State) (t : ℕ) (w : ℕ) (hc : s.Canon) : (State.raiseClock s t w).Canon := by
  unfold State.raiseClock
  try dsimp only
  repeat' first
    | (intro _; try dsimp only)
    | with_reducible assumption
    | with_reducible apply holds_next
    | with_reducible apply canon_foldl
    | with_reducible apply canon_foldl1
    | with_reducible apply canon_ite
    | with_reducible apply canon_ite1
    | with_reducible apply State.onTile_canon
    | (refine canon_fst ?_ ‹_ = (_, _)›)
    | split

theorem State.raiseClk_canon (s : State) (k : ℕ) (w : ℕ) (hc : s.Canon) : (State.raiseClk s k w).Canon := by
  unfold State.raiseClk
  try dsimp only
  repeat' first
    | (intro _; try dsimp only)
    | with_reducible assumption
    | with_reducible apply holds_next
    | with_reducible apply canon_foldl
    | with_reducible apply canon_foldl1
    | with_reducible apply canon_ite
    | with_reducible apply canon_ite1
    | with_reducible apply State.raiseClock_canon
    | with_reducible apply State.onCore_canon
    | (refine canon_fst ?_ ‹_ = (_, _)›)
    | split

theorem State.stampAt_canon (s : State) (key n clk : Nat) (h : s.Canon) : (s.stampAt key n clk).Canon :=
  canon_stamps h (SMap.wfFrom_foldl _ (fun _ x hm => SMap.wfFrom_put _ hm (Nat.zero_le x)) h.stamps)

theorem State.stamp_canon (s : State) (k : ℕ) (key : ℕ) (n : ℕ) (hc : s.Canon) : (State.stamp s k key n).Canon := by
  unfold State.stamp
  try dsimp only
  repeat' first
    | (intro _; try dsimp only)
    | with_reducible assumption
    | with_reducible apply holds_next
    | with_reducible apply canon_foldl
    | with_reducible apply canon_foldl1
    | with_reducible apply canon_ite
    | with_reducible apply canon_ite1
    | with_reducible apply State.stampAt_canon
    | (refine canon_fst ?_ ‹_ = (_, _)›)
    | split

theorem State.sawStamps_canon (s : State) (k : ℕ) (key : ℕ) (n : ℕ) (hc : s.Canon) : (State.sawStamps s k key n).Canon := by
  unfold State.sawStamps
  try dsimp only
  repeat' first
    | (intro _; try dsimp only)
    | with_reducible assumption
    | with_reducible apply holds_next
    | with_reducible apply canon_foldl
    | with_reducible apply canon_foldl1
    | with_reducible apply canon_ite
    | with_reducible apply canon_ite1
    | with_reducible apply State.raiseClk_canon
    | (refine canon_fst ?_ ‹_ = (_, _)›)
    | split

theorem State.gather_canon (s : State) (key : ℕ) (n : ℕ) (hc : s.Canon) : (State.gather s key n).Canon := by
  unfold State.gather
  try dsimp only
  repeat' first
    | (intro _; try dsimp only)
    | with_reducible assumption
    | with_reducible apply holds_next
    | with_reducible apply canon_foldl
    | with_reducible apply canon_foldl1
    | with_reducible apply canon_ite
    | with_reducible apply canon_ite1
    | with_reducible apply State.storeNat_canon
    | with_reducible apply canon_partials
    | (refine canon_fst ?_ ‹_ = (_, _)›)
    | split

theorem State.acceptRed_canon (s : State) (die : ℕ) (key : ℕ) (op : Sys2Proof.AmoOp) (ty : Sys2Proof.ITy) (v : Sys2Proof.Word) (hc : s.Canon) : (State.acceptRed s die key op ty v).Canon := by
  unfold State.acceptRed
  try dsimp only
  repeat' first
    | (intro _; try dsimp only)
    | with_reducible assumption
    | with_reducible apply holds_next
    | with_reducible apply canon_foldl
    | with_reducible apply canon_foldl1
    | with_reducible apply canon_ite
    | with_reducible apply canon_ite1
    | with_reducible apply State.gather_canon
    | with_reducible apply canon_partials
    | (refine canon_fst ?_ ‹_ = (_, _)›)
    | split

theorem State.storeMasked_canon (s : State) (key : ℕ) (mask : BitVec 64) (bs : List Sys2Proof.Byte) (hc : s.Canon) : (State.storeMasked s key mask bs).Canon := by
  unfold State.storeMasked
  try dsimp only
  repeat' first
    | (intro _; try dsimp only)
    | with_reducible assumption
    | with_reducible apply holds_next
    | with_reducible apply canon_foldl
    | with_reducible apply canon_foldl1
    | with_reducible apply canon_ite
    | with_reducible apply canon_ite1
    | with_reducible apply State.store_canon
    | (refine canon_fst ?_ ‹_ = (_, _)›)
    | split

theorem State.writeBlock_canon (s : State) (t : ℕ) (b : Block) (hc : s.Canon) : (State.writeBlock s t b).Canon := by
  unfold State.writeBlock
  try dsimp only
  repeat' first
    | (intro _; try dsimp only)
    | with_reducible assumption
    | with_reducible apply holds_next
    | with_reducible apply canon_foldl
    | with_reducible apply canon_foldl1
    | with_reducible apply canon_ite
    | with_reducible apply canon_ite1
    | with_reducible apply State.storeMasked_canon
    | with_reducible apply State.setMark_canon
    | with_reducible apply State.onTile_canon
    | (refine canon_fst ?_ ‹_ = (_, _)›)
    | split

theorem State.recall_canon (s : State) (key : ℕ) (hc : s.Canon) : (State.recall s key).Canon := by
  unfold State.recall
  try dsimp only
  repeat' first
    | (intro _; try dsimp only)
    | with_reducible assumption
    | with_reducible apply holds_next
    | with_reducible apply canon_foldl
    | with_reducible apply canon_foldl1
    | with_reducible apply canon_ite
    | with_reducible apply canon_ite1
    | with_reducible apply State.writeBlock_canon
    | with_reducible apply State.onSector_canon
    | (refine canon_fst ?_ ‹_ = (_, _)›)
    | split

theorem State.settle_canon (s : State) (key : ℕ) (n : ℕ) (hc : s.Canon) : (State.settle s key n).Canon := by
  unfold State.settle
  try dsimp only
  repeat' first
    | (intro _; try dsimp only)
    | with_reducible assumption
    | with_reducible apply holds_next
    | with_reducible apply canon_foldl
    | with_reducible apply canon_foldl1
    | with_reducible apply canon_ite
    | with_reducible apply canon_ite1
    | with_reducible apply State.recall_canon
    | with_reducible apply State.gather_canon
    | (refine canon_fst ?_ ‹_ = (_, _)›)
    | split

theorem State.settleRange_canon (s : State) (key : ℕ) (n : ℕ) (hc : s.Canon) : (State.settleRange s key n).Canon := by
  unfold State.settleRange
  try dsimp only
  repeat' first
    | (intro _; try dsimp only)
    | with_reducible assumption
    | with_reducible apply holds_next
    | with_reducible apply canon_foldl
    | with_reducible apply canon_foldl1
    | with_reducible apply canon_ite
    | with_reducible apply canon_ite1
    | with_reducible apply State.recall_canon
    | with_reducible apply State.gather_canon
    | (refine canon_fst ?_ ‹_ = (_, _)›)
    | split

theorem State.dropBlock_canon (s : State) (t : ℕ) (pa : ℕ) (hc : s.Canon) : (State.dropBlock s t pa).Canon := by
  unfold State.dropBlock
  try dsimp only
  repeat' first
    | (intro _; try dsimp only)
    | with_reducible assumption
    | with_reducible apply holds_next
    | with_reducible apply canon_foldl
    | with_reducible apply canon_foldl1
    | with_reducible apply canon_ite
    | with_reducible apply canon_ite1
    | with_reducible apply State.writeBlock_canon
    | with_reducible apply State.onTile_canon
    | with_reducible apply State.onSector_canon
    | (refine canon_fst ?_ ‹_ = (_, _)›)
    | split

theorem State.makeRoom_canon (s : State) (t : ℕ) (hc : s.Canon) : (State.makeRoom s t).Canon := by
  unfold State.makeRoom
  try dsimp only
  repeat' first
    | (intro _; try dsimp only)
    | with_reducible assumption
    | with_reducible apply holds_next
    | with_reducible apply canon_foldl
    | with_reducible apply canon_foldl1
    | with_reducible apply canon_ite
    | with_reducible apply canon_ite1
    | with_reducible apply State.dropBlock_canon
    | (refine canon_fst ?_ ‹_ = (_, _)›)
    | split

theorem State.touch_canon (s : State) (t : ℕ) (pa : ℕ) (hc : s.Canon) : (State.touch s t pa).Canon := by
  unfold State.touch
  try dsimp only
  repeat' first
    | (intro _; try dsimp only)
    | with_reducible assumption
    | with_reducible apply holds_next
    | with_reducible apply canon_foldl
    | with_reducible apply canon_foldl1
    | with_reducible apply canon_ite
    | with_reducible apply canon_ite1
    | with_reducible apply State.onTile_canon
    | (refine canon_fst ?_ ‹_ = (_, _)›)
    | split

theorem State.dieSaw_canon (s : State) (d pa w : Nat) (h : s.Canon) : (s.dieSaw d pa w).Canon :=
  canon_tiles h (SMap.wfFrom_map _ (fun _ => by dsimp only; split <;> rfl) h.tiles)

theorem State.homeSeen_canon (s : State) (k : ℕ) (pa : ℕ) (hc : s.Canon) : (State.homeSeen s k pa).Canon := by
  unfold State.homeSeen
  try dsimp only
  repeat' first
    | (intro _; try dsimp only)
    | with_reducible assumption
    | with_reducible apply holds_next
    | with_reducible apply canon_foldl
    | with_reducible apply canon_foldl1
    | with_reducible apply canon_ite
    | with_reducible apply canon_ite1
    | with_reducible apply State.dieSaw_canon
    | with_reducible apply State.raiseClk_canon
    | (refine canon_fst ?_ ‹_ = (_, _)›)
    | split

theorem State.fillBlock_canon (s : State) (t : ℕ) (pa : ℕ) (keep : Bool) (low : Bool) (hc : s.Canon) : (State.fillBlock s t pa keep low).Canon := by
  unfold State.fillBlock
  try dsimp only
  repeat' first
    | (intro _; try dsimp only)
    | with_reducible assumption
    | with_reducible apply holds_next
    | with_reducible apply canon_foldl
    | with_reducible apply canon_foldl1
    | with_reducible apply canon_ite
    | with_reducible apply canon_ite1
    | with_reducible apply State.settle_canon
    | with_reducible apply State.onSector_canon
    | with_reducible apply State.raiseClock_canon
    | with_reducible apply State.onTile_canon
    | with_reducible apply State.makeRoom_canon
    | (refine canon_fst ?_ ‹_ = (_, _)›)
    | split

theorem State.cachedRead_canon (s : State) (t : ℕ) (pa : ℕ) (n : ℕ) (hint : Sys2Proof.Hint) (hc : s.Canon) : (State.cachedRead s t pa n hint).1.Canon := by
  unfold State.cachedRead
  try dsimp only
  repeat' first
    | (intro _; try dsimp only)
    | with_reducible assumption
    | with_reducible apply holds_next
    | with_reducible apply canon_foldl
    | with_reducible apply canon_foldl1
    | with_reducible apply canon_ite
    | with_reducible apply canon_ite1
    | with_reducible apply State.dieSaw_canon
    | with_reducible apply State.touch_canon
    | with_reducible apply State.raiseClock_canon
    | with_reducible apply State.fillBlock_canon
    | (refine canon_fst ?_ ‹_ = (_, _)›)
    | split

theorem State.grant_canon (s : State) (k : ℕ) (pa : ℕ) (hc : s.Canon) : (State.grant s k pa).1.Canon := by
  unfold State.grant
  try dsimp only
  repeat' first
    | (intro _; try dsimp only)
    | with_reducible assumption
    | with_reducible apply holds_next
    | with_reducible apply canon_foldl
    | with_reducible apply canon_foldl1
    | with_reducible apply canon_ite
    | with_reducible apply canon_ite1
    | with_reducible apply State.raiseClk_canon
    | with_reducible apply State.onSector_canon
    | (refine canon_fst ?_ ‹_ = (_, _)›)
    | split

theorem State.cachedWrite_canon (s : State) (k : ℕ) (pa : ℕ) (bs : List Sys2Proof.Byte) (hint : Sys2Proof.Hint) (hc : s.Canon) : (State.cachedWrite s k pa bs hint).1.Canon := by
  unfold State.cachedWrite
  try dsimp only
  repeat' first
    | (intro _; try dsimp only)
    | with_reducible assumption
    | with_reducible apply holds_next
    | with_reducible apply canon_foldl
    | with_reducible apply canon_foldl1
    | with_reducible apply canon_ite
    | with_reducible apply canon_ite1
    | with_reducible apply State.gather_canon
    | with_reducible apply State.recall_canon
    | with_reducible apply State.grant_canon
    | with_reducible apply State.touch_canon
    | with_reducible apply State.onTile_canon
    | with_reducible apply State.store_canon
    | with_reducible apply State.makeRoom_canon
    | with_reducible apply State.onSector_canon
    | (refine canon_fst ?_ ‹_ = (_, _)›)
    | split

theorem State.homeWrite_canon (s : State) (k : Option ℕ) (pa : ℕ) (bs : List Sys2Proof.Byte) (hc : s.Canon) : (State.homeWrite s k pa bs).1.Canon := by
  unfold State.homeWrite
  try dsimp only
  repeat' first
    | (intro _; try dsimp only)
    | with_reducible assumption
    | with_reducible apply holds_next
    | with_reducible apply canon_foldl
    | with_reducible apply canon_foldl1
    | with_reducible apply canon_ite
    | with_reducible apply canon_ite1
    | with_reducible apply State.settleRange_canon
    | with_reducible apply State.grant_canon
    | with_reducible apply State.store_canon
    | with_reducible apply State.onSector_canon
    | (refine canon_fst ?_ ‹_ = (_, _)›)
    | split

theorem State.flushCache_canon (s : State) (t : ℕ) (hc : s.Canon) : (State.flushCache s t).Canon := by
  unfold State.flushCache
  try dsimp only
  repeat' first
    | (intro _; try dsimp only)
    | with_reducible assumption
    | with_reducible apply holds_next
    | with_reducible apply canon_foldl
    | with_reducible apply canon_foldl1
    | with_reducible apply canon_ite
    | with_reducible apply canon_ite1
    | with_reducible apply State.dropBlock_canon
    | with_reducible apply State.onTile_canon
    | (refine canon_fst ?_ ‹_ = (_, _)›)
    | split

theorem State.dropCopies_canon (s : State) (key n : Nat) (h : s.Canon) : (s.dropCopies key n).Canon :=
  canon_tiles h (SMap.wfFrom_map _ (fun _ => rfl) h.tiles)

theorem State.roRead_canon (s : State) (t : ℕ) (pa : ℕ) (n : ℕ) (hc : s.Canon) : (State.roRead s t pa n).1.Canon := by
  unfold State.roRead
  try dsimp only
  repeat' first
    | (intro _; try dsimp only)
    | with_reducible assumption
    | with_reducible apply holds_next
    | with_reducible apply canon_foldl
    | with_reducible apply canon_foldl1
    | with_reducible apply canon_ite
    | with_reducible apply canon_ite1
    | with_reducible apply State.settle_canon
    | with_reducible apply State.dieSaw_canon
    | with_reducible apply State.raiseClock_canon
    | with_reducible apply State.onTile_canon
    | (refine canon_fst ?_ ‹_ = (_, _)›)
    | split

theorem State.emptyRo_canon (s : State) (t : ℕ) (hc : s.Canon) : (State.emptyRo s t).Canon := by
  unfold State.emptyRo
  try dsimp only
  repeat' first
    | (intro _; try dsimp only)
    | with_reducible assumption
    | with_reducible apply holds_next
    | with_reducible apply canon_foldl
    | with_reducible apply canon_foldl1
    | with_reducible apply canon_ite
    | with_reducible apply canon_ite1
    | with_reducible apply State.onTile_canon
    | (refine canon_fst ?_ ‹_ = (_, _)›)
    | split

theorem State.dropClean_canon (s : State) (t : ℕ) (hc : s.Canon) : (State.dropClean s t).Canon := by
  unfold State.dropClean
  try dsimp only
  repeat' first
    | (intro _; try dsimp only)
    | with_reducible assumption
    | with_reducible apply holds_next
    | with_reducible apply canon_foldl
    | with_reducible apply canon_foldl1
    | with_reducible apply canon_ite
    | with_reducible apply canon_ite1
    | with_reducible apply State.onTile_canon
    | (refine canon_fst ?_ ‹_ = (_, _)›)
    | split

/-! ### Translate -/

theorem State.tlbFill_canon (s : State) (k : ℕ) (e : Tlb) (hc : s.Canon) : (State.tlbFill s k e).Canon := by
  unfold State.tlbFill
  try dsimp only
  repeat' first
    | (intro _; try dsimp only)
    | with_reducible assumption
    | with_reducible apply holds_next
    | with_reducible apply canon_foldl
    | with_reducible apply canon_foldl1
    | with_reducible apply canon_ite
    | with_reducible apply canon_ite1
    | with_reducible apply State.onCore_canon
    | with_reducible apply State.onTile_canon
    | with_reducible apply State.onQuad_canon
    | (refine canon_fst ?_ ‹_ = (_, _)›)
    | split

theorem State.resolve_canon (s : State) (k : ℕ) (va : ℕ) (need : Need) (hc : s.Canon) : (State.resolve s k va need).1.Canon := by
  unfold State.resolve
  try dsimp only
  repeat' first
    | (intro _; try dsimp only)
    | with_reducible assumption
    | with_reducible apply holds_next
    | with_reducible apply canon_foldl
    | with_reducible apply canon_foldl1
    | with_reducible apply canon_ite
    | with_reducible apply canon_ite1
    | with_reducible apply State.tlbFill_canon
    | (refine canon_fst ?_ ‹_ = (_, _)›)
    | split

/-! ### Units -/

theorem State.setTagEntry_canon (s : State) (k : ℕ) (tag : ℕ) (v : ℕ) (hc : s.Canon) : (State.setTagEntry s k tag v).Canon := by
  unfold State.setTagEntry
  try dsimp only
  repeat' first
    | (intro _; try dsimp only)
    | with_reducible assumption
    | with_reducible apply holds_next
    | with_reducible apply canon_foldl
    | with_reducible apply canon_foldl1
    | with_reducible apply canon_ite
    | with_reducible apply canon_ite1
    | with_reducible apply State.storeNat_canon
    | (refine canon_fst ?_ ‹_ = (_, _)›)
    | split

theorem State.tagTake_canon (s : State) (k : ℕ) (tag : ℕ) (hc : s.Canon) : (State.tagTake s k tag).Canon := by
  unfold State.tagTake
  try dsimp only
  repeat' first
    | (intro _; try dsimp only)
    | with_reducible assumption
    | with_reducible apply holds_next
    | with_reducible apply canon_foldl
    | with_reducible apply canon_foldl1
    | with_reducible apply canon_ite
    | with_reducible apply canon_ite1
    | with_reducible apply State.onCore_canon
    | with_reducible apply State.setTagEntry_canon
    | (refine canon_fst ?_ ‹_ = (_, _)›)
    | split

theorem State.tagDrop_canon (s : State) (k : ℕ) (tag : ℕ) (hc : s.Canon) : (State.tagDrop s k tag).Canon := by
  unfold State.tagDrop
  try dsimp only
  repeat' first
    | (intro _; try dsimp only)
    | with_reducible assumption
    | with_reducible apply holds_next
    | with_reducible apply canon_foldl
    | with_reducible apply canon_foldl1
    | with_reducible apply canon_ite
    | with_reducible apply canon_ite1
    | with_reducible apply State.setTagEntry_canon
    | with_reducible apply State.onCore_canon
    | (refine canon_fst ?_ ‹_ = (_, _)›)
    | split

theorem State.recordFault_canon (s : State) (k : ℕ) (cause : ℕ) (q : ℕ) (w0 : ℕ) (va : ℕ) (tag : Option ℕ) (hc : s.Canon) : (State.recordFault s k cause q w0 va tag).Canon := by
  unfold State.recordFault
  try dsimp only
  repeat' first
    | (intro _; try dsimp only)
    | with_reducible assumption
    | with_reducible apply holds_next
    | with_reducible apply canon_foldl
    | with_reducible apply canon_foldl1
    | with_reducible apply canon_ite
    | with_reducible apply canon_ite1
    | with_reducible apply State.setTagEntry_canon
    | with_reducible apply State.storeNat_canon
    | with_reducible apply State.onCore_canon
    | (refine canon_fst ?_ ‹_ = (_, _)›)
    | split

theorem State.clearPend_canon (s : State) (k : ℕ) (hc : s.Canon) : (State.clearPend s k).Canon := by
  unfold State.clearPend
  try dsimp only
  repeat' first
    | (intro _; try dsimp only)
    | with_reducible assumption
    | with_reducible apply holds_next
    | with_reducible apply canon_foldl
    | with_reducible apply canon_foldl1
    | with_reducible apply canon_ite
    | with_reducible apply canon_ite1
    | with_reducible apply State.storeNat_canon
    | (refine canon_fst ?_ ‹_ = (_, _)›)
    | split

theorem State.setMail_canon (s : State) (k : ℕ) (head : ℕ) (used : ℕ) (out : ℕ) (hc : s.Canon) : (State.setMail s k head used out).Canon := by
  unfold State.setMail
  try dsimp only
  repeat' first
    | (intro _; try dsimp only)
    | with_reducible assumption
    | with_reducible apply holds_next
    | with_reducible apply canon_foldl
    | with_reducible apply canon_foldl1
    | with_reducible apply canon_ite
    | with_reducible apply canon_ite1
    | with_reducible apply State.storeNat_canon
    | (refine canon_fst ?_ ‹_ = (_, _)›)
    | split

theorem State.mailPut_canon (s : State) (k : ℕ) (peer : ℕ) (ret : Bool) (m : Msg) (hc : s.Canon) : (State.mailPut s k peer ret m).Canon := by
  unfold State.mailPut
  try dsimp only
  repeat' first
    | (intro _; try dsimp only)
    | with_reducible assumption
    | with_reducible apply holds_next
    | with_reducible apply canon_foldl
    | with_reducible apply canon_foldl1
    | with_reducible apply canon_ite
    | with_reducible apply canon_ite1
    | with_reducible apply State.stampAt_canon
    | with_reducible apply State.storeNat_canon
    | with_reducible apply State.setMark_canon
    | with_reducible apply State.onCore_canon
    | with_reducible apply State.setMail_canon
    | (refine canon_fst ?_ ‹_ = (_, _)›)
    | split

theorem State.mailClear_canon (s : State) (k : ℕ) (hc : s.Canon) : (State.mailClear s k).Canon := by
  unfold State.mailClear
  try dsimp only
  repeat' first
    | (intro _; try dsimp only)
    | with_reducible assumption
    | with_reducible apply holds_next
    | with_reducible apply canon_foldl
    | with_reducible apply canon_foldl1
    | with_reducible apply canon_ite
    | with_reducible apply canon_ite1
    | with_reducible apply State.setMail_canon
    | with_reducible apply State.store_canon
    | (refine canon_fst ?_ ‹_ = (_, _)›)
    | split

theorem State.tagClear_canon (s : State) (k : ℕ) (hc : s.Canon) : (State.tagClear s k).Canon := by
  unfold State.tagClear
  try dsimp only
  repeat' first
    | (intro _; try dsimp only)
    | with_reducible assumption
    | with_reducible apply holds_next
    | with_reducible apply canon_foldl
    | with_reducible apply canon_foldl1
    | with_reducible apply canon_ite
    | with_reducible apply canon_ite1
    | with_reducible apply State.store_canon
    | (refine canon_fst ?_ ‹_ = (_, _)›)
    | split

theorem State.setArrival_canon (s : State) (key : ℕ) (count : ℕ) (expect : ℕ) (armed : Bool) (hc : s.Canon) : (State.setArrival s key count expect armed).Canon := by
  unfold State.setArrival
  try dsimp only
  repeat' first
    | (intro _; try dsimp only)
    | with_reducible assumption
    | with_reducible apply holds_next
    | with_reducible apply canon_foldl
    | with_reducible apply canon_foldl1
    | with_reducible apply canon_ite
    | with_reducible apply canon_ite1
    | with_reducible apply State.storeNat_canon
    | (refine canon_fst ?_ ‹_ = (_, _)›)
    | split

theorem State.countArrival_canon (s : State) (store : ℕ) (obj : ℕ) (n : ℕ) (hc : s.Canon) : (State.countArrival s store obj n).Canon := by
  unfold State.countArrival
  try dsimp only
  repeat' first
    | (intro _; try dsimp only)
    | with_reducible assumption
    | with_reducible apply holds_next
    | with_reducible apply canon_foldl
    | with_reducible apply canon_foldl1
    | with_reducible apply canon_ite
    | with_reducible apply canon_ite1
    | with_reducible apply State.setArrival_canon
    | (refine canon_fst ?_ ‹_ = (_, _)›)
    | split

theorem State.record_canon (s : State) (d : ℕ) (lcn : ℕ) (j : Job) (cause : ℕ) (state : ℕ) (how : ℕ) (tpc : Sys2Proof.Word) (tval : Sys2Proof.Word) (pcore : Sys2Proof.Word) (aux : Sys2Proof.Word) (hc : s.Canon) : (State.record s d lcn j cause state how tpc tval pcore aux).Canon := by
  unfold State.record
  try dsimp only
  repeat' first
    | (intro _; try dsimp only)
    | with_reducible assumption
    | with_reducible apply holds_next
    | with_reducible apply canon_foldl
    | with_reducible apply canon_foldl1
    | with_reducible apply canon_ite
    | with_reducible apply canon_ite1
    | with_reducible apply State.setSup_canon
    | with_reducible apply State.storeNat_canon
    | with_reducible apply State.onDie_canon
    | (refine canon_fst ?_ ‹_ = (_, _)›)
    | split

theorem State.recordCore_canon (s : State) (k : ℕ) (cause : ℕ) (state : ℕ) (how : ℕ) (tpc : Sys2Proof.Word) (tval : Sys2Proof.Word) (aux : Sys2Proof.Word) (hc : s.Canon) : (State.recordCore s k cause state how tpc tval aux).Canon := by
  unfold State.recordCore
  try dsimp only
  repeat' first
    | (intro _; try dsimp only)
    | with_reducible assumption
    | with_reducible apply holds_next
    | with_reducible apply canon_foldl
    | with_reducible apply canon_foldl1
    | with_reducible apply canon_ite
    | with_reducible apply canon_ite1
    | with_reducible apply State.record_canon
    | (refine canon_fst ?_ ‹_ = (_, _)›)
    | split

theorem State.completePhase_canon (s : State) (d : ℕ) (bid : ℕ) (hc : s.Canon) : (State.completePhase s d bid).Canon := by
  unfold State.completePhase
  try dsimp only
  repeat' first
    | (intro _; try dsimp only)
    | with_reducible assumption
    | with_reducible apply holds_next
    | with_reducible apply canon_foldl
    | with_reducible apply canon_foldl1
    | with_reducible apply canon_ite
    | with_reducible apply canon_ite1
    | with_reducible apply State.onBar_canon
    | with_reducible apply State.onCore_canon
    | (refine canon_fst ?_ ‹_ = (_, _)›)
    | split

theorem State.leaveBarriers_canon (s : State) (k : ℕ) (hc : s.Canon) : (State.leaveBarriers s k).Canon := by
  unfold State.leaveBarriers
  try dsimp only
  repeat' first
    | (intro _; try dsimp only)
    | with_reducible assumption
    | with_reducible apply holds_next
    | with_reducible apply canon_foldl
    | with_reducible apply canon_foldl1
    | with_reducible apply canon_ite
    | with_reducible apply canon_ite1
    | with_reducible apply State.onDie_canon
    | with_reducible apply State.onCore_canon
    | (refine canon_fst ?_ ‹_ = (_, _)›)
    | split

theorem State.keepFloors_canon (s : State) (k : ℕ) (hc : s.Canon) : (State.keepFloors s k).Canon := by
  unfold State.keepFloors
  try dsimp only
  repeat' first
    | (intro _; try dsimp only)
    | with_reducible assumption
    | with_reducible apply holds_next
    | with_reducible apply canon_foldl
    | with_reducible apply canon_foldl1
    | with_reducible apply canon_ite
    | with_reducible apply canon_ite1
    | with_reducible apply State.onCore_canon
    | (refine canon_fst ?_ ‹_ = (_, _)›)
    | split

theorem State.tally_canon (s : State) (k : ℕ) (d : ℕ) (o : ℕ) (hc : s.Canon) : (State.tally s k d o).Canon := by
  unfold State.tally
  try dsimp only
  repeat' first
    | (intro _; try dsimp only)
    | with_reducible assumption
    | with_reducible apply holds_next
    | with_reducible apply canon_foldl
    | with_reducible apply canon_foldl1
    | with_reducible apply canon_ite
    | with_reducible apply canon_ite1
    | with_reducible apply State.onPkg_canon
    | (refine canon_fst ?_ ‹_ = (_, _)›)
    | split

/-! ### Access -/

theorem State.fetchBytes_canon (s : State) (k : ℕ) (key : ℕ) (n : ℕ) (hint : Sys2Proof.Hint) (hc : s.Canon) : (State.fetchBytes s k key n hint).1.Canon := by
  unfold State.fetchBytes
  try dsimp only
  repeat' first
    | (intro _; try dsimp only)
    | with_reducible assumption
    | with_reducible apply holds_next
    | with_reducible apply canon_foldl
    | with_reducible apply canon_foldl1
    | with_reducible apply canon_ite
    | with_reducible apply canon_ite1
    | with_reducible apply State.sawStamps_canon
    | with_reducible apply State.cachedRead_canon
    | with_reducible apply State.tally_canon
    | with_reducible apply State.settleRange_canon
    | with_reducible apply State.homeSeen_canon
    | (refine canon_fst ?_ ‹_ = (_, _)›)
    | split

theorem State.seenBytes_canon (s : State) (k : ℕ) (older : List Store) (key : ℕ) (n : ℕ) (hint : Sys2Proof.Hint) (hc : s.Canon) : (State.seenBytes s k older key n hint).1.Canon := by
  unfold State.seenBytes
  try dsimp only
  repeat' first
    | (intro _; try dsimp only)
    | with_reducible assumption
    | with_reducible apply holds_next
    | with_reducible apply canon_foldl
    | with_reducible apply canon_foldl1
    | with_reducible apply canon_ite
    | with_reducible apply canon_ite1
    | with_reducible apply State.fetchBytes_canon
    | (refine canon_fst ?_ ‹_ = (_, _)›)
    | split

theorem State.loadBytes_canon (s : State) (k : ℕ) (key : ℕ) (n : ℕ) (hint : Sys2Proof.Hint) (hc : s.Canon) : (State.loadBytes s k key n hint).1.Canon := by
  unfold State.loadBytes
  try dsimp only
  repeat' first
    | (intro _; try dsimp only)
    | with_reducible assumption
    | with_reducible apply holds_next
    | with_reducible apply canon_foldl
    | with_reducible apply canon_foldl1
    | with_reducible apply canon_ite
    | with_reducible apply canon_ite1
    | with_reducible apply State.seenBytes_canon
    | (refine canon_fst ?_ ‹_ = (_, _)›)
    | split

theorem State.fixStore_canon (s : State) (key : ℕ) (bs : List Sys2Proof.Byte) (hc : s.Canon) : (State.fixStore s key bs).Canon := by
  unfold State.fixStore
  try dsimp only
  repeat' first
    | (intro _; try dsimp only)
    | with_reducible assumption
    | with_reducible apply holds_next
    | with_reducible apply canon_foldl
    | with_reducible apply canon_foldl1
    | with_reducible apply canon_ite
    | with_reducible apply canon_ite1
    | with_reducible apply State.takeHome_canon
    | with_reducible apply State.store_canon
    | (refine canon_fst ?_ ‹_ = (_, _)›)
    | split

theorem State.bankStore_canon (s : State) (k : ℕ) (key : ℕ) (bs : List Sys2Proof.Byte) (hc : s.Canon) : (State.bankStore s k key bs).Canon := by
  unfold State.bankStore
  try dsimp only
  repeat' first
    | (intro _; try dsimp only)
    | with_reducible assumption
    | with_reducible apply holds_next
    | with_reducible apply canon_foldl
    | with_reducible apply canon_foldl1
    | with_reducible apply canon_ite
    | with_reducible apply canon_ite1
    | with_reducible apply State.stamp_canon
    | with_reducible apply State.fixStore_canon
    | (refine canon_fst ?_ ‹_ = (_, _)›)
    | split

theorem State.tallyWrite_canon (s : State) (k : ℕ) (key : ℕ) (hint : Sys2Proof.Hint) (hc : s.Canon) : (State.tallyWrite s k key hint).Canon := by
  unfold State.tallyWrite
  try dsimp only
  repeat' first
    | (intro _; try dsimp only)
    | with_reducible assumption
    | with_reducible apply holds_next
    | with_reducible apply canon_foldl
    | with_reducible apply canon_foldl1
    | with_reducible apply canon_ite
    | with_reducible apply canon_ite1
    | with_reducible apply State.tally_canon
    | (refine canon_fst ?_ ‹_ = (_, _)›)
    | split

theorem State.writeChunk_canon (s : State) (k : ℕ) (key : ℕ) (bs : List Sys2Proof.Byte) (full : Bool) (hint : Sys2Proof.Hint) (hc : s.Canon) : (State.writeChunk s k key bs full hint).1.Canon := by
  unfold State.writeChunk
  try dsimp only
  repeat' first
    | (intro _; try dsimp only)
    | with_reducible assumption
    | with_reducible apply holds_next
    | with_reducible apply canon_foldl
    | with_reducible apply canon_foldl1
    | with_reducible apply canon_ite
    | with_reducible apply canon_ite1
    | with_reducible apply State.bankStore_canon
    | with_reducible apply State.cachedWrite_canon
    | with_reducible apply State.tallyWrite_canon
    | with_reducible apply State.homeWrite_canon
    | with_reducible apply State.setFulls_canon
    | (refine canon_fst ?_ ‹_ = (_, _)›)
    | split

theorem State.writeAt_canon (s : State) (k : ℕ) (key : ℕ) (bs : List Sys2Proof.Byte) (full : Bool) (hint : Sys2Proof.Hint) (hc : s.Canon) : (State.writeAt s k key bs full hint).1.Canon := by
  unfold State.writeAt
  try dsimp only
  repeat' first
    | (intro _; try dsimp only)
    | with_reducible assumption
    | with_reducible apply holds_next
    | with_reducible apply canon_foldl
    | with_reducible apply canon_foldl1
    | with_reducible apply canon_ite
    | with_reducible apply canon_ite1
    | with_reducible apply State.writeChunk_canon
    | (refine canon_fst ?_ ‹_ = (_, _)›)
    | split

theorem State.addFlight_canon (s : State) (k : ℕ) (w : ℕ) (sc : Sys2Proof.Scope) (seq : ℕ) (key : ℕ) (hc : s.Canon) : (State.addFlight s k w sc seq key).Canon := by
  unfold State.addFlight
  try dsimp only
  repeat' first
    | (intro _; try dsimp only)
    | with_reducible assumption
    | with_reducible apply holds_next
    | with_reducible apply canon_foldl
    | with_reducible apply canon_foldl1
    | with_reducible apply canon_ite
    | with_reducible apply canon_ite1
    | with_reducible apply State.onCore_canon
    | with_reducible apply canon_seq
    | (refine canon_fst ?_ ‹_ = (_, _)›)
    | split

theorem State.loseWrite_canon (s : State) (k : ℕ) (cause : ℕ) (pkg : ℕ) (hc : s.Canon) : (State.loseWrite s k cause pkg).Canon := by
  unfold State.loseWrite
  try dsimp only
  repeat' first
    | (intro _; try dsimp only)
    | with_reducible assumption
    | with_reducible apply holds_next
    | with_reducible apply canon_foldl
    | with_reducible apply canon_foldl1
    | with_reducible apply canon_ite
    | with_reducible apply canon_ite1
    | with_reducible apply State.onCore_canon
    | (refine canon_fst ?_ ‹_ = (_, _)›)
    | split

theorem State.popStore_canon (s : State) (k : ℕ) (hc : s.Canon) : (State.popStore s k).Canon := by
  unfold State.popStore
  try dsimp only
  repeat' first
    | (intro _; try dsimp only)
    | with_reducible assumption
    | with_reducible apply holds_next
    | with_reducible apply canon_foldl
    | with_reducible apply canon_foldl1
    | with_reducible apply canon_ite
    | with_reducible apply canon_ite1
    | with_reducible apply State.onCore_canon
    | (refine canon_fst ?_ ‹_ = (_, _)›)
    | split

theorem State.refuseAt_canon (s : State) (k : ℕ) (va : Sys2Proof.Word) (pc : Sys2Proof.Word) (hc : s.Canon) : (State.refuseAt s k va pc).Canon := by
  unfold State.refuseAt
  try dsimp only
  repeat' first
    | (intro _; try dsimp only)
    | with_reducible assumption
    | with_reducible apply holds_next
    | with_reducible apply canon_foldl
    | with_reducible apply canon_foldl1
    | with_reducible apply canon_ite
    | with_reducible apply canon_ite1
    | with_reducible apply State.onCore_canon
    | (refine canon_fst ?_ ‹_ = (_, _)›)
    | split

theorem State.reduceAt_canon (s : State) (k : ℕ) (key : ℕ) (op : Sys2Proof.AmoOp) (ty : Sys2Proof.ITy) (v : Sys2Proof.Word) (hc : s.Canon) : (State.reduceAt s k key op ty v).1.Canon := by
  unfold State.reduceAt
  try dsimp only
  repeat' first
    | (intro _; try dsimp only)
    | with_reducible assumption
    | with_reducible apply holds_next
    | with_reducible apply canon_foldl
    | with_reducible apply canon_foldl1
    | with_reducible apply canon_ite
    | with_reducible apply canon_ite1
    | with_reducible apply State.recall_canon
    | with_reducible apply State.grant_canon
    | with_reducible apply State.acceptRed_canon
    | with_reducible apply State.bankStore_canon
    | (refine canon_fst ?_ ‹_ = (_, _)›)
    | split

theorem State.performStore_canon (s : State) (k : ℕ) (e : Store) (hc : s.Canon) : (State.performStore s k e).Canon := by
  unfold State.performStore
  try dsimp only
  repeat' first
    | (intro _; try dsimp only)
    | with_reducible assumption
    | with_reducible apply holds_next
    | with_reducible apply canon_foldl
    | with_reducible apply canon_foldl1
    | with_reducible apply canon_ite
    | with_reducible apply canon_ite1
    | with_reducible apply State.popStore_canon
    | with_reducible apply State.writeAt_canon
    | with_reducible apply State.addFlight_canon
    | with_reducible apply State.reduceAt_canon
    | with_reducible apply State.writeBlock_canon
    | with_reducible apply State.dropBlock_canon
    | (refine canon_fst ?_ ‹_ = (_, _)›)
    | split

theorem State.drainStore_canon (s : State) (k : ℕ) (hc : s.Canon) : (State.drainStore s k).Canon := by
  unfold State.drainStore
  try dsimp only
  repeat' first
    | (intro _; try dsimp only)
    | with_reducible assumption
    | with_reducible apply holds_next
    | with_reducible apply canon_foldl
    | with_reducible apply canon_foldl1
    | with_reducible apply canon_ite
    | with_reducible apply canon_ite1
    | with_reducible apply State.performStore_canon
    | with_reducible apply State.loseWrite_canon
    | with_reducible apply State.popStore_canon
    | with_reducible apply State.refuseAt_canon
    | (refine canon_fst ?_ ‹_ = (_, _)›)
    | split

theorem State.lineUp_canon (s : State) (k : ℕ) (key : ℕ) (load : Option ℕ) (hc : s.Canon) : (State.lineUp s k key load).Canon := by
  unfold State.lineUp
  try dsimp only
  repeat' first
    | (intro _; try dsimp only)
    | with_reducible assumption
    | with_reducible apply holds_next
    | with_reducible apply canon_foldl
    | with_reducible apply canon_foldl1
    | with_reducible apply canon_ite
    | with_reducible apply canon_ite1
    | with_reducible apply canon_waiters
    | (refine canon_fst ?_ ‹_ = (_, _)›)
    | split

theorem State.leaveLine_canon (s : State) (k : ℕ) (key : ℕ) (load : Option ℕ) (hc : s.Canon) : (State.leaveLine s k key load).Canon := by
  unfold State.leaveLine
  try dsimp only
  repeat' first
    | (intro _; try dsimp only)
    | with_reducible assumption
    | with_reducible apply holds_next
    | with_reducible apply canon_foldl
    | with_reducible apply canon_foldl1
    | with_reducible apply canon_ite
    | with_reducible apply canon_ite1
    | with_reducible apply canon_waiters
    | (refine canon_fst ?_ ‹_ = (_, _)›)
    | split

theorem State.retireLoad_canon (s : State) (k : ℕ) (l : Load) (bad : Bool) (f : Core → Core) (hc : s.Canon) : (State.retireLoad s k l bad f).Canon := by
  unfold State.retireLoad
  try dsimp only
  repeat' first
    | (intro _; try dsimp only)
    | with_reducible assumption
    | with_reducible apply holds_next
    | with_reducible apply canon_foldl
    | with_reducible apply canon_foldl1
    | with_reducible apply canon_ite
    | with_reducible apply canon_ite1
    | with_reducible apply State.lateWrite_canon
    | with_reducible apply State.onCore_canon
    | (refine canon_fst ?_ ‹_ = (_, _)›)
    | split

theorem State.atomicBank_canon (s : State) (k key w : Nat) (f : Word → Option Word) (h : s.Canon) : (s.atomicBank k key w f).s.Canon := by
  have hs := State.sawStamps_canon s k key w h
  unfold State.atomicBank
  dsimp only
  split
  · exact State.bankStore_canon _ _ _ _ hs
  · exact hs

theorem State.atomicAt_canon (s : State) (k key : Nat) (ty : ITy) (f : Word → Option Word) (h : s.Canon) : (s.atomicAt k key ty f).s.Canon := by
  unfold State.atomicAt
  dsimp only
  split
  · split
    · exact State.atomicBank_canon _ _ _ _ _ h
    · have hs := State.homeSeen_canon _ k key (State.settle_canon _ key (ty.width / 8) (State.tally_canon s k (ty.width / 8) 0 h))
      split
      · exact State.homeWrite_canon _ _ _ _ hs
      · exact hs
  · exact State.atomicBank_canon _ _ _ _ _ h

theorem State.performAtomic_canon (s : State) (k : Nat) (l : Load) (value : Nat → Word) (h : s.Canon) : (s.performAtomic k l value).Canon :=
  by unfold State.performAtomic; exact State.onCore_canon _ _ _ (State.atomicAt_canon _ _ _ _ _ h)

theorem State.roBytes_canon (s : State) (k : ℕ) (key : ℕ) (n : ℕ) (hc : s.Canon) : (State.roBytes s k key n).1.Canon := by
  unfold State.roBytes
  try dsimp only
  repeat' first
    | (intro _; try dsimp only)
    | with_reducible assumption
    | with_reducible apply holds_next
    | with_reducible apply canon_foldl
    | with_reducible apply canon_foldl1
    | with_reducible apply canon_ite
    | with_reducible apply canon_ite1
    | with_reducible apply State.roRead_canon
    | with_reducible apply State.tally_canon
    | (refine canon_fst ?_ ‹_ = (_, _)›)
    | split

theorem State.performLoad_canon (s : State) (k : ℕ) (l : Load) (hc : s.Canon) : (State.performLoad s k l).Canon := by
  unfold State.performLoad
  try dsimp only
  repeat' first
    | (intro _; try dsimp only)
    | with_reducible assumption
    | with_reducible apply holds_next
    | with_reducible apply canon_foldl
    | with_reducible apply canon_foldl1
    | with_reducible apply canon_ite
    | with_reducible apply canon_ite1
    | with_reducible apply State.addFlight_canon
    | with_reducible apply State.retireLoad_canon
    | with_reducible apply State.seenBytes_canon
    | with_reducible apply State.performAtomic_canon
    | with_reducible apply State.roBytes_canon
    | with_reducible apply State.leaveLine_canon
    | with_reducible apply State.setFull_canon
    | (refine canon_fst ?_ ‹_ = (_, _)›)
    | split

theorem State.onCmd_canon (s : State) (k : ℕ) (age : ℕ) (f : Cmd → Cmd) (hc : s.Canon) : (State.onCmd s k age f).Canon := by
  unfold State.onCmd
  try dsimp only
  repeat' first
    | (intro _; try dsimp only)
    | with_reducible assumption
    | with_reducible apply holds_next
    | with_reducible apply canon_foldl
    | with_reducible apply canon_foldl1
    | with_reducible apply canon_ite
    | with_reducible apply canon_ite1
    | with_reducible apply State.onCore_canon
    | (refine canon_fst ?_ ‹_ = (_, _)›)
    | split

theorem State.seenRange_canon (s : State) (k : ℕ) (key : ℕ) (n : ℕ) (hc : s.Canon) : (State.seenRange s k key n).Canon := by
  unfold State.seenRange
  try dsimp only
  repeat' first
    | (intro _; try dsimp only)
    | with_reducible assumption
    | with_reducible apply holds_next
    | with_reducible apply canon_foldl
    | with_reducible apply canon_foldl1
    | with_reducible apply canon_ite
    | with_reducible apply canon_ite1
    | with_reducible apply State.homeSeen_canon
    | (refine canon_fst ?_ ‹_ = (_, _)›)
    | split

theorem State.engineSaw_canon (s : State) (k : ℕ) (key : ℕ) (n : ℕ) (hc : s.Canon) : (State.engineSaw s k key n).Canon := by
  unfold State.engineSaw
  try dsimp only
  repeat' first
    | (intro _; try dsimp only)
    | with_reducible assumption
    | with_reducible apply holds_next
    | with_reducible apply canon_foldl
    | with_reducible apply canon_foldl1
    | with_reducible apply canon_ite
    | with_reducible apply canon_ite1
    | with_reducible apply State.seenRange_canon
    | with_reducible apply State.tally_canon
    | with_reducible apply State.sawStamps_canon
    | (refine canon_fst ?_ ‹_ = (_, _)›)
    | split

theorem State.engineRead_canon (s : State) (k : Option ℕ) (key : ℕ) (n : ℕ) (hc : s.Canon) : (State.engineRead s k key n).1.Canon := by
  unfold State.engineRead
  try dsimp only
  repeat' first
    | (intro _; try dsimp only)
    | with_reducible assumption
    | with_reducible apply holds_next
    | with_reducible apply canon_foldl
    | with_reducible apply canon_foldl1
    | with_reducible apply canon_ite
    | with_reducible apply canon_ite1
    | with_reducible apply State.settleRange_canon
    | with_reducible apply State.engineSaw_canon
    | (refine canon_fst ?_ ‹_ = (_, _)›)
    | split

theorem State.engineWrite_canon (s : State) (key : ℕ) (bs : List Sys2Proof.Byte) (full : Bool) (hc : s.Canon) : (State.engineWrite s key bs full).Canon := by
  unfold State.engineWrite
  try dsimp only
  repeat' first
    | (intro _; try dsimp only)
    | with_reducible assumption
    | with_reducible apply holds_next
    | with_reducible apply canon_foldl
    | with_reducible apply canon_foldl1
    | with_reducible apply canon_ite
    | with_reducible apply canon_ite1
    | with_reducible apply State.dropCopies_canon
    | with_reducible apply State.homeWrite_canon
    | with_reducible apply State.fixStore_canon
    | with_reducible apply State.setWhole_canon
    | (refine canon_fst ?_ ‹_ = (_, _)›)
    | split

theorem State.completeWords_canon (s : State) (k : ℕ) (age : ℕ) (key : ℕ) (n : ℕ) (hc : s.Canon) : (State.completeWords s k age key n).Canon := by
  unfold State.completeWords
  try dsimp only
  repeat' first
    | (intro _; try dsimp only)
    | with_reducible assumption
    | with_reducible apply holds_next
    | with_reducible apply canon_foldl
    | with_reducible apply canon_foldl1
    | with_reducible apply canon_ite
    | with_reducible apply canon_ite1
    | with_reducible apply State.setFull_canon
    | with_reducible apply State.onCmd_canon
    | (refine canon_fst ?_ ‹_ = (_, _)›)
    | split

theorem State.hostGet_canon (s : State) (key : ℕ) (n : ℕ) (hc : s.Canon) : (State.hostGet s key n).Canon := by
  unfold State.hostGet
  try dsimp only
  repeat' first
    | (intro _; try dsimp only)
    | with_reducible assumption
    | with_reducible apply holds_next
    | with_reducible apply canon_foldl
    | with_reducible apply canon_foldl1
    | with_reducible apply canon_ite
    | with_reducible apply canon_ite1
    | with_reducible apply State.engineRead_canon
    | with_reducible apply canon_hostReply
    | (refine canon_fst ?_ ‹_ = (_, _)›)
    | split

theorem State.putHeld_canon (s : State) (p : HeldPut) (h : s.Canon) : (s.putHeld p).Canon := by
  have h1 := State.engineRead_canon s none (s.realKey p.key) p.len h
  have h2 := fun bs => State.engineWrite_canon _ (s.realKey p.key) bs false h1
  have h4 : ∀ u : State, u.Canon → ∀ l : List Nat,
      (l.foldl (fun (u : State) o => u.setMark (s.realKey p.key + min o (p.len - 1)) true) u).Canon :=
    fun u hu l => canon_foldl _ (fun _ _ ht => State.setMark_canon _ _ _ ht) hu
  have h5 : ∀ u : State, u.Canon → (match p.count with | some c => u.countArrival c.1 c.2 p.len | none => u).Canon := by
    intro u hu; split
    · exact State.countArrival_canon _ _ _ _ hu
    · exact hu
  have h6 : ∀ u : State, u.Canon → (match p.piece with
      | some q => u.onCmd p.core p.age fun d =>
          { d with prog := { d.prog with pieces := d.prog.pieces.filter fun x => x != q, held := d.prog.held.filter fun x => x != q,
                                         sent := d.prog.sent.filter fun x => x != q } }
      | none => { u with posted := u.posted.eraseP fun e => e.heldAt p.key }).Canon := by
    intro u hu; split
    · exact State.onCmd_canon _ _ _ _ hu
    · exact canon_posted hu _
  unfold State.putHeld
  exact h6 _ (h5 _ (h4 _ (canon_ite (State.completeWords_canon _ _ _ _ _ (h2 _)) (h2 _)) _))

theorem State.servePut_canon (s : State) (p : HeldPut) (hc : s.Canon) : (State.servePut s p).Canon := by
  unfold State.servePut
  try dsimp only
  repeat' first
    | (intro _; try dsimp only)
    | with_reducible assumption
    | with_reducible apply holds_next
    | with_reducible apply canon_foldl
    | with_reducible apply canon_foldl1
    | with_reducible apply canon_ite
    | with_reducible apply canon_ite1
    | with_reducible apply State.putHeld_canon
    | (refine canon_fst ?_ ‹_ = (_, _)›)
    | split

theorem State.serveRead_canon (s : State) (core : ℕ) (pc : Sys2Proof.Word) (va : ℕ) (key : ℕ) (n : ℕ) (hc : s.Canon) : (State.serveRead s core pc va key n).Canon := by
  unfold State.serveRead
  try dsimp only
  repeat' first
    | (intro _; try dsimp only)
    | with_reducible assumption
    | with_reducible apply holds_next
    | with_reducible apply canon_foldl
    | with_reducible apply canon_foldl1
    | with_reducible apply canon_ite
    | with_reducible apply canon_ite1
    | with_reducible apply State.loadBytes_canon
    | with_reducible apply State.onCore_canon
    | (refine canon_fst ?_ ‹_ = (_, _)›)
    | split

theorem State.serveAmax_canon (s : State) (core : ℕ) (age : ℕ) (key : ℕ) (v : Sys2Proof.Word32) (hc : s.Canon) : (State.serveAmax s core age key v).Canon := by
  unfold State.serveAmax
  try dsimp only
  repeat' first
    | (intro _; try dsimp only)
    | with_reducible assumption
    | with_reducible apply holds_next
    | with_reducible apply canon_foldl
    | with_reducible apply canon_foldl1
    | with_reducible apply canon_ite
    | with_reducible apply canon_ite1
    | with_reducible apply State.reduceAt_canon
    | with_reducible apply State.onCore_canon
    | (refine canon_fst ?_ ‹_ = (_, _)›)
    | split

theorem State.serveGet_canon (s : State) (core : ℕ) (age : ℕ) (va : ℕ) (key : ℕ) (n : ℕ) (hc : s.Canon) : (State.serveGet s core age va key n).Canon := by
  unfold State.serveGet
  try dsimp only
  repeat' first
    | (intro _; try dsimp only)
    | with_reducible assumption
    | with_reducible apply holds_next
    | with_reducible apply canon_foldl
    | with_reducible apply canon_foldl1
    | with_reducible apply canon_ite
    | with_reducible apply canon_ite1
    | with_reducible apply State.onCmd_canon
    | (refine canon_fst ?_ ‹_ = (_, _)›)
    | split

theorem State.serveOne_canon (s : State) (e : Held) (h : s.Canon) : (s.serveOne e).Canon := by
  unfold State.serveOne
  cases e with
  | load k q =>
    dsimp only
    split
    · exact canon_ite (canon_ite (State.performLoad_canon _ _ _ h) (canon_ite (State.lineUp_canon _ _ _ _ h) h)) h
    · exact h
  | store k q =>
    dsimp only
    split
    · exact canon_ite (State.drainStore_canon _ _ h) h
    · exact h
  | read k pc va key n => exact State.serveRead_canon _ _ _ _ _ _ h
  | get k age va key n => exact State.serveGet_canon _ _ _ _ _ _ h
  | amax k age key v => exact State.serveAmax_canon _ _ _ _ _ h
  | put p => exact State.servePut_canon _ _ h
  | host key n => exact State.hostGet_canon _ _ _ h

theorem State.serveHeld_canon (s : State) (t : ℕ) (hc : s.Canon) : (State.serveHeld s t).Canon := by
  unfold State.serveHeld
  try dsimp only
  repeat' first
    | (intro _; try dsimp only)
    | with_reducible assumption
    | with_reducible apply holds_next
    | with_reducible apply canon_foldl
    | with_reducible apply canon_foldl1
    | with_reducible apply canon_ite
    | with_reducible apply canon_ite1
    | with_reducible apply State.serveOne_canon
    | with_reducible apply State.setTile_canon
    | (refine canon_fst ?_ ‹_ = (_, _)›)
    | split

theorem State.holdAt_canon (s : State) (t : ℕ) (h : Held) (hc : s.Canon) : (State.holdAt s t h).Canon := by
  unfold State.holdAt
  try dsimp only
  repeat' first
    | (intro _; try dsimp only)
    | with_reducible assumption
    | with_reducible apply holds_next
    | with_reducible apply canon_foldl
    | with_reducible apply canon_foldl1
    | with_reducible apply canon_ite
    | with_reducible apply canon_ite1
    | with_reducible apply State.setTile_canon
    | (refine canon_fst ?_ ‹_ = (_, _)›)
    | split

/-! ### Ops -/

theorem State.openTile_canon (s : State) (t : ℕ) (hc : s.Canon) : (State.openTile s t).Canon := by
  unfold State.openTile
  try dsimp only
  repeat' first
    | (intro _; try dsimp only)
    | with_reducible assumption
    | with_reducible apply holds_next
    | with_reducible apply canon_foldl
    | with_reducible apply canon_foldl1
    | with_reducible apply canon_ite
    | with_reducible apply canon_ite1
    | with_reducible apply State.serveHeld_canon
    | with_reducible apply State.onTile_canon
    | with_reducible apply State.raiseClock_canon
    | (refine canon_fst ?_ ‹_ = (_, _)›)
    | split

theorem State.releaseTile_canon (s : State) (t : ℕ) (tf : ℕ) (hc : s.Canon) : (State.releaseTile s t tf).Canon := by
  unfold State.releaseTile
  try dsimp only
  repeat' first
    | (intro _; try dsimp only)
    | with_reducible assumption
    | with_reducible apply holds_next
    | with_reducible apply canon_foldl
    | with_reducible apply canon_foldl1
    | with_reducible apply canon_ite
    | with_reducible apply canon_ite1
    | with_reducible apply State.onSector_canon
    | with_reducible apply State.raiseClock_canon
    | with_reducible apply State.onTile_canon
    | with_reducible apply State.zeroRange_canon
    | (refine canon_fst ?_ ‹_ = (_, _)›)
    | split

theorem State.releaseAll_canon (s : State) (ts : List ℕ) (hc : s.Canon) : (State.releaseAll s ts).Canon := by
  unfold State.releaseAll
  try dsimp only
  repeat' first
    | (intro _; try dsimp only)
    | with_reducible assumption
    | with_reducible apply holds_next
    | with_reducible apply canon_foldl
    | with_reducible apply canon_foldl1
    | with_reducible apply canon_ite
    | with_reducible apply canon_ite1
    | with_reducible apply State.openTile_canon
    | with_reducible apply State.releaseTile_canon
    | (refine canon_fst ?_ ‹_ = (_, _)›)
    | split

theorem State.freeBar_canon (s : State) (c : Compact) (hc : s.Canon) : (State.freeBar s c).Canon := by
  unfold State.freeBar
  try dsimp only
  repeat' first
    | (intro _; try dsimp only)
    | with_reducible assumption
    | with_reducible apply holds_next
    | with_reducible apply canon_foldl
    | with_reducible apply canon_foldl1
    | with_reducible apply canon_ite
    | with_reducible apply canon_ite1
    | with_reducible apply State.onBar_canon
    | (refine canon_fst ?_ ‹_ = (_, _)›)
    | split

theorem State.retireCmd_canon (s : State) (k : ℕ) (d : Cmd) (hc : s.Canon) : (State.retireCmd s k d).Canon := by
  unfold State.retireCmd
  try dsimp only
  repeat' first
    | (intro _; try dsimp only)
    | with_reducible assumption
    | with_reducible apply holds_next
    | with_reducible apply canon_foldl
    | with_reducible apply canon_foldl1
    | with_reducible apply canon_ite
    | with_reducible apply canon_ite1
    | with_reducible apply State.onCore_canon
    | with_reducible apply State.tagDrop_canon
    | (refine canon_fst ?_ ‹_ = (_, _)›)
    | split

theorem State.noteDesc_canon (s : State) (k : ℕ) (cause : ℕ) (hc : s.Canon) : (State.noteDesc s k cause).Canon := by
  unfold State.noteDesc
  try dsimp only
  repeat' first
    | (intro _; try dsimp only)
    | with_reducible assumption
    | with_reducible apply holds_next
    | with_reducible apply canon_foldl
    | with_reducible apply canon_foldl1
    | with_reducible apply canon_ite
    | with_reducible apply canon_ite1
    | with_reducible apply State.onCore_canon
    | (refine canon_fst ?_ ‹_ = (_, _)›)
    | split

theorem State.faultCmd_canon (s : State) (k : ℕ) (d : Cmd) (cause : ℕ) (va : ℕ) (hc : s.Canon) : (State.faultCmd s k d cause va).Canon := by
  unfold State.faultCmd
  try dsimp only
  repeat' first
    | (intro _; try dsimp only)
    | with_reducible assumption
    | with_reducible apply holds_next
    | with_reducible apply canon_foldl
    | with_reducible apply canon_foldl1
    | with_reducible apply canon_ite
    | with_reducible apply canon_ite1
    | with_reducible apply State.recordFault_canon
    | with_reducible apply State.noteDesc_canon
    | (refine canon_fst ?_ ‹_ = (_, _)›)
    | split

theorem State.tellBroken_canon (s : State) (t : ℕ) (hc : s.Canon) : (State.tellBroken s t).Canon := by
  unfold State.tellBroken
  try dsimp only
  repeat' first
    | (intro _; try dsimp only)
    | with_reducible assumption
    | with_reducible apply holds_next
    | with_reducible apply canon_foldl
    | with_reducible apply canon_foldl1
    | with_reducible apply canon_ite
    | with_reducible apply canon_ite1
    | with_reducible apply State.onCore_canon
    | (refine canon_fst ?_ ‹_ = (_, _)›)
    | split

theorem State.breakSign_canon (s : State) (t : ℕ) (hc : s.Canon) : (State.breakSign s t).Canon := by
  unfold State.breakSign
  try dsimp only
  repeat' first
    | (intro _; try dsimp only)
    | with_reducible assumption
    | with_reducible apply holds_next
    | with_reducible apply canon_foldl
    | with_reducible apply canon_foldl1
    | with_reducible apply canon_ite
    | with_reducible apply canon_ite1
    | with_reducible apply State.onTile_canon
    | with_reducible apply State.onCore_canon
    | (refine canon_fst ?_ ‹_ = (_, _)›)
    | split

theorem State.breakWork_canon (s : State) (t : ℕ) (hc : s.Canon) : (State.breakWork s t).Canon := by
  unfold State.breakWork
  try dsimp only
  repeat' first
    | (intro _; try dsimp only)
    | with_reducible assumption
    | with_reducible apply holds_next
    | with_reducible apply canon_foldl
    | with_reducible apply canon_foldl1
    | with_reducible apply canon_ite
    | with_reducible apply canon_ite1
    | with_reducible apply State.retireCmd_canon
    | with_reducible apply State.faultCmd_canon
    | (refine canon_fst ?_ ‹_ = (_, _)›)
    | split

theorem State.breakWhole_canon (s : State) (c : Compact) (hc : s.Canon) : (State.breakWhole s c).Canon := by
  unfold State.breakWhole
  try dsimp only
  repeat' first
    | (intro _; try dsimp only)
    | with_reducible assumption
    | with_reducible apply holds_next
    | with_reducible apply canon_foldl
    | with_reducible apply canon_foldl1
    | with_reducible apply canon_ite
    | with_reducible apply canon_ite1
    | with_reducible apply State.breakSign_canon
    | with_reducible apply State.breakWork_canon
    | with_reducible apply State.tellBroken_canon
    | with_reducible apply State.freeBar_canon
    | with_reducible apply State.releaseAll_canon
    | (refine canon_fst ?_ ‹_ = (_, _)›)
    | split

theorem State.breakCompact_canon (s : State) (t : ℕ) (hc : s.Canon) : (State.breakCompact s t).Canon := by
  unfold State.breakCompact
  try dsimp only
  repeat' first
    | (intro _; try dsimp only)
    | with_reducible assumption
    | with_reducible apply holds_next
    | with_reducible apply canon_foldl
    | with_reducible apply canon_foldl1
    | with_reducible apply canon_ite
    | with_reducible apply canon_ite1
    | with_reducible apply State.breakWhole_canon
    | (refine canon_fst ?_ ‹_ = (_, _)›)
    | split

theorem State.breakAll_canon (s : State) (hit : Compact → Bool) (hc : s.Canon) : (State.breakAll s hit).Canon := by
  unfold State.breakAll
  try dsimp only
  repeat' first
    | (intro _; try dsimp only)
    | with_reducible assumption
    | with_reducible apply holds_next
    | with_reducible apply canon_foldl
    | with_reducible apply canon_foldl1
    | with_reducible apply canon_ite
    | with_reducible apply canon_ite1
    | with_reducible apply State.breakWhole_canon
    | (refine canon_fst ?_ ‹_ = (_, _)›)
    | split

theorem State.breakIfSigner_canon (s : State) (k : ℕ) (hc : s.Canon) : (State.breakIfSigner s k).Canon := by
  unfold State.breakIfSigner
  try dsimp only
  repeat' first
    | (intro _; try dsimp only)
    | with_reducible assumption
    | with_reducible apply holds_next
    | with_reducible apply canon_foldl
    | with_reducible apply canon_foldl1
    | with_reducible apply canon_ite
    | with_reducible apply canon_ite1
    | with_reducible apply State.breakWhole_canon
    | (refine canon_fst ?_ ‹_ = (_, _)›)
    | split

theorem State.signerLeaves_canon (s : State) (k : ℕ) (hc : s.Canon) : (State.signerLeaves s k).Canon := by
  unfold State.signerLeaves
  try dsimp only
  repeat' first
    | (intro _; try dsimp only)
    | with_reducible assumption
    | with_reducible apply holds_next
    | with_reducible apply canon_foldl
    | with_reducible apply canon_foldl1
    | with_reducible apply canon_ite
    | with_reducible apply canon_ite1
    | with_reducible apply State.onTile_canon
    | (refine canon_fst ?_ ‹_ = (_, _)›)
    | split

theorem State.dropSign_canon (s : State) (k : ℕ) (hc : s.Canon) : (State.dropSign s k).Canon := by
  unfold State.dropSign
  try dsimp only
  repeat' first
    | (intro _; try dsimp only)
    | with_reducible assumption
    | with_reducible apply holds_next
    | with_reducible apply canon_foldl
    | with_reducible apply canon_foldl1
    | with_reducible apply canon_ite
    | with_reducible apply canon_ite1
    | with_reducible apply State.onTile_canon
    | with_reducible apply State.onBar_canon
    | (refine canon_fst ?_ ‹_ = (_, _)›)
    | split

theorem State.leaveGang_canon (s : State) (k : ℕ) (hc : s.Canon) : (State.leaveGang s k).Canon := by
  unfold State.leaveGang
  try dsimp only
  repeat' first
    | (intro _; try dsimp only)
    | with_reducible assumption
    | with_reducible apply holds_next
    | with_reducible apply canon_foldl
    | with_reducible apply canon_foldl1
    | with_reducible apply canon_ite
    | with_reducible apply canon_ite1
    | with_reducible apply State.onCore_canon
    | (refine canon_fst ?_ ‹_ = (_, _)›)
    | split

theorem State.dropReq_canon (s : State) (k : ℕ) (hc : s.Canon) : (State.dropReq s k).Canon := by
  unfold State.dropReq
  try dsimp only
  repeat' first
    | (intro _; try dsimp only)
    | with_reducible assumption
    | with_reducible apply holds_next
    | with_reducible apply canon_foldl
    | with_reducible apply canon_foldl1
    | with_reducible apply canon_ite
    | with_reducible apply canon_ite1
    | with_reducible apply State.onTile_canon
    | (refine canon_fst ?_ ‹_ = (_, _)›)
    | split

theorem State.abandon_canon (s : State) (k : ℕ) (hc : s.Canon) : (State.abandon s k).Canon := by
  unfold State.abandon
  try dsimp only
  repeat' first
    | (intro _; try dsimp only)
    | with_reducible assumption
    | with_reducible apply holds_next
    | with_reducible apply canon_foldl
    | with_reducible apply canon_foldl1
    | with_reducible apply canon_ite
    | with_reducible apply canon_ite1
    | with_reducible apply State.dropSign_canon
    | with_reducible apply State.dropReq_canon
    | (refine canon_fst ?_ ‹_ = (_, _)›)
    | split

theorem State.stopThread_canon (s : State) (k : ℕ) (st : ThreadState) (hc : s.Canon) : (State.stopThread s k st).Canon := by
  unfold State.stopThread
  try dsimp only
  repeat' first
    | (intro _; try dsimp only)
    | with_reducible assumption
    | with_reducible apply holds_next
    | with_reducible apply canon_foldl
    | with_reducible apply canon_foldl1
    | with_reducible apply canon_ite
    | with_reducible apply canon_ite1
    | with_reducible apply State.abandon_canon
    | with_reducible apply State.keepFloors_canon
    | with_reducible apply State.leaveGang_canon
    | with_reducible apply State.leaveBarriers_canon
    | with_reducible apply State.flushRc_canon
    | with_reducible apply State.onCore_canon
    | (refine canon_fst ?_ ‹_ = (_, _)›)
    | split

theorem State.dropWork_canon (s : State) (k : ℕ) (hc : s.Canon) : (State.dropWork s k).Canon := by
  unfold State.dropWork
  try dsimp only
  repeat' first
    | (intro _; try dsimp only)
    | with_reducible assumption
    | with_reducible apply holds_next
    | with_reducible apply canon_foldl
    | with_reducible apply canon_foldl1
    | with_reducible apply canon_ite
    | with_reducible apply canon_ite1
    | with_reducible apply State.retireCmd_canon
    | with_reducible apply State.onCore_canon
    | with_reducible apply State.onTile_canon
    | with_reducible apply State.abandon_canon
    | (refine canon_fst ?_ ‹_ = (_, _)›)
    | split

theorem State.dropGrads_canon (s : State) (churn : Nat) (h : s.Canon) : (s.dropGrads churn).Canon := by
  refine canon_foldl _ (fun t n ht => ?_) h
  have key : ∀ u : State, u.Canon → State.Canon { u with grads := u.grads.del (gradKey churn n) } := fun u hu =>
    canon_grads hu (SMap.wfFrom_del _ hu.grads)
  refine key _ (canon_foldl _ (fun u g hu => ?_) ht)
  split
  · exact State.retireCmd_canon _ _ _ (canon_ite (State.faultCmd_canon _ _ _ _ _ hu) hu)
  · exact hu

theorem State.silence_canon (s : State) (k : ℕ) (hc : s.Canon) : (State.silence s k).Canon := by
  unfold State.silence
  try dsimp only
  repeat' first
    | (intro _; try dsimp only)
    | with_reducible assumption
    | with_reducible apply holds_next
    | with_reducible apply canon_foldl
    | with_reducible apply canon_foldl1
    | with_reducible apply canon_ite
    | with_reducible apply canon_ite1
    | with_reducible apply State.onDie_canon
    | (refine canon_fst ?_ ‹_ = (_, _)›)
    | split

theorem State.killCore_canon (s : State) (k : ℕ) (tpc : Sys2Proof.Word) (tval : Sys2Proof.Word) (hc : s.Canon) : (State.killCore s k tpc tval).Canon := by
  unfold State.killCore
  try dsimp only
  repeat' first
    | (intro _; try dsimp only)
    | with_reducible assumption
    | with_reducible apply holds_next
    | with_reducible apply canon_foldl
    | with_reducible apply canon_foldl1
    | with_reducible apply canon_ite
    | with_reducible apply canon_ite1
    | with_reducible apply State.setCore_canon
    | with_reducible apply State.keepFloors_canon
    | with_reducible apply State.breakIfSigner_canon
    | with_reducible apply State.mailClear_canon
    | with_reducible apply State.leaveBarriers_canon
    | with_reducible apply State.dropWork_canon
    | with_reducible apply State.signerLeaves_canon
    | with_reducible apply State.leaveGang_canon
    | with_reducible apply State.silence_canon
    | with_reducible apply State.dropGrads_canon
    | (refine canon_fst ?_ ‹_ = (_, _)›)
    | split

theorem State.freezeCore_canon (s : State) (k : ℕ) (tval : Sys2Proof.Word) (aux : Sys2Proof.Word) (hc : s.Canon) : (State.freezeCore s k tval aux).Canon := by
  unfold State.freezeCore
  try dsimp only
  repeat' first
    | (intro _; try dsimp only)
    | with_reducible assumption
    | with_reducible apply holds_next
    | with_reducible apply canon_foldl
    | with_reducible apply canon_foldl1
    | with_reducible apply canon_ite
    | with_reducible apply canon_ite1
    | with_reducible apply State.onCore_canon
    | with_reducible apply State.recordCore_canon
    | with_reducible apply State.stopThread_canon
    | (refine canon_fst ?_ ‹_ = (_, _)›)
    | split

theorem State.takeTrap_canon (s : State) (k : ℕ) (cause : ℕ) (eng : Bool) (pc : Sys2Proof.Word) (tval : Sys2Proof.Word) (aux : Sys2Proof.Word) (hc : s.Canon) : (State.takeTrap s k cause eng pc tval aux).Canon := by
  unfold State.takeTrap
  try dsimp only
  repeat' first
    | (intro _; try dsimp only)
    | with_reducible assumption
    | with_reducible apply holds_next
    | with_reducible apply canon_foldl
    | with_reducible apply canon_foldl1
    | with_reducible apply canon_ite
    | with_reducible apply canon_ite1
    | with_reducible apply State.freezeCore_canon
    | with_reducible apply State.killCore_canon
    | with_reducible apply State.onCore_canon
    | with_reducible apply State.recordCore_canon
    | with_reducible apply State.stopThread_canon
    | with_reducible apply State.leaveGang_canon
    | with_reducible apply State.abandon_canon
    | with_reducible apply State.keepFloors_canon
    | (refine canon_fst ?_ ‹_ = (_, _)›)
    | split

theorem State.returnTrap_canon (s : State) (k : ℕ) (hc : s.Canon) : (State.returnTrap s k).Canon := by
  unfold State.returnTrap
  try dsimp only
  repeat' first
    | (intro _; try dsimp only)
    | with_reducible assumption
    | with_reducible apply holds_next
    | with_reducible apply canon_foldl
    | with_reducible apply canon_foldl1
    | with_reducible apply canon_ite
    | with_reducible apply canon_ite1
    | with_reducible apply State.onCore_canon
    | (refine canon_fst ?_ ‹_ = (_, _)›)
    | split

theorem State.await_canon (s : State) (k : ℕ) (hc : s.Canon) : (State.await s k).Canon := by
  unfold State.await
  try dsimp only
  repeat' first
    | (intro _; try dsimp only)
    | with_reducible assumption
    | with_reducible apply holds_next
    | with_reducible apply canon_foldl
    | with_reducible apply canon_foldl1
    | with_reducible apply canon_ite
    | with_reducible apply canon_ite1
    | with_reducible apply State.onCore_canon
    | (refine canon_fst ?_ ‹_ = (_, _)›)
    | split

theorem State.awaitFresh_canon (s : State) (k : ℕ) (counting : Bool) (hc : s.Canon) : (State.awaitFresh s k counting).Canon := by
  unfold State.awaitFresh
  try dsimp only
  repeat' first
    | (intro _; try dsimp only)
    | with_reducible assumption
    | with_reducible apply holds_next
    | with_reducible apply canon_foldl
    | with_reducible apply canon_foldl1
    | with_reducible apply canon_ite
    | with_reducible apply canon_ite1
    | with_reducible apply State.onCore_canon
    | (refine canon_fst ?_ ‹_ = (_, _)›)
    | split

theorem State.finish_canon (s : State) (k : ℕ) (hc : s.Canon) : (State.finish s k).Canon := by
  unfold State.finish
  try dsimp only
  repeat' first
    | (intro _; try dsimp only)
    | with_reducible assumption
    | with_reducible apply holds_next
    | with_reducible apply canon_foldl
    | with_reducible apply canon_foldl1
    | with_reducible apply canon_ite
    | with_reducible apply canon_ite1
    | with_reducible apply State.onCore_canon
    | (refine canon_fst ?_ ‹_ = (_, _)›)
    | split

theorem State.stepGang_canon (s : State) (k : ℕ) (hc : s.Canon) : (State.stepGang s k).Canon := by
  unfold State.stepGang
  try dsimp only
  repeat' first
    | (intro _; try dsimp only)
    | with_reducible assumption
    | with_reducible apply holds_next
    | with_reducible apply canon_foldl
    | with_reducible apply canon_foldl1
    | with_reducible apply canon_ite
    | with_reducible apply canon_ite1
    | with_reducible apply State.onCore_canon
    | with_reducible apply State.leaveGang_canon
    | (refine canon_fst ?_ ‹_ = (_, _)›)
    | split

theorem State.complete_canon (s : State) (k : ℕ) (hc : s.Canon) : (State.complete s k).Canon := by
  unfold State.complete
  try dsimp only
  repeat' first
    | (intro _; try dsimp only)
    | with_reducible assumption
    | with_reducible apply holds_next
    | with_reducible apply canon_foldl
    | with_reducible apply canon_foldl1
    | with_reducible apply canon_ite
    | with_reducible apply canon_ite1
    | with_reducible apply State.stepGang_canon
    | with_reducible apply State.finish_canon
    | (refine canon_fst ?_ ‹_ = (_, _)›)
    | split

theorem State.finishWith_canon (s : State) (k : ℕ) (f : Core → Core) (hc : s.Canon) : (State.finishWith s k f).Canon := by
  unfold State.finishWith
  try dsimp only
  repeat' first
    | (intro _; try dsimp only)
    | with_reducible assumption
    | with_reducible apply holds_next
    | with_reducible apply canon_foldl
    | with_reducible apply canon_foldl1
    | with_reducible apply canon_ite
    | with_reducible apply canon_ite1
    | with_reducible apply State.onCore_canon
    | (refine canon_fst ?_ ‹_ = (_, _)›)
    | split

theorem State.trap_canon (s : State) (k : ℕ) (cause : ℕ) (tval : Sys2Proof.Word) (hc : s.Canon) : (State.trap s k cause tval).Canon := by
  unfold State.trap
  try dsimp only
  repeat' first
    | (intro _; try dsimp only)
    | with_reducible assumption
    | with_reducible apply holds_next
    | with_reducible apply canon_foldl
    | with_reducible apply canon_foldl1
    | with_reducible apply canon_ite
    | with_reducible apply canon_ite1
    | with_reducible apply State.takeTrap_canon
    | with_reducible apply State.await_canon
    | (refine canon_fst ?_ ‹_ = (_, _)›)
    | split

theorem State.trapEng_canon (s : State) (k : ℕ) (cause : ℕ) (tval : Sys2Proof.Word) (hc : s.Canon) : (State.trapEng s k cause tval).Canon := by
  unfold State.trapEng
  try dsimp only
  repeat' first
    | (intro _; try dsimp only)
    | with_reducible assumption
    | with_reducible apply holds_next
    | with_reducible apply canon_foldl
    | with_reducible apply canon_foldl1
    | with_reducible apply canon_ite
    | with_reducible apply canon_ite1
    | with_reducible apply State.takeTrap_canon
    | with_reducible apply State.await_canon
    | (refine canon_fst ?_ ‹_ = (_, _)›)
    | split

theorem State.trapFault_canon (s : State) (k : ℕ) (hc : s.Canon) : (State.trapFault s k).Canon := by
  unfold State.trapFault
  try dsimp only
  repeat' first
    | (intro _; try dsimp only)
    | with_reducible assumption
    | with_reducible apply holds_next
    | with_reducible apply canon_foldl
    | with_reducible apply canon_foldl1
    | with_reducible apply canon_ite
    | with_reducible apply canon_ite1
    | with_reducible apply State.takeTrap_canon
    | with_reducible apply State.clearPend_canon
    | with_reducible apply State.await_canon
    | (refine canon_fst ?_ ‹_ = (_, _)›)
    | split

theorem State.withOperands_canon (s : State) (k : ℕ) (i : Sys2Proof.Instr) (body : State → State) (hc : s.Canon) (hb_body : ∀ a0, a0.Canon → (body a0).Canon) : (State.withOperands s k i body).Canon := by
  unfold State.withOperands
  try dsimp only
  repeat' first
    | (intro _; try dsimp only)
    | with_reducible assumption
    | with_reducible apply holds_next
    | with_reducible apply canon_foldl
    | with_reducible apply canon_foldl1
    | with_reducible apply canon_ite
    | with_reducible apply canon_ite1
    | with_reducible apply hb_body
    | with_reducible apply State.await_canon
    | with_reducible apply State.fill_canon
    | with_reducible apply State.takeTrap_canon
    | (refine canon_fst ?_ ‹_ = (_, _)›)
    | split

theorem State.issue_canon (s : State) (i : Sys2Proof.Instr) (body : ℕ → State → State) (hc : s.Canon) (hb_body : ∀ a0 a1, a1.Canon → (body a0 a1).Canon) : (State.issue s i body).Canon := by
  unfold State.issue
  try dsimp only
  repeat' first
    | (intro _; try dsimp only)
    | with_reducible assumption
    | with_reducible apply holds_next
    | with_reducible apply canon_foldl
    | with_reducible apply canon_foldl1
    | with_reducible apply canon_ite
    | with_reducible apply canon_ite1
    | with_reducible apply hb_body
    | with_reducible apply State.trap_canon
    | with_reducible apply State.await_canon
    | with_reducible apply State.fill_canon
    | with_reducible apply State.takeTrap_canon
    | with_reducible apply State.withOperands_canon
    | with_reducible apply State.onCore_canon
    | (refine canon_fst ?_ ‹_ = (_, _)›)
    | split

end Machine
end Sys2Proof
end

