-- ==== Sys2Proof/Laws/CanonCore.lean ====
section
/-! SUPPORT. Every function over the instructions a thread issues by itself and the vector lanes keeps the canonical form of State.
Each lemma is named after its function; the instruction meanings answer a state that keeps it. -/

namespace Sys2Proof
namespace Machine
set_option linter.all false

/-! ### Scalar -/

theorem scalarWord_canon (i : Sys2Proof.Instr) (s : State) (f : Core → Core) (hc : s.Canon) : Holds State.Canon (scalarWord i s f) := by
  unfold scalarWord
  try dsimp only
  repeat' first
    | (intro _; try dsimp only)
    | with_reducible assumption
    | with_reducible apply holds_next
    | with_reducible apply canon_foldl
    | with_reducible apply canon_foldl1
    | with_reducible apply canon_ite
    | with_reducible apply canon_ite1
    | with_reducible apply State.issue_canon
    | with_reducible apply State.finishWith_canon
    | (refine canon_fst ?_ ‹_ = (_, _)›)
    | split

theorem execAdd_canon (g : Sys2Proof.Guard) (o : Sys2Proof.IntR) (s : State) (hc : s.Canon) : Holds State.Canon (execAdd g o s) := by
  unfold execAdd
  try dsimp only
  repeat' first
    | (intro _; try dsimp only)
    | with_reducible assumption
    | with_reducible apply holds_next
    | with_reducible apply canon_foldl
    | with_reducible apply canon_foldl1
    | with_reducible apply canon_ite
    | with_reducible apply canon_ite1
    | with_reducible apply scalarWord_canon
    | (refine canon_fst ?_ ‹_ = (_, _)›)
    | split

theorem execSub_canon (g : Sys2Proof.Guard) (o : Sys2Proof.IntR) (s : State) (hc : s.Canon) : Holds State.Canon (execSub g o s) := by
  unfold execSub
  try dsimp only
  repeat' first
    | (intro _; try dsimp only)
    | with_reducible assumption
    | with_reducible apply holds_next
    | with_reducible apply canon_foldl
    | with_reducible apply canon_foldl1
    | with_reducible apply canon_ite
    | with_reducible apply canon_ite1
    | with_reducible apply scalarWord_canon
    | (refine canon_fst ?_ ‹_ = (_, _)›)
    | split

theorem execMul_canon (g : Sys2Proof.Guard) (o : Sys2Proof.IntR) (s : State) (hc : s.Canon) : Holds State.Canon (execMul g o s) := by
  unfold execMul
  try dsimp only
  repeat' first
    | (intro _; try dsimp only)
    | with_reducible assumption
    | with_reducible apply holds_next
    | with_reducible apply canon_foldl
    | with_reducible apply canon_foldl1
    | with_reducible apply canon_ite
    | with_reducible apply canon_ite1
    | with_reducible apply scalarWord_canon
    | (refine canon_fst ?_ ‹_ = (_, _)›)
    | split

theorem execMulh_canon (g : Sys2Proof.Guard) (o : Sys2Proof.IntR) (s : State) (hc : s.Canon) : Holds State.Canon (execMulh g o s) := by
  unfold execMulh
  try dsimp only
  repeat' first
    | (intro _; try dsimp only)
    | with_reducible assumption
    | with_reducible apply holds_next
    | with_reducible apply canon_foldl
    | with_reducible apply canon_foldl1
    | with_reducible apply canon_ite
    | with_reducible apply canon_ite1
    | with_reducible apply scalarWord_canon
    | (refine canon_fst ?_ ‹_ = (_, _)›)
    | split

theorem execDiv_canon (g : Sys2Proof.Guard) (o : Sys2Proof.IntR) (s : State) (hc : s.Canon) : Holds State.Canon (execDiv g o s) := by
  unfold execDiv
  try dsimp only
  repeat' first
    | (intro _; try dsimp only)
    | with_reducible assumption
    | with_reducible apply holds_next
    | with_reducible apply canon_foldl
    | with_reducible apply canon_foldl1
    | with_reducible apply canon_ite
    | with_reducible apply canon_ite1
    | with_reducible apply scalarWord_canon
    | (refine canon_fst ?_ ‹_ = (_, _)›)
    | split

theorem execRem_canon (g : Sys2Proof.Guard) (o : Sys2Proof.IntR) (s : State) (hc : s.Canon) : Holds State.Canon (execRem g o s) := by
  unfold execRem
  try dsimp only
  repeat' first
    | (intro _; try dsimp only)
    | with_reducible assumption
    | with_reducible apply holds_next
    | with_reducible apply canon_foldl
    | with_reducible apply canon_foldl1
    | with_reducible apply canon_ite
    | with_reducible apply canon_ite1
    | with_reducible apply scalarWord_canon
    | (refine canon_fst ?_ ‹_ = (_, _)›)
    | split

theorem execAnd_canon (g : Sys2Proof.Guard) (o : Sys2Proof.IntR) (s : State) (hc : s.Canon) : Holds State.Canon (execAnd g o s) := by
  unfold execAnd
  try dsimp only
  repeat' first
    | (intro _; try dsimp only)
    | with_reducible assumption
    | with_reducible apply holds_next
    | with_reducible apply canon_foldl
    | with_reducible apply canon_foldl1
    | with_reducible apply canon_ite
    | with_reducible apply canon_ite1
    | with_reducible apply scalarWord_canon
    | (refine canon_fst ?_ ‹_ = (_, _)›)
    | split

theorem execOr_canon (g : Sys2Proof.Guard) (o : Sys2Proof.IntR) (s : State) (hc : s.Canon) : Holds State.Canon (execOr g o s) := by
  unfold execOr
  try dsimp only
  repeat' first
    | (intro _; try dsimp only)
    | with_reducible assumption
    | with_reducible apply holds_next
    | with_reducible apply canon_foldl
    | with_reducible apply canon_foldl1
    | with_reducible apply canon_ite
    | with_reducible apply canon_ite1
    | with_reducible apply scalarWord_canon
    | (refine canon_fst ?_ ‹_ = (_, _)›)
    | split

theorem execXor_canon (g : Sys2Proof.Guard) (o : Sys2Proof.IntR) (s : State) (hc : s.Canon) : Holds State.Canon (execXor g o s) := by
  unfold execXor
  try dsimp only
  repeat' first
    | (intro _; try dsimp only)
    | with_reducible assumption
    | with_reducible apply holds_next
    | with_reducible apply canon_foldl
    | with_reducible apply canon_foldl1
    | with_reducible apply canon_ite
    | with_reducible apply canon_ite1
    | with_reducible apply scalarWord_canon
    | (refine canon_fst ?_ ‹_ = (_, _)›)
    | split

theorem execAndn_canon (g : Sys2Proof.Guard) (o : Sys2Proof.IntR) (s : State) (hc : s.Canon) : Holds State.Canon (execAndn g o s) := by
  unfold execAndn
  try dsimp only
  repeat' first
    | (intro _; try dsimp only)
    | with_reducible assumption
    | with_reducible apply holds_next
    | with_reducible apply canon_foldl
    | with_reducible apply canon_foldl1
    | with_reducible apply canon_ite
    | with_reducible apply canon_ite1
    | with_reducible apply scalarWord_canon
    | (refine canon_fst ?_ ‹_ = (_, _)›)
    | split

theorem execSll_canon (g : Sys2Proof.Guard) (o : Sys2Proof.IntR) (s : State) (hc : s.Canon) : Holds State.Canon (execSll g o s) := by
  unfold execSll
  try dsimp only
  repeat' first
    | (intro _; try dsimp only)
    | with_reducible assumption
    | with_reducible apply holds_next
    | with_reducible apply canon_foldl
    | with_reducible apply canon_foldl1
    | with_reducible apply canon_ite
    | with_reducible apply canon_ite1
    | with_reducible apply scalarWord_canon
    | (refine canon_fst ?_ ‹_ = (_, _)›)
    | split

theorem execSrl_canon (g : Sys2Proof.Guard) (o : Sys2Proof.IntR) (s : State) (hc : s.Canon) : Holds State.Canon (execSrl g o s) := by
  unfold execSrl
  try dsimp only
  repeat' first
    | (intro _; try dsimp only)
    | with_reducible assumption
    | with_reducible apply holds_next
    | with_reducible apply canon_foldl
    | with_reducible apply canon_foldl1
    | with_reducible apply canon_ite
    | with_reducible apply canon_ite1
    | with_reducible apply scalarWord_canon
    | (refine canon_fst ?_ ‹_ = (_, _)›)
    | split

theorem execSra_canon (g : Sys2Proof.Guard) (o : Sys2Proof.IntR) (s : State) (hc : s.Canon) : Holds State.Canon (execSra g o s) := by
  unfold execSra
  try dsimp only
  repeat' first
    | (intro _; try dsimp only)
    | with_reducible assumption
    | with_reducible apply holds_next
    | with_reducible apply canon_foldl
    | with_reducible apply canon_foldl1
    | with_reducible apply canon_ite
    | with_reducible apply canon_ite1
    | with_reducible apply scalarWord_canon
    | (refine canon_fst ?_ ‹_ = (_, _)›)
    | split

theorem execRot_canon (g : Sys2Proof.Guard) (o : Sys2Proof.IntR) (s : State) (hc : s.Canon) : Holds State.Canon (execRot g o s) := by
  unfold execRot
  try dsimp only
  repeat' first
    | (intro _; try dsimp only)
    | with_reducible assumption
    | with_reducible apply holds_next
    | with_reducible apply canon_foldl
    | with_reducible apply canon_foldl1
    | with_reducible apply canon_ite
    | with_reducible apply canon_ite1
    | with_reducible apply scalarWord_canon
    | (refine canon_fst ?_ ‹_ = (_, _)›)
    | split

theorem execMin_canon (g : Sys2Proof.Guard) (o : Sys2Proof.IntR) (s : State) (hc : s.Canon) : Holds State.Canon (execMin g o s) := by
  unfold execMin
  try dsimp only
  repeat' first
    | (intro _; try dsimp only)
    | with_reducible assumption
    | with_reducible apply holds_next
    | with_reducible apply canon_foldl
    | with_reducible apply canon_foldl1
    | with_reducible apply canon_ite
    | with_reducible apply canon_ite1
    | with_reducible apply scalarWord_canon
    | (refine canon_fst ?_ ‹_ = (_, _)›)
    | split

theorem execMax_canon (g : Sys2Proof.Guard) (o : Sys2Proof.IntR) (s : State) (hc : s.Canon) : Holds State.Canon (execMax g o s) := by
  unfold execMax
  try dsimp only
  repeat' first
    | (intro _; try dsimp only)
    | with_reducible assumption
    | with_reducible apply holds_next
    | with_reducible apply canon_foldl
    | with_reducible apply canon_foldl1
    | with_reducible apply canon_ite
    | with_reducible apply canon_ite1
    | with_reducible apply scalarWord_canon
    | (refine canon_fst ?_ ‹_ = (_, _)›)
    | split

theorem execAddImm_canon (g : Sys2Proof.Guard) (o : Sys2Proof.IntI) (s : State) (hc : s.Canon) : Holds State.Canon (execAddImm g o s) := by
  unfold execAddImm
  try dsimp only
  repeat' first
    | (intro _; try dsimp only)
    | with_reducible assumption
    | with_reducible apply holds_next
    | with_reducible apply canon_foldl
    | with_reducible apply canon_foldl1
    | with_reducible apply canon_ite
    | with_reducible apply canon_ite1
    | with_reducible apply scalarWord_canon
    | (refine canon_fst ?_ ‹_ = (_, _)›)
    | split

theorem execMulImm_canon (g : Sys2Proof.Guard) (o : Sys2Proof.IntI) (s : State) (hc : s.Canon) : Holds State.Canon (execMulImm g o s) := by
  unfold execMulImm
  try dsimp only
  repeat' first
    | (intro _; try dsimp only)
    | with_reducible assumption
    | with_reducible apply holds_next
    | with_reducible apply canon_foldl
    | with_reducible apply canon_foldl1
    | with_reducible apply canon_ite
    | with_reducible apply canon_ite1
    | with_reducible apply scalarWord_canon
    | (refine canon_fst ?_ ‹_ = (_, _)›)
    | split

theorem execAndImm_canon (g : Sys2Proof.Guard) (o : Sys2Proof.IntI) (s : State) (hc : s.Canon) : Holds State.Canon (execAndImm g o s) := by
  unfold execAndImm
  try dsimp only
  repeat' first
    | (intro _; try dsimp only)
    | with_reducible assumption
    | with_reducible apply holds_next
    | with_reducible apply canon_foldl
    | with_reducible apply canon_foldl1
    | with_reducible apply canon_ite
    | with_reducible apply canon_ite1
    | with_reducible apply scalarWord_canon
    | (refine canon_fst ?_ ‹_ = (_, _)›)
    | split

theorem execOrImm_canon (g : Sys2Proof.Guard) (o : Sys2Proof.IntI) (s : State) (hc : s.Canon) : Holds State.Canon (execOrImm g o s) := by
  unfold execOrImm
  try dsimp only
  repeat' first
    | (intro _; try dsimp only)
    | with_reducible assumption
    | with_reducible apply holds_next
    | with_reducible apply canon_foldl
    | with_reducible apply canon_foldl1
    | with_reducible apply canon_ite
    | with_reducible apply canon_ite1
    | with_reducible apply scalarWord_canon
    | (refine canon_fst ?_ ‹_ = (_, _)›)
    | split

theorem execXorImm_canon (g : Sys2Proof.Guard) (o : Sys2Proof.IntI) (s : State) (hc : s.Canon) : Holds State.Canon (execXorImm g o s) := by
  unfold execXorImm
  try dsimp only
  repeat' first
    | (intro _; try dsimp only)
    | with_reducible assumption
    | with_reducible apply holds_next
    | with_reducible apply canon_foldl
    | with_reducible apply canon_foldl1
    | with_reducible apply canon_ite
    | with_reducible apply canon_ite1
    | with_reducible apply scalarWord_canon
    | (refine canon_fst ?_ ‹_ = (_, _)›)
    | split

theorem execAndnImm_canon (g : Sys2Proof.Guard) (o : Sys2Proof.IntI) (s : State) (hc : s.Canon) : Holds State.Canon (execAndnImm g o s) := by
  unfold execAndnImm
  try dsimp only
  repeat' first
    | (intro _; try dsimp only)
    | with_reducible assumption
    | with_reducible apply holds_next
    | with_reducible apply canon_foldl
    | with_reducible apply canon_foldl1
    | with_reducible apply canon_ite
    | with_reducible apply canon_ite1
    | with_reducible apply scalarWord_canon
    | (refine canon_fst ?_ ‹_ = (_, _)›)
    | split

theorem execSllImm_canon (g : Sys2Proof.Guard) (o : Sys2Proof.IntI) (s : State) (hc : s.Canon) : Holds State.Canon (execSllImm g o s) := by
  unfold execSllImm
  try dsimp only
  repeat' first
    | (intro _; try dsimp only)
    | with_reducible assumption
    | with_reducible apply holds_next
    | with_reducible apply canon_foldl
    | with_reducible apply canon_foldl1
    | with_reducible apply canon_ite
    | with_reducible apply canon_ite1
    | with_reducible apply scalarWord_canon
    | (refine canon_fst ?_ ‹_ = (_, _)›)
    | split

theorem execSrlImm_canon (g : Sys2Proof.Guard) (o : Sys2Proof.IntI) (s : State) (hc : s.Canon) : Holds State.Canon (execSrlImm g o s) := by
  unfold execSrlImm
  try dsimp only
  repeat' first
    | (intro _; try dsimp only)
    | with_reducible assumption
    | with_reducible apply holds_next
    | with_reducible apply canon_foldl
    | with_reducible apply canon_foldl1
    | with_reducible apply canon_ite
    | with_reducible apply canon_ite1
    | with_reducible apply scalarWord_canon
    | (refine canon_fst ?_ ‹_ = (_, _)›)
    | split

theorem execSraImm_canon (g : Sys2Proof.Guard) (o : Sys2Proof.IntI) (s : State) (hc : s.Canon) : Holds State.Canon (execSraImm g o s) := by
  unfold execSraImm
  try dsimp only
  repeat' first
    | (intro _; try dsimp only)
    | with_reducible assumption
    | with_reducible apply holds_next
    | with_reducible apply canon_foldl
    | with_reducible apply canon_foldl1
    | with_reducible apply canon_ite
    | with_reducible apply canon_ite1
    | with_reducible apply scalarWord_canon
    | (refine canon_fst ?_ ‹_ = (_, _)›)
    | split

theorem execRotImm_canon (g : Sys2Proof.Guard) (o : Sys2Proof.IntI) (s : State) (hc : s.Canon) : Holds State.Canon (execRotImm g o s) := by
  unfold execRotImm
  try dsimp only
  repeat' first
    | (intro _; try dsimp only)
    | with_reducible assumption
    | with_reducible apply holds_next
    | with_reducible apply canon_foldl
    | with_reducible apply canon_foldl1
    | with_reducible apply canon_ite
    | with_reducible apply canon_ite1
    | with_reducible apply scalarWord_canon
    | (refine canon_fst ?_ ‹_ = (_, _)›)
    | split

theorem execMinImm_canon (g : Sys2Proof.Guard) (o : Sys2Proof.IntI) (s : State) (hc : s.Canon) : Holds State.Canon (execMinImm g o s) := by
  unfold execMinImm
  try dsimp only
  repeat' first
    | (intro _; try dsimp only)
    | with_reducible assumption
    | with_reducible apply holds_next
    | with_reducible apply canon_foldl
    | with_reducible apply canon_foldl1
    | with_reducible apply canon_ite
    | with_reducible apply canon_ite1
    | with_reducible apply scalarWord_canon
    | (refine canon_fst ?_ ‹_ = (_, _)›)
    | split

theorem execMaxImm_canon (g : Sys2Proof.Guard) (o : Sys2Proof.IntI) (s : State) (hc : s.Canon) : Holds State.Canon (execMaxImm g o s) := by
  unfold execMaxImm
  try dsimp only
  repeat' first
    | (intro _; try dsimp only)
    | with_reducible assumption
    | with_reducible apply holds_next
    | with_reducible apply canon_foldl
    | with_reducible apply canon_foldl1
    | with_reducible apply canon_ite
    | with_reducible apply canon_ite1
    | with_reducible apply scalarWord_canon
    | (refine canon_fst ?_ ‹_ = (_, _)›)
    | split

theorem execClz_canon (g : Sys2Proof.Guard) (o : Sys2Proof.IntU) (s : State) (hc : s.Canon) : Holds State.Canon (execClz g o s) := by
  unfold execClz
  try dsimp only
  repeat' first
    | (intro _; try dsimp only)
    | with_reducible assumption
    | with_reducible apply holds_next
    | with_reducible apply canon_foldl
    | with_reducible apply canon_foldl1
    | with_reducible apply canon_ite
    | with_reducible apply canon_ite1
    | with_reducible apply scalarWord_canon
    | (refine canon_fst ?_ ‹_ = (_, _)›)
    | split

theorem execCtz_canon (g : Sys2Proof.Guard) (o : Sys2Proof.IntU) (s : State) (hc : s.Canon) : Holds State.Canon (execCtz g o s) := by
  unfold execCtz
  try dsimp only
  repeat' first
    | (intro _; try dsimp only)
    | with_reducible assumption
    | with_reducible apply holds_next
    | with_reducible apply canon_foldl
    | with_reducible apply canon_foldl1
    | with_reducible apply canon_ite
    | with_reducible apply canon_ite1
    | with_reducible apply scalarWord_canon
    | (refine canon_fst ?_ ‹_ = (_, _)›)
    | split

theorem execPopc_canon (g : Sys2Proof.Guard) (o : Sys2Proof.IntU) (s : State) (hc : s.Canon) : Holds State.Canon (execPopc g o s) := by
  unfold execPopc
  try dsimp only
  repeat' first
    | (intro _; try dsimp only)
    | with_reducible assumption
    | with_reducible apply holds_next
    | with_reducible apply canon_foldl
    | with_reducible apply canon_foldl1
    | with_reducible apply canon_ite
    | with_reducible apply canon_ite1
    | with_reducible apply scalarWord_canon
    | (refine canon_fst ?_ ‹_ = (_, _)›)
    | split

theorem execSext_canon (g : Sys2Proof.Guard) (o : Sys2Proof.IntU) (s : State) (hc : s.Canon) : Holds State.Canon (execSext g o s) := by
  unfold execSext
  try dsimp only
  repeat' first
    | (intro _; try dsimp only)
    | with_reducible assumption
    | with_reducible apply holds_next
    | with_reducible apply canon_foldl
    | with_reducible apply canon_foldl1
    | with_reducible apply canon_ite
    | with_reducible apply canon_ite1
    | with_reducible apply scalarWord_canon
    | (refine canon_fst ?_ ‹_ = (_, _)›)
    | split

theorem execZext_canon (g : Sys2Proof.Guard) (o : Sys2Proof.IntU) (s : State) (hc : s.Canon) : Holds State.Canon (execZext g o s) := by
  unfold execZext
  try dsimp only
  repeat' first
    | (intro _; try dsimp only)
    | with_reducible assumption
    | with_reducible apply holds_next
    | with_reducible apply canon_foldl
    | with_reducible apply canon_foldl1
    | with_reducible apply canon_ite
    | with_reducible apply canon_ite1
    | with_reducible apply scalarWord_canon
    | (refine canon_fst ?_ ‹_ = (_, _)›)
    | split

theorem execLi_canon (g : Sys2Proof.Guard) (rd : Sys2Proof.XReg) (imm : BitVec 35) (s : State) (hc : s.Canon) : Holds State.Canon (execLi g rd imm s) := by
  unfold execLi
  try dsimp only
  repeat' first
    | (intro _; try dsimp only)
    | with_reducible assumption
    | with_reducible apply holds_next
    | with_reducible apply canon_foldl
    | with_reducible apply canon_foldl1
    | with_reducible apply canon_ite
    | with_reducible apply canon_ite1
    | with_reducible apply scalarWord_canon
    | (refine canon_fst ?_ ‹_ = (_, _)›)
    | split

theorem execLih_canon (g : Sys2Proof.Guard) (rd : Sys2Proof.XReg) (imm : BitVec 32) (s : State) (hc : s.Canon) : Holds State.Canon (execLih g rd imm s) := by
  unfold execLih
  try dsimp only
  repeat' first
    | (intro _; try dsimp only)
    | with_reducible assumption
    | with_reducible apply holds_next
    | with_reducible apply canon_foldl
    | with_reducible apply canon_foldl1
    | with_reducible apply canon_ite
    | with_reducible apply canon_ite1
    | with_reducible apply scalarWord_canon
    | (refine canon_fst ?_ ‹_ = (_, _)›)
    | split

theorem execLea_canon (g : Sys2Proof.Guard) (o : Sys2Proof.AddrM) (s : State) (hc : s.Canon) : Holds State.Canon (execLea g o s) := by
  unfold execLea
  try dsimp only
  repeat' first
    | (intro _; try dsimp only)
    | with_reducible assumption
    | with_reducible apply holds_next
    | with_reducible apply canon_foldl
    | with_reducible apply canon_foldl1
    | with_reducible apply canon_ite
    | with_reducible apply canon_ite1
    | with_reducible apply scalarWord_canon
    | (refine canon_fst ?_ ‹_ = (_, _)›)
    | split

theorem execAdr_canon (g : Sys2Proof.Guard) (rd : Sys2Proof.XReg) (imm : BitVec 35) (s : State) (hc : s.Canon) : Holds State.Canon (execAdr g rd imm s) := by
  unfold execAdr
  try dsimp only
  repeat' first
    | (intro _; try dsimp only)
    | with_reducible assumption
    | with_reducible apply holds_next
    | with_reducible apply canon_foldl
    | with_reducible apply canon_foldl1
    | with_reducible apply canon_ite
    | with_reducible apply canon_ite1
    | with_reducible apply scalarWord_canon
    | (refine canon_fst ?_ ‹_ = (_, _)›)
    | split

theorem execPadr_canon (g : Sys2Proof.Guard) (rd : Sys2Proof.XReg) (ra : Sys2Proof.XReg) (rb : Sys2Proof.XReg) (s : State) (hc : s.Canon) : Holds State.Canon (execPadr g rd ra rb s) := by
  unfold execPadr
  try dsimp only
  repeat' first
    | (intro _; try dsimp only)
    | with_reducible assumption
    | with_reducible apply holds_next
    | with_reducible apply canon_foldl
    | with_reducible apply canon_foldl1
    | with_reducible apply canon_ite
    | with_reducible apply canon_ite1
    | with_reducible apply scalarWord_canon
    | (refine canon_fst ?_ ‹_ = (_, _)›)
    | split

/-! ### Float -/

theorem floatWord_canon (i : Sys2Proof.Instr) (s : State) (rd : Sys2Proof.XReg) (f : Core → Sys2Proof.Word × Flags) (hc : s.Canon) : Holds State.Canon (floatWord i s rd f) := by
  unfold floatWord
  try dsimp only
  repeat' first
    | (intro _; try dsimp only)
    | with_reducible assumption
    | with_reducible apply holds_next
    | with_reducible apply canon_foldl
    | with_reducible apply canon_foldl1
    | with_reducible apply canon_ite
    | with_reducible apply canon_ite1
    | with_reducible apply State.issue_canon
    | with_reducible apply State.trap_canon
    | with_reducible apply State.onCore_canon
    | with_reducible apply State.await_canon
    | with_reducible apply State.finishWith_canon
    | (refine canon_fst ?_ ‹_ = (_, _)›)
    | split

theorem execFadd_canon (g : Sys2Proof.Guard) (o : Sys2Proof.FloatR) (s : State) (hc : s.Canon) : Holds State.Canon (execFadd g o s) := by
  unfold execFadd
  try dsimp only
  repeat' first
    | (intro _; try dsimp only)
    | with_reducible assumption
    | with_reducible apply holds_next
    | with_reducible apply canon_foldl
    | with_reducible apply canon_foldl1
    | with_reducible apply canon_ite
    | with_reducible apply canon_ite1
    | with_reducible apply floatWord_canon
    | (refine canon_fst ?_ ‹_ = (_, _)›)
    | split

theorem execFsub_canon (g : Sys2Proof.Guard) (o : Sys2Proof.FloatR) (s : State) (hc : s.Canon) : Holds State.Canon (execFsub g o s) := by
  unfold execFsub
  try dsimp only
  repeat' first
    | (intro _; try dsimp only)
    | with_reducible assumption
    | with_reducible apply holds_next
    | with_reducible apply canon_foldl
    | with_reducible apply canon_foldl1
    | with_reducible apply canon_ite
    | with_reducible apply canon_ite1
    | with_reducible apply floatWord_canon
    | (refine canon_fst ?_ ‹_ = (_, _)›)
    | split

theorem execFmul_canon (g : Sys2Proof.Guard) (o : Sys2Proof.FloatR) (s : State) (hc : s.Canon) : Holds State.Canon (execFmul g o s) := by
  unfold execFmul
  try dsimp only
  repeat' first
    | (intro _; try dsimp only)
    | with_reducible assumption
    | with_reducible apply holds_next
    | with_reducible apply canon_foldl
    | with_reducible apply canon_foldl1
    | with_reducible apply canon_ite
    | with_reducible apply canon_ite1
    | with_reducible apply floatWord_canon
    | (refine canon_fst ?_ ‹_ = (_, _)›)
    | split

theorem execFma_canon (g : Sys2Proof.Guard) (o : Sys2Proof.FmaR) (s : State) (hc : s.Canon) : Holds State.Canon (execFma g o s) := by
  unfold execFma
  try dsimp only
  repeat' first
    | (intro _; try dsimp only)
    | with_reducible assumption
    | with_reducible apply holds_next
    | with_reducible apply canon_foldl
    | with_reducible apply canon_foldl1
    | with_reducible apply canon_ite
    | with_reducible apply canon_ite1
    | with_reducible apply floatWord_canon
    | (refine canon_fst ?_ ‹_ = (_, _)›)
    | split

theorem execFdiv_canon (g : Sys2Proof.Guard) (o : Sys2Proof.FloatR) (s : State) (hc : s.Canon) : Holds State.Canon (execFdiv g o s) := by
  unfold execFdiv
  try dsimp only
  repeat' first
    | (intro _; try dsimp only)
    | with_reducible assumption
    | with_reducible apply holds_next
    | with_reducible apply canon_foldl
    | with_reducible apply canon_foldl1
    | with_reducible apply canon_ite
    | with_reducible apply canon_ite1
    | with_reducible apply floatWord_canon
    | (refine canon_fst ?_ ‹_ = (_, _)›)
    | split

theorem execFsqrt_canon (g : Sys2Proof.Guard) (o : Sys2Proof.FsqrtR) (s : State) (hc : s.Canon) : Holds State.Canon (execFsqrt g o s) := by
  unfold execFsqrt
  try dsimp only
  repeat' first
    | (intro _; try dsimp only)
    | with_reducible assumption
    | with_reducible apply holds_next
    | with_reducible apply canon_foldl
    | with_reducible apply canon_foldl1
    | with_reducible apply canon_ite
    | with_reducible apply canon_ite1
    | with_reducible apply floatWord_canon
    | (refine canon_fst ?_ ‹_ = (_, _)›)
    | split

theorem execFmin_canon (g : Sys2Proof.Guard) (o : Sys2Proof.FminR) (s : State) (hc : s.Canon) : Holds State.Canon (execFmin g o s) := by
  unfold execFmin
  try dsimp only
  repeat' first
    | (intro _; try dsimp only)
    | with_reducible assumption
    | with_reducible apply holds_next
    | with_reducible apply canon_foldl
    | with_reducible apply canon_foldl1
    | with_reducible apply canon_ite
    | with_reducible apply canon_ite1
    | with_reducible apply floatWord_canon
    | (refine canon_fst ?_ ‹_ = (_, _)›)
    | split

theorem execFmax_canon (g : Sys2Proof.Guard) (o : Sys2Proof.FminR) (s : State) (hc : s.Canon) : Holds State.Canon (execFmax g o s) := by
  unfold execFmax
  try dsimp only
  repeat' first
    | (intro _; try dsimp only)
    | with_reducible assumption
    | with_reducible apply holds_next
    | with_reducible apply canon_foldl
    | with_reducible apply canon_foldl1
    | with_reducible apply canon_ite
    | with_reducible apply canon_ite1
    | with_reducible apply floatWord_canon
    | (refine canon_fst ?_ ‹_ = (_, _)›)
    | split

theorem execFcvt_canon (g : Sys2Proof.Guard) (o : Sys2Proof.FcvtR) (s : State) (hc : s.Canon) : Holds State.Canon (execFcvt g o s) := by
  unfold execFcvt
  try dsimp only
  repeat' first
    | (intro _; try dsimp only)
    | with_reducible assumption
    | with_reducible apply holds_next
    | with_reducible apply canon_foldl
    | with_reducible apply canon_foldl1
    | with_reducible apply canon_ite
    | with_reducible apply canon_ite1
    | with_reducible apply floatWord_canon
    | (refine canon_fst ?_ ‹_ = (_, _)›)
    | split

theorem execFclass_canon (g : Sys2Proof.Guard) (o : Sys2Proof.FclassR) (s : State) (hc : s.Canon) : Holds State.Canon (execFclass g o s) := by
  unfold execFclass
  try dsimp only
  repeat' first
    | (intro _; try dsimp only)
    | with_reducible assumption
    | with_reducible apply holds_next
    | with_reducible apply canon_foldl
    | with_reducible apply canon_foldl1
    | with_reducible apply canon_ite
    | with_reducible apply canon_ite1
    | with_reducible apply scalarWord_canon
    | (refine canon_fst ?_ ‹_ = (_, _)›)
    | split

/-! ### Compare -/

theorem execCmp_canon (g : Sys2Proof.Guard) (o : Sys2Proof.CmpC) (s : State) (hc : s.Canon) : Holds State.Canon (execCmp g o s) := by
  unfold execCmp
  try dsimp only
  repeat' first
    | (intro _; try dsimp only)
    | with_reducible assumption
    | with_reducible apply holds_next
    | with_reducible apply canon_foldl
    | with_reducible apply canon_foldl1
    | with_reducible apply canon_ite
    | with_reducible apply canon_ite1
    | with_reducible apply scalarWord_canon
    | (refine canon_fst ?_ ‹_ = (_, _)›)
    | split

theorem execFcmp_canon (g : Sys2Proof.Guard) (o : Sys2Proof.FcmpC) (s : State) (hc : s.Canon) : Holds State.Canon (execFcmp g o s) := by
  unfold execFcmp
  try dsimp only
  repeat' first
    | (intro _; try dsimp only)
    | with_reducible assumption
    | with_reducible apply holds_next
    | with_reducible apply canon_foldl
    | with_reducible apply canon_foldl1
    | with_reducible apply canon_ite
    | with_reducible apply canon_ite1
    | with_reducible apply State.issue_canon
    | with_reducible apply State.trap_canon
    | with_reducible apply State.onCore_canon
    | with_reducible apply State.await_canon
    | with_reducible apply State.finishWith_canon
    | (refine canon_fst ?_ ‹_ = (_, _)›)
    | split

theorem execTbit_canon (g : Sys2Proof.Guard) (o : Sys2Proof.TbitC) (s : State) (hc : s.Canon) : Holds State.Canon (execTbit g o s) := by
  unfold execTbit
  try dsimp only
  repeat' first
    | (intro _; try dsimp only)
    | with_reducible assumption
    | with_reducible apply holds_next
    | with_reducible apply canon_foldl
    | with_reducible apply canon_foldl1
    | with_reducible apply canon_ite
    | with_reducible apply canon_ite1
    | with_reducible apply scalarWord_canon
    | (refine canon_fst ?_ ‹_ = (_, _)›)
    | split

theorem execPlog_canon (g : Sys2Proof.Guard) (o : Sys2Proof.PlogC) (s : State) (hc : s.Canon) : Holds State.Canon (execPlog g o s) := by
  unfold execPlog
  try dsimp only
  repeat' first
    | (intro _; try dsimp only)
    | with_reducible assumption
    | with_reducible apply holds_next
    | with_reducible apply canon_foldl
    | with_reducible apply canon_foldl1
    | with_reducible apply canon_ite
    | with_reducible apply canon_ite1
    | with_reducible apply scalarWord_canon
    | (refine canon_fst ?_ ‹_ = (_, _)›)
    | split

theorem execPmovToX_canon (g : Sys2Proof.Guard) (x : Sys2Proof.XReg) (s : State) (hc : s.Canon) : Holds State.Canon (execPmovToX g x s) := by
  unfold execPmovToX
  try dsimp only
  repeat' first
    | (intro _; try dsimp only)
    | with_reducible assumption
    | with_reducible apply holds_next
    | with_reducible apply canon_foldl
    | with_reducible apply canon_foldl1
    | with_reducible apply canon_ite
    | with_reducible apply canon_ite1
    | with_reducible apply scalarWord_canon
    | (refine canon_fst ?_ ‹_ = (_, _)›)
    | split

theorem execPmovToPr_canon (g : Sys2Proof.Guard) (x : Sys2Proof.XReg) (s : State) (hc : s.Canon) : Holds State.Canon (execPmovToPr g x s) := by
  unfold execPmovToPr
  try dsimp only
  repeat' first
    | (intro _; try dsimp only)
    | with_reducible assumption
    | with_reducible apply holds_next
    | with_reducible apply canon_foldl
    | with_reducible apply canon_foldl1
    | with_reducible apply canon_ite
    | with_reducible apply canon_ite1
    | with_reducible apply scalarWord_canon
    | (refine canon_fst ?_ ‹_ = (_, _)›)
    | split

/-! ### Control -/

theorem execBr_canon (g : Sys2Proof.Guard) (off : BitVec 32) (s : State) (hc : s.Canon) : Holds State.Canon (execBr g off s) := by
  unfold execBr
  try dsimp only
  repeat' first
    | (intro _; try dsimp only)
    | with_reducible assumption
    | with_reducible apply holds_next
    | with_reducible apply canon_foldl
    | with_reducible apply canon_foldl1
    | with_reducible apply canon_ite
    | with_reducible apply canon_ite1
    | with_reducible apply State.issue_canon
    | with_reducible apply State.onCore_canon
    | (refine canon_fst ?_ ‹_ = (_, _)›)
    | split

theorem execCall_canon (g : Sys2Proof.Guard) (off : BitVec 32) (s : State) (hc : s.Canon) : Holds State.Canon (execCall g off s) := by
  unfold execCall
  try dsimp only
  repeat' first
    | (intro _; try dsimp only)
    | with_reducible assumption
    | with_reducible apply holds_next
    | with_reducible apply canon_foldl
    | with_reducible apply canon_foldl1
    | with_reducible apply canon_ite
    | with_reducible apply canon_ite1
    | with_reducible apply State.issue_canon
    | with_reducible apply State.onCore_canon
    | (refine canon_fst ?_ ‹_ = (_, _)›)
    | split

theorem execJr_canon (g : Sys2Proof.Guard) (rd : Sys2Proof.XReg) (ra : Sys2Proof.XReg) (s : State) (hc : s.Canon) : Holds State.Canon (execJr g rd ra s) := by
  unfold execJr
  try dsimp only
  repeat' first
    | (intro _; try dsimp only)
    | with_reducible assumption
    | with_reducible apply holds_next
    | with_reducible apply canon_foldl
    | with_reducible apply canon_foldl1
    | with_reducible apply canon_ite
    | with_reducible apply canon_ite1
    | with_reducible apply State.issue_canon
    | with_reducible apply State.trap_canon
    | with_reducible apply State.onCore_canon
    | (refine canon_fst ?_ ‹_ = (_, _)›)
    | split

theorem execTrap_canon (g : Sys2Proof.Guard) (code : BitVec 16) (s : State) (hc : s.Canon) : Holds State.Canon (execTrap g code s) := by
  unfold execTrap
  try dsimp only
  repeat' first
    | (intro _; try dsimp only)
    | with_reducible assumption
    | with_reducible apply holds_next
    | with_reducible apply canon_foldl
    | with_reducible apply canon_foldl1
    | with_reducible apply canon_ite
    | with_reducible apply canon_ite1
    | with_reducible apply State.issue_canon
    | with_reducible apply State.trap_canon
    | (refine canon_fst ?_ ‹_ = (_, _)›)
    | split

theorem execEret_canon (g : Sys2Proof.Guard) (s : State) (hc : s.Canon) : Holds State.Canon (execEret g s) := by
  unfold execEret
  try dsimp only
  repeat' first
    | (intro _; try dsimp only)
    | with_reducible assumption
    | with_reducible apply holds_next
    | with_reducible apply canon_foldl
    | with_reducible apply canon_foldl1
    | with_reducible apply canon_ite
    | with_reducible apply canon_ite1
    | with_reducible apply State.issue_canon
    | with_reducible apply State.trap_canon
    | with_reducible apply State.returnTrap_canon
    | (refine canon_fst ?_ ‹_ = (_, _)›)
    | split

/-! ### MemoryI -/

theorem State.checkAddr_canon (s : State) (k : ℕ) (va : Sys2Proof.Word) (size : ℕ) (need : Need) (hc : s.Canon) : (State.checkAddr s k va size need).1.Canon := by
  unfold State.checkAddr
  try dsimp only
  repeat' first
    | (intro _; try dsimp only)
    | with_reducible assumption
    | with_reducible apply holds_next
    | with_reducible apply canon_foldl
    | with_reducible apply canon_foldl1
    | with_reducible apply canon_ite
    | with_reducible apply canon_ite1
    | with_reducible apply State.resolve_canon
    | (refine canon_fst ?_ ‹_ = (_, _)›)
    | split

theorem State.closeWindow_canon (s : State) (k : ℕ) (key : ℕ) (hc : s.Canon) : (State.closeWindow s k key).Canon := by
  unfold State.closeWindow
  try dsimp only
  repeat' first
    | (intro _; try dsimp only)
    | with_reducible assumption
    | with_reducible apply holds_next
    | with_reducible apply canon_foldl
    | with_reducible apply canon_foldl1
    | with_reducible apply canon_ite
    | with_reducible apply canon_ite1
    | with_reducible apply State.onTile_canon
    | (refine canon_fst ?_ ‹_ = (_, _)›)
    | split

theorem State.withKey_canon (s : State) (k : ℕ) (va : Sys2Proof.Word) (size : ℕ) (need : Need) (body : ℕ → State → State) (hc : s.Canon) (hb_body : ∀ a0 a1, a1.Canon → (body a0 a1).Canon) : (State.withKey s k va size need body).Canon := by
  unfold State.withKey
  try dsimp only
  repeat' first
    | (intro _; try dsimp only)
    | with_reducible assumption
    | with_reducible apply holds_next
    | with_reducible apply canon_foldl
    | with_reducible apply canon_foldl1
    | with_reducible apply canon_ite
    | with_reducible apply canon_ite1
    | with_reducible apply hb_body
    | with_reducible apply State.checkAddr_canon
    | with_reducible apply State.trap_canon
    | with_reducible apply State.await_canon
    | with_reducible apply State.closeWindow_canon
    | (refine canon_fst ?_ ‹_ = (_, _)›)
    | split

theorem State.enterLoad_canon (s : State) (k : ℕ) (l : Load) (hc : s.Canon) : (State.enterLoad s k l).Canon := by
  unfold State.enterLoad
  try dsimp only
  repeat' first
    | (intro _; try dsimp only)
    | with_reducible assumption
    | with_reducible apply holds_next
    | with_reducible apply canon_foldl
    | with_reducible apply canon_foldl1
    | with_reducible apply canon_ite
    | with_reducible apply canon_ite1
    | with_reducible apply State.trap_canon
    | with_reducible apply State.await_canon
    | with_reducible apply State.tick_canon
    | with_reducible apply State.finishWith_canon
    | (refine canon_fst ?_ ‹_ = (_, _)›)
    | split

theorem State.enterStore_canon (s : State) (k : ℕ) (e : Store) (hc : s.Canon) : (State.enterStore s k e).Canon := by
  unfold State.enterStore
  try dsimp only
  repeat' first
    | (intro _; try dsimp only)
    | with_reducible assumption
    | with_reducible apply holds_next
    | with_reducible apply canon_foldl
    | with_reducible apply canon_foldl1
    | with_reducible apply canon_ite
    | with_reducible apply canon_ite1
    | with_reducible apply State.trap_canon
    | with_reducible apply State.await_canon
    | with_reducible apply State.tick_canon
    | with_reducible apply State.finishWith_canon
    | (refine canon_fst ?_ ‹_ = (_, _)›)
    | split

theorem State.shortLoad_canon (s : State) (k : ℕ) (o : Sys2Proof.MemM) (va : Sys2Proof.Word) (key : ℕ) (take : Bool) (hc : s.Canon) : (State.shortLoad s k o va key take).Canon := by
  unfold State.shortLoad
  try dsimp only
  repeat' first
    | (intro _; try dsimp only)
    | with_reducible assumption
    | with_reducible apply holds_next
    | with_reducible apply canon_foldl
    | with_reducible apply canon_foldl1
    | with_reducible apply canon_ite
    | with_reducible apply canon_ite1
    | with_reducible apply State.trap_canon
    | with_reducible apply State.finish_canon
    | with_reducible apply State.refuseAt_canon
    | with_reducible apply State.await_canon
    | with_reducible apply State.loadBytes_canon
    | with_reducible apply State.setFull_canon
    | with_reducible apply State.finishWith_canon
    | (refine canon_fst ?_ ‹_ = (_, _)›)
    | split

theorem State.bankLoad_canon (s : State) (k : ℕ) (o : Sys2Proof.MemM) (va : Sys2Proof.Word) (key : ℕ) (hc : s.Canon) : (State.bankLoad s k o va key).Canon := by
  unfold State.bankLoad
  try dsimp only
  repeat' first
    | (intro _; try dsimp only)
    | with_reducible assumption
    | with_reducible apply holds_next
    | with_reducible apply canon_foldl
    | with_reducible apply canon_foldl1
    | with_reducible apply canon_ite
    | with_reducible apply canon_ite1
    | with_reducible apply State.await_canon
    | with_reducible apply State.shortLoad_canon
    | with_reducible apply State.leaveLine_canon
    | with_reducible apply State.lineUp_canon
    | (refine canon_fst ?_ ‹_ = (_, _)›)
    | split

theorem execLd_canon (g : Sys2Proof.Guard) (o : Sys2Proof.MemM) (s : State) (hc : s.Canon) : Holds State.Canon (execLd g o s) := by
  unfold execLd
  try dsimp only
  repeat' first
    | (intro _; try dsimp only)
    | with_reducible assumption
    | with_reducible apply holds_next
    | with_reducible apply canon_foldl
    | with_reducible apply canon_foldl1
    | with_reducible apply canon_ite
    | with_reducible apply canon_ite1
    | with_reducible apply State.issue_canon
    | with_reducible apply State.withKey_canon
    | with_reducible apply State.shortLoad_canon
    | with_reducible apply State.enterLoad_canon
    | (refine canon_fst ?_ ‹_ = (_, _)›)
    | split

theorem execLdc_canon (g : Sys2Proof.Guard) (o : Sys2Proof.MemM) (s : State) (hc : s.Canon) : Holds State.Canon (execLdc g o s) := by
  unfold execLdc
  try dsimp only
  repeat' first
    | (intro _; try dsimp only)
    | with_reducible assumption
    | with_reducible apply holds_next
    | with_reducible apply canon_foldl
    | with_reducible apply canon_foldl1
    | with_reducible apply canon_ite
    | with_reducible apply canon_ite1
    | with_reducible apply State.issue_canon
    | with_reducible apply State.withKey_canon
    | with_reducible apply State.shortLoad_canon
    | with_reducible apply State.enterLoad_canon
    | (refine canon_fst ?_ ‹_ = (_, _)›)
    | split

theorem execLds_canon (g : Sys2Proof.Guard) (o : Sys2Proof.MemM) (s : State) (hc : s.Canon) : Holds State.Canon (execLds g o s) := by
  unfold execLds
  try dsimp only
  repeat' first
    | (intro _; try dsimp only)
    | with_reducible assumption
    | with_reducible apply holds_next
    | with_reducible apply canon_foldl
    | with_reducible apply canon_foldl1
    | with_reducible apply canon_ite
    | with_reducible apply canon_ite1
    | with_reducible apply State.issue_canon
    | with_reducible apply State.withKey_canon
    | with_reducible apply State.trap_canon
    | with_reducible apply State.bankLoad_canon
    | with_reducible apply State.enterLoad_canon
    | (refine canon_fst ?_ ‹_ = (_, _)›)
    | split

theorem execSt_canon (g : Sys2Proof.Guard) (o : Sys2Proof.MemM) (s : State) (hc : s.Canon) : Holds State.Canon (execSt g o s) := by
  unfold execSt
  try dsimp only
  repeat' first
    | (intro _; try dsimp only)
    | with_reducible assumption
    | with_reducible apply holds_next
    | with_reducible apply canon_foldl
    | with_reducible apply canon_foldl1
    | with_reducible apply canon_ite
    | with_reducible apply canon_ite1
    | with_reducible apply State.issue_canon
    | with_reducible apply State.withKey_canon
    | with_reducible apply State.enterStore_canon
    | (refine canon_fst ?_ ‹_ = (_, _)›)
    | split

theorem execStf_canon (g : Sys2Proof.Guard) (o : Sys2Proof.MemM) (s : State) (hc : s.Canon) : Holds State.Canon (execStf g o s) := by
  unfold execStf
  try dsimp only
  repeat' first
    | (intro _; try dsimp only)
    | with_reducible assumption
    | with_reducible apply holds_next
    | with_reducible apply canon_foldl
    | with_reducible apply canon_foldl1
    | with_reducible apply canon_ite
    | with_reducible apply canon_ite1
    | with_reducible apply State.issue_canon
    | with_reducible apply State.withKey_canon
    | with_reducible apply State.trap_canon
    | with_reducible apply State.enterStore_canon
    | (refine canon_fst ?_ ‹_ = (_, _)›)
    | split

theorem execPref_canon (g : Sys2Proof.Guard) (o : Sys2Proof.BlockM) (s : State) (hc : s.Canon) : Holds State.Canon (execPref g o s) := by
  unfold execPref
  try dsimp only
  repeat' first
    | (intro _; try dsimp only)
    | with_reducible assumption
    | with_reducible apply holds_next
    | with_reducible apply canon_foldl
    | with_reducible apply canon_foldl1
    | with_reducible apply canon_ite
    | with_reducible apply canon_ite1
    | with_reducible apply State.issue_canon
    | with_reducible apply State.resolve_canon
    | with_reducible apply State.finish_canon
    | with_reducible apply State.fillBlock_canon
    | with_reducible apply State.tally_canon
    | (refine canon_fst ?_ ‹_ = (_, _)›)
    | split

theorem State.blockOp_canon (s : State) (k : Nat) (o : BlockM) (kind : StoreKind) (h : s.Canon) : (s.blockOp k o kind).Canon := by
  have h1 := State.checkAddr_canon s k (memAddr (s.core k) o.rb o.disp) 1 .rd h
  unfold State.blockOp
  dsimp only
  generalize s.checkAddr k (memAddr (s.core k) o.rb o.disp) 1 .rd = r at h1
  obtain ⟨u, _ | key⟩ := r
  · exact State.trap_canon _ _ _ _ h1
  · exact canon_ite (canon_ite (State.await_canon _ _ h1) (State.tick_canon _ (State.finishWith_canon _ _ _ h1)))
      (State.finish_canon _ _ h1)

theorem execClean_canon (g : Sys2Proof.Guard) (o : Sys2Proof.BlockM) (s : State) (hc : s.Canon) : Holds State.Canon (execClean g o s) := by
  unfold execClean
  try dsimp only
  repeat' first
    | (intro _; try dsimp only)
    | with_reducible assumption
    | with_reducible apply holds_next
    | with_reducible apply canon_foldl
    | with_reducible apply canon_foldl1
    | with_reducible apply canon_ite
    | with_reducible apply canon_ite1
    | with_reducible apply State.issue_canon
    | with_reducible apply State.blockOp_canon
    | (refine canon_fst ?_ ‹_ = (_, _)›)
    | split

theorem execInval_canon (g : Sys2Proof.Guard) (o : Sys2Proof.BlockM) (s : State) (hc : s.Canon) : Holds State.Canon (execInval g o s) := by
  unfold execInval
  try dsimp only
  repeat' first
    | (intro _; try dsimp only)
    | with_reducible assumption
    | with_reducible apply holds_next
    | with_reducible apply canon_foldl
    | with_reducible apply canon_foldl1
    | with_reducible apply canon_ite
    | with_reducible apply canon_ite1
    | with_reducible apply State.issue_canon
    | with_reducible apply State.blockOp_canon
    | (refine canon_fst ?_ ‹_ = (_, _)›)
    | split

theorem execHld_canon (g : Sys2Proof.Guard) (o : Sys2Proof.HandleM) (s : State) (hc : s.Canon) : Holds State.Canon (execHld g o s) := by
  unfold execHld
  try dsimp only
  repeat' first
    | (intro _; try dsimp only)
    | with_reducible assumption
    | with_reducible apply holds_next
    | with_reducible apply canon_foldl
    | with_reducible apply canon_foldl1
    | with_reducible apply canon_ite
    | with_reducible apply canon_ite1
    | with_reducible apply State.issue_canon
    | with_reducible apply State.withKey_canon
    | with_reducible apply State.enterLoad_canon
    | with_reducible apply canon_seq
    | (refine canon_fst ?_ ‹_ = (_, _)›)
    | split

theorem execHst_canon (g : Sys2Proof.Guard) (o : Sys2Proof.HandleM) (s : State) (hc : s.Canon) : Holds State.Canon (execHst g o s) := by
  unfold execHst
  try dsimp only
  repeat' first
    | (intro _; try dsimp only)
    | with_reducible assumption
    | with_reducible apply holds_next
    | with_reducible apply canon_foldl
    | with_reducible apply canon_foldl1
    | with_reducible apply canon_ite
    | with_reducible apply canon_ite1
    | with_reducible apply State.issue_canon
    | with_reducible apply State.withKey_canon
    | with_reducible apply State.enterStore_canon
    | with_reducible apply canon_seq
    | (refine canon_fst ?_ ‹_ = (_, _)›)
    | split

theorem State.enterAtomic_canon (s : State) (k : ℕ) (kind : LoadKind) (rd : Sys2Proof.XReg) (ty : Sys2Proof.ITy) (va : Sys2Proof.Word) (a : Sys2Proof.Word) (b : Sys2Proof.Word) (sc : Sys2Proof.Scope) (ord : Sys2Proof.AOrd) (hc : s.Canon) : (State.enterAtomic s k kind rd ty va a b sc ord).Canon := by
  unfold State.enterAtomic
  try dsimp only
  repeat' first
    | (intro _; try dsimp only)
    | with_reducible assumption
    | with_reducible apply holds_next
    | with_reducible apply canon_foldl
    | with_reducible apply canon_foldl1
    | with_reducible apply canon_ite
    | with_reducible apply canon_ite1
    | with_reducible apply State.withKey_canon
    | with_reducible apply State.enterLoad_canon
    | with_reducible apply canon_seq
    | (refine canon_fst ?_ ‹_ = (_, _)›)
    | split

theorem execAmo_canon (g : Sys2Proof.Guard) (o : Sys2Proof.AmoR) (s : State) (hc : s.Canon) : Holds State.Canon (execAmo g o s) := by
  unfold execAmo
  try dsimp only
  repeat' first
    | (intro _; try dsimp only)
    | with_reducible assumption
    | with_reducible apply holds_next
    | with_reducible apply canon_foldl
    | with_reducible apply canon_foldl1
    | with_reducible apply canon_ite
    | with_reducible apply canon_ite1
    | with_reducible apply State.issue_canon
    | with_reducible apply State.enterAtomic_canon
    | (refine canon_fst ?_ ‹_ = (_, _)›)
    | split

theorem execCas_canon (g : Sys2Proof.Guard) (o : Sys2Proof.CasR) (s : State) (hc : s.Canon) : Holds State.Canon (execCas g o s) := by
  unfold execCas
  try dsimp only
  repeat' first
    | (intro _; try dsimp only)
    | with_reducible assumption
    | with_reducible apply holds_next
    | with_reducible apply canon_foldl
    | with_reducible apply canon_foldl1
    | with_reducible apply canon_ite
    | with_reducible apply canon_ite1
    | with_reducible apply State.issue_canon
    | with_reducible apply State.enterAtomic_canon
    | (refine canon_fst ?_ ‹_ = (_, _)›)
    | split

theorem execRed_canon (g : Sys2Proof.Guard) (o : Sys2Proof.RedR) (s : State) (hc : s.Canon) : Holds State.Canon (execRed g o s) := by
  unfold execRed
  try dsimp only
  repeat' first
    | (intro _; try dsimp only)
    | with_reducible assumption
    | with_reducible apply holds_next
    | with_reducible apply canon_foldl
    | with_reducible apply canon_foldl1
    | with_reducible apply canon_ite
    | with_reducible apply canon_ite1
    | with_reducible apply State.issue_canon
    | with_reducible apply State.withKey_canon
    | with_reducible apply State.enterStore_canon
    | with_reducible apply canon_seq
    | (refine canon_fst ?_ ‹_ = (_, _)›)
    | split

theorem State.loadError_canon (s : State) (k : ℕ) (l : Load) (cause : ℕ) (hc : s.Canon) : (State.loadError s k l cause).Canon := by
  unfold State.loadError
  try dsimp only
  repeat' first
    | (intro _; try dsimp only)
    | with_reducible assumption
    | with_reducible apply holds_next
    | with_reducible apply canon_foldl
    | with_reducible apply canon_foldl1
    | with_reducible apply canon_ite
    | with_reducible apply canon_ite1
    | with_reducible apply State.takeTrap_canon
    | with_reducible apply State.onCore_canon
    | (refine canon_fst ?_ ‹_ = (_, _)›)
    | split

theorem State.answerLoad_canon (s : State) (k : ℕ) (hc : s.Canon) : (State.answerLoad s k).Canon := by
  unfold State.answerLoad
  try dsimp only
  repeat' first
    | (intro _; try dsimp only)
    | with_reducible assumption
    | with_reducible apply holds_next
    | with_reducible apply canon_foldl
    | with_reducible apply canon_foldl1
    | with_reducible apply canon_ite
    | with_reducible apply canon_ite1
    | with_reducible apply State.performLoad_canon
    | with_reducible apply State.loadError_canon
    | with_reducible apply State.lineUp_canon
    | with_reducible apply State.onCore_canon
    | with_reducible apply State.refuseAt_canon
    | (refine canon_fst ?_ ‹_ = (_, _)›)
    | split

theorem execLongLoadAnswer_canon (c : Sys2Proof.CoreId) (s : State) (hc : s.Canon) : Holds State.Canon (execLongLoadAnswer c s) := by
  unfold execLongLoadAnswer
  try dsimp only
  repeat' first
    | (intro _; try dsimp only)
    | with_reducible assumption
    | with_reducible apply holds_next
    | with_reducible apply canon_foldl
    | with_reducible apply canon_foldl1
    | with_reducible apply canon_ite
    | with_reducible apply canon_ite1
    | with_reducible apply State.answerLoad_canon
    | (refine canon_fst ?_ ‹_ = (_, _)›)
    | split

theorem execStoreBufferDrain_canon (c : Sys2Proof.CoreId) (s : State) (hc : s.Canon) : Holds State.Canon (execStoreBufferDrain c s) := by
  unfold execStoreBufferDrain
  try dsimp only
  repeat' first
    | (intro _; try dsimp only)
    | with_reducible assumption
    | with_reducible apply holds_next
    | with_reducible apply canon_foldl
    | with_reducible apply canon_foldl1
    | with_reducible apply canon_ite
    | with_reducible apply canon_ite1
    | with_reducible apply State.drainStore_canon
    | (refine canon_fst ?_ ‹_ = (_, _)›)
    | split

theorem execRedAccept_canon (c : Sys2Proof.CoreId) (s : State) (hc : s.Canon) : Holds State.Canon (execRedAccept c s) := by
  unfold execRedAccept
  try dsimp only
  repeat' first
    | (intro _; try dsimp only)
    | with_reducible assumption
    | with_reducible apply holds_next
    | with_reducible apply canon_foldl
    | with_reducible apply canon_foldl1
    | with_reducible apply canon_ite
    | with_reducible apply canon_ite1
    | with_reducible apply State.drainStore_canon
    | (refine canon_fst ?_ ‹_ = (_, _)›)
    | split

theorem execHeldAccessArrive_canon (c : Sys2Proof.CoreId) (s : State) (hc : s.Canon) : Holds State.Canon (execHeldAccessArrive c s) := by
  unfold execHeldAccessArrive
  try dsimp only
  repeat' first
    | (intro _; try dsimp only)
    | with_reducible assumption
    | with_reducible apply holds_next
    | with_reducible apply canon_foldl
    | with_reducible apply canon_foldl1
    | with_reducible apply canon_ite
    | with_reducible apply canon_ite1
    | with_reducible apply State.holdAt_canon
    | with_reducible apply State.answerLoad_canon
    | with_reducible apply State.drainStore_canon
    | (refine canon_fst ?_ ‹_ = (_, _)›)
    | split

theorem State.withBox_canon (s : State) (k : ℕ) (va : Sys2Proof.Word) (body : ℕ → State → State) (hc : s.Canon) (hb_body : ∀ a0 a1, a1.Canon → (body a0 a1).Canon) : (State.withBox s k va body).Canon := by
  unfold State.withBox
  try dsimp only
  repeat' first
    | (intro _; try dsimp only)
    | with_reducible assumption
    | with_reducible apply holds_next
    | with_reducible apply canon_foldl
    | with_reducible apply canon_foldl1
    | with_reducible apply canon_ite
    | with_reducible apply canon_ite1
    | with_reducible apply hb_body
    | with_reducible apply State.trap_canon
    | with_reducible apply State.await_canon
    | with_reducible apply State.closeWindow_canon
    | (refine canon_fst ?_ ‹_ = (_, _)›)
    | split

theorem State.send_canon (s : State) (k : ℕ) (r : Sys2Proof.XReg) (key : ℕ) (hc : s.Canon) : (State.send s k r key).Canon := by
  unfold State.send
  try dsimp only
  repeat' first
    | (intro _; try dsimp only)
    | with_reducible assumption
    | with_reducible apply holds_next
    | with_reducible apply canon_foldl
    | with_reducible apply canon_foldl1
    | with_reducible apply canon_ite
    | with_reducible apply canon_ite1
    | with_reducible apply State.await_canon
    | with_reducible apply State.loadBytes_canon
    | with_reducible apply State.tick_canon
    | with_reducible apply State.finishWith_canon
    | with_reducible apply State.setMail_canon
    | with_reducible apply canon_seq
    | (refine canon_fst ?_ ‹_ = (_, _)›)
    | split

theorem execMsend_canon (g : Sys2Proof.Guard) (o : Sys2Proof.AddrM) (s : State) (hc : s.Canon) : Holds State.Canon (execMsend g o s) := by
  unfold execMsend
  try dsimp only
  repeat' first
    | (intro _; try dsimp only)
    | with_reducible assumption
    | with_reducible apply holds_next
    | with_reducible apply canon_foldl
    | with_reducible apply canon_foldl1
    | with_reducible apply canon_ite
    | with_reducible apply canon_ite1
    | with_reducible apply State.issue_canon
    | with_reducible apply State.withBox_canon
    | with_reducible apply State.send_canon
    | (refine canon_fst ?_ ‹_ = (_, _)›)
    | split

theorem State.settleMsg_canon (s : State) (k : ℕ) (m : Msg) (hc : s.Canon) : (State.settleMsg s k m).Canon := by
  unfold State.settleMsg
  try dsimp only
  repeat' first
    | (intro _; try dsimp only)
    | with_reducible assumption
    | with_reducible apply holds_next
    | with_reducible apply canon_foldl
    | with_reducible apply canon_foldl1
    | with_reducible apply canon_ite
    | with_reducible apply canon_ite1
    | with_reducible apply State.onCore_canon
    | with_reducible apply State.mailPut_canon
    | with_reducible apply State.setMail_canon
    | (refine canon_fst ?_ ‹_ = (_, _)›)
    | split

theorem execMessageDelivery_canon (c : Sys2Proof.CoreId) (s : State) (hc : s.Canon) : Holds State.Canon (execMessageDelivery c s) := by
  unfold execMessageDelivery
  try dsimp only
  repeat' first
    | (intro _; try dsimp only)
    | with_reducible assumption
    | with_reducible apply holds_next
    | with_reducible apply canon_foldl
    | with_reducible apply canon_foldl1
    | with_reducible apply canon_ite
    | with_reducible apply canon_ite1
    | with_reducible apply State.settleMsg_canon
    | (refine canon_fst ?_ ‹_ = (_, _)›)
    | split

theorem State.receive_canon (s : State) (k : ℕ) (r : Sys2Proof.XReg) (key : ℕ) (hc : s.Canon) : (State.receive s k r key).Canon := by
  unfold State.receive
  try dsimp only
  repeat' first
    | (intro _; try dsimp only)
    | with_reducible assumption
    | with_reducible apply holds_next
    | with_reducible apply canon_foldl
    | with_reducible apply canon_foldl1
    | with_reducible apply canon_ite
    | with_reducible apply canon_ite1
    | with_reducible apply State.await_canon
    | with_reducible apply State.bankStore_canon
    | with_reducible apply State.sawStamps_canon
    | with_reducible apply State.setMark_canon
    | with_reducible apply State.storeNat_canon
    | with_reducible apply State.setMail_canon
    | with_reducible apply State.finishWith_canon
    | (refine canon_fst ?_ ‹_ = (_, _)›)
    | split

theorem execMrecv_canon (g : Sys2Proof.Guard) (o : Sys2Proof.AddrM) (s : State) (hc : s.Canon) : Holds State.Canon (execMrecv g o s) := by
  unfold execMrecv
  try dsimp only
  repeat' first
    | (intro _; try dsimp only)
    | with_reducible assumption
    | with_reducible apply holds_next
    | with_reducible apply canon_foldl
    | with_reducible apply canon_foldl1
    | with_reducible apply canon_ite
    | with_reducible apply canon_ite1
    | with_reducible apply State.issue_canon
    | with_reducible apply State.withBox_canon
    | with_reducible apply State.receive_canon
    | (refine canon_fst ?_ ‹_ = (_, _)›)
    | split

/-! ### Reach -/

theorem State.engineAt_canon (s : State) (k : ℕ) (va : ℕ) (need : Need) (hc : s.Canon) : (State.engineAt s k va need).1.Canon := by
  unfold State.engineAt
  try dsimp only
  repeat' first
    | (intro _; try dsimp only)
    | with_reducible assumption
    | with_reducible apply holds_next
    | with_reducible apply canon_foldl
    | with_reducible apply canon_foldl1
    | with_reducible apply canon_ite
    | with_reducible apply canon_ite1
    | with_reducible apply State.resolve_canon
    | (refine canon_fst ?_ ‹_ = (_, _)›)
    | split

theorem State.readPiece_canon (s : State) (k : ℕ) (va : ℕ) (n : ℕ) (hc : s.Canon) : (State.readPiece s k va n).1.Canon := by
  unfold State.readPiece
  try dsimp only
  repeat' first
    | (intro _; try dsimp only)
    | with_reducible assumption
    | with_reducible apply holds_next
    | with_reducible apply canon_foldl
    | with_reducible apply canon_foldl1
    | with_reducible apply canon_ite
    | with_reducible apply canon_ite1
    | with_reducible apply State.engineAt_canon
    | with_reducible apply State.loadBytes_canon
    | with_reducible apply State.closeWindow_canon
    | with_reducible apply State.holdAt_canon
    | with_reducible apply State.await_canon
    | (refine canon_fst ?_ ‹_ = (_, _)›)
    | split

theorem State.readMem_canon (s : State) (k : ℕ) (va : ℕ) (n : ℕ) (hc : s.Canon) : (State.readMem s k va n).1.Canon := by
  unfold State.readMem
  try dsimp only
  repeat' first
    | (intro _; try dsimp only)
    | with_reducible assumption
    | with_reducible apply holds_next
    | with_reducible apply canon_foldl
    | with_reducible apply canon_foldl1
    | with_reducible apply canon_ite
    | with_reducible apply canon_ite1
    | with_reducible apply State.readPiece_canon
    | (refine canon_fst ?_ ‹_ = (_, _)›)
    | split

theorem State.readFailed_canon (s : State) (k : ℕ) (f : Failed) (tval : Sys2Proof.Word) (hc : s.Canon) : (State.readFailed s k f tval).Canon := by
  unfold State.readFailed
  try dsimp only
  repeat' first
    | (intro _; try dsimp only)
    | with_reducible assumption
    | with_reducible apply holds_next
    | with_reducible apply canon_foldl
    | with_reducible apply canon_foldl1
    | with_reducible apply canon_ite
    | with_reducible apply canon_ite1
    | with_reducible apply State.trap_canon
    | with_reducible apply State.finish_canon
    | with_reducible apply State.refuseAt_canon
    | with_reducible apply State.await_canon
    | (refine canon_fst ?_ ‹_ = (_, _)›)
    | split

theorem State.withBytes_canon (s : State) (k : ℕ) (va : ℕ) (n : ℕ) (body : List Sys2Proof.Byte → State → State) (hc : s.Canon) (hb_body : ∀ a0 a1, a1.Canon → (body a0 a1).Canon) : (State.withBytes s k va n body).Canon := by
  unfold State.withBytes
  try dsimp only
  repeat' first
    | (intro _; try dsimp only)
    | with_reducible assumption
    | with_reducible apply holds_next
    | with_reducible apply canon_foldl
    | with_reducible apply canon_foldl1
    | with_reducible apply canon_ite
    | with_reducible apply canon_ite1
    | with_reducible apply hb_body
    | with_reducible apply State.readMem_canon
    | with_reducible apply State.readFailed_canon
    | with_reducible apply State.takeTrap_canon
    | (refine canon_fst ?_ ‹_ = (_, _)›)
    | split

/-! ### Barrier -/

theorem State.arriveAt_canon (s : State) (k : ℕ) (d : ℕ) (b : ℕ) (bit : ℕ) (hc : s.Canon) : (State.arriveAt s k d b bit).Canon := by
  unfold State.arriveAt
  try dsimp only
  repeat' first
    | (intro _; try dsimp only)
    | with_reducible assumption
    | with_reducible apply holds_next
    | with_reducible apply canon_foldl
    | with_reducible apply canon_foldl1
    | with_reducible apply canon_ite
    | with_reducible apply canon_ite1
    | with_reducible apply State.onBar_canon
    | with_reducible apply State.onCore_canon
    | (refine canon_fst ?_ ‹_ = (_, _)›)
    | split

theorem State.acquireBar_canon (s : State) (k : ℕ) (b : ℕ) (hc : s.Canon) : (State.acquireBar s k b).Canon := by
  unfold State.acquireBar
  try dsimp only
  repeat' first
    | (intro _; try dsimp only)
    | with_reducible assumption
    | with_reducible apply holds_next
    | with_reducible apply canon_foldl
    | with_reducible apply canon_foldl1
    | with_reducible apply canon_ite
    | with_reducible apply canon_ite1
    | with_reducible apply State.raiseClk_canon
    | (refine canon_fst ?_ ‹_ = (_, _)›)
    | split

theorem execArrive_canon (g : Sys2Proof.Guard) (rd : Sys2Proof.XReg) (bid : BitVec 6) (s : State) (hc : s.Canon) : Holds State.Canon (execArrive g rd bid s) := by
  unfold execArrive
  try dsimp only
  repeat' first
    | (intro _; try dsimp only)
    | with_reducible assumption
    | with_reducible apply holds_next
    | with_reducible apply canon_foldl
    | with_reducible apply canon_foldl1
    | with_reducible apply canon_ite
    | with_reducible apply canon_ite1
    | with_reducible apply State.issue_canon
    | with_reducible apply State.trap_canon
    | with_reducible apply State.finishWith_canon
    | with_reducible apply State.await_canon
    | with_reducible apply State.arriveAt_canon
    | (refine canon_fst ?_ ‹_ = (_, _)›)
    | split

theorem execBwait_canon (g : Sys2Proof.Guard) (bid : BitVec 6) (ra : Sys2Proof.XReg) (pt : Sys2Proof.PReg) (pf : Sys2Proof.PReg) (s : State) (hc : s.Canon) : Holds State.Canon (execBwait g bid ra pt pf s) := by
  unfold execBwait
  try dsimp only
  repeat' first
    | (intro _; try dsimp only)
    | with_reducible assumption
    | with_reducible apply holds_next
    | with_reducible apply canon_foldl
    | with_reducible apply canon_foldl1
    | with_reducible apply canon_ite
    | with_reducible apply canon_ite1
    | with_reducible apply State.issue_canon
    | with_reducible apply State.trap_canon
    | with_reducible apply State.finishWith_canon
    | with_reducible apply State.acquireBar_canon
    | with_reducible apply State.onCore_canon
    | with_reducible apply State.awaitFresh_canon
    | (refine canon_fst ?_ ‹_ = (_, _)›)
    | split

theorem execBarrierTimeout_canon (c : Sys2Proof.CoreId) (s : State) (hc : s.Canon) : Holds State.Canon (execBarrierTimeout c s) := by
  unfold execBarrierTimeout
  try dsimp only
  repeat' first
    | (intro _; try dsimp only)
    | with_reducible assumption
    | with_reducible apply holds_next
    | with_reducible apply canon_foldl
    | with_reducible apply canon_foldl1
    | with_reducible apply canon_ite
    | with_reducible apply canon_ite1
    | with_reducible apply State.takeTrap_canon
    | (refine canon_fst ?_ ‹_ = (_, _)›)
    | split

theorem execBarrierPhaseComplete_canon (d : Sys2Proof.DieId) (bid : BitVec 6) (s : State) (hc : s.Canon) : Holds State.Canon (execBarrierPhaseComplete d bid s) := by
  unfold execBarrierPhaseComplete
  try dsimp only
  repeat' first
    | (intro _; try dsimp only)
    | with_reducible assumption
    | with_reducible apply holds_next
    | with_reducible apply canon_foldl
    | with_reducible apply canon_foldl1
    | with_reducible apply canon_ite
    | with_reducible apply canon_ite1
    | with_reducible apply State.completePhase_canon
    | (refine canon_fst ?_ ‹_ = (_, _)›)
    | split

theorem State.setImage_canon (s : State) (d : ℕ) (b : ℕ) (v : ℕ) (hc : s.Canon) : (State.setImage s d b v).Canon := by
  unfold State.setImage
  try dsimp only
  repeat' first
    | (intro _; try dsimp only)
    | with_reducible assumption
    | with_reducible apply holds_next
    | with_reducible apply canon_foldl
    | with_reducible apply canon_foldl1
    | with_reducible apply canon_ite
    | with_reducible apply canon_ite1
    | with_reducible apply State.keepFloors_canon
    | with_reducible apply State.onCore_canon
    | with_reducible apply State.onBar_canon
    | (refine canon_fst ?_ ‹_ = (_, _)›)
    | split

theorem execBmask_canon (g : Sys2Proof.Guard) (bid : BitVec 6) (ra : Sys2Proof.XReg) (s : State) (hc : s.Canon) : Holds State.Canon (execBmask g bid ra s) := by
  unfold execBmask
  try dsimp only
  repeat' first
    | (intro _; try dsimp only)
    | with_reducible assumption
    | with_reducible apply holds_next
    | with_reducible apply canon_foldl
    | with_reducible apply canon_foldl1
    | with_reducible apply canon_ite
    | with_reducible apply canon_ite1
    | with_reducible apply State.issue_canon
    | with_reducible apply State.trap_canon
    | with_reducible apply State.readMem_canon
    | with_reducible apply State.readFailed_canon
    | with_reducible apply State.finish_canon
    | with_reducible apply State.refuseAt_canon
    | with_reducible apply State.takeTrap_canon
    | with_reducible apply State.await_canon
    | with_reducible apply State.setImage_canon
    | (refine canon_fst ?_ ‹_ = (_, _)›)
    | split

theorem execBmaskRd_canon (g : Guard) (bid : BitVec 6) (ra : XReg) (s : State) (h : s.Canon) : Holds State.Canon (execBmaskRd g bid ra s) := by
  unfold execBmaskRd
  refine holds_next (State.issue_canon _ _ _ h fun k t ht => ?_)
  extract_lets va img n mk
  clear_value va img n mk
  refine State.withKey_canon _ _ _ _ _ _ ht fun key u hu => canon_ite (State.enterStore_canon _ _ _ hu) ?_
  split
  · exact State.trap_canon _ _ _ _ hu
  · exact canon_ite (State.await_canon _ _ hu) (State.enterStore_canon _ _ _ (State.onCore_canon _ _ _ hu))

theorem State.passGang_canon (s : State) (k : ℕ) (b : ℕ) (hc : s.Canon) : (State.passGang s k b).Canon := by
  unfold State.passGang
  try dsimp only
  repeat' first
    | (intro _; try dsimp only)
    | with_reducible assumption
    | with_reducible apply holds_next
    | with_reducible apply canon_foldl
    | with_reducible apply canon_foldl1
    | with_reducible apply canon_ite
    | with_reducible apply canon_ite1
    | with_reducible apply State.finishWith_canon
    | with_reducible apply State.acquireBar_canon
    | with_reducible apply State.finish_canon
    | (refine canon_fst ?_ ‹_ = (_, _)›)
    | split

theorem execGang_canon (g : Sys2Proof.Guard) (bid : BitVec 6) (s : State) (hc : s.Canon) : Holds State.Canon (execGang g bid s) := by
  unfold execGang
  try dsimp only
  repeat' first
    | (intro _; try dsimp only)
    | with_reducible assumption
    | with_reducible apply holds_next
    | with_reducible apply canon_foldl
    | with_reducible apply canon_foldl1
    | with_reducible apply canon_ite
    | with_reducible apply canon_ite1
    | with_reducible apply State.issue_canon
    | with_reducible apply State.trap_canon
    | with_reducible apply State.await_canon
    | with_reducible apply State.arriveAt_canon
    | with_reducible apply State.onCore_canon
    | with_reducible apply State.passGang_canon
    | (refine canon_fst ?_ ‹_ = (_, _)›)
    | split

theorem State.trapLost_canon (s : State) (k : ℕ) (hc : s.Canon) : (State.trapLost s k).Canon := by
  unfold State.trapLost
  try dsimp only
  repeat' first
    | (intro _; try dsimp only)
    | with_reducible assumption
    | with_reducible apply holds_next
    | with_reducible apply canon_foldl
    | with_reducible apply canon_foldl1
    | with_reducible apply canon_ite
    | with_reducible apply canon_ite1
    | with_reducible apply State.takeTrap_canon
    | with_reducible apply State.onCore_canon
    | with_reducible apply State.await_canon
    | (refine canon_fst ?_ ‹_ = (_, _)›)
    | split

theorem State.fenceSc_canon (s : State) (k : ℕ) (hc : s.Canon) : (State.fenceSc s k).Canon := by
  unfold State.fenceSc
  try dsimp only
  repeat' first
    | (intro _; try dsimp only)
    | with_reducible assumption
    | with_reducible apply holds_next
    | with_reducible apply canon_foldl
    | with_reducible apply canon_foldl1
    | with_reducible apply canon_ite
    | with_reducible apply canon_ite1
    | with_reducible apply State.raiseClk_canon
    | with_reducible apply canon_scClk
    | (refine canon_fst ?_ ‹_ = (_, _)›)
    | split

theorem execFence_canon (g : Sys2Proof.Guard) (o : Sys2Proof.FenceS) (s : State) (hc : s.Canon) : Holds State.Canon (execFence g o s) := by
  unfold execFence
  try dsimp only
  repeat' first
    | (intro _; try dsimp only)
    | with_reducible assumption
    | with_reducible apply holds_next
    | with_reducible apply canon_foldl
    | with_reducible apply canon_foldl1
    | with_reducible apply canon_ite
    | with_reducible apply canon_ite1
    | with_reducible apply State.issue_canon
    | with_reducible apply State.trapFault_canon
    | with_reducible apply State.trapLost_canon
    | with_reducible apply State.await_canon
    | with_reducible apply State.fenceSc_canon
    | with_reducible apply State.finish_canon
    | with_reducible apply State.emptyRo_canon
    | (refine canon_fst ?_ ‹_ = (_, _)›)
    | split

/-! ### Queue -/

theorem State.collTaken_canon (s : State) (k : ℕ) (seat : Option (ℕ × ℕ)) (hc : s.Canon) : (State.collTaken s k seat).Canon := by
  unfold State.collTaken
  try dsimp only
  repeat' first
    | (intro _; try dsimp only)
    | with_reducible assumption
    | with_reducible apply holds_next
    | with_reducible apply canon_foldl
    | with_reducible apply canon_foldl1
    | with_reducible apply canon_ite
    | with_reducible apply canon_ite1
    | with_reducible apply State.onDie_canon
    | (refine canon_fst ?_ ‹_ = (_, _)›)
    | split

theorem State.sendGrad_canon (s : State) (k n : Nat) (d : Cmd) (h : s.Canon) : (s.sendGrad k n d).Canon := by
  unfold State.sendGrad
  exact canon_ite (State.onCore_canon _ _ _ (State.refuseAt_canon _ _ _ _ h))
    (State.onCore_canon _ _ _ (canon_grads h (SMap.wfFrom_put _ h.grads (Nat.zero_le _))))

theorem State.accept_canon (s : State) (k : Nat) (q : QName) (w : Wide) (hs : List Wide) (pc : Word) (xfer : Bool) (h : s.Canon) :
    (s.accept k q w hs pc xfer).Canon := by
  unfold State.accept
  extract_lets c w' seat d s1 s2 s3
  have h1 : s1.Canon := State.onCore_canon _ _ _ h
  have h2 : s2.Canon := by
    show (match d.tag with | some t => s1.tagTake k t | none => s1).Canon
    split
    · exact State.tagTake_canon _ _ _ h1
    · exact h1
  clear_value s2
  refine State.tick_canon _ ?_
  show State.Canon (match q with | .gq n => _ | _ => _)
  split
  · exact State.sendGrad_canon _ _ _ _ h2
  · exact State.collTaken_canon _ _ _ h2

theorem State.shutWindow_canon (s : State) (k : ℕ) (hc : s.Canon) : (State.shutWindow s k).Canon := by
  unfold State.shutWindow
  try dsimp only
  repeat' first
    | (intro _; try dsimp only)
    | with_reducible assumption
    | with_reducible apply holds_next
    | with_reducible apply canon_foldl
    | with_reducible apply canon_foldl1
    | with_reducible apply canon_ite
    | with_reducible apply canon_ite1
    | with_reducible apply State.onTile_canon
    | (refine canon_fst ?_ ‹_ = (_, _)›)
    | split

theorem State.pushChecked_canon (s : State) (k : ℕ) (q : Sys2Proof.QName) (w : Sys2Proof.Wide) (hs : List Sys2Proof.Wide) (full : State → State) (done : Core → Core) (hc : s.Canon) (hb_full : ∀ a0, a0.Canon → (full a0).Canon) : (State.pushChecked s k q w hs full done).Canon := by
  unfold State.pushChecked
  try dsimp only
  repeat' first
    | (intro _; try dsimp only)
    | with_reducible assumption
    | with_reducible apply holds_next
    | with_reducible apply canon_foldl
    | with_reducible apply canon_foldl1
    | with_reducible apply canon_ite
    | with_reducible apply canon_ite1
    | with_reducible apply hb_full
    | with_reducible apply State.trap_canon
    | with_reducible apply State.await_canon
    | with_reducible apply State.finishWith_canon
    | with_reducible apply State.accept_canon
    | with_reducible apply State.shutWindow_canon
    | (refine canon_fst ?_ ‹_ = (_, _)›)
    | split

theorem State.pushFilled_canon (s : State) (k : ℕ) (q : Sys2Proof.QName) (w : Sys2Proof.Wide) (full : State → State) (done : Core → Core) (hc : s.Canon) (hb_full : ∀ a0, a0.Canon → (full a0).Canon) : (State.pushFilled s k q w full done).Canon := by
  unfold State.pushFilled
  try dsimp only
  repeat' first
    | (intro _; try dsimp only)
    | with_reducible assumption
    | with_reducible apply holds_next
    | with_reducible apply canon_foldl
    | with_reducible apply canon_foldl1
    | with_reducible apply canon_ite
    | with_reducible apply canon_ite1
    | with_reducible apply hb_full
    | with_reducible apply State.takeTrap_canon
    | with_reducible apply State.pushChecked_canon
    | (refine canon_fst ?_ ‹_ = (_, _)›)
    | split

theorem State.pushBody_canon (s : State) (k : ℕ) (q : Sys2Proof.QName) (cb : BitVec 3) (full : State → State) (done : Core → Core) (hc : s.Canon) (hb_full : ∀ a0, a0.Canon → (full a0).Canon) : (State.pushBody s k q cb full done).Canon := by
  unfold State.pushBody
  try dsimp only
  repeat' first
    | (intro _; try dsimp only)
    | with_reducible assumption
    | with_reducible apply holds_next
    | with_reducible apply canon_foldl
    | with_reducible apply canon_foldl1
    | with_reducible apply canon_ite
    | with_reducible apply canon_ite1
    | with_reducible apply hb_full
    | with_reducible apply State.trapFault_canon
    | with_reducible apply State.trap_canon
    | with_reducible apply State.await_canon
    | with_reducible apply State.pushFilled_canon
    | with_reducible apply State.fill_canon
    | (refine canon_fst ?_ ‹_ = (_, _)›)
    | split

theorem execPush_canon (g : Sys2Proof.Guard) (q : Sys2Proof.QName) (cb : BitVec 3) (s : State) (hc : s.Canon) : Holds State.Canon (execPush g q cb s) := by
  unfold execPush
  try dsimp only
  repeat' first
    | (intro _; try dsimp only)
    | with_reducible assumption
    | with_reducible apply holds_next
    | with_reducible apply canon_foldl
    | with_reducible apply canon_foldl1
    | with_reducible apply canon_ite
    | with_reducible apply canon_ite1
    | with_reducible apply State.issue_canon
    | with_reducible apply State.pushBody_canon
    | with_reducible apply State.await_canon
    | (refine canon_fst ?_ ‹_ = (_, _)›)
    | split

theorem execPushTry_canon (g : Sys2Proof.Guard) (q : Sys2Proof.QName) (cb : BitVec 3) (pt : Sys2Proof.PReg) (pf : Sys2Proof.PReg) (s : State) (hc : s.Canon) : Holds State.Canon (execPushTry g q cb pt pf s) := by
  unfold execPushTry
  try dsimp only
  repeat' first
    | (intro _; try dsimp only)
    | with_reducible assumption
    | with_reducible apply holds_next
    | with_reducible apply canon_foldl
    | with_reducible apply canon_foldl1
    | with_reducible apply canon_ite
    | with_reducible apply canon_ite1
    | with_reducible apply State.issue_canon
    | with_reducible apply State.pushBody_canon
    | with_reducible apply State.finishWith_canon
    | (refine canon_fst ?_ ‹_ = (_, _)›)
    | split

theorem execQstat_canon (g : Sys2Proof.Guard) (q : Sys2Proof.QName) (rd : Sys2Proof.XReg) (s : State) (hc : s.Canon) : Holds State.Canon (execQstat g q rd s) := by
  unfold execQstat
  try dsimp only
  repeat' first
    | (intro _; try dsimp only)
    | with_reducible assumption
    | with_reducible apply holds_next
    | with_reducible apply canon_foldl
    | with_reducible apply canon_foldl1
    | with_reducible apply canon_ite
    | with_reducible apply canon_ite1
    | with_reducible apply State.issue_canon
    | with_reducible apply State.finishWith_canon
    | (refine canon_fst ?_ ‹_ = (_, _)›)
    | split

theorem execWait_canon (g : Sys2Proof.Guard) (o : Sys2Proof.WaitS) (s : State) (hc : s.Canon) : Holds State.Canon (execWait g o s) := by
  unfold execWait
  try dsimp only
  repeat' first
    | (intro _; try dsimp only)
    | with_reducible assumption
    | with_reducible apply holds_next
    | with_reducible apply canon_foldl
    | with_reducible apply canon_foldl1
    | with_reducible apply canon_ite
    | with_reducible apply canon_ite1
    | with_reducible apply State.issue_canon
    | with_reducible apply State.trapFault_canon
    | with_reducible apply State.finish_canon
    | with_reducible apply State.await_canon
    | (refine canon_fst ?_ ‹_ = (_, _)›)
    | split

theorem execTwait_canon (g : Sys2Proof.Guard) (tag : BitVec 6) (s : State) (hc : s.Canon) : Holds State.Canon (execTwait g tag s) := by
  unfold execTwait
  try dsimp only
  repeat' first
    | (intro _; try dsimp only)
    | with_reducible assumption
    | with_reducible apply holds_next
    | with_reducible apply canon_foldl
    | with_reducible apply canon_foldl1
    | with_reducible apply canon_ite
    | with_reducible apply canon_ite1
    | with_reducible apply State.issue_canon
    | with_reducible apply State.trapFault_canon
    | with_reducible apply State.finish_canon
    | with_reducible apply State.await_canon
    | (refine canon_fst ?_ ‹_ = (_, _)›)
    | split

theorem execTany_canon (g : Sys2Proof.Guard) (rd : Sys2Proof.XReg) (ra : Sys2Proof.XReg) (s : State) (hc : s.Canon) : Holds State.Canon (execTany g rd ra s) := by
  unfold execTany
  try dsimp only
  repeat' first
    | (intro _; try dsimp only)
    | with_reducible assumption
    | with_reducible apply holds_next
    | with_reducible apply canon_foldl
    | with_reducible apply canon_foldl1
    | with_reducible apply canon_ite
    | with_reducible apply canon_ite1
    | with_reducible apply State.issue_canon
    | with_reducible apply State.trapFault_canon
    | with_reducible apply State.finishWith_canon
    | with_reducible apply State.await_canon
    | (refine canon_fst ?_ ‹_ = (_, _)›)
    | split

theorem State.clearFlt_canon (s : State) (k : ℕ) (mask : Sys2Proof.Word) (hc : s.Canon) : (State.clearFlt s k mask).Canon := by
  unfold State.clearFlt
  try dsimp only
  repeat' first
    | (intro _; try dsimp only)
    | with_reducible assumption
    | with_reducible apply holds_next
    | with_reducible apply canon_foldl
    | with_reducible apply canon_foldl1
    | with_reducible apply canon_ite
    | with_reducible apply canon_ite1
    | with_reducible apply State.setTagEntry_canon
    | (refine canon_fst ?_ ‹_ = (_, _)›)
    | split

theorem execTfind_canon (g : Sys2Proof.Guard) (rd : Sys2Proof.XReg) (ra : Sys2Proof.XReg) (s : State) (hc : s.Canon) : Holds State.Canon (execTfind g rd ra s) := by
  unfold execTfind
  try dsimp only
  repeat' first
    | (intro _; try dsimp only)
    | with_reducible assumption
    | with_reducible apply holds_next
    | with_reducible apply canon_foldl
    | with_reducible apply canon_foldl1
    | with_reducible apply canon_ite
    | with_reducible apply canon_ite1
    | with_reducible apply State.issue_canon
    | with_reducible apply State.trapFault_canon
    | with_reducible apply State.finishWith_canon
    | with_reducible apply State.await_canon
    | with_reducible apply State.clearFlt_canon
    | (refine canon_fst ?_ ‹_ = (_, _)›)
    | split

theorem execCancel_canon (g : Sys2Proof.Guard) (tag : BitVec 6) (rd : Sys2Proof.XReg) (s : State) (hc : s.Canon) : Holds State.Canon (execCancel g tag rd s) := by
  unfold execCancel
  try dsimp only
  repeat' first
    | (intro _; try dsimp only)
    | with_reducible assumption
    | with_reducible apply holds_next
    | with_reducible apply canon_foldl
    | with_reducible apply canon_foldl1
    | with_reducible apply canon_ite
    | with_reducible apply canon_ite1
    | with_reducible apply State.issue_canon
    | with_reducible apply State.retireCmd_canon
    | with_reducible apply State.finishWith_canon
    | with_reducible apply State.onCore_canon
    | (refine canon_fst ?_ ‹_ = (_, _)›)
    | split

theorem execAbinit_canon (g : Sys2Proof.Guard) (obj : BitVec 6) (ra : Sys2Proof.XReg) (s : State) (hc : s.Canon) : Holds State.Canon (execAbinit g obj ra s) := by
  unfold execAbinit
  try dsimp only
  repeat' first
    | (intro _; try dsimp only)
    | with_reducible assumption
    | with_reducible apply holds_next
    | with_reducible apply canon_foldl
    | with_reducible apply canon_foldl1
    | with_reducible apply canon_ite
    | with_reducible apply canon_ite1
    | with_reducible apply State.issue_canon
    | with_reducible apply State.finish_canon
    | with_reducible apply State.setArrival_canon
    | (refine canon_fst ?_ ‹_ = (_, _)›)
    | split

theorem execAbinitReset_canon (g : Sys2Proof.Guard) (obj : BitVec 6) (ra : Sys2Proof.XReg) (s : State) (hc : s.Canon) : Holds State.Canon (execAbinitReset g obj ra s) := by
  unfold execAbinitReset
  try dsimp only
  repeat' first
    | (intro _; try dsimp only)
    | with_reducible assumption
    | with_reducible apply holds_next
    | with_reducible apply canon_foldl
    | with_reducible apply canon_foldl1
    | with_reducible apply canon_ite
    | with_reducible apply canon_ite1
    | with_reducible apply State.issue_canon
    | with_reducible apply State.finish_canon
    | with_reducible apply State.setArrival_canon
    | (refine canon_fst ?_ ‹_ = (_, _)›)
    | split

theorem execAbwait_canon (g : Sys2Proof.Guard) (obj : BitVec 6) (s : State) (hc : s.Canon) : Holds State.Canon (execAbwait g obj s) := by
  unfold execAbwait
  try dsimp only
  repeat' first
    | (intro _; try dsimp only)
    | with_reducible assumption
    | with_reducible apply holds_next
    | with_reducible apply canon_foldl
    | with_reducible apply canon_foldl1
    | with_reducible apply canon_ite
    | with_reducible apply canon_ite1
    | with_reducible apply State.issue_canon
    | with_reducible apply State.trapFault_canon
    | with_reducible apply State.finish_canon
    | with_reducible apply State.onCore_canon
    | with_reducible apply State.awaitFresh_canon
    | (refine canon_fst ?_ ‹_ = (_, _)›)
    | split

theorem execAbwaitTimeout_canon (c : Sys2Proof.CoreId) (s : State) (hc : s.Canon) : Holds State.Canon (execAbwaitTimeout c s) := by
  unfold execAbwaitTimeout
  try dsimp only
  repeat' first
    | (intro _; try dsimp only)
    | with_reducible assumption
    | with_reducible apply holds_next
    | with_reducible apply canon_foldl
    | with_reducible apply canon_foldl1
    | with_reducible apply canon_ite
    | with_reducible apply canon_ite1
    | with_reducible apply State.takeTrap_canon
    | (refine canon_fst ?_ ‹_ = (_, _)›)
    | split

/-! ### Handle -/

theorem execHset_canon (g : Sys2Proof.Guard) (h : Sys2Proof.HReg) (f : BitVec 4) (x : Sys2Proof.XReg) (s : State) (hc : s.Canon) : Holds State.Canon (execHset g h f x s) := by
  unfold execHset
  try dsimp only
  repeat' first
    | (intro _; try dsimp only)
    | with_reducible assumption
    | with_reducible apply holds_next
    | with_reducible apply canon_foldl
    | with_reducible apply canon_foldl1
    | with_reducible apply canon_ite
    | with_reducible apply canon_ite1
    | with_reducible apply scalarWord_canon
    | (refine canon_fst ?_ ‹_ = (_, _)›)
    | split

theorem execHget_canon (g : Sys2Proof.Guard) (x : Sys2Proof.XReg) (h : Sys2Proof.HReg) (f : BitVec 4) (s : State) (hc : s.Canon) : Holds State.Canon (execHget g x h f s) := by
  unfold execHget
  try dsimp only
  repeat' first
    | (intro _; try dsimp only)
    | with_reducible assumption
    | with_reducible apply holds_next
    | with_reducible apply canon_foldl
    | with_reducible apply canon_foldl1
    | with_reducible apply canon_ite
    | with_reducible apply canon_ite1
    | with_reducible apply scalarWord_canon
    | (refine canon_fst ?_ ‹_ = (_, _)›)
    | split

theorem execHmov_canon (g : Sys2Proof.Guard) (h : Sys2Proof.HReg) (hs : Sys2Proof.HReg) (s : State) (hc : s.Canon) : Holds State.Canon (execHmov g h hs s) := by
  unfold execHmov
  try dsimp only
  repeat' first
    | (intro _; try dsimp only)
    | with_reducible assumption
    | with_reducible apply holds_next
    | with_reducible apply canon_foldl
    | with_reducible apply canon_foldl1
    | with_reducible apply canon_ite
    | with_reducible apply canon_ite1
    | with_reducible apply scalarWord_canon
    | (refine canon_fst ?_ ‹_ = (_, _)›)
    | split

theorem execHadv_canon (g : Sys2Proof.Guard) (h : Sys2Proof.HReg) (x : Sys2Proof.XReg) (s : State) (hc : s.Canon) : Holds State.Canon (execHadv g h x s) := by
  unfold execHadv
  try dsimp only
  repeat' first
    | (intro _; try dsimp only)
    | with_reducible assumption
    | with_reducible apply holds_next
    | with_reducible apply canon_foldl
    | with_reducible apply canon_foldl1
    | with_reducible apply canon_ite
    | with_reducible apply canon_ite1
    | with_reducible apply scalarWord_canon
    | (refine canon_fst ?_ ‹_ = (_, _)›)
    | split

/-! ### Narrow -/

theorem State.setElem_canon (s : State) (store : ℕ) (h : Sys2Proof.Wide) (r : ℕ) (c : ℕ) (v : ℕ) (hc : s.Canon) : (State.setElem s store h r c v).Canon := by
  unfold State.setElem
  try dsimp only
  repeat' first
    | (intro _; try dsimp only)
    | with_reducible assumption
    | with_reducible apply holds_next
    | with_reducible apply canon_foldl
    | with_reducible apply canon_foldl1
    | with_reducible apply canon_ite
    | with_reducible apply canon_ite1
    | with_reducible apply State.writeBits_canon
    | (refine canon_fst ?_ ‹_ = (_, _)›)
    | split

theorem State.freshWords_canon (s : State) (bits : List (ℕ × ℕ)) (hc : s.Canon) : (State.freshWords s bits).Canon := by
  unfold State.freshWords
  try dsimp only
  repeat' first
    | (intro _; try dsimp only)
    | with_reducible assumption
    | with_reducible apply holds_next
    | with_reducible apply canon_foldl
    | with_reducible apply canon_foldl1
    | with_reducible apply canon_ite
    | with_reducible apply canon_ite1
    | with_reducible apply State.setMark_canon
    | (refine canon_fst ?_ ‹_ = (_, _)›)
    | split

/-! ### Vector -/

theorem State.vecEnter_canon (s : State) (k : ℕ) (i : Sys2Proof.Instr) (n : ℕ) (mask : Sys2Proof.Wide) (hc : s.Canon) : (State.vecEnter s k i n mask).Canon := by
  unfold State.vecEnter
  try dsimp only
  repeat' first
    | (intro _; try dsimp only)
    | with_reducible assumption
    | with_reducible apply holds_next
    | with_reducible apply canon_foldl
    | with_reducible apply canon_foldl1
    | with_reducible apply canon_ite
    | with_reducible apply canon_ite1
    | with_reducible apply State.trap_canon
    | with_reducible apply State.await_canon
    | with_reducible apply State.shutWindow_canon
    | with_reducible apply State.tick_canon
    | with_reducible apply State.finishWith_canon
    | with_reducible apply State.withKey_canon
    | (refine canon_fst ?_ ‹_ = (_, _)›)
    | split

theorem State.issueVec_canon (s : State) (i : Sys2Proof.Instr) (hc : s.Canon) : (State.issueVec s i).Canon := by
  unfold State.issueVec
  try dsimp only
  repeat' first
    | (intro _; try dsimp only)
    | with_reducible assumption
    | with_reducible apply holds_next
    | with_reducible apply canon_foldl
    | with_reducible apply canon_foldl1
    | with_reducible apply canon_ite
    | with_reducible apply canon_ite1
    | with_reducible apply State.await_canon
    | with_reducible apply State.fill_canon
    | with_reducible apply State.takeTrap_canon
    | with_reducible apply State.onCore_canon
    | with_reducible apply State.vecEnter_canon
    | (refine canon_fst ?_ ‹_ = (_, _)›)
    | split

theorem State.charge_canon (s : State) (k : ℕ) (weight : ℕ → ℕ) (w : Cand) (refills : ℕ) (upd : (ℤ → ℤ) → Core → Core) (hc : s.Canon) : (State.charge s k weight w refills upd).Canon := by
  unfold State.charge
  try dsimp only
  repeat' first
    | (intro _; try dsimp only)
    | with_reducible assumption
    | with_reducible apply holds_next
    | with_reducible apply canon_foldl
    | with_reducible apply canon_foldl1
    | with_reducible apply canon_ite
    | with_reducible apply canon_ite1
    | with_reducible apply State.onCore_canon
    | (refine canon_fst ?_ ‹_ = (_, _)›)
    | split

theorem execVectorQuarterGrant_canon (c : Sys2Proof.CoreId) (s : State) (hc : s.Canon) : Holds State.Canon (execVectorQuarterGrant c s) := by
  unfold execVectorQuarterGrant
  try dsimp only
  repeat' first
    | (intro _; try dsimp only)
    | with_reducible assumption
    | with_reducible apply holds_next
    | with_reducible apply canon_foldl
    | with_reducible apply canon_foldl1
    | with_reducible apply canon_ite
    | with_reducible apply canon_ite1
    | with_reducible apply State.onCore_canon
    | with_reducible apply State.charge_canon
    | with_reducible apply State.onTile_canon
    | (refine canon_fst ?_ ‹_ = (_, _)›)
    | split

/-! ### VectorExec -/

theorem State.putLanes_canon (s : State) (store : ℕ) (hd : Sys2Proof.Wide) (ps : List (ℕ × ℕ)) (hc : s.Canon) : (State.putLanes s store hd ps).Canon := by
  unfold State.putLanes
  try dsimp only
  repeat' first
    | (intro _; try dsimp only)
    | with_reducible assumption
    | with_reducible apply holds_next
    | with_reducible apply canon_foldl
    | with_reducible apply canon_foldl1
    | with_reducible apply canon_ite
    | with_reducible apply canon_ite1
    | with_reducible apply State.setElem_canon
    | (refine canon_fst ?_ ‹_ = (_, _)›)
    | split

theorem State.mapLanes_canon (s : State) (k : ℕ) (e : VEntry) (f : ℕ → ℕ × Flags) (hc : s.Canon) : (State.mapLanes s k e f).Canon := by
  unfold State.mapLanes
  try dsimp only
  repeat' first
    | (intro _; try dsimp only)
    | with_reducible assumption
    | with_reducible apply holds_next
    | with_reducible apply canon_foldl
    | with_reducible apply canon_foldl1
    | with_reducible apply canon_ite
    | with_reducible apply canon_ite1
    | with_reducible apply State.onCore_canon
    | with_reducible apply State.freshWords_canon
    | with_reducible apply State.putLanes_canon
    | (refine canon_fst ?_ ‹_ = (_, _)›)
    | split

theorem State.writeScales_canon (s : State) (k : ℕ) (e : VEntry) (hc : s.Canon) : (State.writeScales s k e).Canon := by
  unfold State.writeScales
  try dsimp only
  repeat' first
    | (intro _; try dsimp only)
    | with_reducible assumption
    | with_reducible apply holds_next
    | with_reducible apply canon_foldl
    | with_reducible apply canon_foldl1
    | with_reducible apply canon_ite
    | with_reducible apply canon_ite1
    | with_reducible apply State.freshWords_canon
    | with_reducible apply State.store_canon
    | (refine canon_fst ?_ ‹_ = (_, _)›)
    | split

theorem State.convertLanes_canon (s : State) (k : ℕ) (e : VEntry) (scales : Bool) (hc : s.Canon) : (State.convertLanes s k e scales).Canon := by
  unfold State.convertLanes
  try dsimp only
  repeat' first
    | (intro _; try dsimp only)
    | with_reducible assumption
    | with_reducible apply holds_next
    | with_reducible apply canon_foldl
    | with_reducible apply canon_foldl1
    | with_reducible apply canon_ite
    | with_reducible apply canon_ite1
    | with_reducible apply State.writeScales_canon
    | with_reducible apply State.mapLanes_canon
    | (refine canon_fst ?_ ‹_ = (_, _)›)
    | split

theorem State.compareLanes_canon (s : State) (k : ℕ) (e : VEntry) (o : Sys2Proof.VecCmp) (hc : s.Canon) : (State.compareLanes s k e o).Canon := by
  unfold State.compareLanes
  try dsimp only
  repeat' first
    | (intro _; try dsimp only)
    | with_reducible assumption
    | with_reducible apply holds_next
    | with_reducible apply canon_foldl
    | with_reducible apply canon_foldl1
    | with_reducible apply canon_ite
    | with_reducible apply canon_ite1
    | with_reducible apply State.onCore_canon
    | with_reducible apply State.lateWrite_canon
    | (refine canon_fst ?_ ‹_ = (_, _)›)
    | split

theorem State.laneFulls_canon (s : State) (k : ℕ) (e : VEntry) (b : Bool) (hc : s.Canon) : (State.laneFulls s k e b).Canon := by
  unfold State.laneFulls
  try dsimp only
  repeat' first
    | (intro _; try dsimp only)
    | with_reducible assumption
    | with_reducible apply holds_next
    | with_reducible apply canon_foldl
    | with_reducible apply canon_foldl1
    | with_reducible apply canon_ite
    | with_reducible apply canon_ite1
    | with_reducible apply State.setFulls_canon
    | (refine canon_fst ?_ ‹_ = (_, _)›)
    | split

theorem State.vecEffect_canon (s : State) (k : ℕ) (e : VEntry) (hc : s.Canon) : (State.vecEffect s k e).Canon := by
  unfold State.vecEffect
  try dsimp only
  repeat' first
    | (intro _; try dsimp only)
    | with_reducible assumption
    | with_reducible apply holds_next
    | with_reducible apply canon_foldl
    | with_reducible apply canon_foldl1
    | with_reducible apply canon_ite
    | with_reducible apply canon_ite1
    | with_reducible apply State.convertLanes_canon
    | with_reducible apply State.mapLanes_canon
    | with_reducible apply State.laneFulls_canon
    | with_reducible apply State.onCore_canon
    | with_reducible apply State.lateWrite_canon
    | with_reducible apply State.compareLanes_canon
    | (refine canon_fst ?_ ‹_ = (_, _)›)
    | split

theorem State.reduceAmax_canon (s : State) (k : ℕ) (key : ℕ) (va : Sys2Proof.Word) (pc : Sys2Proof.Word) (v : ℕ) (hc : s.Canon) : (State.reduceAmax s k key va pc v).1.Canon := by
  unfold State.reduceAmax
  try dsimp only
  repeat' first
    | (intro _; try dsimp only)
    | with_reducible assumption
    | with_reducible apply holds_next
    | with_reducible apply canon_foldl
    | with_reducible apply canon_foldl1
    | with_reducible apply canon_ite
    | with_reducible apply canon_ite1
    | with_reducible apply State.reduceAt_canon
    | with_reducible apply State.loseWrite_canon
    | with_reducible apply State.refuseAt_canon
    | (refine canon_fst ?_ ‹_ = (_, _)›)
    | split

theorem State.holdAmax_canon (s : State) (k : ℕ) (age : ℕ) (key : ℕ) (v : Sys2Proof.Word32) (hc : s.Canon) : (State.holdAmax s k age key v).Canon := by
  unfold State.holdAmax
  try dsimp only
  repeat' first
    | (intro _; try dsimp only)
    | with_reducible assumption
    | with_reducible apply holds_next
    | with_reducible apply canon_foldl
    | with_reducible apply canon_foldl1
    | with_reducible apply canon_ite
    | with_reducible apply canon_ite1
    | with_reducible apply State.holdAt_canon
    | (refine canon_fst ?_ ‹_ = (_, _)›)
    | split

theorem execVectorComplete_canon (c : Sys2Proof.CoreId) (s : State) (hc : s.Canon) : Holds State.Canon (execVectorComplete c s) := by
  unfold execVectorComplete
  try dsimp only
  repeat' first
    | (intro _; try dsimp only)
    | with_reducible assumption
    | with_reducible apply holds_next
    | with_reducible apply canon_foldl
    | with_reducible apply canon_foldl1
    | with_reducible apply canon_ite
    | with_reducible apply canon_ite1
    | with_reducible apply State.onCore_canon
    | with_reducible apply State.refuseAt_canon
    | with_reducible apply State.killCore_canon
    | with_reducible apply State.tally_canon
    | with_reducible apply State.vecEffect_canon
    | with_reducible apply State.reduceAmax_canon
    | with_reducible apply State.holdAmax_canon
    | (refine canon_fst ?_ ‹_ = (_, _)›)
    | split

theorem execVadd_canon (g : Sys2Proof.Guard) (o : Sys2Proof.VecR2) (s : State) (hc : s.Canon) : Holds State.Canon (execVadd g o s) := by
  unfold execVadd
  try dsimp only
  repeat' first
    | (intro _; try dsimp only)
    | with_reducible assumption
    | with_reducible apply holds_next
    | with_reducible apply canon_foldl
    | with_reducible apply canon_foldl1
    | with_reducible apply canon_ite
    | with_reducible apply canon_ite1
    | with_reducible apply State.issueVec_canon
    | (refine canon_fst ?_ ‹_ = (_, _)›)
    | split

theorem execVsub_canon (g : Sys2Proof.Guard) (o : Sys2Proof.VecR2) (s : State) (hc : s.Canon) : Holds State.Canon (execVsub g o s) := by
  unfold execVsub
  try dsimp only
  repeat' first
    | (intro _; try dsimp only)
    | with_reducible assumption
    | with_reducible apply holds_next
    | with_reducible apply canon_foldl
    | with_reducible apply canon_foldl1
    | with_reducible apply canon_ite
    | with_reducible apply canon_ite1
    | with_reducible apply State.issueVec_canon
    | (refine canon_fst ?_ ‹_ = (_, _)›)
    | split

theorem execVmul_canon (g : Sys2Proof.Guard) (o : Sys2Proof.VecR2) (s : State) (hc : s.Canon) : Holds State.Canon (execVmul g o s) := by
  unfold execVmul
  try dsimp only
  repeat' first
    | (intro _; try dsimp only)
    | with_reducible assumption
    | with_reducible apply holds_next
    | with_reducible apply canon_foldl
    | with_reducible apply canon_foldl1
    | with_reducible apply canon_ite
    | with_reducible apply canon_ite1
    | with_reducible apply State.issueVec_canon
    | (refine canon_fst ?_ ‹_ = (_, _)›)
    | split

theorem execVfma_canon (g : Sys2Proof.Guard) (o : Sys2Proof.VecR3) (s : State) (hc : s.Canon) : Holds State.Canon (execVfma g o s) := by
  unfold execVfma
  try dsimp only
  repeat' first
    | (intro _; try dsimp only)
    | with_reducible assumption
    | with_reducible apply holds_next
    | with_reducible apply canon_foldl
    | with_reducible apply canon_foldl1
    | with_reducible apply canon_ite
    | with_reducible apply canon_ite1
    | with_reducible apply State.issueVec_canon
    | (refine canon_fst ?_ ‹_ = (_, _)›)
    | split

theorem execVmin_canon (g : Sys2Proof.Guard) (o : Sys2Proof.VecMin) (s : State) (hc : s.Canon) : Holds State.Canon (execVmin g o s) := by
  unfold execVmin
  try dsimp only
  repeat' first
    | (intro _; try dsimp only)
    | with_reducible assumption
    | with_reducible apply holds_next
    | with_reducible apply canon_foldl
    | with_reducible apply canon_foldl1
    | with_reducible apply canon_ite
    | with_reducible apply canon_ite1
    | with_reducible apply State.issueVec_canon
    | (refine canon_fst ?_ ‹_ = (_, _)›)
    | split

theorem execVmax_canon (g : Sys2Proof.Guard) (o : Sys2Proof.VecMin) (s : State) (hc : s.Canon) : Holds State.Canon (execVmax g o s) := by
  unfold execVmax
  try dsimp only
  repeat' first
    | (intro _; try dsimp only)
    | with_reducible assumption
    | with_reducible apply holds_next
    | with_reducible apply canon_foldl
    | with_reducible apply canon_foldl1
    | with_reducible apply canon_ite
    | with_reducible apply canon_ite1
    | with_reducible apply State.issueVec_canon
    | (refine canon_fst ?_ ‹_ = (_, _)›)
    | split

theorem execVabs_canon (g : Sys2Proof.Guard) (o : Sys2Proof.VecU) (s : State) (hc : s.Canon) : Holds State.Canon (execVabs g o s) := by
  unfold execVabs
  try dsimp only
  repeat' first
    | (intro _; try dsimp only)
    | with_reducible assumption
    | with_reducible apply holds_next
    | with_reducible apply canon_foldl
    | with_reducible apply canon_foldl1
    | with_reducible apply canon_ite
    | with_reducible apply canon_ite1
    | with_reducible apply State.issueVec_canon
    | (refine canon_fst ?_ ‹_ = (_, _)›)
    | split

theorem execVneg_canon (g : Sys2Proof.Guard) (o : Sys2Proof.VecU) (s : State) (hc : s.Canon) : Holds State.Canon (execVneg g o s) := by
  unfold execVneg
  try dsimp only
  repeat' first
    | (intro _; try dsimp only)
    | with_reducible assumption
    | with_reducible apply holds_next
    | with_reducible apply canon_foldl
    | with_reducible apply canon_foldl1
    | with_reducible apply canon_ite
    | with_reducible apply canon_ite1
    | with_reducible apply State.issueVec_canon
    | (refine canon_fst ?_ ‹_ = (_, _)›)
    | split

theorem execVexp2_canon (g : Sys2Proof.Guard) (o : Sys2Proof.VecF) (s : State) (hc : s.Canon) : Holds State.Canon (execVexp2 g o s) := by
  unfold execVexp2
  try dsimp only
  repeat' first
    | (intro _; try dsimp only)
    | with_reducible assumption
    | with_reducible apply holds_next
    | with_reducible apply canon_foldl
    | with_reducible apply canon_foldl1
    | with_reducible apply canon_ite
    | with_reducible apply canon_ite1
    | with_reducible apply State.issueVec_canon
    | (refine canon_fst ?_ ‹_ = (_, _)›)
    | split

theorem execVlog2_canon (g : Sys2Proof.Guard) (o : Sys2Proof.VecF) (s : State) (hc : s.Canon) : Holds State.Canon (execVlog2 g o s) := by
  unfold execVlog2
  try dsimp only
  repeat' first
    | (intro _; try dsimp only)
    | with_reducible assumption
    | with_reducible apply holds_next
    | with_reducible apply canon_foldl
    | with_reducible apply canon_foldl1
    | with_reducible apply canon_ite
    | with_reducible apply canon_ite1
    | with_reducible apply State.issueVec_canon
    | (refine canon_fst ?_ ‹_ = (_, _)›)
    | split

theorem execVrcp_canon (g : Sys2Proof.Guard) (o : Sys2Proof.VecF) (s : State) (hc : s.Canon) : Holds State.Canon (execVrcp g o s) := by
  unfold execVrcp
  try dsimp only
  repeat' first
    | (intro _; try dsimp only)
    | with_reducible assumption
    | with_reducible apply holds_next
    | with_reducible apply canon_foldl
    | with_reducible apply canon_foldl1
    | with_reducible apply canon_ite
    | with_reducible apply canon_ite1
    | with_reducible apply State.issueVec_canon
    | (refine canon_fst ?_ ‹_ = (_, _)›)
    | split

theorem execVrsq_canon (g : Sys2Proof.Guard) (o : Sys2Proof.VecF) (s : State) (hc : s.Canon) : Holds State.Canon (execVrsq g o s) := by
  unfold execVrsq
  try dsimp only
  repeat' first
    | (intro _; try dsimp only)
    | with_reducible assumption
    | with_reducible apply holds_next
    | with_reducible apply canon_foldl
    | with_reducible apply canon_foldl1
    | with_reducible apply canon_ite
    | with_reducible apply canon_ite1
    | with_reducible apply State.issueVec_canon
    | (refine canon_fst ?_ ‹_ = (_, _)›)
    | split

theorem execVtanh_canon (g : Sys2Proof.Guard) (o : Sys2Proof.VecF) (s : State) (hc : s.Canon) : Holds State.Canon (execVtanh g o s) := by
  unfold execVtanh
  try dsimp only
  repeat' first
    | (intro _; try dsimp only)
    | with_reducible assumption
    | with_reducible apply holds_next
    | with_reducible apply canon_foldl
    | with_reducible apply canon_foldl1
    | with_reducible apply canon_ite
    | with_reducible apply canon_ite1
    | with_reducible apply State.issueVec_canon
    | (refine canon_fst ?_ ‹_ = (_, _)›)
    | split

theorem execVcvt_canon (g : Sys2Proof.Guard) (o : Sys2Proof.VecCvt) (s : State) (hc : s.Canon) : Holds State.Canon (execVcvt g o s) := by
  unfold execVcvt
  try dsimp only
  repeat' first
    | (intro _; try dsimp only)
    | with_reducible assumption
    | with_reducible apply holds_next
    | with_reducible apply canon_foldl
    | with_reducible apply canon_foldl1
    | with_reducible apply canon_ite
    | with_reducible apply canon_ite1
    | with_reducible apply State.issueVec_canon
    | (refine canon_fst ?_ ‹_ = (_, _)›)
    | split

theorem execVquant_canon (g : Sys2Proof.Guard) (o : Sys2Proof.VecQuant) (s : State) (hc : s.Canon) : Holds State.Canon (execVquant g o s) := by
  unfold execVquant
  try dsimp only
  repeat' first
    | (intro _; try dsimp only)
    | with_reducible assumption
    | with_reducible apply holds_next
    | with_reducible apply canon_foldl
    | with_reducible apply canon_foldl1
    | with_reducible apply canon_ite
    | with_reducible apply canon_ite1
    | with_reducible apply State.issueVec_canon
    | (refine canon_fst ?_ ‹_ = (_, _)›)
    | split

theorem execVamax_canon (g : Sys2Proof.Guard) (o : Sys2Proof.VecRed) (s : State) (hc : s.Canon) : Holds State.Canon (execVamax g o s) := by
  unfold execVamax
  try dsimp only
  repeat' first
    | (intro _; try dsimp only)
    | with_reducible assumption
    | with_reducible apply holds_next
    | with_reducible apply canon_foldl
    | with_reducible apply canon_foldl1
    | with_reducible apply canon_ite
    | with_reducible apply canon_ite1
    | with_reducible apply State.issueVec_canon
    | (refine canon_fst ?_ ‹_ = (_, _)›)
    | split

theorem execVred_canon (g : Sys2Proof.Guard) (o : Sys2Proof.VecRed) (s : State) (hc : s.Canon) : Holds State.Canon (execVred g o s) := by
  unfold execVred
  try dsimp only
  repeat' first
    | (intro _; try dsimp only)
    | with_reducible assumption
    | with_reducible apply holds_next
    | with_reducible apply canon_foldl
    | with_reducible apply canon_foldl1
    | with_reducible apply canon_ite
    | with_reducible apply canon_ite1
    | with_reducible apply State.issueVec_canon
    | (refine canon_fst ?_ ‹_ = (_, _)›)
    | split

theorem execVcmp_canon (g : Sys2Proof.Guard) (o : Sys2Proof.VecCmp) (s : State) (hc : s.Canon) : Holds State.Canon (execVcmp g o s) := by
  unfold execVcmp
  try dsimp only
  repeat' first
    | (intro _; try dsimp only)
    | with_reducible assumption
    | with_reducible apply holds_next
    | with_reducible apply canon_foldl
    | with_reducible apply canon_foldl1
    | with_reducible apply canon_ite
    | with_reducible apply canon_ite1
    | with_reducible apply State.issueVec_canon
    | (refine canon_fst ?_ ‹_ = (_, _)›)
    | split

theorem execVsel_canon (g : Sys2Proof.Guard) (o : Sys2Proof.VecSel) (s : State) (hc : s.Canon) : Holds State.Canon (execVsel g o s) := by
  unfold execVsel
  try dsimp only
  repeat' first
    | (intro _; try dsimp only)
    | with_reducible assumption
    | with_reducible apply holds_next
    | with_reducible apply canon_foldl
    | with_reducible apply canon_foldl1
    | with_reducible apply canon_ite
    | with_reducible apply canon_ite1
    | with_reducible apply State.issueVec_canon
    | (refine canon_fst ?_ ‹_ = (_, _)›)
    | split

theorem execVperm_canon (g : Sys2Proof.Guard) (o : Sys2Proof.VecPerm) (s : State) (hc : s.Canon) : Holds State.Canon (execVperm g o s) := by
  unfold execVperm
  try dsimp only
  repeat' first
    | (intro _; try dsimp only)
    | with_reducible assumption
    | with_reducible apply holds_next
    | with_reducible apply canon_foldl
    | with_reducible apply canon_foldl1
    | with_reducible apply canon_ite
    | with_reducible apply canon_ite1
    | with_reducible apply State.issueVec_canon
    | (refine canon_fst ?_ ‹_ = (_, _)›)
    | split

theorem execVbcast_canon (g : Sys2Proof.Guard) (o : Sys2Proof.VecBcast) (s : State) (hc : s.Canon) : Holds State.Canon (execVbcast g o s) := by
  unfold execVbcast
  try dsimp only
  repeat' first
    | (intro _; try dsimp only)
    | with_reducible assumption
    | with_reducible apply holds_next
    | with_reducible apply canon_foldl
    | with_reducible apply canon_foldl1
    | with_reducible apply canon_ite
    | with_reducible apply canon_ite1
    | with_reducible apply State.issueVec_canon
    | (refine canon_fst ?_ ‹_ = (_, _)›)
    | split

theorem execVmov_canon (g : Sys2Proof.Guard) (o : Sys2Proof.VecMov) (s : State) (hc : s.Canon) : Holds State.Canon (execVmov g o s) := by
  unfold execVmov
  try dsimp only
  repeat' first
    | (intro _; try dsimp only)
    | with_reducible assumption
    | with_reducible apply holds_next
    | with_reducible apply canon_foldl
    | with_reducible apply canon_foldl1
    | with_reducible apply canon_ite
    | with_reducible apply canon_ite1
    | with_reducible apply State.issueVec_canon
    | (refine canon_fst ?_ ‹_ = (_, _)›)
    | split

theorem execVfill_canon (g : Sys2Proof.Guard) (o : Sys2Proof.VecMov) (s : State) (hc : s.Canon) : Holds State.Canon (execVfill g o s) := by
  unfold execVfill
  try dsimp only
  repeat' first
    | (intro _; try dsimp only)
    | with_reducible assumption
    | with_reducible apply holds_next
    | with_reducible apply canon_foldl
    | with_reducible apply canon_foldl1
    | with_reducible apply canon_ite
    | with_reducible apply canon_ite1
    | with_reducible apply State.issueVec_canon
    | (refine canon_fst ?_ ‹_ = (_, _)›)
    | split

theorem execVempty_canon (g : Sys2Proof.Guard) (d : Sys2Proof.VHandle) (s : State) (hc : s.Canon) : Holds State.Canon (execVempty g d s) := by
  unfold execVempty
  try dsimp only
  repeat' first
    | (intro _; try dsimp only)
    | with_reducible assumption
    | with_reducible apply holds_next
    | with_reducible apply canon_foldl
    | with_reducible apply canon_foldl1
    | with_reducible apply canon_ite
    | with_reducible apply canon_ite1
    | with_reducible apply State.issueVec_canon
    | (refine canon_fst ?_ ‹_ = (_, _)›)
    | split

theorem execVplog_canon (g : Sys2Proof.Guard) (o : Sys2Proof.VecPlog) (s : State) (hc : s.Canon) : Holds State.Canon (execVplog g o s) := by
  unfold execVplog
  try dsimp only
  repeat' first
    | (intro _; try dsimp only)
    | with_reducible assumption
    | with_reducible apply holds_next
    | with_reducible apply canon_foldl
    | with_reducible apply canon_foldl1
    | with_reducible apply canon_ite
    | with_reducible apply canon_ite1
    | with_reducible apply State.issueVec_canon
    | (refine canon_fst ?_ ‹_ = (_, _)›)
    | split

theorem execVpcnt_canon (g : Sys2Proof.Guard) (o : Sys2Proof.VecPcnt) (s : State) (hc : s.Canon) : Holds State.Canon (execVpcnt g o s) := by
  unfold execVpcnt
  try dsimp only
  repeat' first
    | (intro _; try dsimp only)
    | with_reducible assumption
    | with_reducible apply holds_next
    | with_reducible apply canon_foldl
    | with_reducible apply canon_foldl1
    | with_reducible apply canon_ite
    | with_reducible apply canon_ite1
    | with_reducible apply State.issueVec_canon
    | (refine canon_fst ?_ ‹_ = (_, _)›)
    | split

theorem execVpfirst_canon (g : Sys2Proof.Guard) (o : Sys2Proof.VecPcnt) (s : State) (hc : s.Canon) : Holds State.Canon (execVpfirst g o s) := by
  unfold execVpfirst
  try dsimp only
  repeat' first
    | (intro _; try dsimp only)
    | with_reducible assumption
    | with_reducible apply holds_next
    | with_reducible apply canon_foldl
    | with_reducible apply canon_foldl1
    | with_reducible apply canon_ite
    | with_reducible apply canon_ite1
    | with_reducible apply State.issueVec_canon
    | (refine canon_fst ?_ ‹_ = (_, _)›)
    | split

theorem execVpmovFromX_canon (g : Sys2Proof.Guard) (o : Sys2Proof.VecFromX) (s : State) (hc : s.Canon) : Holds State.Canon (execVpmovFromX g o s) := by
  unfold execVpmovFromX
  try dsimp only
  repeat' first
    | (intro _; try dsimp only)
    | with_reducible assumption
    | with_reducible apply holds_next
    | with_reducible apply canon_foldl
    | with_reducible apply canon_foldl1
    | with_reducible apply canon_ite
    | with_reducible apply canon_ite1
    | with_reducible apply State.issueVec_canon
    | (refine canon_fst ?_ ‹_ = (_, _)›)
    | split

theorem execVpmovToX_canon (g : Sys2Proof.Guard) (o : Sys2Proof.VecToX) (s : State) (hc : s.Canon) : Holds State.Canon (execVpmovToX g o s) := by
  unfold execVpmovToX
  try dsimp only
  repeat' first
    | (intro _; try dsimp only)
    | with_reducible assumption
    | with_reducible apply holds_next
    | with_reducible apply canon_foldl
    | with_reducible apply canon_foldl1
    | with_reducible apply canon_ite
    | with_reducible apply canon_ite1
    | with_reducible apply State.issueVec_canon
    | (refine canon_fst ?_ ‹_ = (_, _)›)
    | split

/-! ### Csr -/

theorem State.remap_canon (s : State) (t : ℕ) (ptile : ℕ) (hc : s.Canon) : (State.remap s t ptile).Canon := by
  unfold State.remap
  try dsimp only
  repeat' first
    | (intro _; try dsimp only)
    | with_reducible assumption
    | with_reducible apply holds_next
    | with_reducible apply canon_foldl
    | with_reducible apply canon_foldl1
    | with_reducible apply canon_ite
    | with_reducible apply canon_ite1
    | with_reducible apply State.onQuad_canon
    | with_reducible apply State.onDie_canon
    | (refine canon_fst ?_ ‹_ = (_, _)›)
    | split

theorem State.setMarkOf_canon (s : State) (k : ℕ) (on : Bool) (hc : s.Canon) : (State.setMarkOf s k on).Canon := by
  unfold State.setMarkOf
  try dsimp only
  repeat' first
    | (intro _; try dsimp only)
    | with_reducible assumption
    | with_reducible apply holds_next
    | with_reducible apply canon_foldl
    | with_reducible apply canon_foldl1
    | with_reducible apply canon_ite
    | with_reducible apply canon_ite1
    | with_reducible apply State.onCore_canon
    | (refine canon_fst ?_ ‹_ = (_, _)›)
    | split

theorem State.loseFlights_canon (s : State) (k : ℕ) (p : ℕ) (hc : s.Canon) : (State.loseFlights s k p).Canon := by
  unfold State.loseFlights
  try dsimp only
  repeat' first
    | (intro _; try dsimp only)
    | with_reducible assumption
    | with_reducible apply holds_next
    | with_reducible apply canon_foldl
    | with_reducible apply canon_foldl1
    | with_reducible apply canon_ite
    | with_reducible apply canon_ite1
    | with_reducible apply State.loseWrite_canon
    | with_reducible apply State.onCore_canon
    | (refine canon_fst ?_ ‹_ = (_, _)›)
    | split

theorem State.dieLoses_canon (s : State) (d : ℕ) (p : ℕ) (hc : s.Canon) : (State.dieLoses s d p).Canon := by
  unfold State.dieLoses
  try dsimp only
  repeat' first
    | (intro _; try dsimp only)
    | with_reducible assumption
    | with_reducible apply holds_next
    | with_reducible apply canon_foldl
    | with_reducible apply canon_foldl1
    | with_reducible apply canon_ite
    | with_reducible apply canon_ite1
    | with_reducible apply State.breakWhole_canon
    | with_reducible apply State.loseFlights_canon
    | (refine canon_fst ?_ ‹_ = (_, _)›)
    | split

theorem State.setDead_canon (s : State) (d : ℕ) (n : ℕ) (v : Sys2Proof.Word) (hc : s.Canon) : (State.setDead s d n v).Canon := by
  unfold State.setDead
  try dsimp only
  repeat' first
    | (intro _; try dsimp only)
    | with_reducible assumption
    | with_reducible apply holds_next
    | with_reducible apply canon_foldl
    | with_reducible apply canon_foldl1
    | with_reducible apply canon_ite
    | with_reducible apply canon_ite1
    | with_reducible apply State.dieLoses_canon
    | with_reducible apply State.setSup_canon
    | (refine canon_fst ?_ ‹_ = (_, _)›)
    | split

theorem State.setCsr_canon (s : State) (k : ℕ) (n : ℕ) (v : Sys2Proof.Word) (hc : s.Canon) : (State.setCsr s k n v).Canon := by
  unfold State.setCsr
  try dsimp only
  repeat' first
    | (intro _; try dsimp only)
    | with_reducible assumption
    | with_reducible apply holds_next
    | with_reducible apply canon_foldl
    | with_reducible apply canon_foldl1
    | with_reducible apply canon_ite
    | with_reducible apply canon_ite1
    | with_reducible apply State.onCore_canon
    | with_reducible apply State.clearFlt_canon
    | with_reducible apply State.onTile_canon
    | with_reducible apply State.setMarkOf_canon
    | with_reducible apply State.setSup_canon
    | with_reducible apply State.remap_canon
    | with_reducible apply State.setDead_canon
    | (refine canon_fst ?_ ‹_ = (_, _)›)
    | split

theorem State.applySplit_canon (s : State) (t : ℕ) (v : Sys2Proof.Word) (hc : s.Canon) : (State.applySplit s t v).Canon := by
  unfold State.applySplit
  try dsimp only
  repeat' first
    | (intro _; try dsimp only)
    | with_reducible assumption
    | with_reducible apply holds_next
    | with_reducible apply canon_foldl
    | with_reducible apply canon_foldl1
    | with_reducible apply canon_ite
    | with_reducible apply canon_ite1
    | with_reducible apply State.dropBlock_canon
    | with_reducible apply State.zeroRange_canon
    | with_reducible apply State.onTile_canon
    | (refine canon_fst ?_ ‹_ = (_, _)›)
    | split

theorem State.makeSplit_canon (s : State) (t : ℕ) (acc : Bool) (v : Sys2Proof.Word) (hc : s.Canon) : (State.makeSplit s t acc v).Canon := by
  unfold State.makeSplit
  try dsimp only
  repeat' first
    | (intro _; try dsimp only)
    | with_reducible assumption
    | with_reducible apply holds_next
    | with_reducible apply canon_foldl
    | with_reducible apply canon_foldl1
    | with_reducible apply canon_ite
    | with_reducible apply canon_ite1
    | with_reducible apply State.onTile_canon
    | with_reducible apply State.applySplit_canon
    | (refine canon_fst ?_ ‹_ = (_, _)›)
    | split

theorem State.writeCsr_canon (s : State) (k : ℕ) (i : Sys2Proof.Instr) (o : Sys2Proof.CsrS) (f : CsrFn) (hc : s.Canon) : (State.writeCsr s k i o f).Canon := by
  unfold State.writeCsr
  try dsimp only
  repeat' first
    | (intro _; try dsimp only)
    | with_reducible assumption
    | with_reducible apply holds_next
    | with_reducible apply canon_foldl
    | with_reducible apply canon_foldl1
    | with_reducible apply canon_ite
    | with_reducible apply canon_ite1
    | with_reducible apply State.trap_canon
    | with_reducible apply State.finishWith_canon
    | with_reducible apply State.setCsr_canon
    | with_reducible apply State.dropReq_canon
    | with_reducible apply State.await_canon
    | with_reducible apply State.makeSplit_canon
    | with_reducible apply State.onTile_canon
    | (refine canon_fst ?_ ‹_ = (_, _)›)
    | split

theorem execCsrr_canon (g : Sys2Proof.Guard) (rd : Sys2Proof.XReg) (csr : BitVec 12) (s : State) (hc : s.Canon) : Holds State.Canon (execCsrr g rd csr s) := by
  unfold execCsrr
  try dsimp only
  repeat' first
    | (intro _; try dsimp only)
    | with_reducible assumption
    | with_reducible apply holds_next
    | with_reducible apply canon_foldl
    | with_reducible apply canon_foldl1
    | with_reducible apply canon_ite
    | with_reducible apply canon_ite1
    | with_reducible apply State.issue_canon
    | with_reducible apply State.finishWith_canon
    | (refine canon_fst ?_ ‹_ = (_, _)›)
    | split

theorem execCsrw_canon (g : Sys2Proof.Guard) (o : Sys2Proof.CsrS) (s : State) (hc : s.Canon) : Holds State.Canon (execCsrw g o s) := by
  unfold execCsrw
  try dsimp only
  repeat' first
    | (intro _; try dsimp only)
    | with_reducible assumption
    | with_reducible apply holds_next
    | with_reducible apply canon_foldl
    | with_reducible apply canon_foldl1
    | with_reducible apply canon_ite
    | with_reducible apply canon_ite1
    | with_reducible apply State.issue_canon
    | with_reducible apply State.writeCsr_canon
    | (refine canon_fst ?_ ‹_ = (_, _)›)
    | split

theorem execCsrset_canon (g : Sys2Proof.Guard) (o : Sys2Proof.CsrS) (s : State) (hc : s.Canon) : Holds State.Canon (execCsrset g o s) := by
  unfold execCsrset
  try dsimp only
  repeat' first
    | (intro _; try dsimp only)
    | with_reducible assumption
    | with_reducible apply holds_next
    | with_reducible apply canon_foldl
    | with_reducible apply canon_foldl1
    | with_reducible apply canon_ite
    | with_reducible apply canon_ite1
    | with_reducible apply State.issue_canon
    | with_reducible apply State.writeCsr_canon
    | (refine canon_fst ?_ ‹_ = (_, _)›)
    | split

theorem execCsrclr_canon (g : Sys2Proof.Guard) (o : Sys2Proof.CsrS) (s : State) (hc : s.Canon) : Holds State.Canon (execCsrclr g o s) := by
  unfold execCsrclr
  try dsimp only
  repeat' first
    | (intro _; try dsimp only)
    | with_reducible assumption
    | with_reducible apply holds_next
    | with_reducible apply canon_foldl
    | with_reducible apply canon_foldl1
    | with_reducible apply canon_ite
    | with_reducible apply canon_ite1
    | with_reducible apply State.issue_canon
    | with_reducible apply State.writeCsr_canon
    | (refine canon_fst ?_ ‹_ = (_, _)›)
    | split

theorem State.grantSplit_canon (s : State) (t : ℕ) (acc : Bool) (hc : s.Canon) : (State.grantSplit s t acc).Canon := by
  unfold State.grantSplit
  try dsimp only
  repeat' first
    | (intro _; try dsimp only)
    | with_reducible assumption
    | with_reducible apply holds_next
    | with_reducible apply canon_foldl
    | with_reducible apply canon_foldl1
    | with_reducible apply canon_ite
    | with_reducible apply canon_ite1
    | with_reducible apply State.complete_canon
    | with_reducible apply State.lateWrite_canon
    | with_reducible apply State.onTile_canon
    | with_reducible apply State.makeSplit_canon
    | (refine canon_fst ?_ ‹_ = (_, _)›)
    | split

theorem execTsplitWrite_canon (t : Sys2Proof.TileId) (s : State) (hc : s.Canon) : Holds State.Canon (execTsplitWrite t s) := by
  unfold execTsplitWrite
  try dsimp only
  repeat' first
    | (intro _; try dsimp only)
    | with_reducible assumption
    | with_reducible apply holds_next
    | with_reducible apply canon_foldl
    | with_reducible apply canon_foldl1
    | with_reducible apply canon_ite
    | with_reducible apply canon_ite1
    | with_reducible apply State.grantSplit_canon
    | (refine canon_fst ?_ ‹_ = (_, _)›)
    | split

theorem execAccsplitWrite_canon (t : Sys2Proof.TileId) (s : State) (hc : s.Canon) : Holds State.Canon (execAccsplitWrite t s) := by
  unfold execAccsplitWrite
  try dsimp only
  repeat' first
    | (intro _; try dsimp only)
    | with_reducible assumption
    | with_reducible apply holds_next
    | with_reducible apply canon_foldl
    | with_reducible apply canon_foldl1
    | with_reducible apply canon_ite
    | with_reducible apply canon_ite1
    | with_reducible apply State.grantSplit_canon
    | (refine canon_fst ?_ ‹_ = (_, _)›)
    | split

/-! ### System -/

theorem execWfi_canon (g : Sys2Proof.Guard) (ra : Sys2Proof.XReg) (s : State) (hc : s.Canon) : Holds State.Canon (execWfi g ra s) := by
  unfold execWfi
  try dsimp only
  repeat' first
    | (intro _; try dsimp only)
    | with_reducible assumption
    | with_reducible apply holds_next
    | with_reducible apply canon_foldl
    | with_reducible apply canon_foldl1
    | with_reducible apply canon_ite
    | with_reducible apply canon_ite1
    | with_reducible apply State.issue_canon
    | with_reducible apply State.onCore_canon
    | with_reducible apply State.await_canon
    | with_reducible apply State.finish_canon
    | (refine canon_fst ?_ ‹_ = (_, _)›)
    | split

theorem execWfiTimeout_canon (c : Sys2Proof.CoreId) (s : State) (hc : s.Canon) : Holds State.Canon (execWfiTimeout c s) := by
  unfold execWfiTimeout
  try dsimp only
  repeat' first
    | (intro _; try dsimp only)
    | with_reducible assumption
    | with_reducible apply holds_next
    | with_reducible apply canon_foldl
    | with_reducible apply canon_foldl1
    | with_reducible apply canon_ite
    | with_reducible apply canon_ite1
    | with_reducible apply State.complete_canon
    | (refine canon_fst ?_ ‹_ = (_, _)›)
    | split

theorem execSeal_canon (g : Sys2Proof.Guard) (ra : Sys2Proof.XReg) (rb : Sys2Proof.XReg) (s : State) (hc : s.Canon) : Holds State.Canon (execSeal g ra rb s) := by
  unfold execSeal
  try dsimp only
  repeat' first
    | (intro _; try dsimp only)
    | with_reducible assumption
    | with_reducible apply holds_next
    | with_reducible apply canon_foldl
    | with_reducible apply canon_foldl1
    | with_reducible apply canon_ite
    | with_reducible apply canon_ite1
    | with_reducible apply State.issue_canon
    | with_reducible apply State.finish_canon
    | with_reducible apply State.onCore_canon
    | (refine canon_fst ?_ ‹_ = (_, _)›)
    | split

theorem State.tlbDrop_canon (s : State) (k : Nat) (sc : Scope) (hit : Tlb → Bool) (h : s.Canon) : (s.tlbDrop k sc hit).Canon :=
  ⟨h.1, h.2, h.3, h.4, SMap.wfFrom_map _ (fun _ => by dsimp only; split <;> rfl) h.5,
    SMap.wfFrom_map _ (fun _ => by dsimp only; split <;> rfl) h.6, SMap.wfFrom_map _ (fun _ => by dsimp only; split <;> rfl) h.7,
    h.8, h.9, h.10, h.11, h.12, h.13, h.14, h.15⟩

theorem execTlbi_canon (g : Sys2Proof.Guard) (ra : Sys2Proof.XReg) (rb : Sys2Proof.XReg) (scope : Sys2Proof.Scope) (s : State) (hc : s.Canon) : Holds State.Canon (execTlbi g ra rb scope s) := by
  unfold execTlbi
  try dsimp only
  repeat' first
    | (intro _; try dsimp only)
    | with_reducible assumption
    | with_reducible apply holds_next
    | with_reducible apply canon_foldl
    | with_reducible apply canon_foldl1
    | with_reducible apply canon_ite
    | with_reducible apply canon_ite1
    | with_reducible apply State.issue_canon
    | with_reducible apply State.trap_canon
    | with_reducible apply State.tlbDrop_canon
    | with_reducible apply State.finish_canon
    | with_reducible apply State.await_canon
    | (refine canon_fst ?_ ‹_ = (_, _)›)
    | split

theorem execPrio_canon (g : Sys2Proof.Guard) (n : BitVec 2) (s : State) (hc : s.Canon) : Holds State.Canon (execPrio g n s) := by
  unfold execPrio
  try dsimp only
  repeat' first
    | (intro _; try dsimp only)
    | with_reducible assumption
    | with_reducible apply holds_next
    | with_reducible apply canon_foldl
    | with_reducible apply canon_foldl1
    | with_reducible apply canon_ite
    | with_reducible apply canon_ite1
    | with_reducible apply scalarWord_canon
    | (refine canon_fst ?_ ‹_ = (_, _)›)
    | split

theorem execRand_canon (g : Sys2Proof.Guard) (rd : Sys2Proof.XReg) (s : State) (hc : s.Canon) : Holds State.Canon (execRand g rd s) := by
  unfold execRand
  try dsimp only
  repeat' first
    | (intro _; try dsimp only)
    | with_reducible assumption
    | with_reducible apply holds_next
    | with_reducible apply canon_foldl
    | with_reducible apply canon_foldl1
    | with_reducible apply canon_ite
    | with_reducible apply canon_ite1
    | with_reducible apply State.issue_canon
    | with_reducible apply State.finishWith_canon
    | (refine canon_fst ?_ ‹_ = (_, _)›)
    | split

end Machine
end Sys2Proof
end

