-- ==== Sys2Proof/Laws/CanonEngine.lean ====
section
/-! SUPPORT. Every function over the engines, the ladles and compacts keeps the canonical form of State.
Each lemma is named after its function; the instruction meanings answer a state that keeps it. -/

namespace Sys2Proof
namespace Machine
set_option linter.all false

/-! ### Engine -/

theorem State.grabPiece_canon (s : State) (k : ℕ) (d : Cmd) (va : ℕ) (n : ℕ) (hc : s.Canon) : (State.grabPiece s k d va n).1.Canon := by
  unfold State.grabPiece
  try dsimp only
  repeat' first
    | (intro _; try dsimp only)
    | with_reducible assumption
    | with_reducible apply holds_next
    | with_reducible apply canon_foldl
    | with_reducible apply canon_foldl1
    | with_reducible apply canon_ite
    | with_reducible apply canon_ite1
    | with_reducible apply State.engineAt_canon
    | with_reducible apply State.engineRead_canon
    | with_reducible apply State.holdAt_canon
    | (refine canon_fst ?_ ‹_ = (_, _)›)
    | split

theorem State.grab_canon (s : State) (k : ℕ) (d : Cmd) (va : ℕ) (n : ℕ) (hc : s.Canon) : (State.grab s k d va n).1.Canon := by
  unfold State.grab
  try dsimp only
  repeat' first
    | (intro _; try dsimp only)
    | with_reducible assumption
    | with_reducible apply holds_next
    | with_reducible apply canon_foldl
    | with_reducible apply canon_foldl1
    | with_reducible apply canon_ite
    | with_reducible apply canon_ite1
    | with_reducible apply State.grabPiece_canon
    | (refine canon_fst ?_ ‹_ = (_, _)›)
    | split

theorem State.grabH_canon (s : State) (k : ℕ) (d : Cmd) (h : Sys2Proof.Wide) (off : ℕ) (n : ℕ) (hc : s.Canon) : (State.grabH s k d h off n).1.Canon := by
  unfold State.grabH
  try dsimp only
  repeat' first
    | (intro _; try dsimp only)
    | with_reducible assumption
    | with_reducible apply holds_next
    | with_reducible apply canon_foldl
    | with_reducible apply canon_foldl1
    | with_reducible apply canon_ite
    | with_reducible apply canon_ite1
    | with_reducible apply State.grab_canon
    | (refine canon_fst ?_ ‹_ = (_, _)›)
    | split

theorem State.cmdFailed_canon (s : State) (k : ℕ) (d : Cmd) (f : Failed) (hc : s.Canon) : (State.cmdFailed s k d f).Canon := by
  unfold State.cmdFailed
  try dsimp only
  repeat' first
    | (intro _; try dsimp only)
    | with_reducible assumption
    | with_reducible apply holds_next
    | with_reducible apply canon_foldl
    | with_reducible apply canon_foldl1
    | with_reducible apply canon_ite
    | with_reducible apply canon_ite1
    | with_reducible apply State.faultCmd_canon
    | with_reducible apply State.refuseAt_canon
    | (refine canon_fst ?_ ‹_ = (_, _)›)
    | split

theorem State.killCmd_canon (s : State) (k : ℕ) (d : Cmd) (va : Sys2Proof.Word) (hc : s.Canon) : (State.killCmd s k d va).Canon := by
  unfold State.killCmd
  try dsimp only
  repeat' first
    | (intro _; try dsimp only)
    | with_reducible assumption
    | with_reducible apply holds_next
    | with_reducible apply canon_foldl
    | with_reducible apply canon_foldl1
    | with_reducible apply canon_ite
    | with_reducible apply canon_ite1
    | with_reducible apply State.takeTrap_canon
    | (refine canon_fst ?_ ‹_ = (_, _)›)
    | split

theorem State.logProvenance_canon (s : State) (k : Nat) (born : Nat × Nat) (dpkg daddr bytes : Nat) (h : s.Canon) :
    ∀ u, s.logProvenance k born dpkg daddr bytes = some u → u.Canon := by
  intro u hu
  unfold State.logProvenance at hu
  dsimp only at hu
  split at hu
  · cases hu; exact h
  · split at hu
    · cases hu
    · cases hu; exact State.setSup_canon _ _ _ _ (State.storeNat_canon _ _ _ _ h)

/-! ### CopyEngine -/

theorem State.listEntryAt_canon (s : State) (k : ℕ) (d : Cmd) (i : ℕ) (hc : s.Canon) : (State.listEntryAt s k d i).1.Canon := by
  unfold State.listEntryAt
  try dsimp only
  repeat' first
    | (intro _; try dsimp only)
    | with_reducible assumption
    | with_reducible apply holds_next
    | with_reducible apply canon_foldl
    | with_reducible apply canon_foldl1
    | with_reducible apply canon_ite
    | with_reducible apply canon_ite1
    | with_reducible apply State.grab_canon
    | (refine canon_fst ?_ ‹_ = (_, _)›)
    | split

theorem State.listWaits_canon (s : State) (k : ℕ) (d : Cmd) (hc : s.Canon) : (State.listWaits s k d).1.Canon := by
  unfold State.listWaits
  try dsimp only
  repeat' first
    | (intro _; try dsimp only)
    | with_reducible assumption
    | with_reducible apply holds_next
    | with_reducible apply canon_foldl
    | with_reducible apply canon_foldl1
    | with_reducible apply canon_ite
    | with_reducible apply canon_ite1
    | with_reducible apply State.listEntryAt_canon
    | (refine canon_fst ?_ ‹_ = (_, _)›)
    | split

theorem State.listPieces_canon (s : State) (k : ℕ) (d : Cmd) (hc : s.Canon) : (State.listPieces s k d).1.Canon := by
  unfold State.listPieces
  try dsimp only
  repeat' first
    | (intro _; try dsimp only)
    | with_reducible assumption
    | with_reducible apply holds_next
    | with_reducible apply canon_foldl
    | with_reducible apply canon_foldl1
    | with_reducible apply canon_ite
    | with_reducible apply canon_ite1
    | with_reducible apply State.listEntryAt_canon
    | with_reducible apply State.cmdFailed_canon
    | (refine canon_fst ?_ ‹_ = (_, _)›)
    | split

theorem State.pieceBits_canon (s : State) (k : ℕ) (d : Cmd) (p : Piece) (hc : s.Canon) : (State.pieceBits s k d p).1.Canon := by
  unfold State.pieceBits
  try dsimp only
  repeat' first
    | (intro _; try dsimp only)
    | with_reducible assumption
    | with_reducible apply holds_next
    | with_reducible apply canon_foldl
    | with_reducible apply canon_foldl1
    | with_reducible apply canon_ite
    | with_reducible apply canon_ite1
    | with_reducible apply State.grabH_canon
    | (refine canon_fst ?_ ‹_ = (_, _)›)
    | split

theorem State.dropPieces_canon (s : State) (k : ℕ) (age : ℕ) (gone : Piece → Bool) (hc : s.Canon) : (State.dropPieces s k age gone).Canon := by
  unfold State.dropPieces
  try dsimp only
  repeat' first
    | (intro _; try dsimp only)
    | with_reducible assumption
    | with_reducible apply holds_next
    | with_reducible apply canon_foldl
    | with_reducible apply canon_foldl1
    | with_reducible apply canon_ite
    | with_reducible apply canon_ite1
    | with_reducible apply State.onCmd_canon
    | (refine canon_fst ?_ ‹_ = (_, _)›)
    | split

theorem State.holdPiece_canon (s : State) (k : ℕ) (d : Cmd) (p : Piece) (key : ℕ) (b : PieceBits) (hc : s.Canon) : (State.holdPiece s k d p key b).Canon := by
  unfold State.holdPiece
  try dsimp only
  repeat' first
    | (intro _; try dsimp only)
    | with_reducible assumption
    | with_reducible apply holds_next
    | with_reducible apply canon_foldl
    | with_reducible apply canon_foldl1
    | with_reducible apply canon_ite
    | with_reducible apply canon_ite1
    | with_reducible apply State.onCmd_canon
    | with_reducible apply State.holdAt_canon
    | (refine canon_fst ?_ ‹_ = (_, _)›)
    | split

theorem State.deliverPiece_canon (s : State) (k : ℕ) (d : Cmd) (p : Piece) (b : PieceBits) (hc : s.Canon) : (State.deliverPiece s k d p b).Canon := by
  unfold State.deliverPiece
  try dsimp only
  repeat' first
    | (intro _; try dsimp only)
    | with_reducible assumption
    | with_reducible apply holds_next
    | with_reducible apply canon_foldl
    | with_reducible apply canon_foldl1
    | with_reducible apply canon_ite
    | with_reducible apply canon_ite1
    | with_reducible apply State.dropPieces_canon
    | with_reducible apply State.cmdFailed_canon
    | with_reducible apply State.putHeld_canon
    | with_reducible apply State.faultCmd_canon
    | with_reducible apply State.engineAt_canon
    | with_reducible apply State.holdPiece_canon
    | (refine canon_fst ?_ ‹_ = (_, _)›)
    | split

theorem State.pieceArrive_canon (s : State) (k : ℕ) (d : Cmd) (p : Piece) (hc : s.Canon) : (State.pieceArrive s k d p).Canon := by
  unfold State.pieceArrive
  try dsimp only
  repeat' first
    | (intro _; try dsimp only)
    | with_reducible assumption
    | with_reducible apply holds_next
    | with_reducible apply canon_foldl
    | with_reducible apply canon_foldl1
    | with_reducible apply canon_ite
    | with_reducible apply canon_ite1
    | with_reducible apply State.pieceBits_canon
    | with_reducible apply State.dropPieces_canon
    | with_reducible apply State.cmdFailed_canon
    | with_reducible apply State.deliverPiece_canon
    | (refine canon_fst ?_ ‹_ = (_, _)›)
    | split

theorem State.beginCopy_canon (s : State) (k : ℕ) (d : Cmd) (ps : List Piece) (hc : s.Canon) : (State.beginCopy s k d ps).Canon := by
  unfold State.beginCopy
  try dsimp only
  repeat' first
    | (intro _; try dsimp only)
    | with_reducible assumption
    | with_reducible apply holds_next
    | with_reducible apply canon_foldl
    | with_reducible apply canon_foldl1
    | with_reducible apply canon_ite
    | with_reducible apply canon_ite1
    | with_reducible apply State.onCmd_canon
    | (refine canon_fst ?_ ‹_ = (_, _)›)
    | split

theorem State.startCopy_canon (s : State) (k op : Nat) (h : s.Canon) : (s.startCopy k op).Canon := by
  unfold State.startCopy
  split
  · exact h
  · rename_i d _
    refine canon_ite h ?_
    extract_lets w r
    have hw : w.1.Canon := canon_ite1 h (State.listWaits_canon _ _ _ h)
    have hr : r.1.Canon := canon_ite1 h (State.listPieces_canon _ _ _ hw)
    clear_value w r
    refine canon_ite hw ?_
    split
    · exact State.beginCopy_canon _ _ _ _ hr
    · split
      · exact State.onCmd_canon _ _ _ _ h
      · rename_i u hu
        exact State.beginCopy_canon _ _ _ _ (State.logProvenance_canon _ _ _ _ _ _ hr u hu)

theorem State.copyGrant_canon (s : State) (k : ℕ) (n : ℕ) (hc : s.Canon) : (State.copyGrant s k n).Canon := by
  unfold State.copyGrant
  try dsimp only
  repeat' first
    | (intro _; try dsimp only)
    | with_reducible assumption
    | with_reducible apply holds_next
    | with_reducible apply canon_foldl
    | with_reducible apply canon_foldl1
    | with_reducible apply canon_ite
    | with_reducible apply canon_ite1
    | with_reducible apply State.charge_canon
    | with_reducible apply State.onTile_canon
    | with_reducible apply State.onCmd_canon
    | (refine canon_fst ?_ ‹_ = (_, _)›)
    | split

theorem execCopy_canon (c : Sys2Proof.CoreId) (s : State) (hc : s.Canon) : Holds State.Canon (execCopy c s) := by
  unfold execCopy
  try dsimp only
  repeat' first
    | (intro _; try dsimp only)
    | with_reducible assumption
    | with_reducible apply holds_next
    | with_reducible apply canon_foldl
    | with_reducible apply canon_foldl1
    | with_reducible apply canon_ite
    | with_reducible apply canon_ite1
    | with_reducible apply State.startCopy_canon
    | (refine canon_fst ?_ ‹_ = (_, _)›)
    | split

theorem execGather_canon (c : Sys2Proof.CoreId) (s : State) (hc : s.Canon) : Holds State.Canon (execGather c s) := by
  unfold execGather
  try dsimp only
  repeat' first
    | (intro _; try dsimp only)
    | with_reducible assumption
    | with_reducible apply holds_next
    | with_reducible apply canon_foldl
    | with_reducible apply canon_foldl1
    | with_reducible apply canon_ite
    | with_reducible apply canon_ite1
    | with_reducible apply State.startCopy_canon
    | (refine canon_fst ?_ ‹_ = (_, _)›)
    | split

theorem execScatter_canon (c : Sys2Proof.CoreId) (s : State) (hc : s.Canon) : Holds State.Canon (execScatter c s) := by
  unfold execScatter
  try dsimp only
  repeat' first
    | (intro _; try dsimp only)
    | with_reducible assumption
    | with_reducible apply holds_next
    | with_reducible apply canon_foldl
    | with_reducible apply canon_foldl1
    | with_reducible apply canon_ite
    | with_reducible apply canon_ite1
    | with_reducible apply State.startCopy_canon
    | (refine canon_fst ?_ ‹_ = (_, _)›)
    | split

theorem State.pieceIfThere_canon (s : State) (k : ℕ) (age : ℕ) (p : Piece) (hc : s.Canon) : (State.pieceIfThere s k age p).Canon := by
  unfold State.pieceIfThere
  try dsimp only
  repeat' first
    | (intro _; try dsimp only)
    | with_reducible assumption
    | with_reducible apply holds_next
    | with_reducible apply canon_foldl
    | with_reducible apply canon_foldl1
    | with_reducible apply canon_ite
    | with_reducible apply canon_ite1
    | with_reducible apply State.pieceArrive_canon
    | (refine canon_fst ?_ ‹_ = (_, _)›)
    | split

theorem execCopyPieceArrive_canon (c : Sys2Proof.CoreId) (n : ℕ) (s : State) (hc : s.Canon) : Holds State.Canon (execCopyPieceArrive c n s) := by
  unfold execCopyPieceArrive
  try dsimp only
  repeat' first
    | (intro _; try dsimp only)
    | with_reducible assumption
    | with_reducible apply holds_next
    | with_reducible apply canon_foldl
    | with_reducible apply canon_foldl1
    | with_reducible apply canon_ite
    | with_reducible apply canon_ite1
    | with_reducible apply State.pieceIfThere_canon
    | (refine canon_fst ?_ ‹_ = (_, _)›)
    | split

theorem execCopyComplete_canon (c : Sys2Proof.CoreId) (s : State) (hc : s.Canon) : Holds State.Canon (execCopyComplete c s) := by
  unfold execCopyComplete
  try dsimp only
  repeat' first
    | (intro _; try dsimp only)
    | with_reducible assumption
    | with_reducible apply holds_next
    | with_reducible apply canon_foldl
    | with_reducible apply canon_foldl1
    | with_reducible apply canon_ite
    | with_reducible apply canon_ite1
    | with_reducible apply State.retireCmd_canon
    | (refine canon_fst ?_ ‹_ = (_, _)›)
    | split

/-! ### Matrix -/

theorem State.mmaAdvance_canon (s : State) (src : State) (k : ℕ) (d : Cmd) (k0 : ℕ) (n : ℕ) (hc : s.Canon) (hcsrc : src.Canon) : (State.mmaAdvance s src k d k0 n).Canon := by
  unfold State.mmaAdvance
  try dsimp only
  repeat' first
    | (intro _; try dsimp only)
    | with_reducible assumption
    | with_reducible apply holds_next
    | with_reducible apply canon_foldl
    | with_reducible apply canon_foldl1
    | with_reducible apply canon_ite
    | with_reducible apply canon_ite1
    | with_reducible apply State.onCore_canon
    | with_reducible apply State.onTile_canon
    | with_reducible apply State.tally_canon
    | (refine canon_fst ?_ ‹_ = (_, _)›)
    | split

theorem State.mmaStep_canon (s : State) (k : ℕ) (d : Cmd) (hc : s.Canon) : (State.mmaStep s k d).Canon := by
  unfold State.mmaStep
  try dsimp only
  repeat' first
    | (intro _; try dsimp only)
    | with_reducible assumption
    | with_reducible apply holds_next
    | with_reducible apply canon_foldl
    | with_reducible apply canon_foldl1
    | with_reducible apply canon_ite
    | with_reducible apply canon_ite1
    | with_reducible apply State.killCmd_canon
    | with_reducible apply State.mmaAdvance_canon
    | with_reducible apply State.retireCmd_canon
    | with_reducible apply State.onCmd_canon
    | (refine canon_fst ?_ ‹_ = (_, _)›)
    | split

theorem State.mrotBegin_canon (s : State) (k : ℕ) (d : Cmd) (hc : s.Canon) : (State.mrotBegin s k d).Canon := by
  unfold State.mrotBegin
  try dsimp only
  repeat' first
    | (intro _; try dsimp only)
    | with_reducible assumption
    | with_reducible apply holds_next
    | with_reducible apply canon_foldl
    | with_reducible apply canon_foldl1
    | with_reducible apply canon_ite
    | with_reducible apply canon_ite1
    | with_reducible apply State.onTile_canon
    | with_reducible apply State.onCmd_canon
    | (refine canon_fst ?_ ‹_ = (_, _)›)
    | split

theorem State.withOperandsOf_canon (s : State) (k : ℕ) (d : Cmd) (hc : s.Canon) : (State.withOperandsOf s k d).Canon := by
  unfold State.withOperandsOf
  try dsimp only
  repeat' first
    | (intro _; try dsimp only)
    | with_reducible assumption
    | with_reducible apply holds_next
    | with_reducible apply canon_foldl
    | with_reducible apply canon_foldl1
    | with_reducible apply canon_ite
    | with_reducible apply canon_ite1
    | with_reducible apply State.write_canon
    | (refine canon_fst ?_ ‹_ = (_, _)›)
    | split

theorem State.mrotDone_canon (s : State) (t : ℕ) (n : ℕ) (hc : s.Canon) : (State.mrotDone s t n).Canon := by
  unfold State.mrotDone
  try dsimp only
  repeat' first
    | (intro _; try dsimp only)
    | with_reducible assumption
    | with_reducible apply holds_next
    | with_reducible apply canon_foldl
    | with_reducible apply canon_foldl1
    | with_reducible apply canon_ite
    | with_reducible apply canon_ite1
    | with_reducible apply State.onTile_canon
    | with_reducible apply State.retireCmd_canon
    | (refine canon_fst ?_ ‹_ = (_, _)›)
    | split

theorem State.mrotMultiply_canon (s : State) (k : ℕ) (d : Cmd) (hc : s.Canon) : (State.mrotMultiply s k d).Canon := by
  unfold State.mrotMultiply
  try dsimp only
  repeat' first
    | (intro _; try dsimp only)
    | with_reducible assumption
    | with_reducible apply holds_next
    | with_reducible apply canon_foldl
    | with_reducible apply canon_foldl1
    | with_reducible apply canon_ite
    | with_reducible apply canon_ite1
    | with_reducible apply State.onCmd_canon
    | with_reducible apply State.mmaAdvance_canon
    | with_reducible apply State.withOperandsOf_canon
    | with_reducible apply State.mrotDone_canon
    | (refine canon_fst ?_ ‹_ = (_, _)›)
    | split

theorem State.mrotStep_canon (s : State) (k : ℕ) (d : Cmd) (hc : s.Canon) : (State.mrotStep s k d).Canon := by
  unfold State.mrotStep
  try dsimp only
  repeat' first
    | (intro _; try dsimp only)
    | with_reducible assumption
    | with_reducible apply holds_next
    | with_reducible apply canon_foldl
    | with_reducible apply canon_foldl1
    | with_reducible apply canon_ite
    | with_reducible apply canon_ite1
    | with_reducible apply State.retireCmd_canon
    | with_reducible apply State.faultCmd_canon
    | with_reducible apply State.mrotMultiply_canon
    | with_reducible apply State.killCmd_canon
    | with_reducible apply State.mrotBegin_canon
    | (refine canon_fst ?_ ‹_ = (_, _)›)
    | split

theorem execMrotBytesArrive_canon (t : Sys2Proof.TileId) (s : State) (hc : s.Canon) : Holds State.Canon (execMrotBytesArrive t s) := by
  unfold execMrotBytesArrive
  try dsimp only
  repeat' first
    | (intro _; try dsimp only)
    | with_reducible assumption
    | with_reducible apply holds_next
    | with_reducible apply canon_foldl
    | with_reducible apply canon_foldl1
    | with_reducible apply canon_ite
    | with_reducible apply canon_ite1
    | with_reducible apply State.mrotDone_canon
    | with_reducible apply State.engineWrite_canon
    | with_reducible apply State.onTile_canon
    | (refine canon_fst ?_ ‹_ = (_, _)›)
    | split

theorem State.drainEffect_canon (s : State) (k : ℕ) (d : Cmd) (hc : s.Canon) : (State.drainEffect s k d).Canon := by
  unfold State.drainEffect
  try dsimp only
  repeat' first
    | (intro _; try dsimp only)
    | with_reducible assumption
    | with_reducible apply holds_next
    | with_reducible apply canon_foldl
    | with_reducible apply canon_foldl1
    | with_reducible apply canon_ite
    | with_reducible apply canon_ite1
    | with_reducible apply State.setFulls_canon
    | with_reducible apply State.store_canon
    | with_reducible apply State.freshWords_canon
    | with_reducible apply State.setElem_canon
    | with_reducible apply State.onTile_canon
    | with_reducible apply State.onCore_canon
    | (refine canon_fst ?_ ‹_ = (_, _)›)
    | split

theorem State.drainStep_canon (s : State) (k : ℕ) (d : Cmd) (hc : s.Canon) : (State.drainStep s k d).Canon := by
  unfold State.drainStep
  try dsimp only
  repeat' first
    | (intro _; try dsimp only)
    | with_reducible assumption
    | with_reducible apply holds_next
    | with_reducible apply canon_foldl
    | with_reducible apply canon_foldl1
    | with_reducible apply canon_ite
    | with_reducible apply canon_ite1
    | with_reducible apply State.killCmd_canon
    | with_reducible apply State.drainEffect_canon
    | with_reducible apply State.retireCmd_canon
    | with_reducible apply State.onCmd_canon
    | with_reducible apply State.engineAt_canon
    | with_reducible apply State.reduceAt_canon
    | with_reducible apply State.holdAt_canon
    | with_reducible apply State.cmdFailed_canon
    | (refine canon_fst ?_ ‹_ = (_, _)›)
    | split

theorem State.accStep_canon (s : State) (k : ℕ) (d : Cmd) (hc : s.Canon) : (State.accStep s k d).Canon := by
  unfold State.accStep
  try dsimp only
  repeat' first
    | (intro _; try dsimp only)
    | with_reducible assumption
    | with_reducible apply holds_next
    | with_reducible apply canon_foldl
    | with_reducible apply canon_foldl1
    | with_reducible apply canon_ite
    | with_reducible apply canon_ite1
    | with_reducible apply State.killCmd_canon
    | with_reducible apply State.setTile_canon
    | with_reducible apply State.onCore_canon
    | with_reducible apply State.retireCmd_canon
    | (refine canon_fst ?_ ‹_ = (_, _)›)
    | split

/-! ### Ladle -/

theorem State.normStep_canon (s : State) (k : ℕ) (d : Cmd) (hc : s.Canon) : (State.normStep s k d).Canon := by
  unfold State.normStep
  try dsimp only
  repeat' first
    | (intro _; try dsimp only)
    | with_reducible assumption
    | with_reducible apply holds_next
    | with_reducible apply canon_foldl
    | with_reducible apply canon_foldl1
    | with_reducible apply canon_ite
    | with_reducible apply canon_ite1
    | with_reducible apply State.killCmd_canon
    | with_reducible apply State.onTile_canon
    | with_reducible apply State.retireCmd_canon
    | with_reducible apply State.onCore_canon
    | (refine canon_fst ?_ ‹_ = (_, _)›)
    | split

theorem State.aliasStep_canon (s : State) (k : ℕ) (d : Cmd) (hc : s.Canon) : (State.aliasStep s k d).Canon := by
  unfold State.aliasStep
  try dsimp only
  repeat' first
    | (intro _; try dsimp only)
    | with_reducible assumption
    | with_reducible apply holds_next
    | with_reducible apply canon_foldl
    | with_reducible apply canon_foldl1
    | with_reducible apply canon_ite
    | with_reducible apply canon_ite1
    | with_reducible apply State.retireCmd_canon
    | with_reducible apply State.onCore_canon
    | with_reducible apply State.onTile_canon
    | (refine canon_fst ?_ ‹_ = (_, _)›)
    | split

theorem State.smmEnd_canon (s : State) (k : ℕ) (d : Cmd) (n : ℕ) (f : Sys2Proof.Word32) (v : Sys2Proof.Word32) (b : ℕ) (reason : ℕ) (hc : s.Canon) : (State.smmEnd s k d n f v b reason).Canon := by
  unfold State.smmEnd
  try dsimp only
  repeat' first
    | (intro _; try dsimp only)
    | with_reducible assumption
    | with_reducible apply holds_next
    | with_reducible apply canon_foldl
    | with_reducible apply canon_foldl1
    | with_reducible apply canon_ite
    | with_reducible apply canon_ite1
    | with_reducible apply State.engineWrite_canon
    | with_reducible apply State.retireCmd_canon
    | with_reducible apply State.onTile_canon
    | (refine canon_fst ?_ ‹_ = (_, _)›)
    | split

theorem State.smmBatch_canon (s : State) (k : ℕ) (d : Cmd) (hc : s.Canon) : (State.smmBatch s k d).Canon := by
  unfold State.smmBatch
  try dsimp only
  repeat' first
    | (intro _; try dsimp only)
    | with_reducible assumption
    | with_reducible apply holds_next
    | with_reducible apply canon_foldl
    | with_reducible apply canon_foldl1
    | with_reducible apply canon_ite
    | with_reducible apply canon_ite1
    | with_reducible apply State.killCmd_canon
    | with_reducible apply State.onCore_canon
    | with_reducible apply State.onTile_canon
    | with_reducible apply State.tally_canon
    | with_reducible apply State.smmEnd_canon
    | with_reducible apply State.onCmd_canon
    | (refine canon_fst ?_ ‹_ = (_, _)›)
    | split

theorem State.smmStep_canon (s : State) (k : ℕ) (d : Cmd) (hc : s.Canon) : (State.smmStep s k d).Canon := by
  unfold State.smmStep
  try dsimp only
  repeat' first
    | (intro _; try dsimp only)
    | with_reducible assumption
    | with_reducible apply holds_next
    | with_reducible apply canon_foldl
    | with_reducible apply canon_foldl1
    | with_reducible apply canon_ite
    | with_reducible apply canon_ite1
    | with_reducible apply State.smmBatch_canon
    | with_reducible apply State.smmEnd_canon
    | with_reducible apply State.onCore_canon
    | with_reducible apply State.onTile_canon
    | with_reducible apply State.onCmd_canon
    | (refine canon_fst ?_ ‹_ = (_, _)›)
    | split

theorem State.matrixUnit_canon (s : State) (k : ℕ) (d : Cmd) (hc : s.Canon) : (State.matrixUnit s k d).Canon := by
  unfold State.matrixUnit
  try dsimp only
  repeat' first
    | (intro _; try dsimp only)
    | with_reducible assumption
    | with_reducible apply holds_next
    | with_reducible apply canon_foldl
    | with_reducible apply canon_foldl1
    | with_reducible apply canon_ite
    | with_reducible apply canon_ite1
    | with_reducible apply State.retireCmd_canon
    | with_reducible apply State.refuseAt_canon
    | with_reducible apply State.mmaStep_canon
    | with_reducible apply State.mrotStep_canon
    | with_reducible apply State.drainStep_canon
    | with_reducible apply State.accStep_canon
    | with_reducible apply State.normStep_canon
    | with_reducible apply State.aliasStep_canon
    | with_reducible apply State.smmStep_canon
    | (refine canon_fst ?_ ‹_ = (_, _)›)
    | split

theorem State.matrixGrant_canon (s : State) (u : ℕ) (want : ℕ → Cmd → Bool) (hc : s.Canon) : (State.matrixGrant s u want).Canon := by
  unfold State.matrixGrant
  try dsimp only
  repeat' first
    | (intro _; try dsimp only)
    | with_reducible assumption
    | with_reducible apply holds_next
    | with_reducible apply canon_foldl
    | with_reducible apply canon_foldl1
    | with_reducible apply canon_ite
    | with_reducible apply canon_ite1
    | with_reducible apply State.onTile_canon
    | with_reducible apply State.charge_canon
    | with_reducible apply State.matrixUnit_canon
    | (refine canon_fst ?_ ‹_ = (_, _)›)
    | split

theorem execMatrixKstepGrant_canon (t : Sys2Proof.TileId) (s : State) (hc : s.Canon) : Holds State.Canon (execMatrixKstepGrant t s) := by
  unfold execMatrixKstepGrant
  try dsimp only
  repeat' first
    | (intro _; try dsimp only)
    | with_reducible assumption
    | with_reducible apply holds_next
    | with_reducible apply canon_foldl
    | with_reducible apply canon_foldl1
    | with_reducible apply canon_ite
    | with_reducible apply canon_ite1
    | with_reducible apply State.matrixGrant_canon
    | (refine canon_fst ?_ ‹_ = (_, _)›)
    | split

theorem State.runMatrix_canon (k age n : Nat) (s : State) (h : s.Canon) : (State.runMatrix k age n s).Canon := by
  induction n generalizing s with
  | zero => exact h
  | succ n ih =>
    unfold State.runMatrix
    repeat' first
      | with_reducible assumption
      | with_reducible apply ih
      | with_reducible apply canon_ite
      | with_reducible apply State.matrixGrant_canon
      | (intro _; try dsimp only)
      | dsimp only

theorem State.runHead_canon (s : State) (k : ℕ) (op : ℕ) (hc : s.Canon) : (State.runHead s k op).Canon := by
  unfold State.runHead
  try dsimp only
  repeat' first
    | (intro _; try dsimp only)
    | with_reducible assumption
    | with_reducible apply holds_next
    | with_reducible apply canon_foldl
    | with_reducible apply canon_foldl1
    | with_reducible apply canon_ite
    | with_reducible apply canon_ite1
    | with_reducible apply State.runMatrix_canon
    | (refine canon_fst ?_ ‹_ = (_, _)›)
    | split

theorem execMma_canon (c : Sys2Proof.CoreId) (s : State) (hc : s.Canon) : Holds State.Canon (execMma c s) := by
  unfold execMma
  try dsimp only
  repeat' first
    | (intro _; try dsimp only)
    | with_reducible assumption
    | with_reducible apply holds_next
    | with_reducible apply canon_foldl
    | with_reducible apply canon_foldl1
    | with_reducible apply canon_ite
    | with_reducible apply canon_ite1
    | with_reducible apply State.runHead_canon
    | (refine canon_fst ?_ ‹_ = (_, _)›)
    | split

theorem execMrot_canon (c : Sys2Proof.CoreId) (s : State) (hc : s.Canon) : Holds State.Canon (execMrot c s) := by
  unfold execMrot
  try dsimp only
  repeat' first
    | (intro _; try dsimp only)
    | with_reducible assumption
    | with_reducible apply holds_next
    | with_reducible apply canon_foldl
    | with_reducible apply canon_foldl1
    | with_reducible apply canon_ite
    | with_reducible apply canon_ite1
    | with_reducible apply State.runHead_canon
    | (refine canon_fst ?_ ‹_ = (_, _)›)
    | split

theorem execDrain_canon (c : Sys2Proof.CoreId) (s : State) (hc : s.Canon) : Holds State.Canon (execDrain c s) := by
  unfold execDrain
  try dsimp only
  repeat' first
    | (intro _; try dsimp only)
    | with_reducible assumption
    | with_reducible apply holds_next
    | with_reducible apply canon_foldl
    | with_reducible apply canon_foldl1
    | with_reducible apply canon_ite
    | with_reducible apply canon_ite1
    | with_reducible apply State.runHead_canon
    | with_reducible apply State.drainStep_canon
    | (refine canon_fst ?_ ‹_ = (_, _)›)
    | split

theorem State.runAcc_canon (s : State) (k : ℕ) (fn : ℕ) (hc : s.Canon) : (State.runAcc s k fn).Canon := by
  unfold State.runAcc
  try dsimp only
  repeat' first
    | (intro _; try dsimp only)
    | with_reducible assumption
    | with_reducible apply holds_next
    | with_reducible apply canon_foldl
    | with_reducible apply canon_foldl1
    | with_reducible apply canon_ite
    | with_reducible apply canon_ite1
    | with_reducible apply State.runHead_canon
    | (refine canon_fst ?_ ‹_ = (_, _)›)
    | split

theorem execAccZero_canon (c : Sys2Proof.CoreId) (s : State) (hc : s.Canon) : Holds State.Canon (execAccZero c s) := by
  unfold execAccZero
  try dsimp only
  repeat' first
    | (intro _; try dsimp only)
    | with_reducible assumption
    | with_reducible apply holds_next
    | with_reducible apply canon_foldl
    | with_reducible apply canon_foldl1
    | with_reducible apply canon_ite
    | with_reducible apply canon_ite1
    | with_reducible apply State.runAcc_canon
    | (refine canon_fst ?_ ‹_ = (_, _)›)
    | split

theorem execAccLoad_canon (c : Sys2Proof.CoreId) (s : State) (hc : s.Canon) : Holds State.Canon (execAccLoad c s) := by
  unfold execAccLoad
  try dsimp only
  repeat' first
    | (intro _; try dsimp only)
    | with_reducible assumption
    | with_reducible apply holds_next
    | with_reducible apply canon_foldl
    | with_reducible apply canon_foldl1
    | with_reducible apply canon_ite
    | with_reducible apply canon_ite1
    | with_reducible apply State.runAcc_canon
    | (refine canon_fst ?_ ‹_ = (_, _)›)
    | split

theorem execAccAdd_canon (c : Sys2Proof.CoreId) (s : State) (hc : s.Canon) : Holds State.Canon (execAccAdd c s) := by
  unfold execAccAdd
  try dsimp only
  repeat' first
    | (intro _; try dsimp only)
    | with_reducible assumption
    | with_reducible apply holds_next
    | with_reducible apply canon_foldl
    | with_reducible apply canon_foldl1
    | with_reducible apply canon_ite
    | with_reducible apply canon_ite1
    | with_reducible apply State.runAcc_canon
    | (refine canon_fst ?_ ‹_ = (_, _)›)
    | split

theorem execAccMove_canon (c : Sys2Proof.CoreId) (s : State) (hc : s.Canon) : Holds State.Canon (execAccMove c s) := by
  unfold execAccMove
  try dsimp only
  repeat' first
    | (intro _; try dsimp only)
    | with_reducible assumption
    | with_reducible apply holds_next
    | with_reducible apply canon_foldl
    | with_reducible apply canon_foldl1
    | with_reducible apply canon_ite
    | with_reducible apply canon_ite1
    | with_reducible apply State.runAcc_canon
    | (refine canon_fst ?_ ‹_ = (_, _)›)
    | split

theorem execNorm_canon (c : Sys2Proof.CoreId) (s : State) (hc : s.Canon) : Holds State.Canon (execNorm c s) := by
  unfold execNorm
  try dsimp only
  repeat' first
    | (intro _; try dsimp only)
    | with_reducible assumption
    | with_reducible apply holds_next
    | with_reducible apply canon_foldl
    | with_reducible apply canon_foldl1
    | with_reducible apply canon_ite
    | with_reducible apply canon_ite1
    | with_reducible apply State.runHead_canon
    | (refine canon_fst ?_ ‹_ = (_, _)›)
    | split

theorem execAliasBuild_canon (c : Sys2Proof.CoreId) (s : State) (hc : s.Canon) : Holds State.Canon (execAliasBuild c s) := by
  unfold execAliasBuild
  try dsimp only
  repeat' first
    | (intro _; try dsimp only)
    | with_reducible assumption
    | with_reducible apply holds_next
    | with_reducible apply canon_foldl
    | with_reducible apply canon_foldl1
    | with_reducible apply canon_ite
    | with_reducible apply canon_ite1
    | with_reducible apply State.runHead_canon
    | (refine canon_fst ?_ ‹_ = (_, _)›)
    | split

theorem execSmm_canon (c : Sys2Proof.CoreId) (s : State) (hc : s.Canon) : Holds State.Canon (execSmm c s) := by
  unfold execSmm
  try dsimp only
  repeat' first
    | (intro _; try dsimp only)
    | with_reducible assumption
    | with_reducible apply holds_next
    | with_reducible apply canon_foldl
    | with_reducible apply canon_foldl1
    | with_reducible apply canon_ite
    | with_reducible apply canon_ite1
    | with_reducible apply State.runHead_canon
    | (refine canon_fst ?_ ‹_ = (_, _)›)
    | split

/-! ### Compact -/

theorem State.withDesc_canon (s : State) (k : ℕ) (va : Sys2Proof.Word) (body : Desc → ℕ → State → State) (hc : s.Canon) (hb_body : ∀ a0 a1 a2, a2.Canon → (body a0 a1 a2).Canon) : (State.withDesc s k va body).Canon := by
  unfold State.withDesc
  try dsimp only
  repeat' first
    | (intro _; try dsimp only)
    | with_reducible assumption
    | with_reducible apply holds_next
    | with_reducible apply canon_foldl
    | with_reducible apply canon_foldl1
    | with_reducible apply canon_ite
    | with_reducible apply canon_ite1
    | with_reducible apply hb_body
    | with_reducible apply State.trap_canon
    | with_reducible apply State.withBytes_canon
    | (refine canon_fst ?_ ‹_ = (_, _)›)
    | split

theorem State.trapBroken_canon (s : State) (k : ℕ) (va : Sys2Proof.Word) (hc : s.Canon) : (State.trapBroken s k va).Canon := by
  unfold State.trapBroken
  try dsimp only
  repeat' first
    | (intro _; try dsimp only)
    | with_reducible assumption
    | with_reducible apply holds_next
    | with_reducible apply canon_foldl
    | with_reducible apply canon_foldl1
    | with_reducible apply canon_ite
    | with_reducible apply canon_ite1
    | with_reducible apply State.takeTrap_canon
    | with_reducible apply State.onCore_canon
    | with_reducible apply State.await_canon
    | (refine canon_fst ?_ ‹_ = (_, _)›)
    | split

theorem State.claimBar_canon (s : State) (k : ℕ) (c : Compact) (hc : s.Canon) : (State.claimBar s k c).Canon := by
  unfold State.claimBar
  try dsimp only
  repeat' first
    | (intro _; try dsimp only)
    | with_reducible assumption
    | with_reducible apply holds_next
    | with_reducible apply canon_foldl
    | with_reducible apply canon_foldl1
    | with_reducible apply canon_ite
    | with_reducible apply canon_ite1
    | with_reducible apply State.onBar_canon
    | (refine canon_fst ?_ ‹_ = (_, _)›)
    | split

theorem State.arriveCompact_canon (s : State) (k : ℕ) (bid : ℕ) (same : Bool) (hc : s.Canon) : (State.arriveCompact s k bid same).Canon := by
  unfold State.arriveCompact
  try dsimp only
  repeat' first
    | (intro _; try dsimp only)
    | with_reducible assumption
    | with_reducible apply holds_next
    | with_reducible apply canon_foldl
    | with_reducible apply canon_foldl1
    | with_reducible apply canon_ite
    | with_reducible apply canon_ite1
    | with_reducible apply State.arriveAt_canon
    | with_reducible apply State.onCore_canon
    | with_reducible apply State.await_canon
    | with_reducible apply State.breakCompact_canon
    | (refine canon_fst ?_ ‹_ = (_, _)›)
    | split

theorem State.rangeCheck_canon (s : State) (k : Nat) (l : List Nat) (hc : s.Canon) : (s.rangeCheck k l).1.Canon := by
  induction l generalizing s with
  | nil => exact hc
  | cons a as ih =>
    unfold State.rangeCheck
    dsimp only
    split
    · exact ih _ (State.engineAt_canon _ _ _ _ hc)
    · exact State.engineAt_canon _ _ _ _ hc
    · exact State.engineAt_canon _ _ _ _ hc

theorem State.pinSector_canon (s : State) (k : ℕ) (key : ℕ) (off : ℕ) (hc : s.Canon) : (State.pinSector s k key off).Canon := by
  unfold State.pinSector
  try dsimp only
  repeat' first
    | (intro _; try dsimp only)
    | with_reducible assumption
    | with_reducible apply holds_next
    | with_reducible apply canon_foldl
    | with_reducible apply canon_foldl1
    | with_reducible apply canon_ite
    | with_reducible apply canon_ite1
    | with_reducible apply State.recall_canon
    | with_reducible apply State.gather_canon
    | with_reducible apply State.grant_canon
    | with_reducible apply State.stampAt_canon
    | with_reducible apply State.setFulls_canon
    | with_reducible apply State.store_canon
    | with_reducible apply State.setMark_canon
    | with_reducible apply State.onSector_canon
    | (refine canon_fst ?_ ‹_ = (_, _)›)
    | split

theorem State.signTile_canon (s : State) (k : ℕ) (c : Compact) (hc : s.Canon) : (State.signTile s k c).Canon := by
  unfold State.signTile
  try dsimp only
  repeat' first
    | (intro _; try dsimp only)
    | with_reducible assumption
    | with_reducible apply holds_next
    | with_reducible apply canon_foldl
    | with_reducible apply canon_foldl1
    | with_reducible apply canon_ite
    | with_reducible apply canon_ite1
    | with_reducible apply State.flushCache_canon
    | with_reducible apply State.zeroRange_canon
    | with_reducible apply State.pinSector_canon
    | with_reducible apply State.onTile_canon
    | with_reducible apply State.arriveCompact_canon
    | with_reducible apply State.onCore_canon
    | (refine canon_fst ?_ ‹_ = (_, _)›)
    | split

theorem State.signOn_canon (s : State) (k : ℕ) (c : Compact) (hc : s.Canon) : (State.signOn s k c).Canon := by
  unfold State.signOn
  try dsimp only
  repeat' first
    | (intro _; try dsimp only)
    | with_reducible assumption
    | with_reducible apply holds_next
    | with_reducible apply canon_foldl
    | with_reducible apply canon_foldl1
    | with_reducible apply canon_ite
    | with_reducible apply canon_ite1
    | with_reducible apply State.await_canon
    | with_reducible apply State.signTile_canon
    | (refine canon_fst ?_ ‹_ = (_, _)›)
    | split

theorem State.signChecked_canon (s : State) (k : ℕ) (va : Sys2Proof.Word) (d : Desc) (e : ℕ) (hc : s.Canon) : (State.signChecked s k va d e).Canon := by
  unfold State.signChecked
  try dsimp only
  repeat' first
    | (intro _; try dsimp only)
    | with_reducible assumption
    | with_reducible apply holds_next
    | with_reducible apply canon_foldl
    | with_reducible apply canon_foldl1
    | with_reducible apply canon_ite
    | with_reducible apply canon_ite1
    | with_reducible apply State.trap_canon
    | with_reducible apply State.rangeCheck_canon
    | with_reducible apply State.readFailed_canon
    | with_reducible apply State.signOn_canon
    | with_reducible apply State.onTile_canon
    | with_reducible apply State.claimBar_canon
    | (refine canon_fst ?_ ‹_ = (_, _)›)
    | split

theorem execSign_canon (g : Sys2Proof.Guard) (ra : Sys2Proof.XReg) (s : State) (hc : s.Canon) : Holds State.Canon (execSign g ra s) := by
  unfold execSign
  try dsimp only
  repeat' first
    | (intro _; try dsimp only)
    | with_reducible assumption
    | with_reducible apply holds_next
    | with_reducible apply canon_foldl
    | with_reducible apply canon_foldl1
    | with_reducible apply canon_ite
    | with_reducible apply canon_ite1
    | with_reducible apply State.issue_canon
    | with_reducible apply State.trapBroken_canon
    | with_reducible apply State.finish_canon
    | with_reducible apply State.await_canon
    | with_reducible apply State.acquireBar_canon
    | with_reducible apply State.onTile_canon
    | with_reducible apply State.signOn_canon
    | with_reducible apply State.withDesc_canon
    | with_reducible apply State.trap_canon
    | with_reducible apply State.signChecked_canon
    | (refine canon_fst ?_ ‹_ = (_, _)›)
    | split

theorem State.withCompact_canon (s : State) (k : ℕ) (va : Sys2Proof.Word) (body : Compact → Desc → ℕ → State → State) (hc : s.Canon) (hb_body : ∀ a0 a1 a2 a3, a3.Canon → (body a0 a1 a2 a3).Canon) : (State.withCompact s k va body).Canon := by
  unfold State.withCompact
  try dsimp only
  repeat' first
    | (intro _; try dsimp only)
    | with_reducible assumption
    | with_reducible apply holds_next
    | with_reducible apply canon_foldl
    | with_reducible apply canon_foldl1
    | with_reducible apply canon_ite
    | with_reducible apply canon_ite1
    | with_reducible apply hb_body
    | with_reducible apply State.withDesc_canon
    | with_reducible apply State.trapBroken_canon
    | with_reducible apply State.trap_canon
    | (refine canon_fst ?_ ‹_ = (_, _)›)
    | split

theorem State.readProgram_canon (s : State) (k nm va n : Nat) (hc : s.Canon) : (s.readProgram k nm va n).1.Canon := by
  induction n generalizing s va with
  | zero => exact hc
  | succ n ih =>
    have hr := State.readMem_canon s k va 8 hc
    unfold State.readProgram
    dsimp only
    split
    · exact hr
    · exact canon_ite1 hr (canon_ite1 hr (ih _ _ hr))

theorem State.pushPlan_canon (s : State) (k : Nat) (l : List (Word × Nat)) (hc : s.Canon) : (s.pushPlan k l).Canon := by
  induction l generalizing s with
  | nil => exact State.finish_canon _ _ hc
  | cons w ws ih => exact canon_ite (State.onCore_canon _ _ _ (State.await_canon _ _ hc)) (ih _ (State.accept_canon _ _ _ _ _ _ _ hc))

theorem execXfer_canon (g : Sys2Proof.Guard) (ra : Sys2Proof.XReg) (s : State) (hc : s.Canon) : Holds State.Canon (execXfer g ra s) := by
  unfold execXfer
  try dsimp only
  repeat' first
    | (intro _; try dsimp only)
    | with_reducible assumption
    | with_reducible apply holds_next
    | with_reducible apply canon_foldl
    | with_reducible apply canon_foldl1
    | with_reducible apply canon_ite
    | with_reducible apply canon_ite1
    | with_reducible apply State.issue_canon
    | with_reducible apply State.trapBroken_canon
    | with_reducible apply State.pushPlan_canon
    | with_reducible apply State.withCompact_canon
    | with_reducible apply State.readProgram_canon
    | with_reducible apply State.readFailed_canon
    | with_reducible apply State.trap_canon
    | with_reducible apply State.shutWindow_canon
    | (refine canon_fst ?_ ‹_ = (_, _)›)
    | split

theorem execSstep_canon (g : Sys2Proof.Guard) (ra : Sys2Proof.XReg) (s : State) (hc : s.Canon) : Holds State.Canon (execSstep g ra s) := by
  unfold execSstep
  try dsimp only
  repeat' first
    | (intro _; try dsimp only)
    | with_reducible assumption
    | with_reducible apply holds_next
    | with_reducible apply canon_foldl
    | with_reducible apply canon_foldl1
    | with_reducible apply canon_ite
    | with_reducible apply canon_ite1
    | with_reducible apply State.issue_canon
    | with_reducible apply State.trapBroken_canon
    | with_reducible apply State.finish_canon
    | with_reducible apply State.await_canon
    | with_reducible apply State.acquireBar_canon
    | with_reducible apply State.serveHeld_canon
    | with_reducible apply State.onTile_canon
    | with_reducible apply State.withCompact_canon
    | with_reducible apply State.arriveCompact_canon
    | (refine canon_fst ?_ ‹_ = (_, _)›)
    | split

theorem State.dissolveAll_canon (s : State) (c : Compact) (hc : s.Canon) : (State.dissolveAll s c).Canon := by
  unfold State.dissolveAll
  try dsimp only
  repeat' first
    | (intro _; try dsimp only)
    | with_reducible assumption
    | with_reducible apply holds_next
    | with_reducible apply canon_foldl
    | with_reducible apply canon_foldl1
    | with_reducible apply canon_ite
    | with_reducible apply canon_ite1
    | with_reducible apply State.freeBar_canon
    | with_reducible apply State.releaseAll_canon
    | (refine canon_fst ?_ ‹_ = (_, _)›)
    | split

theorem execDissolve_canon (g : Sys2Proof.Guard) (ra : Sys2Proof.XReg) (s : State) (hc : s.Canon) : Holds State.Canon (execDissolve g ra s) := by
  unfold execDissolve
  try dsimp only
  repeat' first
    | (intro _; try dsimp only)
    | with_reducible assumption
    | with_reducible apply holds_next
    | with_reducible apply canon_foldl
    | with_reducible apply canon_foldl1
    | with_reducible apply canon_ite
    | with_reducible apply canon_ite1
    | with_reducible apply State.issue_canon
    | with_reducible apply State.trapBroken_canon
    | with_reducible apply State.finish_canon
    | with_reducible apply State.await_canon
    | with_reducible apply State.dissolveAll_canon
    | with_reducible apply State.withCompact_canon
    | with_reducible apply State.arriveCompact_canon
    | (refine canon_fst ?_ ‹_ = (_, _)›)
    | split

theorem execCompactTimeout_canon (d : Sys2Proof.DieId) (bid : BitVec 6) (s : State) (hc : s.Canon) : Holds State.Canon (execCompactTimeout d bid s) := by
  unfold execCompactTimeout
  try dsimp only
  repeat' first
    | (intro _; try dsimp only)
    | with_reducible assumption
    | with_reducible apply holds_next
    | with_reducible apply canon_foldl
    | with_reducible apply canon_foldl1
    | with_reducible apply canon_ite
    | with_reducible apply canon_ite1
    | with_reducible apply State.breakCompact_canon
    | (refine canon_fst ?_ ‹_ = (_, _)›)
    | split

end Machine
end Sys2Proof
end

