-- ==== Sys2Proof/Laws/CanonPackage.lean ====
section
/-! SUPPORT. Every function over launching, threads, collectives, faults, the host, and the step around exec keeps the canonical form of State.
Each lemma is named after its function; the instruction meanings answer a state that keeps it. -/

namespace Sys2Proof
namespace Machine
set_option linter.all false

/-! ### Image -/

theorem State.putCells_canon (s : State) (dst n : Nat) (cells : List Host.Cell) (h : s.Canon) : (s.putCells dst n cells).Canon :=
  canon_mem h (Memory.wf_foldl _ (fun _ _ hm => Memory.wf_memPut _ _ hm)
    (Memory.wf_foldl _ (fun _ _ hm => Memory.wf_memPut _ _ hm) (Memory.wf_filter _ h.mem)))

theorem State.putBits_canon (s : State) (a : ℕ) (n : ℕ) (is : List ℕ) (hc : s.Canon) : (State.putBits s a n is).Canon := by
  unfold State.putBits
  try dsimp only
  repeat' first
    | (intro _; try dsimp only)
    | with_reducible assumption
    | with_reducible apply holds_next
    | with_reducible apply canon_foldl
    | with_reducible apply canon_foldl1
    | with_reducible apply canon_ite
    | with_reducible apply canon_ite1
    | with_reducible apply State.write_canon
    | with_reducible apply canon_memFilter
    | (refine canon_fst ?_ ‹_ = (_, _)›)
    | split

theorem State.swapOut_canon (s : State) (t : ℕ) (j : Job) (hc : s.Canon) : (State.swapOut s t j).Canon := by
  unfold State.swapOut
  try dsimp only
  repeat' first
    | (intro _; try dsimp only)
    | with_reducible assumption
    | with_reducible apply holds_next
    | with_reducible apply canon_foldl
    | with_reducible apply canon_foldl1
    | with_reducible apply canon_ite
    | with_reducible apply canon_ite1
    | with_reducible apply State.flushCache_canon
    | with_reducible apply State.putCells_canon
    | with_reducible apply State.putBits_canon
    | with_reducible apply State.write_canon
    | with_reducible apply State.onTile_canon
    | with_reducible apply State.zeroRange_canon
    | (refine canon_fst ?_ ‹_ = (_, _)›)
    | split

theorem State.swapIn_canon (s : State) (t : ℕ) (j : Job) (hc : s.Canon) : (State.swapIn s t j).Canon := by
  unfold State.swapIn
  try dsimp only
  repeat' first
    | (intro _; try dsimp only)
    | with_reducible assumption
    | with_reducible apply holds_next
    | with_reducible apply canon_foldl
    | with_reducible apply canon_foldl1
    | with_reducible apply canon_ite
    | with_reducible apply canon_ite1
    | with_reducible apply State.flushCache_canon
    | with_reducible apply State.putCells_canon
    | with_reducible apply State.zeroRange_canon
    | with_reducible apply State.onTile_canon
    | with_reducible apply canon_fullPut
    | with_reducible apply canon_marksPut
    | (refine canon_fst ?_ ‹_ = (_, _)›)
    | split

theorem State.keepStore_canon (s : State) (t : ℕ) (j : Job) (hc : s.Canon) : (State.keepStore s t j).Canon := by
  unfold State.keepStore
  try dsimp only
  repeat' first
    | (intro _; try dsimp only)
    | with_reducible assumption
    | with_reducible apply holds_next
    | with_reducible apply canon_foldl
    | with_reducible apply canon_foldl1
    | with_reducible apply canon_ite
    | with_reducible apply canon_ite1
    | with_reducible apply State.onTile_canon
    | with_reducible apply State.zeroRange_canon
    | with_reducible apply State.flushCache_canon
    | with_reducible apply canon_fullPut
    | with_reducible apply canon_marksPut
    | (refine canon_fst ?_ ‹_ = (_, _)›)
    | split

theorem State.takeStore_canon (s : State) (t : ℕ) (j : Job) (hc : s.Canon) : (State.takeStore s t j).Canon := by
  unfold State.takeStore
  try dsimp only
  repeat' first
    | (intro _; try dsimp only)
    | with_reducible assumption
    | with_reducible apply holds_next
    | with_reducible apply canon_foldl
    | with_reducible apply canon_foldl1
    | with_reducible apply canon_ite
    | with_reducible apply canon_ite1
    | with_reducible apply State.putCells_canon
    | with_reducible apply State.zeroRange_canon
    | with_reducible apply State.flushCache_canon
    | with_reducible apply State.onTile_canon
    | with_reducible apply canon_fullPut
    | with_reducible apply canon_marksPut
    | (refine canon_fst ?_ ‹_ = (_, _)›)
    | split

theorem State.bringIn_canon (s : State) (t : ℕ) (j : Job) (hc : s.Canon) : (State.bringIn s t j).Canon := by
  unfold State.bringIn
  try dsimp only
  repeat' first
    | (intro _; try dsimp only)
    | with_reducible assumption
    | with_reducible apply holds_next
    | with_reducible apply canon_foldl
    | with_reducible apply canon_foldl1
    | with_reducible apply canon_ite
    | with_reducible apply canon_ite1
    | with_reducible apply State.swapOut_canon
    | with_reducible apply State.keepStore_canon
    | with_reducible apply State.swapIn_canon
    | with_reducible apply State.takeStore_canon
    | (refine canon_fst ?_ ‹_ = (_, _)›)
    | split

/-! ### Launch -/

theorem State.publish_canon (s : State) (key : ℕ) (clk : ℕ) (hc : s.Canon) : (State.publish s key clk).Canon := by
  unfold State.publish
  try dsimp only
  repeat' first
    | (intro _; try dsimp only)
    | with_reducible assumption
    | with_reducible apply holds_next
    | with_reducible apply canon_foldl
    | with_reducible apply canon_foldl1
    | with_reducible apply canon_ite
    | with_reducible apply canon_ite1
    | with_reducible apply State.stampAt_canon
    | with_reducible apply State.onSector_canon
    | (refine canon_fst ?_ ‹_ = (_, _)›)
    | split

theorem State.addDone_canon (s : State) (key : ℕ) (n : ℕ) (clk : ℕ) (hc : s.Canon) : (State.addDone s key n clk).Canon := by
  unfold State.addDone
  try dsimp only
  repeat' first
    | (intro _; try dsimp only)
    | with_reducible assumption
    | with_reducible apply holds_next
    | with_reducible apply canon_foldl
    | with_reducible apply canon_foldl1
    | with_reducible apply canon_ite
    | with_reducible apply canon_ite1
    | with_reducible apply State.engineRead_canon
    | with_reducible apply State.publish_canon
    | with_reducible apply State.engineWrite_canon
    | (refine canon_fst ?_ ‹_ = (_, _)›)
    | split

theorem State.refuseRecord_canon (s : State) (pkg : ℕ) (part : ℕ) (j : Job) (r : BitVec 512) (lcn : ℕ) (aux : ℕ) (hc : s.Canon) : (State.refuseRecord s pkg part j r lcn aux).Canon := by
  unfold State.refuseRecord
  try dsimp only
  repeat' first
    | (intro _; try dsimp only)
    | with_reducible assumption
    | with_reducible apply holds_next
    | with_reducible apply canon_foldl
    | with_reducible apply canon_foldl1
    | with_reducible apply canon_ite
    | with_reducible apply canon_ite1
    | with_reducible apply State.addDone_canon
    | with_reducible apply State.record_canon
    | (refine canon_fst ?_ ‹_ = (_, _)›)
    | split

theorem State.putRecord_canon (s : State) (pkg : ℕ) (part : ℕ) (q : ℕ) (r : BitVec 512) (hc : s.Canon) : (State.putRecord s pkg part q r).Canon := by
  unfold State.putRecord
  try dsimp only
  repeat' first
    | (intro _; try dsimp only)
    | with_reducible assumption
    | with_reducible apply holds_next
    | with_reducible apply canon_foldl
    | with_reducible apply canon_foldl1
    | with_reducible apply canon_ite
    | with_reducible apply canon_ite1
    | with_reducible apply State.engineWrite_canon
    | (refine canon_fst ?_ ‹_ = (_, _)›)
    | split

theorem State.appendRecord_canon (s : State) (pkg : ℕ) (part : ℕ) (q : ℕ) (j : Job) (clk : ℕ) (r : BitVec 512) (hc : s.Canon) : (State.appendRecord s pkg part q j clk r).Canon := by
  unfold State.appendRecord
  try dsimp only
  repeat' first
    | (intro _; try dsimp only)
    | with_reducible assumption
    | with_reducible apply holds_next
    | with_reducible apply canon_foldl
    | with_reducible apply canon_foldl1
    | with_reducible apply canon_ite
    | with_reducible apply canon_ite1
    | with_reducible apply State.onPkg_canon
    | with_reducible apply State.putRecord_canon
    | (refine canon_fst ?_ ‹_ = (_, _)›)
    | split

theorem State.spawnStep_canon (s : State) (k : ℕ) (q : ℕ) (r : BitVec 512) (hc : s.Canon) : (State.spawnStep s k q r).Canon := by
  unfold State.spawnStep
  try dsimp only
  repeat' first
    | (intro _; try dsimp only)
    | with_reducible assumption
    | with_reducible apply holds_next
    | with_reducible apply canon_foldl
    | with_reducible apply canon_foldl1
    | with_reducible apply canon_ite
    | with_reducible apply canon_ite1
    | with_reducible apply State.onCore_canon
    | with_reducible apply State.await_canon
    | with_reducible apply State.finish_canon
    | with_reducible apply State.appendRecord_canon
    | (refine canon_fst ?_ ‹_ = (_, _)›)
    | split

theorem execSpawn_canon (g : Sys2Proof.Guard) (lq : BitVec 4) (ra : Sys2Proof.XReg) (s : State) (hc : s.Canon) : Holds State.Canon (execSpawn g lq ra s) := by
  unfold execSpawn
  try dsimp only
  repeat' first
    | (intro _; try dsimp only)
    | with_reducible assumption
    | with_reducible apply holds_next
    | with_reducible apply canon_foldl
    | with_reducible apply canon_foldl1
    | with_reducible apply canon_ite
    | with_reducible apply canon_ite1
    | with_reducible apply State.issue_canon
    | with_reducible apply State.spawnStep_canon
    | with_reducible apply State.trap_canon
    | with_reducible apply State.withBytes_canon
    | (refine canon_fst ?_ ‹_ = (_, _)›)
    | split

theorem execJoin_canon (g : Sys2Proof.Guard) (ra : Sys2Proof.XReg) (rb : Sys2Proof.XReg) (s : State) (hc : s.Canon) : Holds State.Canon (execJoin g ra rb s) := by
  unfold execJoin
  try dsimp only
  repeat' first
    | (intro _; try dsimp only)
    | with_reducible assumption
    | with_reducible apply holds_next
    | with_reducible apply canon_foldl
    | with_reducible apply canon_foldl1
    | with_reducible apply canon_ite
    | with_reducible apply canon_ite1
    | with_reducible apply State.issue_canon
    | with_reducible apply State.withKey_canon
    | with_reducible apply State.withBytes_canon
    | with_reducible apply State.finish_canon
    | with_reducible apply State.await_canon
    | (refine canon_fst ?_ ‹_ = (_, _)›)
    | split

theorem State.launchAppend_canon (s : State) (k : ℕ) (d : Cmd) (r : BitVec 512) (hc : s.Canon) : (State.launchAppend s k d r).Canon := by
  unfold State.launchAppend
  try dsimp only
  repeat' first
    | (intro _; try dsimp only)
    | with_reducible assumption
    | with_reducible apply holds_next
    | with_reducible apply canon_foldl
    | with_reducible apply canon_foldl1
    | with_reducible apply canon_ite
    | with_reducible apply canon_ite1
    | with_reducible apply State.retireCmd_canon
    | with_reducible apply State.appendRecord_canon
    | (refine canon_fst ?_ ‹_ = (_, _)›)
    | split

theorem State.launchStep_canon (s : State) (k : ℕ) (d : Cmd) (hc : s.Canon) : (State.launchStep s k d).Canon := by
  unfold State.launchStep
  try dsimp only
  repeat' first
    | (intro _; try dsimp only)
    | with_reducible assumption
    | with_reducible apply holds_next
    | with_reducible apply canon_foldl
    | with_reducible apply canon_foldl1
    | with_reducible apply canon_ite
    | with_reducible apply canon_ite1
    | with_reducible apply State.launchAppend_canon
    | with_reducible apply State.grab_canon
    | with_reducible apply State.retireCmd_canon
    | with_reducible apply State.cmdFailed_canon
    | with_reducible apply State.killCmd_canon
    | with_reducible apply State.refuseRecord_canon
    | with_reducible apply State.onCmd_canon
    | (refine canon_fst ?_ ‹_ = (_, _)›)
    | split

theorem execLaunch_canon (c : Sys2Proof.CoreId) (s : State) (hc : s.Canon) : Holds State.Canon (execLaunch c s) := by
  unfold execLaunch
  try dsimp only
  repeat' first
    | (intro _; try dsimp only)
    | with_reducible assumption
    | with_reducible apply holds_next
    | with_reducible apply canon_foldl
    | with_reducible apply canon_foldl1
    | with_reducible apply canon_ite
    | with_reducible apply canon_ite1
    | with_reducible apply State.launchStep_canon
    | (refine canon_fst ?_ ‹_ = (_, _)›)
    | split

theorem State.popFed_canon (s : State) (pkg : ℕ) (part : ℕ) (q : ℕ) (hc : s.Canon) : (State.popFed s pkg part q).Canon := by
  unfold State.popFed
  try dsimp only
  repeat' first
    | (intro _; try dsimp only)
    | with_reducible assumption
    | with_reducible apply holds_next
    | with_reducible apply canon_foldl
    | with_reducible apply canon_foldl1
    | with_reducible apply canon_ite
    | with_reducible apply canon_ite1
    | with_reducible apply State.onPkg_canon
    | (refine canon_fst ?_ ‹_ = (_, _)›)
    | split

theorem State.seeTails_canon (s : State) (pkg : ℕ) (part : ℕ) (hc : s.Canon) : (State.seeTails s pkg part).Canon := by
  unfold State.seeTails
  try dsimp only
  repeat' first
    | (intro _; try dsimp only)
    | with_reducible assumption
    | with_reducible apply holds_next
    | with_reducible apply canon_foldl
    | with_reducible apply canon_foldl1
    | with_reducible apply canon_ite
    | with_reducible apply canon_ite1
    | with_reducible apply State.onPkg_canon
    | (refine canon_fst ?_ ‹_ = (_, _)›)
    | split

theorem execLaunchRecordTake_canon (q : Sys2Proof.QueueId) (s : State) (hc : s.Canon) : Holds State.Canon (execLaunchRecordTake q s) := by
  unfold execLaunchRecordTake
  try dsimp only
  repeat' first
    | (intro _; try dsimp only)
    | with_reducible assumption
    | with_reducible apply holds_next
    | with_reducible apply canon_foldl
    | with_reducible apply canon_foldl1
    | with_reducible apply canon_ite
    | with_reducible apply canon_ite1
    | with_reducible apply State.seeTails_canon
    | with_reducible apply State.engineRead_canon
    | with_reducible apply State.engineWrite_canon
    | with_reducible apply State.onPkg_canon
    | with_reducible apply State.popFed_canon
    | with_reducible apply State.refuseRecord_canon
    | (refine canon_fst ?_ ‹_ = (_, _)›)
    | split

theorem State.useKernel_canon (s : State) (pkg : ℕ) (j : Job) (entry : Sys2Proof.Word) (hc : s.Canon) : (State.useKernel s pkg j entry).Canon := by
  unfold State.useKernel
  try dsimp only
  repeat' first
    | (intro _; try dsimp only)
    | with_reducible assumption
    | with_reducible apply holds_next
    | with_reducible apply canon_foldl
    | with_reducible apply canon_foldl1
    | with_reducible apply canon_ite
    | with_reducible apply canon_ite1
    | with_reducible apply State.onPkg_canon
    | with_reducible apply canon_fullPut
    | (refine canon_fst ?_ ‹_ = (_, _)›)
    | split

theorem State.openWindow_canon (s : State) (t : ℕ) (j : Job) (hc : s.Canon) : (State.openWindow s t j).Canon := by
  unfold State.openWindow
  try dsimp only
  repeat' first
    | (intro _; try dsimp only)
    | with_reducible assumption
    | with_reducible apply holds_next
    | with_reducible apply canon_foldl
    | with_reducible apply canon_foldl1
    | with_reducible apply canon_ite
    | with_reducible apply canon_ite1
    | with_reducible apply State.onTile_canon
    | (refine canon_fst ?_ ‹_ = (_, _)›)
    | split

theorem State.takeTile_canon (s : State) (pkg : ℕ) (j : Job) (t : ℕ) (hc : s.Canon) : (State.takeTile s pkg j t).Canon := by
  unfold State.takeTile
  try dsimp only
  repeat' first
    | (intro _; try dsimp only)
    | with_reducible assumption
    | with_reducible apply holds_next
    | with_reducible apply canon_foldl
    | with_reducible apply canon_foldl1
    | with_reducible apply canon_ite
    | with_reducible apply canon_ite1
    | with_reducible apply State.bringIn_canon
    | with_reducible apply State.onTile_canon
    | with_reducible apply State.applySplit_canon
    | with_reducible apply State.emptyRo_canon
    | with_reducible apply State.openWindow_canon
    | (refine canon_fst ?_ ‹_ = (_, _)›)
    | split

theorem State.startThread_canon (s : State) (k : ℕ) (c : Core) (hc : s.Canon) : (State.startThread s k c).Canon := by
  unfold State.startThread
  try dsimp only
  repeat' first
    | (intro _; try dsimp only)
    | with_reducible assumption
    | with_reducible apply holds_next
    | with_reducible apply canon_foldl
    | with_reducible apply canon_foldl1
    | with_reducible apply canon_ite
    | with_reducible apply canon_ite1
    | with_reducible apply State.tagClear_canon
    | with_reducible apply State.initHome_canon
    | with_reducible apply State.setCore_canon
    | (refine canon_fst ?_ ‹_ = (_, _)›)
    | split

theorem State.teamBarrier_canon (s : State) (b : ℕ) (base : ℕ) (size : ℕ) (hc : s.Canon) : (State.teamBarrier s b base size).Canon := by
  unfold State.teamBarrier
  try dsimp only
  repeat' first
    | (intro _; try dsimp only)
    | with_reducible assumption
    | with_reducible apply holds_next
    | with_reducible apply canon_foldl
    | with_reducible apply canon_foldl1
    | with_reducible apply canon_ite
    | with_reducible apply canon_ite1
    | with_reducible apply State.onBar_canon
    | (refine canon_fst ?_ ‹_ = (_, _)›)
    | split

theorem State.placeTeam_canon (s : State) (pkg : ℕ) (j : Job) (r : BitVec 512) (base : ℕ) (bar : Option ℕ) (clk : ℕ) (hc : s.Canon) : (State.placeTeam s pkg j r base bar clk).Canon := by
  unfold State.placeTeam
  try dsimp only
  repeat' first
    | (intro _; try dsimp only)
    | with_reducible assumption
    | with_reducible apply holds_next
    | with_reducible apply canon_foldl
    | with_reducible apply canon_foldl1
    | with_reducible apply canon_ite
    | with_reducible apply canon_ite1
    | with_reducible apply State.takeTile_canon
    | with_reducible apply State.raiseClk_canon
    | with_reducible apply State.startThread_canon
    | with_reducible apply State.teamBarrier_canon
    | with_reducible apply State.onPkg_canon
    | with_reducible apply State.useKernel_canon
    | (refine canon_fst ?_ ‹_ = (_, _)›)
    | split

theorem execTeamPlacement_canon (q : Sys2Proof.QueueId) (base : BitVec 12) (s : State) (hc : s.Canon) : Holds State.Canon (execTeamPlacement q base s) := by
  unfold execTeamPlacement
  try dsimp only
  repeat' first
    | (intro _; try dsimp only)
    | with_reducible assumption
    | with_reducible apply holds_next
    | with_reducible apply canon_foldl
    | with_reducible apply canon_foldl1
    | with_reducible apply canon_ite
    | with_reducible apply canon_ite1
    | with_reducible apply State.popFed_canon
    | with_reducible apply State.onPkg_canon
    | with_reducible apply State.placeTeam_canon
    | (refine canon_fst ?_ ‹_ = (_, _)›)
    | split

/-! ### Threads -/

theorem State.setSlot_canon (s : State) (k : ℕ) (go : Bool) (run : Bool) (hc : s.Canon) : (State.setSlot s k go run).Canon := by
  unfold State.setSlot
  try dsimp only
  repeat' first
    | (intro _; try dsimp only)
    | with_reducible assumption
    | with_reducible apply holds_next
    | with_reducible apply canon_foldl
    | with_reducible apply canon_foldl1
    | with_reducible apply canon_ite
    | with_reducible apply canon_ite1
    | with_reducible apply State.engineRead_canon
    | with_reducible apply State.engineWrite_canon
    | (refine canon_fst ?_ ‹_ = (_, _)›)
    | split

theorem State.failTeam_canon (s : State) (k : ℕ) (hc : s.Canon) : (State.failTeam s k).Canon := by
  unfold State.failTeam
  try dsimp only
  repeat' first
    | (intro _; try dsimp only)
    | with_reducible assumption
    | with_reducible apply holds_next
    | with_reducible apply canon_foldl
    | with_reducible apply canon_foldl1
    | with_reducible apply canon_ite
    | with_reducible apply canon_ite1
    | with_reducible apply State.onPkg_canon
    | (refine canon_fst ?_ ‹_ = (_, _)›)
    | split

theorem State.endThread_canon (s : State) (k : ℕ) (hc : s.Canon) : (State.endThread s k).Canon := by
  unfold State.endThread
  try dsimp only
  repeat' first
    | (intro _; try dsimp only)
    | with_reducible assumption
    | with_reducible apply holds_next
    | with_reducible apply canon_foldl
    | with_reducible apply canon_foldl1
    | with_reducible apply canon_ite
    | with_reducible apply canon_ite1
    | with_reducible apply State.signerLeaves_canon
    | with_reducible apply State.leaveGang_canon
    | with_reducible apply State.flushRc_canon
    | with_reducible apply State.mailClear_canon
    | with_reducible apply State.onCore_canon
    | with_reducible apply State.leaveBarriers_canon
    | with_reducible apply State.onTile_canon
    | with_reducible apply State.setSlot_canon
    | (refine canon_fst ?_ ‹_ = (_, _)›)
    | split

theorem execExit_canon (g : Sys2Proof.Guard) (s : State) (hc : s.Canon) : Holds State.Canon (execExit g s) := by
  unfold execExit
  try dsimp only
  repeat' first
    | (intro _; try dsimp only)
    | with_reducible assumption
    | with_reducible apply holds_next
    | with_reducible apply canon_foldl
    | with_reducible apply canon_foldl1
    | with_reducible apply canon_ite
    | with_reducible apply canon_ite1
    | with_reducible apply State.issue_canon
    | with_reducible apply State.trapFault_canon
    | with_reducible apply State.trapLost_canon
    | with_reducible apply State.await_canon
    | with_reducible apply State.endThread_canon
    | (refine canon_fst ?_ ‹_ = (_, _)›)
    | split

theorem State.shutTile_canon (s : State) (t : ℕ) (j : Job) (hc : s.Canon) : (State.shutTile s t j).Canon := by
  unfold State.shutTile
  try dsimp only
  repeat' first
    | (intro _; try dsimp only)
    | with_reducible assumption
    | with_reducible apply holds_next
    | with_reducible apply canon_foldl
    | with_reducible apply canon_foldl1
    | with_reducible apply canon_ite
    | with_reducible apply canon_ite1
    | with_reducible apply State.onTile_canon
    | (refine canon_fst ?_ ‹_ = (_, _)›)
    | split

theorem State.countTeam_canon (s : State) (pkg : ℕ) (tm : Team) (cs : List ℕ) (hc : s.Canon) : (State.countTeam s pkg tm cs).Canon := by
  unfold State.countTeam
  try dsimp only
  repeat' first
    | (intro _; try dsimp only)
    | with_reducible assumption
    | with_reducible apply holds_next
    | with_reducible apply canon_foldl
    | with_reducible apply canon_foldl1
    | with_reducible apply canon_ite
    | with_reducible apply canon_ite1
    | with_reducible apply State.addDone_canon
    | (refine canon_fst ?_ ‹_ = (_, _)›)
    | split

theorem State.freeTeamBar_canon (s : State) (b : ℕ) (base : ℕ) (size : ℕ) (hc : s.Canon) : (State.freeTeamBar s b base size).Canon := by
  unfold State.freeTeamBar
  try dsimp only
  repeat' first
    | (intro _; try dsimp only)
    | with_reducible assumption
    | with_reducible apply holds_next
    | with_reducible apply canon_foldl
    | with_reducible apply canon_foldl1
    | with_reducible apply canon_ite
    | with_reducible apply canon_ite1
    | with_reducible apply State.onBar_canon
    | (refine canon_fst ?_ ‹_ = (_, _)›)
    | split

theorem State.breakIfTeam_canon (s : State) (t : ℕ) (base : ℕ) (hc : s.Canon) : (State.breakIfTeam s t base).Canon := by
  unfold State.breakIfTeam
  try dsimp only
  repeat' first
    | (intro _; try dsimp only)
    | with_reducible assumption
    | with_reducible apply holds_next
    | with_reducible apply canon_foldl
    | with_reducible apply canon_foldl1
    | with_reducible apply canon_ite
    | with_reducible apply canon_ite1
    | with_reducible apply State.breakWhole_canon
    | (refine canon_fst ?_ ‹_ = (_, _)›)
    | split

theorem State.endTeam_canon (s : State) (k : ℕ) (tm : Team) (hc : s.Canon) : (State.endTeam s k tm).Canon := by
  unfold State.endTeam
  try dsimp only
  repeat' first
    | (intro _; try dsimp only)
    | with_reducible assumption
    | with_reducible apply holds_next
    | with_reducible apply canon_foldl
    | with_reducible apply canon_foldl1
    | with_reducible apply canon_ite
    | with_reducible apply canon_ite1
    | with_reducible apply State.breakIfTeam_canon
    | with_reducible apply State.shutTile_canon
    | with_reducible apply State.leaveBarriers_canon
    | with_reducible apply State.countTeam_canon
    | with_reducible apply State.freeTeamBar_canon
    | with_reducible apply State.onPkg_canon
    | (refine canon_fst ?_ ‹_ = (_, _)›)
    | split

theorem execTeamEnd_canon (c : Sys2Proof.CoreId) (s : State) (hc : s.Canon) : Holds State.Canon (execTeamEnd c s) := by
  unfold execTeamEnd
  try dsimp only
  repeat' first
    | (intro _; try dsimp only)
    | with_reducible assumption
    | with_reducible apply holds_next
    | with_reducible apply canon_foldl
    | with_reducible apply canon_foldl1
    | with_reducible apply canon_ite
    | with_reducible apply canon_ite1
    | with_reducible apply State.onPkg_canon
    | with_reducible apply State.countTeam_canon
    | with_reducible apply State.endTeam_canon
    | (refine canon_fst ?_ ‹_ = (_, _)›)
    | split

theorem execSupervisorMark_canon (c : Sys2Proof.CoreId) (withdraw : Bool) (s : State) (hc : s.Canon) : Holds State.Canon (execSupervisorMark c withdraw s) := by
  unfold execSupervisorMark
  try dsimp only
  repeat' first
    | (intro _; try dsimp only)
    | with_reducible assumption
    | with_reducible apply holds_next
    | with_reducible apply canon_foldl
    | with_reducible apply canon_foldl1
    | with_reducible apply canon_ite
    | with_reducible apply canon_ite1
    | with_reducible apply State.setMarkOf_canon
    | (refine canon_fst ?_ ‹_ = (_, _)›)
    | split

theorem State.beginSave_canon (s : State) (k : ℕ) (map : Sys2Proof.Word) (n : ℕ) (hc : s.Canon) : (State.beginSave s k map n).Canon := by
  unfold State.beginSave
  try dsimp only
  repeat' first
    | (intro _; try dsimp only)
    | with_reducible assumption
    | with_reducible apply holds_next
    | with_reducible apply canon_foldl
    | with_reducible apply canon_foldl1
    | with_reducible apply canon_ite
    | with_reducible apply canon_ite1
    | with_reducible apply State.leaveGang_canon
    | with_reducible apply State.onCore_canon
    | (refine canon_fst ?_ ‹_ = (_, _)›)
    | split

theorem execSafe_canon (g : Sys2Proof.Guard) (map : Sys2Proof.Word) (s : State) (hc : s.Canon) : Holds State.Canon (execSafe g map s) := by
  unfold execSafe
  try dsimp only
  repeat' first
    | (intro _; try dsimp only)
    | with_reducible assumption
    | with_reducible apply holds_next
    | with_reducible apply canon_foldl
    | with_reducible apply canon_foldl1
    | with_reducible apply canon_ite
    | with_reducible apply canon_ite1
    | with_reducible apply State.issue_canon
    | with_reducible apply State.beginSave_canon
    | with_reducible apply State.onCore_canon
    | (refine canon_fst ?_ ‹_ = (_, _)›)
    | split

theorem execYield_canon (g : Sys2Proof.Guard) (s : State) (hc : s.Canon) : Holds State.Canon (execYield g s) := by
  unfold execYield
  try dsimp only
  repeat' first
    | (intro _; try dsimp only)
    | with_reducible assumption
    | with_reducible apply holds_next
    | with_reducible apply canon_foldl
    | with_reducible apply canon_foldl1
    | with_reducible apply canon_ite
    | with_reducible apply canon_ite1
    | with_reducible apply State.issue_canon
    | with_reducible apply State.beginSave_canon
    | with_reducible apply State.finish_canon
    | (refine canon_fst ?_ ‹_ = (_, _)›)
    | split

theorem execThreadSave_canon (c : Sys2Proof.CoreId) (s : State) (hc : s.Canon) : Holds State.Canon (execThreadSave c s) := by
  unfold execThreadSave
  try dsimp only
  repeat' first
    | (intro _; try dsimp only)
    | with_reducible assumption
    | with_reducible apply holds_next
    | with_reducible apply canon_foldl
    | with_reducible apply canon_foldl1
    | with_reducible apply canon_ite
    | with_reducible apply canon_ite1
    | with_reducible apply State.flushRc_canon
    | with_reducible apply State.store_canon
    | with_reducible apply State.recordCore_canon
    | with_reducible apply State.onCore_canon
    | with_reducible apply State.onTile_canon
    | (refine canon_fst ?_ ‹_ = (_, _)›)
    | split

theorem State.ctxEngines_canon (s : State) (p : CtxParts) (k : ℕ) (hc : s.Canon) : (State.ctxEngines s p k).Canon := by
  unfold State.ctxEngines
  try dsimp only
  repeat' first
    | (intro _; try dsimp only)
    | with_reducible assumption
    | with_reducible apply holds_next
    | with_reducible apply canon_foldl
    | with_reducible apply canon_foldl1
    | with_reducible apply canon_ite
    | with_reducible apply canon_ite1
    | with_reducible apply State.onTile_canon
    | (refine canon_fst ?_ ‹_ = (_, _)›)
    | split

theorem State.resumeThread_canon (s : State) (k : ℕ) (hc : s.Canon) : (State.resumeThread s k).Canon := by
  unfold State.resumeThread
  try dsimp only
  repeat' first
    | (intro _; try dsimp only)
    | with_reducible assumption
    | with_reducible apply holds_next
    | with_reducible apply canon_foldl
    | with_reducible apply canon_foldl1
    | with_reducible apply canon_ite
    | with_reducible apply canon_ite1
    | with_reducible apply State.bringIn_canon
    | with_reducible apply State.setCore_canon
    | with_reducible apply State.initHome_canon
    | with_reducible apply State.ctxEngines_canon
    | with_reducible apply State.onCore_canon
    | with_reducible apply State.openWindow_canon
    | (refine canon_fst ?_ ‹_ = (_, _)›)
    | split

theorem execThreadResume_canon (c : Sys2Proof.CoreId) (s : State) (hc : s.Canon) : Holds State.Canon (execThreadResume c s) := by
  unfold execThreadResume
  try dsimp only
  repeat' first
    | (intro _; try dsimp only)
    | with_reducible assumption
    | with_reducible apply holds_next
    | with_reducible apply canon_foldl
    | with_reducible apply canon_foldl1
    | with_reducible apply canon_ite
    | with_reducible apply canon_ite1
    | with_reducible apply State.resumeThread_canon
    | (refine canon_fst ?_ ‹_ = (_, _)›)
    | split

theorem execTileImageSwap_canon (t : Sys2Proof.TileId) (s : State) (hc : s.Canon) : Holds State.Canon (execTileImageSwap t s) := by
  unfold execTileImageSwap
  try dsimp only
  repeat' first
    | (intro _; try dsimp only)
    | with_reducible assumption
    | with_reducible apply holds_next
    | with_reducible apply canon_foldl
    | with_reducible apply canon_foldl1
    | with_reducible apply canon_ite
    | with_reducible apply canon_ite1
    | with_reducible apply State.bringIn_canon
    | with_reducible apply State.swapOut_canon
    | (refine canon_fst ?_ ‹_ = (_, _)›)
    | split

theorem execTmapWrite_canon (t : Sys2Proof.TileId) (ptile : BitVec 7) (s : State) (hc : s.Canon) : Holds State.Canon (execTmapWrite t ptile s) := by
  unfold execTmapWrite
  try dsimp only
  repeat' first
    | (intro _; try dsimp only)
    | with_reducible assumption
    | with_reducible apply holds_next
    | with_reducible apply canon_foldl
    | with_reducible apply canon_foldl1
    | with_reducible apply canon_ite
    | with_reducible apply canon_ite1
    | with_reducible apply State.remap_canon
    | (refine canon_fst ?_ ‹_ = (_, _)›)
    | split

theorem State.reenter_canon (s : State) (k : ℕ) (b : ℕ) (hc : s.Canon) : (State.reenter s k b).Canon := by
  unfold State.reenter
  try dsimp only
  repeat' first
    | (intro _; try dsimp only)
    | with_reducible assumption
    | with_reducible apply holds_next
    | with_reducible apply canon_foldl
    | with_reducible apply canon_foldl1
    | with_reducible apply canon_ite
    | with_reducible apply canon_ite1
    | with_reducible apply State.onBar_canon
    | (refine canon_fst ?_ ‹_ = (_, _)›)
    | split

theorem State.restartThread_canon (s : State) (k : ℕ) (tm : Team) (hc : s.Canon) : (State.restartThread s k tm).Canon := by
  unfold State.restartThread
  try dsimp only
  repeat' first
    | (intro _; try dsimp only)
    | with_reducible assumption
    | with_reducible apply holds_next
    | with_reducible apply canon_foldl
    | with_reducible apply canon_foldl1
    | with_reducible apply canon_ite
    | with_reducible apply canon_ite1
    | with_reducible apply State.dropWork_canon
    | with_reducible apply State.startThread_canon
    | with_reducible apply State.reenter_canon
    | with_reducible apply State.dropClean_canon
    | with_reducible apply State.emptyRo_canon
    | with_reducible apply State.openWindow_canon
    | (refine canon_fst ?_ ‹_ = (_, _)›)
    | split

theorem execThreadRestart_canon (c : Sys2Proof.CoreId) (s : State) (hc : s.Canon) : Holds State.Canon (execThreadRestart c s) := by
  unfold execThreadRestart
  try dsimp only
  repeat' first
    | (intro _; try dsimp only)
    | with_reducible assumption
    | with_reducible apply holds_next
    | with_reducible apply canon_foldl
    | with_reducible apply canon_foldl1
    | with_reducible apply canon_ite
    | with_reducible apply canon_ite1
    | with_reducible apply State.restartThread_canon
    | (refine canon_fst ?_ ‹_ = (_, _)›)
    | split

theorem State.resumeStopped_canon (s : State) (k : ℕ) (hc : s.Canon) : (State.resumeStopped s k).Canon := by
  unfold State.resumeStopped
  try dsimp only
  repeat' first
    | (intro _; try dsimp only)
    | with_reducible assumption
    | with_reducible apply holds_next
    | with_reducible apply canon_foldl
    | with_reducible apply canon_foldl1
    | with_reducible apply canon_ite
    | with_reducible apply canon_ite1
    | with_reducible apply State.onCore_canon
    | with_reducible apply State.loadHome_canon
    | with_reducible apply State.reenter_canon
    | (refine canon_fst ?_ ‹_ = (_, _)›)
    | split

theorem execThreadSupervisorResume_canon (c : Sys2Proof.CoreId) (s : State) (hc : s.Canon) : Holds State.Canon (execThreadSupervisorResume c s) := by
  unfold execThreadSupervisorResume
  try dsimp only
  repeat' first
    | (intro _; try dsimp only)
    | with_reducible assumption
    | with_reducible apply holds_next
    | with_reducible apply canon_foldl
    | with_reducible apply canon_foldl1
    | with_reducible apply canon_ite
    | with_reducible apply canon_ite1
    | with_reducible apply State.resumeStopped_canon
    | (refine canon_fst ?_ ‹_ = (_, _)›)
    | split

theorem State.retireTile_canon (s : State) (t : ℕ) (hc : s.Canon) : (State.retireTile s t).Canon := by
  unfold State.retireTile
  try dsimp only
  repeat' first
    | (intro _; try dsimp only)
    | with_reducible assumption
    | with_reducible apply holds_next
    | with_reducible apply canon_foldl
    | with_reducible apply canon_foldl1
    | with_reducible apply canon_ite
    | with_reducible apply canon_ite1
    | with_reducible apply State.onQuad_canon
    | with_reducible apply State.breakAll_canon
    | (refine canon_fst ?_ ‹_ = (_, _)›)
    | split

theorem State.endBySupervisor_canon (s : State) (k : ℕ) (hc : s.Canon) : (State.endBySupervisor s k).Canon := by
  unfold State.endBySupervisor
  try dsimp only
  repeat' first
    | (intro _; try dsimp only)
    | with_reducible assumption
    | with_reducible apply holds_next
    | with_reducible apply canon_foldl
    | with_reducible apply canon_foldl1
    | with_reducible apply canon_ite
    | with_reducible apply canon_ite1
    | with_reducible apply State.endThread_canon
    | with_reducible apply State.dropWork_canon
    | with_reducible apply State.failTeam_canon
    | (refine canon_fst ?_ ‹_ = (_, _)›)
    | split

theorem State.endThreads_canon (s : State) (ks : List ℕ) (hc : s.Canon) : (State.endThreads s ks).Canon := by
  unfold State.endThreads
  try dsimp only
  repeat' first
    | (intro _; try dsimp only)
    | with_reducible assumption
    | with_reducible apply holds_next
    | with_reducible apply canon_foldl
    | with_reducible apply canon_foldl1
    | with_reducible apply canon_ite
    | with_reducible apply canon_ite1
    | with_reducible apply State.stopThread_canon
    | with_reducible apply State.onCore_canon
    | with_reducible apply State.endBySupervisor_canon
    | (refine canon_fst ?_ ‹_ = (_, _)›)
    | split

theorem execThreadSupervisorEnd_canon (c : Sys2Proof.CoreId) (s : State) (hc : s.Canon) : Holds State.Canon (execThreadSupervisorEnd c s) := by
  unfold execThreadSupervisorEnd
  try dsimp only
  repeat' first
    | (intro _; try dsimp only)
    | with_reducible assumption
    | with_reducible apply holds_next
    | with_reducible apply canon_foldl
    | with_reducible apply canon_foldl1
    | with_reducible apply canon_ite
    | with_reducible apply canon_ite1
    | with_reducible apply State.endThreads_canon
    | with_reducible apply State.retireTile_canon
    | (refine canon_fst ?_ ‹_ = (_, _)›)
    | split

/-! ### Churn -/

theorem State.takeGrad_canon (s : State) (key : Nat) (g : Grad) (starve : SMap Nat) (h : s.Canon) : (s.takeGrad key g starve).Canon := by
  unfold State.takeGrad
  extract_lets s1
  have h1 : s1.Canon := ⟨h.1, h.2, h.3, h.4, h.5, h.6, h.7, h.8, h.9, h.10, h.11, SMap.wfFrom_put _ h.12 (Nat.zero_le _),
    SMap.wfFrom_put _ h.13 (Nat.zero_le _), h.14, h.15⟩
  clear_value s1
  split
  · exact State.retireCmd_canon _ _ _ h1
  · exact h1

theorem execQget_canon (g : Sys2Proof.Guard) (rd : Sys2Proof.XReg) (q : BitVec 3) (pt : Sys2Proof.PReg) (pf : Sys2Proof.PReg) (s : State) (hc : s.Canon) : Holds State.Canon (execQget g rd q pt pf s) := by
  unfold execQget
  try dsimp only
  repeat' first
    | (intro _; try dsimp only)
    | with_reducible assumption
    | with_reducible apply holds_next
    | with_reducible apply canon_foldl
    | with_reducible apply canon_foldl1
    | with_reducible apply canon_ite
    | with_reducible apply canon_ite1
    | with_reducible apply State.issue_canon
    | with_reducible apply State.finishWith_canon
    | with_reducible apply State.raiseClk_canon
    | with_reducible apply State.takeGrad_canon
    | with_reducible apply State.await_canon
    | (refine canon_fst ?_ ‹_ = (_, _)›)
    | split

theorem execChurnStart_canon (pkg : BitVec 10) (c : BitVec 5) (s : State) (hc : s.Canon) : Holds State.Canon (execChurnStart pkg c s) := by
  unfold execChurnStart
  try dsimp only
  repeat' first
    | (intro _; try dsimp only)
    | with_reducible assumption
    | with_reducible apply holds_next
    | with_reducible apply canon_foldl
    | with_reducible apply canon_foldl1
    | with_reducible apply canon_ite
    | with_reducible apply canon_ite1
    | with_reducible apply State.engineRead_canon
    | with_reducible apply State.setSlot_canon
    | with_reducible apply State.startThread_canon
    | with_reducible apply State.onPkg_canon
    | with_reducible apply State.useKernel_canon
    | with_reducible apply State.refuseRecord_canon
    | (refine canon_fst ?_ ‹_ = (_, _)›)
    | split

/-! ### Collective -/

theorem State.collFormat_canon (s : State) (k : ℕ) (d : Cmd) (hc : s.Canon) : (State.collFormat s k d).Canon := by
  unfold State.collFormat
  try dsimp only
  repeat' first
    | (intro _; try dsimp only)
    | with_reducible assumption
    | with_reducible apply holds_next
    | with_reducible apply canon_foldl
    | with_reducible apply canon_foldl1
    | with_reducible apply canon_ite
    | with_reducible apply canon_ite1
    | with_reducible apply State.retireCmd_canon
    | with_reducible apply State.faultCmd_canon
    | (refine canon_fst ?_ ‹_ = (_, _)›)
    | split

theorem State.collUnread_canon (s : State) (k : ℕ) (d : Cmd) (f : Failed) (hc : s.Canon) : (State.collUnread s k d f).Canon := by
  unfold State.collUnread
  try dsimp only
  repeat' first
    | (intro _; try dsimp only)
    | with_reducible assumption
    | with_reducible apply holds_next
    | with_reducible apply canon_foldl
    | with_reducible apply canon_foldl1
    | with_reducible apply canon_ite
    | with_reducible apply canon_ite1
    | with_reducible apply State.retireCmd_canon
    | with_reducible apply State.cmdFailed_canon
    | with_reducible apply State.collFormat_canon
    | (refine canon_fst ?_ ‹_ = (_, _)›)
    | split

theorem State.collNumbered_canon (s : State) (k : ℕ) (d : Cmd) (g : ℕ) (hc : s.Canon) : (State.collNumbered s k d g).1.Canon := by
  unfold State.collNumbered
  try dsimp only
  repeat' first
    | (intro _; try dsimp only)
    | with_reducible assumption
    | with_reducible apply holds_next
    | with_reducible apply canon_foldl
    | with_reducible apply canon_foldl1
    | with_reducible apply canon_ite
    | with_reducible apply canon_ite1
    | with_reducible apply State.onDie_canon
    | (refine canon_fst ?_ ‹_ = (_, _)›)
    | split

theorem State.collEnter_canon (s : State) (k : ℕ) (d : Cmd) (h : ℕ) (es : List ℕ) (hc : s.Canon) : (State.collEnter s k d h es).Canon := by
  unfold State.collEnter
  try dsimp only
  repeat' first
    | (intro _; try dsimp only)
    | with_reducible assumption
    | with_reducible apply holds_next
    | with_reducible apply canon_foldl
    | with_reducible apply canon_foldl1
    | with_reducible apply canon_ite
    | with_reducible apply canon_ite1
    | with_reducible apply State.collFormat_canon
    | with_reducible apply State.collNumbered_canon
    | with_reducible apply State.onCmd_canon
    | (refine canon_fst ?_ ‹_ = (_, _)›)
    | split

theorem State.collHeader_canon (s : State) (k : ℕ) (d : Cmd) (h : ℕ) (hc : s.Canon) : (State.collHeader s k d h).Canon := by
  unfold State.collHeader
  try dsimp only
  repeat' first
    | (intro _; try dsimp only)
    | with_reducible assumption
    | with_reducible apply holds_next
    | with_reducible apply canon_foldl
    | with_reducible apply canon_foldl1
    | with_reducible apply canon_ite
    | with_reducible apply canon_ite1
    | with_reducible apply State.grab_canon
    | with_reducible apply State.collUnread_canon
    | with_reducible apply State.collEnter_canon
    | (refine canon_fst ?_ ‹_ = (_, _)›)
    | split

theorem State.collStart_canon (s : State) (k : ℕ) (d : Cmd) (hc : s.Canon) : (State.collStart s k d).Canon := by
  unfold State.collStart
  try dsimp only
  repeat' first
    | (intro _; try dsimp only)
    | with_reducible assumption
    | with_reducible apply holds_next
    | with_reducible apply canon_foldl
    | with_reducible apply canon_foldl1
    | with_reducible apply canon_ite
    | with_reducible apply canon_ite1
    | with_reducible apply State.grab_canon
    | with_reducible apply State.collUnread_canon
    | with_reducible apply State.collHeader_canon
    | (refine canon_fst ?_ ‹_ = (_, _)›)
    | split

theorem State.collLog_canon (s : State) (ms : List CollMember) (hc : s.Canon) : ∀ u, s.collLog ms = some u → u.Canon := by
  have key : ∀ (f : Option State → CollMember → Option State),
      (∀ a m u, (∀ v, a = some v → v.Canon) → f a m = some u → u.Canon) →
      ∀ (l : List CollMember) (a : Option State), (∀ v, a = some v → v.Canon) → ∀ u, l.foldl f a = some u → u.Canon := by
    intro f hf l
    induction l with
    | nil => exact fun a ha u hu => ha u hu
    | cons m l ih => exact fun a ha => ih _ (fun vv hv => hf a m vv ha hv)
  refine key _ ?_ ms (some s) (fun v hv => by cases hv; exact hc)
  intro a m u ha hu
  cases a with
  | none => cases hu
  | some v =>
    simp only [Option.bind_some] at hu
    split at hu
    · exact State.logProvenance_canon _ _ _ _ _ _ (ha v rfl) u hu
    · cases hu; exact ha _ rfl

theorem State.collForm_canon (s : State) (d : Cmd) (dies : List ℕ) (ranks : List ℕ) (ms : List CollMember) (hc : s.Canon) : (State.collForm s d dies ranks ms).Canon := by
  unfold State.collForm
  try dsimp only
  repeat' first
    | (intro _; try dsimp only)
    | with_reducible assumption
    | with_reducible apply holds_next
    | with_reducible apply canon_foldl
    | with_reducible apply canon_foldl1
    | with_reducible apply canon_ite
    | with_reducible apply canon_ite1
    | with_reducible apply State.onCmd_canon
    | with_reducible apply State.faultCmd_canon
    | with_reducible apply canon_colls
    | (refine canon_fst ?_ ‹_ = (_, _)›)
    | split

theorem State.collMatch_canon (s : State) (k : ℕ) (d : Cmd) (reform : Bool) (hc : s.Canon) : (State.collMatch s k d reform).Canon := by
  unfold State.collMatch
  try dsimp only
  repeat' first
    | (intro _; try dsimp only)
    | with_reducible assumption
    | with_reducible apply holds_next
    | with_reducible apply canon_foldl
    | with_reducible apply canon_foldl1
    | with_reducible apply canon_ite
    | with_reducible apply canon_ite1
    | with_reducible apply State.collFormat_canon
    | (refine State.collLog_canon _ _ ?_ _ ‹_›)
    | with_reducible apply State.onCmd_canon
    | with_reducible apply State.collForm_canon
    | (refine canon_fst ?_ ‹_ = (_, _)›)
    | split

theorem State.collGrant_canon (s : State) (k : ℕ) (kind : ℕ) (hc : s.Canon) : (State.collGrant s k kind).Canon := by
  unfold State.collGrant
  try dsimp only
  repeat' first
    | (intro _; try dsimp only)
    | with_reducible assumption
    | with_reducible apply holds_next
    | with_reducible apply canon_foldl
    | with_reducible apply canon_foldl1
    | with_reducible apply canon_ite
    | with_reducible apply canon_ite1
    | with_reducible apply State.collStart_canon
    | with_reducible apply State.onDie_canon
    | (refine canon_fst ?_ ‹_ = (_, _)›)
    | split

theorem State.collEvent_canon (s : State) (k : ℕ) (kind : ℕ) (hc : s.Canon) : (State.collEvent s k kind).Canon := by
  unfold State.collEvent
  try dsimp only
  repeat' first
    | (intro _; try dsimp only)
    | with_reducible assumption
    | with_reducible apply holds_next
    | with_reducible apply canon_foldl
    | with_reducible apply canon_foldl1
    | with_reducible apply canon_ite
    | with_reducible apply canon_ite1
    | with_reducible apply State.collGrant_canon
    | with_reducible apply State.collMatch_canon
    | (refine canon_fst ?_ ‹_ = (_, _)›)
    | split

theorem execCollAllreduce_canon (c : Sys2Proof.CoreId) (s : State) (hc : s.Canon) : Holds State.Canon (execCollAllreduce c s) := by
  unfold execCollAllreduce
  try dsimp only
  repeat' first
    | (intro _; try dsimp only)
    | with_reducible assumption
    | with_reducible apply holds_next
    | with_reducible apply canon_foldl
    | with_reducible apply canon_foldl1
    | with_reducible apply canon_ite
    | with_reducible apply canon_ite1
    | with_reducible apply State.collEvent_canon
    | (refine canon_fst ?_ ‹_ = (_, _)›)
    | split

theorem execCollReduceScatter_canon (c : Sys2Proof.CoreId) (s : State) (hc : s.Canon) : Holds State.Canon (execCollReduceScatter c s) := by
  unfold execCollReduceScatter
  try dsimp only
  repeat' first
    | (intro _; try dsimp only)
    | with_reducible assumption
    | with_reducible apply holds_next
    | with_reducible apply canon_foldl
    | with_reducible apply canon_foldl1
    | with_reducible apply canon_ite
    | with_reducible apply canon_ite1
    | with_reducible apply State.collEvent_canon
    | (refine canon_fst ?_ ‹_ = (_, _)›)
    | split

theorem execCollAllgather_canon (c : Sys2Proof.CoreId) (s : State) (hc : s.Canon) : Holds State.Canon (execCollAllgather c s) := by
  unfold execCollAllgather
  try dsimp only
  repeat' first
    | (intro _; try dsimp only)
    | with_reducible assumption
    | with_reducible apply holds_next
    | with_reducible apply canon_foldl
    | with_reducible apply canon_foldl1
    | with_reducible apply canon_ite
    | with_reducible apply canon_ite1
    | with_reducible apply State.collEvent_canon
    | (refine canon_fst ?_ ‹_ = (_, _)›)
    | split

theorem execCollBroadcast_canon (c : Sys2Proof.CoreId) (s : State) (hc : s.Canon) : Holds State.Canon (execCollBroadcast c s) := by
  unfold execCollBroadcast
  try dsimp only
  repeat' first
    | (intro _; try dsimp only)
    | with_reducible assumption
    | with_reducible apply holds_next
    | with_reducible apply canon_foldl
    | with_reducible apply canon_foldl1
    | with_reducible apply canon_ite
    | with_reducible apply canon_ite1
    | with_reducible apply State.collEvent_canon
    | (refine canon_fst ?_ ‹_ = (_, _)›)
    | split

theorem execCollReduce_canon (c : Sys2Proof.CoreId) (s : State) (hc : s.Canon) : Holds State.Canon (execCollReduce c s) := by
  unfold execCollReduce
  try dsimp only
  repeat' first
    | (intro _; try dsimp only)
    | with_reducible assumption
    | with_reducible apply holds_next
    | with_reducible apply canon_foldl
    | with_reducible apply canon_foldl1
    | with_reducible apply canon_ite
    | with_reducible apply canon_ite1
    | with_reducible apply State.collEvent_canon
    | (refine canon_fst ?_ ‹_ = (_, _)›)
    | split

theorem State.putVa_canon (s : State) (k : ℕ) (d : Cmd) (va : ℕ) (bs : List Sys2Proof.Byte) (bad : Bool) (hc : s.Canon) : (State.putVa s k d va bs bad).Canon := by
  unfold State.putVa
  try dsimp only
  repeat' first
    | (intro _; try dsimp only)
    | with_reducible assumption
    | with_reducible apply holds_next
    | with_reducible apply canon_foldl
    | with_reducible apply canon_foldl1
    | with_reducible apply canon_ite
    | with_reducible apply canon_ite1
    | with_reducible apply State.engineAt_canon
    | with_reducible apply State.completeWords_canon
    | with_reducible apply State.engineWrite_canon
    | with_reducible apply State.setMark_canon
    | with_reducible apply State.cmdFailed_canon
    | (refine canon_fst ?_ ‹_ = (_, _)›)
    | split

theorem State.collDrop_canon (s : State) (g : Coll) (h : s.Canon) : (s.collDrop g).Canon := canon_colls h _

theorem State.collPut_canon (s : State) (g g1 : Coll) (h : s.Canon) : (s.collPut g g1).Canon := canon_colls h _

theorem State.collFail_canon (s : State) (g : Coll) (hc : s.Canon) : (State.collFail s g).Canon := by
  unfold State.collFail
  try dsimp only
  repeat' first
    | (intro _; try dsimp only)
    | with_reducible assumption
    | with_reducible apply holds_next
    | with_reducible apply canon_foldl
    | with_reducible apply canon_foldl1
    | with_reducible apply canon_ite
    | with_reducible apply canon_ite1
    | with_reducible apply State.collDrop_canon
    | with_reducible apply State.retireCmd_canon
    | with_reducible apply State.faultCmd_canon
    | (refine canon_fst ?_ ‹_ = (_, _)›)
    | split

theorem State.collRead_canon (s : State) (off n : Nat) (l : List CollMember) (hc : s.Canon) : (s.collRead off n l).1.Canon := by
  induction l generalizing s with
  | nil => exact hc
  | cons m ms ih => exact ih _ (State.grab_canon s m.core m.cmd (cw2 m.cmd.w + off) n hc)

theorem State.collReduceInto_canon (s : State) (w : Sys2Proof.Wide) (ms : List CollMember) (cs : List CollMember) (n : ℕ) (base : ℕ) (lo : ℕ) (hi : ℕ) (hc : s.Canon) : (State.collReduceInto s w ms cs n base lo hi).Canon := by
  unfold State.collReduceInto
  try dsimp only
  repeat' first
    | (intro _; try dsimp only)
    | with_reducible assumption
    | with_reducible apply holds_next
    | with_reducible apply canon_foldl
    | with_reducible apply canon_foldl1
    | with_reducible apply canon_ite
    | with_reducible apply canon_ite1
    | with_reducible apply State.collRead_canon
    | with_reducible apply State.onCore_canon
    | with_reducible apply State.putVa_canon
    | (refine canon_fst ?_ ‹_ = (_, _)›)
    | split

theorem State.collCopyInto_canon (s : State) (m : CollMember) (cs : List CollMember) (off : ℕ) (dst : ℕ) (n : ℕ) (hc : s.Canon) : (State.collCopyInto s m cs off dst n).Canon := by
  unfold State.collCopyInto
  try dsimp only
  repeat' first
    | (intro _; try dsimp only)
    | with_reducible assumption
    | with_reducible apply holds_next
    | with_reducible apply canon_foldl
    | with_reducible apply canon_foldl1
    | with_reducible apply canon_ite
    | with_reducible apply canon_ite1
    | with_reducible apply State.grab_canon
    | with_reducible apply State.putVa_canon
    | (refine canon_fst ?_ ‹_ = (_, _)›)
    | split

theorem State.collChunk_canon (s : State) (g : Coll) (w : Sys2Proof.Wide) (ms : List CollMember) (lo : ℕ) (hi : ℕ) (hc : s.Canon) : (State.collChunk s g w ms lo hi).Canon := by
  unfold State.collChunk
  try dsimp only
  repeat' first
    | (intro _; try dsimp only)
    | with_reducible assumption
    | with_reducible apply holds_next
    | with_reducible apply canon_foldl
    | with_reducible apply canon_foldl1
    | with_reducible apply canon_ite
    | with_reducible apply canon_ite1
    | with_reducible apply State.collReduceInto_canon
    | with_reducible apply State.collCopyInto_canon
    | (refine canon_fst ?_ ‹_ = (_, _)›)
    | split

theorem State.probeRead_canon (s : State) (m : CollMember) (va : ℕ) (n : ℕ) (hc : s.Canon) : (State.probeRead s m va n).1.Canon := by
  unfold State.probeRead
  try dsimp only
  repeat' first
    | (intro _; try dsimp only)
    | with_reducible assumption
    | with_reducible apply holds_next
    | with_reducible apply canon_foldl
    | with_reducible apply canon_foldl1
    | with_reducible apply canon_ite
    | with_reducible apply canon_ite1
    | with_reducible apply State.engineAt_canon
    | with_reducible apply State.holdAt_canon
    | (refine canon_fst ?_ ‹_ = (_, _)›)
    | split

theorem State.probeWrite_canon (s : State) (m : CollMember) (va : ℕ) (hc : s.Canon) : (State.probeWrite s m va).1.Canon := by
  unfold State.probeWrite
  try dsimp only
  repeat' first
    | (intro _; try dsimp only)
    | with_reducible assumption
    | with_reducible apply holds_next
    | with_reducible apply canon_foldl
    | with_reducible apply canon_foldl1
    | with_reducible apply canon_ite
    | with_reducible apply canon_ite1
    | with_reducible apply State.engineAt_canon
    | (refine canon_fst ?_ ‹_ = (_, _)›)
    | split

theorem State.collProbe_canon (s : State) (g : Coll) (w : Sys2Proof.Wide) (ms : List CollMember) (lo : ℕ) (hi : ℕ) (hc : s.Canon) : (State.collProbe s g w ms lo hi).1.Canon := by
  unfold State.collProbe
  try dsimp only
  repeat' first
    | (intro _; try dsimp only)
    | with_reducible assumption
    | with_reducible apply holds_next
    | with_reducible apply canon_foldl
    | with_reducible apply canon_foldl1
    | with_reducible apply canon_ite
    | with_reducible apply canon_ite1
    | with_reducible apply State.probeRead_canon
    | with_reducible apply State.probeWrite_canon
    | (refine canon_fst ?_ ‹_ = (_, _)›)
    | split

theorem State.collShrink_canon (s : State) (g : Coll) (hc : s.Canon) : (State.collShrink s g).1.Canon := by
  unfold State.collShrink
  try dsimp only
  repeat' first
    | (intro _; try dsimp only)
    | with_reducible assumption
    | with_reducible apply holds_next
    | with_reducible apply canon_foldl
    | with_reducible apply canon_foldl1
    | with_reducible apply canon_ite
    | with_reducible apply canon_ite1
    | with_reducible apply State.faultCmd_canon
    | with_reducible apply State.collPut_canon
    | (refine canon_fst ?_ ‹_ = (_, _)›)
    | split

theorem State.collGoOn_canon (s : State) (g : Coll) (ms : List CollMember) (last : Bool) (hc : s.Canon) : (State.collGoOn s g ms last).Canon := by
  unfold State.collGoOn
  try dsimp only
  repeat' first
    | (intro _; try dsimp only)
    | with_reducible assumption
    | with_reducible apply holds_next
    | with_reducible apply canon_foldl
    | with_reducible apply canon_foldl1
    | with_reducible apply canon_ite
    | with_reducible apply canon_ite1
    | with_reducible apply State.retireCmd_canon
    | with_reducible apply State.collDrop_canon
    | with_reducible apply State.collPut_canon
    | (refine canon_fst ?_ ‹_ = (_, _)›)
    | split

theorem State.collLost_canon (s : State) (g : Coll) (ms : List CollMember) (m : CollMember) (f : Failed) (off : ℕ) (last : Bool) (hc : s.Canon) : (State.collLost s g ms m f off last).Canon := by
  unfold State.collLost
  try dsimp only
  repeat' first
    | (intro _; try dsimp only)
    | with_reducible assumption
    | with_reducible apply holds_next
    | with_reducible apply canon_foldl
    | with_reducible apply canon_foldl1
    | with_reducible apply canon_ite
    | with_reducible apply canon_ite1
    | with_reducible apply State.cmdFailed_canon
    | with_reducible apply State.faultCmd_canon
    | with_reducible apply State.collGoOn_canon
    | with_reducible apply State.collFail_canon
    | with_reducible apply State.retireCmd_canon
    | (refine canon_fst ?_ ‹_ = (_, _)›)
    | split

theorem State.collCommit_canon (s : State) (g : Coll) (hc : s.Canon) : (State.collCommit s g).Canon := by
  unfold State.collCommit
  try dsimp only
  repeat' first
    | (intro _; try dsimp only)
    | with_reducible assumption
    | with_reducible apply holds_next
    | with_reducible apply canon_foldl
    | with_reducible apply canon_foldl1
    | with_reducible apply canon_ite
    | with_reducible apply canon_ite1
    | with_reducible apply State.collFail_canon
    | with_reducible apply State.collDrop_canon
    | with_reducible apply State.collProbe_canon
    | with_reducible apply State.collGoOn_canon
    | with_reducible apply State.collChunk_canon
    | with_reducible apply State.collLost_canon
    | with_reducible apply State.killCmd_canon
    | (refine canon_fst ?_ ‹_ = (_, _)›)
    | split

theorem State.collMove_canon (s : State) (l : List Coll) (hc : s.Canon) : (s.collMove l).Canon := by
  induction l generalizing s with
  | nil => exact hc
  | cons g gs ih =>
    have h := State.collCommit_canon _ (s.collShrink g).2 (State.collShrink_canon s g hc)
    exact canon_ite (ih _ h) h

theorem execCollChunkCommit_canon (d : Sys2Proof.DieId) (s : State) (hc : s.Canon) : Holds State.Canon (execCollChunkCommit d s) := by
  unfold execCollChunkCommit
  try dsimp only
  repeat' first
    | (intro _; try dsimp only)
    | with_reducible assumption
    | with_reducible apply holds_next
    | with_reducible apply canon_foldl
    | with_reducible apply canon_foldl1
    | with_reducible apply canon_ite
    | with_reducible apply canon_ite1
    | with_reducible apply State.collMove_canon
    | (refine canon_fst ?_ ‹_ = (_, _)›)
    | split

theorem execCollTimeout_canon (c : Sys2Proof.CoreId) (s : State) (hc : s.Canon) : Holds State.Canon (execCollTimeout c s) := by
  unfold execCollTimeout
  try dsimp only
  repeat' first
    | (intro _; try dsimp only)
    | with_reducible assumption
    | with_reducible apply holds_next
    | with_reducible apply canon_foldl
    | with_reducible apply canon_foldl1
    | with_reducible apply canon_ite
    | with_reducible apply canon_ite1
    | with_reducible apply State.retireCmd_canon
    | with_reducible apply State.faultCmd_canon
    | (refine canon_fst ?_ ‹_ = (_, _)›)
    | split

theorem execCollReform_canon (d : Sys2Proof.DieId) (s : State) (hc : s.Canon) : Holds State.Canon (execCollReform d s) := by
  unfold execCollReform
  try dsimp only
  repeat' first
    | (intro _; try dsimp only)
    | with_reducible assumption
    | with_reducible apply holds_next
    | with_reducible apply canon_foldl
    | with_reducible apply canon_foldl1
    | with_reducible apply canon_ite
    | with_reducible apply canon_ite1
    | with_reducible apply State.collShrink_canon
    | with_reducible apply State.collMatch_canon
    | (refine canon_fst ?_ ‹_ = (_, _)›)
    | split

/-! ### Offload -/

theorem State.hostPut_canon (s : State) (pkg hba : Nat) (bs : List Byte) (h : s.Canon) : (s.hostPut pkg hba bs).Canon :=
  canon_hostBad (canon_hostMem h (Memory.wf_memWrite bs _ h.hostMem)) (SMap.wfFrom_foldl _ (fun _ x hm => SMap.wfFrom_del x hm) h.hostBad)

theorem State.hostPoison_canon (s : State) (pkg hba : Nat) (bad : List Nat) (h : s.Canon) : (s.hostPoison pkg hba bad).Canon :=
  canon_hostBad h (SMap.wfFrom_foldl _ (fun _ _ hm => SMap.wfFrom_put _ hm (Nat.zero_le _)) h.hostBad)

theorem State.onProg_canon (s : State) (k : ℕ) (d : Cmd) (f : Progress → Progress) (hc : s.Canon) : (State.onProg s k d f).Canon := by
  unfold State.onProg
  try dsimp only
  repeat' first
    | (intro _; try dsimp only)
    | with_reducible assumption
    | with_reducible apply holds_next
    | with_reducible apply canon_foldl
    | with_reducible apply canon_foldl1
    | with_reducible apply canon_ite
    | with_reducible apply canon_ite1
    | with_reducible apply State.onCmd_canon
    | (refine canon_fst ?_ ‹_ = (_, _)›)
    | split

theorem State.takeEntry_canon (s : State) (k : ℕ) (d : Cmd) (i : ℕ) (hc : s.Canon) : (State.takeEntry s k d i).Canon := by
  unfold State.takeEntry
  try dsimp only
  repeat' first
    | (intro _; try dsimp only)
    | with_reducible assumption
    | with_reducible apply holds_next
    | with_reducible apply canon_foldl
    | with_reducible apply canon_foldl1
    | with_reducible apply canon_ite
    | with_reducible apply canon_ite1
    | with_reducible apply State.grab_canon
    | with_reducible apply State.onProg_canon
    | with_reducible apply State.cmdFailed_canon
    | with_reducible apply State.faultCmd_canon
    | (refine canon_fst ?_ ‹_ = (_, _)›)
    | split

theorem State.listSum_canon (s : State) (k : ℕ) (d : Cmd) (hc : s.Canon) : (State.listSum s k d).1.Canon := by
  unfold State.listSum
  try dsimp only
  repeat' first
    | (intro _; try dsimp only)
    | with_reducible assumption
    | with_reducible apply holds_next
    | with_reducible apply canon_foldl
    | with_reducible apply canon_foldl1
    | with_reducible apply canon_ite
    | with_reducible apply canon_ite1
    | with_reducible apply State.grab_canon
    | (refine canon_fst ?_ ‹_ = (_, _)›)
    | split

theorem State.offloadStart_canon (s : State) (k : ℕ) (d : Cmd) (hc : s.Canon) : (State.offloadStart s k d).Canon := by
  unfold State.offloadStart
  try dsimp only
  repeat' first
    | (intro _; try dsimp only)
    | with_reducible assumption
    | with_reducible apply holds_next
    | with_reducible apply canon_foldl
    | with_reducible apply canon_foldl1
    | with_reducible apply canon_ite
    | with_reducible apply canon_ite1
    | with_reducible apply State.onDie_canon
    | with_reducible apply State.onCmd_canon
    | (refine canon_fst ?_ ‹_ = (_, _)›)
    | split

theorem State.offloadBegin_canon (s : State) (k : ℕ) (d : Cmd) (log : Bool) (hc : s.Canon) : (State.offloadBegin s k d log).Canon := by
  unfold State.offloadBegin
  try dsimp only
  repeat' first
    | (intro _; try dsimp only)
    | with_reducible assumption
    | with_reducible apply holds_next
    | with_reducible apply canon_foldl
    | with_reducible apply canon_foldl1
    | with_reducible apply canon_ite
    | with_reducible apply canon_ite1
    | with_reducible apply State.offloadStart_canon
    | with_reducible apply State.listSum_canon
    | (refine State.logProvenance_canon _ _ _ _ _ _ ?_ _ ‹_›)
    | with_reducible apply State.onCmd_canon
    | (refine canon_fst ?_ ‹_ = (_, _)›)
    | split

theorem State.offloadStep_canon (s : State) (k : ℕ) (d : Cmd) (hc : s.Canon) : (State.offloadStep s k d).Canon := by
  unfold State.offloadStep
  try dsimp only
  repeat' first
    | (intro _; try dsimp only)
    | with_reducible assumption
    | with_reducible apply holds_next
    | with_reducible apply canon_foldl
    | with_reducible apply canon_foldl1
    | with_reducible apply canon_ite
    | with_reducible apply canon_ite1
    | with_reducible apply State.offloadBegin_canon
    | with_reducible apply State.grab_canon
    | with_reducible apply State.onProg_canon
    | with_reducible apply State.cmdFailed_canon
    | with_reducible apply State.hostPut_canon
    | with_reducible apply State.hostPoison_canon
    | with_reducible apply State.takeEntry_canon
    | with_reducible apply State.retireCmd_canon
    | (refine canon_fst ?_ ‹_ = (_, _)›)
    | split

theorem execOffload_canon (c : Sys2Proof.CoreId) (s : State) (hc : s.Canon) : Holds State.Canon (execOffload c s) := by
  unfold execOffload
  try dsimp only
  repeat' first
    | (intro _; try dsimp only)
    | with_reducible assumption
    | with_reducible apply holds_next
    | with_reducible apply canon_foldl
    | with_reducible apply canon_foldl1
    | with_reducible apply canon_ite
    | with_reducible apply canon_ite1
    | with_reducible apply State.offloadStep_canon
    | (refine canon_fst ?_ ‹_ = (_, _)›)
    | split

theorem State.replayStep_canon (s : State) (k : ℕ) (d : Cmd) (hc : s.Canon) : (State.replayStep s k d).Canon := by
  unfold State.replayStep
  try dsimp only
  repeat' first
    | (intro _; try dsimp only)
    | with_reducible assumption
    | with_reducible apply holds_next
    | with_reducible apply canon_foldl
    | with_reducible apply canon_foldl1
    | with_reducible apply canon_ite
    | with_reducible apply canon_ite1
    | with_reducible apply State.offloadBegin_canon
    | with_reducible apply State.onProg_canon
    | with_reducible apply State.takeEntry_canon
    | with_reducible apply State.retireCmd_canon
    | (refine canon_fst ?_ ‹_ = (_, _)›)
    | split

theorem execReplay_canon (c : Sys2Proof.CoreId) (s : State) (hc : s.Canon) : Holds State.Canon (execReplay c s) := by
  unfold execReplay
  try dsimp only
  repeat' first
    | (intro _; try dsimp only)
    | with_reducible assumption
    | with_reducible apply holds_next
    | with_reducible apply canon_foldl
    | with_reducible apply canon_foldl1
    | with_reducible apply canon_ite
    | with_reducible apply canon_ite1
    | with_reducible apply State.replayStep_canon
    | (refine canon_fst ?_ ‹_ = (_, _)›)
    | split

theorem State.replayWrite_canon (s : State) (k : Nat) (d : Cmd) (poisoned : Bool) (h : s.Canon) :
    (s.replayWrite k d poisoned).Canon := by
  have hr := State.engineAt_canon s k (d.prog.dva + d.prog.off) .wr h
  unfold State.replayWrite
  dsimp only
  split
  · split
    · exact State.onCmd_canon _ _ _ _ h
    · rename_i u hu
      have hu : u.Canon := by
        split at hu
        · exact State.logProvenance_canon _ _ _ _ _ _ hr u hu
        · cases hu; exact hr
      repeat' first
        | (intro _; try dsimp only)
        | with_reducible assumption
        | with_reducible apply canon_foldl
        | with_reducible apply canon_ite
        | with_reducible apply State.onCmd_canon
        | with_reducible apply State.countArrival_canon
        | with_reducible apply State.engineWrite_canon
        | with_reducible apply State.setMark_canon
  · exact hr
  · exact State.onProg_canon _ _ _ _ (State.cmdFailed_canon _ _ _ _ hr)

theorem State.reportDone_canon (s : State) (pkg : ℕ) (fn : ℕ) (hc : s.Canon) : (State.reportDone s pkg fn).Canon := by
  unfold State.reportDone
  try dsimp only
  repeat' first
    | (intro _; try dsimp only)
    | with_reducible assumption
    | with_reducible apply holds_next
    | with_reducible apply canon_foldl
    | with_reducible apply canon_foldl1
    | with_reducible apply canon_ite
    | with_reducible apply canon_ite1
    | with_reducible apply State.onPkg_canon
    | (refine canon_fst ?_ ‹_ = (_, _)›)
    | split

theorem execHostCompletion_canon (d : Sys2Proof.DieId) (a : Sys2Proof.HostAnswer) (s : State) (hc : s.Canon) : Holds State.Canon (execHostCompletion d a s) := by
  unfold execHostCompletion
  try dsimp only
  repeat' first
    | (intro _; try dsimp only)
    | with_reducible assumption
    | with_reducible apply holds_next
    | with_reducible apply canon_foldl
    | with_reducible apply canon_foldl1
    | with_reducible apply canon_ite
    | with_reducible apply canon_ite1
    | with_reducible apply State.retireCmd_canon
    | with_reducible apply State.faultCmd_canon
    | with_reducible apply State.replayWrite_canon
    | with_reducible apply State.onProg_canon
    | with_reducible apply State.reportDone_canon
    | (refine canon_fst ?_ ‹_ = (_, _)›)
    | split

/-! ### Faults -/

theorem execAccessRefusal_canon (c : Sys2Proof.CoreId) (s : State) (hc : s.Canon) : Holds State.Canon (execAccessRefusal c s) := by
  unfold execAccessRefusal
  try dsimp only
  repeat' first
    | (intro _; try dsimp only)
    | with_reducible assumption
    | with_reducible apply holds_next
    | with_reducible apply canon_foldl
    | with_reducible apply canon_foldl1
    | with_reducible apply canon_ite
    | with_reducible apply canon_ite1
    | with_reducible apply State.freezeCore_canon
    | with_reducible apply State.onCore_canon
    | (refine canon_fst ?_ ‹_ = (_, _)›)
    | split

theorem State.markDeclared_canon (s : State) (k : ℕ) (hc : s.Canon) : (State.markDeclared s k).Canon := by
  unfold State.markDeclared
  try dsimp only
  repeat' first
    | (intro _; try dsimp only)
    | with_reducible assumption
    | with_reducible apply holds_next
    | with_reducible apply canon_foldl
    | with_reducible apply canon_foldl1
    | with_reducible apply canon_ite
    | with_reducible apply canon_ite1
    | with_reducible apply State.onDie_canon
    | (refine canon_fst ?_ ‹_ = (_, _)›)
    | split

theorem State.declareDead_canon (s : State) (k : ℕ) (how : ℕ) (hc : s.Canon) : (State.declareDead s k how).Canon := by
  unfold State.declareDead
  try dsimp only
  repeat' first
    | (intro _; try dsimp only)
    | with_reducible assumption
    | with_reducible apply holds_next
    | with_reducible apply canon_foldl
    | with_reducible apply canon_foldl1
    | with_reducible apply canon_ite
    | with_reducible apply canon_ite1
    | with_reducible apply State.killCore_canon
    | with_reducible apply State.onQuad_canon
    | with_reducible apply State.recordCore_canon
    | with_reducible apply State.markDeclared_canon
    | with_reducible apply State.onCore_canon
    | (refine canon_fst ?_ ‹_ = (_, _)›)
    | split

theorem execFatalReport_canon (c : Sys2Proof.CoreId) (s : State) (hc : s.Canon) : Holds State.Canon (execFatalReport c s) := by
  unfold execFatalReport
  try dsimp only
  repeat' first
    | (intro _; try dsimp only)
    | with_reducible assumption
    | with_reducible apply holds_next
    | with_reducible apply canon_foldl
    | with_reducible apply canon_foldl1
    | with_reducible apply canon_ite
    | with_reducible apply canon_ite1
    | with_reducible apply State.declareDead_canon
    | (refine canon_fst ?_ ‹_ = (_, _)›)
    | split

theorem execHeartbeat_canon (p : Sys2Proof.PhysCore) (s : State) (hc : s.Canon) : Holds State.Canon (execHeartbeat p s) := by
  unfold execHeartbeat
  try dsimp only
  repeat' first
    | (intro _; try dsimp only)
    | with_reducible assumption
    | with_reducible apply holds_next
    | with_reducible apply canon_foldl
    | with_reducible apply canon_foldl1
    | with_reducible apply canon_ite
    | with_reducible apply canon_ite1
    | with_reducible apply State.onDie_canon
    | (refine canon_fst ?_ ‹_ = (_, _)›)
    | split

theorem State.declareSpare_canon (s : State) (p : Sys2Proof.PhysCore) (hc : s.Canon) : (State.declareSpare s p).Canon := by
  unfold State.declareSpare
  try dsimp only
  repeat' first
    | (intro _; try dsimp only)
    | with_reducible assumption
    | with_reducible apply holds_next
    | with_reducible apply canon_foldl
    | with_reducible apply canon_foldl1
    | with_reducible apply canon_ite
    | with_reducible apply canon_ite1
    | with_reducible apply State.record_canon
    | with_reducible apply State.onQuad_canon
    | (refine canon_fst ?_ ‹_ = (_, _)›)
    | split

theorem execHeartbeatMiss_canon (p : Sys2Proof.PhysCore) (s : State) (hc : s.Canon) : Holds State.Canon (execHeartbeatMiss p s) := by
  unfold execHeartbeatMiss
  try dsimp only
  repeat' first
    | (intro _; try dsimp only)
    | with_reducible assumption
    | with_reducible apply holds_next
    | with_reducible apply canon_foldl
    | with_reducible apply canon_foldl1
    | with_reducible apply canon_ite
    | with_reducible apply canon_ite1
    | with_reducible apply State.onDie_canon
    | with_reducible apply State.declareDead_canon
    | with_reducible apply State.declareSpare_canon
    | (refine canon_fst ?_ ‹_ = (_, _)›)
    | split

theorem State.losePackage_canon (s : State) (p : Nat) (h : s.Canon) : (s.losePackage p).Canon := by
  unfold State.losePackage
  extract_lets s1 s2 free s3 s4 s5
  have h1 : s1.Canon := canon_foldl _ (fun t x ht => State.keepFloors_canon t x ht) h
  have h2 : s2.Canon := canon_foldl _ (fun t x ht => State.flushCache_canon t x ht) h1
  clear_value s2
  have h3 : s3.Canon := ⟨h2.1, h2.2, h2.3, h2.4, SMap.wfFrom_filter _ h2.5, SMap.wfFrom_filter _ h2.6, h2.7, h2.8, h2.9,
    SMap.wfFrom_map _ (fun _ => rfl) h2.10, h2.11, SMap.wfFrom_filter _ h2.12, SMap.wfFrom_filter _ h2.13, h2.14, h2.15⟩
  have h4 : s4.Canon := State.onPkg_canon _ _ _ h3
  have h5 : s5.Canon := State.breakAll_canon _ _ h4
  exact canon_foldl _ (fun t x ht => State.loseFlights_canon t x p ht) h5

theorem State.declarePkg_canon (s : State) (p : ℕ) (how : ℕ) (by1 : Option ℕ) (hc : s.Canon) : (State.declarePkg s p how by1).Canon := by
  unfold State.declarePkg
  try dsimp only
  repeat' first
    | (intro _; try dsimp only)
    | with_reducible assumption
    | with_reducible apply holds_next
    | with_reducible apply canon_foldl
    | with_reducible apply canon_foldl1
    | with_reducible apply canon_ite
    | with_reducible apply canon_ite1
    | with_reducible apply State.onPkg_canon
    | with_reducible apply State.setSup_canon
    | with_reducible apply State.losePackage_canon
    | with_reducible apply State.record_canon
    | (refine canon_fst ?_ ‹_ = (_, _)›)
    | split

theorem execPkgDead_canon (pkg : BitVec 10) (s : State) (hc : s.Canon) : Holds State.Canon (execPkgDead pkg s) := by
  unfold execPkgDead
  try dsimp only
  repeat' first
    | (intro _; try dsimp only)
    | with_reducible assumption
    | with_reducible apply holds_next
    | with_reducible apply canon_foldl
    | with_reducible apply canon_foldl1
    | with_reducible apply canon_ite
    | with_reducible apply canon_ite1
    | with_reducible apply State.declarePkg_canon
    | (refine canon_fst ?_ ‹_ = (_, _)›)
    | split

theorem execPkgHeartbeat_canon (pkg : BitVec 10) (s : State) (hc : s.Canon) : Holds State.Canon (execPkgHeartbeat pkg s) := by
  unfold execPkgHeartbeat
  try dsimp only
  repeat' first
    | (intro _; try dsimp only)
    | with_reducible assumption
    | with_reducible apply holds_next
    | with_reducible apply canon_foldl
    | with_reducible apply canon_foldl1
    | with_reducible apply canon_ite
    | with_reducible apply canon_ite1
    | with_reducible apply State.onPkg_canon
    | with_reducible apply State.declarePkg_canon
    | (refine canon_fst ?_ ‹_ = (_, _)›)
    | split

theorem execLinkFailure_canon (a : BitVec 10) (b : BitVec 10) (rerouted : Bool) (s : State) (hc : s.Canon) : Holds State.Canon (execLinkFailure a b rerouted s) := by
  unfold execLinkFailure
  try dsimp only
  repeat' first
    | (intro _; try dsimp only)
    | with_reducible assumption
    | with_reducible apply holds_next
    | with_reducible apply canon_foldl
    | with_reducible apply canon_foldl1
    | with_reducible apply canon_ite
    | with_reducible apply canon_ite1
    | with_reducible apply State.declarePkg_canon
    | with_reducible apply canon_linksDown
    | (refine canon_fst ?_ ‹_ = (_, _)›)
    | split

theorem execUeRetransmit_canon (_c : Sys2Proof.CoreId) (_k : ℕ) (s : State) (hc : s.Canon) : Holds State.Canon (execUeRetransmit _c _k s) := by
  unfold execUeRetransmit
  try dsimp only
  repeat' first
    | (intro _; try dsimp only)
    | with_reducible assumption
    | with_reducible apply holds_next
    | with_reducible apply canon_foldl
    | with_reducible apply canon_foldl1
    | with_reducible apply canon_ite
    | with_reducible apply canon_ite1
    | (refine canon_fst ?_ ‹_ = (_, _)›)
    | split

theorem State.countError_canon (s : State) (d : ℕ) (hc : s.Canon) : (State.countError s d).Canon := by
  unfold State.countError
  try dsimp only
  repeat' first
    | (intro _; try dsimp only)
    | with_reducible assumption
    | with_reducible apply holds_next
    | with_reducible apply canon_foldl
    | with_reducible apply canon_foldl1
    | with_reducible apply canon_ite
    | with_reducible apply canon_ite1
    | with_reducible apply State.setSup_canon
    | (refine canon_fst ?_ ‹_ = (_, _)›)
    | split

theorem State.strikeBlock_canon (s : State) (t : ℕ) (key : ℕ) (hc : s.Canon) : (State.strikeBlock s t key).Canon := by
  unfold State.strikeBlock
  try dsimp only
  repeat' first
    | (intro _; try dsimp only)
    | with_reducible assumption
    | with_reducible apply holds_next
    | with_reducible apply canon_foldl
    | with_reducible apply canon_foldl1
    | with_reducible apply canon_ite
    | with_reducible apply canon_ite1
    | with_reducible apply State.onTile_canon
    | (refine canon_fst ?_ ‹_ = (_, _)›)
    | split

theorem execSoftError_canon (va : Sys2Proof.Word) (c : Sys2Proof.CoreId) (uncorrectable : Bool) (s : State) (hc : s.Canon) : Holds State.Canon (execSoftError va c uncorrectable s) := by
  unfold execSoftError
  try dsimp only
  repeat' first
    | (intro _; try dsimp only)
    | with_reducible assumption
    | with_reducible apply holds_next
    | with_reducible apply canon_foldl
    | with_reducible apply canon_foldl1
    | with_reducible apply canon_ite
    | with_reducible apply canon_ite1
    | with_reducible apply State.resolve_canon
    | with_reducible apply State.strikeBlock_canon
    | with_reducible apply State.setMark_canon
    | with_reducible apply State.countError_canon
    | (refine canon_fst ?_ ‹_ = (_, _)›)
    | split

theorem State.markTile_canon (s : State) (t : ℕ) (on : Bool) (hc : s.Canon) : (State.markTile s t on).Canon := by
  unfold State.markTile
  try dsimp only
  repeat' first
    | (intro _; try dsimp only)
    | with_reducible assumption
    | with_reducible apply holds_next
    | with_reducible apply canon_foldl
    | with_reducible apply canon_foldl1
    | with_reducible apply canon_ite
    | with_reducible apply canon_ite1
    | with_reducible apply State.setMarkOf_canon
    | (refine canon_fst ?_ ‹_ = (_, _)›)
    | split

theorem execSkimTurn_canon (qid : Sys2Proof.QuadId) (s : State) (hc : s.Canon) : Holds State.Canon (execSkimTurn qid s) := by
  unfold execSkimTurn
  try dsimp only
  repeat' first
    | (intro _; try dsimp only)
    | with_reducible assumption
    | with_reducible apply holds_next
    | with_reducible apply canon_foldl
    | with_reducible apply canon_foldl1
    | with_reducible apply canon_ite
    | with_reducible apply canon_ite1
    | with_reducible apply State.onQuad_canon
    | with_reducible apply State.markTile_canon
    | with_reducible apply State.remap_canon
    | (refine canon_fst ?_ ‹_ = (_, _)›)
    | split

theorem execSkimQuiesceTimeout_canon (qid : Sys2Proof.QuadId) (s : State) (hc : s.Canon) : Holds State.Canon (execSkimQuiesceTimeout qid s) := by
  unfold execSkimQuiesceTimeout
  try dsimp only
  repeat' first
    | (intro _; try dsimp only)
    | with_reducible assumption
    | with_reducible apply holds_next
    | with_reducible apply canon_foldl
    | with_reducible apply canon_foldl1
    | with_reducible apply canon_ite
    | with_reducible apply canon_ite1
    | with_reducible apply State.markTile_canon
    | with_reducible apply State.onQuad_canon
    | (refine canon_fst ?_ ‹_ = (_, _)›)
    | split

theorem execSkimResult_canon (qid : Sys2Proof.QuadId) (pass : Bool) (s : State) (hc : s.Canon) : Holds State.Canon (execSkimResult qid pass s) := by
  unfold execSkimResult
  try dsimp only
  repeat' first
    | (intro _; try dsimp only)
    | with_reducible assumption
    | with_reducible apply holds_next
    | with_reducible apply canon_foldl
    | with_reducible apply canon_foldl1
    | with_reducible apply canon_ite
    | with_reducible apply canon_ite1
    | with_reducible apply State.onQuad_canon
    | with_reducible apply State.onDie_canon
    | with_reducible apply State.record_canon
    | (refine canon_fst ?_ ‹_ = (_, _)›)
    | split

/-! ### Caches -/

theorem execTileCacheFill_canon (t : Sys2Proof.TileId) (pa : BitVec 57) (s : State) (hc : s.Canon) : Holds State.Canon (execTileCacheFill t pa s) := by
  unfold execTileCacheFill
  try dsimp only
  repeat' first
    | (intro _; try dsimp only)
    | with_reducible assumption
    | with_reducible apply holds_next
    | with_reducible apply canon_foldl
    | with_reducible apply canon_foldl1
    | with_reducible apply canon_ite
    | with_reducible apply canon_ite1
    | with_reducible apply State.fillBlock_canon
    | (refine canon_fst ?_ ‹_ = (_, _)›)
    | split

theorem execOwnershipGrant_canon (t : Sys2Proof.TileId) (pa : BitVec 57) (s : State) (hc : s.Canon) : Holds State.Canon (execOwnershipGrant t pa s) := by
  unfold execOwnershipGrant
  try dsimp only
  repeat' first
    | (intro _; try dsimp only)
    | with_reducible assumption
    | with_reducible apply holds_next
    | with_reducible apply canon_foldl
    | with_reducible apply canon_foldl1
    | with_reducible apply canon_ite
    | with_reducible apply canon_ite1
    | with_reducible apply State.recall_canon
    | with_reducible apply State.gather_canon
    | with_reducible apply State.grant_canon
    | with_reducible apply State.onSector_canon
    | (refine canon_fst ?_ ‹_ = (_, _)›)
    | split

theorem execLogicalClockTick_canon (t : Sys2Proof.TileId) (n : ℕ) (s : State) (hc : s.Canon) : Holds State.Canon (execLogicalClockTick t n s) := by
  unfold execLogicalClockTick
  try dsimp only
  repeat' first
    | (intro _; try dsimp only)
    | with_reducible assumption
    | with_reducible apply holds_next
    | with_reducible apply canon_foldl
    | with_reducible apply canon_foldl1
    | with_reducible apply canon_ite
    | with_reducible apply canon_ite1
    | with_reducible apply State.raiseClock_canon
    | (refine canon_fst ?_ ‹_ = (_, _)›)
    | split

theorem execClockMinUpdate_canon (pkg : Option (BitVec 10)) (s : State) (h : s.Canon) :
    Holds State.Canon (execClockMinUpdate pkg s) := by
  cases pkg with
  | none => exact canon_podMin h _
  | some p => exact canon_pkgMin h (SMap.wfFrom_put _ h.pkgMin (Nat.zero_le _))

theorem execPageWalk_canon (c : Sys2Proof.CoreId) (va : Sys2Proof.Word) (s : State) (hc : s.Canon) : Holds State.Canon (execPageWalk c va s) := by
  unfold execPageWalk
  try dsimp only
  repeat' first
    | (intro _; try dsimp only)
    | with_reducible assumption
    | with_reducible apply holds_next
    | with_reducible apply canon_foldl
    | with_reducible apply canon_foldl1
    | with_reducible apply canon_ite
    | with_reducible apply canon_ite1
    | with_reducible apply State.tlbFill_canon
    | (refine canon_fst ?_ ‹_ = (_, _)›)
    | split

/-! ### HostPod -/

theorem State.onControl_canon (s : State) (pkg : ℕ) (fn : ℕ) (f : Control → Control) (hc : s.Canon) : (State.onControl s pkg fn f).Canon := by
  unfold State.onControl
  try dsimp only
  repeat' first
    | (intro _; try dsimp only)
    | with_reducible assumption
    | with_reducible apply holds_next
    | with_reducible apply canon_foldl
    | with_reducible apply canon_foldl1
    | with_reducible apply canon_ite
    | with_reducible apply canon_ite1
    | with_reducible apply State.onPkg_canon
    | (refine canon_fst ?_ ‹_ = (_, _)›)
    | split

theorem State.markPart_canon (s : State) (pkg : ℕ) (part : ℕ) (on : Bool) (hc : s.Canon) : (State.markPart s pkg part on).Canon := by
  unfold State.markPart
  try dsimp only
  repeat' first
    | (intro _; try dsimp only)
    | with_reducible assumption
    | with_reducible apply holds_next
    | with_reducible apply canon_foldl
    | with_reducible apply canon_foldl1
    | with_reducible apply canon_ite
    | with_reducible apply canon_ite1
    | with_reducible apply State.setMarkOf_canon
    | (refine canon_fst ?_ ‹_ = (_, _)›)
    | split

theorem State.startMerge_canon (s : State) (pkg : ℕ) (fn : ℕ) (mask : BitVec 4) (hc : s.Canon) : (State.startMerge s pkg fn mask).Canon := by
  unfold State.startMerge
  try dsimp only
  repeat' first
    | (intro _; try dsimp only)
    | with_reducible assumption
    | with_reducible apply holds_next
    | with_reducible apply canon_foldl
    | with_reducible apply canon_foldl1
    | with_reducible apply canon_ite
    | with_reducible apply canon_ite1
    | with_reducible apply State.onControl_canon
    | with_reducible apply State.onPkg_canon
    | with_reducible apply State.seeTails_canon
    | with_reducible apply State.markPart_canon
    | (refine canon_fst ?_ ‹_ = (_, _)›)
    | split

theorem State.finishMerge_canon (s : State) (pkg : ℕ) (m : Merge) (hc : s.Canon) : (State.finishMerge s pkg m).Canon := by
  unfold State.finishMerge
  try dsimp only
  repeat' first
    | (intro _; try dsimp only)
    | with_reducible assumption
    | with_reducible apply holds_next
    | with_reducible apply canon_foldl
    | with_reducible apply canon_foldl1
    | with_reducible apply canon_ite
    | with_reducible apply canon_ite1
    | with_reducible apply State.emptyRo_canon
    | with_reducible apply State.flushCache_canon
    | with_reducible apply State.markPart_canon
    | with_reducible apply State.onPkg_canon
    | with_reducible apply State.setSup_canon
    | with_reducible apply State.tlbDrop_canon
    | with_reducible apply State.onControl_canon
    | (refine canon_fst ?_ ‹_ = (_, _)›)
    | split

theorem State.mergeOn_canon (s : State) (pkg : ℕ) (m : Merge) (hc : s.Canon) : (State.mergeOn s pkg m).Canon := by
  unfold State.mergeOn
  try dsimp only
  repeat' first
    | (intro _; try dsimp only)
    | with_reducible assumption
    | with_reducible apply holds_next
    | with_reducible apply canon_foldl
    | with_reducible apply canon_foldl1
    | with_reducible apply canon_ite
    | with_reducible apply canon_ite1
    | with_reducible apply State.onPkg_canon
    | with_reducible apply State.finishMerge_canon
    | (refine canon_fst ?_ ‹_ = (_, _)›)
    | split

theorem State.mergeStep_canon (s : State) (pkg : ℕ) (fn : ℕ) (mask : BitVec 4) (hc : s.Canon) : (State.mergeStep s pkg fn mask).Canon := by
  unfold State.mergeStep
  try dsimp only
  repeat' first
    | (intro _; try dsimp only)
    | with_reducible assumption
    | with_reducible apply holds_next
    | with_reducible apply canon_foldl
    | with_reducible apply canon_foldl1
    | with_reducible apply canon_ite
    | with_reducible apply canon_ite1
    | with_reducible apply State.mergeOn_canon
    | with_reducible apply State.onControl_canon
    | with_reducible apply State.startMerge_canon
    | (refine canon_fst ?_ ‹_ = (_, _)›)
    | split

theorem execMergeRequest_canon (pkg : BitVec 10) (fn : BitVec 2) (mask : BitVec 4) (s : State) (hc : s.Canon) : Holds State.Canon (execMergeRequest pkg fn mask s) := by
  unfold execMergeRequest
  try dsimp only
  repeat' first
    | (intro _; try dsimp only)
    | with_reducible assumption
    | with_reducible apply holds_next
    | with_reducible apply canon_foldl
    | with_reducible apply canon_foldl1
    | with_reducible apply canon_ite
    | with_reducible apply canon_ite1
    | with_reducible apply State.mergeStep_canon
    | (refine canon_fst ?_ ‹_ = (_, _)›)
    | split

theorem execMergeDrainTimeout_canon (pkg : BitVec 10) (s : State) (hc : s.Canon) : Holds State.Canon (execMergeDrainTimeout pkg s) := by
  unfold execMergeDrainTimeout
  try dsimp only
  repeat' first
    | (intro _; try dsimp only)
    | with_reducible assumption
    | with_reducible apply holds_next
    | with_reducible apply canon_foldl
    | with_reducible apply canon_foldl1
    | with_reducible apply canon_ite
    | with_reducible apply canon_ite1
    | with_reducible apply State.markPart_canon
    | with_reducible apply State.onPkg_canon
    | with_reducible apply State.onControl_canon
    | (refine canon_fst ?_ ‹_ = (_, _)›)
    | split

theorem State.askReport_canon (s : State) (pkg : ℕ) (fn : ℕ) (hc : s.Canon) : (State.askReport s pkg fn).Canon := by
  unfold State.askReport
  try dsimp only
  repeat' first
    | (intro _; try dsimp only)
    | with_reducible assumption
    | with_reducible apply holds_next
    | with_reducible apply canon_foldl
    | with_reducible apply canon_foldl1
    | with_reducible apply canon_ite
    | with_reducible apply canon_ite1
    | with_reducible apply State.onControl_canon
    | (refine canon_fst ?_ ‹_ = (_, _)›)
    | split

theorem State.attest_canon (s : State) (pkg : ℕ) (fn : ℕ) (hc : s.Canon) : (State.attest s pkg fn).Canon := by
  unfold State.attest
  try dsimp only
  repeat' first
    | (intro _; try dsimp only)
    | with_reducible assumption
    | with_reducible apply holds_next
    | with_reducible apply canon_foldl
    | with_reducible apply canon_foldl1
    | with_reducible apply canon_ite
    | with_reducible apply canon_ite1
    | with_reducible apply State.onControl_canon
    | with_reducible apply State.onPkg_canon
    | with_reducible apply State.hostPut_canon
    | (refine canon_fst ?_ ‹_ = (_, _)›)
    | split

theorem execAttestationRequest_canon (pkg : BitVec 10) (fn : BitVec 2) (s : State) (hc : s.Canon) : Holds State.Canon (execAttestationRequest pkg fn s) := by
  unfold execAttestationRequest
  try dsimp only
  repeat' first
    | (intro _; try dsimp only)
    | with_reducible assumption
    | with_reducible apply holds_next
    | with_reducible apply canon_foldl
    | with_reducible apply canon_foldl1
    | with_reducible apply canon_ite
    | with_reducible apply canon_ite1
    | with_reducible apply State.attest_canon
    | with_reducible apply State.askReport_canon
    | (refine canon_fst ?_ ‹_ = (_, _)›)
    | split

theorem State.hostAnswer_canon (s : State) (p f : Nat) (bar2 : Bool) (off n : Nat) (h : s.Canon) : (s.hostAnswer p f bar2 off n).Canon := by
  unfold State.hostAnswer
  dsimp only
  split
  · split
    · exact State.hostGet_canon _ _ _ h
    · split
      · exact State.holdAt_canon _ _ _ h
      · exact h
    · exact canon_hostReply h _
  · exact canon_ite (canon_hostReply h _) (canon_hostReply h _)

theorem State.controlWrite_canon (s : State) (pkg : ℕ) (fn : ℕ) (off : ℕ) (data : List Sys2Proof.Byte) (hc : s.Canon) : (State.controlWrite s pkg fn off data).Canon := by
  unfold State.controlWrite
  try dsimp only
  repeat' first
    | (intro _; try dsimp only)
    | with_reducible assumption
    | with_reducible apply holds_next
    | with_reducible apply canon_foldl
    | with_reducible apply canon_foldl1
    | with_reducible apply canon_ite
    | with_reducible apply canon_ite1
    | with_reducible apply State.onControl_canon
    | with_reducible apply State.mergeStep_canon
    | with_reducible apply State.attest_canon
    | with_reducible apply State.askReport_canon
    | (refine canon_fst ?_ ‹_ = (_, _)›)
    | split

theorem State.post_canon (s : State) (pkg : ℕ) (fn : ℕ) (rs : List HostReq) (hc : s.Canon) : (State.post s pkg fn rs).Canon := by
  unfold State.post
  try dsimp only
  repeat' first
    | (intro _; try dsimp only)
    | with_reducible assumption
    | with_reducible apply holds_next
    | with_reducible apply canon_foldl
    | with_reducible apply canon_foldl1
    | with_reducible apply canon_ite
    | with_reducible apply canon_ite1
    | with_reducible apply canon_posted
    | (refine canon_fst ?_ ‹_ = (_, _)›)
    | split

theorem State.unpost_canon (s : State) (e : Posted) (hc : s.Canon) : (State.unpost s e).Canon := by
  unfold State.unpost
  try dsimp only
  repeat' first
    | (intro _; try dsimp only)
    | with_reducible assumption
    | with_reducible apply holds_next
    | with_reducible apply canon_foldl
    | with_reducible apply canon_foldl1
    | with_reducible apply canon_ite
    | with_reducible apply canon_ite1
    | with_reducible apply canon_posted
    | (refine canon_fst ?_ ‹_ = (_, _)›)
    | split

theorem State.postSent_canon (s : State) (e : Posted) (hc : s.Canon) : (State.postSent s e).Canon := by
  unfold State.postSent
  try dsimp only
  repeat' first
    | (intro _; try dsimp only)
    | with_reducible assumption
    | with_reducible apply holds_next
    | with_reducible apply canon_foldl
    | with_reducible apply canon_foldl1
    | with_reducible apply canon_ite
    | with_reducible apply canon_ite1
    | with_reducible apply canon_posted
    | (refine canon_fst ?_ ‹_ = (_, _)›)
    | split

theorem State.postBytes_canon (s : State) (key : ℕ) (bs : List Sys2Proof.Byte) (hc : s.Canon) : (State.postBytes s key bs).Canon := by
  unfold State.postBytes
  try dsimp only
  repeat' first
    | (intro _; try dsimp only)
    | with_reducible assumption
    | with_reducible apply holds_next
    | with_reducible apply canon_foldl
    | with_reducible apply canon_foldl1
    | with_reducible apply canon_ite
    | with_reducible apply canon_ite1
    | with_reducible apply State.engineWrite_canon
    | (refine canon_fst ?_ ‹_ = (_, _)›)
    | split

theorem State.postWrite_canon (s : State) (e : Posted) (key : Nat) (bs : List Byte) (h : s.Canon) : (s.postWrite e key bs).Canon := by
  have h1 := State.unpost_canon s e h
  unfold State.postWrite
  cases s.postRoute e key bs.length with
  | ok => exact State.postBytes_canon _ _ _ h1
  | held => exact canon_ite (canon_posted h _) (State.postSent_canon _ _ (State.holdAt_canon _ _ _ h))
  | _ => exact h1

theorem State.postStep_canon (s : State) (pkg : Nat) (h : s.Canon) : (s.postStep pkg).Canon := by
  unfold State.postStep
  split
  · exact h
  · split
    · exact h
    · split
      · exact State.postWrite_canon _ _ _ _ h
      · exact State.unpost_canon _ _ (State.controlWrite_canon _ _ _ _ _ h)
      · exact State.unpost_canon _ _ (State.hostAnswer_canon _ _ _ _ _ _ h)

theorem State.postOn_canon (pkg n : Nat) (s : State) (h : s.Canon) : (State.postOn pkg n s).Canon := by
  induction n generalizing s with
  | zero => exact h
  | succ n ih => exact ih _ (State.postStep_canon _ _ h)

theorem State.postAll_canon (s : State) (pkg : Nat) (h : s.Canon) : (s.postAll pkg).Canon := State.postOn_canon _ _ _ h

theorem execHostRead_canon (pkg : BitVec 10) (fn : BitVec 2) (off : BarAddr) (n : Nat) (s : State) (h : s.Canon) :
    Holds State.Canon (execHostRead pkg fn off n s) := State.postAll_canon _ _ (State.post_canon _ _ _ _ h)

theorem execHostWrite_canon (pkg : BitVec 10) (fn : BitVec 2) (bar2 : Bool) (off : BitVec 42) (data : List Sys2Proof.Byte) (s : State) (hc : s.Canon) : Holds State.Canon (execHostWrite pkg fn bar2 off data s) := by
  unfold execHostWrite
  try dsimp only
  repeat' first
    | (intro _; try dsimp only)
    | with_reducible assumption
    | with_reducible apply holds_next
    | with_reducible apply canon_foldl
    | with_reducible apply canon_foldl1
    | with_reducible apply canon_ite
    | with_reducible apply canon_ite1
    | with_reducible apply State.postAll_canon
    | with_reducible apply State.post_canon
    | (refine canon_fst ?_ ‹_ = (_, _)›)
    | split

theorem execHostTailWrite_canon (q : Sys2Proof.QueueId) (rec : BitVec 512) (s : State) (hc : s.Canon) : Holds State.Canon (execHostTailWrite q rec s) := by
  unfold execHostTailWrite
  try dsimp only
  repeat' first
    | (intro _; try dsimp only)
    | with_reducible assumption
    | with_reducible apply holds_next
    | with_reducible apply canon_foldl
    | with_reducible apply canon_foldl1
    | with_reducible apply canon_ite
    | with_reducible apply canon_ite1
    | with_reducible apply State.postAll_canon
    | with_reducible apply State.post_canon
    | (refine canon_fst ?_ ‹_ = (_, _)›)
    | split

theorem execBoot_canon (pkg : BitVec 10) (s : State) (hc : s.Canon) : Holds State.Canon (execBoot pkg s) := by
  unfold execBoot
  try dsimp only
  repeat' first
    | (intro _; try dsimp only)
    | with_reducible assumption
    | with_reducible apply holds_next
    | with_reducible apply canon_foldl
    | with_reducible apply canon_foldl1
    | with_reducible apply canon_ite
    | with_reducible apply canon_ite1
    | with_reducible apply State.onQuad_canon
    | with_reducible apply State.onPkg_canon
    | (refine canon_fst ?_ ‹_ = (_, _)›)
    | split

theorem execThermalTrip_canon (d : Sys2Proof.DieId) (s : State) (hc : s.Canon) : Holds State.Canon (execThermalTrip d s) := by
  unfold execThermalTrip
  try dsimp only
  repeat' first
    | (intro _; try dsimp only)
    | with_reducible assumption
    | with_reducible apply holds_next
    | with_reducible apply canon_foldl
    | with_reducible apply canon_foldl1
    | with_reducible apply canon_ite
    | with_reducible apply canon_ite1
    | with_reducible apply State.declarePkg_canon
    | with_reducible apply State.onDie_canon
    | (refine canon_fst ?_ ‹_ = (_, _)›)
    | split

theorem execIslandClockChange_canon (pkg : BitVec 10) (island : ℕ) (mhz : ℕ) (mv : ℕ) (s : State) (hc : s.Canon) : Holds State.Canon (execIslandClockChange pkg island mhz mv s) := by
  unfold execIslandClockChange
  try dsimp only
  repeat' first
    | (intro _; try dsimp only)
    | with_reducible assumption
    | with_reducible apply holds_next
    | with_reducible apply canon_foldl
    | with_reducible apply canon_foldl1
    | with_reducible apply canon_ite
    | with_reducible apply canon_ite1
    | with_reducible apply State.onPkg_canon
    | (refine canon_fst ?_ ‹_ = (_, _)›)
    | split

theorem execCxlHotRemove_canon (pkg : BitVec 10) (port : BitVec 1) (cap : ℕ) (s : State) (hc : s.Canon) : Holds State.Canon (execCxlHotRemove pkg port cap s) := by
  unfold execCxlHotRemove
  try dsimp only
  repeat' first
    | (intro _; try dsimp only)
    | with_reducible assumption
    | with_reducible apply holds_next
    | with_reducible apply canon_foldl
    | with_reducible apply canon_foldl1
    | with_reducible apply canon_ite
    | with_reducible apply canon_ite1
    | with_reducible apply State.onPkg_canon
    | (refine canon_fst ?_ ‹_ = (_, _)›)
    | split

theorem State.clearMemory_canon (s : State) (p : ℕ) (hc : s.Canon) : (State.clearMemory s p).Canon := by
  unfold State.clearMemory
  try dsimp only
  repeat' first
    | (intro _; try dsimp only)
    | with_reducible assumption
    | with_reducible apply holds_next
    | with_reducible apply canon_foldl
    | with_reducible apply canon_foldl1
    | with_reducible apply canon_ite
    | with_reducible apply canon_ite1
    | with_reducible apply State.zeroRange_canon
    | (refine canon_fst ?_ ‹_ = (_, _)›)
    | split

theorem execPowerOff_canon (pkg : BitVec 10) (s : State) (h : s.Canon) : Holds State.Canon (execPowerOff pkg s) := by
  unfold execPowerOff
  extract_lets p s1 s2
  have h1 : s1.Canon := State.clearMemory_canon _ _ (State.losePackage_canon _ _ h)
  clear_value s1
  have h2 : s2.Canon := ⟨h1.1, h1.2, h1.3, h1.4, h1.5, h1.6, SMap.wfFrom_filter _ h1.7, SMap.wfFrom_filter _ h1.8, h1.9, h1.10,
    h1.11, h1.12, h1.13, h1.14, h1.15⟩
  clear_value s2
  exact State.onPkg_canon _ _ _ h2

theorem execKernelLabel_canon (pkg : BitVec 10) (part : BitVec 2) (ctx : BitVec 12) (entry : Sys2Proof.Word) (s : State) (hc : s.Canon) : Holds State.Canon (execKernelLabel pkg part ctx entry s) := by
  unfold execKernelLabel
  try dsimp only
  repeat' first
    | (intro _; try dsimp only)
    | with_reducible assumption
    | with_reducible apply holds_next
    | with_reducible apply canon_foldl
    | with_reducible apply canon_foldl1
    | with_reducible apply canon_ite
    | with_reducible apply canon_ite1
    | with_reducible apply State.onPkg_canon
    | (refine canon_fst ?_ ‹_ = (_, _)›)
    | split

theorem State.supAct_canon (s : State) (a : SupAct) (h : s.Canon) : (s.supAct a).Canon := by
  unfold State.supAct
  cases a with
  | tpc c v => exact canon_ite (State.onCore_canon _ _ _ h) h
  | release c => exact State.onCore_canon _ _ _ h
  | reserve d bid on =>
    exact canon_ite (canon_ite (State.onBar_canon _ _ _ _ h) h) (canon_ite (State.onBar_canon _ _ _ _ h) h)
  | close e on => exact canon_ite (canon_ite h (canon_closures h _)) (canon_closures h _)
  | extend p m d => exact State.onPkg_canon _ _ _ h
  | interleave p q n e => exact State.onPkg_canon _ _ _ h

/-! ### Fetch -/

theorem State.fetchTrap_canon (s : State) (k : ℕ) (cause : ℕ) (va : Sys2Proof.Word) (hc : s.Canon) : (State.fetchTrap s k cause va).Canon := by
  unfold State.fetchTrap
  try dsimp only
  repeat' first
    | (intro _; try dsimp only)
    | with_reducible assumption
    | with_reducible apply holds_next
    | with_reducible apply canon_foldl
    | with_reducible apply canon_foldl1
    | with_reducible apply canon_ite
    | with_reducible apply canon_ite1
    | with_reducible apply State.takeTrap_canon
    | with_reducible apply State.await_canon
    | (refine canon_fst ?_ ‹_ = (_, _)›)
    | split

theorem State.codeBytes_canon (s : State) (k : ℕ) (key : ℕ) (hc : s.Canon) : (State.codeBytes s k key).1.Canon := by
  unfold State.codeBytes
  try dsimp only
  repeat' first
    | (intro _; try dsimp only)
    | with_reducible assumption
    | with_reducible apply holds_next
    | with_reducible apply canon_foldl
    | with_reducible apply canon_foldl1
    | with_reducible apply canon_ite
    | with_reducible apply canon_ite1
    | with_reducible apply State.roBytes_canon
    | with_reducible apply State.fetchBytes_canon
    | (refine canon_fst ?_ ‹_ = (_, _)›)
    | split

theorem State.codeWord_canon (s : State) (k : ℕ) (va : Sys2Proof.Word) (key : ℕ) (hc : s.Canon) : (State.codeWord s k va key).1.Canon := by
  unfold State.codeWord
  try dsimp only
  repeat' first
    | (intro _; try dsimp only)
    | with_reducible assumption
    | with_reducible apply holds_next
    | with_reducible apply canon_foldl
    | with_reducible apply canon_foldl1
    | with_reducible apply canon_ite
    | with_reducible apply canon_ite1
    | with_reducible apply State.await_canon
    | with_reducible apply State.fetchTrap_canon
    | with_reducible apply State.codeBytes_canon
    | (refine canon_fst ?_ ‹_ = (_, _)›)
    | split

theorem State.fetchWord_canon (s : State) (k : ℕ) (va : Sys2Proof.Word) (hc : s.Canon) : (State.fetchWord s k va).1.Canon := by
  unfold State.fetchWord
  try dsimp only
  repeat' first
    | (intro _; try dsimp only)
    | with_reducible assumption
    | with_reducible apply holds_next
    | with_reducible apply canon_foldl
    | with_reducible apply canon_foldl1
    | with_reducible apply canon_ite
    | with_reducible apply canon_ite1
    | with_reducible apply State.fetchTrap_canon
    | with_reducible apply State.resolve_canon
    | with_reducible apply State.codeWord_canon
    | with_reducible apply State.await_canon
    | with_reducible apply State.refuseAt_canon
    | with_reducible apply State.holdAt_canon
    | (refine canon_fst ?_ ‹_ = (_, _)›)
    | split

theorem State.keepStep_canon (s : State) (k : ℕ) (was : Core) (hc : s.Canon) : (State.keepStep s k was).Canon := by
  unfold State.keepStep
  try dsimp only
  repeat' first
    | (intro _; try dsimp only)
    | with_reducible assumption
    | with_reducible apply holds_next
    | with_reducible apply canon_foldl
    | with_reducible apply canon_foldl1
    | with_reducible apply canon_ite
    | with_reducible apply canon_ite1
    | with_reducible apply State.stepGang_canon
    | (refine canon_fst ?_ ‹_ = (_, _)›)
    | split

theorem State.fetch_canon (s : State) (k : ℕ) (hc : s.Canon) : (State.fetch s k).1.Canon := by
  unfold State.fetch
  try dsimp only
  repeat' first
    | (intro _; try dsimp only)
    | with_reducible assumption
    | with_reducible apply holds_next
    | with_reducible apply canon_foldl
    | with_reducible apply canon_foldl1
    | with_reducible apply canon_ite
    | with_reducible apply canon_ite1
    | with_reducible apply State.await_canon
    | with_reducible apply State.fetchWord_canon
    | (refine canon_fst ?_ ‹_ = (_, _)›)
    | split

theorem State.after_canon (s : State) (was : Core) (h : s.Canon) : (s.after was).Canon :=
  canon_ite (canon_agenda (canon_time (State.keepStep_canon _ _ _ h) _) _) (canon_time (State.keepStep_canon _ _ _ h) _)

theorem State.drop_canon (s : State) (t : ℕ) (blk : ℕ) (hc : s.Canon) : (State.drop s t blk).Canon := by
  unfold State.drop
  try dsimp only
  repeat' first
    | (intro _; try dsimp only)
    | with_reducible assumption
    | with_reducible apply holds_next
    | with_reducible apply canon_foldl
    | with_reducible apply canon_foldl1
    | with_reducible apply canon_ite
    | with_reducible apply canon_ite1
    | with_reducible apply State.onTile_canon
    | (refine canon_fst ?_ ‹_ = (_, _)›)
    | split

theorem State.evictWord_canon (s : State) (k : ℕ) (i : ℕ) (hc : s.Canon) : (State.evictWord s k i).Canon := by
  unfold State.evictWord
  try dsimp only
  repeat' first
    | (intro _; try dsimp only)
    | with_reducible assumption
    | with_reducible apply holds_next
    | with_reducible apply canon_foldl
    | with_reducible apply canon_foldl1
    | with_reducible apply canon_ite
    | with_reducible apply canon_ite1
    | with_reducible apply State.writeHome_canon
    | with_reducible apply State.onCore_canon
    | (refine canon_fst ?_ ‹_ = (_, _)›)
    | split

theorem State.idleAct_canon (s : State) (a : Act) (h : s.Canon) : (s.idleAct a).Canon := by
  cases a with
  | event i => exact h
  | core c => exact h
  | elapse n => exact canon_time h _
  | dropRo t blk => exact State.drop_canon _ _ _ h
  | dropBlock t blk => exact State.dropBlock_canon _ _ _ h
  | evict c i => exact State.evictWord_canon _ _ _ h
  | gather key => exact State.gather_canon _ _ _ h
  | grant c n => exact State.copyGrant_canon _ _ _ h
  | sup a => exact State.supAct_canon _ _ h
  | posted p => exact State.postAll_canon _ _ h

end Machine
end Sys2Proof
end

