-- ==== Sys2Proof/Machine/FolkorText.lean ====
section
/-! DEFINITION. Folkor source text: tokens, integer and floating literals, expressions over the integers, and the tables that
guard expressions become (03 R49 to R51, R54, R55). No step of the machine reads it: an assembler runs before the machine. -/

namespace Sys2Proof
namespace Folkor

/-! ## Tokens -/

/-- A token of a source line (R50, R51): a spelled name, an integer and whether it is written in decimal, a number m · 10^e
written with a point or an exponent, one character, `<<` or `>>`. -/
inductive Tok where
  | name (s : List Char)
  | int (n : Nat) (decimal : Bool)
  | dec (m : Nat) (e : Int)
  | op (c : Char)
  | shl
  | shr
deriving DecidableEq, Repr

/-- A character that begins an identifier (R50). -/
def starts (c : Char) : Bool := c.isAlpha || c == '_'

/-- A character that continues an identifier (R50). -/
def continues (c : Char) : Bool := starts c || c.isDigit

/-- A spelling in lower case, for the names that may be written in any mix of cases (R50). -/
def low (s : List Char) : List Char := s.map Char.toLower

/-- The value of a digit in base b. -/
def digit (b : Nat) (c : Char) : Option Nat :=
  let n := c.toNat
  let v := if c.isDigit then n - 48 else if 97 ≤ n ∧ n ≤ 102 then n - 87 else if 65 ≤ n ∧ n ≤ 70 then n - 55 else b
  if v < b then some v else none

/-- The digits after a first one; `_` may stand between any two of them (R51). -/
def digitsFrom (b : Nat) : List Char → Nat → Option Nat
  | [], n => some n
  | '_' :: c :: cs, n => (digit b c).bind fun d => digitsFrom b cs (n * b + d)
  | c :: cs, n => (digit b c).bind fun d => digitsFrom b cs (n * b + d)

/-- An unsigned integer in base b (R51). -/
def digits (b : Nat) : List Char → Option Nat
  | [] => none
  | c :: cs => (digit b c).bind fun d => digitsFrom b cs d

/-- Decimal digits and nothing else. -/
def plain (cs : List Char) : Option Nat := if cs.all Char.isDigit then digits 10 cs else none

/-- The part of a spelling before its first `e`, and the rest. -/
def atExponent (cs : List Char) : List Char × List Char := cs.span fun c => c != 'e' && c != 'E'

/-- The exponent of a floating literal: `tail` is what the digits are followed by in one spelling, `rest` what comes after. -/
def exponent (tail rest : List Char) : Option (Int × List Char) :=
  match tail, rest with
  | [], _ => some (0, rest)
  | [_], '-' :: r => (plain (r.span Char.isDigit).1).map fun n => (-(n : Int), (r.span Char.isDigit).2)
  | [_], '+' :: r => (plain (r.span Char.isDigit).1).map fun n => ((n : Int), (r.span Char.isDigit).2)
  | _ :: ds, _ => (plain ds).map fun n => ((n : Int), rest)

/-- A literal that begins with a digit (R51), and what follows it. -/
def number (cs : List Char) : Option (Tok × List Char) :=
  let r := cs.span continues
  match r.1 with
  | '0' :: 'x' :: ds => (digits 16 ds).map fun n => (.int n false, r.2)
  | '0' :: 'b' :: ds => (digits 2 ds).map fun n => (.int n false, r.2)
  | ds =>
    let ip := atExponent ds
    match ip.2, r.2 with
    | [], '.' :: c :: r2 =>
      if c.isDigit then
        let f := (c :: r2).span continues
        let fp := atExponent f.1
        match plain ip.1, plain (ip.1 ++ fp.1), exponent fp.2 f.2 with
        | some _, some m, some (e, rest) => some (.dec m (e - fp.1.length), rest)
        | _, _, _ => none
      else (digits 10 ds).map fun n => (.int n true, r.2)
    | [], rest => (digits 10 ds).map fun n => (.int n true, rest)
    | t, rest =>
      match plain ip.1, exponent t rest with
      | some m, some (e, rest) => some (.dec m e, rest)
      | _, _ => none

/-- The tokens of a line without its comment; none where a character begins no token. -/
def lex : Nat → List Char → Option (List Tok)
  | _, [] => some []
  | 0, _ :: _ => none
  | n + 1, c :: cs =>
    if c == ' ' || c == '\t' || c == '\r' then lex n cs
    else if starts c then
      let r := (c :: cs).span continues
      (lex n r.2).map fun ts => .name r.1 :: ts
    else if c.isDigit then (number (c :: cs)).bind fun r => (lex n r.2).map fun ts => r.1 :: ts
    else
      match c, cs with
      | '<', '<' :: r => (lex n r).map fun ts => .shl :: ts
      | '>', '>' :: r => (lex n r).map fun ts => .shr :: ts
      | _, _ =>
        if "?:()<>,=+-*/&|^~[].".toList.contains c then (lex n cs).map fun ts => .op c :: ts else none

/-- The tokens of a source line: a comment begins with `;` and runs to the end of the line (R49). -/
def tokens (line : List Char) : Option (List Tok) :=
  let t := line.takeWhile fun c => c != ';'
  lex t.length t

/-! ## Expressions (R51) -/

/-- The operators with two operands. -/
inductive BinOp where
  | mul | div | add | sub | shl | shr | and | xor | or
deriving DecidableEq, Repr

/-- The precedence of C, higher first (R51). -/
def BinOp.prec : BinOp → Nat
  | .mul | .div => 6
  | .add | .sub => 5
  | .shl | .shr => 4
  | .and => 3
  | .xor => 2
  | .or => 1

/-- An expression; `here` is `.`, the address of the current instruction or data item. -/
inductive Expr where
  | int (n : Nat)
  | sym (s : List Char)
  | here
  | neg (e : Expr)
  | not (e : Expr)
  | bin (o : BinOp) (a b : Expr)
deriving DecidableEq, Repr

/-- The operator that a token spells. -/
def binOp : Tok → Option BinOp
  | .op '*' => some .mul | .op '/' => some .div | .op '+' => some .add | .op '-' => some .sub
  | .shl => some .shl | .shr => some .shr | .op '&' => some .and | .op '^' => some .xor | .op '|' => some .or
  | _ => none

/-- What the parser reads next: an operand, operators of at least a precedence, or what follows a left operand. -/
inductive Mode where
  | operand
  | climb (p : Nat)
  | tail (p : Nat) (lhs : Expr)

/-- The longest expression at the front of the tokens, and the rest. -/
def parse : Nat → Mode → List Tok → Option (Expr × List Tok)
  | 0, _, _ => none
  | n + 1, .operand, ts =>
    match ts with
    | .int v _ :: r => some (.int v, r)
    | .name s :: r => some (.sym s, r)
    | .op '.' :: r => some (.here, r)
    | .op '-' :: r => (parse n .operand r).map fun x => (.neg x.1, x.2)
    | .op '~' :: r => (parse n .operand r).map fun x => (.not x.1, x.2)
    | .op '(' :: r =>
      match parse n (.climb 1) r with
      | some (e, .op ')' :: r) => some (e, r)
      | _ => none
    | _ => none
  | n + 1, .climb p, ts => (parse n .operand ts).bind fun x => parse n (.tail p x.1) x.2
  | n + 1, .tail p lhs, ts =>
    match ts with
    | [] => some (lhs, [])
    | t :: r =>
      match binOp t with
      | none => some (lhs, ts)
      | some o =>
        if o.prec < p then some (lhs, ts)
        else (parse n (.climb (o.prec + 1)) r).bind fun x => parse n (.tail p (.bin o lhs x.1)) x.2

/-- The longest expression at the front. -/
def exprFront (ts : List Tok) : Option (Expr × List Tok) := parse (4 * ts.length + 4) (.climb 1) ts

/-- The expression that the tokens are. -/
def exprAll (ts : List Tok) : Option Expr :=
  match exprFront ts with
  | some (e, []) => some e
  | _ => none

/-- Two's complement AND over the integers. -/
def bitAnd : Int → Int → Int
  | .ofNat a, .ofNat b => .ofNat (a &&& b)
  | .ofNat a, .negSucc b => .ofNat (a - (a &&& b))
  | .negSucc a, .ofNat b => .ofNat (b - (b &&& a))
  | .negSucc a, .negSucc b => .negSucc (a ||| b)

def bitNot (a : Int) : Int := -a - 1

def bitOr (a b : Int) : Int := bitNot (bitAnd (bitNot a) (bitNot b))

/-- An operator over the integers (R51): `/` truncates towards zero and `>>` is arithmetic; a division by zero or a negative
shift has no value. -/
def BinOp.eval (o : BinOp) (a b : Int) : Option Int :=
  match o with
  | .mul => some (a * b)
  | .div => if b = 0 then none else some (a.tdiv b)
  | .add => some (a + b)
  | .sub => some (a - b)
  | .shl => if b < 0 then none else some (a * 2 ^ b.toNat)
  | .shr => if b < 0 then none else some (a / 2 ^ b.toNat)
  | .and => some (bitAnd a b)
  | .xor => some (bitOr a b - bitAnd a b)
  | .or => some (bitOr a b)

/-- The exact value of an expression (R51); none where a symbol has none. -/
def Expr.eval (env : List Char → Option Int) (here : Int) : Expr → Option Int
  | .int n => some n
  | .sym s => env s
  | .here => some here
  | .neg e => (e.eval env here).map fun x => -x
  | .not e => (e.eval env here).map bitNot
  | .bin o a b => (a.eval env here).bind fun x => (b.eval env here).bind fun y => o.eval x y

/-- How often the base of the image enters the value of an expression: 1 for an address, 0 for a distance (R66). `base` says it of
a symbol; none where the base does not enter it so often for every base. -/
def Expr.baseCount (base : List Char → Option Int) : Expr → Option Int
  | .int _ => some 0
  | .sym s => base s
  | .here => some 1
  | .neg e => (e.baseCount base).map fun x => -x
  | .not e => (e.baseCount base).map fun x => -x
  | .bin .add a b => (a.baseCount base).bind fun x => (b.baseCount base).map fun y => x + y
  | .bin .sub a b => (a.baseCount base).bind fun x => (b.baseCount base).map fun y => x - y
  | .bin _ a b => if a.baseCount base = some 0 ∧ b.baseCount base = some 0 then some 0 else none

/-- The value of a field of n bits that holds an unsigned number (R51). -/
def uns (n : Nat) (v : Int) : Option (BitVec n) := if 0 ≤ v ∧ v < 2 ^ n then some (BitVec.ofInt n v) else none

/-- The value of a field of n bits that holds a signed number (R51). -/
def sgn (n : Nat) (v : Int) : Option (BitVec n) :=
  if -(2 ^ (n - 1)) ≤ v ∧ v < 2 ^ (n - 1) then some (BitVec.ofInt n v) else none

/-- The value of an item of n bits, as signed or as unsigned (R67). -/
def item (n : Nat) (v : Int) : Option (BitVec n) :=
  if -(2 ^ (n - 1)) ≤ v ∧ v < 2 ^ n then some (BitVec.ofInt n v) else none

/-! ## Names with a number, and guards (R52, R54 to R56) -/

/-- What follows a fixed beginning. -/
def after : List Char → List Char → Option (List Char)
  | [], s => some s
  | p :: ps, c :: cs => if p == c then after ps cs else none
  | _ :: _, [] => none

/-- k for the name `pre` followed by the decimal number k below n, written without a leading zero; `s` is in lower case. -/
def indexed (pre : String) (n : Nat) (s : List Char) : Option Nat :=
  match after pre.toList s with
  | some (c :: cs) => if c == '0' && !cs.isEmpty then none else (plain (c :: cs)).bind fun k => if k < n then some k else none
  | _ => none

/-- The number of a predicate of a guard: vp0 to vp7 in a vector word, p0 to p7 in any other (R56). -/
def predName (vec : Bool) (s : List Char) : Option PReg :=
  (indexed (if vec then "vp" else "p") 8 (low s)).map (BitVec.ofNat 3)

/-- A guard or a table as written (R54, R55). -/
inductive TableText where
  | expr (e : Expr)
  | raw (t : Expr) (a b c : List Char)
deriving DecidableEq, Repr

/-- A table: its eight bits and three selectors (R71). -/
structure Table where
  t : BitVec 8
  a : PReg
  b : PReg
  c : PReg
deriving DecidableEq, Repr

/-- The predicates that an expression names besides p0 and vp0, in the order of first appearance (step 1 of R54); none where it
holds anything but names of its class, the constants 0 and 1, `~ & ^ |` and parentheses. -/
def slots (vec : Bool) : Expr → List PReg → Option (List PReg)
  | .int n, acc => if n < 2 then some acc else none
  | .sym s, acc => (predName vec s).map fun p => if p = 0 ∨ p ∈ acc then acc else acc ++ [p]
  | .here, _ => none
  | .neg _, _ => none
  | .not e, acc => slots vec e acc
  | .bin o a b, acc => if o = .and ∨ o = .xor ∨ o = .or then (slots vec a acc).bind (slots vec b) else none

/-- The truth value of an expression for combination i of the slots (step 2 of R54). -/
def truth (vec : Bool) (ps : List PReg) (i : Nat) : Expr → Bool
  | .int n => n == 1
  | .sym s =>
    match predName vec s with
    | some p => p == 0 || i.testBit (2 - ps.idxOf p)
    | none => false
  | .here => false
  | .neg _ => false
  | .not e => !truth vec ps i e
  | .bin .and a b => truth vec ps i a && truth vec ps i b
  | .bin .xor a b => truth vec ps i a != truth vec ps i b
  | .bin _ a b => truth vec ps i a || truth vec ps i b

/-- The table of an expression (R54). -/
def tableOf (vec : Bool) (e : Expr) : Option Table :=
  (slots vec e []).bind fun ps =>
    if ps.length ≤ 3 then
      some { t := BitVec.ofNat 8 ((List.range 8).foldl (fun n i => n + if truth vec ps i e then 2 ^ i else 0) 0),
             a := ps.getD 0 0, b := ps.getD 1 0, c := ps.getD 2 0 }
    else none

/-- The table of a guard as written: a raw one is placed as written, its T a value that no address enters (R55, R66). -/
def TableText.table (vec : Bool) (env base : List Char → Option Int) (here : Int) : TableText → Option Table
  | .expr e => tableOf vec e
  | .raw t a b c =>
    match (if t.baseCount base = some 0 then t.eval env here else none).bind (uns 8), predName vec a, predName vec b, predName vec c with
    | some t, some a, some b, some c => some { t := t, a := a, b := b, c := c }
    | _, _, _, _ => none

/-- A raw table `<T: a, b, c>` or an expression at the front of the tokens, and the rest. -/
def tableFront (ts : List Tok) : Option (TableText × List Tok) :=
  match ts with
  | .op '<' :: r =>
    match exprFront r with
    | some (t, .op ':' :: .name a :: .op ',' :: .name b :: .op ',' :: .name c :: .op '>' :: r) => some (.raw t a b c, r)
    | _ => none
  | ts => (exprFront ts).map fun x => (.expr x.1, x.2)

/-! ## Lines (R49) -/

/-- What a line says after its label: nothing, a directive, or an instruction with its guard; suffixes in lower case. -/
inductive Body where
  | blank
  | directive (name : List Char) (ops : List (List Tok))
  | word (guard : Option TableText) (name : List Char) (sufs : List (List Char)) (ops : List (List Tok))
deriving DecidableEq, Repr

/-- A source line. -/
structure Line where
  label : Option (List Char)
  body : Body
deriving DecidableEq, Repr

/-- The operands, separated by commas outside brackets, of tokens read so far `cur`, the current operand reversed. -/
def splitOps : List Tok → Nat → List Tok → List (List Tok)
  | [], _, cur => [cur.reverse]
  | .op ',' :: ts, 0, cur => cur.reverse :: splitOps ts 0 []
  | t :: ts, d, cur =>
    splitOps ts (if t = .op '(' ∨ t = .op '[' ∨ t = .op '<' then d + 1
      else if t = .op ')' ∨ t = .op ']' ∨ t = .op '>' then d - 1 else d) (t :: cur)

/-- The operands of a line; none where one of them is empty. -/
def operands (ts : List Tok) : Option (List (List Tok)) :=
  if ts.isEmpty then some []
  else
    let os := splitOps ts 0 []
    if os.any List.isEmpty then none else some os

/-- The suffixes that follow a mnemonic, and the rest. -/
def suffixes : List Tok → List (List Char) → List (List Char) × List Tok
  | .op '.' :: .name s :: ts, acc => suffixes ts (acc ++ [low s])
  | ts, acc => (acc, ts)

/-- An instruction after its guard. -/
def wordBody (g : Option TableText) : List Tok → Option Body
  | .name m :: ts =>
    let r := suffixes ts []
    (operands r.2).map fun os => .word g (low m) r.1 os
  | _ => none

/-- What follows the label. A guard stands before a mnemonic only. DESIGN CHOICE, Assumption 100. -/
def body (ts : List Tok) : Option Body :=
  match ts with
  | [] => some .blank
  | .op '.' :: .name d :: r => (operands r).map fun os => .directive (low d) os
  | .op '?' :: .op '(' :: r =>
    match exprFront r with
    | some (e, .op ')' :: r) => wordBody (some (.expr e)) r
    | _ => none
  | .op '?' :: .op '<' :: r => (tableFront (.op '<' :: r)).bind fun x => wordBody (some x.1) x.2
  | ts => wordBody none ts

/-- The parts of a line (R49); none where it has none of the forms. -/
def line (cs : List Char) : Option Line :=
  (tokens cs).bind fun ts =>
    match ts with
    | .name l :: .op ':' :: r => (body r).map fun b => { label := some l, body := b }
    | ts => (body ts).map fun b => { label := none, body := b }

end Folkor
end Sys2Proof
end

