-- ==== Sys2Proof/Machine/FolkorNames.lean ====
section
/-! DEFINITION. The names that Folkor gives registers, queues, control registers, suffixes, formats and handle fields (03 R50, R52,
R57; R90, R169, R189, R358). Every name is compared in lower case. -/

namespace Sys2Proof
namespace Folkor

/-- What a list of names gives a spelling in lower case. -/
def assoc {α : Type} (l : List (String × α)) (s : List Char) : Option α :=
  (l.find? fun e => e.1.toList == s).map Prod.snd

/-! ## Operands (R52) -/

/-- x0 to x31; `lr` is x1 and `sp` is x2. -/
def xName (s : List Char) : Option XReg :=
  (assoc [("lr", 1#5), ("sp", 2#5)] s).or ((indexed "x" 32 s).map (BitVec.ofNat 5))

/-- h0 to h15. -/
def hName (s : List Char) : Option HReg := (indexed "h" 16 s).map (BitVec.ofNat 4)

/-- acc0 to acc7. -/
def accName (s : List Char) : Option Nat := indexed "acc" 8 s

/-- b0 to b63. -/
def bName (s : List Char) : Option (BitVec 6) := (indexed "b" 64 s).map (BitVec.ofNat 6)

/-- t0 to t63. -/
def tName (s : List Char) : Option (BitVec 6) := (indexed "t" 64 s).map (BitVec.ofNat 6)

/-- gq0 to gq7. -/
def gqName (s : List Char) : Option (BitVec 3) := (indexed "gq" 8 s).map (BitVec.ofNat 3)

/-- An engine queue (R74). -/
def qName (s : List Char) : Option QName :=
  (assoc [("mxq", QName.mxq), ("cpq", .cpq), ("clq", .clq), ("ofq", .ofq), ("lnq", .lnq)] s).or ((gqName s).map QName.gq)

/-- The command block x4n, n from 1 to 7 (R64, R83). -/
def blockName (s : List Char) : Option (BitVec 3) :=
  (xName s).bind fun x => if x.toNat % 4 = 0 ∧ x ≠ 0 then some (BitVec.ofNat 3 (x.toNat / 4)) else none

/-- The control registers that a number names (R90, R358; `chid` by R361). -/
def csrNames : List (String × Nat) :=
  [("lcore", 0x000), ("ltile", 0x001), ("team", 0x002), ("pcore", 0x003), ("ctx", 0x004), ("jobseed", 0x005), ("chid", 0x006),
   ("tvec", 0x100), ("tcause", 0x101), ("tpc", 0x102), ("tval", 0x103), ("tstat", 0x104), ("fpstat", 0x200), ("tags", 0x201),
   ("cnt", 0x202), ("prio", 0x203), ("rngctr", 0x204), ("remerr", 0x205), ("vshare", 0x300), ("tsplit", 0x301),
   ("accsplit", 0x302)]
  ++ [("ctxtab", 0x800), ("lnarea", 0x801), ("recbase", 0x802), ("reclen", 0x803), ("rechead", 0x804), ("rectail", 0x805),
   ("mark", 0x806), ("tmsel", 0x807), ("tmap", 0x808), ("plbase", 0x810), ("pllen", 0x811), ("plhead", 0x812), ("pltail", 0x813),
   ("skimctl", 0x820), ("hbtab", 0x830), ("ecccnt", 0x850)]

/-- A control-register name; `dead0` to `dead15` are the dead mask (R358). -/
def csrName (s : List Char) : Option (BitVec 12) :=
  ((assoc csrNames s).or ((indexed "dead" 16 s).map fun k => 0x840 + k)).map (BitVec.ofNat 12)

/-- The names that an identifier must not spell (R50, R119). -/
def reserved (s : List Char) : Bool :=
  let s := low s
  (xName s).isSome || (predName false s).isSome || (predName true s).isSome || (hName s).isSome || (accName s).isSome
    || (bName s).isSome || (tName s).isSome || (qName s).isSome || (csrName s).isSome || s == "pr".toList

/-! ## Suffixes (R57, R74) -/

def ityName : List Char → Option ITy :=
  assoc [("s8", .s8), ("s16", .s16), ("s32", .s32), ("s64", .s64), ("n8", .n8), ("n16", .n16), ("n32", .n32), ("n64", .n64)]

def ftyName : List Char → Option FTy := assoc [("f32", .f32), ("f64", .f64)]

/-- The type of `fadd` in an atomic: `.f32` is ty 2 and `.f64` ty 3 (R320). -/
def faddTyName : List Char → Option ITy := assoc [("f32", .s32), ("f64", .s64)]

def kindName (s : List Char) : Option Kind :=
  ((ityName s).map Kind.int).or (assoc [("f32", Kind.f32), ("f64", Kind.f64)] s)

def rmName : List Char → Option Rm :=
  assoc [("rne", .rne), ("rtz", .rtz), ("rup", .rup), ("rdn", .rdn), ("sr", .sr), ("dth", .dth)]

def wmName : List Char → Option Wm := assoc [("set", .set), ("clr", .clr), ("and", .and), ("or", .or)]

def condName : List Char → Option Cond :=
  assoc [("eq", .eq), ("ne", .ne), ("lt", .lt), ("ge", .ge), ("le", .le), ("gt", .gt), ("ord", .ord), ("uno", .uno)]

def scopeName : List Char → Option Scope :=
  assoc [("core", .core), ("tile", .tile), ("die", .die), ("package", .package), ("pod", .pod)]

def hintName : List Char → Option Hint := assoc [("keep", .keep), ("stream", .stream), ("nofill", .nofill)]

/-- Ordering of a load: `.acq` (R57). -/
def loadOrd : List Char → Option Bool := assoc [("plain", false), ("acq", true)]

/-- Ordering of a store: `.rel` (R57). -/
def storeOrd : List Char → Option Bool := assoc [("plain", false), ("rel", true)]

/-- Ordering of `amo` and `cas` (R57, R320). -/
def aordName : List Char → Option AOrd := assoc [("plain", .plain), ("acq", .acq), ("rel", .rel), ("ar", .acqRel)]

/-- Ordering of `red` (R57, R320). -/
def redOrd : List Char → Option AOrd := assoc [("plain", .plain), ("rel", .rel)]

def amoName : List Char → Option AmoOp :=
  assoc [("swap", .swap), ("add", .add), ("and", .and), ("or", .or), ("xor", .xor), ("min", .min), ("max", .max), ("fadd", .fadd)]

/-- A kind of `fence`, as the fields it sets. -/
def fenceKind : List Char → Option (FenceS → FenceS) :=
  assoc [("ld", fun f => { f with ld := true }), ("st", fun f => { f with st := true }), ("acq", fun f => { f with acq := true }),
    ("rel", fun f => { f with rel := true }), ("sc", fun f => { f with sc := true }), ("ro", fun f => { f with ro := true }),
    ("eng", fun f => { f with eng := true })]

/-! ## Formats and handle fields -/

/-- Element format codes (R169). -/
def fmtNames : List (String × Nat) :=
  [("f32", 0), ("bf16", 1), ("f16", 2), ("e4m3", 3), ("e5m2", 4), ("e3m2", 5), ("e2m3", 6), ("e2m1", 7), ("i8", 8), ("n8", 9),
   ("i4", 10), ("n4", 11), ("lg8", 12), ("lg6", 13), ("lg4", 14), ("mx8a", 15), ("mx8b", 16), ("mx6", 17), ("mx4", 18),
   ("mxi8", 19), ("blg6", 20), ("blg4", 21)]

/-- The field of `hset` and `hget` (R189). -/
def fieldName : List Char → Option (BitVec 4) :=
  assoc [("base", 0), ("rows", 1), ("cols", 2), ("pitch", 3), ("cursor", 4), ("step", 5), ("soff", 6), ("scount", 7), ("fmt", 8),
    ("space", 9), ("orient", 10), ("geom", 11), ("w1", 12), ("w2", 13), ("w3", 14)]

end Folkor
end Sys2Proof
end

