-- ==== Sys2Proof/Machine/FolkorWords.lean ====
section
/-! DEFINITION. Folkor instruction lines: suffixes, operands, the constants and labels of R60 and R61, and the instruction words that
a line stands for (03 R52 to R63). Every operation answers nothing where the line is an assembly error (R70). -/

namespace Sys2Proof
namespace Folkor

/-! ## What a line is read under -/

/-- The values of symbols, how often the base of the image enters each (R66), the place of the line in the image, the default
command block (R64) and the map of the `.livemap` line before it (R67). -/
structure Env where
  val : List Char → Option Int
  base : List Char → Option Int
  here : Int
  block : BitVec 3
  map : Word

/-- The value of an operand that no address enters: only `.d64` and `.launch` may hold an absolute address (R66).
DEDUCED, Assumption 101. -/
def Env.const (e : Env) (ts : List Tok) : Option Int :=
  (exprAll ts).bind fun x => if x.baseCount e.base = some 0 then x.eval e.val e.here else none

/-- The distance in bytes from the line's own address to a target (R61). DEDUCED, Assumption 101. -/
def Env.distance (e : Env) (ts : List Tok) : Option Int :=
  (exprAll ts).bind fun x => if x.baseCount e.base = some 1 then (x.eval e.val e.here).map fun v => v - e.here else none

/-- An unsigned field. -/
def Env.uns (e : Env) (n : Nat) (ts : List Tok) : Option (BitVec n) := (e.const ts).bind (Folkor.uns n)

/-- A signed field. -/
def Env.sgn (e : Env) (n : Nat) (ts : List Tok) : Option (BitVec n) := (e.const ts).bind (Folkor.sgn n)

/-- A pattern of n bits, written as signed or as unsigned. -/
def Env.pattern (e : Env) (n : Nat) (ts : List Tok) : Option (BitVec n) := (e.const ts).bind (Folkor.item n)

/-! ## Operands (R52, R53, R58) -/

/-- An operand that is one name, read in lower case. -/
def named {α : Type} (f : List Char → Option α) : List Tok → Option α
  | [.name s] => f (low s)
  | _ => none

/-- An operand that is one keyword, which is no register name and is read as it is written (R50). DESIGN CHOICE, Assumption 100. -/
def keyword {α : Type} (f : List Char → Option α) : List Tok → Option α
  | [.name s] => f s
  | _ => none

def xOp : List Tok → Option XReg := named xName
def pOp : List Tok → Option PReg := named (predName false)
def vpOp : List Tok → Option PReg := named (predName true)
def hOp : List Tok → Option HReg := named hName
def accOp : List Tok → Option Nat := named accName
def bOp : List Tok → Option (BitVec 6) := named bName
def tOp : List Tok → Option (BitVec 6) := named tName
def qOp : List Tok → Option QName := named qName
def blockOp : List Tok → Option (BitVec 3) := named blockName

/-- The operand `pr` of `pmov` (R120). -/
def isPr : List Tok → Bool
  | [.name s] => low s == "pr".toList
  | _ => false

/-- A handle of a vector instruction: `h3+` advances the cursor, `h3=` and `h3` hold it (R58). -/
def vhOp : List Tok → Option VHandle
  | .name s :: r =>
    (hName (low s)).bind fun h =>
      if r = [] ∨ r = [.op '='] then some { h := h, adv := false }
      else if r = [.op '+'] then some { h := h, adv := true } else none
  | _ => none

/-- An operand of a vector instruction: a handle or a scalar register (R82). -/
def vOp (ts : List Tok) : Option VOp := ((vhOp ts).map VOp.h).or ((xOp ts).map VOp.x)

/-- `[xb+d]`, `[xb-d]` or `[xb]`, d in the range of the M-format displacement (R53). -/
def memOp (e : Env) : List Tok → Option (XReg × BitVec 20)
  | .op '[' :: .name s :: ts =>
    (xName (low s)).bind fun x =>
      match ts with
      | [.op ']'] => some (x, 0)
      | .op c :: r =>
        if (c = '+' ∨ c = '-') ∧ r.getLast? = some (.op ']') then
          ((e.const r.dropLast).bind fun d => Folkor.sgn 20 (if c = '-' then -d else d)).map fun d => (x, d)
        else none
      | _ => none
  | _ => none

/-- `[xa]`, the address of the words that have no displacement. -/
def addrOp : List Tok → Option XReg
  | [.op '[', .name s, .op ']'] => xName (low s)
  | _ => none

/-- A control-register name, or `csr(n)` with any number of 12 bits (R52). DESIGN CHOICE, Assumption 100. -/
def csrOp (e : Env) : List Tok → Option (BitVec 12)
  | [.name s] => csrName (low s)
  | .name s :: .op '(' :: r => if low s = "csr".toList ∧ r.getLast? = some (.op ')') then e.uns 12 r.dropLast else none
  | _ => none

/-- The operands without a key, and those with one; none where a key stands twice or is not one of `allowed`, or an operand
without a key follows one that has a key. -/
def splitKeys (allowed : List String) : List (List Tok) → Option (List (List Tok) × List (List Char × List Tok))
  | [] => some ([], [])
  | o :: os =>
    (splitKeys allowed os).bind fun r =>
      match o with
      | .name k :: .op '=' :: t :: ts =>
        if allowed.any (fun a => a.toList == k) ∧ r.1 = [] ∧ r.2.all (fun x => x.1 != k) then some ([], (k, t :: ts) :: r.2)
        else none
      | _ => some (o :: r.1, r.2)

/-- The operand of a key. -/
def keyed (ks : List (List Char × List Tok)) (k : String) : Option (List Tok) :=
  (ks.find? fun x => x.1 == k.toList).map Prod.snd

/-- The value of a key that need not be written. -/
def keyOr {α : Type} (ks : List (List Char × List Tok)) (k : String) (d : α) (f : List Tok → Option α) : Option α :=
  match keyed ks k with
  | none => some d
  | some ts => f ts

/-! ## Suffixes (R57) -/

/-- The suffixes of a line that no kind has taken yet. -/
abbrev Sufs := List (List Char)

/-- The suffix of one kind, and the others; none where the line has two of the kind. -/
def pick {α : Type} (f : List Char → Option α) (ss : Sufs) : Option (Option α × Sufs) :=
  match ss.filterMap f with
  | [] => some (none, ss)
  | [a] => some (some a, ss.filter fun s => (f s).isNone)
  | _ => none

/-- A kind with a default. -/
def pickD {α : Type} (f : List Char → Option α) (d : α) (ss : Sufs) : Option (α × Sufs) :=
  (pick f ss).map fun r => (r.1.getD d, r.2)

/-- A kind without a default. -/
def pickR {α : Type} (f : List Char → Option α) (ss : Sufs) : Option (α × Sufs) :=
  (pick f ss).bind fun r => r.1.map fun a => (a, r.2)

/-- Is this suffix written? -/
def pickFlag (s : String) (ss : Sufs) : Option (Bool × Sufs) :=
  pickD (fun x => if x == s.toList then some true else none) false ss

/-- A result that no suffix is left over for. -/
def noneLeft {α : Type} (ss : Sufs) (a : α) : Option α := if ss = [] then some a else none

/-- The kinds of one instruction, each taken in turn: one kind. -/
def one {α : Type} (f : Sufs → Option (α × Sufs)) (ss : Sufs) : Option α := (f ss).bind fun r => noneLeft r.2 r.1

/-- Two kinds. -/
def two {α β : Type} (f : Sufs → Option (α × Sufs)) (g : Sufs → Option (β × Sufs)) (ss : Sufs) : Option (α × β) :=
  (f ss).bind fun a => (one g a.2).map fun b => (a.1, b)

/-- Three kinds. -/
def three {α β γ : Type} (f : Sufs → Option (α × Sufs)) (g : Sufs → Option (β × Sufs)) (h : Sufs → Option (γ × Sufs)) (ss : Sufs) :
    Option (α × β × γ) := (f ss).bind fun a => (two g h a.2).map fun b => (a.1, b)

/-- Four kinds. -/
def four {α β γ δ : Type} (f : Sufs → Option (α × Sufs)) (g : Sufs → Option (β × Sufs)) (h : Sufs → Option (γ × Sufs))
    (k : Sufs → Option (δ × Sufs)) (ss : Sufs) : Option (α × β × γ × δ) :=
  (f ss).bind fun a => (three g h k a.2).map fun b => (a.1, b)

def tySuf : Sufs → Option (ITy × Sufs) := pickD ityName .s64
def widthSuf : Sufs → Option (ITy × Sufs) := pickR ityName
def ftySuf : Sufs → Option (FTy × Sufs) := pickD ftyName .f32
def rmSuf : Sufs → Option (Rm × Sufs) := pickD rmName .rne
def wmSuf : Sufs → Option (Wm × Sufs) := pickD wmName .set
def scopeSuf : Sufs → Option (Scope × Sufs) := pickD scopeName .pod
def hintSuf : Sufs → Option (Hint × Sufs) := pickD hintName .keep

/-! ## Words by shape

Each reader takes the suffixes and the operands of a line. -/

/-- What reads a line after its mnemonic. -/
abbrev Reader := Env → Guard → Sufs → List (List Tok) → Option Instr

/-- An integer operation: the register form where the last operand is a scalar register, the immediate form where it is an
expression (R62, R102). -/
def readInt (r : Guard → IntR → Instr) (i : Option (Guard → IntI → Instr)) : Reader := fun e g ss os =>
  (one tySuf ss).bind fun ty =>
    match os with
    | [d, a, b] =>
      match xOp d, xOp a, xOp b with
      | some rd, some ra, some rb => some (r g { rd := rd, ra := ra, rb := rb, ty := ty })
      | some rd, some ra, none => i.bind fun i => (e.sgn 24 b).map fun v => i g { rd := rd, ra := ra, ty := ty, imm := v }
      | _, _, _ => none
    | _ => none

/-- A one-source integer operation (R105); `width` where its type must be written. -/
def readIntU (width : Bool) (k : Guard → IntU → Instr) : Reader := fun _ g ss os =>
  (one (if width then widthSuf else tySuf) ss).bind fun ty =>
    match os with
    | [d, a] =>
      match xOp d, xOp a with
      | some rd, some ra => some (k g { rd := rd, ra := ra, ty := ty })
      | _, _ => none
    | _ => none

/-- A two-source floating operation (R112). -/
def readFloat (k : Guard → FloatR → Instr) : Reader := fun _ g ss os =>
  (two ftySuf rmSuf ss).bind fun s =>
    match os.map xOp with
    | [some rd, some ra, some rb] => some (k g { rd := rd, ra := ra, rb := rb, ty := s.1, rm := s.2 })
    | _ => none

def readFma : Reader := fun _ g ss os =>
  (two ftySuf rmSuf ss).bind fun s =>
    match os.map xOp with
    | [some rd, some ra, some rb, some rc] => some (.fma g { rd := rd, ra := ra, rb := rb, rc := rc, ty := s.1, rm := s.2 })
    | _ => none

def readFsqrt : Reader := fun _ g ss os =>
  (two ftySuf rmSuf ss).bind fun s =>
    match os.map xOp with
    | [some rd, some ra] => some (.fsqrt g { rd := rd, ra := ra, ty := s.1, rm := s.2 })
    | _ => none

/-- `fmin` and `fmax` (R113). -/
def readFmin (k : Guard → FminR → Instr) : Reader := fun _ g ss os =>
  (one ftySuf ss).bind fun ty =>
    match os.map xOp with
    | [some rd, some ra, some rb] => some (k g { rd := rd, ra := ra, rb := rb, ty := ty })
    | _ => none

def readFclass : Reader := fun _ g ss os =>
  (one ftySuf ss).bind fun ty =>
    match os.map xOp with
    | [some rd, some ra] => some (.fclass g { rd := rd, ra := ra, ty := ty })
    | _ => none

/-- `fcvt`: the destination kind is written before the source kind (R114). -/
def readFcvt : Reader := fun _ g ss os =>
  (rmSuf ss).bind fun r =>
    match r.2.map kindName, os.map xOp with
    | [some dst, some src], [some rd, some ra] => some (.fcvt g { rd := rd, ra := ra, dst := dst, src := src, rm := r.1 })
    | _, _ => none

/-- `cmp` (R116): the second operand is a register or a signed 14-bit value. -/
def readCmp : Reader := fun e g ss os =>
  (three (pickR condName) tySuf wmSuf ss).bind fun s =>
    match os with
    | [pt, pf, a, b] =>
      match pOp pt, pOp pf, xOp a, ((xOp b).map CmpSrc.reg).or ((e.sgn 14 b).map CmpSrc.imm) with
      | some pt, some pf, some ra, some b => some (.cmp g { pt := pt, pf := pf, wm := s.2.2, cond := s.1, ra := ra, b := b, ty := s.2.1 })
      | _, _, _, _ => none
    | _ => none

def readFcmp : Reader := fun _ g ss os =>
  (three (pickR condName) ftySuf wmSuf ss).bind fun s =>
    match os with
    | [pt, pf, a, b] =>
      match pOp pt, pOp pf, xOp a, xOp b with
      | some pt, some pf, some ra, some rb =>
        some (.fcmp g { pt := pt, pf := pf, wm := s.2.2, cond := s.1, ra := ra, rb := rb, ty := s.2.1 })
      | _, _, _, _ => none
    | _ => none

/-- `tbit.one` and `tbit.zero` (R118). -/
def readTbit : Reader := fun e g ss os =>
  (two (pickR (assoc [("one", false), ("zero", true)])) wmSuf ss).bind fun s =>
    match os with
    | [pt, pf, a, n] =>
      match pOp pt, pOp pf, xOp a, e.uns 6 n with
      | some pt, some pf, some ra, some n => some (.tbit g { pt := pt, pf := pf, wm := s.2, zero := s.1, ra := ra, n := n })
      | _, _, _, _ => none
    | _ => none

/-- The table of `plog` and `vplog`, written as an expression or raw (R119, R239). -/
def tableOp (vec : Bool) (e : Env) (ts : List Tok) : Option Table :=
  match tableFront ts with
  | some (t, []) => t.table vec e.val e.base e.here
  | _ => none

def readPlog : Reader := fun e g ss os =>
  match ss, os with
  | [], [d, t] =>
    match pOp d, tableOp false e t with
    | some pd, some t => some (.plog g { pd := pd, table := t.t, sa := t.a, sb := t.b, sc := t.c })
    | _, _ => none
  | _, _ => none

/-- `pmov xd, pr` and `pmov pr, xa` (R120). -/
def readPmov : Reader := fun _ g ss os =>
  match ss, os with
  | [], [d, a] =>
    if isPr a then (xOp d).map (.pmovToX g) else if isPr d then (xOp a).map (.pmovToPr g) else none
  | _, _ => none

/-- Words whose operands are scalar registers alone. -/
def readX1 (k : Guard → XReg → Instr) : Reader := fun _ g ss os =>
  match ss, os.map xOp with
  | [], [some a] => some (k g a)
  | _, _ => none

def readX2 (k : Guard → XReg → XReg → Instr) : Reader := fun _ g ss os =>
  match ss, os.map xOp with
  | [], [some a, some b] => some (k g a b)
  | _, _ => none

def readX3 (k : Guard → XReg → XReg → XReg → Instr) : Reader := fun _ g ss os =>
  match ss, os.map xOp with
  | [], [some a, some b, some c] => some (k g a b c)
  | _, _ => none

/-- `jr xa` means `jr x0, xa` (R122). -/
def readJr : Reader := fun e g ss os =>
  match os with
  | [_] => readX1 (fun g a => .jr g 0 a) e g ss os
  | _ => readX2 .jr e g ss os

/-- Words without operands. -/
def read0 (k : Guard → Instr) : Reader := fun _ g ss os => if ss = [] ∧ os = [] then some (k g) else none

/-- Words whose one operand is `[xa]`. -/
def readAddr (k : Guard → XReg → Instr) : Reader := fun _ g ss os =>
  match ss, os.map addrOp with
  | [], [some a] => some (k g a)
  | _, _ => none

/-- `br` and `call`: the distance is a multiple of 8 (R61). -/
def readBranch (k : Guard → BitVec 32 → Instr) : Reader := fun e g ss os =>
  match ss, os with
  | [], [t] => (e.distance t).bind fun n => if n % 8 = 0 then (Folkor.sgn 32 (n / 8)).map (k g) else none
  | _, _ => none

def readAdr : Reader := fun e g ss os =>
  match ss, os with
  | [], [d, t] => (xOp d).bind fun rd => ((e.distance t).bind (Folkor.sgn 35)).map (.adr g rd)
  | _, _ => none

def readLih : Reader := fun e g ss os =>
  match ss, os with
  | [], [d, v] => (xOp d).bind fun rd => (e.uns 32 v).map (.lih g rd)
  | _, _ => none

/-- `lea`, `msend` and `mrecv` (R79). -/
def readAddrM (k : Guard → AddrM → Instr) : Reader := fun e g ss os =>
  match ss, os with
  | [], [r, m] =>
    match xOp r, memOp e m with
    | some r, some m => some (k g { r := r, rb := m.1, disp := m.2 })
    | _, _ => none
  | _, _ => none

/-- The suffixes of a scalar memory instruction (R57): width, `.take`, ordering, scope and hint, as far as it accepts them. -/
structure MemKinds where
  take : Bool
  ord : Option (List Char → Option Bool)
  hint : Bool

/-- Does the width stand before `.take` (R57)? -/
def takeAfterWidth (ss : Sufs) : Bool := (ss.takeWhile fun s => s != "take".toList).any fun s => (ityName s).isSome

def memSufs (k : MemKinds) (ss : Sufs) : Option (ITy × Bool × Bool × Scope × Hint) :=
  (widthSuf ss).bind fun ty =>
  (if k.take then pickFlag "take" ty.2 else some (false, ty.2)).bind fun tk =>
  (match k.ord with | some f => pickD f false tk.2 | none => some (false, tk.2)).bind fun od =>
  (scopeSuf od.2).bind fun sc =>
  (if k.hint then hintSuf sc.2 else some (Hint.keep, sc.2)).bind fun h =>
    if h.2 = [] ∧ (tk.1 → takeAfterWidth ss) then some (ty.1, tk.1, od.1, sc.1, h.1) else none

/-- `ld`, `lds`, `ldc`, and with `store` the forms `st` and `stf`, whose address is written first (R125 to R137). -/
def readMem (store : Bool) (kinds : MemKinds) (k : Guard → MemM → Instr) : Reader := fun e g ss os =>
  (memSufs kinds ss).bind fun s =>
    match if store then os.reverse else os with
    | [r, m] =>
      match xOp r, memOp e m with
      | some r, some m =>
        some (k g { r := r, rb := m.1, ty := s.1, ord := s.2.2.1, scope := s.2.2.2.1, hint := s.2.2.2.2, take := s.2.1, disp := m.2 })
      | _, _ => none
    | _ => none

/-- `pref`, `clean` and `inval` (R132, R133). -/
def readBlock (k : Guard → BlockM → Instr) : Reader := fun e g ss os =>
  (two scopeSuf hintSuf ss).bind fun s =>
    match os with
    | [m] => (memOp e m).map fun m => k g { rb := m.1, scope := s.1, hint := s.2, disp := m.2 }
    | _ => none

/-- `hld`, and with `store` the form `hst` (R190). -/
def readHandleM (store : Bool) (ord : List Char → Option Bool) (k : Guard → HandleM → Instr) : Reader := fun e g ss os =>
  (three (pickD ord false) scopeSuf hintSuf ss).bind fun s =>
    match if store then os.reverse else os with
    | [h, m] =>
      match hOp h, memOp e m with
      | some h, some m => some (k g { h := h, rb := m.1, ord := s.1, scope := s.2.1, hint := s.2.2, disp := m.2 })
      | _, _ => none
    | _ => none

/-- The width of an atomic: `.f32` or `.f64` with `fadd`, an integer type with every other operation (R320). -/
def atomicTy (op : AmoOp) : Sufs → Option (ITy × Sufs) := pickR (if op = .fadd then faddTyName else ityName)

def readAmo : Reader := fun _ g ss os =>
  (pickR amoName ss).bind fun op =>
  (three (atomicTy op.1) (pickD aordName .plain) scopeSuf op.2).bind fun s =>
    match os with
    | [d, a, b] =>
      match xOp d, addrOp a, xOp b with
      | some rd, some ra, some rb =>
        some (.amo g { rd := rd, ra := ra, rb := rb, ty := s.1, scope := s.2.2, op := op.1, ord := s.2.1 })
      | _, _, _ => none
    | _ => none

def readCas : Reader := fun _ g ss os =>
  (three widthSuf (pickD aordName .plain) scopeSuf ss).bind fun s =>
    match os with
    | [d, a, b, c] =>
      match xOp d, addrOp a, xOp b, xOp c with
      | some rd, some ra, some rb, some rc =>
        some (.cas g { rd := rd, ra := ra, rb := rb, rc := rc, ty := s.1, scope := s.2.2, ord := s.2.1 })
      | _, _, _, _ => none
    | _ => none

/-- `red` has no `swap` (R320). -/
def readRed : Reader := fun _ g ss os =>
  (pickR (fun s => if s == "swap".toList then none else amoName s) ss).bind fun op =>
  (three (atomicTy op.1) (pickD redOrd .plain) scopeSuf op.2).bind fun s =>
    match os with
    | [a, b] =>
      match addrOp a, xOp b with
      | some ra, some rb => some (.red g { ra := ra, rb := rb, ty := s.1, scope := s.2.2, op := op.1, ord := s.2.1 })
      | _, _ => none
    | _ => none

/-- `fence`: several kinds may be written, and at least one must be (R57, R326).
DESIGN CHOICE, Assumption 100. -/
def readFence : Reader := fun _ g ss os =>
  (scopeSuf ss).bind fun s =>
    if os = [] ∧ s.2 ≠ [] ∧ s.2.all (fun k => (fenceKind k).isSome) then
      some (.fence g ((s.2.filterMap fenceKind).foldl (fun f k => k f)
        { scope := s.1, ld := false, st := false, acq := false, rel := false, sc := false, ro := false, eng := false }))
    else none

/-! ### Barriers, queues, tags and arrival objects -/

def readArrive : Reader := fun _ g ss os =>
  match ss, os with
  | [], [d, b] =>
    match xOp d, bOp b with
    | some rd, some b => some (.arrive g rd b)
    | _, _ => none
  | _, _ => none

/-- `bwait b, xa` and `bwait b, xa, pt, pf`: without a pair the word names p0, p0 (R84). -/
def readBwait : Reader := fun _ g ss os =>
  match ss, os with
  | [], b :: a :: r =>
    match bOp b, xOp a, r.map pOp with
    | some b, some ra, [] => some (.bwait g b ra 0 0)
    | some b, some ra, [some pt, some pf] => some (.bwait g b ra pt pf)
    | _, _, _ => none
  | _, _ => none

/-- `bmask b, [xa]` and `bmask.rd b, [xa]` (R316). -/
def readBmask : Reader := fun _ g ss os =>
  (one (pickFlag "rd") ss).bind fun rd =>
    match os with
    | [b, a] =>
      match bOp b, addrOp a with
      | some b, some ra => some (if rd then .bmaskRd g b ra else .bmask g b ra)
      | _, _ => none
    | _ => none

/-- `push q, x4n` and `push.try pt, pf, q, x4n` (R192). -/
def readPush : Reader := fun _ g ss os =>
  (one (pickD (assoc [("blk", false), ("try", true)]) false) ss).bind fun t =>
    match t, os with
    | false, [q, cb] =>
      match qOp q, blockOp cb with
      | some q, some cb => some (.push g q cb)
      | _, _ => none
    | true, [pt, pf, q, cb] =>
      match pOp pt, pOp pf, qOp q, blockOp cb with
      | some pt, some pf, some q, some cb => some (.pushTry g q cb pt pf)
      | _, _, _, _ => none
    | _, _ => none

def readQstat : Reader := fun _ g ss os =>
  match ss, os with
  | [], [d, q] =>
    match xOp d, qOp q with
    | some rd, some q => some (.qstat g q rd)
    | _, _ => none
  | _, _ => none

/-- `wait`: a counter that is left out takes 15, and one at least is written (R59). -/
def readWait : Reader := fun e g ss os =>
  (splitKeys ["ld", "st", "vx", "cp", "tl"] os).bind fun r =>
    let v := fun k => keyOr r.2 k 15#4 (e.uns 4)
    match v "ld", v "st", v "vx", v "cp", v "tl" with
    | some ld, some st, some vx, some cp, some tl =>
      if ss = [] ∧ r.1 = [] ∧ r.2 ≠ [] then some (.wait g { ld := ld, st := st, vx := vx, cp := cp, tl := tl }) else none
    | _, _, _, _, _ => none

def readTwait : Reader := fun _ g ss os =>
  match ss, os.map tOp with
  | [], [some t] => some (.twait g t)
  | _, _ => none

def readCancel : Reader := fun _ g ss os =>
  match ss, os with
  | [], [d, t] =>
    match xOp d, tOp t with
    | some rd, some t => some (.cancel g t rd)
    | _, _ => none
  | _, _ => none

/-- `abinit n, xa` and `abinit.reset n, xa` (R143). -/
def readAbinit : Reader := fun e g ss os =>
  (one (pickFlag "reset") ss).bind fun r =>
    match os with
    | [n, a] =>
      match e.uns 6 n, xOp a with
      | some n, some ra => some (if r then .abinitReset g n ra else .abinit g n ra)
      | _, _ => none
    | _ => none

/-- Words whose one operand is a value. -/
def readConst {n : Nat} (k : Guard → BitVec n → Instr) : Reader := fun e g ss os =>
  match ss, os with
  | [], [v] => (e.uns n v).map (k g)
  | _, _ => none

/-! ### Handles -/

/-- `hset h, name, xa` (R189). -/
def readHset : Reader := fun _ g ss os =>
  match ss, os with
  | [], [h, f, x] =>
    match hOp h, keyword fieldName f, xOp x with
    | some h, some f, some x => some (.hset g h f x)
    | _, _, _ => none
  | _, _ => none

def readHget : Reader := fun _ g ss os =>
  match ss, os with
  | [], [x, h, f] =>
    match xOp x, hOp h, keyword fieldName f with
    | some x, some h, some f => some (.hget g x h f)
    | _, _, _ => none
  | _, _ => none

def readHmov : Reader := fun _ g ss os =>
  match ss, os.map hOp with
  | [], [some h, some hs] => some (.hmov g h hs)
  | _, _ => none

/-- `hadv h` and `hadv h, xa` (R189). -/
def readHadv : Reader := fun _ g ss os =>
  match ss, os with
  | [], h :: r =>
    match hOp h, r.map xOp with
    | some h, [] => some (.hadv g h 0)
    | some h, [some x] => some (.hadv g h x)
    | _, _ => none
  | _, _ => none

/-! ### The vector unit -/

def readVec2 (k : Guard → VecR2 → Instr) : Reader := fun _ g ss os =>
  (one rmSuf ss).bind fun rm =>
    match os with
    | [d, a, b] =>
      match vhOp d, vOp a, vOp b with
      | some d, some a, some b => some (k g { d := d, a := a, b := b, rm := rm })
      | _, _, _ => none
    | _ => none

def readVfma : Reader := fun _ g ss os =>
  (one rmSuf ss).bind fun rm =>
    match os with
    | [d, a, b, c] =>
      match vhOp d, vhOp a, vOp b, vOp c with
      | some d, some a, some b, some c => some (.vfma g { d := d, a := a, b := b, c := c, rm := rm })
      | _, _, _, _ => none
    | _ => none

def readVmin (k : Guard → VecMin → Instr) : Reader := fun _ g ss os =>
  match ss, os with
  | [], [d, a, b] =>
    match vhOp d, vOp a, vOp b with
    | some d, some a, some b => some (k g { d := d, a := a, b := b })
    | _, _, _ => none
  | _, _ => none

def readVabs (k : Guard → VecU → Instr) : Reader := fun _ g ss os =>
  match ss, os.map vhOp with
  | [], [some d, some a] => some (k g { d := d, a := a })
  | _, _ => none

def readVecF (k : Guard → VecF → Instr) : Reader := fun _ g ss os =>
  (one rmSuf ss).bind fun rm =>
    match os.map vhOp with
    | [some d, some a] => some (k g { d := d, a := a, rm := rm })
    | _ => none

/-- `vcvt[.rm] hd, ha[, scale=xs][, clip=xc]` (R232). -/
def readVcvt : Reader := fun _ g ss os =>
  (one rmSuf ss).bind fun rm => (splitKeys ["scale", "clip"] os).bind fun r =>
    match r.1.map vhOp, keyOr r.2 "scale" none fun t => (xOp t).map some, keyOr r.2 "clip" none fun t => (xOp t).map some with
    | [some d, some a], some sc, some cl => some (.vcvt g { d := d, a := a, scale := sc, clip := cl, rm := rm })
    | _, _, _ => none

/-- A key whose value is 0 or 1. -/
def Env.bit (e : Env) (ts : List Tok) : Option Bool := (e.uns 1 ts).map fun b => b == 1

/-- `vquant[.rm] hd, ha[, scale=xs][, calc=1][, amax=xa, ascope=s]` (R233). -/
def readVquant : Reader := fun e g ss os =>
  (one rmSuf ss).bind fun rm => (splitKeys ["scale", "calc", "amax", "ascope"] os).bind fun r =>
    let amax := match keyed r.2 "amax", keyed r.2 "ascope" with
      | none, none => some none
      | some a, some s =>
        match xOp a, keyword scopeName s with
        | some a, some s => some (some (a, s))
        | _, _ => none
      | _, _ => none
    match r.1.map vhOp, keyOr r.2 "scale" none fun t => (xOp t).map some, keyOr r.2 "calc" false e.bit, amax with
    | [some d, some a], some sc, some cs, some am =>
      some (.vquant g { d := d, a := a, scale := sc, calcScales := cs, amax := am, rm := rm })
    | _, _, _, _ => none

/-- `vred xd, ha, xb` and `vamax xd, ha, xb` (R234); only `vred` rounds. -/
def readVred (rounds : Bool) (k : Guard → VecRed → Instr) : Reader := fun _ g ss os =>
  (if rounds then one rmSuf ss else noneLeft ss Rm.rne).bind fun rm =>
    match os with
    | [d, a, x] =>
      match xOp d, vhOp a, xOp x with
      | some rd, some a, some x => some (k g { rd := rd, a := a, xb := x, rm := rm })
      | _, _, _ => none
    | _ => none

def readVcmp : Reader := fun _ g ss os =>
  (two (pickR condName) wmSuf ss).bind fun s =>
    match os with
    | [pt, pf, a, b] =>
      match vpOp pt, vpOp pf, vhOp a, vOp b with
      | some pt, some pf, some a, some b => some (.vcmp g { pt := pt, pf := pf, wm := s.2, cond := s.1, a := a, b := b })
      | _, _, _, _ => none
    | _ => none

def readVsel : Reader := fun _ g ss os =>
  match ss, os with
  | [], [d, p, a, b] =>
    match vhOp d, vpOp p, vOp a, vOp b with
    | some d, some p, some a, some b => some (.vsel g { d := d, sel := p, a := a, b := b })
    | _, _, _, _ => none
  | _, _ => none

def readVperm : Reader := fun _ g ss os =>
  match ss, os.map vhOp with
  | [], [some d, some a, some ix] => some (.vperm g { d := d, a := a, ix := ix })
  | _, _ => none

def readVbcast : Reader := fun _ g ss os =>
  match ss, os with
  | [], [d, a, x] =>
    match vhOp d, vhOp a, xOp x with
    | some d, some a, some x => some (.vbcast g { d := d, a := a, x := x })
    | _, _, _ => none
  | _, _ => none

def readVmov (k : Guard → VecMov → Instr) : Reader := fun _ g ss os =>
  match ss, os with
  | [], [d, a] =>
    match vhOp d, vOp a with
    | some d, some a => some (k g { d := d, a := a })
    | _, _ => none
  | _, _ => none

def readVempty : Reader := fun _ g ss os =>
  match ss, os.map vhOp with
  | [], [some d] => some (.vempty g d)
  | _, _ => none

def readVplog : Reader := fun e g ss os =>
  match ss, os with
  | [], [d, t] =>
    match vpOp d, tableOp true e t with
    | some pd, some t => some (.vplog g { pd := pd, table := t.t, sa := t.a, sb := t.b, sc := t.c })
    | _, _ => none
  | _, _ => none

/-- `vpcnt xd, vpa` and `vpfirst xd, vpa` (R240). -/
def readVpcnt (k : Guard → VecPcnt → Instr) : Reader := fun _ g ss os =>
  match ss, os with
  | [], [d, a] =>
    match xOp d, vpOp a with
    | some rd, some a => some (k g { rd := rd, a := a })
    | _, _ => none
  | _, _ => none

/-- `vpmov vpd[, q=k][, keep=1], xs` and `vpmov xd[, q=k], vpa`: the keys stand before the last operand (R240). -/
def readVpmov : Reader := fun e g ss os =>
  match ss, os.getLast? with
  | [], some s =>
    (splitKeys ["q", "keep"] os.dropLast).bind fun r =>
      match r.1, keyOr r.2 "q" 0#2 (e.uns 2), keyOr r.2 "keep" false e.bit with
      | [d], some q, some keep =>
        match vpOp d, xOp s, xOp d, vpOp s with
        | some pd, some x, _, _ => some (.vpmovFromX g { pd := pd, q := q, keep := keep, x := x })
        | _, _, some rd, some a => if keep then none else some (.vpmovToX g { rd := rd, q := q, a := a })
        | _, _, _, _ => none
      | _, _, _ => none
  | _, _ => none

/-! ### Control registers, system and scheduling -/

def readCsrr : Reader := fun e g ss os =>
  match ss, os with
  | [], [d, c] =>
    match xOp d, csrOp e c with
    | some rd, some c => some (.csrr g rd c)
    | _, _ => none
  | _, _ => none

/-- `csrw xd, csr, xa` and the others of its form (R344). -/
def readCsrw (k : Guard → CsrS → Instr) : Reader := fun e g ss os =>
  match ss, os with
  | [], [d, c, a] =>
    match xOp d, csrOp e c, xOp a with
    | some rd, some c, some ra => some (k g { rd := rd, ra := ra, csr := c })
    | _, _, _ => none
  | _, _ => none

/-- `seal xa`; `seal xa, xb` for the rb of a supervisor core (R343). DESIGN CHOICE, Assumption 100. -/
def readSeal : Reader := fun e g ss os =>
  match os with
  | [_] => readX1 (fun g a => .seal g a 0) e g ss os
  | _ => readX2 .seal e g ss os

def readTlbi : Reader := fun _ g ss os =>
  match ss, os with
  | [], [a, b, s] =>
    match xOp a, xOp b, keyword scopeName s with
    | some ra, some rb, some s => some (.tlbi g ra rb s)
    | _, _, _ => none
  | _, _ => none

/-- `spawn lq, [xa]` (R265). -/
def readSpawn : Reader := fun e g ss os =>
  match ss, os with
  | [], [q, a] =>
    match e.uns 4 q, addrOp a with
    | some q, some ra => some (.spawn g q ra)
    | _, _ => none
  | _, _ => none

/-- `join [xa], xb` (R267). -/
def readJoin : Reader := fun _ g ss os =>
  match ss, os with
  | [], [a, b] =>
    match addrOp a, xOp b with
    | some ra, some rb => some (.join g ra rb)
    | _, _ => none
  | _, _ => none

/-- `safe`, with the map of the `.livemap` line before it (R67, R86). -/
def readSafe : Reader := fun e g ss os => read0 (fun g => .safe g e.map) e g ss os

def readGang : Reader := fun _ g ss os =>
  match ss, os.map bOp with
  | [], [some b] => some (.gang g b)
  | _, _ => none

/-- `qget xd, gqn` and `qget pt, pf, xd, gqn` (R366). -/
def readQget : Reader := fun _ g ss os =>
  match ss, os with
  | [], [d, q] =>
    match xOp d, named gqName q with
    | some rd, some q => some (.qget g rd q 0 0)
    | _, _ => none
  | [], [pt, pf, d, q] =>
    match pOp pt, pOp pf, xOp d, named gqName q with
    | some pt, some pf, some rd, some q => some (.qget g rd q pt pf)
    | _, _, _, _ => none
  | _, _ => none

/-! ## The mnemonics -/

/-- The words of the scalar group, but for `li`. -/
def scalarWords : List (String × Reader) :=
  [("add", readInt .add (some .addImm)), ("sub", readInt .sub none), ("mul", readInt .mul (some .mulImm)),
   ("mulh", readInt .mulh none), ("div", readInt .div none), ("rem", readInt .rem none), ("and", readInt .and (some .andImm)),
   ("or", readInt .or (some .orImm)), ("xor", readInt .xor (some .xorImm)), ("andn", readInt .andn (some .andnImm)),
   ("sll", readInt .sll (some .sllImm)), ("srl", readInt .srl (some .srlImm)), ("sra", readInt .sra (some .sraImm)),
   ("rot", readInt .rot (some .rotImm)), ("min", readInt .min (some .minImm)), ("max", readInt .max (some .maxImm)),
   ("clz", readIntU false .clz), ("ctz", readIntU false .ctz), ("popc", readIntU false .popc), ("sext", readIntU true .sext),
   ("zext", readIntU true .zext), ("lih", readLih), ("lea", readAddrM .lea), ("adr", readAdr), ("padr", readX3 .padr)]
  ++ [("fadd", readFloat .fadd), ("fsub", readFloat .fsub), ("fmul", readFloat .fmul), ("fma", readFma), ("fdiv", readFloat .fdiv),
   ("fsqrt", readFsqrt), ("fmin", readFmin .fmin), ("fmax", readFmin .fmax), ("fcvt", readFcvt), ("fclass", readFclass),
   ("cmp", readCmp), ("fcmp", readFcmp), ("tbit", readTbit), ("plog", readPlog), ("pmov", readPmov), ("br", readBranch .br),
   ("call", readBranch .call), ("jr", readJr), ("exit", read0 .exit)]

/-- The words of memory, atomics, barriers, queues and handles. -/
def memoryWords : List (String × Reader) :=
  [("ld", readMem false { take := false, ord := some loadOrd, hint := true } .ld),
   ("st", readMem true { take := false, ord := some storeOrd, hint := true } .st),
   ("lds", readMem false { take := true, ord := some loadOrd, hint := false } .lds),
   ("stf", readMem true { take := false, ord := some storeOrd, hint := false } .stf),
   ("ldc", readMem false { take := false, ord := none, hint := true } .ldc), ("pref", readBlock .pref),
   ("clean", readBlock .clean), ("inval", readBlock .inval), ("msend", readAddrM .msend), ("mrecv", readAddrM .mrecv),
   ("amo", readAmo), ("cas", readCas), ("red", readRed), ("fence", readFence), ("arrive", readArrive), ("bwait", readBwait),
   ("bmask", readBmask)]
  ++ [("push", readPush), ("qstat", readQstat), ("wait", readWait), ("twait", readTwait), ("tany", readX2 .tany),
   ("tfind", readX2 .tfind), ("cancel", readCancel), ("abinit", readAbinit), ("abwait", readConst .abwait), ("hset", readHset),
   ("hget", readHget), ("hmov", readHmov), ("hadv", readHadv), ("hld", readHandleM false loadOrd .hld),
   ("hst", readHandleM true storeOrd .hst)]

/-- The words of the vector group: their guards name vp0 to vp7 (R56). -/
def vectorWords : List (String × Reader) :=
  [("vadd", readVec2 .vadd), ("vsub", readVec2 .vsub), ("vmul", readVec2 .vmul), ("vfma", readVfma), ("vmin", readVmin .vmin),
   ("vmax", readVmin .vmax), ("vabs", readVabs .vabs), ("vneg", readVabs .vneg), ("vexp2", readVecF .vexp2),
   ("vlog2", readVecF .vlog2), ("vrcp", readVecF .vrcp), ("vrsq", readVecF .vrsq), ("vtanh", readVecF .vtanh)]
  ++ [("vcvt", readVcvt), ("vquant", readVquant), ("vamax", readVred false .vamax), ("vred", readVred true .vred),
   ("vcmp", readVcmp), ("vsel", readVsel), ("vperm", readVperm), ("vbcast", readVbcast), ("vmov", readVmov .vmov),
   ("vfill", readVmov .vfill), ("vempty", readVempty), ("vplog", readVplog), ("vpcnt", readVpcnt .vpcnt),
   ("vpfirst", readVpcnt .vpfirst), ("vpmov", readVpmov)]

/-- The words of control registers, system, scheduling, compacts and churns. -/
def systemWords : List (String × Reader) :=
  [("csrr", readCsrr), ("csrw", readCsrw .csrw), ("csrset", readCsrw .csrset), ("csrclr", readCsrw .csrclr),
   ("trap", readConst .trap), ("eret", read0 .eret), ("wfi", readX1 .wfi), ("seal", readSeal), ("tlbi", readTlbi),
   ("spawn", readSpawn), ("join", readJoin), ("safe", readSafe), ("yield", read0 .yield), ("prio", readConst .prio),
   ("gang", readGang), ("sign", readAddr .sign), ("dissolve", readAddr .dissolve), ("xfer", readAddr .xfer),
   ("sstep", readAddr .sstep), ("qget", readQget), ("rand", readX1 .rand)]

/-- Does this word take a guard over vector predicates (R56)? -/
def isVector (name : List Char) : Bool := (assoc vectorWords name).isSome

/-- What reads the operands of a mnemonic. -/
def reader (name : List Char) : Option Reader :=
  ((assoc scalarWords name).or (assoc memoryWords name)).or ((assoc vectorWords name).or (assoc systemWords name))

/-! ## Lines -/

/-- The guard of a line: without one T is 0xFF and every selector is p0, or vp0 (R54). -/
def guardOf (vec : Bool) (e : Env) : Option TableText → Option Guard
  | none => some { t := 0xFF, a := 0, b := 0, c := 0 }
  | some t => (t.table vec e.val e.base e.here).map fun t => { t := t.t, a := t.a, b := t.b, c := t.c }

/-- The `li` word, or the `li` and `lih` words, that set a register to a value read as a signed 64-bit value (R60). -/
def liWords (g : Guard) (rd : XReg) (v : Word) : List Instr :=
  if -(2 ^ 34) ≤ v.toInt ∧ v.toInt < 2 ^ 34 then [.li g rd (v.truncate 35)]
  else [.li g rd ((fld v 0 32).zeroExtend 35), .lih g rd (fld v 32 32)]

/-- `li xd, v`, v from −2^63 to 2^64 − 1 (R60). -/
def readLi (e : Env) (g : Guard) (ss : Sufs) (os : List (List Tok)) : Option (List Instr) :=
  match ss, os with
  | [], [d, v] => (xOp d).bind fun rd => (e.pattern 64 v).map (liWords g rd)
  | _, _ => none

/-- Do the bytes of the word decode to it? A word outside the limits of its format is no word of an image (R70). -/
def fits (i : Instr) : Bool :=
  match decodeBytes (encodeBytes i) with
  | .ok r => r == (i, i.size)
  | .error _ => false

end Folkor
end Sys2Proof
end

