-- ==== Sys2Proof/Machine/FolkorSource.lean ====
section
/-! DEFINITION. Folkor sources: tile command pseudo-instructions, directives, sections and the image that a source assembles to
(03 R49, R50, R60, R64 to R70; 01 R15; 09 R186). Every operation answers nothing where the source has an assembly error, so such a
source has no image (R70). -/

namespace Sys2Proof
namespace Folkor

/-! ## Tile commands (R64) -/

/-- The keys of a line. -/
abbrev Keys := List (List Char × List Tok)

/-- A field of a command word, as what it adds to the word. -/
def put {n : Nat} (lo : Nat) (v : BitVec n) : Nat := v.toNat * 2 ^ lo

/-- A flag written 0 or 1, at a bit of its word. -/
def Env.flag (e : Env) (ks : Keys) (k : String) (lo : Nat) : Option Nat := keyOr ks k 0 fun t => (e.uns 1 t).map (put lo)

/-- The key `tag=tn`: tv and tag of the header (R87). -/
def tagKey (ks : Keys) : Option Nat := keyOr ks "tag" 0 fun t => (tOp t).map fun t => 2 ^ 14 + put 8 t

/-- The key `ab=n`: abv and ab (R205). -/
def abKey (e : Env) (ks : Keys) : Option Nat := keyOr ks "ab" 0 fun t => (e.uns 6 t).map fun n => 2 ^ 30 + put 24 n

/-- A key that must be written. -/
def must {α : Type} (ks : Keys) (k : String) (f : List Tok → Option α) : Option α := (keyed ks k).bind f

/-- A key whose keywords have numbers. -/
def wordKey (l : List (String × Nat)) : List Tok → Option Nat := keyword (assoc l)

/-- A number that is a multiple of 32 and not 0. -/
def by32 (n : Nat) : Option Nat := if n % 32 = 0 ∧ n ≠ 0 then some n else none

/-- w0 to w3 of a line's operands and keys. -/
abbrev Form := Env → List (List Tok) → Keys → Option (List Nat)

/-- `copy hd, hs[, peers=m][, pkg=p, die=d, quad=q][, ab=n][, tag=tn]` (R205). -/
def copyForm : Form := fun e pos ks =>
  let mask := match keyed ks "pkg", keyed ks "die", keyed ks "quad" with
    | none, none, none => some 0
    | some p, some d, some q =>
      match e.uns 10 p, e.uns 2 d, e.uns 2 q with
      | some p, some d, some q => some (2 ^ 31 + put 32 p + put 42 d + put 44 q)
      | _, _, _ => none
    | _, _, _ => none
  match pos.map hOp, mask, keyOr ks "peers" 0 (e.uns 64), abKey e ks, tagKey ks with
  | [some hd, some hs], some m, some peers, some ab, some tag =>
    some [0x01 + tag + put 16 hd + put 20 hs + ab + m, peers.toNat, 0, 0]
  | _, _, _, _, _ => none

/-- `gather` and `scatter` (R207). -/
def rowsForm (opc : Nat) : Form := fun e pos ks =>
  match pos.map hOp, must ks "list" (e.uns 64), abKey e ks, tagKey ks with
  | [some hd, some hs], some l, some ab, some tag => some [opc + tag + put 16 hd + put 20 hs + ab, l.toNat, 0, 0]
  | _, _, _, _ => none

/-- `mma accd, ha, hb, k=K[, zero=1]`, the form of `mrot` too (R208). -/
def productForm (opc : Nat) : Form := fun e pos ks =>
  match pos, must ks "k" (fun t => (e.uns 16 t).bind fun k => by32 k.toNat), e.flag ks "zero" 19 with
  | [d, a, b], some k, some z =>
    match accOp d, hOp a, hOp b with
    | some d, some ha, some hb =>
      if ks.all (fun x => x.1 == "k".toList || x.1 == "zero".toList || x.1 == "cb".toList) then
        some [opc + d * 2 ^ 16 + z + put 20 ha + put 24 hb + k * 2 ^ 48, 0, 0, 0]
      else none
    | _, _, _ => none
  | _, _, _ => none

def rmKey (ks : Keys) : Option Nat := keyOr ks "rm" 0 fun t => (keyword rmName t).map fun r => r.code.toNat

/-- `mma accd, acca, hb, fmt=f[, rm=m][, salt=s][, zero=1]`, for which k is 32 (R208). -/
def downForm : Form := fun e pos ks =>
  match pos, must ks "fmt" (wordKey (fmtNames.take 15)), rmKey ks, keyOr ks "salt" 0 (e.uns 32), e.flag ks "zero" 19 with
  | [d, a, b], some f, some rm, some salt, some z =>
    match accOp d, accOp a, hOp b with
    | some d, some a, some hb =>
      if (keyed ks "k").isNone then
        some [0x10 + d * 2 ^ 16 + z + put 24 hb + 2 ^ 28 + a * 2 ^ 29 + f * 2 ^ 32 + rm * 2 ^ 37 + 32 * 2 ^ 48, salt.toNat, 0, 0]
      else none
    | _, _, _ => none
  | _, _, _, _, _ => none

def mmaForm : Form := fun e pos ks => (productForm 0x10 e pos ks).or (downForm e pos ks)

/-- The keys `amax=a, ascope=s`, which stand together: what they add to w0, and w2 (R212). -/
def amaxKeys (e : Env) (ks : Keys) : Option (Nat × Nat) :=
  match keyed ks "amax", keyed ks "ascope" with
  | none, none => some (0, 0)
  | some a, some s =>
    match e.uns 64 a, keyword scopeName s with
    | some a, some s => some (2 ^ 28 + put 29 s.code, a.toNat)
    | _, _ => none
  | _, _ => none

/-- `drain hd, acca[, scale=b][, clip=b][, rm=m][, salt=s][, scales=calc][, clr=1][, amax=a, ascope=s]` (R212). -/
def drainForm : Form := fun e pos ks =>
  match pos with
  | [h, a] =>
    match hOp h, accOp a, keyOr ks "scale" 0x3F800000 (e.uns 32), keyOr ks "clip" 0x7F800000 (e.uns 32), rmKey ks,
      keyOr ks "salt" 0 (e.uns 32), keyOr ks "scales" 0 (wordKey [("calc", 2 ^ 27)]), e.flag ks "clr" 19, amaxKeys e ks with
    | some h, some a, some sc, some cl, some rm, some salt, some sm, some clr, some am =>
      some [0x12 + a * 2 ^ 16 + clr + put 20 h + rm * 2 ^ 24 + sm + am.1 + put 32 salt, sc.toNat + put 32 cl, am.2, 0]
    | _, _, _, _, _, _, _, _, _ => none
  | _ => none

/-- The key `ty=i32` of `acc`; FP32 where it is left out (R214). DESIGN CHOICE, Assumption 100. -/
def accTy (ks : Keys) : Option Nat := keyOr ks "ty" 0 (wordKey [("i32", 2 ^ 28), ("f32", 0)])

/-- `acc`, with `op=zero`, `op=load`, `op=add` or `op=move` (R214). -/
def accForm : Form := fun _ pos ks =>
  match must ks "op" (wordKey [("zero", 0), ("load", 1), ("add", 2), ("move", 3)]), pos, accTy ks with
  | some 0, [d], some ty => (accOp d).map fun d => [0x13 + d * 2 ^ 16 + ty, 0, 0, 0]
  | some 1, [d, h], some ty =>
    match accOp d, hOp h with
    | some d, some h => some [0x13 + d * 2 ^ 16 + 1 * 2 ^ 19 + put 21 h + ty, 0, 0, 0]
    | _, _ => none
  | some 2, [d, h], _ =>
    match accOp d, hOp h with
    | some d, some h => if (keyed ks "ty").isNone then some [0x13 + d * 2 ^ 16 + 2 * 2 ^ 19 + put 21 h, 0, 0, 0] else none
    | _, _ => none
  | some 3, [d, s], _ =>
    match accOp d, accOp s with
    | some d, some s =>
      if (keyed ks "ty").isNone then some [0x13 + d * 2 ^ 16 + 3 * 2 ^ 19 + s * 2 ^ 25, 0, 0, 0] else none
    | _, _ => none
  | _, _, _ => none

/-- `norm ha, hb` (R245). -/
def normForm : Form := fun _ pos _ =>
  match pos.map hOp with
  | [some ha, some hb] => some [0x18 + put 20 ha + put 24 hb, 0, 0, 0]
  | _ => none

/-- `alias` (R247). -/
def aliasForm : Form := fun _ pos _ => if pos = [] then some [0x19, 0, 0, 0] else none

/-- `smm accd, ha, hb, limit=L, tol=t, stat=o[, bmin=m][, salt=s][, ctr=c][, zero=1]` (R250). -/
def smmForm : Form := fun e pos ks =>
  match pos, must ks "limit" (fun t => (e.uns 22 t).bind fun n => (by32 n.toNat).filter fun m => decide (m ≤ 2097120)),
    must ks "tol" (e.uns 32), must ks "stat" (e.uns 20) with
  | [d, a, b], some limit, some tol, some stat =>
    match accOp d, hOp a, hOp b, keyOr ks "bmin" 1 (e.uns 16), keyOr ks "salt" 0 (e.uns 32), keyOr ks "ctr" 0 (e.uns 64),
      e.flag ks "zero" 19 with
    | some d, some ha, some hb, some bmin, some salt, some ctr, some z =>
      if bmin = 0 then none
      else some [0x1A + d * 2 ^ 16 + z + put 20 ha + put 24 hb + put 32 salt, ctr.toNat, tol.toNat + put 32 bmin,
        limit + put 32 stat]
    | _, _, _, _, _, _, _ => none
  | _, _, _, _ => none

/-- The kinds of a collective; `reduce-scatter` is three tokens (R369). DESIGN CHOICE, Assumption 100. -/
def collKind : List Tok → Option Nat
  | [.name a, .op '-', .name b] => if a = "reduce".toList ∧ b = "scatter".toList then some 1 else none
  | ts => wordKey [("allreduce", 0), ("allgather", 2), ("broadcast", 3), ("reduce", 4)] ts

/-- `coll src, dst, group=g, count=n[, kind=k][, op=o][, fmt=f][, alg=tree][, root=r][, tag=tn]` (R369). -/
def collForm : Form := fun e pos ks =>
  match pos.map (e.uns 64), must ks "group" (e.uns 64), must ks "count" (e.uns 32), keyOr ks "kind" 0 collKind,
    keyOr ks "op" 0 (wordKey [("add", 0), ("max", 1), ("min", 2)]), keyOr ks "fmt" 0 (wordKey [("f32", 0), ("bf16", 1)]),
    keyOr ks "alg" 0 (wordKey [("ring", 0), ("tree", 1)]), keyOr ks "root" 0 (e.uns 10), tagKey ks with
  | [some src, some dst], some g, some n, some kind, some op, some f, some alg, some root, some tag =>
    if g.toNat % 4096 = 0 ∧ n ≠ 0 then
      some [0x20 + tag + kind * 2 ^ 16 + op * 2 ^ 19 + f * 2 ^ 21 + alg * 2 ^ 26 + put 32 n, root.toNat + g.toNat, src.toNat, dst.toNat]
    else none
  | _, _, _, _, _, _, _, _, _ => none

/-- `offload list=a, n=e[, tag=tn]` and `replay list=a, n=e[, ab=k][, tag=tn]` (R375). -/
def listForm (opc : Nat) : Form := fun e pos ks =>
  match pos, must ks "list" (e.uns 64), must ks "n" (e.uns 16), abKey e ks, tagKey ks with
  | [], some l, some n, some ab, some tag => if n = 0 then none else some [opc + tag + ab + put 32 n, l.toNat, 0, 0]
  | _, _, _, _, _ => none

/-- A pseudo-instruction: its queue (R64), its keys, and its words. -/
structure Pseudo where
  q : QName
  keys : List String
  form : Form

/-- The commands that have a pseudo-instruction (R64). -/
def pseudos : List (String × Pseudo) :=
  [("copy", { q := .cpq, keys := ["peers", "pkg", "die", "quad", "ab", "tag"], form := copyForm }),
   ("gather", { q := .cpq, keys := ["list", "ab", "tag"], form := rowsForm 0x02 }),
   ("scatter", { q := .cpq, keys := ["list", "ab", "tag"], form := rowsForm 0x03 }),
   ("mma", { q := .mxq, keys := ["k", "zero", "fmt", "rm", "salt"], form := mmaForm }),
   ("mrot", { q := .mxq, keys := ["k", "zero"], form := productForm 0x11 }),
   ("drain", { q := .mxq, keys := ["scale", "clip", "rm", "salt", "scales", "clr", "amax", "ascope"], form := drainForm }),
   ("acc", { q := .mxq, keys := ["op", "ty"], form := accForm })]
  ++ [("norm", { q := .mxq, keys := [], form := normForm }), ("alias", { q := .mxq, keys := [], form := aliasForm }),
   ("smm", { q := .mxq, keys := ["limit", "tol", "stat", "bmin", "salt", "ctr", "zero"], form := smmForm }),
   ("coll", { q := .clq, keys := ["group", "count", "kind", "op", "fmt", "alg", "root", "tag"], form := collForm }),
   ("offload", { q := .ofq, keys := ["list", "n", "tag"], form := listForm 0x28 }),
   ("replay", { q := .ofq, keys := ["list", "n", "ab", "tag"], form := listForm 0x29 })]

/-- The `li` words of w0 to w3 into x4n to x4n+3, and the push (steps 3 and 4 of R64). -/
def pushWords (g : Guard) (cb : BitVec 3) (ws : List Nat) (push : Instr) : List Instr :=
  ((List.range 4).flatMap fun i => liWords g (BitVec.ofNat 5 (4 * cb.toNat + i)) (BitVec.ofNat 64 (ws.getD i 0))) ++ [push]

/-- The words of a tile command pseudo-instruction (R64). -/
def readPseudo (p : Pseudo) (e : Env) (g : Guard) (ss : Sufs) (os : List (List Tok)) : Option (List Instr) :=
  (one (pickFlag "try") ss).bind fun t =>
    let pair := if t then os.take 2 |>.map pOp else []
    (splitKeys ("cb" :: p.keys) (if t then os.drop 2 else os)).bind fun r =>
      match keyOr r.2 "cb" e.block blockOp, p.form e r.1 r.2, pair with
      | some cb, some ws, [] => if t then none else some (pushWords g cb ws (.push g p.q cb))
      | some cb, some ws, [some pt, some pf] => some (pushWords g cb ws (.pushTry g p.q cb pt pf))
      | _, _, _ => none

/-- The words of an instruction line, each of which decodes to itself. -/
def wordsOf (e : Env) (guard : Option TableText) (name : List Char) (ss : Sufs) (os : List (List Tok)) : Option (List Instr) :=
  (guardOf (isVector name) e guard).bind fun g =>
    (if name = "li".toList then readLi e g ss os
     else match assoc pseudos name with
       | some p => readPseudo p e g ss os
       | none => (reader name).bind fun r => (r e g ss os).map fun i => [i]).bind fun is =>
    if is.all fits then some is else none

/-! ## Floating literals (R51, R67) -/

/-- The magnitude of a decimal number m · 10^k, exact. -/
def decimal (m : Nat) (k : Int) : Machine.Mag :=
  if 0 ≤ k then { n := m * 10 ^ k.toNat, d := 1, e8 := 0 } else { n := m, d := 10 ^ (-k).toNat, e8 := 0 }

/-- An exact magnitude rounded once, `rne`; none beyond the largest finite value (R67). -/
def nearest (f : Machine.Fmt) (t : Machine.Mag) : Option Nat :=
  let lo := Machine.lowCode f t
  let l := Machine.codeMag f lo
  let h := Machine.codeMag f (lo + 1)
  let mid : Machine.Mag := { n := l.n * h.d + h.n * l.d, d := 2 * l.d * h.d, e8 := 0 }
  let c := if Machine.Mag.lt mid t then lo + 1 else if Machine.Mag.lt t mid then lo else lo + lo % 2
  if c ≤ f.maxPos then some c else none

/-- The pattern of a floating literal (R51). DESIGN CHOICE, Assumption 100. -/
def floatLit (f : Machine.Fmt) : List Tok → Option Nat
  | .op '-' :: ts =>
    match ts with
    | [.name s] => if s = "inf".toList then some (Machine.patternOf f true (f.infC.getD 0)) else none
    | [.int n true] => (nearest f (decimal n 0)).map (Machine.patternOf f true)
    | [.dec m k] => (nearest f (decimal m k)).map (Machine.patternOf f true)
    | _ => none
  | [.name s] => if s = "inf".toList then f.infC else if s = "nan".toList then f.nanC else none
  | [.int n true] => nearest f (decimal n 0)
  | [.dec m k] => nearest f (decimal m k)
  | _ => none

/-! ## Directives (R67 to R69) -/

/-- The keys of a line that has no operand without one. -/
def onlyKeys (allowed : List String) (os : List (List Tok)) : Option Keys :=
  (splitKeys allowed os).bind fun r => if r.1 = [] then some r.2 else none

/-- The keys of `.handle` (R68). -/
def handleKeys : List String :=
  ["base", "space", "fmt", "rows", "cols", "pitch", "orient", "geom", "cursor", "step", "soff", "scount"]

/-- The 32-byte image of a handle (R68, R186), as a number. Its fields hold 0 rows or columns. DESIGN CHOICE, Assumption 100. -/
def handleImage (e : Env) (os : List (List Tok)) : Option Nat :=
  (onlyKeys handleKeys os).bind fun ks =>
    match must ks "base" (e.uns 64), must ks "space" (wordKey [("local", 0), ("window", 1), ("global", 2)]),
      must ks "fmt" (wordKey fmtNames), must ks "rows" (e.uns 16), must ks "cols" (e.uns 16), must ks "pitch" (e.uns 32) with
    | some base, some space, some fmt, some rows, some cols, some pitch =>
      match keyOr ks "orient" 0 (wordKey [("row", 0), ("col", 1)]), keyOr ks "geom" 0 (wordKey [("none", 0), ("row32", 1), ("sq32", 2)]),
        keyOr ks "cursor" 0 (e.sgn 32), keyOr ks "step" 0 (e.sgn 32), keyOr ks "soff" 0 (e.uns 24), keyOr ks "scount" 0 (e.uns 24) with
      | some orient, some geom, some cursor, some step, some soff, some scount =>
        if (geom ≠ 0 ∧ Machine.scaleKind fmt = .none) ∨ (geom = 0 ∧ (soff ≠ 0 ∨ scount ≠ 0)) then none
        else some (base.toNat + put 64 rows + put 80 cols + put 96 pitch + put 128 cursor + put 160 step + fmt * 2 ^ 192
          + space * 2 ^ 197 + orient * 2 ^ 199 + geom * 2 ^ 200 + put 208 soff + put 232 scount)
      | _, _, _, _, _, _ => none
    | _, _, _, _, _, _ => none

/-- An address that may name a label: its value for an image at 0, and whether the base is added at load (R66). -/
def Env.address (e : Env) (ts : List Tok) : Option (Nat × Bool) :=
  (exprAll ts).bind fun x => (x.eval e.val e.here).bind fun v =>
    match x.baseCount e.base, Folkor.item 64 v with
    | some 0, some w => some (w.toNat, false)
    | some 1, some w => some (w.toNat, true)
    | _, _ => none

/-- A launch record (R15, R69), as a number, and the bytes of it that the base is added at. -/
def launchImage (e : Env) (team : Option Nat) (os : List (List Tok)) : Option (Nat × List Nat) :=
  (onlyKeys ["entry", "size", "tile", "pin", "prcap", "args", "done"] os).bind fun ks =>
    let size := match keyed ks "size" with
      | none => team
      | some t => (e.uns 16 t).bind fun n => if 1 ≤ n.toNat ∧ n.toNat ≤ 4096 then some n.toNat else none
    match must ks "entry" e.address, size, keyOr ks "tile" 0 (e.uns 10), keyOr ks "pin" 0 (e.uns 1), keyOr ks "prcap" 1 (e.uns 2),
      keyOr ks "args" (0, false) e.address, must ks "done" e.address with
    | some entry, some n, some tile, some pin, some cap, some args, some dn =>
      if entry.1 % 8 = 0 ∧ dn.1 % 8 = 0 then
        some (entry.1 + n * 2 ^ 64 + put 80 tile + put 90 pin + put 91 cap + args.1 * 2 ^ 128 + dn.1 * 2 ^ 192,
          (if entry.2 then [0] else []) ++ (if args.2 then [16] else []) ++ (if dn.2 then [24] else []))
      else none
    | _, _, _, _, _, _, _ => none

/-- The bits of a register or of a range of registers in a list of `.livemap`: `bit k` is the bit of register k in the map word, and
register 0 has none for x, p and vp (R86). -/
def liveRange (reg : List Char → Option Nat) (bit : Nat → Option Nat) : List Tok → Option Word
  | [.name a] => ((reg (low a)).bind bit).map fun b => 1#64 <<< b
  | [.name a, .op '-', .name z] =>
    match reg (low a), reg (low z) with
    | some a, some z =>
      if a ≤ z then
        (((List.range (z - a + 1)).map fun i => bit (a + i)).foldl
          (fun m b => m.bind fun m => b.map fun b => m ||| 1#64 <<< b) (some 0))
      else none
    | _, _ => none
  | _ => none

/-- The register kinds of `.livemap`, with the bits of R86. -/
def liveKind (k : List Char) : Option (List Tok → Option Word) :=
  let from1 := fun (lo : Nat) (n : Nat) => if n = 0 then none else some (lo + n - 1)
  assoc [("x", liveRange (fun s => (xName s).map BitVec.toNat) (from1 0)),
    ("p", liveRange (fun s => (predName false s).map BitVec.toNat) (from1 31)),
    ("h", liveRange (fun s => (hName s).map BitVec.toNat) fun n => some (38 + n)),
    ("vp", liveRange (fun s => (predName true s).map BitVec.toNat) (from1 54))] k

/-- The map of `.livemap`: each key stands once, and its list runs to the next key (R67). -/
def liveMap : Option (List Tok → Option Word) → List (List Char) → Word → List (List Tok) → Option Word
  | _, _, m, [] => some m
  | cur, seen, m, o :: os =>
    match o with
    | .name k :: .op '=' :: ts =>
      if k ∈ seen then none
      else (liveKind k).bind fun f => (f ts).bind fun w => liveMap (some f) (k :: seen) (m ||| w) os
    | ts => cur.bind fun f => (f ts).bind fun w => liveMap cur seen (m ||| w) os

/-! ## Sources -/

/-- A symbol: its value for an image at 0, how often the base enters it, and whether it is a label of `.text`. -/
structure Sym where
  name : List Char
  val : Int
  base : Int
  text : Bool
deriving DecidableEq, Repr

/-- What one pass over a source has built (R66). -/
structure Asm where
  inData : Bool
  text : List Byte
  data : List Byte
  syms : List Sym
  entries : List (List Char)
  relocs : List Nat
  block : BitVec 3
  team : Option Nat
  map : Option Word
  ended : Bool
deriving DecidableEq, Repr

def Asm.start : Asm :=
  { inData := false, text := [], data := [], syms := [], entries := [], relocs := [], block := 7, team := none, map := none,
    ended := false }

/-- The next multiple of 64 KiB: where `.data` starts (R66). -/
def dataStart (textSize : Nat) : Nat := (textSize + 0xFFFF) / 0x10000 * 0x10000

/-- What a pass knows of the pass before it: the symbols and the length of `.text`. -/
structure Layout where
  syms : List Sym
  size : Nat
deriving DecidableEq, Repr

def Layout.find (l : Layout) (s : List Char) : Option Sym := l.syms.find? fun x => x.name == s

/-- The location counter of the section. -/
def Asm.counter (a : Asm) : Nat := if a.inData then a.data.length else a.text.length

/-- The place in the image of the counter. -/
def Asm.here (a : Asm) (l : Layout) : Nat := if a.inData then dataStart l.size + a.data.length else a.text.length

def Asm.emit (a : Asm) (bs : List Byte) : Asm :=
  if a.inData then { a with data := a.data ++ bs } else { a with text := a.text ++ bs }

/-- What an expression of this line is read under. -/
def Asm.env (a : Asm) (l : Layout) : Env :=
  { val := fun s => (l.find s).map Sym.val, base := fun s => (l.find s).map Sym.base, here := a.here l, block := a.block,
    map := a.map.getD 0x1FFFFFFFFFFFFFFF }

/-- A new symbol: its name is no register name (R50). -/
def Asm.define (a : Asm) (s : Sym) : Option Asm := if reserved s.name then none else some { a with syms := a.syms ++ [s] }

/-- Items of n bytes at a counter that is a multiple of n (R67). -/
def Asm.items (a : Asm) (n : Nat) (vs : List Nat) : Option Asm :=
  if a.inData ∧ a.counter % n = 0 then some (a.emit (vs.flatMap (toBytes n))) else none

/-- A power of two. -/
def powerOfTwo (n : Nat) : Bool := n != 0 && 2 ^ n.log2 == n

/-- All values of a list, or none. -/
def allOf {α β : Type} (f : α → Option β) : List α → Option (List β)
  | [] => some []
  | x :: xs => (f x).bind fun y => (allOf f xs).map fun ys => y :: ys

/-- Item `i` of a list of `n`-byte items: `.` is its own address (R51). -/
def Env.item (e : Env) (n i : Nat) : Env := { e with here := e.here + (n * i : Nat) }

/-- A directive (R67). -/
def directive (l : Layout) (a : Asm) (name : List Char) (os : List (List Tok)) : Option Asm :=
  let e := a.env l
  match String.ofList name, os with
  | "text", [] => some { a with inData := false }
  | "data", [] => some { a with inData := true }
  | "end", [] => some { a with ended := true }
  | "align", [n] =>
    (e.const n).bind fun n =>
      if 0 < n ∧ powerOfTwo n.toNat ∧ (a.inData ∨ 8 ≤ n) then
        some (a.emit (List.replicate ((n.toNat - a.counter % n.toNat) % n.toNat) 0))
      else none
  | "d32", vs => (allOf (fun x => (e.item 4 x.2).pattern 32 x.1) vs.zipIdx).bind fun vs =>
    if vs = [] then none else a.items 4 (vs.map BitVec.toNat)
  | "d64", vs =>
    (allOf (fun x => (e.item 8 x.2).address x.1) vs.zipIdx).bind fun vs =>
      if vs = [] then none
      else (a.items 8 (vs.map Prod.fst)).map fun b =>
        { b with relocs := b.relocs ++ ((vs.zipIdx.filter fun x => x.1.2).map fun x => a.here l + 8 * x.2) }
  | "f32", vs => (allOf (floatLit Machine.fmtF32) vs).bind fun vs => if vs = [] then none else a.items 4 vs
  | "bf16", vs => (allOf (floatLit Machine.fmtBf16) vs).bind fun vs => if vs = [] then none else a.items 2 vs
  | "fill", [c, n, v] =>
    match e.const c, e.const n with
    | some c, some n =>
      if 0 ≤ c ∧ (n = 1 ∨ n = 2 ∨ n = 4 ∨ n = 8) ∧ a.counter % n.toNat = 0 then
        (e.pattern (8 * n.toNat) v).map fun v => a.emit ((List.replicate c.toNat v.toNat).flatMap (toBytes n.toNat))
      else none
    | _, _ => none
  | "equ", [[.name s], v] =>
    (exprAll v).bind fun x =>
      match x.eval e.val e.here, x.baseCount e.base with
      | some v, some b => a.define { name := s, val := v, base := b, text := false }
      | _, _ => none
  | "entry", [[.name s]] => some { a with entries := a.entries ++ [s] }
  | "team", [n] => (e.const n).bind fun n => if 1 ≤ n ∧ n ≤ 4096 then some { a with team := some n.toNat } else none
  | "launch", os =>
    (launchImage e a.team os).bind fun r =>
      if a.inData ∧ a.counter % 64 = 0 then
        some { (a.emit (toBytes 64 r.1)) with relocs := a.relocs ++ r.2.map fun k => a.here l + k }
      else none
  | "handle", os =>
    (handleImage e os).bind fun h => if a.inData ∧ a.counter % 32 = 0 then some (a.emit (toBytes 32 h)) else none
  | "cmdblock", [b] => (blockOp b).map fun b => { a with block := b }
  | "livemap", os => (liveMap none [] 0 os).map fun m => { a with map := some m }
  | "tile", [[.name s], d, q, r, c] =>
    match e.uns 2 d, e.uns 2 q, e.uns 3 r, e.uns 3 c with
    | some d, some q, some r, some c =>
      a.define { name := s, val := 256 * d.toNat + 64 * q.toNat + 8 * r.toNat + c.toNat, base := 0, text := false }
    | _, _, _, _ => none
  | _, _ => none

/-- Is this a `safe` line? Only one may follow a `.livemap` (R67). -/
def Line.isSafe (x : Line) : Bool :=
  match x.body with
  | .word _ n _ _ => n == "safe".toList
  | _ => false

/-- A line after its label. -/
def Asm.body (l : Layout) (a : Asm) : Body → Option Asm
  | .blank => some a
  | .directive n os => directive l a n os
  | .word g n ss os =>
    if a.inData ∨ a.counter % 8 ≠ 0 then none
    else (wordsOf (a.env l) g n ss os).map fun is => { (a.emit (is.flatMap encodeBytes)) with map := none }

/-- A line (R49). -/
def Asm.line (l : Layout) (a : Asm) (x : Line) : Option Asm :=
  if (a.ended ∧ ¬ (x.label = none ∧ x.body = .blank)) ∨ (a.map.isSome ∧ ¬ x.isSafe) then none
  else
    (match x.label with
     | none => some a
     | some s => a.define { name := s, val := a.here l, base := 1, text := !a.inData }).bind fun a => a.body l x.body

/-- How long a line is taken to be while a symbol that it needs has no value yet: as many items as it lists, or one word. The pass
that gives the image reads every line in full. -/
def guessLength : Body → Nat
  | .word _ _ _ _ => 8
  | .directive n os => if n = "d32".toList then 4 * os.length else if n = "d64".toList then 8 * os.length
    else if n = "launch".toList then 64 else if n = "handle".toList then 32 else 0
  | .blank => 0

/-- A line in a pass that only lays the source out. -/
def Asm.lineOr (l : Layout) (a : Asm) (x : Line) : Asm :=
  (a.line l x).getD
    { (a.emit (List.replicate (guessLength x.body) 0)) with
      map := none
      syms := a.syms ++ match x.label with
        | some s => [{ name := s, val := a.here l, base := 1, text := !a.inData }]
        | none => [] }

/-- A pass that only lays the source out. -/
def layOut (xs : List Line) (l : Layout) : Layout :=
  let a := xs.foldl (fun a x => a.lineOr l x) Asm.start
  { syms := a.syms, size := a.text.length }

/-- Passes until the layout no longer changes: a symbol may be used before it is defined, and a `li` is one word or two by its value
(R60, R67). DEDUCED, Assumption 101. -/
def settle (xs : List Line) : Nat → Layout → Layout
  | 0, l => l
  | n + 1, l => let l' := layOut xs l; if l' = l then l else settle xs n l'

/-- What a source assembles to (R66): its sections, the places where the base is added at load, and its entry points. -/
structure Image where
  text : List Byte
  data : List Byte
  relocs : List Nat
  entries : List (List Char × Nat)
deriving DecidableEq, Repr

/-- The lines of a source. -/
def lines (src : List Char) : List (List Char) := src.splitOn '\n'

/-- The image of a source; none where it has an assembly error (R70). -/
def assemble (src : List Char) : Option Image :=
  (allOf line (lines src)).bind fun xs =>
    let l := settle xs (xs.length + 2) { syms := [], size := 0 }
    (xs.foldl (fun a x => a.bind fun a => a.line l x) (some Asm.start)).bind fun a =>
      if a.syms = l.syms ∧ a.text.length = l.size ∧ (a.syms.map Sym.name).Nodup ∧ a.map = none then
        (allOf (fun s => (l.find s).bind fun y =>
          if y.text ∧ y.val % 8 = 0 then some (s, y.val.toNat) else none) a.entries).map fun es =>
          { text := a.text, data := a.data, relocs := a.relocs, entries := es }
      else none

/-- The bytes with the base added to the word at each place (R66). -/
def relocate (b : Nat) (bs : List Byte) (places : List Nat) : List Byte :=
  places.foldl (fun bs k => bs.take k ++ toBytes 8 ((leWord (bs.drop k)).toNat + b) ++ bs.drop (k + 8)) bs

/-- The bytes of an image loaded at B, a multiple of 64 KiB: `.data` starts at the end of `.text` rounded up to one (R66). -/
def Image.load (m : Image) (b : Nat) : Option (List Byte) :=
  if b % 0x10000 = 0 then
    some (relocate b (if m.data = [] then m.text
      else m.text ++ List.replicate (dataStart m.text.length - m.text.length) 0 ++ m.data) m.relocs)
  else none

end Folkor
end Sys2Proof
end

