-- ==== Sys2Proof/Machine/FolkorVerbose.lean ====
section
/-! DEFINITION. Verbose notation: the line that names an instruction word with every default written out (03 R52 to R63). Numbers are
written in decimal, and tables in hexadecimal; R51 lets either stand. -/

namespace Sys2Proof
namespace Folkor

/-! ## Names -/

/-- The name that a table of names gives a value. -/
def nameOf {α : Type} [DecidableEq α] (l : List (String × α)) (a : α) : String := ((l.find? fun e => e.2 == a).map Prod.fst).getD ""

/-- A number in decimal. DESIGN CHOICE, Assumption 100. -/
def num (n : Nat) : String := toString n

/-- A signed number. -/
def signed {n : Nat} (v : BitVec n) : String := toString v.toInt

/-- A signed number after `.` or a register: its sign is always written (R53, R61). -/
def offset (v : Int) : String := if 0 ≤ v then "+" ++ toString v.toNat else "-" ++ toString (-v).toNat

def xText (r : XReg) : String := "x" ++ num r.toNat
def pText (p : PReg) : String := "p" ++ num p.toNat
def vpText (p : PReg) : String := "vp" ++ num p.toNat
def hText (h : HReg) : String := "h" ++ num h.toNat
def bText (b : BitVec 6) : String := "b" ++ num b.toNat
def tText (t : BitVec 6) : String := "t" ++ num t.toNat
def blockText (cb : BitVec 3) : String := "x" ++ num (4 * cb.toNat)

/-- Verbose always writes the cursor mark (R58). -/
def vhText (v : VHandle) : String := hText v.h ++ if v.adv then "+" else "="

def vText : VOp → String
  | .h v => vhText v
  | .x r => xText r

/-- Verbose always writes `[xb+d]`, with d as a signed value (R53). -/
def memText (rb : XReg) (d : BitVec 20) : String := "[" ++ xText rb ++ "+" ++ toString d.toInt ++ "]"

def addrText (ra : XReg) : String := "[" ++ xText ra ++ "]"

/-- The name where the map of R90 gives one, and the number otherwise (R52). -/
def csrText (c : BitVec 12) : String :=
  match (csrNames.find? fun e => e.2 == c.toNat).map Prod.fst with
  | some s => s
  | none => if 0x840 ≤ c.toNat ∧ c.toNat < 0x850 then "dead" ++ num (c.toNat - 0x840) else "csr(" ++ num c.toNat ++ ")"

def qText : QName → String
  | .mxq => "mxq" | .cpq => "cpq" | .clq => "clq" | .ofq => "ofq" | .lnq => "lnq" | .gq n => "gq" ++ num n.toNat

def ityText (t : ITy) : String :=
  nameOf [("s8", ITy.s8), ("s16", .s16), ("s32", .s32), ("s64", .s64), ("n8", .n8), ("n16", .n16), ("n32", .n32), ("n64", .n64)] t

def ftyText (t : FTy) : String := nameOf [("f32", FTy.f32), ("f64", .f64)] t

def kindText : Kind → String
  | .int t => ityText t
  | .f32 => "f32"
  | .f64 => "f64"

def rmText (r : Rm) : String := nameOf [("rne", Rm.rne), ("rtz", .rtz), ("rup", .rup), ("rdn", .rdn), ("sr", .sr), ("dth", .dth)] r

def wmText (w : Wm) : String := nameOf [("set", Wm.set), ("clr", .clr), ("and", .and), ("or", .or)] w

def condText (c : Cond) : String :=
  nameOf [("eq", Cond.eq), ("ne", .ne), ("lt", .lt), ("ge", .ge), ("le", .le), ("gt", .gt), ("ord", .ord), ("uno", .uno)] c

def scopeText (s : Scope) : String :=
  nameOf [("core", Scope.core), ("tile", .tile), ("die", .die), ("package", .package), ("pod", .pod)] s

def hintText (h : Hint) : String := nameOf [("keep", Hint.keep), ("stream", .stream), ("nofill", .nofill)] h

def aordText (o : AOrd) : String := nameOf [("plain", AOrd.plain), ("acq", .acq), ("rel", .rel), ("ar", .acqRel)] o

def opText (o : AmoOp) : String :=
  nameOf [("swap", AmoOp.swap), ("add", .add), ("and", .and), ("or", .or), ("xor", .xor), ("min", .min), ("max", .max), ("fadd", .fadd)] o

/-- The width of an atomic; with `fadd` a floating type (R320). -/
def atomicText (o : AmoOp) (t : ITy) : String := if o = .fadd then (if t = .s64 then "f64" else "f32") else ityText t

def fieldText (f : BitVec 4) : String :=
  ["base", "rows", "cols", "pitch", "cursor", "step", "soff", "scount", "fmt", "space", "orient", "geom", "w1", "w2", "w3"].getD
    f.toNat ""

/-- A raw table (R55). -/
def tableText (vec : Bool) (t : BitVec 8) (a b c : PReg) : String :=
  let p := fun p => if vec then vpText p else pText p
  "<0x" ++ String.ofList (Nat.toDigits 16 t.toNat) ++ ": " ++ p a ++ ", " ++ p b ++ ", " ++ p c ++ ">"

/-! ## Lines -/

/-- A mnemonic and its suffixes, each introduced by `.` (R57). -/
def dotted (m : String) (ss : List String) : String := ss.foldl (fun r s => r ++ "." ++ s) m

/-- A line without its guard: the mnemonic with its suffixes, and the operands. -/
abbrev Text := String × List String

def intText (m : String) (o : IntR) : Text := (dotted m [ityText o.ty], [xText o.rd, xText o.ra, xText o.rb])
def immText (m : String) (o : IntI) : Text := (dotted m [ityText o.ty], [xText o.rd, xText o.ra, signed o.imm])
def oneText (m : String) (o : IntU) : Text := (dotted m [ityText o.ty], [xText o.rd, xText o.ra])
def floatText (m : String) (o : FloatR) : Text := (dotted m [ftyText o.ty, rmText o.rm], [xText o.rd, xText o.ra, xText o.rb])
def fminText (m : String) (o : FminR) : Text := (dotted m [ftyText o.ty], [xText o.rd, xText o.ra, xText o.rb])
def plogOps (vec : Bool) (d : PReg) (t : BitVec 8) (a b c : PReg) : List String :=
  [if vec then vpText d else pText d, tableText vec t a b c]

/-- `ordName` is how the word writes its ordering when it is not plain. -/
def ordText (ordName : String) (o : Bool) : String := if o then ordName else "plain"

def loadText (m : String) (o : MemM) : Text :=
  (dotted m [ityText o.ty, ordText "acq" o.ord, scopeText o.scope, hintText o.hint], [xText o.r, memText o.rb o.disp])
def storeText (m : String) (o : MemM) : Text :=
  (dotted m [ityText o.ty, ordText "rel" o.ord, scopeText o.scope, hintText o.hint], [memText o.rb o.disp, xText o.r])
def blockMText (m : String) (o : BlockM) : Text := (dotted m [scopeText o.scope, hintText o.hint], [memText o.rb o.disp])
def addrMText (m : String) (o : AddrM) : Text := (m, [xText o.r, memText o.rb o.disp])
def handleSufs (ordName : String) (o : HandleM) : List String := [ordText ordName o.ord, scopeText o.scope, hintText o.hint]
def vec2Text (m : String) (o : VecR2) : Text := (dotted m [rmText o.rm], [vhText o.d, vText o.a, vText o.b])
def vminText (m : String) (o : VecMin) : Text := (m, [vhText o.d, vText o.a, vText o.b])
def vecFText (m : String) (o : VecF) : Text := (dotted m [rmText o.rm], [vhText o.d, vhText o.a])
def vabsText (m : String) (o : VecU) : Text := (m, [vhText o.d, vhText o.a])
def vmovText (m : String) (o : VecMov) : Text := (m, [vhText o.d, vText o.a])
def vpcntText (m : String) (o : VecPcnt) : Text := (m, [xText o.rd, vpText o.a])
def csrOps (o : CsrS) : List String := [xText o.rd, csrText o.csr, xText o.ra]

/-- An operand that is written only where it is present. -/
def optText (k : String) : Option XReg → List String
  | none => []
  | some r => [k ++ "=" ++ xText r]

/-- The kinds of a fence in the order of R57, and its scope. -/
def fenceText (f : FenceS) : List String :=
  (if f.ld then ["ld"] else []) ++ (if f.st then ["st"] else []) ++ (if f.acq then ["acq"] else []) ++ (if f.rel then ["rel"] else [])
    ++ (if f.sc then ["sc"] else []) ++ (if f.ro then ["ro"] else []) ++ (if f.eng then ["eng"] else []) ++ [scopeText f.scope]

/-- The guard of a word, and the word's line without it. -/
def textOf : Instr → Option (Guard × Text)
  | .add g o => some (g, intText "add" o) | .sub g o => some (g, intText "sub" o) | .mul g o => some (g, intText "mul" o)
  | .mulh g o => some (g, intText "mulh" o) | .div g o => some (g, intText "div" o) | .rem g o => some (g, intText "rem" o)
  | .and g o => some (g, intText "and" o) | .or g o => some (g, intText "or" o) | .xor g o => some (g, intText "xor" o)
  | .andn g o => some (g, intText "andn" o) | .sll g o => some (g, intText "sll" o) | .srl g o => some (g, intText "srl" o)
  | .sra g o => some (g, intText "sra" o) | .rot g o => some (g, intText "rot" o) | .min g o => some (g, intText "min" o)
  | .max g o => some (g, intText "max" o)
  | .addImm g o => some (g, immText "add" o) | .mulImm g o => some (g, immText "mul" o) | .andImm g o => some (g, immText "and" o)
  | .orImm g o => some (g, immText "or" o) | .xorImm g o => some (g, immText "xor" o) | .andnImm g o => some (g, immText "andn" o)
  | .sllImm g o => some (g, immText "sll" o) | .srlImm g o => some (g, immText "srl" o) | .sraImm g o => some (g, immText "sra" o)
  | .rotImm g o => some (g, immText "rot" o) | .minImm g o => some (g, immText "min" o) | .maxImm g o => some (g, immText "max" o)
  | .clz g o => some (g, oneText "clz" o) | .ctz g o => some (g, oneText "ctz" o) | .popc g o => some (g, oneText "popc" o)
  | .sext g o => some (g, oneText "sext" o) | .zext g o => some (g, oneText "zext" o)
  | .li g rd v => some (g, "li", [xText rd, signed v]) | .lih g rd v => some (g, "lih", [xText rd, num v.toNat])
  | .lea g o => some (g, addrMText "lea" o) | .adr g rd v => some (g, "adr", [xText rd, "." ++ offset v.toInt])
  | .padr g rd ra rb => some (g, "padr", [xText rd, xText ra, xText rb])
  | .fadd g o => some (g, floatText "fadd" o) | .fsub g o => some (g, floatText "fsub" o) | .fmul g o => some (g, floatText "fmul" o)
  | .fma g o => some (g, dotted "fma" [ftyText o.ty, rmText o.rm], [xText o.rd, xText o.ra, xText o.rb, xText o.rc])
  | .fdiv g o => some (g, floatText "fdiv" o)
  | .fsqrt g o => some (g, dotted "fsqrt" [ftyText o.ty, rmText o.rm], [xText o.rd, xText o.ra])
  | .fmin g o => some (g, fminText "fmin" o) | .fmax g o => some (g, fminText "fmax" o)
  | .fcvt g o => some (g, dotted "fcvt" [kindText o.dst, kindText o.src, rmText o.rm], [xText o.rd, xText o.ra])
  | .fclass g o => some (g, dotted "fclass" [ftyText o.ty], [xText o.rd, xText o.ra])
  | .cmp g o => some (g, dotted "cmp" [condText o.cond, ityText o.ty, wmText o.wm], [pText o.pt, pText o.pf, xText o.ra,
      match o.b with | .reg r => xText r | .imm v => signed v])
  | .fcmp g o => some (g, dotted "fcmp" [condText o.cond, ftyText o.ty, wmText o.wm], [pText o.pt, pText o.pf, xText o.ra, xText o.rb])
  | .tbit g o => some (g, dotted "tbit" [if o.zero then "zero" else "one", wmText o.wm], [pText o.pt, pText o.pf, xText o.ra, num o.n.toNat])
  | .plog g o => some (g, "plog", plogOps false o.pd o.table o.sa o.sb o.sc)
  | .pmovToX g x => some (g, "pmov", [xText x, "pr"]) | .pmovToPr g x => some (g, "pmov", ["pr", xText x])
  | .br g v => some (g, "br", ["." ++ offset (8 * v.toInt)]) | .call g v => some (g, "call", ["." ++ offset (8 * v.toInt)])
  | .jr g rd ra => some (g, "jr", [xText rd, xText ra]) | .exit g => some (g, "exit", [])
  | .ld g o => some (g, loadText "ld" o) | .st g o => some (g, storeText "st" o)
  | .lds g o => some (g, dotted "lds" ([ityText o.ty] ++ (if o.take then ["take"] else []) ++ [ordText "acq" o.ord, scopeText o.scope]),
      [xText o.r, memText o.rb o.disp])
  | .stf g o => some (g, dotted "stf" [ityText o.ty, ordText "rel" o.ord, scopeText o.scope], [memText o.rb o.disp, xText o.r])
  | .ldc g o => some (g, dotted "ldc" [ityText o.ty, scopeText o.scope, hintText o.hint], [xText o.r, memText o.rb o.disp])
  | .pref g o => some (g, blockMText "pref" o) | .clean g o => some (g, blockMText "clean" o) | .inval g o => some (g, blockMText "inval" o)
  | .msend g o => some (g, addrMText "msend" o) | .mrecv g o => some (g, addrMText "mrecv" o)
  | .amo g o => some (g, dotted "amo" [opText o.op, atomicText o.op o.ty, aordText o.ord, scopeText o.scope],
      [xText o.rd, addrText o.ra, xText o.rb])
  | .cas g o => some (g, dotted "cas" [ityText o.ty, aordText o.ord, scopeText o.scope], [xText o.rd, addrText o.ra, xText o.rb, xText o.rc])
  | .red g o => some (g, dotted "red" [opText o.op, atomicText o.op o.ty, aordText o.ord, scopeText o.scope], [addrText o.ra, xText o.rb])
  | .fence g o => some (g, dotted "fence" (fenceText o), [])
  | .arrive g rd b => some (g, "arrive", [xText rd, bText b])
  | .bwait g b ra pt pf => some (g, "bwait", [bText b, xText ra, pText pt, pText pf])
  | .bmask g b ra => some (g, "bmask", [bText b, addrText ra]) | .bmaskRd g b ra => some (g, "bmask.rd", [bText b, addrText ra])
  | .push g q cb => some (g, "push.blk", [qText q, blockText cb])
  | .pushTry g q cb pt pf => some (g, "push.try", [pText pt, pText pf, qText q, blockText cb])
  | .qstat g q rd => some (g, "qstat", [xText rd, qText q])
  | .wait g o => some (g, "wait", ["ld=" ++ num o.ld.toNat, "st=" ++ num o.st.toNat, "vx=" ++ num o.vx.toNat, "cp=" ++ num o.cp.toNat,
      "tl=" ++ num o.tl.toNat])
  | .twait g t => some (g, "twait", [tText t]) | .tany g rd ra => some (g, "tany", [xText rd, xText ra])
  | .tfind g rd ra => some (g, "tfind", [xText rd, xText ra]) | .cancel g t rd => some (g, "cancel", [xText rd, tText t])
  | .abinit g n ra => some (g, "abinit", [num n.toNat, xText ra]) | .abinitReset g n ra => some (g, "abinit.reset", [num n.toNat, xText ra])
  | .abwait g n => some (g, "abwait", [num n.toNat])
  | .hset g h f x => some (g, "hset", [hText h, fieldText f, xText x]) | .hget g x h f => some (g, "hget", [xText x, hText h, fieldText f])
  | .hmov g h hs => some (g, "hmov", [hText h, hText hs]) | .hadv g h x => some (g, "hadv", [hText h, xText x])
  | .hld g o => some (g, dotted "hld" (handleSufs "acq" o), [hText o.h, memText o.rb o.disp])
  | .hst g o => some (g, dotted "hst" (handleSufs "rel" o), [memText o.rb o.disp, hText o.h])
  | .vadd g o => some (g, vec2Text "vadd" o) | .vsub g o => some (g, vec2Text "vsub" o) | .vmul g o => some (g, vec2Text "vmul" o)
  | .vfma g o => some (g, dotted "vfma" [rmText o.rm], [vhText o.d, vhText o.a, vText o.b, vText o.c])
  | .vmin g o => some (g, vminText "vmin" o) | .vmax g o => some (g, vminText "vmax" o)
  | .vabs g o => some (g, vabsText "vabs" o) | .vneg g o => some (g, vabsText "vneg" o)
  | .vexp2 g o => some (g, vecFText "vexp2" o) | .vlog2 g o => some (g, vecFText "vlog2" o) | .vrcp g o => some (g, vecFText "vrcp" o)
  | .vrsq g o => some (g, vecFText "vrsq" o) | .vtanh g o => some (g, vecFText "vtanh" o)
  | .vcvt g o => some (g, dotted "vcvt" [rmText o.rm], [vhText o.d, vhText o.a] ++ optText "scale" o.scale ++ optText "clip" o.clip)
  | .vquant g o => some (g, dotted "vquant" [rmText o.rm], [vhText o.d, vhText o.a] ++ optText "scale" o.scale
      ++ ["calc=" ++ if o.calcScales then "1" else "0"]
      ++ match o.amax with | none => [] | some a => ["amax=" ++ xText a.1, "ascope=" ++ scopeText a.2])
  | .vamax g o => some (g, "vamax", [xText o.rd, vhText o.a, xText o.xb])
  | .vred g o => some (g, dotted "vred" [rmText o.rm], [xText o.rd, vhText o.a, xText o.xb])
  | .vcmp g o => some (g, dotted "vcmp" [condText o.cond, wmText o.wm], [vpText o.pt, vpText o.pf, vhText o.a, vText o.b])
  | .vsel g o => some (g, "vsel", [vhText o.d, vpText o.sel, vText o.a, vText o.b])
  | .vperm g o => some (g, "vperm", [vhText o.d, vhText o.a, vhText o.ix]) | .vbcast g o => some (g, "vbcast", [vhText o.d, vhText o.a, xText o.x])
  | .vmov g o => some (g, vmovText "vmov" o) | .vfill g o => some (g, vmovText "vfill" o) | .vempty g d => some (g, "vempty", [vhText d])
  | .vplog g o => some (g, "vplog", plogOps true o.pd o.table o.sa o.sb o.sc)
  | .vpcnt g o => some (g, vpcntText "vpcnt" o) | .vpfirst g o => some (g, vpcntText "vpfirst" o)
  | .vpmovFromX g o => some (g, "vpmov", [vpText o.pd, "q=" ++ num o.q.toNat, "keep=" ++ if o.keep then "1" else "0", xText o.x])
  | .vpmovToX g o => some (g, "vpmov", [xText o.rd, "q=" ++ num o.q.toNat, vpText o.a])
  | .csrr g rd c => some (g, "csrr", [xText rd, csrText c]) | .csrw g o => some (g, "csrw", csrOps o)
  | .csrset g o => some (g, "csrset", csrOps o) | .csrclr g o => some (g, "csrclr", csrOps o)
  | .trap g n => some (g, "trap", [num n.toNat]) | .eret g => some (g, "eret", []) | .wfi g ra => some (g, "wfi", [xText ra])
  | .seal g ra rb => some (g, "seal", if rb = 0 then [xText ra] else [xText ra, xText rb])
  | .tlbi g ra rb s => some (g, "tlbi", [xText ra, xText rb, scopeText s])
  | .spawn g q ra => some (g, "spawn", [num q.toNat, addrText ra]) | .join g ra rb => some (g, "join", [addrText ra, xText rb])
  | .safe g _ => some (g, "safe", []) | .yield g => some (g, "yield", []) | .prio g n => some (g, "prio", [num n.toNat])
  | .gang g b => some (g, "gang", [bText b]) | .sign g ra => some (g, "sign", [addrText ra])
  | .dissolve g ra => some (g, "dissolve", [addrText ra]) | .xfer g ra => some (g, "xfer", [addrText ra])
  | .sstep g ra => some (g, "sstep", [addrText ra])
  | .qget g rd q pt pf => some (g, "qget", (if pt = 0 ∧ pf = 0 then [] else [pText pt, pText pf]) ++ [xText rd, qText (.gq q)])
  | .rand g rd => some (g, "rand", [xText rd])
  | _ => none

/-- The registers of one kind that a map names, given with their bits. -/
def liveList (m : Word) (key : String) (rs : List (String × Nat)) : List String :=
  match (rs.filter fun r => m.getLsbD r.2).map Prod.fst with
  | [] => []
  | ns => [key ++ "=" ++ String.intercalate "," ns]

/-- The `.livemap` line of a map word (R67, R86). -/
def mapText (m : Word) : String :=
  let from1 := fun (pre : String) (lo n : Nat) => (List.range n).map fun k => (pre ++ num (k + 1), lo + k)
  ".livemap " ++ String.intercalate ", " (liveList m "x" (from1 "x" 0 31) ++ liveList m "p" (from1 "p" 31 7)
    ++ liveList m "h" ((List.range 16).map fun k => ("h" ++ num k, 38 + k)) ++ liveList m "vp" (from1 "vp" 54 7))

/-- The verbose lines of an instruction word: the raw guard is always written (R56), and a `safe` follows its live map. -/
def verbose (i : Instr) : String :=
  match textOf i with
  | none => ""
  | some (g, t) =>
    let vec := isVector (t.1.toList.takeWhile fun c => c != '.')
    let word := "?" ++ tableText vec g.t g.a g.b g.c ++ " " ++ t.1
      ++ (if t.2 = [] then "" else " " ++ String.intercalate ", " t.2)
    match i with
    | .safe _ m => mapText m ++ "\n" ++ word
    | _ => word

end Folkor
end Sys2Proof
end

