-- ==== Sys2Proof/Laws/Folkor.lean ====
section
/-! SUPPORT. What the Folkor assembler can answer: every word of an image decodes to its instruction, a pseudo-instruction is five to
nine words, and a source that has an error has no image (03 R60, R64, R66, R70). -/

namespace Sys2Proof
namespace Folkor

/-- A word that fits is the encoding of an instruction that the decoder reads back. -/
theorem fits_decode {i : Instr} (h : fits i = true) : decodeBytes (encodeBytes i) = .ok (i, i.size) := by
  unfold fits at h
  split at h
  · rename_i r hr
    rw [hr, eq_of_beq h]
  · cases h

/-- Every word of an instruction line decodes to itself (R70). -/
theorem wordsOf_decode {e : Env} {g : Option TableText} {n : List Char} {ss : Sufs} {os : List (List Tok)} {is : List Instr}
    (h : wordsOf e g n ss os = some is) : ∀ i ∈ is, decodeBytes (encodeBytes i) = .ok (i, i.size) := by
  simp only [wordsOf, Option.bind_eq_some_iff] at h
  obtain ⟨_, _, js, _, hj⟩ := h
  split at hj
  · rename_i hf
    cases hj
    exact fun i hi => fits_decode (List.all_eq_true.mp hf i hi)
  · cases hj

/-- `li` is one word or two (R60). -/
theorem length_liWords (g : Guard) (rd : XReg) (v : Word) : (liWords g rd v).length = 1 ∨ (liWords g rd v).length = 2 := by
  unfold liWords
  split
  · exact .inl rfl
  · exact .inr rfl

/-- A value of one `li` word is the sign-extended immediate (R60). -/
theorem li_signExtend (v : Word) (h : -(2 ^ 34) ≤ v.toInt ∧ v.toInt < 2 ^ 34) : (v.truncate 35).signExtend 64 = v := by
  apply BitVec.eq_of_toInt_eq
  have hv := v.isLt
  rw [BitVec.toInt_signExtend_of_le (by omega), BitVec.truncate_eq_setWidth, BitVec.toInt_setWidth]
  rw [BitVec.toInt_eq_toNat_bmod, Int.bmod_def] at h ⊢
  rw [Int.bmod_def]
  omega

/-- A pseudo-instruction expands to between five and nine words (R64). -/
theorem length_pushWords (g : Guard) (cb : BitVec 3) (ws : List Nat) (p : Instr) :
    5 ≤ (pushWords g cb ws p).length ∧ (pushWords g cb ws p).length ≤ 9 := by
  have h := fun rd v => length_liWords g rd v
  have h0 := h (BitVec.ofNat 5 (4 * cb.toNat + 0)) (BitVec.ofNat 64 (ws.getD 0 0))
  have h1 := h (BitVec.ofNat 5 (4 * cb.toNat + 1)) (BitVec.ofNat 64 (ws.getD 1 0))
  have h2 := h (BitVec.ofNat 5 (4 * cb.toNat + 2)) (BitVec.ofNat 64 (ws.getD 2 0))
  have h3 := h (BitVec.ofNat 5 (4 * cb.toNat + 3)) (BitVec.ofNat 64 (ws.getD 3 0))
  have e : (pushWords g cb ws p).length =
      (liWords g (BitVec.ofNat 5 (4 * cb.toNat + 0)) (BitVec.ofNat 64 (ws.getD 0 0))).length
      + (liWords g (BitVec.ofNat 5 (4 * cb.toNat + 1)) (BitVec.ofNat 64 (ws.getD 1 0))).length
      + (liWords g (BitVec.ofNat 5 (4 * cb.toNat + 2)) (BitVec.ofNat 64 (ws.getD 2 0))).length
      + (liWords g (BitVec.ofNat 5 (4 * cb.toNat + 3)) (BitVec.ofNat 64 (ws.getD 3 0))).length + 1 := by
    simp only [pushWords, List.range, List.range.loop, List.flatMap_cons, List.flatMap_nil, List.length_append, List.length_cons,
      List.length_nil]
    omega
  omega

/-- An image is loaded only at a multiple of 64 KiB (R66). -/
theorem load_aligned {m : Image} {b : Nat} {bs : List Byte} (h : m.load b = some bs) : b % 0x10000 = 0 := by
  unfold Image.load at h
  split at h
  · assumption
  · cases h

/-- After `.end` only a blank line may stand (R67). -/
theorem line_after_end {l : Layout} {a b : Asm} {x : Line} (he : a.ended = true) (h : a.line l x = some b) :
    x.label = none ∧ x.body = .blank := by
  unfold Asm.line at h
  split at h
  · cases h
  · rename_i hn
    by_contra hc
    exact hn (.inl ⟨he, hc⟩)

end Folkor
end Sys2Proof
end

