-- ==== Sys2Proof/Laws/State.lean ====
section
/-! SUPPORT. What each update of the state, and of a core, leaves and gives: one lemma per field per update. -/

namespace Sys2Proof
namespace Machine

/-! ## Updates of the state -/

@[simp] theorem State.setCore_time (s : State) (k : Nat) (c : Core) : (s.setCore k c).time = s.time := rfl
@[simp] theorem State.setCore_cur (s : State) (k : Nat) (c : Core) : (s.setCore k c).cur = s.cur := rfl
@[simp] theorem State.setCore_agenda (s : State) (k : Nat) (c : Core) : (s.setCore k c).agenda = s.agenda := rfl
@[simp] theorem State.setCore_seq (s : State) (k : Nat) (c : Core) : (s.setCore k c).seq = s.seq := rfl
@[simp] theorem State.setCore_mem (s : State) (k : Nat) (c : Core) : (s.setCore k c).mem = s.mem := rfl
@[simp] theorem State.setCore_full (s : State) (k : Nat) (c : Core) : (s.setCore k c).full = s.full := rfl
@[simp] theorem State.setCore_marks (s : State) (k : Nat) (c : Core) : (s.setCore k c).marks = s.marks := rfl
@[simp] theorem State.setCore_tiles (s : State) (k : Nat) (c : Core) : (s.setCore k c).tiles = s.tiles := rfl
@[simp] theorem State.setCore_quads (s : State) (k : Nat) (c : Core) : (s.setCore k c).quads = s.quads := rfl
@[simp] theorem State.setCore_dies (s : State) (k : Nat) (c : Core) : (s.setCore k c).dies = s.dies := rfl
@[simp] theorem State.setCore_pkgs (s : State) (k : Nat) (c : Core) : (s.setCore k c).pkgs = s.pkgs := rfl
@[simp] theorem State.setCore_sectors (s : State) (k : Nat) (c : Core) : (s.setCore k c).sectors = s.sectors := rfl
@[simp] theorem State.setCore_partials (s : State) (k : Nat) (c : Core) : (s.setCore k c).partials = s.partials := rfl
@[simp] theorem State.setCore_pkgMin (s : State) (k : Nat) (c : Core) : (s.setCore k c).pkgMin = s.pkgMin := rfl
@[simp] theorem State.setCore_podMin (s : State) (k : Nat) (c : Core) : (s.setCore k c).podMin = s.podMin := rfl
@[simp] theorem State.setCore_stamps (s : State) (k : Nat) (c : Core) : (s.setCore k c).stamps = s.stamps := rfl
@[simp] theorem State.setCore_scClk (s : State) (k : Nat) (c : Core) : (s.setCore k c).scClk = s.scClk := rfl
@[simp] theorem State.setCore_waiters (s : State) (k : Nat) (c : Core) : (s.setCore k c).waiters = s.waiters := rfl
@[simp] theorem State.setCore_grads (s : State) (k : Nat) (c : Core) : (s.setCore k c).grads = s.grads := rfl
@[simp] theorem State.setCore_gstarve (s : State) (k : Nat) (c : Core) : (s.setCore k c).gstarve = s.gstarve := rfl
@[simp] theorem State.setCore_colls (s : State) (k : Nat) (c : Core) : (s.setCore k c).colls = s.colls := rfl
@[simp] theorem State.setCore_closures (s : State) (k : Nat) (c : Core) : (s.setCore k c).closures = s.closures := rfl
@[simp] theorem State.setCore_nonMembers (s : State) (k : Nat) (c : Core) : (s.setCore k c).nonMembers = s.nonMembers := rfl
@[simp] theorem State.setCore_linksDown (s : State) (k : Nat) (c : Core) : (s.setCore k c).linksDown = s.linksDown := rfl
@[simp] theorem State.setCore_hostMem (s : State) (k : Nat) (c : Core) : (s.setCore k c).hostMem = s.hostMem := rfl
@[simp] theorem State.setCore_hostBad (s : State) (k : Nat) (c : Core) : (s.setCore k c).hostBad = s.hostBad := rfl
@[simp] theorem State.setCore_hostReply (s : State) (k : Nat) (c : Core) : (s.setCore k c).hostReply = s.hostReply := rfl
@[simp] theorem State.setCore_posted (s : State) (k : Nat) (c : Core) : (s.setCore k c).posted = s.posted := rfl
@[simp] theorem State.onCore_time (s : State) (k : Nat) (f : Core → Core) : (s.onCore k f).time = s.time := rfl
@[simp] theorem State.onCore_cur (s : State) (k : Nat) (f : Core → Core) : (s.onCore k f).cur = s.cur := rfl
@[simp] theorem State.onCore_agenda (s : State) (k : Nat) (f : Core → Core) : (s.onCore k f).agenda = s.agenda := rfl
@[simp] theorem State.onCore_seq (s : State) (k : Nat) (f : Core → Core) : (s.onCore k f).seq = s.seq := rfl
@[simp] theorem State.onCore_mem (s : State) (k : Nat) (f : Core → Core) : (s.onCore k f).mem = s.mem := rfl
@[simp] theorem State.onCore_full (s : State) (k : Nat) (f : Core → Core) : (s.onCore k f).full = s.full := rfl
@[simp] theorem State.onCore_marks (s : State) (k : Nat) (f : Core → Core) : (s.onCore k f).marks = s.marks := rfl
@[simp] theorem State.onCore_tiles (s : State) (k : Nat) (f : Core → Core) : (s.onCore k f).tiles = s.tiles := rfl
@[simp] theorem State.onCore_quads (s : State) (k : Nat) (f : Core → Core) : (s.onCore k f).quads = s.quads := rfl
@[simp] theorem State.onCore_dies (s : State) (k : Nat) (f : Core → Core) : (s.onCore k f).dies = s.dies := rfl
@[simp] theorem State.onCore_pkgs (s : State) (k : Nat) (f : Core → Core) : (s.onCore k f).pkgs = s.pkgs := rfl
@[simp] theorem State.onCore_sectors (s : State) (k : Nat) (f : Core → Core) : (s.onCore k f).sectors = s.sectors := rfl
@[simp] theorem State.onCore_partials (s : State) (k : Nat) (f : Core → Core) : (s.onCore k f).partials = s.partials := rfl
@[simp] theorem State.onCore_pkgMin (s : State) (k : Nat) (f : Core → Core) : (s.onCore k f).pkgMin = s.pkgMin := rfl
@[simp] theorem State.onCore_podMin (s : State) (k : Nat) (f : Core → Core) : (s.onCore k f).podMin = s.podMin := rfl
@[simp] theorem State.onCore_stamps (s : State) (k : Nat) (f : Core → Core) : (s.onCore k f).stamps = s.stamps := rfl
@[simp] theorem State.onCore_scClk (s : State) (k : Nat) (f : Core → Core) : (s.onCore k f).scClk = s.scClk := rfl
@[simp] theorem State.onCore_waiters (s : State) (k : Nat) (f : Core → Core) : (s.onCore k f).waiters = s.waiters := rfl
@[simp] theorem State.onCore_grads (s : State) (k : Nat) (f : Core → Core) : (s.onCore k f).grads = s.grads := rfl
@[simp] theorem State.onCore_gstarve (s : State) (k : Nat) (f : Core → Core) : (s.onCore k f).gstarve = s.gstarve := rfl
@[simp] theorem State.onCore_colls (s : State) (k : Nat) (f : Core → Core) : (s.onCore k f).colls = s.colls := rfl
@[simp] theorem State.onCore_closures (s : State) (k : Nat) (f : Core → Core) : (s.onCore k f).closures = s.closures := rfl
@[simp] theorem State.onCore_nonMembers (s : State) (k : Nat) (f : Core → Core) : (s.onCore k f).nonMembers = s.nonMembers := rfl
@[simp] theorem State.onCore_linksDown (s : State) (k : Nat) (f : Core → Core) : (s.onCore k f).linksDown = s.linksDown := rfl
@[simp] theorem State.onCore_hostMem (s : State) (k : Nat) (f : Core → Core) : (s.onCore k f).hostMem = s.hostMem := rfl
@[simp] theorem State.onCore_hostBad (s : State) (k : Nat) (f : Core → Core) : (s.onCore k f).hostBad = s.hostBad := rfl
@[simp] theorem State.onCore_hostReply (s : State) (k : Nat) (f : Core → Core) : (s.onCore k f).hostReply = s.hostReply := rfl
@[simp] theorem State.onCore_posted (s : State) (k : Nat) (f : Core → Core) : (s.onCore k f).posted = s.posted := rfl
@[simp] theorem State.setTile_time (s : State) (t : Nat) (v : Tile) : (s.setTile t v).time = s.time := rfl
@[simp] theorem State.setTile_cur (s : State) (t : Nat) (v : Tile) : (s.setTile t v).cur = s.cur := rfl
@[simp] theorem State.setTile_agenda (s : State) (t : Nat) (v : Tile) : (s.setTile t v).agenda = s.agenda := rfl
@[simp] theorem State.setTile_seq (s : State) (t : Nat) (v : Tile) : (s.setTile t v).seq = s.seq := rfl
@[simp] theorem State.setTile_mem (s : State) (t : Nat) (v : Tile) : (s.setTile t v).mem = s.mem := rfl
@[simp] theorem State.setTile_full (s : State) (t : Nat) (v : Tile) : (s.setTile t v).full = s.full := rfl
@[simp] theorem State.setTile_marks (s : State) (t : Nat) (v : Tile) : (s.setTile t v).marks = s.marks := rfl
@[simp] theorem State.setTile_cores (s : State) (t : Nat) (v : Tile) : (s.setTile t v).cores = s.cores := rfl
@[simp] theorem State.setTile_quads (s : State) (t : Nat) (v : Tile) : (s.setTile t v).quads = s.quads := rfl
@[simp] theorem State.setTile_dies (s : State) (t : Nat) (v : Tile) : (s.setTile t v).dies = s.dies := rfl
@[simp] theorem State.setTile_pkgs (s : State) (t : Nat) (v : Tile) : (s.setTile t v).pkgs = s.pkgs := rfl
@[simp] theorem State.setTile_sectors (s : State) (t : Nat) (v : Tile) : (s.setTile t v).sectors = s.sectors := rfl
@[simp] theorem State.setTile_partials (s : State) (t : Nat) (v : Tile) : (s.setTile t v).partials = s.partials := rfl
@[simp] theorem State.setTile_pkgMin (s : State) (t : Nat) (v : Tile) : (s.setTile t v).pkgMin = s.pkgMin := rfl
@[simp] theorem State.setTile_podMin (s : State) (t : Nat) (v : Tile) : (s.setTile t v).podMin = s.podMin := rfl
@[simp] theorem State.setTile_stamps (s : State) (t : Nat) (v : Tile) : (s.setTile t v).stamps = s.stamps := rfl
@[simp] theorem State.setTile_scClk (s : State) (t : Nat) (v : Tile) : (s.setTile t v).scClk = s.scClk := rfl
@[simp] theorem State.setTile_waiters (s : State) (t : Nat) (v : Tile) : (s.setTile t v).waiters = s.waiters := rfl
@[simp] theorem State.setTile_grads (s : State) (t : Nat) (v : Tile) : (s.setTile t v).grads = s.grads := rfl
@[simp] theorem State.setTile_gstarve (s : State) (t : Nat) (v : Tile) : (s.setTile t v).gstarve = s.gstarve := rfl
@[simp] theorem State.setTile_colls (s : State) (t : Nat) (v : Tile) : (s.setTile t v).colls = s.colls := rfl
@[simp] theorem State.setTile_closures (s : State) (t : Nat) (v : Tile) : (s.setTile t v).closures = s.closures := rfl
@[simp] theorem State.setTile_nonMembers (s : State) (t : Nat) (v : Tile) : (s.setTile t v).nonMembers = s.nonMembers := rfl
@[simp] theorem State.setTile_linksDown (s : State) (t : Nat) (v : Tile) : (s.setTile t v).linksDown = s.linksDown := rfl
@[simp] theorem State.setTile_hostMem (s : State) (t : Nat) (v : Tile) : (s.setTile t v).hostMem = s.hostMem := rfl
@[simp] theorem State.setTile_hostBad (s : State) (t : Nat) (v : Tile) : (s.setTile t v).hostBad = s.hostBad := rfl
@[simp] theorem State.setTile_hostReply (s : State) (t : Nat) (v : Tile) : (s.setTile t v).hostReply = s.hostReply := rfl
@[simp] theorem State.setTile_posted (s : State) (t : Nat) (v : Tile) : (s.setTile t v).posted = s.posted := rfl
@[simp] theorem State.onTile_time (s : State) (t : Nat) (f : Tile → Tile) : (s.onTile t f).time = s.time := rfl
@[simp] theorem State.onTile_cur (s : State) (t : Nat) (f : Tile → Tile) : (s.onTile t f).cur = s.cur := rfl
@[simp] theorem State.onTile_agenda (s : State) (t : Nat) (f : Tile → Tile) : (s.onTile t f).agenda = s.agenda := rfl
@[simp] theorem State.onTile_seq (s : State) (t : Nat) (f : Tile → Tile) : (s.onTile t f).seq = s.seq := rfl
@[simp] theorem State.onTile_mem (s : State) (t : Nat) (f : Tile → Tile) : (s.onTile t f).mem = s.mem := rfl
@[simp] theorem State.onTile_full (s : State) (t : Nat) (f : Tile → Tile) : (s.onTile t f).full = s.full := rfl
@[simp] theorem State.onTile_marks (s : State) (t : Nat) (f : Tile → Tile) : (s.onTile t f).marks = s.marks := rfl
@[simp] theorem State.onTile_cores (s : State) (t : Nat) (f : Tile → Tile) : (s.onTile t f).cores = s.cores := rfl
@[simp] theorem State.onTile_quads (s : State) (t : Nat) (f : Tile → Tile) : (s.onTile t f).quads = s.quads := rfl
@[simp] theorem State.onTile_dies (s : State) (t : Nat) (f : Tile → Tile) : (s.onTile t f).dies = s.dies := rfl
@[simp] theorem State.onTile_pkgs (s : State) (t : Nat) (f : Tile → Tile) : (s.onTile t f).pkgs = s.pkgs := rfl
@[simp] theorem State.onTile_sectors (s : State) (t : Nat) (f : Tile → Tile) : (s.onTile t f).sectors = s.sectors := rfl
@[simp] theorem State.onTile_partials (s : State) (t : Nat) (f : Tile → Tile) : (s.onTile t f).partials = s.partials := rfl
@[simp] theorem State.onTile_pkgMin (s : State) (t : Nat) (f : Tile → Tile) : (s.onTile t f).pkgMin = s.pkgMin := rfl
@[simp] theorem State.onTile_podMin (s : State) (t : Nat) (f : Tile → Tile) : (s.onTile t f).podMin = s.podMin := rfl
@[simp] theorem State.onTile_stamps (s : State) (t : Nat) (f : Tile → Tile) : (s.onTile t f).stamps = s.stamps := rfl
@[simp] theorem State.onTile_scClk (s : State) (t : Nat) (f : Tile → Tile) : (s.onTile t f).scClk = s.scClk := rfl
@[simp] theorem State.onTile_waiters (s : State) (t : Nat) (f : Tile → Tile) : (s.onTile t f).waiters = s.waiters := rfl
@[simp] theorem State.onTile_grads (s : State) (t : Nat) (f : Tile → Tile) : (s.onTile t f).grads = s.grads := rfl
@[simp] theorem State.onTile_gstarve (s : State) (t : Nat) (f : Tile → Tile) : (s.onTile t f).gstarve = s.gstarve := rfl
@[simp] theorem State.onTile_colls (s : State) (t : Nat) (f : Tile → Tile) : (s.onTile t f).colls = s.colls := rfl
@[simp] theorem State.onTile_closures (s : State) (t : Nat) (f : Tile → Tile) : (s.onTile t f).closures = s.closures := rfl
@[simp] theorem State.onTile_nonMembers (s : State) (t : Nat) (f : Tile → Tile) : (s.onTile t f).nonMembers = s.nonMembers := rfl
@[simp] theorem State.onTile_linksDown (s : State) (t : Nat) (f : Tile → Tile) : (s.onTile t f).linksDown = s.linksDown := rfl
@[simp] theorem State.onTile_hostMem (s : State) (t : Nat) (f : Tile → Tile) : (s.onTile t f).hostMem = s.hostMem := rfl
@[simp] theorem State.onTile_hostBad (s : State) (t : Nat) (f : Tile → Tile) : (s.onTile t f).hostBad = s.hostBad := rfl
@[simp] theorem State.onTile_hostReply (s : State) (t : Nat) (f : Tile → Tile) : (s.onTile t f).hostReply = s.hostReply := rfl
@[simp] theorem State.onTile_posted (s : State) (t : Nat) (f : Tile → Tile) : (s.onTile t f).posted = s.posted := rfl
@[simp] theorem State.onQuad_time (s : State) (q : Nat) (f : Quad → Quad) : (s.onQuad q f).time = s.time := rfl
@[simp] theorem State.onQuad_cur (s : State) (q : Nat) (f : Quad → Quad) : (s.onQuad q f).cur = s.cur := rfl
@[simp] theorem State.onQuad_agenda (s : State) (q : Nat) (f : Quad → Quad) : (s.onQuad q f).agenda = s.agenda := rfl
@[simp] theorem State.onQuad_seq (s : State) (q : Nat) (f : Quad → Quad) : (s.onQuad q f).seq = s.seq := rfl
@[simp] theorem State.onQuad_mem (s : State) (q : Nat) (f : Quad → Quad) : (s.onQuad q f).mem = s.mem := rfl
@[simp] theorem State.onQuad_full (s : State) (q : Nat) (f : Quad → Quad) : (s.onQuad q f).full = s.full := rfl
@[simp] theorem State.onQuad_marks (s : State) (q : Nat) (f : Quad → Quad) : (s.onQuad q f).marks = s.marks := rfl
@[simp] theorem State.onQuad_cores (s : State) (q : Nat) (f : Quad → Quad) : (s.onQuad q f).cores = s.cores := rfl
@[simp] theorem State.onQuad_tiles (s : State) (q : Nat) (f : Quad → Quad) : (s.onQuad q f).tiles = s.tiles := rfl
@[simp] theorem State.onQuad_dies (s : State) (q : Nat) (f : Quad → Quad) : (s.onQuad q f).dies = s.dies := rfl
@[simp] theorem State.onQuad_pkgs (s : State) (q : Nat) (f : Quad → Quad) : (s.onQuad q f).pkgs = s.pkgs := rfl
@[simp] theorem State.onQuad_sectors (s : State) (q : Nat) (f : Quad → Quad) : (s.onQuad q f).sectors = s.sectors := rfl
@[simp] theorem State.onQuad_partials (s : State) (q : Nat) (f : Quad → Quad) : (s.onQuad q f).partials = s.partials := rfl
@[simp] theorem State.onQuad_pkgMin (s : State) (q : Nat) (f : Quad → Quad) : (s.onQuad q f).pkgMin = s.pkgMin := rfl
@[simp] theorem State.onQuad_podMin (s : State) (q : Nat) (f : Quad → Quad) : (s.onQuad q f).podMin = s.podMin := rfl
@[simp] theorem State.onQuad_stamps (s : State) (q : Nat) (f : Quad → Quad) : (s.onQuad q f).stamps = s.stamps := rfl
@[simp] theorem State.onQuad_scClk (s : State) (q : Nat) (f : Quad → Quad) : (s.onQuad q f).scClk = s.scClk := rfl
@[simp] theorem State.onQuad_waiters (s : State) (q : Nat) (f : Quad → Quad) : (s.onQuad q f).waiters = s.waiters := rfl
@[simp] theorem State.onQuad_grads (s : State) (q : Nat) (f : Quad → Quad) : (s.onQuad q f).grads = s.grads := rfl
@[simp] theorem State.onQuad_gstarve (s : State) (q : Nat) (f : Quad → Quad) : (s.onQuad q f).gstarve = s.gstarve := rfl
@[simp] theorem State.onQuad_colls (s : State) (q : Nat) (f : Quad → Quad) : (s.onQuad q f).colls = s.colls := rfl
@[simp] theorem State.onQuad_closures (s : State) (q : Nat) (f : Quad → Quad) : (s.onQuad q f).closures = s.closures := rfl
@[simp] theorem State.onQuad_nonMembers (s : State) (q : Nat) (f : Quad → Quad) : (s.onQuad q f).nonMembers = s.nonMembers := rfl
@[simp] theorem State.onQuad_linksDown (s : State) (q : Nat) (f : Quad → Quad) : (s.onQuad q f).linksDown = s.linksDown := rfl
@[simp] theorem State.onQuad_hostMem (s : State) (q : Nat) (f : Quad → Quad) : (s.onQuad q f).hostMem = s.hostMem := rfl
@[simp] theorem State.onQuad_hostBad (s : State) (q : Nat) (f : Quad → Quad) : (s.onQuad q f).hostBad = s.hostBad := rfl
@[simp] theorem State.onQuad_hostReply (s : State) (q : Nat) (f : Quad → Quad) : (s.onQuad q f).hostReply = s.hostReply := rfl
@[simp] theorem State.onQuad_posted (s : State) (q : Nat) (f : Quad → Quad) : (s.onQuad q f).posted = s.posted := rfl
@[simp] theorem State.onDie_time (s : State) (d : Nat) (f : Die → Die) : (s.onDie d f).time = s.time := rfl
@[simp] theorem State.onDie_cur (s : State) (d : Nat) (f : Die → Die) : (s.onDie d f).cur = s.cur := rfl
@[simp] theorem State.onDie_agenda (s : State) (d : Nat) (f : Die → Die) : (s.onDie d f).agenda = s.agenda := rfl
@[simp] theorem State.onDie_seq (s : State) (d : Nat) (f : Die → Die) : (s.onDie d f).seq = s.seq := rfl
@[simp] theorem State.onDie_mem (s : State) (d : Nat) (f : Die → Die) : (s.onDie d f).mem = s.mem := rfl
@[simp] theorem State.onDie_full (s : State) (d : Nat) (f : Die → Die) : (s.onDie d f).full = s.full := rfl
@[simp] theorem State.onDie_marks (s : State) (d : Nat) (f : Die → Die) : (s.onDie d f).marks = s.marks := rfl
@[simp] theorem State.onDie_cores (s : State) (d : Nat) (f : Die → Die) : (s.onDie d f).cores = s.cores := rfl
@[simp] theorem State.onDie_tiles (s : State) (d : Nat) (f : Die → Die) : (s.onDie d f).tiles = s.tiles := rfl
@[simp] theorem State.onDie_quads (s : State) (d : Nat) (f : Die → Die) : (s.onDie d f).quads = s.quads := rfl
@[simp] theorem State.onDie_pkgs (s : State) (d : Nat) (f : Die → Die) : (s.onDie d f).pkgs = s.pkgs := rfl
@[simp] theorem State.onDie_sectors (s : State) (d : Nat) (f : Die → Die) : (s.onDie d f).sectors = s.sectors := rfl
@[simp] theorem State.onDie_partials (s : State) (d : Nat) (f : Die → Die) : (s.onDie d f).partials = s.partials := rfl
@[simp] theorem State.onDie_pkgMin (s : State) (d : Nat) (f : Die → Die) : (s.onDie d f).pkgMin = s.pkgMin := rfl
@[simp] theorem State.onDie_podMin (s : State) (d : Nat) (f : Die → Die) : (s.onDie d f).podMin = s.podMin := rfl
@[simp] theorem State.onDie_stamps (s : State) (d : Nat) (f : Die → Die) : (s.onDie d f).stamps = s.stamps := rfl
@[simp] theorem State.onDie_scClk (s : State) (d : Nat) (f : Die → Die) : (s.onDie d f).scClk = s.scClk := rfl
@[simp] theorem State.onDie_waiters (s : State) (d : Nat) (f : Die → Die) : (s.onDie d f).waiters = s.waiters := rfl
@[simp] theorem State.onDie_grads (s : State) (d : Nat) (f : Die → Die) : (s.onDie d f).grads = s.grads := rfl
@[simp] theorem State.onDie_gstarve (s : State) (d : Nat) (f : Die → Die) : (s.onDie d f).gstarve = s.gstarve := rfl
@[simp] theorem State.onDie_colls (s : State) (d : Nat) (f : Die → Die) : (s.onDie d f).colls = s.colls := rfl
@[simp] theorem State.onDie_closures (s : State) (d : Nat) (f : Die → Die) : (s.onDie d f).closures = s.closures := rfl
@[simp] theorem State.onDie_nonMembers (s : State) (d : Nat) (f : Die → Die) : (s.onDie d f).nonMembers = s.nonMembers := rfl
@[simp] theorem State.onDie_linksDown (s : State) (d : Nat) (f : Die → Die) : (s.onDie d f).linksDown = s.linksDown := rfl
@[simp] theorem State.onDie_hostMem (s : State) (d : Nat) (f : Die → Die) : (s.onDie d f).hostMem = s.hostMem := rfl
@[simp] theorem State.onDie_hostBad (s : State) (d : Nat) (f : Die → Die) : (s.onDie d f).hostBad = s.hostBad := rfl
@[simp] theorem State.onDie_hostReply (s : State) (d : Nat) (f : Die → Die) : (s.onDie d f).hostReply = s.hostReply := rfl
@[simp] theorem State.onDie_posted (s : State) (d : Nat) (f : Die → Die) : (s.onDie d f).posted = s.posted := rfl
@[simp] theorem State.onPkg_time (s : State) (p : Nat) (f : Pkg → Pkg) : (s.onPkg p f).time = s.time := rfl
@[simp] theorem State.onPkg_cur (s : State) (p : Nat) (f : Pkg → Pkg) : (s.onPkg p f).cur = s.cur := rfl
@[simp] theorem State.onPkg_agenda (s : State) (p : Nat) (f : Pkg → Pkg) : (s.onPkg p f).agenda = s.agenda := rfl
@[simp] theorem State.onPkg_seq (s : State) (p : Nat) (f : Pkg → Pkg) : (s.onPkg p f).seq = s.seq := rfl
@[simp] theorem State.onPkg_mem (s : State) (p : Nat) (f : Pkg → Pkg) : (s.onPkg p f).mem = s.mem := rfl
@[simp] theorem State.onPkg_full (s : State) (p : Nat) (f : Pkg → Pkg) : (s.onPkg p f).full = s.full := rfl
@[simp] theorem State.onPkg_marks (s : State) (p : Nat) (f : Pkg → Pkg) : (s.onPkg p f).marks = s.marks := rfl
@[simp] theorem State.onPkg_cores (s : State) (p : Nat) (f : Pkg → Pkg) : (s.onPkg p f).cores = s.cores := rfl
@[simp] theorem State.onPkg_tiles (s : State) (p : Nat) (f : Pkg → Pkg) : (s.onPkg p f).tiles = s.tiles := rfl
@[simp] theorem State.onPkg_quads (s : State) (p : Nat) (f : Pkg → Pkg) : (s.onPkg p f).quads = s.quads := rfl
@[simp] theorem State.onPkg_dies (s : State) (p : Nat) (f : Pkg → Pkg) : (s.onPkg p f).dies = s.dies := rfl
@[simp] theorem State.onPkg_sectors (s : State) (p : Nat) (f : Pkg → Pkg) : (s.onPkg p f).sectors = s.sectors := rfl
@[simp] theorem State.onPkg_partials (s : State) (p : Nat) (f : Pkg → Pkg) : (s.onPkg p f).partials = s.partials := rfl
@[simp] theorem State.onPkg_pkgMin (s : State) (p : Nat) (f : Pkg → Pkg) : (s.onPkg p f).pkgMin = s.pkgMin := rfl
@[simp] theorem State.onPkg_podMin (s : State) (p : Nat) (f : Pkg → Pkg) : (s.onPkg p f).podMin = s.podMin := rfl
@[simp] theorem State.onPkg_stamps (s : State) (p : Nat) (f : Pkg → Pkg) : (s.onPkg p f).stamps = s.stamps := rfl
@[simp] theorem State.onPkg_scClk (s : State) (p : Nat) (f : Pkg → Pkg) : (s.onPkg p f).scClk = s.scClk := rfl
@[simp] theorem State.onPkg_waiters (s : State) (p : Nat) (f : Pkg → Pkg) : (s.onPkg p f).waiters = s.waiters := rfl
@[simp] theorem State.onPkg_grads (s : State) (p : Nat) (f : Pkg → Pkg) : (s.onPkg p f).grads = s.grads := rfl
@[simp] theorem State.onPkg_gstarve (s : State) (p : Nat) (f : Pkg → Pkg) : (s.onPkg p f).gstarve = s.gstarve := rfl
@[simp] theorem State.onPkg_colls (s : State) (p : Nat) (f : Pkg → Pkg) : (s.onPkg p f).colls = s.colls := rfl
@[simp] theorem State.onPkg_closures (s : State) (p : Nat) (f : Pkg → Pkg) : (s.onPkg p f).closures = s.closures := rfl
@[simp] theorem State.onPkg_nonMembers (s : State) (p : Nat) (f : Pkg → Pkg) : (s.onPkg p f).nonMembers = s.nonMembers := rfl
@[simp] theorem State.onPkg_linksDown (s : State) (p : Nat) (f : Pkg → Pkg) : (s.onPkg p f).linksDown = s.linksDown := rfl
@[simp] theorem State.onPkg_hostMem (s : State) (p : Nat) (f : Pkg → Pkg) : (s.onPkg p f).hostMem = s.hostMem := rfl
@[simp] theorem State.onPkg_hostBad (s : State) (p : Nat) (f : Pkg → Pkg) : (s.onPkg p f).hostBad = s.hostBad := rfl
@[simp] theorem State.onPkg_hostReply (s : State) (p : Nat) (f : Pkg → Pkg) : (s.onPkg p f).hostReply = s.hostReply := rfl
@[simp] theorem State.onPkg_posted (s : State) (p : Nat) (f : Pkg → Pkg) : (s.onPkg p f).posted = s.posted := rfl
@[simp] theorem State.onBar_time (s : State) (d b : Nat) (f : Barrier → Barrier) : (s.onBar d b f).time = s.time := rfl
@[simp] theorem State.onBar_cur (s : State) (d b : Nat) (f : Barrier → Barrier) : (s.onBar d b f).cur = s.cur := rfl
@[simp] theorem State.onBar_agenda (s : State) (d b : Nat) (f : Barrier → Barrier) : (s.onBar d b f).agenda = s.agenda := rfl
@[simp] theorem State.onBar_seq (s : State) (d b : Nat) (f : Barrier → Barrier) : (s.onBar d b f).seq = s.seq := rfl
@[simp] theorem State.onBar_mem (s : State) (d b : Nat) (f : Barrier → Barrier) : (s.onBar d b f).mem = s.mem := rfl
@[simp] theorem State.onBar_full (s : State) (d b : Nat) (f : Barrier → Barrier) : (s.onBar d b f).full = s.full := rfl
@[simp] theorem State.onBar_marks (s : State) (d b : Nat) (f : Barrier → Barrier) : (s.onBar d b f).marks = s.marks := rfl
@[simp] theorem State.onBar_cores (s : State) (d b : Nat) (f : Barrier → Barrier) : (s.onBar d b f).cores = s.cores := rfl
@[simp] theorem State.onBar_tiles (s : State) (d b : Nat) (f : Barrier → Barrier) : (s.onBar d b f).tiles = s.tiles := rfl
@[simp] theorem State.onBar_quads (s : State) (d b : Nat) (f : Barrier → Barrier) : (s.onBar d b f).quads = s.quads := rfl
@[simp] theorem State.onBar_pkgs (s : State) (d b : Nat) (f : Barrier → Barrier) : (s.onBar d b f).pkgs = s.pkgs := rfl
@[simp] theorem State.onBar_sectors (s : State) (d b : Nat) (f : Barrier → Barrier) : (s.onBar d b f).sectors = s.sectors := rfl
@[simp] theorem State.onBar_partials (s : State) (d b : Nat) (f : Barrier → Barrier) : (s.onBar d b f).partials = s.partials := rfl
@[simp] theorem State.onBar_pkgMin (s : State) (d b : Nat) (f : Barrier → Barrier) : (s.onBar d b f).pkgMin = s.pkgMin := rfl
@[simp] theorem State.onBar_podMin (s : State) (d b : Nat) (f : Barrier → Barrier) : (s.onBar d b f).podMin = s.podMin := rfl
@[simp] theorem State.onBar_stamps (s : State) (d b : Nat) (f : Barrier → Barrier) : (s.onBar d b f).stamps = s.stamps := rfl
@[simp] theorem State.onBar_scClk (s : State) (d b : Nat) (f : Barrier → Barrier) : (s.onBar d b f).scClk = s.scClk := rfl
@[simp] theorem State.onBar_waiters (s : State) (d b : Nat) (f : Barrier → Barrier) : (s.onBar d b f).waiters = s.waiters := rfl
@[simp] theorem State.onBar_grads (s : State) (d b : Nat) (f : Barrier → Barrier) : (s.onBar d b f).grads = s.grads := rfl
@[simp] theorem State.onBar_gstarve (s : State) (d b : Nat) (f : Barrier → Barrier) : (s.onBar d b f).gstarve = s.gstarve := rfl
@[simp] theorem State.onBar_colls (s : State) (d b : Nat) (f : Barrier → Barrier) : (s.onBar d b f).colls = s.colls := rfl
@[simp] theorem State.onBar_closures (s : State) (d b : Nat) (f : Barrier → Barrier) : (s.onBar d b f).closures = s.closures := rfl
@[simp] theorem State.onBar_nonMembers (s : State) (d b : Nat) (f : Barrier → Barrier) : (s.onBar d b f).nonMembers = s.nonMembers := rfl
@[simp] theorem State.onBar_linksDown (s : State) (d b : Nat) (f : Barrier → Barrier) : (s.onBar d b f).linksDown = s.linksDown := rfl
@[simp] theorem State.onBar_hostMem (s : State) (d b : Nat) (f : Barrier → Barrier) : (s.onBar d b f).hostMem = s.hostMem := rfl
@[simp] theorem State.onBar_hostBad (s : State) (d b : Nat) (f : Barrier → Barrier) : (s.onBar d b f).hostBad = s.hostBad := rfl
@[simp] theorem State.onBar_hostReply (s : State) (d b : Nat) (f : Barrier → Barrier) : (s.onBar d b f).hostReply = s.hostReply := rfl
@[simp] theorem State.onBar_posted (s : State) (d b : Nat) (f : Barrier → Barrier) : (s.onBar d b f).posted = s.posted := rfl
@[simp] theorem State.setSup_time (s : State) (d n : Nat) (v : Word) : (s.setSup d n v).time = s.time := rfl
@[simp] theorem State.setSup_cur (s : State) (d n : Nat) (v : Word) : (s.setSup d n v).cur = s.cur := rfl
@[simp] theorem State.setSup_agenda (s : State) (d n : Nat) (v : Word) : (s.setSup d n v).agenda = s.agenda := rfl
@[simp] theorem State.setSup_seq (s : State) (d n : Nat) (v : Word) : (s.setSup d n v).seq = s.seq := rfl
@[simp] theorem State.setSup_mem (s : State) (d n : Nat) (v : Word) : (s.setSup d n v).mem = s.mem := rfl
@[simp] theorem State.setSup_full (s : State) (d n : Nat) (v : Word) : (s.setSup d n v).full = s.full := rfl
@[simp] theorem State.setSup_marks (s : State) (d n : Nat) (v : Word) : (s.setSup d n v).marks = s.marks := rfl
@[simp] theorem State.setSup_cores (s : State) (d n : Nat) (v : Word) : (s.setSup d n v).cores = s.cores := rfl
@[simp] theorem State.setSup_tiles (s : State) (d n : Nat) (v : Word) : (s.setSup d n v).tiles = s.tiles := rfl
@[simp] theorem State.setSup_quads (s : State) (d n : Nat) (v : Word) : (s.setSup d n v).quads = s.quads := rfl
@[simp] theorem State.setSup_pkgs (s : State) (d n : Nat) (v : Word) : (s.setSup d n v).pkgs = s.pkgs := rfl
@[simp] theorem State.setSup_sectors (s : State) (d n : Nat) (v : Word) : (s.setSup d n v).sectors = s.sectors := rfl
@[simp] theorem State.setSup_partials (s : State) (d n : Nat) (v : Word) : (s.setSup d n v).partials = s.partials := rfl
@[simp] theorem State.setSup_pkgMin (s : State) (d n : Nat) (v : Word) : (s.setSup d n v).pkgMin = s.pkgMin := rfl
@[simp] theorem State.setSup_podMin (s : State) (d n : Nat) (v : Word) : (s.setSup d n v).podMin = s.podMin := rfl
@[simp] theorem State.setSup_stamps (s : State) (d n : Nat) (v : Word) : (s.setSup d n v).stamps = s.stamps := rfl
@[simp] theorem State.setSup_scClk (s : State) (d n : Nat) (v : Word) : (s.setSup d n v).scClk = s.scClk := rfl
@[simp] theorem State.setSup_waiters (s : State) (d n : Nat) (v : Word) : (s.setSup d n v).waiters = s.waiters := rfl
@[simp] theorem State.setSup_grads (s : State) (d n : Nat) (v : Word) : (s.setSup d n v).grads = s.grads := rfl
@[simp] theorem State.setSup_gstarve (s : State) (d n : Nat) (v : Word) : (s.setSup d n v).gstarve = s.gstarve := rfl
@[simp] theorem State.setSup_colls (s : State) (d n : Nat) (v : Word) : (s.setSup d n v).colls = s.colls := rfl
@[simp] theorem State.setSup_closures (s : State) (d n : Nat) (v : Word) : (s.setSup d n v).closures = s.closures := rfl
@[simp] theorem State.setSup_nonMembers (s : State) (d n : Nat) (v : Word) : (s.setSup d n v).nonMembers = s.nonMembers := rfl
@[simp] theorem State.setSup_linksDown (s : State) (d n : Nat) (v : Word) : (s.setSup d n v).linksDown = s.linksDown := rfl
@[simp] theorem State.setSup_hostMem (s : State) (d n : Nat) (v : Word) : (s.setSup d n v).hostMem = s.hostMem := rfl
@[simp] theorem State.setSup_hostBad (s : State) (d n : Nat) (v : Word) : (s.setSup d n v).hostBad = s.hostBad := rfl
@[simp] theorem State.setSup_hostReply (s : State) (d n : Nat) (v : Word) : (s.setSup d n v).hostReply = s.hostReply := rfl
@[simp] theorem State.setSup_posted (s : State) (d n : Nat) (v : Word) : (s.setSup d n v).posted = s.posted := rfl
@[simp] theorem State.onSector_time (s : State) (n : Nat) (f : Sector → Sector) : (s.onSector n f).time = s.time := rfl
@[simp] theorem State.onSector_cur (s : State) (n : Nat) (f : Sector → Sector) : (s.onSector n f).cur = s.cur := rfl
@[simp] theorem State.onSector_agenda (s : State) (n : Nat) (f : Sector → Sector) : (s.onSector n f).agenda = s.agenda := rfl
@[simp] theorem State.onSector_seq (s : State) (n : Nat) (f : Sector → Sector) : (s.onSector n f).seq = s.seq := rfl
@[simp] theorem State.onSector_mem (s : State) (n : Nat) (f : Sector → Sector) : (s.onSector n f).mem = s.mem := rfl
@[simp] theorem State.onSector_full (s : State) (n : Nat) (f : Sector → Sector) : (s.onSector n f).full = s.full := rfl
@[simp] theorem State.onSector_marks (s : State) (n : Nat) (f : Sector → Sector) : (s.onSector n f).marks = s.marks := rfl
@[simp] theorem State.onSector_cores (s : State) (n : Nat) (f : Sector → Sector) : (s.onSector n f).cores = s.cores := rfl
@[simp] theorem State.onSector_tiles (s : State) (n : Nat) (f : Sector → Sector) : (s.onSector n f).tiles = s.tiles := rfl
@[simp] theorem State.onSector_quads (s : State) (n : Nat) (f : Sector → Sector) : (s.onSector n f).quads = s.quads := rfl
@[simp] theorem State.onSector_dies (s : State) (n : Nat) (f : Sector → Sector) : (s.onSector n f).dies = s.dies := rfl
@[simp] theorem State.onSector_pkgs (s : State) (n : Nat) (f : Sector → Sector) : (s.onSector n f).pkgs = s.pkgs := rfl
@[simp] theorem State.onSector_partials (s : State) (n : Nat) (f : Sector → Sector) : (s.onSector n f).partials = s.partials := rfl
@[simp] theorem State.onSector_pkgMin (s : State) (n : Nat) (f : Sector → Sector) : (s.onSector n f).pkgMin = s.pkgMin := rfl
@[simp] theorem State.onSector_podMin (s : State) (n : Nat) (f : Sector → Sector) : (s.onSector n f).podMin = s.podMin := rfl
@[simp] theorem State.onSector_stamps (s : State) (n : Nat) (f : Sector → Sector) : (s.onSector n f).stamps = s.stamps := rfl
@[simp] theorem State.onSector_scClk (s : State) (n : Nat) (f : Sector → Sector) : (s.onSector n f).scClk = s.scClk := rfl
@[simp] theorem State.onSector_waiters (s : State) (n : Nat) (f : Sector → Sector) : (s.onSector n f).waiters = s.waiters := rfl
@[simp] theorem State.onSector_grads (s : State) (n : Nat) (f : Sector → Sector) : (s.onSector n f).grads = s.grads := rfl
@[simp] theorem State.onSector_gstarve (s : State) (n : Nat) (f : Sector → Sector) : (s.onSector n f).gstarve = s.gstarve := rfl
@[simp] theorem State.onSector_colls (s : State) (n : Nat) (f : Sector → Sector) : (s.onSector n f).colls = s.colls := rfl
@[simp] theorem State.onSector_closures (s : State) (n : Nat) (f : Sector → Sector) : (s.onSector n f).closures = s.closures := rfl
@[simp] theorem State.onSector_nonMembers (s : State) (n : Nat) (f : Sector → Sector) : (s.onSector n f).nonMembers = s.nonMembers := rfl
@[simp] theorem State.onSector_linksDown (s : State) (n : Nat) (f : Sector → Sector) : (s.onSector n f).linksDown = s.linksDown := rfl
@[simp] theorem State.onSector_hostMem (s : State) (n : Nat) (f : Sector → Sector) : (s.onSector n f).hostMem = s.hostMem := rfl
@[simp] theorem State.onSector_hostBad (s : State) (n : Nat) (f : Sector → Sector) : (s.onSector n f).hostBad = s.hostBad := rfl
@[simp] theorem State.onSector_hostReply (s : State) (n : Nat) (f : Sector → Sector) : (s.onSector n f).hostReply = s.hostReply := rfl
@[simp] theorem State.onSector_posted (s : State) (n : Nat) (f : Sector → Sector) : (s.onSector n f).posted = s.posted := rfl
@[simp] theorem State.tick_time (s : State) : (s.tick).time = s.time := rfl
@[simp] theorem State.tick_cur (s : State) : (s.tick).cur = s.cur := rfl
@[simp] theorem State.tick_agenda (s : State) : (s.tick).agenda = s.agenda := rfl
@[simp] theorem State.tick_mem (s : State) : (s.tick).mem = s.mem := rfl
@[simp] theorem State.tick_full (s : State) : (s.tick).full = s.full := rfl
@[simp] theorem State.tick_marks (s : State) : (s.tick).marks = s.marks := rfl
@[simp] theorem State.tick_cores (s : State) : (s.tick).cores = s.cores := rfl
@[simp] theorem State.tick_tiles (s : State) : (s.tick).tiles = s.tiles := rfl
@[simp] theorem State.tick_quads (s : State) : (s.tick).quads = s.quads := rfl
@[simp] theorem State.tick_dies (s : State) : (s.tick).dies = s.dies := rfl
@[simp] theorem State.tick_pkgs (s : State) : (s.tick).pkgs = s.pkgs := rfl
@[simp] theorem State.tick_sectors (s : State) : (s.tick).sectors = s.sectors := rfl
@[simp] theorem State.tick_partials (s : State) : (s.tick).partials = s.partials := rfl
@[simp] theorem State.tick_pkgMin (s : State) : (s.tick).pkgMin = s.pkgMin := rfl
@[simp] theorem State.tick_podMin (s : State) : (s.tick).podMin = s.podMin := rfl
@[simp] theorem State.tick_stamps (s : State) : (s.tick).stamps = s.stamps := rfl
@[simp] theorem State.tick_scClk (s : State) : (s.tick).scClk = s.scClk := rfl
@[simp] theorem State.tick_waiters (s : State) : (s.tick).waiters = s.waiters := rfl
@[simp] theorem State.tick_grads (s : State) : (s.tick).grads = s.grads := rfl
@[simp] theorem State.tick_gstarve (s : State) : (s.tick).gstarve = s.gstarve := rfl
@[simp] theorem State.tick_colls (s : State) : (s.tick).colls = s.colls := rfl
@[simp] theorem State.tick_closures (s : State) : (s.tick).closures = s.closures := rfl
@[simp] theorem State.tick_nonMembers (s : State) : (s.tick).nonMembers = s.nonMembers := rfl
@[simp] theorem State.tick_linksDown (s : State) : (s.tick).linksDown = s.linksDown := rfl
@[simp] theorem State.tick_hostMem (s : State) : (s.tick).hostMem = s.hostMem := rfl
@[simp] theorem State.tick_hostBad (s : State) : (s.tick).hostBad = s.hostBad := rfl
@[simp] theorem State.tick_hostReply (s : State) : (s.tick).hostReply = s.hostReply := rfl
@[simp] theorem State.tick_posted (s : State) : (s.tick).posted = s.posted := rfl
@[simp] theorem State.write_time (s : State) (key : Nat) (bs : List Byte) : (s.write key bs).time = s.time := rfl
@[simp] theorem State.write_cur (s : State) (key : Nat) (bs : List Byte) : (s.write key bs).cur = s.cur := rfl
@[simp] theorem State.write_agenda (s : State) (key : Nat) (bs : List Byte) : (s.write key bs).agenda = s.agenda := rfl
@[simp] theorem State.write_seq (s : State) (key : Nat) (bs : List Byte) : (s.write key bs).seq = s.seq := rfl
@[simp] theorem State.write_full (s : State) (key : Nat) (bs : List Byte) : (s.write key bs).full = s.full := rfl
@[simp] theorem State.write_marks (s : State) (key : Nat) (bs : List Byte) : (s.write key bs).marks = s.marks := rfl
@[simp] theorem State.write_cores (s : State) (key : Nat) (bs : List Byte) : (s.write key bs).cores = s.cores := rfl
@[simp] theorem State.write_tiles (s : State) (key : Nat) (bs : List Byte) : (s.write key bs).tiles = s.tiles := rfl
@[simp] theorem State.write_quads (s : State) (key : Nat) (bs : List Byte) : (s.write key bs).quads = s.quads := rfl
@[simp] theorem State.write_dies (s : State) (key : Nat) (bs : List Byte) : (s.write key bs).dies = s.dies := rfl
@[simp] theorem State.write_pkgs (s : State) (key : Nat) (bs : List Byte) : (s.write key bs).pkgs = s.pkgs := rfl
@[simp] theorem State.write_sectors (s : State) (key : Nat) (bs : List Byte) : (s.write key bs).sectors = s.sectors := rfl
@[simp] theorem State.write_partials (s : State) (key : Nat) (bs : List Byte) : (s.write key bs).partials = s.partials := rfl
@[simp] theorem State.write_pkgMin (s : State) (key : Nat) (bs : List Byte) : (s.write key bs).pkgMin = s.pkgMin := rfl
@[simp] theorem State.write_podMin (s : State) (key : Nat) (bs : List Byte) : (s.write key bs).podMin = s.podMin := rfl
@[simp] theorem State.write_stamps (s : State) (key : Nat) (bs : List Byte) : (s.write key bs).stamps = s.stamps := rfl
@[simp] theorem State.write_scClk (s : State) (key : Nat) (bs : List Byte) : (s.write key bs).scClk = s.scClk := rfl
@[simp] theorem State.write_waiters (s : State) (key : Nat) (bs : List Byte) : (s.write key bs).waiters = s.waiters := rfl
@[simp] theorem State.write_grads (s : State) (key : Nat) (bs : List Byte) : (s.write key bs).grads = s.grads := rfl
@[simp] theorem State.write_gstarve (s : State) (key : Nat) (bs : List Byte) : (s.write key bs).gstarve = s.gstarve := rfl
@[simp] theorem State.write_colls (s : State) (key : Nat) (bs : List Byte) : (s.write key bs).colls = s.colls := rfl
@[simp] theorem State.write_closures (s : State) (key : Nat) (bs : List Byte) : (s.write key bs).closures = s.closures := rfl
@[simp] theorem State.write_nonMembers (s : State) (key : Nat) (bs : List Byte) : (s.write key bs).nonMembers = s.nonMembers := rfl
@[simp] theorem State.write_linksDown (s : State) (key : Nat) (bs : List Byte) : (s.write key bs).linksDown = s.linksDown := rfl
@[simp] theorem State.write_hostMem (s : State) (key : Nat) (bs : List Byte) : (s.write key bs).hostMem = s.hostMem := rfl
@[simp] theorem State.write_hostBad (s : State) (key : Nat) (bs : List Byte) : (s.write key bs).hostBad = s.hostBad := rfl
@[simp] theorem State.write_hostReply (s : State) (key : Nat) (bs : List Byte) : (s.write key bs).hostReply = s.hostReply := rfl
@[simp] theorem State.write_posted (s : State) (key : Nat) (bs : List Byte) : (s.write key bs).posted = s.posted := rfl
@[simp] theorem State.writeNat_time (s : State) (key n v : Nat) : (s.writeNat key n v).time = s.time := rfl
@[simp] theorem State.writeNat_cur (s : State) (key n v : Nat) : (s.writeNat key n v).cur = s.cur := rfl
@[simp] theorem State.writeNat_agenda (s : State) (key n v : Nat) : (s.writeNat key n v).agenda = s.agenda := rfl
@[simp] theorem State.writeNat_seq (s : State) (key n v : Nat) : (s.writeNat key n v).seq = s.seq := rfl
@[simp] theorem State.writeNat_full (s : State) (key n v : Nat) : (s.writeNat key n v).full = s.full := rfl
@[simp] theorem State.writeNat_marks (s : State) (key n v : Nat) : (s.writeNat key n v).marks = s.marks := rfl
@[simp] theorem State.writeNat_cores (s : State) (key n v : Nat) : (s.writeNat key n v).cores = s.cores := rfl
@[simp] theorem State.writeNat_tiles (s : State) (key n v : Nat) : (s.writeNat key n v).tiles = s.tiles := rfl
@[simp] theorem State.writeNat_quads (s : State) (key n v : Nat) : (s.writeNat key n v).quads = s.quads := rfl
@[simp] theorem State.writeNat_dies (s : State) (key n v : Nat) : (s.writeNat key n v).dies = s.dies := rfl
@[simp] theorem State.writeNat_pkgs (s : State) (key n v : Nat) : (s.writeNat key n v).pkgs = s.pkgs := rfl
@[simp] theorem State.writeNat_sectors (s : State) (key n v : Nat) : (s.writeNat key n v).sectors = s.sectors := rfl
@[simp] theorem State.writeNat_partials (s : State) (key n v : Nat) : (s.writeNat key n v).partials = s.partials := rfl
@[simp] theorem State.writeNat_pkgMin (s : State) (key n v : Nat) : (s.writeNat key n v).pkgMin = s.pkgMin := rfl
@[simp] theorem State.writeNat_podMin (s : State) (key n v : Nat) : (s.writeNat key n v).podMin = s.podMin := rfl
@[simp] theorem State.writeNat_stamps (s : State) (key n v : Nat) : (s.writeNat key n v).stamps = s.stamps := rfl
@[simp] theorem State.writeNat_scClk (s : State) (key n v : Nat) : (s.writeNat key n v).scClk = s.scClk := rfl
@[simp] theorem State.writeNat_waiters (s : State) (key n v : Nat) : (s.writeNat key n v).waiters = s.waiters := rfl
@[simp] theorem State.writeNat_grads (s : State) (key n v : Nat) : (s.writeNat key n v).grads = s.grads := rfl
@[simp] theorem State.writeNat_gstarve (s : State) (key n v : Nat) : (s.writeNat key n v).gstarve = s.gstarve := rfl
@[simp] theorem State.writeNat_colls (s : State) (key n v : Nat) : (s.writeNat key n v).colls = s.colls := rfl
@[simp] theorem State.writeNat_closures (s : State) (key n v : Nat) : (s.writeNat key n v).closures = s.closures := rfl
@[simp] theorem State.writeNat_nonMembers (s : State) (key n v : Nat) : (s.writeNat key n v).nonMembers = s.nonMembers := rfl
@[simp] theorem State.writeNat_linksDown (s : State) (key n v : Nat) : (s.writeNat key n v).linksDown = s.linksDown := rfl
@[simp] theorem State.writeNat_hostMem (s : State) (key n v : Nat) : (s.writeNat key n v).hostMem = s.hostMem := rfl
@[simp] theorem State.writeNat_hostBad (s : State) (key n v : Nat) : (s.writeNat key n v).hostBad = s.hostBad := rfl
@[simp] theorem State.writeNat_hostReply (s : State) (key n v : Nat) : (s.writeNat key n v).hostReply = s.hostReply := rfl
@[simp] theorem State.writeNat_posted (s : State) (key n v : Nat) : (s.writeNat key n v).posted = s.posted := rfl
@[simp] theorem State.setFull_time (s : State) (key : Nat) (b : Bool) : (s.setFull key b).time = s.time := rfl
@[simp] theorem State.setFull_cur (s : State) (key : Nat) (b : Bool) : (s.setFull key b).cur = s.cur := rfl
@[simp] theorem State.setFull_agenda (s : State) (key : Nat) (b : Bool) : (s.setFull key b).agenda = s.agenda := rfl
@[simp] theorem State.setFull_seq (s : State) (key : Nat) (b : Bool) : (s.setFull key b).seq = s.seq := rfl
@[simp] theorem State.setFull_mem (s : State) (key : Nat) (b : Bool) : (s.setFull key b).mem = s.mem := rfl
@[simp] theorem State.setFull_marks (s : State) (key : Nat) (b : Bool) : (s.setFull key b).marks = s.marks := rfl
@[simp] theorem State.setFull_cores (s : State) (key : Nat) (b : Bool) : (s.setFull key b).cores = s.cores := rfl
@[simp] theorem State.setFull_tiles (s : State) (key : Nat) (b : Bool) : (s.setFull key b).tiles = s.tiles := rfl
@[simp] theorem State.setFull_quads (s : State) (key : Nat) (b : Bool) : (s.setFull key b).quads = s.quads := rfl
@[simp] theorem State.setFull_dies (s : State) (key : Nat) (b : Bool) : (s.setFull key b).dies = s.dies := rfl
@[simp] theorem State.setFull_pkgs (s : State) (key : Nat) (b : Bool) : (s.setFull key b).pkgs = s.pkgs := rfl
@[simp] theorem State.setFull_sectors (s : State) (key : Nat) (b : Bool) : (s.setFull key b).sectors = s.sectors := rfl
@[simp] theorem State.setFull_partials (s : State) (key : Nat) (b : Bool) : (s.setFull key b).partials = s.partials := rfl
@[simp] theorem State.setFull_pkgMin (s : State) (key : Nat) (b : Bool) : (s.setFull key b).pkgMin = s.pkgMin := rfl
@[simp] theorem State.setFull_podMin (s : State) (key : Nat) (b : Bool) : (s.setFull key b).podMin = s.podMin := rfl
@[simp] theorem State.setFull_stamps (s : State) (key : Nat) (b : Bool) : (s.setFull key b).stamps = s.stamps := rfl
@[simp] theorem State.setFull_scClk (s : State) (key : Nat) (b : Bool) : (s.setFull key b).scClk = s.scClk := rfl
@[simp] theorem State.setFull_waiters (s : State) (key : Nat) (b : Bool) : (s.setFull key b).waiters = s.waiters := rfl
@[simp] theorem State.setFull_grads (s : State) (key : Nat) (b : Bool) : (s.setFull key b).grads = s.grads := rfl
@[simp] theorem State.setFull_gstarve (s : State) (key : Nat) (b : Bool) : (s.setFull key b).gstarve = s.gstarve := rfl
@[simp] theorem State.setFull_colls (s : State) (key : Nat) (b : Bool) : (s.setFull key b).colls = s.colls := rfl
@[simp] theorem State.setFull_closures (s : State) (key : Nat) (b : Bool) : (s.setFull key b).closures = s.closures := rfl
@[simp] theorem State.setFull_nonMembers (s : State) (key : Nat) (b : Bool) : (s.setFull key b).nonMembers = s.nonMembers := rfl
@[simp] theorem State.setFull_linksDown (s : State) (key : Nat) (b : Bool) : (s.setFull key b).linksDown = s.linksDown := rfl
@[simp] theorem State.setFull_hostMem (s : State) (key : Nat) (b : Bool) : (s.setFull key b).hostMem = s.hostMem := rfl
@[simp] theorem State.setFull_hostBad (s : State) (key : Nat) (b : Bool) : (s.setFull key b).hostBad = s.hostBad := rfl
@[simp] theorem State.setFull_hostReply (s : State) (key : Nat) (b : Bool) : (s.setFull key b).hostReply = s.hostReply := rfl
@[simp] theorem State.setFull_posted (s : State) (key : Nat) (b : Bool) : (s.setFull key b).posted = s.posted := rfl
@[simp] theorem State.setMark_time (s : State) (key : Nat) (b : Bool) : (s.setMark key b).time = s.time := rfl
@[simp] theorem State.setMark_cur (s : State) (key : Nat) (b : Bool) : (s.setMark key b).cur = s.cur := rfl
@[simp] theorem State.setMark_agenda (s : State) (key : Nat) (b : Bool) : (s.setMark key b).agenda = s.agenda := rfl
@[simp] theorem State.setMark_seq (s : State) (key : Nat) (b : Bool) : (s.setMark key b).seq = s.seq := rfl
@[simp] theorem State.setMark_mem (s : State) (key : Nat) (b : Bool) : (s.setMark key b).mem = s.mem := rfl
@[simp] theorem State.setMark_full (s : State) (key : Nat) (b : Bool) : (s.setMark key b).full = s.full := rfl
@[simp] theorem State.setMark_cores (s : State) (key : Nat) (b : Bool) : (s.setMark key b).cores = s.cores := rfl
@[simp] theorem State.setMark_tiles (s : State) (key : Nat) (b : Bool) : (s.setMark key b).tiles = s.tiles := rfl
@[simp] theorem State.setMark_quads (s : State) (key : Nat) (b : Bool) : (s.setMark key b).quads = s.quads := rfl
@[simp] theorem State.setMark_dies (s : State) (key : Nat) (b : Bool) : (s.setMark key b).dies = s.dies := rfl
@[simp] theorem State.setMark_pkgs (s : State) (key : Nat) (b : Bool) : (s.setMark key b).pkgs = s.pkgs := rfl
@[simp] theorem State.setMark_sectors (s : State) (key : Nat) (b : Bool) : (s.setMark key b).sectors = s.sectors := rfl
@[simp] theorem State.setMark_partials (s : State) (key : Nat) (b : Bool) : (s.setMark key b).partials = s.partials := rfl
@[simp] theorem State.setMark_pkgMin (s : State) (key : Nat) (b : Bool) : (s.setMark key b).pkgMin = s.pkgMin := rfl
@[simp] theorem State.setMark_podMin (s : State) (key : Nat) (b : Bool) : (s.setMark key b).podMin = s.podMin := rfl
@[simp] theorem State.setMark_stamps (s : State) (key : Nat) (b : Bool) : (s.setMark key b).stamps = s.stamps := rfl
@[simp] theorem State.setMark_scClk (s : State) (key : Nat) (b : Bool) : (s.setMark key b).scClk = s.scClk := rfl
@[simp] theorem State.setMark_waiters (s : State) (key : Nat) (b : Bool) : (s.setMark key b).waiters = s.waiters := rfl
@[simp] theorem State.setMark_grads (s : State) (key : Nat) (b : Bool) : (s.setMark key b).grads = s.grads := rfl
@[simp] theorem State.setMark_gstarve (s : State) (key : Nat) (b : Bool) : (s.setMark key b).gstarve = s.gstarve := rfl
@[simp] theorem State.setMark_colls (s : State) (key : Nat) (b : Bool) : (s.setMark key b).colls = s.colls := rfl
@[simp] theorem State.setMark_closures (s : State) (key : Nat) (b : Bool) : (s.setMark key b).closures = s.closures := rfl
@[simp] theorem State.setMark_nonMembers (s : State) (key : Nat) (b : Bool) : (s.setMark key b).nonMembers = s.nonMembers := rfl
@[simp] theorem State.setMark_linksDown (s : State) (key : Nat) (b : Bool) : (s.setMark key b).linksDown = s.linksDown := rfl
@[simp] theorem State.setMark_hostMem (s : State) (key : Nat) (b : Bool) : (s.setMark key b).hostMem = s.hostMem := rfl
@[simp] theorem State.setMark_hostBad (s : State) (key : Nat) (b : Bool) : (s.setMark key b).hostBad = s.hostBad := rfl
@[simp] theorem State.setMark_hostReply (s : State) (key : Nat) (b : Bool) : (s.setMark key b).hostReply = s.hostReply := rfl
@[simp] theorem State.setMark_posted (s : State) (key : Nat) (b : Bool) : (s.setMark key b).posted = s.posted := rfl

/-! ## Reading a unit after an update -/

@[simp] theorem State.core_setCore_same (s : State) (k : Nat) (c : Core) : (s.setCore k c).core k = c :=
  SMap.get_put_same _ _ _ _

theorem State.core_setCore_other (s : State) {k j : Nat} (c : Core) (h : j ≠ k) : (s.setCore k c).core j = s.core j :=
  SMap.get_put_other _ _ _ h

@[simp] theorem State.core_onCore_same (s : State) (k : Nat) (f : Core → Core) : (s.onCore k f).core k = f (s.core k) :=
  SMap.get_put_same _ _ _ _

theorem State.core_onCore_other (s : State) {k j : Nat} (f : Core → Core) (h : j ≠ k) : (s.onCore k f).core j = s.core j :=
  SMap.get_put_other _ _ _ h

@[simp] theorem State.tile_setTile_same (s : State) (t : Nat) (v : Tile) : (s.setTile t v).tile t = v :=
  SMap.get_put_same _ _ _ _

@[simp] theorem State.tile_onTile_same (s : State) (t : Nat) (f : Tile → Tile) : (s.onTile t f).tile t = f (s.tile t) :=
  SMap.get_put_same _ _ _ _

theorem State.tile_onTile_other (s : State) {t j : Nat} (f : Tile → Tile) (h : j ≠ t) : (s.onTile t f).tile j = s.tile j :=
  SMap.get_put_other _ _ _ h

@[simp] theorem State.quad_onQuad_same (s : State) (q : Nat) (f : Quad → Quad) : (s.onQuad q f).quad q = f (s.quad q) :=
  SMap.get_put_same _ _ _ _

@[simp] theorem State.die_onDie_same (s : State) (d : Nat) (f : Die → Die) : (s.onDie d f).die d = f (s.die d) :=
  SMap.get_put_same _ _ _ _

@[simp] theorem State.pkg_onPkg_same (s : State) (p : Nat) (f : Pkg → Pkg) : (s.onPkg p f).pkg p = f (s.pkg p) :=
  SMap.get_put_same _ _ _ _

@[simp] theorem State.sector_onSector_same (s : State) (n : Nat) (f : Sector → Sector) : (s.onSector n f).sector n = f (s.sector n) :=
  SMap.get_put_same _ _ _ _

@[simp] theorem State.bar_onBar_same (s : State) (d b : Nat) (f : Barrier → Barrier) : (s.onBar d b f).bar d b = f (s.bar d b) := by
  simp [State.bar, State.onBar]

@[simp] theorem State.sup_setSup_same (s : State) (d n : Nat) (v : Word) : (s.setSup d n v).sup d n = v := by
  simp [State.sup, State.setSup]

@[simp] theorem State.core_setTile (s : State) (t : Nat) (v : Tile) (j : Nat) : (s.setTile t v).core j = s.core j := rfl
@[simp] theorem State.core_onTile (s : State) (t : Nat) (f : Tile → Tile) (j : Nat) : (s.onTile t f).core j = s.core j := rfl
@[simp] theorem State.core_onQuad (s : State) (q : Nat) (f : Quad → Quad) (j : Nat) : (s.onQuad q f).core j = s.core j := rfl
@[simp] theorem State.core_onDie (s : State) (d : Nat) (f : Die → Die) (j : Nat) : (s.onDie d f).core j = s.core j := rfl
@[simp] theorem State.core_onPkg (s : State) (p : Nat) (f : Pkg → Pkg) (j : Nat) : (s.onPkg p f).core j = s.core j := rfl
@[simp] theorem State.core_onBar (s : State) (d b : Nat) (f : Barrier → Barrier) (j : Nat) : (s.onBar d b f).core j = s.core j := rfl
@[simp] theorem State.core_setSup (s : State) (d n : Nat) (v : Word) (j : Nat) : (s.setSup d n v).core j = s.core j := rfl
@[simp] theorem State.core_onSector (s : State) (n : Nat) (f : Sector → Sector) (j : Nat) : (s.onSector n f).core j = s.core j := rfl
@[simp] theorem State.core_tick (s : State) (j : Nat) : (s.tick ).core j = s.core j := rfl
@[simp] theorem State.core_write (s : State) (key : Nat) (bs : List Byte) (j : Nat) : (s.write key bs).core j = s.core j := rfl
@[simp] theorem State.core_writeNat (s : State) (key n v : Nat) (j : Nat) : (s.writeNat key n v).core j = s.core j := rfl
@[simp] theorem State.core_setFull (s : State) (key : Nat) (b : Bool) (j : Nat) : (s.setFull key b).core j = s.core j := rfl
@[simp] theorem State.core_setMark (s : State) (key : Nat) (b : Bool) (j : Nat) : (s.setMark key b).core j = s.core j := rfl
@[simp] theorem State.tile_setCore (s : State) (k : Nat) (c : Core) (j : Nat) : (s.setCore k c).tile j = s.tile j := rfl
@[simp] theorem State.tile_onCore (s : State) (k : Nat) (f : Core → Core) (j : Nat) : (s.onCore k f).tile j = s.tile j := rfl
@[simp] theorem State.tile_onQuad (s : State) (q : Nat) (f : Quad → Quad) (j : Nat) : (s.onQuad q f).tile j = s.tile j := rfl
@[simp] theorem State.tile_onDie (s : State) (d : Nat) (f : Die → Die) (j : Nat) : (s.onDie d f).tile j = s.tile j := rfl
@[simp] theorem State.tile_onPkg (s : State) (p : Nat) (f : Pkg → Pkg) (j : Nat) : (s.onPkg p f).tile j = s.tile j := rfl
@[simp] theorem State.tile_onBar (s : State) (d b : Nat) (f : Barrier → Barrier) (j : Nat) : (s.onBar d b f).tile j = s.tile j := rfl
@[simp] theorem State.tile_setSup (s : State) (d n : Nat) (v : Word) (j : Nat) : (s.setSup d n v).tile j = s.tile j := rfl
@[simp] theorem State.tile_onSector (s : State) (n : Nat) (f : Sector → Sector) (j : Nat) : (s.onSector n f).tile j = s.tile j := rfl
@[simp] theorem State.tile_tick (s : State) (j : Nat) : (s.tick ).tile j = s.tile j := rfl
@[simp] theorem State.tile_write (s : State) (key : Nat) (bs : List Byte) (j : Nat) : (s.write key bs).tile j = s.tile j := rfl
@[simp] theorem State.tile_writeNat (s : State) (key n v : Nat) (j : Nat) : (s.writeNat key n v).tile j = s.tile j := rfl
@[simp] theorem State.tile_setFull (s : State) (key : Nat) (b : Bool) (j : Nat) : (s.setFull key b).tile j = s.tile j := rfl
@[simp] theorem State.tile_setMark (s : State) (key : Nat) (b : Bool) (j : Nat) : (s.setMark key b).tile j = s.tile j := rfl
@[simp] theorem State.quad_setCore (s : State) (k : Nat) (c : Core) (j : Nat) : (s.setCore k c).quad j = s.quad j := rfl
@[simp] theorem State.quad_onCore (s : State) (k : Nat) (f : Core → Core) (j : Nat) : (s.onCore k f).quad j = s.quad j := rfl
@[simp] theorem State.quad_setTile (s : State) (t : Nat) (v : Tile) (j : Nat) : (s.setTile t v).quad j = s.quad j := rfl
@[simp] theorem State.quad_onTile (s : State) (t : Nat) (f : Tile → Tile) (j : Nat) : (s.onTile t f).quad j = s.quad j := rfl
@[simp] theorem State.quad_onDie (s : State) (d : Nat) (f : Die → Die) (j : Nat) : (s.onDie d f).quad j = s.quad j := rfl
@[simp] theorem State.quad_onPkg (s : State) (p : Nat) (f : Pkg → Pkg) (j : Nat) : (s.onPkg p f).quad j = s.quad j := rfl
@[simp] theorem State.quad_onBar (s : State) (d b : Nat) (f : Barrier → Barrier) (j : Nat) : (s.onBar d b f).quad j = s.quad j := rfl
@[simp] theorem State.quad_setSup (s : State) (d n : Nat) (v : Word) (j : Nat) : (s.setSup d n v).quad j = s.quad j := rfl
@[simp] theorem State.quad_onSector (s : State) (n : Nat) (f : Sector → Sector) (j : Nat) : (s.onSector n f).quad j = s.quad j := rfl
@[simp] theorem State.quad_tick (s : State) (j : Nat) : (s.tick ).quad j = s.quad j := rfl
@[simp] theorem State.quad_write (s : State) (key : Nat) (bs : List Byte) (j : Nat) : (s.write key bs).quad j = s.quad j := rfl
@[simp] theorem State.quad_writeNat (s : State) (key n v : Nat) (j : Nat) : (s.writeNat key n v).quad j = s.quad j := rfl
@[simp] theorem State.quad_setFull (s : State) (key : Nat) (b : Bool) (j : Nat) : (s.setFull key b).quad j = s.quad j := rfl
@[simp] theorem State.quad_setMark (s : State) (key : Nat) (b : Bool) (j : Nat) : (s.setMark key b).quad j = s.quad j := rfl
@[simp] theorem State.die_setCore (s : State) (k : Nat) (c : Core) (j : Nat) : (s.setCore k c).die j = s.die j := rfl
@[simp] theorem State.die_onCore (s : State) (k : Nat) (f : Core → Core) (j : Nat) : (s.onCore k f).die j = s.die j := rfl
@[simp] theorem State.die_setTile (s : State) (t : Nat) (v : Tile) (j : Nat) : (s.setTile t v).die j = s.die j := rfl
@[simp] theorem State.die_onTile (s : State) (t : Nat) (f : Tile → Tile) (j : Nat) : (s.onTile t f).die j = s.die j := rfl
@[simp] theorem State.die_onQuad (s : State) (q : Nat) (f : Quad → Quad) (j : Nat) : (s.onQuad q f).die j = s.die j := rfl
@[simp] theorem State.die_onPkg (s : State) (p : Nat) (f : Pkg → Pkg) (j : Nat) : (s.onPkg p f).die j = s.die j := rfl
@[simp] theorem State.die_onSector (s : State) (n : Nat) (f : Sector → Sector) (j : Nat) : (s.onSector n f).die j = s.die j := rfl
@[simp] theorem State.die_tick (s : State) (j : Nat) : (s.tick ).die j = s.die j := rfl
@[simp] theorem State.die_write (s : State) (key : Nat) (bs : List Byte) (j : Nat) : (s.write key bs).die j = s.die j := rfl
@[simp] theorem State.die_writeNat (s : State) (key n v : Nat) (j : Nat) : (s.writeNat key n v).die j = s.die j := rfl
@[simp] theorem State.die_setFull (s : State) (key : Nat) (b : Bool) (j : Nat) : (s.setFull key b).die j = s.die j := rfl
@[simp] theorem State.die_setMark (s : State) (key : Nat) (b : Bool) (j : Nat) : (s.setMark key b).die j = s.die j := rfl
@[simp] theorem State.pkg_setCore (s : State) (k : Nat) (c : Core) (j : Nat) : (s.setCore k c).pkg j = s.pkg j := rfl
@[simp] theorem State.pkg_onCore (s : State) (k : Nat) (f : Core → Core) (j : Nat) : (s.onCore k f).pkg j = s.pkg j := rfl
@[simp] theorem State.pkg_setTile (s : State) (t : Nat) (v : Tile) (j : Nat) : (s.setTile t v).pkg j = s.pkg j := rfl
@[simp] theorem State.pkg_onTile (s : State) (t : Nat) (f : Tile → Tile) (j : Nat) : (s.onTile t f).pkg j = s.pkg j := rfl
@[simp] theorem State.pkg_onQuad (s : State) (q : Nat) (f : Quad → Quad) (j : Nat) : (s.onQuad q f).pkg j = s.pkg j := rfl
@[simp] theorem State.pkg_onDie (s : State) (d : Nat) (f : Die → Die) (j : Nat) : (s.onDie d f).pkg j = s.pkg j := rfl
@[simp] theorem State.pkg_onBar (s : State) (d b : Nat) (f : Barrier → Barrier) (j : Nat) : (s.onBar d b f).pkg j = s.pkg j := rfl
@[simp] theorem State.pkg_setSup (s : State) (d n : Nat) (v : Word) (j : Nat) : (s.setSup d n v).pkg j = s.pkg j := rfl
@[simp] theorem State.pkg_onSector (s : State) (n : Nat) (f : Sector → Sector) (j : Nat) : (s.onSector n f).pkg j = s.pkg j := rfl
@[simp] theorem State.pkg_tick (s : State) (j : Nat) : (s.tick ).pkg j = s.pkg j := rfl
@[simp] theorem State.pkg_write (s : State) (key : Nat) (bs : List Byte) (j : Nat) : (s.write key bs).pkg j = s.pkg j := rfl
@[simp] theorem State.pkg_writeNat (s : State) (key n v : Nat) (j : Nat) : (s.writeNat key n v).pkg j = s.pkg j := rfl
@[simp] theorem State.pkg_setFull (s : State) (key : Nat) (b : Bool) (j : Nat) : (s.setFull key b).pkg j = s.pkg j := rfl
@[simp] theorem State.pkg_setMark (s : State) (key : Nat) (b : Bool) (j : Nat) : (s.setMark key b).pkg j = s.pkg j := rfl
@[simp] theorem State.sector_setCore (s : State) (k : Nat) (c : Core) (j : Nat) : (s.setCore k c).sector j = s.sector j := rfl
@[simp] theorem State.sector_onCore (s : State) (k : Nat) (f : Core → Core) (j : Nat) : (s.onCore k f).sector j = s.sector j := rfl
@[simp] theorem State.sector_setTile (s : State) (t : Nat) (v : Tile) (j : Nat) : (s.setTile t v).sector j = s.sector j := rfl
@[simp] theorem State.sector_onTile (s : State) (t : Nat) (f : Tile → Tile) (j : Nat) : (s.onTile t f).sector j = s.sector j := rfl
@[simp] theorem State.sector_onQuad (s : State) (q : Nat) (f : Quad → Quad) (j : Nat) : (s.onQuad q f).sector j = s.sector j := rfl
@[simp] theorem State.sector_onDie (s : State) (d : Nat) (f : Die → Die) (j : Nat) : (s.onDie d f).sector j = s.sector j := rfl
@[simp] theorem State.sector_onPkg (s : State) (p : Nat) (f : Pkg → Pkg) (j : Nat) : (s.onPkg p f).sector j = s.sector j := rfl
@[simp] theorem State.sector_onBar (s : State) (d b : Nat) (f : Barrier → Barrier) (j : Nat) : (s.onBar d b f).sector j = s.sector j := rfl
@[simp] theorem State.sector_setSup (s : State) (d n : Nat) (v : Word) (j : Nat) : (s.setSup d n v).sector j = s.sector j := rfl
@[simp] theorem State.sector_tick (s : State) (j : Nat) : (s.tick ).sector j = s.sector j := rfl
@[simp] theorem State.sector_write (s : State) (key : Nat) (bs : List Byte) (j : Nat) : (s.write key bs).sector j = s.sector j := rfl
@[simp] theorem State.sector_writeNat (s : State) (key n v : Nat) (j : Nat) : (s.writeNat key n v).sector j = s.sector j := rfl
@[simp] theorem State.sector_setFull (s : State) (key : Nat) (b : Bool) (j : Nat) : (s.setFull key b).sector j = s.sector j := rfl
@[simp] theorem State.sector_setMark (s : State) (key : Nat) (b : Bool) (j : Nat) : (s.setMark key b).sector j = s.sector j := rfl

/-! ## Updates of a core -/

@[simp] theorem Core.advance_st (c : Core) (n : Nat) : (c.advance n).st = c.st := rfl
@[simp] theorem Core.advance_x (c : Core) (n : Nat) : (c.advance n).x = c.x := rfl
@[simp] theorem Core.advance_p (c : Core) (n : Nat) : (c.advance n).p = c.p := rfl
@[simp] theorem Core.advance_h (c : Core) (n : Nat) : (c.advance n).h = c.h := rfl
@[simp] theorem Core.advance_vp (c : Core) (n : Nat) : (c.advance n).vp = c.vp := rfl
@[simp] theorem Core.advance_job (c : Core) (n : Nat) : (c.advance n).job = c.job := rfl
@[simp] theorem Core.advance_jobseed (c : Core) (n : Nat) : (c.advance n).jobseed = c.jobseed := rfl
@[simp] theorem Core.advance_entry (c : Core) (n : Nat) : (c.advance n).entry = c.entry := rfl
@[simp] theorem Core.advance_birth (c : Core) (n : Nat) : (c.advance n).birth = c.birth := rfl
@[simp] theorem Core.advance_base (c : Core) (n : Nat) : (c.advance n).base = c.base := rfl
@[simp] theorem Core.advance_size (c : Core) (n : Nat) : (c.advance n).size = c.size := rfl
@[simp] theorem Core.advance_bid (c : Core) (n : Nat) : (c.advance n).bid = c.bid := rfl
@[simp] theorem Core.advance_bv (c : Core) (n : Nat) : (c.advance n).bv = c.bv := rfl
@[simp] theorem Core.advance_tvec (c : Core) (n : Nat) : (c.advance n).tvec = c.tvec := rfl
@[simp] theorem Core.advance_tcause (c : Core) (n : Nat) : (c.advance n).tcause = c.tcause := rfl
@[simp] theorem Core.advance_tpc (c : Core) (n : Nat) : (c.advance n).tpc = c.tpc := rfl
@[simp] theorem Core.advance_tval (c : Core) (n : Nat) : (c.advance n).tval = c.tval := rfl
@[simp] theorem Core.advance_inh (c : Core) (n : Nat) : (c.advance n).inh = c.inh := rfl
@[simp] theorem Core.advance_fpstat (c : Core) (n : Nat) : (c.advance n).fpstat = c.fpstat := rfl
@[simp] theorem Core.advance_tags (c : Core) (n : Nat) : (c.advance n).tags = c.tags := rfl
@[simp] theorem Core.advance_rngctr (c : Core) (n : Nat) : (c.advance n).rngctr = c.rngctr := rfl
@[simp] theorem Core.advance_remerr (c : Core) (n : Nat) : (c.advance n).remerr = c.remerr := rfl
@[simp] theorem Core.advance_cls (c : Core) (n : Nat) : (c.advance n).cls = c.cls := rfl
@[simp] theorem Core.advance_cap (c : Core) (n : Nat) : (c.advance n).cap = c.cap := rfl
@[simp] theorem Core.advance_rc (c : Core) (n : Nat) : (c.advance n).rc = c.rc := rfl
@[simp] theorem Core.advance_poison (c : Core) (n : Nat) : (c.advance n).poison = c.poison := rfl
@[simp] theorem Core.advance_loads (c : Core) (n : Nat) : (c.advance n).loads = c.loads := rfl
@[simp] theorem Core.advance_sbuf (c : Core) (n : Nat) : (c.advance n).sbuf = c.sbuf := rfl
@[simp] theorem Core.advance_flights (c : Core) (n : Nat) : (c.advance n).flights = c.flights := rfl
@[simp] theorem Core.advance_msgs (c : Core) (n : Nat) : (c.advance n).msgs = c.msgs := rfl
@[simp] theorem Core.advance_sealed (c : Core) (n : Nat) : (c.advance n).sealed = c.sealed := rfl
@[simp] theorem Core.advance_vq (c : Core) (n : Nat) : (c.advance n).vq = c.vq := rfl
@[simp] theorem Core.advance_vcredit (c : Core) (n : Nat) : (c.advance n).vcredit = c.vcredit := rfl
@[simp] theorem Core.advance_mcredit (c : Core) (n : Nat) : (c.advance n).mcredit = c.mcredit := rfl
@[simp] theorem Core.advance_ccredit (c : Core) (n : Nat) : (c.advance n).ccredit = c.ccredit := rfl
@[simp] theorem Core.advance_cmds (c : Core) (n : Nat) : (c.advance n).cmds = c.cmds := rfl
@[simp] theorem Core.advance_floors (c : Core) (n : Nat) : (c.advance n).floors = c.floors := rfl
@[simp] theorem Core.advance_mark (c : Core) (n : Nat) : (c.advance n).mark = c.mark := rfl
@[simp] theorem Core.advance_hold (c : Core) (n : Nat) : (c.advance n).hold = c.hold := rfl
@[simp] theorem Core.advance_saveMap (c : Core) (n : Nat) : (c.advance n).saveMap = c.saveMap := rfl
@[simp] theorem Core.advance_savePc (c : Core) (n : Nat) : (c.advance n).savePc = c.savePc := rfl
@[simp] theorem Core.advance_savedAt (c : Core) (n : Nat) : (c.advance n).savedAt = c.savedAt := rfl
@[simp] theorem Core.advance_savedCls (c : Core) (n : Nat) : (c.advance n).savedCls = c.savedCls := rfl
@[simp] theorem Core.advance_amask (c : Core) (n : Nat) : (c.advance n).amask = c.amask := rfl
@[simp] theorem Core.advance_broken (c : Core) (n : Nat) : (c.advance n).broken = c.broken := rfl
@[simp] theorem Core.advance_brokenDesc (c : Core) (n : Nat) : (c.advance n).brokenDesc = c.brokenDesc := rfl
@[simp] theorem Core.advance_gang (c : Core) (n : Nat) : (c.advance n).gang = c.gang := rfl
@[simp] theorem Core.advance_gangPos (c : Core) (n : Nat) : (c.advance n).gangPos = c.gangPos := rfl
@[simp] theorem Core.advance_gangPath (c : Core) (n : Nat) : (c.advance n).gangPath = c.gangPath := rfl
@[simp] theorem Core.advance_left (c : Core) (n : Nat) : (c.advance n).left = c.left := rfl
@[simp] theorem Core.advance_clk (c : Core) (n : Nat) : (c.advance n).clk = c.clk := rfl
@[simp] theorem Core.advance_tlb (c : Core) (n : Nat) : (c.advance n).tlb = c.tlb := rfl
@[simp] theorem Core.advance_refusal (c : Core) (n : Nat) : (c.advance n).refusal = c.refusal := rfl
@[simp] theorem Core.advance_report (c : Core) (n : Nat) : (c.advance n).report = c.report := rfl
@[simp] theorem Core.advance_dead (c : Core) (n : Nat) : (c.advance n).dead = c.dead := rfl
@[simp] theorem Core.unwait_st (c : Core) : (c.unwait).st = c.st := rfl
@[simp] theorem Core.unwait_pc (c : Core) : (c.unwait).pc = c.pc := rfl
@[simp] theorem Core.unwait_x (c : Core) : (c.unwait).x = c.x := rfl
@[simp] theorem Core.unwait_p (c : Core) : (c.unwait).p = c.p := rfl
@[simp] theorem Core.unwait_h (c : Core) : (c.unwait).h = c.h := rfl
@[simp] theorem Core.unwait_vp (c : Core) : (c.unwait).vp = c.vp := rfl
@[simp] theorem Core.unwait_job (c : Core) : (c.unwait).job = c.job := rfl
@[simp] theorem Core.unwait_jobseed (c : Core) : (c.unwait).jobseed = c.jobseed := rfl
@[simp] theorem Core.unwait_entry (c : Core) : (c.unwait).entry = c.entry := rfl
@[simp] theorem Core.unwait_birth (c : Core) : (c.unwait).birth = c.birth := rfl
@[simp] theorem Core.unwait_base (c : Core) : (c.unwait).base = c.base := rfl
@[simp] theorem Core.unwait_size (c : Core) : (c.unwait).size = c.size := rfl
@[simp] theorem Core.unwait_bid (c : Core) : (c.unwait).bid = c.bid := rfl
@[simp] theorem Core.unwait_bv (c : Core) : (c.unwait).bv = c.bv := rfl
@[simp] theorem Core.unwait_tvec (c : Core) : (c.unwait).tvec = c.tvec := rfl
@[simp] theorem Core.unwait_tcause (c : Core) : (c.unwait).tcause = c.tcause := rfl
@[simp] theorem Core.unwait_tpc (c : Core) : (c.unwait).tpc = c.tpc := rfl
@[simp] theorem Core.unwait_tval (c : Core) : (c.unwait).tval = c.tval := rfl
@[simp] theorem Core.unwait_inh (c : Core) : (c.unwait).inh = c.inh := rfl
@[simp] theorem Core.unwait_fpstat (c : Core) : (c.unwait).fpstat = c.fpstat := rfl
@[simp] theorem Core.unwait_tags (c : Core) : (c.unwait).tags = c.tags := rfl
@[simp] theorem Core.unwait_rngctr (c : Core) : (c.unwait).rngctr = c.rngctr := rfl
@[simp] theorem Core.unwait_remerr (c : Core) : (c.unwait).remerr = c.remerr := rfl
@[simp] theorem Core.unwait_cls (c : Core) : (c.unwait).cls = c.cls := rfl
@[simp] theorem Core.unwait_cap (c : Core) : (c.unwait).cap = c.cap := rfl
@[simp] theorem Core.unwait_rc (c : Core) : (c.unwait).rc = c.rc := rfl
@[simp] theorem Core.unwait_poison (c : Core) : (c.unwait).poison = c.poison := rfl
@[simp] theorem Core.unwait_loads (c : Core) : (c.unwait).loads = c.loads := rfl
@[simp] theorem Core.unwait_sbuf (c : Core) : (c.unwait).sbuf = c.sbuf := rfl
@[simp] theorem Core.unwait_flights (c : Core) : (c.unwait).flights = c.flights := rfl
@[simp] theorem Core.unwait_msgs (c : Core) : (c.unwait).msgs = c.msgs := rfl
@[simp] theorem Core.unwait_sealed (c : Core) : (c.unwait).sealed = c.sealed := rfl
@[simp] theorem Core.unwait_vq (c : Core) : (c.unwait).vq = c.vq := rfl
@[simp] theorem Core.unwait_vcredit (c : Core) : (c.unwait).vcredit = c.vcredit := rfl
@[simp] theorem Core.unwait_mcredit (c : Core) : (c.unwait).mcredit = c.mcredit := rfl
@[simp] theorem Core.unwait_ccredit (c : Core) : (c.unwait).ccredit = c.ccredit := rfl
@[simp] theorem Core.unwait_cmds (c : Core) : (c.unwait).cmds = c.cmds := rfl
@[simp] theorem Core.unwait_floors (c : Core) : (c.unwait).floors = c.floors := rfl
@[simp] theorem Core.unwait_mark (c : Core) : (c.unwait).mark = c.mark := rfl
@[simp] theorem Core.unwait_hold (c : Core) : (c.unwait).hold = c.hold := rfl
@[simp] theorem Core.unwait_saveMap (c : Core) : (c.unwait).saveMap = c.saveMap := rfl
@[simp] theorem Core.unwait_savePc (c : Core) : (c.unwait).savePc = c.savePc := rfl
@[simp] theorem Core.unwait_savedAt (c : Core) : (c.unwait).savedAt = c.savedAt := rfl
@[simp] theorem Core.unwait_savedCls (c : Core) : (c.unwait).savedCls = c.savedCls := rfl
@[simp] theorem Core.unwait_amask (c : Core) : (c.unwait).amask = c.amask := rfl
@[simp] theorem Core.unwait_broken (c : Core) : (c.unwait).broken = c.broken := rfl
@[simp] theorem Core.unwait_brokenDesc (c : Core) : (c.unwait).brokenDesc = c.brokenDesc := rfl
@[simp] theorem Core.unwait_gang (c : Core) : (c.unwait).gang = c.gang := rfl
@[simp] theorem Core.unwait_gangPos (c : Core) : (c.unwait).gangPos = c.gangPos := rfl
@[simp] theorem Core.unwait_gangPath (c : Core) : (c.unwait).gangPath = c.gangPath := rfl
@[simp] theorem Core.unwait_left (c : Core) : (c.unwait).left = c.left := rfl
@[simp] theorem Core.unwait_clk (c : Core) : (c.unwait).clk = c.clk := rfl
@[simp] theorem Core.unwait_tlb (c : Core) : (c.unwait).tlb = c.tlb := rfl
@[simp] theorem Core.unwait_refusal (c : Core) : (c.unwait).refusal = c.refusal := rfl
@[simp] theorem Core.unwait_report (c : Core) : (c.unwait).report = c.report := rfl
@[simp] theorem Core.unwait_dead (c : Core) : (c.unwait).dead = c.dead := rfl
@[simp] theorem Core.raise_st (c : Core) (f : Flags) : (c.raise f).st = c.st := rfl
@[simp] theorem Core.raise_pc (c : Core) (f : Flags) : (c.raise f).pc = c.pc := rfl
@[simp] theorem Core.raise_x (c : Core) (f : Flags) : (c.raise f).x = c.x := rfl
@[simp] theorem Core.raise_p (c : Core) (f : Flags) : (c.raise f).p = c.p := rfl
@[simp] theorem Core.raise_h (c : Core) (f : Flags) : (c.raise f).h = c.h := rfl
@[simp] theorem Core.raise_vp (c : Core) (f : Flags) : (c.raise f).vp = c.vp := rfl
@[simp] theorem Core.raise_job (c : Core) (f : Flags) : (c.raise f).job = c.job := rfl
@[simp] theorem Core.raise_jobseed (c : Core) (f : Flags) : (c.raise f).jobseed = c.jobseed := rfl
@[simp] theorem Core.raise_entry (c : Core) (f : Flags) : (c.raise f).entry = c.entry := rfl
@[simp] theorem Core.raise_birth (c : Core) (f : Flags) : (c.raise f).birth = c.birth := rfl
@[simp] theorem Core.raise_base (c : Core) (f : Flags) : (c.raise f).base = c.base := rfl
@[simp] theorem Core.raise_size (c : Core) (f : Flags) : (c.raise f).size = c.size := rfl
@[simp] theorem Core.raise_bid (c : Core) (f : Flags) : (c.raise f).bid = c.bid := rfl
@[simp] theorem Core.raise_bv (c : Core) (f : Flags) : (c.raise f).bv = c.bv := rfl
@[simp] theorem Core.raise_tvec (c : Core) (f : Flags) : (c.raise f).tvec = c.tvec := rfl
@[simp] theorem Core.raise_tcause (c : Core) (f : Flags) : (c.raise f).tcause = c.tcause := rfl
@[simp] theorem Core.raise_tpc (c : Core) (f : Flags) : (c.raise f).tpc = c.tpc := rfl
@[simp] theorem Core.raise_tval (c : Core) (f : Flags) : (c.raise f).tval = c.tval := rfl
@[simp] theorem Core.raise_inh (c : Core) (f : Flags) : (c.raise f).inh = c.inh := rfl
@[simp] theorem Core.raise_tags (c : Core) (f : Flags) : (c.raise f).tags = c.tags := rfl
@[simp] theorem Core.raise_rngctr (c : Core) (f : Flags) : (c.raise f).rngctr = c.rngctr := rfl
@[simp] theorem Core.raise_remerr (c : Core) (f : Flags) : (c.raise f).remerr = c.remerr := rfl
@[simp] theorem Core.raise_cls (c : Core) (f : Flags) : (c.raise f).cls = c.cls := rfl
@[simp] theorem Core.raise_cap (c : Core) (f : Flags) : (c.raise f).cap = c.cap := rfl
@[simp] theorem Core.raise_rc (c : Core) (f : Flags) : (c.raise f).rc = c.rc := rfl
@[simp] theorem Core.raise_poison (c : Core) (f : Flags) : (c.raise f).poison = c.poison := rfl
@[simp] theorem Core.raise_loads (c : Core) (f : Flags) : (c.raise f).loads = c.loads := rfl
@[simp] theorem Core.raise_sbuf (c : Core) (f : Flags) : (c.raise f).sbuf = c.sbuf := rfl
@[simp] theorem Core.raise_flights (c : Core) (f : Flags) : (c.raise f).flights = c.flights := rfl
@[simp] theorem Core.raise_msgs (c : Core) (f : Flags) : (c.raise f).msgs = c.msgs := rfl
@[simp] theorem Core.raise_sealed (c : Core) (f : Flags) : (c.raise f).sealed = c.sealed := rfl
@[simp] theorem Core.raise_vq (c : Core) (f : Flags) : (c.raise f).vq = c.vq := rfl
@[simp] theorem Core.raise_vcredit (c : Core) (f : Flags) : (c.raise f).vcredit = c.vcredit := rfl
@[simp] theorem Core.raise_mcredit (c : Core) (f : Flags) : (c.raise f).mcredit = c.mcredit := rfl
@[simp] theorem Core.raise_ccredit (c : Core) (f : Flags) : (c.raise f).ccredit = c.ccredit := rfl
@[simp] theorem Core.raise_cmds (c : Core) (f : Flags) : (c.raise f).cmds = c.cmds := rfl
@[simp] theorem Core.raise_bwaiting (c : Core) (f : Flags) : (c.raise f).bwaiting = c.bwaiting := rfl
@[simp] theorem Core.raise_floors (c : Core) (f : Flags) : (c.raise f).floors = c.floors := rfl
@[simp] theorem Core.raise_token (c : Core) (f : Flags) : (c.raise f).token = c.token := rfl
@[simp] theorem Core.raise_waitFrom (c : Core) (f : Flags) : (c.raise f).waitFrom = c.waitFrom := rfl
@[simp] theorem Core.raise_abwaiting (c : Core) (f : Flags) : (c.raise f).abwaiting = c.abwaiting := rfl
@[simp] theorem Core.raise_wfiLimit (c : Core) (f : Flags) : (c.raise f).wfiLimit = c.wfiLimit := rfl
@[simp] theorem Core.raise_wfiEvent (c : Core) (f : Flags) : (c.raise f).wfiEvent = c.wfiEvent := rfl
@[simp] theorem Core.raise_snap (c : Core) (f : Flags) : (c.raise f).snap = c.snap := rfl
@[simp] theorem Core.raise_plan (c : Core) (f : Flags) : (c.raise f).plan = c.plan := rfl
@[simp] theorem Core.raise_got (c : Core) (f : Flags) : (c.raise f).got = c.got := rfl
@[simp] theorem Core.raise_mark (c : Core) (f : Flags) : (c.raise f).mark = c.mark := rfl
@[simp] theorem Core.raise_hold (c : Core) (f : Flags) : (c.raise f).hold = c.hold := rfl
@[simp] theorem Core.raise_saveMap (c : Core) (f : Flags) : (c.raise f).saveMap = c.saveMap := rfl
@[simp] theorem Core.raise_savePc (c : Core) (f : Flags) : (c.raise f).savePc = c.savePc := rfl
@[simp] theorem Core.raise_savedAt (c : Core) (f : Flags) : (c.raise f).savedAt = c.savedAt := rfl
@[simp] theorem Core.raise_savedCls (c : Core) (f : Flags) : (c.raise f).savedCls = c.savedCls := rfl
@[simp] theorem Core.raise_amask (c : Core) (f : Flags) : (c.raise f).amask = c.amask := rfl
@[simp] theorem Core.raise_broken (c : Core) (f : Flags) : (c.raise f).broken = c.broken := rfl
@[simp] theorem Core.raise_brokenDesc (c : Core) (f : Flags) : (c.raise f).brokenDesc = c.brokenDesc := rfl
@[simp] theorem Core.raise_gang (c : Core) (f : Flags) : (c.raise f).gang = c.gang := rfl
@[simp] theorem Core.raise_gangPos (c : Core) (f : Flags) : (c.raise f).gangPos = c.gangPos := rfl
@[simp] theorem Core.raise_gangPath (c : Core) (f : Flags) : (c.raise f).gangPath = c.gangPath := rfl
@[simp] theorem Core.raise_left (c : Core) (f : Flags) : (c.raise f).left = c.left := rfl
@[simp] theorem Core.raise_clk (c : Core) (f : Flags) : (c.raise f).clk = c.clk := rfl
@[simp] theorem Core.raise_tlb (c : Core) (f : Flags) : (c.raise f).tlb = c.tlb := rfl
@[simp] theorem Core.raise_refusal (c : Core) (f : Flags) : (c.raise f).refusal = c.refusal := rfl
@[simp] theorem Core.raise_report (c : Core) (f : Flags) : (c.raise f).report = c.report := rfl
@[simp] theorem Core.raise_dead (c : Core) (f : Flags) : (c.raise f).dead = c.dead := rfl
@[simp] theorem Core.wx_st (c : Core) (r : XReg) (v : Word) : (c.wx r v).st = c.st := by unfold Core.wx; split <;> rfl
@[simp] theorem Core.wx_pc (c : Core) (r : XReg) (v : Word) : (c.wx r v).pc = c.pc := by unfold Core.wx; split <;> rfl
@[simp] theorem Core.wx_p (c : Core) (r : XReg) (v : Word) : (c.wx r v).p = c.p := by unfold Core.wx; split <;> rfl
@[simp] theorem Core.wx_h (c : Core) (r : XReg) (v : Word) : (c.wx r v).h = c.h := by unfold Core.wx; split <;> rfl
@[simp] theorem Core.wx_vp (c : Core) (r : XReg) (v : Word) : (c.wx r v).vp = c.vp := by unfold Core.wx; split <;> rfl
@[simp] theorem Core.wx_job (c : Core) (r : XReg) (v : Word) : (c.wx r v).job = c.job := by unfold Core.wx; split <;> rfl
@[simp] theorem Core.wx_jobseed (c : Core) (r : XReg) (v : Word) : (c.wx r v).jobseed = c.jobseed := by unfold Core.wx; split <;> rfl
@[simp] theorem Core.wx_entry (c : Core) (r : XReg) (v : Word) : (c.wx r v).entry = c.entry := by unfold Core.wx; split <;> rfl
@[simp] theorem Core.wx_birth (c : Core) (r : XReg) (v : Word) : (c.wx r v).birth = c.birth := by unfold Core.wx; split <;> rfl
@[simp] theorem Core.wx_base (c : Core) (r : XReg) (v : Word) : (c.wx r v).base = c.base := by unfold Core.wx; split <;> rfl
@[simp] theorem Core.wx_size (c : Core) (r : XReg) (v : Word) : (c.wx r v).size = c.size := by unfold Core.wx; split <;> rfl
@[simp] theorem Core.wx_bid (c : Core) (r : XReg) (v : Word) : (c.wx r v).bid = c.bid := by unfold Core.wx; split <;> rfl
@[simp] theorem Core.wx_bv (c : Core) (r : XReg) (v : Word) : (c.wx r v).bv = c.bv := by unfold Core.wx; split <;> rfl
@[simp] theorem Core.wx_tvec (c : Core) (r : XReg) (v : Word) : (c.wx r v).tvec = c.tvec := by unfold Core.wx; split <;> rfl
@[simp] theorem Core.wx_tcause (c : Core) (r : XReg) (v : Word) : (c.wx r v).tcause = c.tcause := by unfold Core.wx; split <;> rfl
@[simp] theorem Core.wx_tpc (c : Core) (r : XReg) (v : Word) : (c.wx r v).tpc = c.tpc := by unfold Core.wx; split <;> rfl
@[simp] theorem Core.wx_tval (c : Core) (r : XReg) (v : Word) : (c.wx r v).tval = c.tval := by unfold Core.wx; split <;> rfl
@[simp] theorem Core.wx_inh (c : Core) (r : XReg) (v : Word) : (c.wx r v).inh = c.inh := by unfold Core.wx; split <;> rfl
@[simp] theorem Core.wx_fpstat (c : Core) (r : XReg) (v : Word) : (c.wx r v).fpstat = c.fpstat := by unfold Core.wx; split <;> rfl
@[simp] theorem Core.wx_tags (c : Core) (r : XReg) (v : Word) : (c.wx r v).tags = c.tags := by unfold Core.wx; split <;> rfl
@[simp] theorem Core.wx_rngctr (c : Core) (r : XReg) (v : Word) : (c.wx r v).rngctr = c.rngctr := by unfold Core.wx; split <;> rfl
@[simp] theorem Core.wx_remerr (c : Core) (r : XReg) (v : Word) : (c.wx r v).remerr = c.remerr := by unfold Core.wx; split <;> rfl
@[simp] theorem Core.wx_cls (c : Core) (r : XReg) (v : Word) : (c.wx r v).cls = c.cls := by unfold Core.wx; split <;> rfl
@[simp] theorem Core.wx_cap (c : Core) (r : XReg) (v : Word) : (c.wx r v).cap = c.cap := by unfold Core.wx; split <;> rfl
@[simp] theorem Core.wx_rc (c : Core) (r : XReg) (v : Word) : (c.wx r v).rc = c.rc := by unfold Core.wx; split <;> rfl
@[simp] theorem Core.wx_loads (c : Core) (r : XReg) (v : Word) : (c.wx r v).loads = c.loads := by unfold Core.wx; split <;> rfl
@[simp] theorem Core.wx_sbuf (c : Core) (r : XReg) (v : Word) : (c.wx r v).sbuf = c.sbuf := by unfold Core.wx; split <;> rfl
@[simp] theorem Core.wx_flights (c : Core) (r : XReg) (v : Word) : (c.wx r v).flights = c.flights := by unfold Core.wx; split <;> rfl
@[simp] theorem Core.wx_msgs (c : Core) (r : XReg) (v : Word) : (c.wx r v).msgs = c.msgs := by unfold Core.wx; split <;> rfl
@[simp] theorem Core.wx_sealed (c : Core) (r : XReg) (v : Word) : (c.wx r v).sealed = c.sealed := by unfold Core.wx; split <;> rfl
@[simp] theorem Core.wx_vq (c : Core) (r : XReg) (v : Word) : (c.wx r v).vq = c.vq := by unfold Core.wx; split <;> rfl
@[simp] theorem Core.wx_vcredit (c : Core) (r : XReg) (v : Word) : (c.wx r v).vcredit = c.vcredit := by unfold Core.wx; split <;> rfl
@[simp] theorem Core.wx_mcredit (c : Core) (r : XReg) (v : Word) : (c.wx r v).mcredit = c.mcredit := by unfold Core.wx; split <;> rfl
@[simp] theorem Core.wx_ccredit (c : Core) (r : XReg) (v : Word) : (c.wx r v).ccredit = c.ccredit := by unfold Core.wx; split <;> rfl
@[simp] theorem Core.wx_cmds (c : Core) (r : XReg) (v : Word) : (c.wx r v).cmds = c.cmds := by unfold Core.wx; split <;> rfl
@[simp] theorem Core.wx_bwaiting (c : Core) (r : XReg) (v : Word) : (c.wx r v).bwaiting = c.bwaiting := by unfold Core.wx; split <;> rfl
@[simp] theorem Core.wx_floors (c : Core) (r : XReg) (v : Word) : (c.wx r v).floors = c.floors := by unfold Core.wx; split <;> rfl
@[simp] theorem Core.wx_token (c : Core) (r : XReg) (v : Word) : (c.wx r v).token = c.token := by unfold Core.wx; split <;> rfl
@[simp] theorem Core.wx_waitFrom (c : Core) (r : XReg) (v : Word) : (c.wx r v).waitFrom = c.waitFrom := by unfold Core.wx; split <;> rfl
@[simp] theorem Core.wx_abwaiting (c : Core) (r : XReg) (v : Word) : (c.wx r v).abwaiting = c.abwaiting := by unfold Core.wx; split <;> rfl
@[simp] theorem Core.wx_wfiLimit (c : Core) (r : XReg) (v : Word) : (c.wx r v).wfiLimit = c.wfiLimit := by unfold Core.wx; split <;> rfl
@[simp] theorem Core.wx_wfiEvent (c : Core) (r : XReg) (v : Word) : (c.wx r v).wfiEvent = c.wfiEvent := by unfold Core.wx; split <;> rfl
@[simp] theorem Core.wx_snap (c : Core) (r : XReg) (v : Word) : (c.wx r v).snap = c.snap := by unfold Core.wx; split <;> rfl
@[simp] theorem Core.wx_plan (c : Core) (r : XReg) (v : Word) : (c.wx r v).plan = c.plan := by unfold Core.wx; split <;> rfl
@[simp] theorem Core.wx_got (c : Core) (r : XReg) (v : Word) : (c.wx r v).got = c.got := by unfold Core.wx; split <;> rfl
@[simp] theorem Core.wx_mark (c : Core) (r : XReg) (v : Word) : (c.wx r v).mark = c.mark := by unfold Core.wx; split <;> rfl
@[simp] theorem Core.wx_hold (c : Core) (r : XReg) (v : Word) : (c.wx r v).hold = c.hold := by unfold Core.wx; split <;> rfl
@[simp] theorem Core.wx_saveMap (c : Core) (r : XReg) (v : Word) : (c.wx r v).saveMap = c.saveMap := by unfold Core.wx; split <;> rfl
@[simp] theorem Core.wx_savePc (c : Core) (r : XReg) (v : Word) : (c.wx r v).savePc = c.savePc := by unfold Core.wx; split <;> rfl
@[simp] theorem Core.wx_savedAt (c : Core) (r : XReg) (v : Word) : (c.wx r v).savedAt = c.savedAt := by unfold Core.wx; split <;> rfl
@[simp] theorem Core.wx_savedCls (c : Core) (r : XReg) (v : Word) : (c.wx r v).savedCls = c.savedCls := by unfold Core.wx; split <;> rfl
@[simp] theorem Core.wx_amask (c : Core) (r : XReg) (v : Word) : (c.wx r v).amask = c.amask := by unfold Core.wx; split <;> rfl
@[simp] theorem Core.wx_broken (c : Core) (r : XReg) (v : Word) : (c.wx r v).broken = c.broken := by unfold Core.wx; split <;> rfl
@[simp] theorem Core.wx_brokenDesc (c : Core) (r : XReg) (v : Word) : (c.wx r v).brokenDesc = c.brokenDesc := by unfold Core.wx; split <;> rfl
@[simp] theorem Core.wx_gang (c : Core) (r : XReg) (v : Word) : (c.wx r v).gang = c.gang := by unfold Core.wx; split <;> rfl
@[simp] theorem Core.wx_gangPos (c : Core) (r : XReg) (v : Word) : (c.wx r v).gangPos = c.gangPos := by unfold Core.wx; split <;> rfl
@[simp] theorem Core.wx_gangPath (c : Core) (r : XReg) (v : Word) : (c.wx r v).gangPath = c.gangPath := by unfold Core.wx; split <;> rfl
@[simp] theorem Core.wx_left (c : Core) (r : XReg) (v : Word) : (c.wx r v).left = c.left := by unfold Core.wx; split <;> rfl
@[simp] theorem Core.wx_clk (c : Core) (r : XReg) (v : Word) : (c.wx r v).clk = c.clk := by unfold Core.wx; split <;> rfl
@[simp] theorem Core.wx_tlb (c : Core) (r : XReg) (v : Word) : (c.wx r v).tlb = c.tlb := by unfold Core.wx; split <;> rfl
@[simp] theorem Core.wx_refusal (c : Core) (r : XReg) (v : Word) : (c.wx r v).refusal = c.refusal := by unfold Core.wx; split <;> rfl
@[simp] theorem Core.wx_report (c : Core) (r : XReg) (v : Word) : (c.wx r v).report = c.report := by unfold Core.wx; split <;> rfl
@[simp] theorem Core.wx_dead (c : Core) (r : XReg) (v : Word) : (c.wx r v).dead = c.dead := by unfold Core.wx; split <;> rfl
@[simp] theorem Core.wh_st (c : Core) (h : HReg) (v : Wide) : (c.wh h v).st = c.st := rfl
@[simp] theorem Core.wh_pc (c : Core) (h : HReg) (v : Wide) : (c.wh h v).pc = c.pc := rfl
@[simp] theorem Core.wh_x (c : Core) (h : HReg) (v : Wide) : (c.wh h v).x = c.x := rfl
@[simp] theorem Core.wh_p (c : Core) (h : HReg) (v : Wide) : (c.wh h v).p = c.p := rfl
@[simp] theorem Core.wh_vp (c : Core) (h : HReg) (v : Wide) : (c.wh h v).vp = c.vp := rfl
@[simp] theorem Core.wh_job (c : Core) (h : HReg) (v : Wide) : (c.wh h v).job = c.job := rfl
@[simp] theorem Core.wh_jobseed (c : Core) (h : HReg) (v : Wide) : (c.wh h v).jobseed = c.jobseed := rfl
@[simp] theorem Core.wh_entry (c : Core) (h : HReg) (v : Wide) : (c.wh h v).entry = c.entry := rfl
@[simp] theorem Core.wh_birth (c : Core) (h : HReg) (v : Wide) : (c.wh h v).birth = c.birth := rfl
@[simp] theorem Core.wh_base (c : Core) (h : HReg) (v : Wide) : (c.wh h v).base = c.base := rfl
@[simp] theorem Core.wh_size (c : Core) (h : HReg) (v : Wide) : (c.wh h v).size = c.size := rfl
@[simp] theorem Core.wh_bid (c : Core) (h : HReg) (v : Wide) : (c.wh h v).bid = c.bid := rfl
@[simp] theorem Core.wh_bv (c : Core) (h : HReg) (v : Wide) : (c.wh h v).bv = c.bv := rfl
@[simp] theorem Core.wh_tvec (c : Core) (h : HReg) (v : Wide) : (c.wh h v).tvec = c.tvec := rfl
@[simp] theorem Core.wh_tcause (c : Core) (h : HReg) (v : Wide) : (c.wh h v).tcause = c.tcause := rfl
@[simp] theorem Core.wh_tpc (c : Core) (h : HReg) (v : Wide) : (c.wh h v).tpc = c.tpc := rfl
@[simp] theorem Core.wh_tval (c : Core) (h : HReg) (v : Wide) : (c.wh h v).tval = c.tval := rfl
@[simp] theorem Core.wh_inh (c : Core) (h : HReg) (v : Wide) : (c.wh h v).inh = c.inh := rfl
@[simp] theorem Core.wh_fpstat (c : Core) (h : HReg) (v : Wide) : (c.wh h v).fpstat = c.fpstat := rfl
@[simp] theorem Core.wh_tags (c : Core) (h : HReg) (v : Wide) : (c.wh h v).tags = c.tags := rfl
@[simp] theorem Core.wh_rngctr (c : Core) (h : HReg) (v : Wide) : (c.wh h v).rngctr = c.rngctr := rfl
@[simp] theorem Core.wh_remerr (c : Core) (h : HReg) (v : Wide) : (c.wh h v).remerr = c.remerr := rfl
@[simp] theorem Core.wh_cls (c : Core) (h : HReg) (v : Wide) : (c.wh h v).cls = c.cls := rfl
@[simp] theorem Core.wh_cap (c : Core) (h : HReg) (v : Wide) : (c.wh h v).cap = c.cap := rfl
@[simp] theorem Core.wh_rc (c : Core) (h : HReg) (v : Wide) : (c.wh h v).rc = c.rc := rfl
@[simp] theorem Core.wh_loads (c : Core) (h : HReg) (v : Wide) : (c.wh h v).loads = c.loads := rfl
@[simp] theorem Core.wh_sbuf (c : Core) (h : HReg) (v : Wide) : (c.wh h v).sbuf = c.sbuf := rfl
@[simp] theorem Core.wh_flights (c : Core) (h : HReg) (v : Wide) : (c.wh h v).flights = c.flights := rfl
@[simp] theorem Core.wh_msgs (c : Core) (h : HReg) (v : Wide) : (c.wh h v).msgs = c.msgs := rfl
@[simp] theorem Core.wh_sealed (c : Core) (h : HReg) (v : Wide) : (c.wh h v).sealed = c.sealed := rfl
@[simp] theorem Core.wh_vq (c : Core) (h : HReg) (v : Wide) : (c.wh h v).vq = c.vq := rfl
@[simp] theorem Core.wh_vcredit (c : Core) (h : HReg) (v : Wide) : (c.wh h v).vcredit = c.vcredit := rfl
@[simp] theorem Core.wh_mcredit (c : Core) (h : HReg) (v : Wide) : (c.wh h v).mcredit = c.mcredit := rfl
@[simp] theorem Core.wh_ccredit (c : Core) (h : HReg) (v : Wide) : (c.wh h v).ccredit = c.ccredit := rfl
@[simp] theorem Core.wh_cmds (c : Core) (h : HReg) (v : Wide) : (c.wh h v).cmds = c.cmds := rfl
@[simp] theorem Core.wh_bwaiting (c : Core) (h : HReg) (v : Wide) : (c.wh h v).bwaiting = c.bwaiting := rfl
@[simp] theorem Core.wh_floors (c : Core) (h : HReg) (v : Wide) : (c.wh h v).floors = c.floors := rfl
@[simp] theorem Core.wh_token (c : Core) (h : HReg) (v : Wide) : (c.wh h v).token = c.token := rfl
@[simp] theorem Core.wh_waitFrom (c : Core) (h : HReg) (v : Wide) : (c.wh h v).waitFrom = c.waitFrom := rfl
@[simp] theorem Core.wh_abwaiting (c : Core) (h : HReg) (v : Wide) : (c.wh h v).abwaiting = c.abwaiting := rfl
@[simp] theorem Core.wh_wfiLimit (c : Core) (h : HReg) (v : Wide) : (c.wh h v).wfiLimit = c.wfiLimit := rfl
@[simp] theorem Core.wh_wfiEvent (c : Core) (h : HReg) (v : Wide) : (c.wh h v).wfiEvent = c.wfiEvent := rfl
@[simp] theorem Core.wh_snap (c : Core) (h : HReg) (v : Wide) : (c.wh h v).snap = c.snap := rfl
@[simp] theorem Core.wh_plan (c : Core) (h : HReg) (v : Wide) : (c.wh h v).plan = c.plan := rfl
@[simp] theorem Core.wh_got (c : Core) (h : HReg) (v : Wide) : (c.wh h v).got = c.got := rfl
@[simp] theorem Core.wh_mark (c : Core) (h : HReg) (v : Wide) : (c.wh h v).mark = c.mark := rfl
@[simp] theorem Core.wh_hold (c : Core) (h : HReg) (v : Wide) : (c.wh h v).hold = c.hold := rfl
@[simp] theorem Core.wh_saveMap (c : Core) (h : HReg) (v : Wide) : (c.wh h v).saveMap = c.saveMap := rfl
@[simp] theorem Core.wh_savePc (c : Core) (h : HReg) (v : Wide) : (c.wh h v).savePc = c.savePc := rfl
@[simp] theorem Core.wh_savedAt (c : Core) (h : HReg) (v : Wide) : (c.wh h v).savedAt = c.savedAt := rfl
@[simp] theorem Core.wh_savedCls (c : Core) (h : HReg) (v : Wide) : (c.wh h v).savedCls = c.savedCls := rfl
@[simp] theorem Core.wh_amask (c : Core) (h : HReg) (v : Wide) : (c.wh h v).amask = c.amask := rfl
@[simp] theorem Core.wh_broken (c : Core) (h : HReg) (v : Wide) : (c.wh h v).broken = c.broken := rfl
@[simp] theorem Core.wh_brokenDesc (c : Core) (h : HReg) (v : Wide) : (c.wh h v).brokenDesc = c.brokenDesc := rfl
@[simp] theorem Core.wh_gang (c : Core) (h : HReg) (v : Wide) : (c.wh h v).gang = c.gang := rfl
@[simp] theorem Core.wh_gangPos (c : Core) (h : HReg) (v : Wide) : (c.wh h v).gangPos = c.gangPos := rfl
@[simp] theorem Core.wh_gangPath (c : Core) (h : HReg) (v : Wide) : (c.wh h v).gangPath = c.gangPath := rfl
@[simp] theorem Core.wh_left (c : Core) (h : HReg) (v : Wide) : (c.wh h v).left = c.left := rfl
@[simp] theorem Core.wh_clk (c : Core) (h : HReg) (v : Wide) : (c.wh h v).clk = c.clk := rfl
@[simp] theorem Core.wh_tlb (c : Core) (h : HReg) (v : Wide) : (c.wh h v).tlb = c.tlb := rfl
@[simp] theorem Core.wh_refusal (c : Core) (h : HReg) (v : Wide) : (c.wh h v).refusal = c.refusal := rfl
@[simp] theorem Core.wh_report (c : Core) (h : HReg) (v : Wide) : (c.wh h v).report = c.report := rfl
@[simp] theorem Core.wh_dead (c : Core) (h : HReg) (v : Wide) : (c.wh h v).dead = c.dead := rfl
@[simp] theorem Core.wp_st (c : Core) (p : PReg) (v : Bool) : (c.wp p v).st = c.st := by unfold Core.wp; split <;> rfl
@[simp] theorem Core.wp_pc (c : Core) (p : PReg) (v : Bool) : (c.wp p v).pc = c.pc := by unfold Core.wp; split <;> rfl
@[simp] theorem Core.wp_x (c : Core) (p : PReg) (v : Bool) : (c.wp p v).x = c.x := by unfold Core.wp; split <;> rfl
@[simp] theorem Core.wp_h (c : Core) (p : PReg) (v : Bool) : (c.wp p v).h = c.h := by unfold Core.wp; split <;> rfl
@[simp] theorem Core.wp_vp (c : Core) (p : PReg) (v : Bool) : (c.wp p v).vp = c.vp := by unfold Core.wp; split <;> rfl
@[simp] theorem Core.wp_job (c : Core) (p : PReg) (v : Bool) : (c.wp p v).job = c.job := by unfold Core.wp; split <;> rfl
@[simp] theorem Core.wp_jobseed (c : Core) (p : PReg) (v : Bool) : (c.wp p v).jobseed = c.jobseed := by unfold Core.wp; split <;> rfl
@[simp] theorem Core.wp_entry (c : Core) (p : PReg) (v : Bool) : (c.wp p v).entry = c.entry := by unfold Core.wp; split <;> rfl
@[simp] theorem Core.wp_birth (c : Core) (p : PReg) (v : Bool) : (c.wp p v).birth = c.birth := by unfold Core.wp; split <;> rfl
@[simp] theorem Core.wp_base (c : Core) (p : PReg) (v : Bool) : (c.wp p v).base = c.base := by unfold Core.wp; split <;> rfl
@[simp] theorem Core.wp_size (c : Core) (p : PReg) (v : Bool) : (c.wp p v).size = c.size := by unfold Core.wp; split <;> rfl
@[simp] theorem Core.wp_bid (c : Core) (p : PReg) (v : Bool) : (c.wp p v).bid = c.bid := by unfold Core.wp; split <;> rfl
@[simp] theorem Core.wp_bv (c : Core) (p : PReg) (v : Bool) : (c.wp p v).bv = c.bv := by unfold Core.wp; split <;> rfl
@[simp] theorem Core.wp_tvec (c : Core) (p : PReg) (v : Bool) : (c.wp p v).tvec = c.tvec := by unfold Core.wp; split <;> rfl
@[simp] theorem Core.wp_tcause (c : Core) (p : PReg) (v : Bool) : (c.wp p v).tcause = c.tcause := by unfold Core.wp; split <;> rfl
@[simp] theorem Core.wp_tpc (c : Core) (p : PReg) (v : Bool) : (c.wp p v).tpc = c.tpc := by unfold Core.wp; split <;> rfl
@[simp] theorem Core.wp_tval (c : Core) (p : PReg) (v : Bool) : (c.wp p v).tval = c.tval := by unfold Core.wp; split <;> rfl
@[simp] theorem Core.wp_inh (c : Core) (p : PReg) (v : Bool) : (c.wp p v).inh = c.inh := by unfold Core.wp; split <;> rfl
@[simp] theorem Core.wp_fpstat (c : Core) (p : PReg) (v : Bool) : (c.wp p v).fpstat = c.fpstat := by unfold Core.wp; split <;> rfl
@[simp] theorem Core.wp_tags (c : Core) (p : PReg) (v : Bool) : (c.wp p v).tags = c.tags := by unfold Core.wp; split <;> rfl
@[simp] theorem Core.wp_rngctr (c : Core) (p : PReg) (v : Bool) : (c.wp p v).rngctr = c.rngctr := by unfold Core.wp; split <;> rfl
@[simp] theorem Core.wp_remerr (c : Core) (p : PReg) (v : Bool) : (c.wp p v).remerr = c.remerr := by unfold Core.wp; split <;> rfl
@[simp] theorem Core.wp_cls (c : Core) (p : PReg) (v : Bool) : (c.wp p v).cls = c.cls := by unfold Core.wp; split <;> rfl
@[simp] theorem Core.wp_cap (c : Core) (p : PReg) (v : Bool) : (c.wp p v).cap = c.cap := by unfold Core.wp; split <;> rfl
@[simp] theorem Core.wp_rc (c : Core) (p : PReg) (v : Bool) : (c.wp p v).rc = c.rc := by unfold Core.wp; split <;> rfl
@[simp] theorem Core.wp_loads (c : Core) (p : PReg) (v : Bool) : (c.wp p v).loads = c.loads := by unfold Core.wp; split <;> rfl
@[simp] theorem Core.wp_sbuf (c : Core) (p : PReg) (v : Bool) : (c.wp p v).sbuf = c.sbuf := by unfold Core.wp; split <;> rfl
@[simp] theorem Core.wp_flights (c : Core) (p : PReg) (v : Bool) : (c.wp p v).flights = c.flights := by unfold Core.wp; split <;> rfl
@[simp] theorem Core.wp_msgs (c : Core) (p : PReg) (v : Bool) : (c.wp p v).msgs = c.msgs := by unfold Core.wp; split <;> rfl
@[simp] theorem Core.wp_sealed (c : Core) (p : PReg) (v : Bool) : (c.wp p v).sealed = c.sealed := by unfold Core.wp; split <;> rfl
@[simp] theorem Core.wp_vq (c : Core) (p : PReg) (v : Bool) : (c.wp p v).vq = c.vq := by unfold Core.wp; split <;> rfl
@[simp] theorem Core.wp_vcredit (c : Core) (p : PReg) (v : Bool) : (c.wp p v).vcredit = c.vcredit := by unfold Core.wp; split <;> rfl
@[simp] theorem Core.wp_mcredit (c : Core) (p : PReg) (v : Bool) : (c.wp p v).mcredit = c.mcredit := by unfold Core.wp; split <;> rfl
@[simp] theorem Core.wp_ccredit (c : Core) (p : PReg) (v : Bool) : (c.wp p v).ccredit = c.ccredit := by unfold Core.wp; split <;> rfl
@[simp] theorem Core.wp_cmds (c : Core) (p : PReg) (v : Bool) : (c.wp p v).cmds = c.cmds := by unfold Core.wp; split <;> rfl
@[simp] theorem Core.wp_bwaiting (c : Core) (p : PReg) (v : Bool) : (c.wp p v).bwaiting = c.bwaiting := by unfold Core.wp; split <;> rfl
@[simp] theorem Core.wp_floors (c : Core) (p : PReg) (v : Bool) : (c.wp p v).floors = c.floors := by unfold Core.wp; split <;> rfl
@[simp] theorem Core.wp_token (c : Core) (p : PReg) (v : Bool) : (c.wp p v).token = c.token := by unfold Core.wp; split <;> rfl
@[simp] theorem Core.wp_waitFrom (c : Core) (p : PReg) (v : Bool) : (c.wp p v).waitFrom = c.waitFrom := by unfold Core.wp; split <;> rfl
@[simp] theorem Core.wp_abwaiting (c : Core) (p : PReg) (v : Bool) : (c.wp p v).abwaiting = c.abwaiting := by unfold Core.wp; split <;> rfl
@[simp] theorem Core.wp_wfiLimit (c : Core) (p : PReg) (v : Bool) : (c.wp p v).wfiLimit = c.wfiLimit := by unfold Core.wp; split <;> rfl
@[simp] theorem Core.wp_wfiEvent (c : Core) (p : PReg) (v : Bool) : (c.wp p v).wfiEvent = c.wfiEvent := by unfold Core.wp; split <;> rfl
@[simp] theorem Core.wp_snap (c : Core) (p : PReg) (v : Bool) : (c.wp p v).snap = c.snap := by unfold Core.wp; split <;> rfl
@[simp] theorem Core.wp_plan (c : Core) (p : PReg) (v : Bool) : (c.wp p v).plan = c.plan := by unfold Core.wp; split <;> rfl
@[simp] theorem Core.wp_got (c : Core) (p : PReg) (v : Bool) : (c.wp p v).got = c.got := by unfold Core.wp; split <;> rfl
@[simp] theorem Core.wp_mark (c : Core) (p : PReg) (v : Bool) : (c.wp p v).mark = c.mark := by unfold Core.wp; split <;> rfl
@[simp] theorem Core.wp_hold (c : Core) (p : PReg) (v : Bool) : (c.wp p v).hold = c.hold := by unfold Core.wp; split <;> rfl
@[simp] theorem Core.wp_saveMap (c : Core) (p : PReg) (v : Bool) : (c.wp p v).saveMap = c.saveMap := by unfold Core.wp; split <;> rfl
@[simp] theorem Core.wp_savePc (c : Core) (p : PReg) (v : Bool) : (c.wp p v).savePc = c.savePc := by unfold Core.wp; split <;> rfl
@[simp] theorem Core.wp_savedAt (c : Core) (p : PReg) (v : Bool) : (c.wp p v).savedAt = c.savedAt := by unfold Core.wp; split <;> rfl
@[simp] theorem Core.wp_savedCls (c : Core) (p : PReg) (v : Bool) : (c.wp p v).savedCls = c.savedCls := by unfold Core.wp; split <;> rfl
@[simp] theorem Core.wp_amask (c : Core) (p : PReg) (v : Bool) : (c.wp p v).amask = c.amask := by unfold Core.wp; split <;> rfl
@[simp] theorem Core.wp_broken (c : Core) (p : PReg) (v : Bool) : (c.wp p v).broken = c.broken := by unfold Core.wp; split <;> rfl
@[simp] theorem Core.wp_brokenDesc (c : Core) (p : PReg) (v : Bool) : (c.wp p v).brokenDesc = c.brokenDesc := by unfold Core.wp; split <;> rfl
@[simp] theorem Core.wp_gang (c : Core) (p : PReg) (v : Bool) : (c.wp p v).gang = c.gang := by unfold Core.wp; split <;> rfl
@[simp] theorem Core.wp_gangPos (c : Core) (p : PReg) (v : Bool) : (c.wp p v).gangPos = c.gangPos := by unfold Core.wp; split <;> rfl
@[simp] theorem Core.wp_gangPath (c : Core) (p : PReg) (v : Bool) : (c.wp p v).gangPath = c.gangPath := by unfold Core.wp; split <;> rfl
@[simp] theorem Core.wp_left (c : Core) (p : PReg) (v : Bool) : (c.wp p v).left = c.left := by unfold Core.wp; split <;> rfl
@[simp] theorem Core.wp_clk (c : Core) (p : PReg) (v : Bool) : (c.wp p v).clk = c.clk := by unfold Core.wp; split <;> rfl
@[simp] theorem Core.wp_tlb (c : Core) (p : PReg) (v : Bool) : (c.wp p v).tlb = c.tlb := by unfold Core.wp; split <;> rfl
@[simp] theorem Core.wp_refusal (c : Core) (p : PReg) (v : Bool) : (c.wp p v).refusal = c.refusal := by unfold Core.wp; split <;> rfl
@[simp] theorem Core.wp_report (c : Core) (p : PReg) (v : Bool) : (c.wp p v).report = c.report := by unfold Core.wp; split <;> rfl
@[simp] theorem Core.wp_dead (c : Core) (p : PReg) (v : Bool) : (c.wp p v).dead = c.dead := by unfold Core.wp; split <;> rfl
@[simp] theorem Core.wvp_st (c : Core) (p : PReg) (v : Wide) : (c.wvp p v).st = c.st := by unfold Core.wvp; split <;> rfl
@[simp] theorem Core.wvp_pc (c : Core) (p : PReg) (v : Wide) : (c.wvp p v).pc = c.pc := by unfold Core.wvp; split <;> rfl
@[simp] theorem Core.wvp_x (c : Core) (p : PReg) (v : Wide) : (c.wvp p v).x = c.x := by unfold Core.wvp; split <;> rfl
@[simp] theorem Core.wvp_p (c : Core) (p : PReg) (v : Wide) : (c.wvp p v).p = c.p := by unfold Core.wvp; split <;> rfl
@[simp] theorem Core.wvp_h (c : Core) (p : PReg) (v : Wide) : (c.wvp p v).h = c.h := by unfold Core.wvp; split <;> rfl
@[simp] theorem Core.wvp_job (c : Core) (p : PReg) (v : Wide) : (c.wvp p v).job = c.job := by unfold Core.wvp; split <;> rfl
@[simp] theorem Core.wvp_jobseed (c : Core) (p : PReg) (v : Wide) : (c.wvp p v).jobseed = c.jobseed := by unfold Core.wvp; split <;> rfl
@[simp] theorem Core.wvp_entry (c : Core) (p : PReg) (v : Wide) : (c.wvp p v).entry = c.entry := by unfold Core.wvp; split <;> rfl
@[simp] theorem Core.wvp_birth (c : Core) (p : PReg) (v : Wide) : (c.wvp p v).birth = c.birth := by unfold Core.wvp; split <;> rfl
@[simp] theorem Core.wvp_base (c : Core) (p : PReg) (v : Wide) : (c.wvp p v).base = c.base := by unfold Core.wvp; split <;> rfl
@[simp] theorem Core.wvp_size (c : Core) (p : PReg) (v : Wide) : (c.wvp p v).size = c.size := by unfold Core.wvp; split <;> rfl
@[simp] theorem Core.wvp_bid (c : Core) (p : PReg) (v : Wide) : (c.wvp p v).bid = c.bid := by unfold Core.wvp; split <;> rfl
@[simp] theorem Core.wvp_bv (c : Core) (p : PReg) (v : Wide) : (c.wvp p v).bv = c.bv := by unfold Core.wvp; split <;> rfl
@[simp] theorem Core.wvp_tvec (c : Core) (p : PReg) (v : Wide) : (c.wvp p v).tvec = c.tvec := by unfold Core.wvp; split <;> rfl
@[simp] theorem Core.wvp_tcause (c : Core) (p : PReg) (v : Wide) : (c.wvp p v).tcause = c.tcause := by unfold Core.wvp; split <;> rfl
@[simp] theorem Core.wvp_tpc (c : Core) (p : PReg) (v : Wide) : (c.wvp p v).tpc = c.tpc := by unfold Core.wvp; split <;> rfl
@[simp] theorem Core.wvp_tval (c : Core) (p : PReg) (v : Wide) : (c.wvp p v).tval = c.tval := by unfold Core.wvp; split <;> rfl
@[simp] theorem Core.wvp_inh (c : Core) (p : PReg) (v : Wide) : (c.wvp p v).inh = c.inh := by unfold Core.wvp; split <;> rfl
@[simp] theorem Core.wvp_fpstat (c : Core) (p : PReg) (v : Wide) : (c.wvp p v).fpstat = c.fpstat := by unfold Core.wvp; split <;> rfl
@[simp] theorem Core.wvp_tags (c : Core) (p : PReg) (v : Wide) : (c.wvp p v).tags = c.tags := by unfold Core.wvp; split <;> rfl
@[simp] theorem Core.wvp_rngctr (c : Core) (p : PReg) (v : Wide) : (c.wvp p v).rngctr = c.rngctr := by unfold Core.wvp; split <;> rfl
@[simp] theorem Core.wvp_remerr (c : Core) (p : PReg) (v : Wide) : (c.wvp p v).remerr = c.remerr := by unfold Core.wvp; split <;> rfl
@[simp] theorem Core.wvp_cls (c : Core) (p : PReg) (v : Wide) : (c.wvp p v).cls = c.cls := by unfold Core.wvp; split <;> rfl
@[simp] theorem Core.wvp_cap (c : Core) (p : PReg) (v : Wide) : (c.wvp p v).cap = c.cap := by unfold Core.wvp; split <;> rfl
@[simp] theorem Core.wvp_rc (c : Core) (p : PReg) (v : Wide) : (c.wvp p v).rc = c.rc := by unfold Core.wvp; split <;> rfl
@[simp] theorem Core.wvp_loads (c : Core) (p : PReg) (v : Wide) : (c.wvp p v).loads = c.loads := by unfold Core.wvp; split <;> rfl
@[simp] theorem Core.wvp_sbuf (c : Core) (p : PReg) (v : Wide) : (c.wvp p v).sbuf = c.sbuf := by unfold Core.wvp; split <;> rfl
@[simp] theorem Core.wvp_flights (c : Core) (p : PReg) (v : Wide) : (c.wvp p v).flights = c.flights := by unfold Core.wvp; split <;> rfl
@[simp] theorem Core.wvp_msgs (c : Core) (p : PReg) (v : Wide) : (c.wvp p v).msgs = c.msgs := by unfold Core.wvp; split <;> rfl
@[simp] theorem Core.wvp_sealed (c : Core) (p : PReg) (v : Wide) : (c.wvp p v).sealed = c.sealed := by unfold Core.wvp; split <;> rfl
@[simp] theorem Core.wvp_vq (c : Core) (p : PReg) (v : Wide) : (c.wvp p v).vq = c.vq := by unfold Core.wvp; split <;> rfl
@[simp] theorem Core.wvp_vcredit (c : Core) (p : PReg) (v : Wide) : (c.wvp p v).vcredit = c.vcredit := by unfold Core.wvp; split <;> rfl
@[simp] theorem Core.wvp_mcredit (c : Core) (p : PReg) (v : Wide) : (c.wvp p v).mcredit = c.mcredit := by unfold Core.wvp; split <;> rfl
@[simp] theorem Core.wvp_ccredit (c : Core) (p : PReg) (v : Wide) : (c.wvp p v).ccredit = c.ccredit := by unfold Core.wvp; split <;> rfl
@[simp] theorem Core.wvp_cmds (c : Core) (p : PReg) (v : Wide) : (c.wvp p v).cmds = c.cmds := by unfold Core.wvp; split <;> rfl
@[simp] theorem Core.wvp_bwaiting (c : Core) (p : PReg) (v : Wide) : (c.wvp p v).bwaiting = c.bwaiting := by unfold Core.wvp; split <;> rfl
@[simp] theorem Core.wvp_floors (c : Core) (p : PReg) (v : Wide) : (c.wvp p v).floors = c.floors := by unfold Core.wvp; split <;> rfl
@[simp] theorem Core.wvp_token (c : Core) (p : PReg) (v : Wide) : (c.wvp p v).token = c.token := by unfold Core.wvp; split <;> rfl
@[simp] theorem Core.wvp_waitFrom (c : Core) (p : PReg) (v : Wide) : (c.wvp p v).waitFrom = c.waitFrom := by unfold Core.wvp; split <;> rfl
@[simp] theorem Core.wvp_abwaiting (c : Core) (p : PReg) (v : Wide) : (c.wvp p v).abwaiting = c.abwaiting := by unfold Core.wvp; split <;> rfl
@[simp] theorem Core.wvp_wfiLimit (c : Core) (p : PReg) (v : Wide) : (c.wvp p v).wfiLimit = c.wfiLimit := by unfold Core.wvp; split <;> rfl
@[simp] theorem Core.wvp_wfiEvent (c : Core) (p : PReg) (v : Wide) : (c.wvp p v).wfiEvent = c.wfiEvent := by unfold Core.wvp; split <;> rfl
@[simp] theorem Core.wvp_snap (c : Core) (p : PReg) (v : Wide) : (c.wvp p v).snap = c.snap := by unfold Core.wvp; split <;> rfl
@[simp] theorem Core.wvp_plan (c : Core) (p : PReg) (v : Wide) : (c.wvp p v).plan = c.plan := by unfold Core.wvp; split <;> rfl
@[simp] theorem Core.wvp_got (c : Core) (p : PReg) (v : Wide) : (c.wvp p v).got = c.got := by unfold Core.wvp; split <;> rfl
@[simp] theorem Core.wvp_mark (c : Core) (p : PReg) (v : Wide) : (c.wvp p v).mark = c.mark := by unfold Core.wvp; split <;> rfl
@[simp] theorem Core.wvp_hold (c : Core) (p : PReg) (v : Wide) : (c.wvp p v).hold = c.hold := by unfold Core.wvp; split <;> rfl
@[simp] theorem Core.wvp_saveMap (c : Core) (p : PReg) (v : Wide) : (c.wvp p v).saveMap = c.saveMap := by unfold Core.wvp; split <;> rfl
@[simp] theorem Core.wvp_savePc (c : Core) (p : PReg) (v : Wide) : (c.wvp p v).savePc = c.savePc := by unfold Core.wvp; split <;> rfl
@[simp] theorem Core.wvp_savedAt (c : Core) (p : PReg) (v : Wide) : (c.wvp p v).savedAt = c.savedAt := by unfold Core.wvp; split <;> rfl
@[simp] theorem Core.wvp_savedCls (c : Core) (p : PReg) (v : Wide) : (c.wvp p v).savedCls = c.savedCls := by unfold Core.wvp; split <;> rfl
@[simp] theorem Core.wvp_amask (c : Core) (p : PReg) (v : Wide) : (c.wvp p v).amask = c.amask := by unfold Core.wvp; split <;> rfl
@[simp] theorem Core.wvp_broken (c : Core) (p : PReg) (v : Wide) : (c.wvp p v).broken = c.broken := by unfold Core.wvp; split <;> rfl
@[simp] theorem Core.wvp_brokenDesc (c : Core) (p : PReg) (v : Wide) : (c.wvp p v).brokenDesc = c.brokenDesc := by unfold Core.wvp; split <;> rfl
@[simp] theorem Core.wvp_gang (c : Core) (p : PReg) (v : Wide) : (c.wvp p v).gang = c.gang := by unfold Core.wvp; split <;> rfl
@[simp] theorem Core.wvp_gangPos (c : Core) (p : PReg) (v : Wide) : (c.wvp p v).gangPos = c.gangPos := by unfold Core.wvp; split <;> rfl
@[simp] theorem Core.wvp_gangPath (c : Core) (p : PReg) (v : Wide) : (c.wvp p v).gangPath = c.gangPath := by unfold Core.wvp; split <;> rfl
@[simp] theorem Core.wvp_left (c : Core) (p : PReg) (v : Wide) : (c.wvp p v).left = c.left := by unfold Core.wvp; split <;> rfl
@[simp] theorem Core.wvp_clk (c : Core) (p : PReg) (v : Wide) : (c.wvp p v).clk = c.clk := by unfold Core.wvp; split <;> rfl
@[simp] theorem Core.wvp_tlb (c : Core) (p : PReg) (v : Wide) : (c.wvp p v).tlb = c.tlb := by unfold Core.wvp; split <;> rfl
@[simp] theorem Core.wvp_refusal (c : Core) (p : PReg) (v : Wide) : (c.wvp p v).refusal = c.refusal := by unfold Core.wvp; split <;> rfl
@[simp] theorem Core.wvp_report (c : Core) (p : PReg) (v : Wide) : (c.wvp p v).report = c.report := by unfold Core.wvp; split <;> rfl
@[simp] theorem Core.wvp_dead (c : Core) (p : PReg) (v : Wide) : (c.wvp p v).dead = c.dead := by unfold Core.wvp; split <;> rfl
@[simp] theorem Core.setPair_st (c : Core) (wm : Wm) (pt pf : PReg) (v : Bool) : (c.setPair wm pt pf v).st = c.st := by
  simp [Core.setPair, Core.writePair]
@[simp] theorem Core.writePair_st (c : Core) (pt pf : PReg) (v : Bool × Bool) : (c.writePair pt pf v).st = c.st := by
  simp [Core.writePair]
@[simp] theorem Core.setPair_pc (c : Core) (wm : Wm) (pt pf : PReg) (v : Bool) : (c.setPair wm pt pf v).pc = c.pc := by
  simp [Core.setPair, Core.writePair]
@[simp] theorem Core.writePair_pc (c : Core) (pt pf : PReg) (v : Bool × Bool) : (c.writePair pt pf v).pc = c.pc := by
  simp [Core.writePair]
@[simp] theorem Core.setPair_x (c : Core) (wm : Wm) (pt pf : PReg) (v : Bool) : (c.setPair wm pt pf v).x = c.x := by
  simp [Core.setPair, Core.writePair]
@[simp] theorem Core.writePair_x (c : Core) (pt pf : PReg) (v : Bool × Bool) : (c.writePair pt pf v).x = c.x := by
  simp [Core.writePair]
@[simp] theorem Core.setPair_h (c : Core) (wm : Wm) (pt pf : PReg) (v : Bool) : (c.setPair wm pt pf v).h = c.h := by
  simp [Core.setPair, Core.writePair]
@[simp] theorem Core.writePair_h (c : Core) (pt pf : PReg) (v : Bool × Bool) : (c.writePair pt pf v).h = c.h := by
  simp [Core.writePair]
@[simp] theorem Core.setPair_vp (c : Core) (wm : Wm) (pt pf : PReg) (v : Bool) : (c.setPair wm pt pf v).vp = c.vp := by
  simp [Core.setPair, Core.writePair]
@[simp] theorem Core.writePair_vp (c : Core) (pt pf : PReg) (v : Bool × Bool) : (c.writePair pt pf v).vp = c.vp := by
  simp [Core.writePair]
@[simp] theorem Core.setPair_job (c : Core) (wm : Wm) (pt pf : PReg) (v : Bool) : (c.setPair wm pt pf v).job = c.job := by
  simp [Core.setPair, Core.writePair]
@[simp] theorem Core.writePair_job (c : Core) (pt pf : PReg) (v : Bool × Bool) : (c.writePair pt pf v).job = c.job := by
  simp [Core.writePair]
@[simp] theorem Core.setPair_jobseed (c : Core) (wm : Wm) (pt pf : PReg) (v : Bool) : (c.setPair wm pt pf v).jobseed = c.jobseed := by
  simp [Core.setPair, Core.writePair]
@[simp] theorem Core.writePair_jobseed (c : Core) (pt pf : PReg) (v : Bool × Bool) : (c.writePair pt pf v).jobseed = c.jobseed := by
  simp [Core.writePair]
@[simp] theorem Core.setPair_entry (c : Core) (wm : Wm) (pt pf : PReg) (v : Bool) : (c.setPair wm pt pf v).entry = c.entry := by
  simp [Core.setPair, Core.writePair]
@[simp] theorem Core.writePair_entry (c : Core) (pt pf : PReg) (v : Bool × Bool) : (c.writePair pt pf v).entry = c.entry := by
  simp [Core.writePair]
@[simp] theorem Core.setPair_birth (c : Core) (wm : Wm) (pt pf : PReg) (v : Bool) : (c.setPair wm pt pf v).birth = c.birth := by
  simp [Core.setPair, Core.writePair]
@[simp] theorem Core.writePair_birth (c : Core) (pt pf : PReg) (v : Bool × Bool) : (c.writePair pt pf v).birth = c.birth := by
  simp [Core.writePair]
@[simp] theorem Core.setPair_base (c : Core) (wm : Wm) (pt pf : PReg) (v : Bool) : (c.setPair wm pt pf v).base = c.base := by
  simp [Core.setPair, Core.writePair]
@[simp] theorem Core.writePair_base (c : Core) (pt pf : PReg) (v : Bool × Bool) : (c.writePair pt pf v).base = c.base := by
  simp [Core.writePair]
@[simp] theorem Core.setPair_size (c : Core) (wm : Wm) (pt pf : PReg) (v : Bool) : (c.setPair wm pt pf v).size = c.size := by
  simp [Core.setPair, Core.writePair]
@[simp] theorem Core.writePair_size (c : Core) (pt pf : PReg) (v : Bool × Bool) : (c.writePair pt pf v).size = c.size := by
  simp [Core.writePair]
@[simp] theorem Core.setPair_bid (c : Core) (wm : Wm) (pt pf : PReg) (v : Bool) : (c.setPair wm pt pf v).bid = c.bid := by
  simp [Core.setPair, Core.writePair]
@[simp] theorem Core.writePair_bid (c : Core) (pt pf : PReg) (v : Bool × Bool) : (c.writePair pt pf v).bid = c.bid := by
  simp [Core.writePair]
@[simp] theorem Core.setPair_bv (c : Core) (wm : Wm) (pt pf : PReg) (v : Bool) : (c.setPair wm pt pf v).bv = c.bv := by
  simp [Core.setPair, Core.writePair]
@[simp] theorem Core.writePair_bv (c : Core) (pt pf : PReg) (v : Bool × Bool) : (c.writePair pt pf v).bv = c.bv := by
  simp [Core.writePair]
@[simp] theorem Core.setPair_tvec (c : Core) (wm : Wm) (pt pf : PReg) (v : Bool) : (c.setPair wm pt pf v).tvec = c.tvec := by
  simp [Core.setPair, Core.writePair]
@[simp] theorem Core.writePair_tvec (c : Core) (pt pf : PReg) (v : Bool × Bool) : (c.writePair pt pf v).tvec = c.tvec := by
  simp [Core.writePair]
@[simp] theorem Core.setPair_tcause (c : Core) (wm : Wm) (pt pf : PReg) (v : Bool) : (c.setPair wm pt pf v).tcause = c.tcause := by
  simp [Core.setPair, Core.writePair]
@[simp] theorem Core.writePair_tcause (c : Core) (pt pf : PReg) (v : Bool × Bool) : (c.writePair pt pf v).tcause = c.tcause := by
  simp [Core.writePair]
@[simp] theorem Core.setPair_tpc (c : Core) (wm : Wm) (pt pf : PReg) (v : Bool) : (c.setPair wm pt pf v).tpc = c.tpc := by
  simp [Core.setPair, Core.writePair]
@[simp] theorem Core.writePair_tpc (c : Core) (pt pf : PReg) (v : Bool × Bool) : (c.writePair pt pf v).tpc = c.tpc := by
  simp [Core.writePair]
@[simp] theorem Core.setPair_tval (c : Core) (wm : Wm) (pt pf : PReg) (v : Bool) : (c.setPair wm pt pf v).tval = c.tval := by
  simp [Core.setPair, Core.writePair]
@[simp] theorem Core.writePair_tval (c : Core) (pt pf : PReg) (v : Bool × Bool) : (c.writePair pt pf v).tval = c.tval := by
  simp [Core.writePair]
@[simp] theorem Core.setPair_inh (c : Core) (wm : Wm) (pt pf : PReg) (v : Bool) : (c.setPair wm pt pf v).inh = c.inh := by
  simp [Core.setPair, Core.writePair]
@[simp] theorem Core.writePair_inh (c : Core) (pt pf : PReg) (v : Bool × Bool) : (c.writePair pt pf v).inh = c.inh := by
  simp [Core.writePair]
@[simp] theorem Core.setPair_fpstat (c : Core) (wm : Wm) (pt pf : PReg) (v : Bool) : (c.setPair wm pt pf v).fpstat = c.fpstat := by
  simp [Core.setPair, Core.writePair]
@[simp] theorem Core.writePair_fpstat (c : Core) (pt pf : PReg) (v : Bool × Bool) : (c.writePair pt pf v).fpstat = c.fpstat := by
  simp [Core.writePair]
@[simp] theorem Core.setPair_tags (c : Core) (wm : Wm) (pt pf : PReg) (v : Bool) : (c.setPair wm pt pf v).tags = c.tags := by
  simp [Core.setPair, Core.writePair]
@[simp] theorem Core.writePair_tags (c : Core) (pt pf : PReg) (v : Bool × Bool) : (c.writePair pt pf v).tags = c.tags := by
  simp [Core.writePair]
@[simp] theorem Core.setPair_rngctr (c : Core) (wm : Wm) (pt pf : PReg) (v : Bool) : (c.setPair wm pt pf v).rngctr = c.rngctr := by
  simp [Core.setPair, Core.writePair]
@[simp] theorem Core.writePair_rngctr (c : Core) (pt pf : PReg) (v : Bool × Bool) : (c.writePair pt pf v).rngctr = c.rngctr := by
  simp [Core.writePair]
@[simp] theorem Core.setPair_remerr (c : Core) (wm : Wm) (pt pf : PReg) (v : Bool) : (c.setPair wm pt pf v).remerr = c.remerr := by
  simp [Core.setPair, Core.writePair]
@[simp] theorem Core.writePair_remerr (c : Core) (pt pf : PReg) (v : Bool × Bool) : (c.writePair pt pf v).remerr = c.remerr := by
  simp [Core.writePair]
@[simp] theorem Core.setPair_cls (c : Core) (wm : Wm) (pt pf : PReg) (v : Bool) : (c.setPair wm pt pf v).cls = c.cls := by
  simp [Core.setPair, Core.writePair]
@[simp] theorem Core.writePair_cls (c : Core) (pt pf : PReg) (v : Bool × Bool) : (c.writePair pt pf v).cls = c.cls := by
  simp [Core.writePair]
@[simp] theorem Core.setPair_cap (c : Core) (wm : Wm) (pt pf : PReg) (v : Bool) : (c.setPair wm pt pf v).cap = c.cap := by
  simp [Core.setPair, Core.writePair]
@[simp] theorem Core.writePair_cap (c : Core) (pt pf : PReg) (v : Bool × Bool) : (c.writePair pt pf v).cap = c.cap := by
  simp [Core.writePair]
@[simp] theorem Core.setPair_rc (c : Core) (wm : Wm) (pt pf : PReg) (v : Bool) : (c.setPair wm pt pf v).rc = c.rc := by
  simp [Core.setPair, Core.writePair]
@[simp] theorem Core.writePair_rc (c : Core) (pt pf : PReg) (v : Bool × Bool) : (c.writePair pt pf v).rc = c.rc := by
  simp [Core.writePair]
@[simp] theorem Core.setPair_loads (c : Core) (wm : Wm) (pt pf : PReg) (v : Bool) : (c.setPair wm pt pf v).loads = c.loads := by
  simp [Core.setPair, Core.writePair]
@[simp] theorem Core.writePair_loads (c : Core) (pt pf : PReg) (v : Bool × Bool) : (c.writePair pt pf v).loads = c.loads := by
  simp [Core.writePair]
@[simp] theorem Core.setPair_sbuf (c : Core) (wm : Wm) (pt pf : PReg) (v : Bool) : (c.setPair wm pt pf v).sbuf = c.sbuf := by
  simp [Core.setPair, Core.writePair]
@[simp] theorem Core.writePair_sbuf (c : Core) (pt pf : PReg) (v : Bool × Bool) : (c.writePair pt pf v).sbuf = c.sbuf := by
  simp [Core.writePair]
@[simp] theorem Core.setPair_flights (c : Core) (wm : Wm) (pt pf : PReg) (v : Bool) : (c.setPair wm pt pf v).flights = c.flights := by
  simp [Core.setPair, Core.writePair]
@[simp] theorem Core.writePair_flights (c : Core) (pt pf : PReg) (v : Bool × Bool) : (c.writePair pt pf v).flights = c.flights := by
  simp [Core.writePair]
@[simp] theorem Core.setPair_msgs (c : Core) (wm : Wm) (pt pf : PReg) (v : Bool) : (c.setPair wm pt pf v).msgs = c.msgs := by
  simp [Core.setPair, Core.writePair]
@[simp] theorem Core.writePair_msgs (c : Core) (pt pf : PReg) (v : Bool × Bool) : (c.writePair pt pf v).msgs = c.msgs := by
  simp [Core.writePair]
@[simp] theorem Core.setPair_sealed (c : Core) (wm : Wm) (pt pf : PReg) (v : Bool) : (c.setPair wm pt pf v).sealed = c.sealed := by
  simp [Core.setPair, Core.writePair]
@[simp] theorem Core.writePair_sealed (c : Core) (pt pf : PReg) (v : Bool × Bool) : (c.writePair pt pf v).sealed = c.sealed := by
  simp [Core.writePair]
@[simp] theorem Core.setPair_vq (c : Core) (wm : Wm) (pt pf : PReg) (v : Bool) : (c.setPair wm pt pf v).vq = c.vq := by
  simp [Core.setPair, Core.writePair]
@[simp] theorem Core.writePair_vq (c : Core) (pt pf : PReg) (v : Bool × Bool) : (c.writePair pt pf v).vq = c.vq := by
  simp [Core.writePair]
@[simp] theorem Core.setPair_vcredit (c : Core) (wm : Wm) (pt pf : PReg) (v : Bool) : (c.setPair wm pt pf v).vcredit = c.vcredit := by
  simp [Core.setPair, Core.writePair]
@[simp] theorem Core.writePair_vcredit (c : Core) (pt pf : PReg) (v : Bool × Bool) : (c.writePair pt pf v).vcredit = c.vcredit := by
  simp [Core.writePair]
@[simp] theorem Core.setPair_mcredit (c : Core) (wm : Wm) (pt pf : PReg) (v : Bool) : (c.setPair wm pt pf v).mcredit = c.mcredit := by
  simp [Core.setPair, Core.writePair]
@[simp] theorem Core.writePair_mcredit (c : Core) (pt pf : PReg) (v : Bool × Bool) : (c.writePair pt pf v).mcredit = c.mcredit := by
  simp [Core.writePair]
@[simp] theorem Core.setPair_ccredit (c : Core) (wm : Wm) (pt pf : PReg) (v : Bool) : (c.setPair wm pt pf v).ccredit = c.ccredit := by
  simp [Core.setPair, Core.writePair]
@[simp] theorem Core.writePair_ccredit (c : Core) (pt pf : PReg) (v : Bool × Bool) : (c.writePair pt pf v).ccredit = c.ccredit := by
  simp [Core.writePair]
@[simp] theorem Core.setPair_cmds (c : Core) (wm : Wm) (pt pf : PReg) (v : Bool) : (c.setPair wm pt pf v).cmds = c.cmds := by
  simp [Core.setPair, Core.writePair]
@[simp] theorem Core.writePair_cmds (c : Core) (pt pf : PReg) (v : Bool × Bool) : (c.writePair pt pf v).cmds = c.cmds := by
  simp [Core.writePair]
@[simp] theorem Core.setPair_bwaiting (c : Core) (wm : Wm) (pt pf : PReg) (v : Bool) : (c.setPair wm pt pf v).bwaiting = c.bwaiting := by
  simp [Core.setPair, Core.writePair]
@[simp] theorem Core.writePair_bwaiting (c : Core) (pt pf : PReg) (v : Bool × Bool) : (c.writePair pt pf v).bwaiting = c.bwaiting := by
  simp [Core.writePair]
@[simp] theorem Core.setPair_floors (c : Core) (wm : Wm) (pt pf : PReg) (v : Bool) : (c.setPair wm pt pf v).floors = c.floors := by
  simp [Core.setPair, Core.writePair]
@[simp] theorem Core.writePair_floors (c : Core) (pt pf : PReg) (v : Bool × Bool) : (c.writePair pt pf v).floors = c.floors := by
  simp [Core.writePair]
@[simp] theorem Core.setPair_token (c : Core) (wm : Wm) (pt pf : PReg) (v : Bool) : (c.setPair wm pt pf v).token = c.token := by
  simp [Core.setPair, Core.writePair]
@[simp] theorem Core.writePair_token (c : Core) (pt pf : PReg) (v : Bool × Bool) : (c.writePair pt pf v).token = c.token := by
  simp [Core.writePair]
@[simp] theorem Core.setPair_waitFrom (c : Core) (wm : Wm) (pt pf : PReg) (v : Bool) : (c.setPair wm pt pf v).waitFrom = c.waitFrom := by
  simp [Core.setPair, Core.writePair]
@[simp] theorem Core.writePair_waitFrom (c : Core) (pt pf : PReg) (v : Bool × Bool) : (c.writePair pt pf v).waitFrom = c.waitFrom := by
  simp [Core.writePair]
@[simp] theorem Core.setPair_abwaiting (c : Core) (wm : Wm) (pt pf : PReg) (v : Bool) : (c.setPair wm pt pf v).abwaiting = c.abwaiting := by
  simp [Core.setPair, Core.writePair]
@[simp] theorem Core.writePair_abwaiting (c : Core) (pt pf : PReg) (v : Bool × Bool) : (c.writePair pt pf v).abwaiting = c.abwaiting := by
  simp [Core.writePair]
@[simp] theorem Core.setPair_wfiLimit (c : Core) (wm : Wm) (pt pf : PReg) (v : Bool) : (c.setPair wm pt pf v).wfiLimit = c.wfiLimit := by
  simp [Core.setPair, Core.writePair]
@[simp] theorem Core.writePair_wfiLimit (c : Core) (pt pf : PReg) (v : Bool × Bool) : (c.writePair pt pf v).wfiLimit = c.wfiLimit := by
  simp [Core.writePair]
@[simp] theorem Core.setPair_wfiEvent (c : Core) (wm : Wm) (pt pf : PReg) (v : Bool) : (c.setPair wm pt pf v).wfiEvent = c.wfiEvent := by
  simp [Core.setPair, Core.writePair]
@[simp] theorem Core.writePair_wfiEvent (c : Core) (pt pf : PReg) (v : Bool × Bool) : (c.writePair pt pf v).wfiEvent = c.wfiEvent := by
  simp [Core.writePair]
@[simp] theorem Core.setPair_snap (c : Core) (wm : Wm) (pt pf : PReg) (v : Bool) : (c.setPair wm pt pf v).snap = c.snap := by
  simp [Core.setPair, Core.writePair]
@[simp] theorem Core.writePair_snap (c : Core) (pt pf : PReg) (v : Bool × Bool) : (c.writePair pt pf v).snap = c.snap := by
  simp [Core.writePair]
@[simp] theorem Core.setPair_plan (c : Core) (wm : Wm) (pt pf : PReg) (v : Bool) : (c.setPair wm pt pf v).plan = c.plan := by
  simp [Core.setPair, Core.writePair]
@[simp] theorem Core.writePair_plan (c : Core) (pt pf : PReg) (v : Bool × Bool) : (c.writePair pt pf v).plan = c.plan := by
  simp [Core.writePair]
@[simp] theorem Core.setPair_got (c : Core) (wm : Wm) (pt pf : PReg) (v : Bool) : (c.setPair wm pt pf v).got = c.got := by
  simp [Core.setPair, Core.writePair]
@[simp] theorem Core.writePair_got (c : Core) (pt pf : PReg) (v : Bool × Bool) : (c.writePair pt pf v).got = c.got := by
  simp [Core.writePair]
@[simp] theorem Core.setPair_mark (c : Core) (wm : Wm) (pt pf : PReg) (v : Bool) : (c.setPair wm pt pf v).mark = c.mark := by
  simp [Core.setPair, Core.writePair]
@[simp] theorem Core.writePair_mark (c : Core) (pt pf : PReg) (v : Bool × Bool) : (c.writePair pt pf v).mark = c.mark := by
  simp [Core.writePair]
@[simp] theorem Core.setPair_hold (c : Core) (wm : Wm) (pt pf : PReg) (v : Bool) : (c.setPair wm pt pf v).hold = c.hold := by
  simp [Core.setPair, Core.writePair]
@[simp] theorem Core.writePair_hold (c : Core) (pt pf : PReg) (v : Bool × Bool) : (c.writePair pt pf v).hold = c.hold := by
  simp [Core.writePair]
@[simp] theorem Core.setPair_saveMap (c : Core) (wm : Wm) (pt pf : PReg) (v : Bool) : (c.setPair wm pt pf v).saveMap = c.saveMap := by
  simp [Core.setPair, Core.writePair]
@[simp] theorem Core.writePair_saveMap (c : Core) (pt pf : PReg) (v : Bool × Bool) : (c.writePair pt pf v).saveMap = c.saveMap := by
  simp [Core.writePair]
@[simp] theorem Core.setPair_savePc (c : Core) (wm : Wm) (pt pf : PReg) (v : Bool) : (c.setPair wm pt pf v).savePc = c.savePc := by
  simp [Core.setPair, Core.writePair]
@[simp] theorem Core.writePair_savePc (c : Core) (pt pf : PReg) (v : Bool × Bool) : (c.writePair pt pf v).savePc = c.savePc := by
  simp [Core.writePair]
@[simp] theorem Core.setPair_savedAt (c : Core) (wm : Wm) (pt pf : PReg) (v : Bool) : (c.setPair wm pt pf v).savedAt = c.savedAt := by
  simp [Core.setPair, Core.writePair]
@[simp] theorem Core.writePair_savedAt (c : Core) (pt pf : PReg) (v : Bool × Bool) : (c.writePair pt pf v).savedAt = c.savedAt := by
  simp [Core.writePair]
@[simp] theorem Core.setPair_savedCls (c : Core) (wm : Wm) (pt pf : PReg) (v : Bool) : (c.setPair wm pt pf v).savedCls = c.savedCls := by
  simp [Core.setPair, Core.writePair]
@[simp] theorem Core.writePair_savedCls (c : Core) (pt pf : PReg) (v : Bool × Bool) : (c.writePair pt pf v).savedCls = c.savedCls := by
  simp [Core.writePair]
@[simp] theorem Core.setPair_amask (c : Core) (wm : Wm) (pt pf : PReg) (v : Bool) : (c.setPair wm pt pf v).amask = c.amask := by
  simp [Core.setPair, Core.writePair]
@[simp] theorem Core.writePair_amask (c : Core) (pt pf : PReg) (v : Bool × Bool) : (c.writePair pt pf v).amask = c.amask := by
  simp [Core.writePair]
@[simp] theorem Core.setPair_broken (c : Core) (wm : Wm) (pt pf : PReg) (v : Bool) : (c.setPair wm pt pf v).broken = c.broken := by
  simp [Core.setPair, Core.writePair]
@[simp] theorem Core.writePair_broken (c : Core) (pt pf : PReg) (v : Bool × Bool) : (c.writePair pt pf v).broken = c.broken := by
  simp [Core.writePair]
@[simp] theorem Core.setPair_brokenDesc (c : Core) (wm : Wm) (pt pf : PReg) (v : Bool) : (c.setPair wm pt pf v).brokenDesc = c.brokenDesc := by
  simp [Core.setPair, Core.writePair]
@[simp] theorem Core.writePair_brokenDesc (c : Core) (pt pf : PReg) (v : Bool × Bool) : (c.writePair pt pf v).brokenDesc = c.brokenDesc := by
  simp [Core.writePair]
@[simp] theorem Core.setPair_gang (c : Core) (wm : Wm) (pt pf : PReg) (v : Bool) : (c.setPair wm pt pf v).gang = c.gang := by
  simp [Core.setPair, Core.writePair]
@[simp] theorem Core.writePair_gang (c : Core) (pt pf : PReg) (v : Bool × Bool) : (c.writePair pt pf v).gang = c.gang := by
  simp [Core.writePair]
@[simp] theorem Core.setPair_gangPos (c : Core) (wm : Wm) (pt pf : PReg) (v : Bool) : (c.setPair wm pt pf v).gangPos = c.gangPos := by
  simp [Core.setPair, Core.writePair]
@[simp] theorem Core.writePair_gangPos (c : Core) (pt pf : PReg) (v : Bool × Bool) : (c.writePair pt pf v).gangPos = c.gangPos := by
  simp [Core.writePair]
@[simp] theorem Core.setPair_gangPath (c : Core) (wm : Wm) (pt pf : PReg) (v : Bool) : (c.setPair wm pt pf v).gangPath = c.gangPath := by
  simp [Core.setPair, Core.writePair]
@[simp] theorem Core.writePair_gangPath (c : Core) (pt pf : PReg) (v : Bool × Bool) : (c.writePair pt pf v).gangPath = c.gangPath := by
  simp [Core.writePair]
@[simp] theorem Core.setPair_left (c : Core) (wm : Wm) (pt pf : PReg) (v : Bool) : (c.setPair wm pt pf v).left = c.left := by
  simp [Core.setPair, Core.writePair]
@[simp] theorem Core.writePair_left (c : Core) (pt pf : PReg) (v : Bool × Bool) : (c.writePair pt pf v).left = c.left := by
  simp [Core.writePair]
@[simp] theorem Core.setPair_clk (c : Core) (wm : Wm) (pt pf : PReg) (v : Bool) : (c.setPair wm pt pf v).clk = c.clk := by
  simp [Core.setPair, Core.writePair]
@[simp] theorem Core.writePair_clk (c : Core) (pt pf : PReg) (v : Bool × Bool) : (c.writePair pt pf v).clk = c.clk := by
  simp [Core.writePair]
@[simp] theorem Core.setPair_tlb (c : Core) (wm : Wm) (pt pf : PReg) (v : Bool) : (c.setPair wm pt pf v).tlb = c.tlb := by
  simp [Core.setPair, Core.writePair]
@[simp] theorem Core.writePair_tlb (c : Core) (pt pf : PReg) (v : Bool × Bool) : (c.writePair pt pf v).tlb = c.tlb := by
  simp [Core.writePair]
@[simp] theorem Core.setPair_refusal (c : Core) (wm : Wm) (pt pf : PReg) (v : Bool) : (c.setPair wm pt pf v).refusal = c.refusal := by
  simp [Core.setPair, Core.writePair]
@[simp] theorem Core.writePair_refusal (c : Core) (pt pf : PReg) (v : Bool × Bool) : (c.writePair pt pf v).refusal = c.refusal := by
  simp [Core.writePair]
@[simp] theorem Core.setPair_report (c : Core) (wm : Wm) (pt pf : PReg) (v : Bool) : (c.setPair wm pt pf v).report = c.report := by
  simp [Core.setPair, Core.writePair]
@[simp] theorem Core.writePair_report (c : Core) (pt pf : PReg) (v : Bool × Bool) : (c.writePair pt pf v).report = c.report := by
  simp [Core.writePair]
@[simp] theorem Core.setPair_dead (c : Core) (wm : Wm) (pt pf : PReg) (v : Bool) : (c.setPair wm pt pf v).dead = c.dead := by
  simp [Core.setPair, Core.writePair]
@[simp] theorem Core.writePair_dead (c : Core) (pt pf : PReg) (v : Bool × Bool) : (c.writePair pt pf v).dead = c.dead := by
  simp [Core.writePair]

@[simp] theorem Core.advance_pc (c : Core) (n : Nat) : (c.advance n).pc = c.pc + BitVec.ofNat 64 n := rfl

/-! ## Registers -/

/-- x0 reads 0 (R92). -/
@[simp] theorem Core.rx_zero (c : Core) : c.rx 0 = 0 := rfl

/-- What a written register reads; a write of x0 is discarded (R92). -/
@[simp] theorem Core.rx_wx_same (c : Core) (r : XReg) (v : Word) : (c.wx r v).rx r = if r = 0 then 0 else v := by
  unfold Core.rx Core.wx
  split
  · rfl
  · simp

/-- A write leaves every other register. -/
theorem Core.rx_wx_other (c : Core) {r q : XReg} (v : Word) (h : q ≠ r) : (c.wx r v).rx q = c.rx q := by
  have hn : r.toNat ≠ q.toNat := fun e => h (BitVec.eq_of_toNat_eq e.symm)
  unfold Core.rx Core.wx
  split
  · rfl
  · split
    · rfl
    · simp [hn]

/-- p0 reads 1 (R92). -/
@[simp] theorem Core.rp_zero (c : Core) : c.rp 0 = true := rfl

@[simp] theorem Core.rh_wh_same (c : Core) (h : HReg) (v : Wide) : (c.wh h v).rh h = v := by
  simp [Core.rh, Core.wh]

theorem Core.rh_wh_other (c : Core) {h j : HReg} (v : Wide) (hj : j ≠ h) : (c.wh h v).rh j = c.rh j := by
  have hn : h.toNat ≠ j.toNat := fun e => hj (BitVec.eq_of_toNat_eq e.symm)
  simp [Core.rh, Core.wh, hn]

@[simp] theorem Core.rx_advance (c : Core) (n : Nat) (r : XReg) : (c.advance n).rx r = c.rx r := rfl
@[simp] theorem Core.rh_advance (c : Core) (n : Nat) (h : HReg) : (c.advance n).rh h = c.rh h := rfl
@[simp] theorem Core.rp_advance (c : Core) (n : Nat) (p : PReg) : (c.advance n).rp p = c.rp p := rfl
@[simp] theorem Core.rvp_advance (c : Core) (n : Nat) (p : PReg) : (c.advance n).rvp p = c.rvp p := rfl
@[simp] theorem Core.rx_raise (c : Core) (f : Flags) (r : XReg) : (c.raise f).rx r = c.rx r := rfl
@[simp] theorem Core.rp_raise (c : Core) (f : Flags) (p : PReg) : (c.raise f).rp p = c.rp p := rfl
@[simp] theorem Core.rx_wh (c : Core) (h : HReg) (v : Wide) (r : XReg) : (c.wh h v).rx r = c.rx r := rfl
@[simp] theorem Core.rp_wx (c : Core) (r : XReg) (v : Word) (p : PReg) : (c.wx r v).rp p = c.rp p := by simp [Core.rp]
@[simp] theorem Core.rh_wx (c : Core) (r : XReg) (v : Word) (h : HReg) : (c.wx r v).rh h = c.rh h := by simp [Core.rh]
@[simp] theorem Core.rx_wp (c : Core) (p : PReg) (v : Bool) (r : XReg) : (c.wp p v).rx r = c.rx r := by simp [Core.rx]
@[simp] theorem Core.rx_writePair (c : Core) (pt pf : PReg) (v : Bool × Bool) (r : XReg) : (c.writePair pt pf v).rx r = c.rx r := by
  simp [Core.rx]
@[simp] theorem Core.rx_setPair (c : Core) (wm : Wm) (pt pf : PReg) (v : Bool) (r : XReg) : (c.setPair wm pt pf v).rx r = c.rx r := by
  simp [Core.rx]
@[simp] theorem Core.rh_writePair (c : Core) (pt pf : PReg) (v : Bool × Bool) (h : HReg) : (c.writePair pt pf v).rh h = c.rh h := by
  simp [Core.rh]

/-- What a written predicate reads; a write of p0 is discarded (R99). -/
@[simp] theorem Core.rp_wp_same (c : Core) (p : PReg) (v : Bool) : (c.wp p v).rp p = (decide (p = 0) || v) := by
  unfold Core.rp Core.wp
  split
  · simp [*]
  · rename_i h
    have hb : (p == 0#3) = false := by simpa using h
    have hp : p.toNat < 8 := p.isLt
    have hz : ¬p = 0#3 := h
    cases v <;> simp [hb, hz, hp]

/-- A write leaves every other predicate. -/
theorem Core.rp_wp_other (c : Core) {p q : PReg} (v : Bool) (h : q ≠ p) : (c.wp p v).rp q = c.rp q := by
  have hn : p.toNat ≠ q.toNat := fun e => h (BitVec.eq_of_toNat_eq e.symm)
  have hq : q.toNat < 8 := q.isLt
  unfold Core.rp Core.wp
  split
  · rfl
  · cases v <;> simp [hn.symm, hq]

end Machine
end Sys2Proof
end

