-- ==== Sys2Proof/Laws/Issue.lean ====
section
/-! SUPPORT. What naming registers does (R94), and what a word that issues with a true guard does. -/

namespace Sys2Proof
namespace Machine

/-! ## The relation -/

theorem State.SameBut.refl (s : State) (k : Nat) : s.SameBut s k :=
  ⟨rfl, fun _ _ => rfl, fun _ _ => rfl, fun _ _ => rfl⟩

theorem State.SameBut.trans {s t u : State} {k : Nat} (h : s.SameBut t k) (h' : t.SameBut u k) : s.SameBut u k := by
  refine ⟨?_, fun j hj => (h'.others j hj).trans (h.others j hj), fun a ha => (h'.mem a ha).trans (h.mem a ha),
    fun a ha => (h'.marks a ha).trans (h.marks a ha)⟩
  have e := congrArg (fun v : State => { v with mem := s.mem, marks := s.marks, cores := s.cores }) h'.rest
  exact e.trans h.rest

/-- A relation that holds of the core's change keeps the rest. -/
theorem State.SameBut.onCore (s : State) (k : Nat) (f : Core → Core) : s.SameBut (s.onCore k f) k :=
  ⟨rfl, fun _ hj => State.core_onCore_other s f hj, fun _ _ => rfl, fun _ _ => rfl⟩

theorem State.SameBut.foldl {α : Type} {k : Nat} {f : State → α → State} (l : List α) {s : State}
    (hf : ∀ (t : State) x, x ∈ l → t.SameBut (f t x) k) : s.SameBut (l.foldl f s) k := by
  induction l generalizing s with
  | nil => exact .refl s k
  | cons x l ih => exact (hf s x (by simp)).trans (ih fun t y hy => hf t y (by simp [hy]))

/-- A field other than the register cache. -/
theorem Core.Same.field {c d : Core} (h : c.Same d) {α : Type} (f : Core → α) (hf : ∀ (x : Core) r, f { x with rc := r } = f x) :
    f c = f d := (hf c d.rc).symm.trans (congrArg f h)

/-! ## A word written to the home -/

theorem storeBase_ge (k : Nat) : tileBase ≤ storeBase k := by
  unfold storeBase tileKey churnBase tileBase; split <;> omega

theorem storeBase_mod (k : Nat) : storeBase k % 2 ^ 19 = 0 := by
  unfold storeBase tileKey churnBase tileBase; split <;> omega

theorem homeKey_ge (k : Nat) : tileBase ≤ homeKey k := by have := storeBase_ge k; unfold homeKey; omega

theorem homeKey_mod (k : Nat) : homeKey k % 8 = 0 := by have := storeBase_mod k; unfold homeKey; omega

/-- An index of an ECC word of a store. -/
theorem eccIndex_store {a : Nat} (h : tileBase ≤ a) : eccIndex a = a / 8 := by
  have : isDram a = false := by simp [isDram]; exact h
  simp [eccIndex, eccUnit, this]

theorem eccIndex_dram {a : Nat} (h : a < tileBase) : eccIndex a < tileBase / 8 := by
  have : isDram a = true := by simp [isDram]; exact h
  simp [eccIndex, eccUnit, this, tileBase] at *; omega

/-- A whole aligned word of a store clears its own mark and no other (R348). -/
theorem State.storeNat_word (s : State) {key : Nat} (v : Nat) (hk : tileBase ≤ key) (h8 : key % 8 = 0) :
    s.storeNat key 8 v = { s with mem := memWrite s.mem key (toBytes 8 v),
                                  marks := if s.isMarked key then s.marks.del (key / 8) else s.marks } := by
  have hu : eccUnit key = 8 := by simp [eccUnit, isDram]; omega
  have hl : (toBytes 8 v).length = 8 := rfl
  have e1 : (key + 8) / 8 - (key + 8 - 1) / 8 = 1 := by omega
  have e2 : ((key + 8 - 1) / 8 + 0) * 8 = key := by omega
  unfold State.storeNat State.store
  simp only [hu, hl, e1, List.range_succ, List.range_zero, List.nil_append, List.foldl_cons, List.foldl_nil, e2]
  have hm : (s.write key (toBytes 8 v)).isMarked key = s.isMarked key := rfl
  rw [hm]
  split
  · simp [State.setMark, State.write, eccIndex_store hk]
  · simp [State.write]

theorem toBytes_length (n v : Nat) : (toBytes n v).length = n := by
  induction n generalizing v with
  | zero => rfl
  | succ n ih => simp [toBytes, ih]

/-- A mark inside a home changes that home's marks alone. -/
theorem State.SameBut.setMark (s : State) {k key : Nat} (m : Bool) (h : homeKey k ≤ key) (h' : key < homeKey k + 0x400) :
    s.SameBut (s.setMark key m) k := by
  have hg := homeKey_ge k
  have hm := homeKey_mod k
  refine ⟨rfl, fun j _ => rfl, fun a ha => rfl, fun a ha => ?_⟩
  have he : eccIndex a ≠ eccIndex key := by
    rw [eccIndex_store (a := key) (by omega)]
    rcases Nat.lt_or_ge a tileBase with hd | hs
    · have := eccIndex_dram hd; omega
    · rw [eccIndex_store hs]; unfold OutsideHome at ha; omega
  show SMap.get _ false (eccIndex a) = SMap.get _ false (eccIndex a)
  unfold State.setMark
  dsimp only
  split
  · rw [SMap.get, SMap.find_put_other _ _ he, SMap.get]
  · rw [SMap.get, SMap.find_del_other _ he, SMap.get]

/-- Writing back a home word changes the home alone (R94). -/
theorem State.SameBut.writeHome (s : State) (k i : Nat) : s.SameBut (s.writeHome k i) k := by
  unfold State.writeHome
  split
  · rename_i hi
    have hg := homeKey_ge k
    have hm := homeKey_mod k
    have h1 : s.SameBut (s.storeNat (homeKey k + 8 * i) 8 ((s.core k).homeWord i).toNat) k := by
      rw [State.storeNat_word s ((s.core k).homeWord i).toNat (key := homeKey k + 8 * i) (by omega) (by omega)]
      refine ⟨rfl, fun j _ => rfl, fun a ha => ?_, fun a ha => ?_⟩
      · refine memGet_memWrite_other _ _ ?_
        rw [toBytes_length]
        unfold OutsideHome at ha; omega
      · show (SMap.get _ false (eccIndex a)) = SMap.get _ false (eccIndex a)
        dsimp only
        split
        · rw [SMap.get, SMap.find_del_other, SMap.get]
          rcases Nat.lt_or_ge a tileBase with hd | hs
          · have := eccIndex_dram hd; omega
          · rw [eccIndex_store hs]; unfold OutsideHome at ha; omega
        · rfl
    dsimp only
    split
    · exact h1.trans (.setMark _ true (by omega) (by omega))
    · exact h1
  · exact .refl s k

@[simp] theorem State.core_writeHome (s : State) (k i j : Nat) : (s.writeHome k i).core j = s.core j := by
  unfold State.writeHome
  split
  · rw [State.storeNat_word s _ (by have := homeKey_ge k; omega) (by have := homeKey_mod k; omega)]
    dsimp only
    split <;> rfl
  · rfl

/-- Writing back marks a home word only where a register that it holds is poisoned. -/
theorem State.writeHome_unmarked (s : State) (k i j : Nat) (h : s.isMarked (homeKey k + 8 * j) = false)
    (hw : s.marks.wfFrom 0 = true) (hp : ∀ v ∈ namesOf j, (s.core k).poison.find v = none) :
    (s.writeHome k i).isMarked (homeKey k + 8 * j) = false := by
  have hg := homeKey_ge k
  have hm := homeKey_mod k
  have hi := eccIndex_store (a := homeKey k + 8 * i) (by omega)
  have hj := eccIndex_store (a := homeKey k + 8 * j) (by omega)
  unfold State.writeHome
  split
  · rw [State.storeNat_word s _ (by omega) (by omega)]
    have h1 : SMap.get (if s.isMarked (homeKey k + 8 * i) then s.marks.del ((homeKey k + 8 * i) / 8) else s.marks) false
        (eccIndex (homeKey k + 8 * j)) = false := by
      split
      · by_cases he : eccIndex (homeKey k + 8 * j) = (homeKey k + 8 * i) / 8
        · rw [he, SMap.get, SMap.find_del_same _ hw]; rfl
        · rw [SMap.get, SMap.find_del_other _ he]; exact h
      · exact h
    dsimp only
    split
    · rename_i hc
      by_cases he : i = j
      · subst he
        rw [List.any_eq_true] at hc
        obtain ⟨v, hv, hs⟩ := hc
        rw [hp v hv] at hs
        exact absurd hs (by simp)
      · show SMap.get (SMap.put _ (eccIndex (homeKey k + 8 * i)) true) false (eccIndex (homeKey k + 8 * j)) = false
        rw [SMap.get, SMap.find_put_other _ _ (by rw [hi, hj]; omega)]
        exact h1
    · exact h1
  · exact h

/-! ## The register cache (R94) -/

theorem State.SameBut.trimRc (s : State) (k n : Nat) : s.SameBut (s.trimRc k n) k := by
  unfold State.trimRc
  refine State.SameBut.trans (State.SameBut.foldl _ fun t e _ => ?_) (State.SameBut.onCore _ _ _)
  split
  · exact .writeHome t k e.1
  · exact .refl t k

theorem foldl_core {α : Type} (l : List α) (f : State → α → State) (hf : ∀ (t : State) x j, (f t x).core j = t.core j) (s : State)
    (j : Nat) : (l.foldl f s).core j = s.core j := by
  induction l generalizing s with
  | nil => rfl
  | cons x l ih => exact (ih _).trans (hf s x j)

theorem State.trimRc_core (s : State) (k n : Nat) :
    (s.trimRc k n).core k = { s.core k with rc := (s.core k).rc.drop ((s.core k).rc.length - n) } := by
  unfold State.trimRc
  simp only [State.core_onCore_same]
  rw [foldl_core]
  intro t x j
  split <;> simp

/-- What every step of a fold keeps holds at its end. -/
theorem foldl_keeps {α : Type} (P : State → Prop) (l : List α) (f : State → α → State) (hf : ∀ (t : State) x, P t → P (f t x)) (s : State)
    (h : P s) : P (l.foldl f s) := by
  induction l generalizing s with
  | nil => exact h
  | cons x l ih => exact ih _ (hf s x h)

theorem State.writeHome_marks (s : State) (k i : Nat) (hw : s.marks.wfFrom 0 = true) : (s.writeHome k i).marks.wfFrom 0 = true := by
  unfold State.writeHome
  split
  · rw [State.storeNat_word s _ (by have := homeKey_ge k; omega) (by have := homeKey_mod k; omega)]
    have h1 : SMap.wfFrom 0 (if s.isMarked (homeKey k + 8 * i) then s.marks.del ((homeKey k + 8 * i) / 8) else s.marks) = true := by
      split
      · exact SMap.wfFrom_del _ hw
      · exact hw
    dsimp only
    split
    · exact SMap.wfFrom_put _ h1 (Nat.zero_le _)
    · exact h1
  · exact hw

theorem State.trimRc_unmarked (s : State) (k n j : Nat) (h : s.isMarked (homeKey k + 8 * j) = false) (hw : s.marks.wfFrom 0 = true)
    (hp : ∀ v ∈ namesOf j, (s.core k).poison.find v = none) : (s.trimRc k n).isMarked (homeKey k + 8 * j) = false := by
  unfold State.trimRc
  refine (foldl_keeps (fun t => t.isMarked (homeKey k + 8 * j) = false ∧ t.marks.wfFrom 0 = true ∧ t.core k = s.core k) _ _ ?_ s
    ⟨h, hw, rfl⟩).1
  intro t x ⟨h1, h2, h3⟩
  split
  · exact ⟨State.writeHome_unmarked t k x.1 j h1 h2 (by rw [h3]; exact hp), State.writeHome_marks t k x.1 h2,
      (State.core_writeHome t k x.1 k).trans h3⟩
  · exact ⟨h1, h2, h3⟩

/-- Naming registers changes the register cache and the home alone; where no word named stands in a marked home word, no
register is poisoned by it. -/
theorem State.SameBut.fill (s : State) (k : Nat) (reads writes : List Nat) : s.SameBut (s.fill k reads writes) k :=
  (State.SameBut.onCore s k fun _ => _).trans (State.SameBut.trimRc (s.setCore k _) k rcSize)

theorem State.fill_core (s : State) (k : Nat) (reads writes : List Nat)
    (h : ∀ w ∈ reads ++ writes, s.Sound k w) : ((s.fill k reads writes).core k).Same (s.core k) := by
  have hb : ∀ f : Nat → Bool, (((reads ++ writes).map homeWordOf).eraseDups.filter f).filter
      (fun i => s.isMarked (homeKey k + 8 * i)) = [] := by
    intro f
    rw [List.filter_eq_nil_iff]
    intro i hi hc
    have hm := List.mem_eraseDups.1 (List.mem_filter.1 hi).1
    obtain ⟨w, hw, rfl⟩ := List.mem_map.1 hm
    rw [(h w hw).home] at hc
    exact absurd hc (by simp)
  unfold State.fill
  simp only [hb, List.flatMap_nil, List.foldl_nil]
  rw [State.trimRc_core]
  simp only [State.core_setCore_same]
  rfl

/-- What was sound stays sound. -/
theorem State.fill_sound (s : State) (k : Nat) (reads writes : List Nat) (hw : s.marks.wfFrom 0 = true)
    (h : ∀ w ∈ reads ++ writes, s.Sound k w) {w : Nat} (hs : s.Sound k w) : (s.fill k reads writes).Sound k w := by
  have hp : ((s.fill k reads writes).core k).poison = (s.core k).poison :=
    (State.fill_core s k reads writes h).field Core.poison fun _ _ => rfl
  obtain ⟨c, e⟩ : ∃ c, s.fill k reads writes = (s.setCore k c).trimRc k rcSize := by
    unfold State.fill; exact ⟨_, rfl⟩
  have hq := hp
  rw [e, State.trimRc_core] at hq
  refine ⟨by rw [hp]; exact hs.own, fun v hv => by rw [hp]; exact hs.mates v hv, ?_⟩
  rw [e]
  refine State.trimRc_unmarked (s.setCore k c) k rcSize _ hs.home hw fun v hv => ?_
  have hq' : ((s.setCore k c).core k).poison = (s.core k).poison := hq
  rw [hq']; exact hs.mates v hv

/-! ## Issue -/

theorem Core.Same.refl (c : Core) : c.Same c := rfl

theorem Core.Same.trans {c d e : Core} (h : c.Same d) (h' : d.Same e) : c.Same e := by
  have := congrArg (fun x : Core => { x with rc := e.rc }) h
  exact this.trans h'

theorem State.SameBut.me {s t : State} {k : Nat} (h : s.SameBut t k) : t.me = s.me := by
  have := congrArg State.cur h.rest
  exact congrArg coreKey this

theorem any_contains_false {l p : List Nat} (h : ∀ w ∈ l, w ∉ p) : l.any p.contains = false := by
  rw [List.any_eq_false]
  intro w hw
  simpa using h w hw

/-- What an issued word finds: its operands named, nothing else changed. -/
structure State.Named (s u : State) : Prop where
  same : s.SameBut u s.me
  core : (u.core s.me).Same (s.core s.me)
  canon : u.marks.wfFrom 0 = true

theorem poisonOf_none {c d : Core} (h : c.Same d) {l : List Nat} (hl : ∀ w ∈ l, d.poison.find w = none) : c.poisonOf l = none := by
  have hp : c.poison = d.poison := h.field Core.poison fun _ _ => rfl
  simp only [Core.poisonOf, hp, List.findSome?_eq_none_iff]
  exact hl

theorem State.fill_marks (s : State) (k : Nat) (reads writes : List Nat) (hw : s.marks.wfFrom 0 = true) :
    (s.fill k reads writes).marks.wfFrom 0 = true := by
  have key : ∀ (l : List (Nat × Bool)) (u : State), u.marks.wfFrom 0 = true →
      (l.foldl (fun t e => if e.2 then t.writeHome k e.1 else t) u).marks.wfFrom 0 = true := by
    intro l
    induction l with
    | nil => exact fun u hu => hu
    | cons e l ih =>
      intro u hu
      refine ih _ ?_
      dsimp only
      split
      · exact State.writeHome_marks u k e.1 hu
      · exact hu
  exact key _ _ hw

/-- The operands of a word that runs are named. -/
theorem State.ready_named {s : State} {i : Instr} (h : s.Runs i) : s.Named (s.ready i) := by
  have hr : ∀ w ∈ i.guardWords ++ i.uses.1 ++ i.uses.2, w ∈ named i := fun w hw => hw
  have c1 : ((s.fill s.me i.guardWords []).core s.me).Same (s.core s.me) :=
    State.fill_core s s.me _ _ fun w hw => h.clean w (by simp only [List.append_nil] at hw; simp [named, hw])
  have m1 := State.fill_marks s s.me i.guardWords [] h.canon.marks
  exact ⟨(State.SameBut.fill s s.me _ _).trans (State.SameBut.fill _ s.me _ _),
    (State.fill_core _ s.me _ _ fun w hw => State.fill_sound s s.me _ _ h.canon.marks
      (fun v hv => h.clean v (hr v (by simp only [List.append_nil] at hv; simp [hv]))) (h.clean w (hr w hw))).trans c1,
    State.fill_marks _ _ _ _ m1⟩

/-- THE WORD RUNS: issue comes down to its body on the state in which its operands are named. -/
theorem State.issue_runs {s : State} {i : Instr} (h : s.Runs i) (body : Nat → State → State) :
    s.issue i body = body s.me (s.ready i) := by
  have hg : ∀ w ∈ i.guardWords, w ∈ named i := fun w hw => by simp [named, hw]
  have c1 : ((s.fill s.me i.guardWords []).core s.me).Same (s.core s.me) :=
    State.fill_core s s.me _ _ fun w hw => h.clean w (hg w (by simpa using hw))
  have c2 := (State.ready_named h).core
  have p1 := poisonOf_none c1 fun w hw => (h.clean w (hg w hw)).own
  have p2 := poisonOf_none c2 (l := i.uses.1) fun w hw => (h.clean w (by simp [named, hw])).own
  have hwait : ((s.fill s.me i.guardWords []).core s.me).mustWait i = false := by
    rw [c1.field (fun c => c.mustWait i) fun _ _ => rfl]
    unfold Core.mustWait
    have hn := any_contains_false h.ready
    unfold named at hn
    dsimp only
    rw [hn, Bool.false_or]
    rcases h.passes with hc | hp
    · rw [hc]; rfl
    · rw [hp]; simp
  unfold State.ready at p2
  unfold State.issue State.ready
  simp only [h.running, h.role, h.csr, any_contains_false fun w hw => h.ready w (hg w hw), p1, h.guard]
  simp only [State.withOperands, hwait, p2]
  simp

/-- The operands of a vector word that runs are named. -/
theorem State.readyLanes_named {s : State} {i : Instr} (h : s.RunsLanes i) : s.Named (s.readyLanes i) := by
  have c1 : ((s.fill s.me i.guardWords []).core s.me).Same (s.core s.me) :=
    State.fill_core s s.me _ _ fun w hw => h.clean w (by simp only [List.append_nil] at hw; simp [named, hw])
  have m1 := State.fill_marks s s.me i.guardWords [] h.canon.marks
  exact ⟨(State.SameBut.fill s s.me _ _).trans (State.SameBut.fill _ s.me _ _),
    (State.fill_core _ s.me _ _ fun w hw => State.fill_sound s s.me _ _ h.canon.marks
      (fun v hv => h.clean v (by simp only [List.append_nil] at hv; simp [named, hv]))
      (h.clean w (by simp only [List.mem_append] at hw; rcases hw with hw | hw <;> simp [named, hw]))).trans c1,
    State.fill_marks _ _ _ _ m1⟩

/-- THE VECTOR WORD RUNS: issue comes down to its checks and its entry into the queue. -/
theorem State.issueVec_runs {s : State} {i : Instr} (h : s.RunsLanes i) :
    s.issueVec i = (s.readyLanes i).vecEnter s.me i (s.laneCount i) (s.laneMask i) := by
  have c1 : ((s.fill s.me i.guardWords []).core s.me).Same (s.core s.me) :=
    State.fill_core s s.me _ _ fun w hw => h.clean w (by simp only [List.append_nil] at hw; simp [named, hw])
  have p1 := poisonOf_none c1 (l := i.guardWords) fun w hw => (h.clean w (by simp [named, hw])).own
  have p2 := poisonOf_none (State.readyLanes_named h).core (l := i.uses.1) fun w hw => (h.clean w (by simp [named, hw])).own
  have hn := any_contains_false h.ready
  unfold named at hn
  have hm := h.lanes
  unfold State.laneMask State.laneCount at hm
  unfold State.readyLanes at p2
  unfold State.issueVec State.readyLanes State.laneMask State.laneCount
  simp only [h.running, hn, p1, p2, hm, h.passes]
  simp

/-- THE WORD IS SUPPRESSED (R98). -/
theorem State.issue_suppressed {s : State} {i : Instr} (h : s.Suppresses i) (body : Nat → State → State) :
    ∃ u, s.issue i body = u.onCore s.me (fun c => c.suppress i) ∧ s.Named u := by
  have c1 : ((s.fill s.me i.guardWords []).core s.me).Same (s.core s.me) :=
    State.fill_core s s.me _ _ fun w hw => h.clean w (by simpa using hw)
  have m1 := State.fill_marks s s.me i.guardWords [] h.canon.marks
  refine ⟨if clears i then (s.fill s.me i.guardWords []).fill s.me [] i.uses.2 else s.fill s.me i.guardWords [], ?_, ?_⟩
  rotate_left
  · split
    · rename_i hc
      refine ⟨(State.SameBut.fill s s.me _ _).trans (State.SameBut.fill _ s.me _ _), ?_, State.fill_marks _ _ _ _ m1⟩
      refine (State.fill_core _ s.me _ _ fun w hw => State.fill_sound s s.me _ _ h.canon.marks
        (fun v hv => h.clean v (by simpa using hv)) ((h.pair hc).2.2 w (by simpa using hw))).trans c1
    · exact ⟨State.SameBut.fill s s.me _ _, c1, m1⟩
  have p1 := poisonOf_none c1 fun w hw => (h.clean w hw).own
  have hwait : (clears i && (s.core s.me).mustWait i) = false := by
    cases hc : clears i with
    | false => rfl
    | true =>
      have hp := h.pair hc
      rw [Bool.true_and]
      unfold Core.mustWait
      have hn := any_contains_false hp.1
      unfold named at hn
      dsimp only
      rw [hn, hp.2.1]; rfl
  unfold State.issue
  simp only [h.running, h.role, h.csr, any_contains_false h.ready, p1, h.guard, hwait]
  simp

/-- A word that changes its core by `f` and completes does that and nothing else. -/
theorem State.Named.did {s u : State} (h : s.Named u) (f : Core → Core) (hf : ∀ (c : Core) r, f { c with rc := r } = { f c with rc := r }) :
    s.Did (u.onCore s.me f) f := by
  refine ⟨h.same.trans (.onCore u s.me f), ?_⟩
  rw [State.core_onCore_same]
  have e : f { u.core s.me with rc := (s.core s.me).rc } = f (s.core s.me) := congrArg f h.core
  rw [hf] at e
  have hr : (f (s.core s.me)).rc = (s.core s.me).rc := by
    have := hf (s.core s.me) (s.core s.me).rc
    have e2 : ({ s.core s.me with rc := (s.core s.me).rc } : Core) = s.core s.me := rfl
    rw [e2] at this
    rw [this]
  unfold Core.Same
  rw [hr]; exact e

end Machine
end Sys2Proof
end

