-- ==== Sys2Proof/Tests/Folkor.lean ====
section
/-! SUPPORT. Tests of the Folkor assembler: lines, words and images that the spec prints (03, 04, 06, 11), and lines that it calls
assembly errors. -/

namespace Sys2Proof
namespace Folkor

/-- The bytes of `.text`. -/
def textOfSource (s : String) : Option (List Byte) := (assemble s.toList).map Image.text

/-- L26 of the halo filter (04, Worked encodings). -/
theorem test_folkor_l26 :
    textOfSource "?(~p1) ld.n32 x12, [x6+0x0_3040] ; left halo" = some (toBytes 8 0x0F204061B2803040) := by decide +kernel

/-- The same line in verbose notation (03). -/
theorem test_folkor_l26_verbose :
    textOfSource "?<0x0F: p1, p0, p0> ld.n32.plain.pod.keep x12, [x6+0x0_3040]" = some (toBytes 8 0x0F204061B2803040) := by
  decide +kernel

/-- The expression p1 & ~p2 | p3 (R54). -/
theorem test_folkor_guard :
    tableOf false (.bin .or (.bin .and (.sym "p1".toList) (.not (.sym "p2".toList))) (.sym "p3".toList))
      = some { t := 0xBA, a := 1, b := 2, c := 3 } := by decide +kernel

/-- L17 of the sampled product branches back over a `safe`, a `qstat` and three words (11). -/
theorem test_folkor_branch :
    (textOfSource ".livemap h=h3\nspin: safe\nqstat x8, mxq\nsrl x9, x8, 16\nand x9, x9, 0xFF\ncmp.ne p1, p0, x9, 0\n?(p1) br spin").map
      (fun bs => ((leWord (bs.drop 8)).toNat, (leWord (bs.drop 48)).toNat)) = some (0x20000000000, 0xF0203800FFFFFFFA) := by
  decide +kernel

/-- The example of R60: the window region base takes two words. -/
theorem test_folkor_li :
    (readLi { val := fun _ => none, base := fun _ => none, here := 0, block := 7, map := 0 } { t := 0xFF, a := 0, b := 0, c := 0 } []
      [[.name "x3".toList], [.int 0x0100000000000000 false]])
      = some [.li { t := 0xFF, a := 0, b := 0, c := 0 } 3 0, .lih { t := 0xFF, a := 0, b := 0, c := 0 } 3 0x01000000] := by
  decide +kernel

/-- L15 of the cooperative load: w0 and w1 of its command (06, R205). -/
theorem test_folkor_copy :
    copyForm { val := fun _ => none, base := fun _ => none, here := 0, block := 7, map := 0 }
      [[.name "h7".toList], [.name "h6".toList]]
      [("peers".toList, [.int 15 false]), ("ab".toList, [.int 1 true]), ("tag".toList, [.name "t1".toList])]
      = some [0x41674101, 0xF, 0, 0] := by decide +kernel

/-- `.data` starts at the next 64 KiB, and a label of a `.d64` is a relocation (R66). -/
theorem test_folkor_data :
    (assemble "adr x1, d\nexit\n.data\nd: .d64 d".toList).map (fun m => ((leWord m.text).toNat, m.data, m.relocs))
      = some (0xFF001E0800010000, toBytes 8 0x10000, [0x10000]) := by decide +kernel

/-- At load the base is added to the word of a relocation (R66). -/
theorem test_folkor_relocate :
    relocate 0x400000 (toBytes 8 7 ++ toBytes 8 0x10000) [8] = toBytes 8 7 ++ toBytes 8 0x410000 := by decide +kernel

/-- 0.1 in BF16 is rounded once (R67). -/
theorem test_folkor_bf16 : floatLit Machine.fmtBf16 [.dec 1 (-1)] = some 0x3DCD := by decide +kernel

/-- Lines that are assembly errors: an immediate of `sub` (R102), a vector guard on a scalar word (R56), an identifier that spells a
tag (R50), a counter above 15 (R59) and a cursor mark outside the vector unit (R58). -/
theorem test_folkor_errors :
    ["sub x6, x5, 1", "?(vp1) exit", "T17: exit", "wait ld=16", "hld h1+, [x2]"].all (fun s => (textOfSource s).isNone) = true := by
  decide +kernel

/-- A word and its verbose line (R63). -/
theorem test_folkor_verbose :
    textOfSource (verbose (.vabs ⟨0xF0, 1, 0, 0⟩ ⟨⟨2, false⟩, ⟨1, true⟩⟩)) = some (encodeBytes (.vabs ⟨0xF0, 1, 0, 0⟩ ⟨⟨2, false⟩, ⟨1, true⟩⟩)) := by
  decide +kernel

end Folkor
end Sys2Proof
end

