-- ==== Sys2Proof/Tests/Slice0.lean ====
section
/-! SUPPORT. Tests: words written out bit by bit from the encodings of the manual, an ill-formed term for every check of
`Instr.wf`, and single steps with results worked out by hand from the rules. -/

open Sys2Proof Sys2Proof.Machine

namespace Sys2Proof.Tests

set_option maxRecDepth 100000
set_option Elab.async false

/-! ## Words -/

def g : Guard := ⟨0xA5, 3, 5, 6⟩

/-- Every word decodes to its instruction, which is well formed and encodes to the word. -/
def decodesAll (l : List (Word × Instr)) : Bool :=
  l.all fun e => match decodeWord e.1 0 with | .ok i => i == e.2 && e.2.wf && encode e.2 == e.1 | .error _ => false

theorem test_decodes_integer_0 : decodesAll [
    (0xa577008a7c000000, .add g ⟨17, 9, 30, .s8⟩),
    (0xa577018a7c020000, .sub g ⟨17, 9, 30, .s16⟩),
    (0xa577028a7c040000, .mul g ⟨17, 9, 30, .s32⟩),
    (0xa577038a7c060000, .mulh g ⟨17, 9, 30, .s64⟩),
    (0xa577048a7c080000, .div g ⟨17, 9, 30, .n8⟩),
    (0xa577058a7c0a0000, .rem g ⟨17, 9, 30, .n16⟩),
    (0xa577068a7c0c0000, .and g ⟨17, 9, 30, .n32⟩),
    (0xa577078a7c0e0000, .or g ⟨17, 9, 30, .n64⟩),
    (0xa577088a7c000000, .xor g ⟨17, 9, 30, .s8⟩),
    (0xa577098a7c020000, .andn g ⟨17, 9, 30, .s16⟩),
    (0xa5770a8a7c040000, .sll g ⟨17, 9, 30, .s32⟩),
    (0xa5770b8a7c060000, .srl g ⟨17, 9, 30, .s64⟩),
    (0xa5770c8a7c080000, .sra g ⟨17, 9, 30, .n8⟩),
    (0xa5770d8a7c0a0000, .rot g ⟨17, 9, 30, .n16⟩),
    (0xa5770e08880a0000, .min g ⟨1, 2, 4, .n16⟩),
    (0xa5770e08880a0400, .max g ⟨1, 2, 4, .n16⟩),
    (0xa5770faac00c0000, .clz g ⟨21, 11, .n32⟩),
    (0xa5770faac00c0400, .ctz g ⟨21, 11, .n32⟩),
    (0xa5770faac00c0800, .popc g ⟨21, 11, .n32⟩),
    (0xa5770faac0040c00, .sext g ⟨21, 11, .s32⟩)] = true := by decide +kernel

theorem test_decodes_integer_1 : decodesAll [
    (0xa5770faac00c1000, .zext g ⟨21, 11, .n32⟩)] = true := by decide +kernel

theorem test_decodes_immediate : decodesAll [
    (0xa577106d80fedcba, .addImm g ⟨13, 22, .s8, 0xfedcba⟩),
    (0xa577116d88fedcba, .mulImm g ⟨13, 22, .s16, 0xfedcba⟩),
    (0xa577126d90fedcba, .andImm g ⟨13, 22, .s32, 0xfedcba⟩),
    (0xa577136d98fedcba, .orImm g ⟨13, 22, .s64, 0xfedcba⟩),
    (0xa577146da0fedcba, .xorImm g ⟨13, 22, .n8, 0xfedcba⟩),
    (0xa577156da8fedcba, .andnImm g ⟨13, 22, .n16, 0xfedcba⟩),
    (0xa577166db000002d, .sllImm g ⟨13, 22, .n32, 0x2d⟩),
    (0xa577176db800002d, .srlImm g ⟨13, 22, .n64, 0x2d⟩),
    (0xa577186d8000002d, .sraImm g ⟨13, 22, .s8, 0x2d⟩),
    (0xa577196d8800002d, .rotImm g ⟨13, 22, .s16, 0x2d⟩),
    (0xa5771a19d8fffffb, .minImm g ⟨3, 7, .s64, 0xFFFFFB⟩),
    (0xa5771a19d9fffffb, .maxImm g ⟨3, 7, .s64, 0xFFFFFB⟩),
    (0xa5771b4da5a5a5a5, .li g 9 0x5A5A5A5A5),
    (0xa5771c4889abcdef, .lih g 9 0x89ABCDEF),
    (0xa5771d44c00ffff0, .lea g ⟨8, 19, 0xFFFF0⟩),
    (0xa5771e5700000001, .adr g 10 0x700000001),
    (0xa5771f34b2000000, .padr g 6 18 25)] = true := by decide +kernel

theorem test_decodes_floating : decodesAll [
    (0xa57720214c004000, .fadd g ⟨4, 5, 6, .f32, .rtz⟩),
    (0xa57721214c028000, .fsub g ⟨4, 5, 6, .f64, .rup⟩),
    (0xa57722214c00c000, .fmul g ⟨4, 5, 6, .f32, .rdn⟩),
    (0xa57724214c020000, .fdiv g ⟨4, 5, 6, .f64, .rne⟩),
    (0xa577230886428000, .fma g ⟨1, 2, 3, 4, .f64, .rup⟩),
    (0xa57725424000c000, .fsqrt g ⟨8, 9, .f32, .rdn⟩),
    (0xa577264254020000, .fmin g ⟨8, 9, 10, .f64⟩),
    (0xa577274254000000, .fmax g ⟨8, 9, 10, .f32⟩),
    (0xa577284240905800, .fcvt g ⟨8, 9, .int .n32, .f64, .rtz⟩),
    (0xa577284240302000, .fcvt g ⟨8, 9, .f32, .int .s64, .rne⟩),
    (0xa57729fc00020000, .fclass g ⟨31, 16, .f64⟩)] = true := by decide +kernel

theorem test_decodes_compare : decodesAll [
    (0xa57730a938b30000, .cmp g ⟨5, 2, .clr, .ge, 17, .reg 12, .n32⟩),
    (0xa577303f5f01fffd, .cmp g ⟨1, 7, .or, .gt, 30, .imm 0x3FFD, .s64⟩),
    (0xa577318e70888000, .fcmp g ⟨4, 3, .and, .uno, 1, 2, .f64⟩),
    (0xa57732c41480402a, .tbit g ⟨6, 1, .set, true, 9, 0x2A⟩),
    (0xa5773340c6970000, .plog g ⟨2, 0xC6, 4, 5, 6⟩),
    (0xa57734000a000000, .pmovToX g 20),
    (0xa57734001a000000, .pmovToPr g 20)] = true := by decide +kernel

theorem test_decodes_control : decodesAll [
    (0xa5773800fffffff0, .br g 0xFFFFFFF0),
    (0xa577390012345678, .call g 0x12345678),
    (0xa5773a0bc0000000, .jr g 1 15),
    (0xa5773b0000000000, .exit g)] = true := by decide +kernel

theorem test_decodes_memory : decodesAll [
    (0xa5774061b6a03040, .ld g ⟨12, 6, .n32, true, .pod, .stream, false, 0x3040⟩),
    (0xa577411f9e4ffff8, .st g ⟨3, 30, .s64, true, .package, .nofill, false, 0xffff8⟩),
    (0xa577423a11100010, .lds g ⟨7, 8, .s32, false, .tile, .keep, true, 0x10⟩),
    (0xa577423a14800010, .lds g ⟨7, 8, .s32, true, .core, .keep, false, 0x10⟩),
    (0xa577434ab9800040, .stf g ⟨9, 10, .n64, false, .die, .keep, false, 0x40⟩),
    (0xa577445b42c00001, .ldc g ⟨11, 13, .s8, false, .pod, .nofill, false, 0x1⟩),
    (0xa57745044227ffff, .pref g ⟨17, .package, .stream, 0x7FFFF⟩),
    (0xa577460440800005, .clean g ⟨17, .core, .keep, 5⟩),
    (0xa577470441000005, .inval g ⟨17, .tile, .keep, 5⟩),
    (0xa57748a540000020, .msend g ⟨20, 21, 32⟩),
    (0xa57749a5400fffe0, .mrecv g ⟨20, 21, 0xFFFE0⟩)] = true := by decide +kernel

theorem test_decodes_atomic : decodesAll [
    (0xa57750298e064000, .amo g ⟨5, 6, 7, .s64, .core, .swap, .plain⟩),
    (0xa57750298e068500, .amo g ⟨5, 6, 7, .s64, .tile, .add, .acq⟩),
    (0xa57750298e06ca00, .amo g ⟨5, 6, 7, .s64, .die, .and, .rel⟩),
    (0xa57750298e070f00, .amo g ⟨5, 6, 7, .s64, .package, .or, .acqRel⟩),
    (0xa57750298e075000, .amo g ⟨5, 6, 7, .s64, .pod, .xor, .plain⟩),
    (0xa57750298e065500, .amo g ⟨5, 6, 7, .s64, .core, .min, .acq⟩),
    (0xa57750298e069a00, .amo g ⟨5, 6, 7, .s64, .tile, .max, .rel⟩),
    (0xa57750298e06df00, .amo g ⟨5, 6, 7, .s64, .die, .fadd, .acqRel⟩),
    (0xa57751298e870100, .cas g ⟨5, 6, 7, 8, .s64, .package, .acq⟩),
    (0xa57752018e0d5800, .red g ⟨6, 7, .n32, .pod, .max, .plain⟩),
    (0xa57752018e051e00, .red g ⟨6, 7, .s32, .package, .fadd, .rel⟩),
    (0xa577533000000000, .fence g ⟨.core, true, false, false, false, false, false, false⟩),
    (0xa577534800000000, .fence g ⟨.tile, false, true, false, false, false, false, false⟩),
    (0xa577536400000000, .fence g ⟨.die, false, false, true, false, false, false, false⟩),
    (0xa577538200000000, .fence g ⟨.package, false, false, false, true, false, false, false⟩),
    (0xa57753a100000000, .fence g ⟨.pod, false, false, false, false, true, false, false⟩),
    (0xa577532080000000, .fence g ⟨.core, false, false, false, false, false, true, false⟩),
    (0xa577534040000000, .fence g ⟨.tile, false, false, false, false, false, false, true⟩)] = true := by decide +kernel

theorem test_decodes_barrier : decodesAll [
    (0xa577544ca0000000, .arrive g 9 37),
    (0xa577559535000000, .bwait g 37 9 5 2),
    (0xa577560ca0000000, .bmask g 3 5),
    (0xa577560cb0000000, .bmaskRd g 3 5)] = true := by decide +kernel

theorem test_decodes_queue : decodesAll [
    (0xa577580500000000, .push g .mxq 5),
    (0xa577580d00000000, .push g .cpq 5),
    (0xa577581500000000, .push g .clq 5),
    (0xa577581d00000000, .push g .ofq 5),
    (0xa577582500000000, .push g (.gq 0) 5),
    (0xa577585d00000000, .push g (.gq 7) 5),
    (0xa577586500000000, .push g .lnq 5),
    (0xa577584fc6000000, .pushTry g (.gq 5) 7 6 1),
    (0xa577590801300000, .qstat g .cpq 19),
    (0xa5775a1234f00000, .wait g ⟨1, 2, 3, 4, 15⟩),
    (0xa5775b000a400000, .twait g 41),
    (0xa5775b4c70000000, .tany g 6 7),
    (0xa5775b8c70000000, .tfind g 6 7),
    (0xa5775ca500000000, .cancel g 41 8),
    (0xa5775d2120000000, .abinit g 33 4),
    (0xa5775d6120000000, .abinitReset g 33 4),
    (0xa5775da100000000, .abwait g 33)] = true := by decide +kernel

theorem test_decodes_handle : decodesAll [
    (0xa5775e2423400000, .hset g 9 10 17),
    (0xa5775e6422a00000, .hget g 17 9 5),
    (0xa5775ea580000000, .hmov g 9 6),
    (0xa5775ee422000000, .hadv g 9 17),
    (0xa5775f4d06a00020, .hld g ⟨9, 20, true, .pod, .stream, 32⟩),
    (0xa5775fcd010fffe0, .hst g ⟨9, 20, false, .tile, .keep, 0xFFFE0⟩)] = true := by decide +kernel

theorem test_decodes_vector_0 : decodesAll [
    (0xa57760493d401800, .vadd g ⟨⟨4, true⟩, .h ⟨9, true⟩, .x 21, .rdn⟩),
    (0xa57761493d401800, .vsub g ⟨⟨4, true⟩, .h ⟨9, true⟩, .x 21, .rdn⟩),
    (0xa57762493d401800, .vmul g ⟨⟨4, true⟩, .h ⟨9, true⟩, .x 21, .rdn⟩),
    (0xa577634132918800, .vfma g ⟨⟨4, false⟩, ⟨9, true⟩, .h ⟨10, false⟩, .x 3, .rtz⟩),
    (0xa577644522a00000, .vmin g ⟨⟨4, false⟩, .x 9, .h ⟨10, true⟩⟩),
    (0xa577644522a00080, .vmax g ⟨⟨4, false⟩, .x 9, .h ⟨10, true⟩⟩),
    (0xa577654920000000, .vabs g ⟨⟨4, true⟩, ⟨9, false⟩⟩),
    (0xa577654920000080, .vneg g ⟨⟨4, true⟩, ⟨9, false⟩⟩),
    (0xa577664920001000, .vexp2 g ⟨⟨4, true⟩, ⟨9, false⟩, .rup⟩),
    (0xa577664920001080, .vlog2 g ⟨⟨4, true⟩, ⟨9, false⟩, .rup⟩),
    (0xa577664920001100, .vrcp g ⟨⟨4, true⟩, ⟨9, false⟩, .rup⟩),
    (0xa577664920001180, .vrsq g ⟨⟨4, true⟩, ⟨9, false⟩, .rup⟩),
    (0xa577664920001200, .vtanh g ⟨⟨4, true⟩, ⟨9, false⟩, .rup⟩),
    (0xa577674129532003, .vcvt g ⟨⟨4, false⟩, ⟨9, false⟩, some 5, some 6, .sr⟩),
    (0xa577674120130002, .vcvt g ⟨⟨4, false⟩, ⟨9, false⟩, none, some 6, .rne⟩),
    (0xa577684129532827, .vquant g ⟨⟨4, false⟩, ⟨9, false⟩, some 5, true, some (6, .package), .dth⟩),
    (0xa577684120000000, .vquant g ⟨⟨4, false⟩, ⟨9, false⟩, none, false, none, .rne⟩),
    (0xa577690139800013, .vamax g ⟨19, ⟨9, true⟩, 6, .rne⟩),
    (0xa577690139801893, .vred g ⟨19, ⟨9, true⟩, 6, .rdn⟩),
    (0xa5776a5129800338, .vcmp g ⟨5, 3, .and, .ord, ⟨9, false⟩, .x 6⟩)] = true := by decide +kernel

theorem test_decodes_vector_1 : decodesAll [
    (0xa5776b4129838000, .vsel g ⟨⟨4, false⟩, 7, .h ⟨9, false⟩, .x 6⟩),
    (0xa5776c4122200000, .vperm g ⟨⟨4, false⟩, ⟨9, false⟩, ⟨8, true⟩⟩),
    (0xa5776c412a000080, .vbcast g ⟨⟨4, false⟩, ⟨9, false⟩, 8⟩),
    (0xa5776d4d00000000, .vmov g ⟨⟨4, true⟩, .x 8⟩),
    (0xa5776d4910000080, .vfill g ⟨⟨4, true⟩, .h ⟨8, true⟩⟩),
    (0xa5776d4800000100, .vempty g ⟨4, true⟩),
    (0xa5776e5020836500, .vplog g ⟨5, 0xCA, 1, 2, 6⟩),
    (0xa5776f006c400000, .vpcnt g ⟨17, 3⟩),
    (0xa5776f006c400080, .vpfirst g ⟨17, 3⟩),
    (0xa5776f600c400106, .vpmovFromX g ⟨6, 2, true, 17⟩),
    (0xa5776f006c400181, .vpmovToX g ⟨17, 1, 3⟩)] = true := by decide +kernel

theorem test_decodes_system : decodesAll [
    (0xa577700802010000, .csrr g 4 0x201),
    (0xa577704852050000, .csrw g ⟨4, 5, 0x205⟩),
    (0xa577708852050000, .csrset g ⟨4, 5, 0x205⟩),
    (0xa57770c852050000, .csrclr g ⟨4, 5, 0x205⟩),
    (0xa57771000000beef, .trap g 0xBEEF),
    (0xa577712000000000, .eret g),
    (0xa577714900000000, .wfi g 9),
    (0xa577716990000000, .seal g 9 18),
    (0xa577718994000000, .tlbi g 9 18 .package),
    (0xa577721c1a000000, .spawn g 13 7),
    (0xa577729d00000000, .join g 7 8),
    (0xa577734000000000, .yield g),
    (0xa57773b000000000, .prio g 3),
    (0xa57773c580000000, .gang g 22),
    (0xa577743800000000, .sign g 14),
    (0xa57774b800000000, .dissolve g 14),
    (0xa577753800000000, .xfer g 14),
    (0xa57775b800000000, .sstep g 14),
    (0xa5777643b8000000, .qget g 8 3 5 6),
    (0xa577776800000000, .rand g 13)] = true := by decide +kernel

/-- A `safe` and its map word (R72, R86). -/
theorem test_decodes_safe :
    (match decodeBytes (toBytes 8 0xa577730000000000 ++ toBytes 8 0x1fff0000000000f0) with
      | .ok (i, n) => i == .safe g 0x1fff0000000000f0 && n == 16 | .error _ => false) = true ∧
    (match decodeBytes (toBytes 8 0xa577730000000000 ++ toBytes 8 0x3fff0000000000f0) with
      | .ok _ => false | .error _ => true) = true := by decide +kernel

/-- Words that the manual itself works out: the listings of the halo filter, of the streams and of R190 to R240. -/
theorem test_decodes_listed :
    decodeWord 0x0F204061B2803040 0 = .ok (.ld ⟨0x0F, 1, 0, 0⟩ ⟨12, 6, .n32, false, .pod, .keep, false, 0x3040⟩) ∧
    decodeWord 0xFF00690059800086 0 = .ok (.vred ⟨0xFF, 0, 0, 0⟩ ⟨6, ⟨2, true⟩, 6, .rne⟩) ∧
    decodeWord 0xFF006F100BC00100 0 = .ok (.vpmovFromX ⟨0xFF, 0, 0, 0⟩ ⟨1, 0, false, 15⟩) ∧
    decodeWord 0xF02062408C000000 0 = .ok (.vmul ⟨0xF0, 1, 0, 0⟩ ⟨⟨4, false⟩, .h ⟨4, false⟩, .x 16, .rne⟩) ∧
    decodeWord 0xF02063404C420000 0 = .ok (.vfma ⟨0xF0, 1, 0, 0⟩ ⟨⟨4, false⟩, ⟨2, false⟩, .x 17, .h ⟨4, false⟩, .rne⟩) ∧
    decodeWord 0 0 = .ok (.add ⟨0, 0, 0, 0⟩ ⟨0, 0, 0, .s8⟩) := by decide +kernel

/-- A bit of a field that a form leaves unused, an unassigned code and an unassigned opcode are refused (R73). -/
theorem test_decode_refuses :
    ([0xA577008A7C000001, 0xA577108A70000000 + 0x1000000, 0xFF00290000008000, 0xFF00530000000000, 0xFF005E0000000000 + 0xF00000,
      0xFF00350000000000, 0xFF00580000000000, 0xFF00760000000000].all fun w =>
      match decodeWord (BitVec.ofNat 64 w) 0 with | .ok _ => false | .error _ => true) = true := by decide +kernel

/-! ## Ill-formed terms -/

theorem test_wf_refuses : ([
    .sllImm g ⟨1, 2, .s64, 64⟩, .srlImm g ⟨1, 2, .s64, 64⟩, .sraImm g ⟨1, 2, .s64, 64⟩, .rotImm g ⟨1, 2, .s64, 64⟩,
    .sext g ⟨1, 2, .n8⟩, .zext g ⟨1, 2, .s8⟩, .fadd g ⟨1, 2, 3, .f32, .sr⟩, .fsub g ⟨1, 2, 3, .f32, .dth⟩,
    .fmul g ⟨1, 2, 3, .f64, .sr⟩, .fdiv g ⟨1, 2, 3, .f64, .dth⟩, .fma g ⟨1, 2, 3, 4, .f32, .sr⟩, .fsqrt g ⟨1, 2, .f32, .sr⟩,
    .fcvt g ⟨1, 2, .f32, .f64, .sr⟩, .fcvt g ⟨1, 2, .int .s8, .int .n8, .rne⟩,
    .cmp g ⟨1, 2, .set, .ord, 3, .reg 4, .s8⟩, .cmp g ⟨1, 2, .set, .uno, 3, .imm 4, .s8⟩] : List Instr).all (fun i => !i.wf)
    = true := by decide

theorem test_wf_refuses_memory : ([
    .ld g ⟨1, 2, .s8, false, .lane, .keep, false, 0⟩, .ld g ⟨1, 2, .s8, false, .core, .keep, true, 0⟩,
    .st g ⟨1, 2, .s8, false, .lane, .keep, false, 0⟩, .st g ⟨1, 2, .s8, false, .core, .keep, true, 0⟩,
    .lds g ⟨1, 2, .s8, false, .lane, .keep, false, 0⟩, .lds g ⟨1, 2, .s8, false, .core, .stream, false, 0⟩,
    .stf g ⟨1, 2, .s8, false, .lane, .keep, false, 0⟩, .stf g ⟨1, 2, .s8, false, .core, .nofill, false, 0⟩,
    .stf g ⟨1, 2, .s8, false, .core, .keep, true, 0⟩, .ldc g ⟨1, 2, .s8, false, .lane, .keep, false, 0⟩,
    .ldc g ⟨1, 2, .s8, true, .core, .keep, false, 0⟩, .ldc g ⟨1, 2, .s8, false, .core, .keep, true, 0⟩,
    .pref g ⟨1, .lane, .keep, 0⟩, .pref g ⟨1, .core, .nofill, 0⟩, .clean g ⟨1, .lane, .keep, 0⟩, .clean g ⟨1, .core, .stream, 0⟩,
    .inval g ⟨1, .lane, .keep, 0⟩, .inval g ⟨1, .core, .stream, 0⟩] : List Instr).all (fun i => !i.wf) = true := by decide

theorem test_wf_refuses_ordering : ([
    .amo g ⟨1, 2, 3, .s64, .lane, .add, .plain⟩, .amo g ⟨1, 2, 3, .n32, .core, .fadd, .plain⟩, .cas g ⟨1, 2, 3, 4, .s64, .lane, .plain⟩,
    .red g ⟨1, 2, .s64, .lane, .add, .plain⟩, .red g ⟨1, 2, .s8, .core, .fadd, .plain⟩, .red g ⟨1, 2, .s64, .core, .swap, .plain⟩,
    .red g ⟨1, 2, .s64, .core, .add, .acq⟩, .fence g ⟨.lane, true, true, true, true, true, true, true⟩,
    .fence g ⟨.pod, false, false, false, false, false, false, false⟩, .push g .mxq 0, .pushTry g .mxq 0 1 2, .hset g 1 15 2,
    .hget g 1 2 15, .hld g ⟨1, 2, false, .lane, .keep, 0⟩, .hst g ⟨1, 2, false, .lane, .keep, 0⟩, .tlbi g 1 2 .lane, .safe g 0x2000000000000000,
    .qget g 5 1 2 3, .qget g 0 1 2 3] : List Instr).all (fun i => !i.wf) = true := by decide

theorem test_wf_refuses_vector : ([
    .vadd g ⟨⟨1, false⟩, .x 2, .x 3, .rne⟩, .vadd g ⟨⟨1, false⟩, .h ⟨2, false⟩, .x 3, .sr⟩, .vsub g ⟨⟨1, false⟩, .x 2, .x 3, .rne⟩,
    .vmul g ⟨⟨1, false⟩, .x 2, .x 3, .rne⟩, .vfma g ⟨⟨1, false⟩, ⟨2, false⟩, .x 2, .x 3, .rne⟩,
    .vfma g ⟨⟨1, false⟩, ⟨2, false⟩, .h ⟨2, false⟩, .x 3, .dth⟩, .vmin g ⟨⟨1, false⟩, .x 2, .x 3⟩, .vmax g ⟨⟨1, false⟩, .x 2, .x 3⟩,
    .vexp2 g ⟨⟨1, false⟩, ⟨2, false⟩, .sr⟩, .vlog2 g ⟨⟨1, false⟩, ⟨2, false⟩, .sr⟩, .vrcp g ⟨⟨1, false⟩, ⟨2, false⟩, .sr⟩,
    .vrsq g ⟨⟨1, false⟩, ⟨2, false⟩, .sr⟩, .vtanh g ⟨⟨1, false⟩, ⟨2, false⟩, .sr⟩,
    .vquant g ⟨⟨1, false⟩, ⟨2, false⟩, none, false, some (3, .lane), .rne⟩, .vred g ⟨1, ⟨2, false⟩, 3, .sr⟩,
    .vamax g ⟨1, ⟨2, false⟩, 3, .rtz⟩, .vsel g ⟨⟨1, false⟩, 1, .x 2, .x 3⟩] : List Instr).all (fun i => !i.wf) = true := by decide

/-! ## States -/

/-- A thread in the middle of a job: job 1 of partition 0, at 0x100000, with a trap handler and an open split. -/
def core0 : Core :=
  { Core.idle with
    st := .running, pc := 0x100000, job := { part := 0, ctx := 1 }, tvec := 0x200000, x := (Core.idle.x.set 5 7).set 6 0x28 }

def st0 : State := { State.reset with cores := [(0, core0)] }

def gt : Guard := ⟨0xFF, 0, 0, 0⟩

/-- `st0` with some scalar registers set. -/
def withX (l : List (Nat × Word)) : State :=
  { State.reset with cores := [(0, { core0 with x := l.foldl (fun v e => v.set! e.1 e.2) core0.x })] }

/-- The current core after an instruction. -/
def after (i : Instr) (s : State) : Core :=
  match exec i s with
  | .next t => t.core s.me
  | _ => Core.idle

/-- The state after an instruction. -/
def stateAfter (i : Instr) (s : State) : State :=
  match exec i s with
  | .next t => t
  | _ => s

/-! ## Single steps -/

/-- R102: 2^31 as `.s32` is the least number, sign-extended. -/
theorem test_add_wraps : (after (.add gt ⟨7, 5, 6, .s32⟩) (withX [(5, 0x7FFFFFFF), (6, 1)])).rx 7 = 0xFFFFFFFF80000000 := by decide +kernel

theorem test_sub_unsigned : (after (.sub gt ⟨7, 5, 6, .n8⟩) (withX [(5, 0), (6, 1)])).rx 7 = 0xFF := by decide +kernel

theorem test_mulh_signed : (after (.mulh gt ⟨7, 5, 6, .s64⟩) (withX [(5, 0xFFFFFFFFFFFFFFFF), (6, 2)])).rx 7 = 0xFFFFFFFFFFFFFFFF := by decide +kernel

/-- R103. -/
theorem test_div_by_zero : (after (.div gt ⟨7, 5, 6, .s64⟩) (withX [(5, 9), (6, 0)])).rx 7 = 0xFFFFFFFFFFFFFFFF ∧ (after (.rem gt ⟨7, 5, 6, .s64⟩) (withX [(5, 9), (6, 0)])).rx 7 = 9 := by decide +kernel

/-- R103: -7 / 2 is -3, remainder -1. -/
theorem test_div_truncates : (after (.div gt ⟨7, 5, 6, .s64⟩) (withX [(5, 0xFFFFFFFFFFFFFFF9), (6, 2)])).rx 7 = 0xFFFFFFFFFFFFFFFD ∧ (after (.rem gt ⟨7, 5, 6, .s64⟩) (withX [(5, 0xFFFFFFFFFFFFFFF9), (6, 2)])).rx 7 = 0xFFFFFFFFFFFFFFFF := by decide +kernel

theorem test_div_overflow : (after (.div gt ⟨7, 5, 6, .s32⟩) (withX [(5, 0x80000000), (6, 0xFFFFFFFF)])).rx 7 = 0xFFFFFFFF80000000 := by decide +kernel

/-- R104: an amount of 32 leaves nothing of 32 bits. -/
theorem test_sll_full_width : (after (.sll gt ⟨7, 5, 6, .n32⟩) (withX [(5, 1), (6, 32)])).rx 7 = 0 ∧ (after (.sll gt ⟨7, 5, 6, .n32⟩) (withX [(5, 3), (6, 31)])).rx 7 = 0x80000000 := by decide +kernel

theorem test_sra_fills : (after (.sra gt ⟨7, 5, 6, .s8⟩) (withX [(5, 0x80), (6, 63)])).rx 7 = 0xFFFFFFFFFFFFFFFF := by decide +kernel

/-- R104: by 9 modulo 8. -/
theorem test_rot_right : (after (.rot gt ⟨7, 5, 6, .n8⟩) (withX [(5, 0x01), (6, 9)])).rx 7 = 0x80 := by decide +kernel

theorem test_min_source_is_dest : (after (.min gt ⟨7, 7, 6, .s8⟩) (withX [(7, 0x80), (6, 1)])).rx 7 = 0xFFFFFFFFFFFFFF80 := by decide +kernel

theorem test_add_imm_sign : (after (.addImm gt ⟨7, 5, .s64, 0xFFFFFF⟩) (withX [(5, 0)])).rx 7 = 0xFFFFFFFFFFFFFFFF := by decide +kernel

theorem test_clz_ctz_popc : (after (.clz gt ⟨7, 5, .n16⟩) (withX [(5, 0xF00001)])).rx 7 = 15 ∧ (after (.ctz gt ⟨7, 5, .n16⟩) (withX [(5, 0xF00000)])).rx 7 = 16 ∧ (after (.popc gt ⟨7, 5, .n8⟩) (withX [(5, 0x1F3)])).rx 7 = 6 := by decide +kernel

theorem test_sext_zext : (after (.sext gt ⟨7, 5, .s16⟩) (withX [(5, 0x18000)])).rx 7 = 0xFFFFFFFFFFFF8000 ∧ (after (.zext gt ⟨7, 5, .n16⟩) (withX [(5, 0x18000)])).rx 7 = 0x8000 := by decide +kernel

theorem test_lih_keeps_low : (after (.lih gt 7 0x89ABCDEF) (withX [(7, 0x1111111122222222)])).rx 7 = 0x89ABCDEF22222222 := by decide +kernel

theorem test_padr : (after (.padr gt 7 5 6) (withX [(5, 3), (6, 1025)])).rx 7 = 0x01000000C0100000 := by decide +kernel

theorem test_x0_discards : (after (.add gt ⟨0, 5, 6, .s64⟩) st0).rx 0 = 0 ∧ (after (.add gt ⟨0, 5, 6, .s64⟩) st0).pc = 0x100008 := by decide +kernel

/-- 1 + 2^-24: a tie goes to even, and upwards under `.rup`. -/
theorem test_fadd_rounds : (after (.fadd gt ⟨7, 5, 6, .f32, .rne⟩) (withX [(5, 0x3F800000), (6, 0x33800000)])).rx 7 = 0x3F800000 ∧ (after (.fadd gt ⟨7, 5, 6, .f32, .rup⟩) (withX [(5, 0x3F800000), (6, 0x33800000)])).rx 7 = 0x3F800001 := by decide +kernel

theorem test_fdiv_by_zero : (after (.fdiv gt ⟨7, 5, 6, .f64, .rne⟩) (withX [(5, 0x3FF0000000000000), (6, 0)])).rx 7 = 0x7FF0000000000000 := by decide +kernel

theorem test_fsqrt_two : (after (.fsqrt gt ⟨7, 5, .f64, .rne⟩) (withX [(5, 0x4000000000000000)])).rx 7 = 0x3FF6A09E667F3BCD := by decide +kernel

/-- (1 + 2^-23)^2 - (1 + 2^-22) = 2^-46. -/
theorem test_fma_one_rounding : (after (.fma gt ⟨7, 5, 6, 8, .f32, .rne⟩) (withX [(5, 0x3F800001), (6, 0x3F800001), (8, 0xBF800002)])).rx 7 = 0x28800000 := by decide +kernel

/-- -1.5 rounded down. -/
theorem test_fcvt_down : (after (.fcvt gt ⟨7, 5, .int .s32, .f64, .rdn⟩) (withX [(5, 0xBFF8000000000000)])).rx 7 = 0xFFFFFFFFFFFFFFFE := by decide +kernel

theorem test_fclass_zero : (after (.fclass gt ⟨7, 5, .f32⟩) (withX [(5, 0)])).rx 7 = 0x10 := by decide +kernel

theorem test_cmp_pair : (after (.cmp gt ⟨1, 2, .set, .lt, 5, .imm 8, .s64⟩) st0).p = 2 ∧ (after (.cmp gt ⟨1, 2, .set, .ge, 5, .imm 8, .s64⟩) st0).p = 4 := by decide +kernel

theorem test_fcmp_nan : (after (.fcmp gt ⟨1, 2, .set, .uno, 5, 6, .f32⟩) (withX [(5, 0x7FC00000)])).p = 2 := by decide +kernel

theorem test_tbit : (after (.tbit gt ⟨1, 2, .set, true, 5, 3⟩) st0).p = 2 := by decide +kernel

/-- Row 7 of the table, read under p0, p0, p0. -/
theorem test_plog : (after (.plog gt ⟨3, 0x80, 0, 0, 0⟩) st0).p = 8 := by decide +kernel

theorem test_branch_back : (after (.br gt 0xFFFFFFFF) st0).pc = 0xFFFF8 := by decide +kernel

theorem test_call_links : (after (.call gt 2) st0).pc = 0x100010 ∧ (after (.call gt 2) st0).rx 1 = 0x100008 := by decide +kernel

theorem test_jr_link_after_target : (after (.jr gt 5 5) (withX [(5, 0x4000)])).pc = 0x4000 ∧ (after (.jr gt 5 5) (withX [(5, 0x4000)])).rx 5 = 0x100008 := by decide +kernel

theorem test_jr_unaligned : (after (.jr gt 0 5) st0).pc = 0x200000 ∧ (after (.jr gt 0 5) st0).tcause = 4 ∧ (after (.jr gt 0 5) st0).tval = 7 := by decide +kernel

theorem test_trap_and_return : (after (.trap gt 0x42) st0).tcause = 16 ∧ (after (.trap gt 0x42) st0).tpc = 0x100000 ∧ (after (.eret gt) (stateAfter (.trap gt 0x42) st0)).pc = 0x100000 ∧ (after (.eret gt) (stateAfter (.trap gt 0x42) st0)).inh = false := by decide +kernel

theorem test_suppressed : (after (.add ⟨0, 0, 0, 0⟩ ⟨7, 5, 6, .s64⟩) st0).rx 7 = 0 ∧ (after (.add ⟨0, 0, 0, 0⟩ ⟨7, 5, 6, .s64⟩) st0).pc = 0x100008 := by decide +kernel

/-- A booted package of one partition whose tile 0 has half of its store as scratch. -/
def withTile (s : State) : State :=
  { s with tiles := [(0, { Tile.idle with tsplit := 8 })], pkgs := [(0, { Pkg.idle with parts := [(0, 0xF)], booted := true })] }

/-- The own tile store at offset 0x3028, under the buffered byte (R131). -/
theorem test_store_then_load : (after (.ld gt ⟨7, 6, .s16, false, .core, .keep, false, 0x3000⟩) (stateAfter (.st gt ⟨5, 6, .n8, false, .core, .keep, false, 0x3000⟩) (withTile (withX [(5, 0x80), (6, 0x0100000000000028)])))).rx 7 = 0x80 := by decide +kernel

theorem test_store_misaligned : (after (.st gt ⟨5, 6, .s64, false, .core, .keep, false, 0x3001⟩) st0).tcause = 4 ∧ (after (.st gt ⟨5, 6, .s64, false, .core, .keep, false, 0x3001⟩) st0).tval = 0x3029 := by decide +kernel

/-- R189: the cursor is read sign-extended. -/
theorem test_hset_hget : (after (.hget gt 7 3 4) (stateAfter (.hset gt 3 4 5) (withX [(5, 0xFFFFFFFE)]))).rx 7 = 0xFFFFFFFFFFFFFFFE := by decide +kernel

theorem test_tfind_lowest : (after (.tfind gt 7 5) { State.reset with cores := [(0, { core0 with tags := 0x6 })] }).rx 7 = 1 ∧ (after (.tfind gt 7 5) { State.reset with cores := [(0, { core0 with tags := 0x6 })] }).tags = 4 := by decide +kernel

theorem test_arrive_non_member : (after (.arrive gt 7 5) st0).rx 7 = 0 ∧ (after (.arrive gt 7 5) st0).pc = 0x100008 := by decide +kernel

theorem test_csrset_returns_old : (after (.csrset gt ⟨7, 5, 0x204⟩) st0).rx 7 = 0 ∧ (after (.csrset gt ⟨7, 5, 0x204⟩) st0).rngctr = 7 := by decide +kernel

theorem test_csr_unassigned : (after (.csrr gt 7 0x303) st0).tcause = 1 ∧ (after (.csrr gt 7 0x303) st0).pc = 0x200000 := by decide +kernel

theorem test_prio_capped : (after (.prio gt 3) { State.reset with cores := [(0, { core0 with cap := 1 })] }).cls = 1 := by decide +kernel

/-- The value that the sampled product reads: queued 0, cap 16, live 0. -/
theorem test_qstat_empty : (after (.qstat gt .mxq 7) st0).rx 7 = 0x1000 := by decide +kernel

/-- The SplitMix64 sequence from state 0. -/
theorem test_rand_first_word : rngWord 0 0 = 0 ∧ rngWord 0 1 = 0xE220A8397B1DCDAF := by decide +kernel

end Sys2Proof.Tests
end

