-- ==== Sys2Proof/Tests/Witness.lean ====
section
/-! SUPPORT. Witnesses: for every hypothesis of the statements, concrete states and operands that meet it. -/

open Sys2Proof Sys2Proof.Machine

namespace Sys2Proof.Tests

set_option maxRecDepth 100000
set_option Elab.async false

/-! ## The hypotheses as Booleans -/

def canonB (s : State) : Bool :=
  Memory.wf s.mem && Memory.wf s.hostMem && s.full.wfFrom 0 && s.marks.wfFrom 0 && s.cores.wfFrom 0 && s.tiles.wfFrom 0
    && s.quads.wfFrom 0 && s.dies.wfFrom 0 && s.pkgs.wfFrom 0 && s.sectors.wfFrom 0 && s.pkgMin.wfFrom 0 && s.grads.wfFrom 0
    && s.gstarve.wfFrom 0 && s.stamps.wfFrom 0 && s.hostBad.wfFrom 0

theorem canon_of {s : State} (h : canonB s = true) : s.Canon := by
  simp only [canonB, Bool.and_eq_true] at h
  obtain ⟨⟨⟨⟨⟨⟨⟨⟨⟨⟨⟨⟨⟨⟨a, b⟩, c⟩, d⟩, e⟩, f⟩, g⟩, h⟩, i⟩, j⟩, k⟩, l⟩, m⟩, n⟩, o⟩ := h
  exact ⟨a, b, c, d, e, f, g, h, i, j, k, l, m, n, o⟩

def soundB (s : State) (k w : Nat) : Bool :=
  ((s.core k).poison.find w).isNone && (namesOf (homeWordOf w)).all (fun v => ((s.core k).poison.find v).isNone)
    && !s.isMarked (homeKey k + 8 * homeWordOf w)

theorem sound_of {s : State} {k w : Nat} (h : soundB s k w = true) : s.Sound k w := by
  simp only [soundB, Bool.and_eq_true, Bool.not_eq_true', List.all_eq_true, Option.isNone_iff_eq_none] at h
  exact ⟨h.1.1, h.1.2, h.2⟩

/-- Every register of a list is sound and waits for no late writer. -/
def freeB (s : State) (k : Nat) (l : List Nat) : Bool := l.all fun w => !(s.core k).pendingWords.contains w && soundB s k w

theorem free_of {s : State} {k : Nat} {l : List Nat} (h : freeB s k l = true) :
    ∀ w ∈ l, w ∉ (s.core k).pendingWords ∧ s.Sound k w := fun w hw => by
  have := List.all_eq_true.mp h w hw
  simp only [Bool.and_eq_true, Bool.not_eq_true', List.contains_eq_mem, decide_eq_false_iff_not] at this
  exact ⟨this.1, sound_of this.2⟩

def runsB (s : State) (i : Instr) : Bool :=
  canonB s && (s.core s.me).st == .running && !refusedByRole s.me i && !refusedCsr s.me i && i.guard.eval (s.core s.me)
    && freeB s s.me (named i) && (!(s.core s.me).checked || mayPass i)

theorem runs_of {s : State} {i : Instr} (h : runsB s i = true) : s.Runs i := by
  simp only [runsB, Bool.and_eq_true, Bool.or_eq_true, Bool.not_eq_true', beq_iff_eq] at h
  obtain ⟨⟨⟨⟨⟨⟨a, b⟩, c⟩, d⟩, e⟩, f⟩, g⟩ := h
  exact ⟨canon_of a, b, c, d, e, fun w hw => (free_of f w hw).1, g, fun w hw => (free_of f w hw).2⟩

def suppB (s : State) (i : Instr) : Bool :=
  canonB s && (s.core s.me).st == .running && !refusedByRole s.me i && !refusedCsr s.me i && !i.guard.eval (s.core s.me)
    && freeB s s.me i.guardWords && freeB s s.me (named i) && !(s.core s.me).checked

theorem supp_of {s : State} {i : Instr} (h : suppB s i = true) : s.Suppresses i := by
  simp only [suppB, Bool.and_eq_true, Bool.not_eq_true', beq_iff_eq] at h
  obtain ⟨⟨⟨⟨⟨⟨⟨a, b⟩, c⟩, d⟩, e⟩, f⟩, g⟩, j⟩ := h
  exact ⟨canon_of a, b, c, d, e, fun w hw => (free_of f w hw).1, fun w hw => (free_of f w hw).2,
    fun _ => ⟨fun w hw => (free_of g w hw).1, j,
      fun w hw => (free_of g w (by simp only [named, List.mem_append]; exact .inr hw)).2⟩⟩

def lanesB (s : State) (i : Instr) : Bool :=
  canonB s && (s.core s.me).st == .running && s.laneMask i != 0 && freeB s s.me (named i) && !(s.core s.me).checked

theorem lanes_of {s : State} {i : Instr} (h : lanesB s i = true) : s.RunsLanes i := by
  simp only [lanesB, Bool.and_eq_true, Bool.not_eq_true', beq_iff_eq, bne_iff_ne] at h
  obtain ⟨⟨⟨⟨a, b⟩, c⟩, d⟩, e⟩ := h
  exact ⟨canon_of a, b, c, fun w hw => (free_of d w hw).1, e, fun w hw => (free_of d w hw).2⟩

def handlesB (s : State) (k : Nat) : Bool := (s.core k).tvec != 0 && !(s.core k).inh && (s.core k).settled

theorem handles_of {s : State} {k : Nat} (h : handlesB s k = true) : s.Handles k := by
  simp only [handlesB, Bool.and_eq_true, Bool.not_eq_true', bne_iff_ne] at h
  exact ⟨h.1.1, h.1.2, h.2⟩

def unboundB (s : State) (k : Nat) : Bool :=
  (s.core k).bwaiting.isNone && (s.tile (coreTile k)).req.isNone && (s.tile (coreTile k)).signing.isNone

theorem unbound_of {s : State} {k : Nat} (h : unboundB s k = true) : s.Unbound k := by
  simp only [unboundB, Bool.and_eq_true, Option.isNone_iff_eq_none] at h
  exact ⟨h.1.1, fun r hr => by simp [h.1.2] at hr, fun c hc => by simp [h.2] at hc⟩

theorem pair_of {α β : Type} {p : α × β} {b : β} (h : p.2 = b) : p = (p.1, b) := by subst h; rfl

/-- Every word of a list takes its effect, or is suppressed. -/
theorem runs_all {s : State} {l : List Instr} (h : l.all (runsB s) = true) : ∀ i ∈ l, s.Runs i :=
  fun i hi => runs_of (List.all_eq_true.mp h i hi)

theorem supp_all {s : State} {l : List Instr} (h : l.all (suppB s) = true) : ∀ i ∈ l, s.Suppresses i :=
  fun i hi => supp_of (List.all_eq_true.mp h i hi)

theorem lanes_all {s : State} {l : List Instr} (h : l.all (lanesB s) = true) : ∀ i ∈ l, s.RunsLanes i :=
  fun i hi => lanes_of (List.all_eq_true.mp h i hi)

/-! ## States -/

def job1 : Job := { part := 0, ctx := 1 }

/-- A tile of job 1 with half of its store as scratch, its window open to the job. -/
def tileA : Tile := { Tile.idle with job := some job1, openTo := [job1], tsplit := 8 }

def pkgA : Pkg := { Pkg.idle with parts := [(0, 0xF)], booted := true }

/-- A page of DRAM at virtual 0x500000, readable, writable and executable. -/
def pageA : Tlb :=
  { pkg := 0, job := job1, va := 0x500000, size := 0x10000, pa := 0x900000, rd := true, wr := true, ex := true, cls := 0 }

/-- Core 0 with addresses in x16 to x20: its own tile, tile 1, DRAM, the handle block of its tile, nothing. -/
def coreA : Core :=
  { core0 with
    x := ((((core0.x.set 16 0x0100000000004000).set 17 0x0100000000104000).set 18 0x500000).set 19 0x0100000000003000).set 20 0x700000
    tlb := [pageA] }

/-- A booted package whose dies are partition 0; `f` changes core 0. -/
def stC (f : Core → Core) : State :=
  { State.reset with cores := [(0, f coreA)], tiles := [(0, tileA), (1, tileA)], pkgs := [(0, pkgA)] }

def stM : State := stC id

/-- Every trap of `fpstat` enabled; x5 and x6 hold signalling NaN and f32 zero. -/
def stF : State :=
  { State.reset with cores := [(0, { core0 with fpstat := 0x1F00, x := (core0.x.set 5 0x7F800001).set 6 0 })] }

/-- Inside a trap handler, with a `tpc` that is no multiple of 8 or is. -/
def stT (a : Word) : State := { State.reset with cores := [(0, { core0 with inh := true, tpc := a })] }

/-- A thread of core 0 with or without a handler, inside one or not, in a gang or not. -/
def stTrap (tvec : Word) (inh gang : Bool) : State :=
  { State.reset with cores := [(0, { core0 with tvec := tvec, inh := inh, gang := gang, tpc := 0x300004 })] }

/-- A load of tile 1 in flight, its word 0x1122334455667788. -/
def ldA (k : LoadKind) : Load := { kind := k, hint := .keep, bad := false, reg := 7, ty := .s64, size := 8, va := 0x0100000000104000, key := tileKey 1 0x4000, a := 5, b := 0, scope := .core, acq := false, rel := false, checked := true, err := 0, pc := 0x100000, seq := 0 }
def stL (k : LoadKind) : State := (stC fun c => { c with loads := [ldA k] }).writeNat (tileKey 1 0x4000) 8 0x8122334455667788

/-- Loads by core 0 of the page of DRAM, of a handle, and of a word at a key; a state with one of them, and with what it meets. -/
def ldB (k : LoadKind) (key size : Nat) (h : Hint) : Load := { ldA k with key := key, size := size, hint := h, reg := if k = .handle then 3 else 7 }
def stLd (l : Load) (f : State → State) : State :=
  f (((stC fun c => { c with loads := [l] }).writeNat 0x900000 8 0x8122334455667788).writeNat (tileKey 1 0x4000) 8 0x8122334455667788)
def blkR : Block := { pa := 0x900000, wts := 0, rts := 8, owned := false, dirty := 0, bad := 0, data := List.replicate 64 3, low := false }
def hitD (s : State) : State := s.setTile 0 { tileA with blocks := [blkR] }
def roD (s : State) : State := s.setTile 0 { tileA with ro := [{ blkR with data := List.replicate 64 4 }] }
def cpP : Compact :=
  { id := 3, nm := 0, grid := 0, bid := 5, timeout := 1, poff := 0x80000, plen := 1, desc := 0, job := job1, signer := some 4, team := 4,
    members := [{ pkg := 0, tile := 1, pbase := 0x500000, xprog := 0 }], pinned := [(0x900000 / 1024, 0x80000)], signed := true,
    window := true, held := [] }
def pinD (s : State) : State :=
  ((s.setTile 1 { tileA with compact := some cpP }).onSector (0x900000 / 1024) fun x =>
    { x with owner := some 1, pinned := true }).writeNat (tileKey 1 0x80000) 8 77
/-- The same load by churn core 0. -/
def churn0 : CoreId := .churn 0 0
def stLch (l : Load) : State :=
  let s := stLd l id
  { s with cores := [(0, coreA), (coreKey churn0, { coreA with loads := [l] })] }

/-- A store of eight bytes to a key at the head of the store buffer. -/
def sbA (k : StoreKind) (key : Nat) : Store :=
  { kind := k, va := 0x500000, key := key, bytes := [1, 2, 3, 4, 5, 6, 7, 0x80], scope := .pod, rel := false, hint := .keep,
    pc := 0x100000, seq := 0 }
def stS (k : StoreKind) (key : Nat) : State := (stC fun c => { c with sbuf := [sbA k key] }).writeNat (tileKey 1 0x4000) 8 0x8122334455667788

/-- The same in a state that `f` changes; an owned block of the sector in tile 0; the home of a churn. -/
def stSt (e : Store) (f : State → State) : State := f ((stC fun c => { c with sbuf := [e] }).writeNat 0x900000 8 0x8122334455667788)
def mineD (s : State) : State :=
  (s.setTile 0 { tileA with blocks := [{ blkR with owned := true }] }).onSector (0x900000 / 1024) fun x => { x with owner := some 0 }
def partD (key : Nat) (s : State) : State :=
  { s with partials := [{ key := key, die := entryDie 0 key, op := .add, ty := .s32, val := 5 }] }
def stStc (e : Store) : State :=
  let s := stSt e id
  { s with cores := [(0, coreA), (coreKey churn0, { coreA with sbuf := [e] })] }

/-- A block of the page that tile 0 holds. -/
def blkA : Block :=
  { pa := 0x900000, wts := 0, rts := 8, owned := true, dirty := 1, bad := 0, data := List.replicate 64 3, low := false }
def stB : State := stM.setTile 0 { tileA with blocks := [blkA] }

/-- Tile 1 in compact mode with its window closed. -/
def cpA : Compact :=
  { id := 3, nm := 0, grid := 0, bid := 5, timeout := 1, poff := 0x80000, plen := 0, desc := 0, job := job1, signer := some 4, team := 4,
    members := [{ pkg := 0, tile := 1, pbase := 0, xprog := 0 }], pinned := [], signed := true, window := false, held := [] }
def stH : State := (stL .plain).setTile 1 { tileA with compact := some cpA }
/-- A store to that tile, and no load. -/
def stH2 : State := (stS .write (tileKey 1 0x4000)).setTile 1 { tileA with compact := some cpA }

/-! ## Witnesses -/

theorem witness_StepRunsTheDecodedInstruction_word :
    ((let s := State.reset.withFetchWord 64 0xFF00003140000000
     s.agenda = [] ∧ (s.core s.me).st = .running ∧ (s.fetch s.me).2.isSome = true ∧ ((s.fetch s.me).2.map fun bs => decodeBytes bs == .ok (.add gt ⟨6, 5, 0, .s8⟩, 8)) = some true)) :=
  by decide +kernel

theorem witness_UndecodedWordTraps_word :
    ((let s := State.reset.withFetchWord 64 0xFF00003140000001
     s.agenda = [] ∧ (s.core s.me).st = .running ∧ ((s.fetch s.me).1.core s.me).settled = true ∧ ((s.fetch s.me).2.map fun bs => decodeBytes bs == .error .reserved) = some true)) :=
  by decide +kernel

theorem witness_StepKeepsCanonicalForm_step :
    (State.reset.withFetchWord 64 0xFF00003140000000).Canon ∧
    (((match step (State.reset.withFetchWord 64 0xFF00003140000000) with | .next _ => true | _ => false) = true)) :=
  ⟨canon_of (by decide +kernel), by decide +kernel⟩

theorem witness_SuppressedWordOnlyAdvances : ∀ i ∈ ([
    .add ⟨0, 0, 0, 0⟩ ⟨7, 5, 6, .s64⟩,
    .st ⟨0, 0, 0, 0⟩ ⟨7, 5, .s64, false, .core, .keep, false, 0⟩,
    .cmp ⟨0, 0, 0, 0⟩ ⟨1, 2, .clr, .lt, 5, .reg 6, .s64⟩,
    .fcmp ⟨0, 0, 0, 0⟩ ⟨1, 2, .clr, .lt, 5, 6, .f32⟩,
    .tbit ⟨0, 0, 0, 0⟩ ⟨1, 2, .clr, false, 5, 63⟩,
    .trap ⟨0, 0, 0, 0⟩ 0xFFFF] : List Instr), (st0).Suppresses i :=
  supp_all (by decide +kernel)

theorem witness_IntegerRegisterResults : ∀ i ∈ ([
    .add gt ⟨0, 5, 6, .s64⟩,
    .sub gt ⟨31, 5, 6, .s64⟩,
    .mul gt ⟨31, 5, 6, .s64⟩,
    .mulh gt ⟨31, 5, 6, .s64⟩,
    .div gt ⟨31, 5, 6, .s64⟩,
    .rem gt ⟨31, 5, 6, .s64⟩,
    .and gt ⟨31, 5, 6, .s64⟩,
    .or gt ⟨31, 5, 6, .s64⟩,
    .xor gt ⟨31, 5, 6, .s64⟩,
    .andn gt ⟨31, 5, 6, .s64⟩,
    .sll gt ⟨31, 5, 6, .s64⟩,
    .srl gt ⟨31, 5, 6, .s64⟩,
    .sra gt ⟨31, 5, 6, .s64⟩,
    .rot gt ⟨31, 5, 6, .s64⟩,
    .min gt ⟨31, 5, 6, .s64⟩,
    .max gt ⟨31, 5, 6, .s64⟩] : List Instr), (st0).Runs i :=
  runs_all (by decide +kernel)

theorem witness_IntegerImmediateResults : ∀ i ∈ ([
    .addImm gt ⟨7, 5, .n8, 0x800000⟩,
    .mulImm gt ⟨7, 5, .n8, 0x800000⟩,
    .andImm gt ⟨7, 5, .n8, 0x800000⟩,
    .orImm gt ⟨7, 5, .n8, 0x800000⟩,
    .xorImm gt ⟨7, 5, .n8, 0x800000⟩,
    .andnImm gt ⟨7, 5, .n8, 0x800000⟩,
    .sllImm gt ⟨7, 5, .n8, 63⟩,
    .srlImm gt ⟨7, 5, .n8, 63⟩,
    .sraImm gt ⟨7, 5, .n8, 63⟩,
    .rotImm gt ⟨7, 5, .n8, 63⟩,
    .minImm gt ⟨7, 5, .n8, 0x800000⟩,
    .maxImm gt ⟨7, 5, .n8, 0x800000⟩] : List Instr), (st0).Runs i :=
  runs_all (by decide +kernel)

theorem witness_OneSourceResults : ∀ i ∈ ([
    .clz gt ⟨7, 5, .s64⟩,
    .ctz gt ⟨7, 0, .n8⟩,
    .popc gt ⟨7, 5, .s64⟩,
    .sext gt ⟨7, 5, .s32⟩,
    .zext gt ⟨7, 5, .n32⟩] : List Instr), (st0).Runs i :=
  runs_all (by decide +kernel)

theorem witness_ConstantsAndAddresses : ∀ i ∈ ([
    .li gt 7 0x7FFFFFFFF,
    .lih gt 7 0xFFFFFFFF,
    .lea gt ⟨7, 5, 0x80000⟩,
    .adr gt 7 0x400000000,
    .padr gt 7 5 6] : List Instr), (st0).Runs i :=
  runs_all (by decide +kernel)

theorem witness_FloatResults : ∀ i ∈ ([
    .fadd gt ⟨7, 5, 6, .f32, .rne⟩,
    .fsub gt ⟨7, 5, 6, .f64, .rtz⟩,
    .fmul gt ⟨7, 5, 6, .f32, .rup⟩,
    .fma gt ⟨7, 5, 6, 5, .f64, .rdn⟩,
    .fdiv gt ⟨7, 5, 6, .f32, .rne⟩,
    .fsqrt gt ⟨7, 5, .f32, .rne⟩,
    .fmin gt ⟨7, 5, 6, .f32⟩,
    .fmax gt ⟨7, 5, 6, .f64⟩,
    .fcvt gt ⟨7, 5, .f32, .int .s64, .rne⟩] : List Instr), (st0).Runs i :=
  runs_all (by decide +kernel)

theorem witness_FloatResults_flags : ∀ f : Flags, (st0.core 0).fpTraps f = false := by decide +kernel

theorem witness_FloatTrap_fadd :
    (stF).Runs (.fadd gt ⟨7, 5, 6, .f32, .rne⟩) ∧
    (stF).Unbound 0 ∧
    (((stF.core 0).settled = true) ∧ ((stF.core 0).fpTraps ((FTy.f32).pack .rne (Val.add .rne (FTy.f32.val ((stF.core 0).rx 5)) (FTy.f32.val ((stF.core 0).rx 6)))).2 = true) ∧ ((stF.core 0).tvec ≠ 0) ∧ ((stF.core 0).inh = false) ∧ ((stF.core 0).gang = false)) :=
  ⟨runs_of (by decide +kernel), unbound_of (by decide +kernel), by decide +kernel⟩

theorem witness_FloatTrap_fdiv :
    (stF).Runs (.fdiv gt ⟨7, 5, 6, .f32, .rne⟩) ∧
    (stF).Unbound 0 ∧
    (((stF.core 0).settled = true) ∧ ((stF.core 0).fpTraps ((FTy.f32).pack .rne (Val.div (FTy.f32.val ((stF.core 0).rx 5)) (FTy.f32.val ((stF.core 0).rx 6)))).2 = true) ∧ ((stF.core 0).tvec ≠ 0) ∧ ((stF.core 0).inh = false) ∧ ((stF.core 0).gang = false)) :=
  ⟨runs_of (by decide +kernel), unbound_of (by decide +kernel), by decide +kernel⟩

theorem witness_FloatTrap_fcmp :
    (stF).Runs (.fcmp gt ⟨1, 2, .set, .lt, 5, 6, .f32⟩) ∧
    (stF).Unbound 0 ∧
    (((stF.core 0).settled = true) ∧ ((stF.core 0).fpTraps (fpCond .lt (FTy.f32.val ((stF.core 0).rx 5)) (FTy.f32.val ((stF.core 0).rx 6))).2 = true) ∧ ((stF.core 0).tvec ≠ 0) ∧ ((stF.core 0).inh = false) ∧ ((stF.core 0).gang = false)) :=
  ⟨runs_of (by decide +kernel), unbound_of (by decide +kernel), by decide +kernel⟩

theorem witness_CompareResults : ∀ i ∈ ([
    .cmp gt ⟨1, 2, .set, .eq, 5, .reg 6, .s64⟩,
    .cmp gt ⟨0, 0, .clr, .gt, 5, .imm 0x2000, .n8⟩,
    .cmp gt ⟨1, 1, .and, .le, 5, .reg 5, .s8⟩,
    .cmp gt ⟨1, 2, .or, .ne, 5, .reg 0, .s64⟩,
    .fcmp gt ⟨1, 2, .set, .uno, 5, 6, .f32⟩,
    .fclass gt ⟨7, 5, .f64⟩] : List Instr), (st0).Runs i :=
  runs_all (by decide +kernel)

theorem witness_PredicateResults : ∀ i ∈ ([
    .tbit gt ⟨1, 2, .set, true, 5, 63⟩,
    .plog gt ⟨3, 0x80, 0, 1, 2⟩,
    .pmovToX gt 7,
    .pmovToPr gt 5] : List Instr), (st0).Runs i :=
  runs_all (by decide +kernel)

theorem witness_BranchesAndJumps_branch :
    (st0).Runs (.br gt 0x80000000) ∧
    (st0).Runs (.call gt 0) ∧
    (st0).Runs (.jr gt 6 6) ∧
    ((((st0.core 0).rx 6).toNat % 8 = 0)) :=
  ⟨runs_of (by decide +kernel), runs_of (by decide +kernel), runs_of (by decide +kernel), by decide +kernel⟩

theorem witness_BranchesAndJumps_unaligned :
    (st0).Runs (.jr gt 0 5) ∧
    (st0).Handles 0 ∧
    (st0).Unbound 0 ∧
    ((((st0.core 0).rx 5).toNat % 8 ≠ 0)) :=
  ⟨runs_of (by decide +kernel), handles_of (by decide +kernel), unbound_of (by decide +kernel), by decide +kernel⟩

theorem witness_TrapDirection_directions :
    (st0).Unbound 0 ∧
    (((st0.core 0).tvec ≠ 0 ∧ (st0.core 0).inh = false ∧ (st0.core 0).gang = false) ∧ ((st0.core 1).tvec = 0) ∧ ((1 : Nat) ≠ 6 ∧ (1 : Nat) ≠ 9 ∧ (1 : Nat) ≠ 13)) :=
  ⟨unbound_of (by decide +kernel), by decide +kernel⟩

theorem witness_SoftTrapAndReturn_handled :
    (stTrap 0x200000 false false).Runs (.trap gt 0xFFFF) ∧
    (stTrap 0x200000 false false).Runs (.eret gt) ∧
    ((((stTrap 0x200000 false false).core 0).settled = true) ∧ (((stTrap 0x200000 false false).core 0).tpc.toNat % 8 ≠ 0) ∧ (((stTrap 0x200000 false false).core 0).tvec ≠ 0) ∧ (((stTrap 0x200000 false false).core 0).inh = false) ∧ (((stTrap 0x200000 false false).core 0).gang = false)) :=
  ⟨runs_of (by decide +kernel), runs_of (by decide +kernel), by decide +kernel⟩

theorem witness_SoftTrapAndReturn_stopped :
    (stTrap 0 false true).Runs (.trap gt 0) ∧
    (stTrap 0x200000 true true).Runs (.eret gt) ∧
    ((((stTrap 0 false true).core 0).settled = true) ∧ (((stTrap 0 false true).core 0).tvec = 0) ∧ (((stTrap 0x200000 true true).core 0).settled = true) ∧ (((stTrap 0x200000 true true).core 0).tpc.toNat % 8 ≠ 0) ∧ (((stTrap 0x200000 true true).core 0).inh = true)) :=
  ⟨runs_of (by decide +kernel), runs_of (by decide +kernel), by decide +kernel⟩

theorem witness_SoftTrapAndReturn_eret :
    (stT 0x300008).Runs (.eret gt) ∧
    ((((stT 0x300008).core 0).tpc.toNat % 8 = 0)) :=
  ⟨runs_of (by decide +kernel), by decide +kernel⟩

theorem witness_EncodedWordDecodes_trap :
    (((Instr.trap gt 0x42).isWord = true) ∧ ((Instr.trap gt 0x42).wf = true)) :=
  by decide +kernel

theorem witness_DecodedWordEncodes_trap :
    ((decodeWord 0xFF00710000000042 0 = .ok (.trap ⟨0xFF, 0, 0, 0⟩ 0x42))) :=
  by decide +kernel

theorem witness_TrapDirection_gang :
    (stTrap 0x200000 false true).Unbound 0 ∧
    ((((stTrap 0x200000 false true).core 0).tvec ≠ 0 ∧ ((stTrap 0x200000 false true).core 0).inh = false ∧ ((stTrap 0x200000 false true).core 0).gang = true)) :=
  ⟨unbound_of (by decide +kernel), by decide +kernel⟩

theorem witness_AddressChecks_not_canonical :
    ((canonical 0x8000000000000000 = false) ∧ (canonical 0x500001 = true ∧ 0x500001 % 8 ≠ 0) ∧ (inWindow 0x0100000000104000 = true ∧ 0x0100000000104000 % 8 = 0 ∧ Need.rd ≠ .ex ∧ stM.nonMembers.contains (0x0100000000104000 / 2 ^ 30 % 1024) = false)) :=
  by decide +kernel

theorem witness_MemoryWordTraps_ld :
    (stM).Runs (.ld gt ⟨7, 20, .s64, false, .core, .keep, false, 0⟩) ∧
    (stM).Unbound 0 ∧
    (∃ v, (stM.ready (.ld gt ⟨7, 20, .s64, false, .core, .keep, false, 0⟩)).checkAddr 0 ((stM.core 0).rx 20 + (0 : BitVec 20).signExtend 64) 8 .rd = (v, .error 5) ∧ ((stM.core 0).settled = true) ∧ ((stM.core 0).tvec ≠ 0) ∧ ((stM.core 0).inh = false) ∧ ((stM.core 0).gang = false)) :=
  ⟨runs_of (by decide +kernel), unbound_of (by decide +kernel), ⟨_, pair_of (by decide +kernel), by decide +kernel⟩⟩

theorem witness_MemoryWordTraps_st :
    (stM).Runs (.st gt ⟨7, 20, .s64, false, .core, .keep, false, 0⟩) ∧
    (stM).Unbound 0 ∧
    (∃ v, (stM.ready (.st gt ⟨7, 20, .s64, false, .core, .keep, false, 0⟩)).checkAddr 0 ((stM.core 0).rx 20 + (0 : BitVec 20).signExtend 64) 8 .wr = (v, .error 5) ∧ ((stM.core 0).settled = true) ∧ ((stM.core 0).tvec ≠ 0) ∧ ((stM.core 0).inh = false) ∧ ((stM.core 0).gang = false)) :=
  ⟨runs_of (by decide +kernel), unbound_of (by decide +kernel), ⟨_, pair_of (by decide +kernel), by decide +kernel⟩⟩

theorem witness_MemoryWordTraps_lds :
    (stM).Runs (.lds gt ⟨7, 16, .s64, false, .core, .keep, false, 1⟩) ∧
    (stM).Unbound 0 ∧
    (∃ v, (stM.ready (.lds gt ⟨7, 16, .s64, false, .core, .keep, false, 1⟩)).checkAddr 0 ((stM.core 0).rx 16 + (1 : BitVec 20).signExtend 64) 8 .rd = (v, .error 4) ∧ ((stM.core 0).settled = true) ∧ ((stM.core 0).tvec ≠ 0) ∧ ((stM.core 0).inh = false) ∧ ((stM.core 0).gang = false)) :=
  ⟨runs_of (by decide +kernel), unbound_of (by decide +kernel), ⟨_, pair_of (by decide +kernel), by decide +kernel⟩⟩

theorem witness_MemoryWordTraps_stf :
    (stM).Runs (.stf gt ⟨7, 16, .s64, false, .core, .keep, false, 1⟩) ∧
    (stM).Unbound 0 ∧
    (∃ v, (stM.ready (.stf gt ⟨7, 16, .s64, false, .core, .keep, false, 1⟩)).checkAddr 0 ((stM.core 0).rx 16 + (1 : BitVec 20).signExtend 64) 8 .wr = (v, .error 4) ∧ ((stM.core 0).settled = true) ∧ ((stM.core 0).tvec ≠ 0) ∧ ((stM.core 0).inh = false) ∧ ((stM.core 0).gang = false)) :=
  ⟨runs_of (by decide +kernel), unbound_of (by decide +kernel), ⟨_, pair_of (by decide +kernel), by decide +kernel⟩⟩

theorem witness_MemoryWordTraps_ldc :
    (stM).Runs (.ldc gt ⟨7, 20, .s64, false, .core, .keep, false, 0⟩) ∧
    (stM).Unbound 0 ∧
    (∃ v, (stM.ready (.ldc gt ⟨7, 20, .s64, false, .core, .keep, false, 0⟩)).checkAddr 0 ((stM.core 0).rx 20 + (0 : BitVec 20).signExtend 64) 8 .rd = (v, .error 5) ∧ ((stM.core 0).settled = true) ∧ ((stM.core 0).tvec ≠ 0) ∧ ((stM.core 0).inh = false) ∧ ((stM.core 0).gang = false)) :=
  ⟨runs_of (by decide +kernel), unbound_of (by decide +kernel), ⟨_, pair_of (by decide +kernel), by decide +kernel⟩⟩

theorem witness_MemoryWordTraps_hld :
    (stM).Runs (.hld gt ⟨3, 16, false, .core, .keep, 8⟩) ∧
    (stM).Unbound 0 ∧
    (∃ v, (stM.ready (.hld gt ⟨3, 16, false, .core, .keep, 8⟩)).checkAddr 0 ((stM.core 0).rx 16 + (8 : BitVec 20).signExtend 64) 32 .rd = (v, .error 4) ∧ ((stM.core 0).settled = true) ∧ ((stM.core 0).tvec ≠ 0) ∧ ((stM.core 0).inh = false) ∧ ((stM.core 0).gang = false)) :=
  ⟨runs_of (by decide +kernel), unbound_of (by decide +kernel), ⟨_, pair_of (by decide +kernel), by decide +kernel⟩⟩

theorem witness_MemoryWordTraps_hst :
    (stM).Runs (.hst gt ⟨3, 20, false, .core, .keep, 0⟩) ∧
    (stM).Unbound 0 ∧
    (∃ v, (stM.ready (.hst gt ⟨3, 20, false, .core, .keep, 0⟩)).checkAddr 0 ((stM.core 0).rx 20 + (0 : BitVec 20).signExtend 64) 32 .wr = (v, .error 5) ∧ ((stM.core 0).settled = true) ∧ ((stM.core 0).tvec ≠ 0) ∧ ((stM.core 0).inh = false) ∧ ((stM.core 0).gang = false)) :=
  ⟨runs_of (by decide +kernel), unbound_of (by decide +kernel), ⟨_, pair_of (by decide +kernel), by decide +kernel⟩⟩

theorem witness_MemoryWordTraps_amo :
    (stM).Runs (.amo gt ⟨7, 20, 5, .s64, .core, .add, .plain⟩) ∧
    (stM).Unbound 0 ∧
    (∃ v, (stM.ready (.amo gt ⟨7, 20, 5, .s64, .core, .add, .plain⟩)).checkAddr 0 ((stM.core 0).rx 20) 8 .rw = (v, .error 5) ∧ ((stM.core 0).settled = true) ∧ ((stM.core 0).tvec ≠ 0) ∧ ((stM.core 0).inh = false) ∧ ((stM.core 0).gang = false)) :=
  ⟨runs_of (by decide +kernel), unbound_of (by decide +kernel), ⟨_, pair_of (by decide +kernel), by decide +kernel⟩⟩

theorem witness_ShortLoads_ld :
    (stM).Runs (.ld gt ⟨7, 16, .s64, false, .core, .keep, false, 0⟩) ∧
    (∃ v, (stM.ready (.ld gt ⟨7, 16, .s64, false, .core, .keep, false, 0⟩)).checkAddr 0 ((stM.core 0).rx 16 + (0 : BitVec 20).signExtend 64) 8 .rd = (v, .ok (tileKey 0 0x4000)) ∧ (isShort 0 (tileKey 0 0x4000) = true) ∧ (v.splitHeld 0 (tileKey 0 0x4000) = false) ∧ ((v.closeWindow 0 (tileKey 0 0x4000)).route ((v.closeWindow 0 (tileKey 0 0x4000)).master 0) (tileKey 0 0x4000) false ≠ .page) ∧ ((v.closeWindow 0 (tileKey 0 0x4000)).route ((v.closeWindow 0 (tileKey 0 0x4000)).master 0) (tileKey 0 0x4000) false ≠ .refuse) ∧ ((stM.core 0).loads = []) ∧ ((v.closeWindow 0 (tileKey 0 0x4000)).readBlocked (stM.core 0).sbuf (tileKey 0 0x4000) 8 = false) ∧ ((v.closeWindow 0 (tileKey 0 0x4000)).readsBad 0 (stM.core 0).sbuf (tileKey 0 0x4000) 8 = false)) :=
  ⟨runs_of (by decide +kernel), ⟨_, pair_of (by decide +kernel), by decide +kernel⟩⟩

theorem witness_ShortLoads_ldc :
    (stM).Runs (.ldc gt ⟨7, 16, .s64, false, .core, .keep, false, 0⟩) ∧
    (∃ v, (stM.ready (.ldc gt ⟨7, 16, .s64, false, .core, .keep, false, 0⟩)).checkAddr 0 ((stM.core 0).rx 16 + (0 : BitVec 20).signExtend 64) 8 .rd = (v, .ok (tileKey 0 0x4000)) ∧ (isShort 0 (tileKey 0 0x4000) = true) ∧ (v.splitHeld 0 (tileKey 0 0x4000) = false) ∧ ((v.closeWindow 0 (tileKey 0 0x4000)).route ((v.closeWindow 0 (tileKey 0 0x4000)).master 0) (tileKey 0 0x4000) false ≠ .page) ∧ ((v.closeWindow 0 (tileKey 0 0x4000)).route ((v.closeWindow 0 (tileKey 0 0x4000)).master 0) (tileKey 0 0x4000) false ≠ .refuse) ∧ ((stM.core 0).loads = []) ∧ ((v.closeWindow 0 (tileKey 0 0x4000)).readBlocked (stM.core 0).sbuf (tileKey 0 0x4000) 8 = false) ∧ ((v.closeWindow 0 (tileKey 0 0x4000)).readsBad 0 (stM.core 0).sbuf (tileKey 0 0x4000) 8 = false)) :=
  ⟨runs_of (by decide +kernel), ⟨_, pair_of (by decide +kernel), by decide +kernel⟩⟩

theorem witness_ShortLoads_lds :
    ((stM.setFull (tileKey 0 0x4000) true)).Runs (.lds gt ⟨7, 16, .s64, false, .core, .keep, false, 0⟩) ∧
    (∃ v, ((stM.setFull (tileKey 0 0x4000) true).ready (.lds gt ⟨7, 16, .s64, false, .core, .keep, false, 0⟩)).checkAddr 0 ((stM.core 0).rx 16 + (0 : BitVec 20).signExtend 64) 8 .rd = (v, .ok (tileKey 0 0x4000)) ∧ (isShort 0 (tileKey 0 0x4000) = true) ∧ (v.splitHeld 0 (tileKey 0 0x4000) = false) ∧ ((v.closeWindow 0 (tileKey 0 0x4000)).route ((v.closeWindow 0 (tileKey 0 0x4000)).master 0) (tileKey 0 0x4000) false ≠ .page) ∧ ((v.closeWindow 0 (tileKey 0 0x4000)).route ((v.closeWindow 0 (tileKey 0 0x4000)).master 0) (tileKey 0 0x4000) false ≠ .refuse) ∧ (((stM.setFull (tileKey 0 0x4000) true).core 0).loads = []) ∧ ((v.closeWindow 0 (tileKey 0 0x4000)).readBlocked ((stM.setFull (tileKey 0 0x4000) true).core 0).sbuf (tileKey 0 0x4000) 8 = false) ∧ ((v.closeWindow 0 (tileKey 0 0x4000)).readsBad 0 ((stM.setFull (tileKey 0 0x4000) true).core 0).sbuf (tileKey 0 0x4000) 8 = false) ∧ ((v.closeWindow 0 (tileKey 0 0x4000)).fullRange (tileKey 0 0x4000) = true) ∧ ((v.closeWindow 0 (tileKey 0 0x4000)).bankTurn 0 (tileKey 0 0x4000) none = true)) :=
  ⟨runs_of (by decide +kernel), ⟨_, pair_of (by decide +kernel), by decide +kernel⟩⟩

theorem witness_ShortLoads_take :
    ((stM.setFull (tileKey 0 0x4000) true)).Runs (.lds gt ⟨7, 16, .s64, false, .core, .keep, true, 0⟩) ∧
    (∃ v, ((stM.setFull (tileKey 0 0x4000) true).ready (.lds gt ⟨7, 16, .s64, false, .core, .keep, true, 0⟩)).checkAddr 0 ((stM.core 0).rx 16 + (0 : BitVec 20).signExtend 64) 8 .rd = (v, .ok (tileKey 0 0x4000)) ∧ (isShort 0 (tileKey 0 0x4000) = true) ∧ (v.splitHeld 0 (tileKey 0 0x4000) = false) ∧ ((v.closeWindow 0 (tileKey 0 0x4000)).route ((v.closeWindow 0 (tileKey 0 0x4000)).master 0) (tileKey 0 0x4000) false ≠ .page) ∧ ((v.closeWindow 0 (tileKey 0 0x4000)).route ((v.closeWindow 0 (tileKey 0 0x4000)).master 0) (tileKey 0 0x4000) false ≠ .refuse) ∧ (((stM.setFull (tileKey 0 0x4000) true).core 0).loads = []) ∧ ((v.closeWindow 0 (tileKey 0 0x4000)).readBlocked ((stM.setFull (tileKey 0 0x4000) true).core 0).sbuf (tileKey 0 0x4000) 8 = false) ∧ ((v.closeWindow 0 (tileKey 0 0x4000)).readsBad 0 ((stM.setFull (tileKey 0 0x4000) true).core 0).sbuf (tileKey 0 0x4000) 8 = false) ∧ ((v.closeWindow 0 (tileKey 0 0x4000)).fullRange (tileKey 0 0x4000) = true) ∧ ((v.closeWindow 0 (tileKey 0 0x4000)).bankTurn 0 (tileKey 0 0x4000) none = true)) :=
  ⟨runs_of (by decide +kernel), ⟨_, pair_of (by decide +kernel), by decide +kernel⟩⟩

theorem witness_LongLoadsEnter_ld :
    (stM).Runs (.ld gt ⟨7, 17, .s64, false, .core, .keep, false, 0⟩) ∧
    (∃ v, (stM.ready (.ld gt ⟨7, 17, .s64, false, .core, .keep, false, 0⟩)).checkAddr 0 ((stM.core 0).rx 17 + (0 : BitVec 20).signExtend 64) 8 .rd = (v, .ok (tileKey 1 0x4000)) ∧ (v.splitHeld 0 (tileKey 1 0x4000) = false) ∧ ((v.closeWindow 0 (tileKey 1 0x4000)).routeLoad ((v.closeWindow 0 (tileKey 1 0x4000)).master 0) (tileKey 1 0x4000) false ≠ .page) ∧ ((v.closeWindow 0 (tileKey 1 0x4000)).routeLoad ((v.closeWindow 0 (tileKey 1 0x4000)).master 0) (tileKey 1 0x4000) false ≠ .dead) ∧ ((stM.core 0).loads.length < 64) ∧ (isShort 0 (tileKey 1 0x4000) = false)) :=
  ⟨runs_of (by decide +kernel), ⟨_, pair_of (by decide +kernel), by decide +kernel⟩⟩

theorem witness_LongLoadsEnter_ldc :
    (stM).Runs (.ldc gt ⟨7, 18, .s64, false, .core, .keep, false, 0⟩) ∧
    (∃ v, (stM.ready (.ldc gt ⟨7, 18, .s64, false, .core, .keep, false, 0⟩)).checkAddr 0 ((stM.core 0).rx 18 + (0 : BitVec 20).signExtend 64) 8 .rd = (v, .ok 0x900000) ∧ (v.splitHeld 0 0x900000 = false) ∧ ((v.closeWindow 0 0x900000).routeLoad ((v.closeWindow 0 0x900000).master 0) 0x900000 false ≠ .page) ∧ ((v.closeWindow 0 0x900000).routeLoad ((v.closeWindow 0 0x900000).master 0) 0x900000 false ≠ .dead) ∧ ((stM.core 0).loads.length < 64) ∧ (isShort 0 0x900000 = false)) :=
  ⟨runs_of (by decide +kernel), ⟨_, pair_of (by decide +kernel), by decide +kernel⟩⟩

theorem witness_LongLoadsEnter_lds :
    (stM).Runs (.lds gt ⟨7, 17, .s64, false, .core, .keep, false, 0⟩) ∧
    (∃ v, (stM.ready (.lds gt ⟨7, 17, .s64, false, .core, .keep, false, 0⟩)).checkAddr 0 ((stM.core 0).rx 17 + (0 : BitVec 20).signExtend 64) 8 .rd = (v, .ok (tileKey 1 0x4000)) ∧ (v.splitHeld 0 (tileKey 1 0x4000) = false) ∧ ((v.closeWindow 0 (tileKey 1 0x4000)).routeLoad ((v.closeWindow 0 (tileKey 1 0x4000)).master 0) (tileKey 1 0x4000) false ≠ .page) ∧ ((v.closeWindow 0 (tileKey 1 0x4000)).routeLoad ((v.closeWindow 0 (tileKey 1 0x4000)).master 0) (tileKey 1 0x4000) false ≠ .dead) ∧ ((stM.core 0).loads.length < 64) ∧ (isShort 0 (tileKey 1 0x4000) = false) ∧ ((v.closeWindow 0 (tileKey 1 0x4000)).fullRange (tileKey 1 0x4000) = true ∨ (v.closeWindow 0 (tileKey 1 0x4000)).killedRange (tileKey 1 0x4000) = true)) :=
  ⟨runs_of (by decide +kernel), ⟨_, pair_of (by decide +kernel), by decide +kernel⟩⟩

theorem witness_LongLoadsEnter_take :
    (stM).Runs (.lds gt ⟨7, 17, .s64, false, .core, .keep, true, 0⟩) ∧
    (∃ v, (stM.ready (.lds gt ⟨7, 17, .s64, false, .core, .keep, true, 0⟩)).checkAddr 0 ((stM.core 0).rx 17 + (0 : BitVec 20).signExtend 64) 8 .rd = (v, .ok (tileKey 1 0x4000)) ∧ (v.splitHeld 0 (tileKey 1 0x4000) = false) ∧ ((v.closeWindow 0 (tileKey 1 0x4000)).routeLoad ((v.closeWindow 0 (tileKey 1 0x4000)).master 0) (tileKey 1 0x4000) false ≠ .page) ∧ ((v.closeWindow 0 (tileKey 1 0x4000)).routeLoad ((v.closeWindow 0 (tileKey 1 0x4000)).master 0) (tileKey 1 0x4000) false ≠ .dead) ∧ ((stM.core 0).loads.length < 64) ∧ (isShort 0 (tileKey 1 0x4000) = false) ∧ ((v.closeWindow 0 (tileKey 1 0x4000)).fullRange (tileKey 1 0x4000) = true ∨ (v.closeWindow 0 (tileKey 1 0x4000)).killedRange (tileKey 1 0x4000) = true)) :=
  ⟨runs_of (by decide +kernel), ⟨_, pair_of (by decide +kernel), by decide +kernel⟩⟩

theorem witness_LongLoadsEnter_hld :
    (stM).Runs (.hld gt ⟨3, 17, false, .core, .keep, 0⟩) ∧
    (∃ v, (stM.ready (.hld gt ⟨3, 17, false, .core, .keep, 0⟩)).checkAddr 0 ((stM.core 0).rx 17 + (0 : BitVec 20).signExtend 64) 32 .rd = (v, .ok (tileKey 1 0x4000)) ∧ (v.splitHeld 0 (tileKey 1 0x4000) = false) ∧ ((v.closeWindow 0 (tileKey 1 0x4000)).routeLoad ((v.closeWindow 0 (tileKey 1 0x4000)).master 0) (tileKey 1 0x4000) false ≠ .page) ∧ ((v.closeWindow 0 (tileKey 1 0x4000)).routeLoad ((v.closeWindow 0 (tileKey 1 0x4000)).master 0) (tileKey 1 0x4000) false ≠ .dead) ∧ ((stM.core 0).loads.length < 64)) :=
  ⟨runs_of (by decide +kernel), ⟨_, pair_of (by decide +kernel), by decide +kernel⟩⟩

theorem witness_LongLoadsEnter_amo :
    (stM).Runs (.amo gt ⟨7, 16, 5, .s64, .core, .add, .plain⟩) ∧
    (∃ v, (stM.ready (.amo gt ⟨7, 16, 5, .s64, .core, .add, .plain⟩)).checkAddr 0 ((stM.core 0).rx 16) 8 .rw = (v, .ok (tileKey 0 0x4000)) ∧ (v.splitHeld 0 (tileKey 0 0x4000) = false) ∧ ((v.closeWindow 0 (tileKey 0 0x4000)).routeLoad ((v.closeWindow 0 (tileKey 0 0x4000)).master 0) (tileKey 0 0x4000) true ≠ .page) ∧ ((v.closeWindow 0 (tileKey 0 0x4000)).routeLoad ((v.closeWindow 0 (tileKey 0 0x4000)).master 0) (tileKey 0 0x4000) true ≠ .dead) ∧ ((stM.core 0).loads.length < 64)) :=
  ⟨runs_of (by decide +kernel), ⟨_, pair_of (by decide +kernel), by decide +kernel⟩⟩

theorem witness_LongLoadsEnter_cas :
    (stM).Runs (.cas gt ⟨7, 17, 5, 6, .s64, .core, .plain⟩) ∧
    (∃ v, (stM.ready (.cas gt ⟨7, 17, 5, 6, .s64, .core, .plain⟩)).checkAddr 0 ((stM.core 0).rx 17) 8 .rw = (v, .ok (tileKey 1 0x4000)) ∧ (v.splitHeld 0 (tileKey 1 0x4000) = false) ∧ ((v.closeWindow 0 (tileKey 1 0x4000)).routeLoad ((v.closeWindow 0 (tileKey 1 0x4000)).master 0) (tileKey 1 0x4000) true ≠ .page) ∧ ((v.closeWindow 0 (tileKey 1 0x4000)).routeLoad ((v.closeWindow 0 (tileKey 1 0x4000)).master 0) (tileKey 1 0x4000) true ≠ .dead) ∧ ((stM.core 0).loads.length < 64)) :=
  ⟨runs_of (by decide +kernel), ⟨_, pair_of (by decide +kernel), by decide +kernel⟩⟩

theorem witness_LongLoadAnswers_plain :
    ((stLd (ldB .plain (tileKey 1 0x4000) 8 .keep) id)).Canon ∧
    ((((stLd (ldB .plain (tileKey 1 0x4000) 8 .keep) id).core 0).loads = [ldB .plain (tileKey 1 0x4000) 8 .keep]) ∧ (((stLd (ldB .plain (tileKey 1 0x4000) 8 .keep) id).core 0).st = .running) ∧ ((stLd (ldB .plain (tileKey 1 0x4000) 8 .keep) id).splitHeld 0 (ldB .plain (tileKey 1 0x4000) 8 .keep).key = false) ∧ ((stLd (ldB .plain (tileKey 1 0x4000) 8 .keep) id).routeLoad ((stLd (ldB .plain (tileKey 1 0x4000) 8 .keep) id).master 0) (ldB .plain (tileKey 1 0x4000) 8 .keep).key (Load.writes (ldB .plain (tileKey 1 0x4000) 8 .keep)) = .ok) ∧ ((stLd (ldB .plain (tileKey 1 0x4000) 8 .keep) id).loadReady 0 (ldB .plain (tileKey 1 0x4000) 8 .keep) = true) ∧ (isDram ((ldB .plain (tileKey 1 0x4000) 8 .keep)).key = false)) :=
  ⟨canon_of (by decide +kernel), by decide +kernel⟩

theorem witness_LongLoadAnswers_wait :
    ((stLd (ldB .wait (tileKey 1 0x4000) 8 .keep) (fun s => s.setFull (tileKey 1 0x4000) true))).Canon ∧
    ((((stLd (ldB .wait (tileKey 1 0x4000) 8 .keep) (fun s => s.setFull (tileKey 1 0x4000) true)).core 0).loads = [ldB .wait (tileKey 1 0x4000) 8 .keep]) ∧ (((stLd (ldB .wait (tileKey 1 0x4000) 8 .keep) (fun s => s.setFull (tileKey 1 0x4000) true)).core 0).st = .running) ∧ ((stLd (ldB .wait (tileKey 1 0x4000) 8 .keep) (fun s => s.setFull (tileKey 1 0x4000) true)).splitHeld 0 (ldB .wait (tileKey 1 0x4000) 8 .keep).key = false) ∧ ((stLd (ldB .wait (tileKey 1 0x4000) 8 .keep) (fun s => s.setFull (tileKey 1 0x4000) true)).routeLoad ((stLd (ldB .wait (tileKey 1 0x4000) 8 .keep) (fun s => s.setFull (tileKey 1 0x4000) true)).master 0) (ldB .wait (tileKey 1 0x4000) 8 .keep).key (Load.writes (ldB .wait (tileKey 1 0x4000) 8 .keep)) = .ok) ∧ ((stLd (ldB .wait (tileKey 1 0x4000) 8 .keep) (fun s => s.setFull (tileKey 1 0x4000) true)).loadReady 0 (ldB .wait (tileKey 1 0x4000) 8 .keep) = true) ∧ ((stLd (ldB .wait (tileKey 1 0x4000) 8 .keep) (fun s => s.setFull (tileKey 1 0x4000) true)).fullRange ((ldB .wait (tileKey 1 0x4000) 8 .keep)).key = true)) :=
  ⟨canon_of (by decide +kernel), by decide +kernel⟩

theorem witness_LongLoadAnswers_take :
    ((stLd (ldB .take (tileKey 1 0x4000) 8 .keep) (fun s => s.setFull (tileKey 1 0x4000) true))).Canon ∧
    ((((stLd (ldB .take (tileKey 1 0x4000) 8 .keep) (fun s => s.setFull (tileKey 1 0x4000) true)).core 0).loads = [ldB .take (tileKey 1 0x4000) 8 .keep]) ∧ (((stLd (ldB .take (tileKey 1 0x4000) 8 .keep) (fun s => s.setFull (tileKey 1 0x4000) true)).core 0).st = .running) ∧ ((stLd (ldB .take (tileKey 1 0x4000) 8 .keep) (fun s => s.setFull (tileKey 1 0x4000) true)).splitHeld 0 (ldB .take (tileKey 1 0x4000) 8 .keep).key = false) ∧ ((stLd (ldB .take (tileKey 1 0x4000) 8 .keep) (fun s => s.setFull (tileKey 1 0x4000) true)).routeLoad ((stLd (ldB .take (tileKey 1 0x4000) 8 .keep) (fun s => s.setFull (tileKey 1 0x4000) true)).master 0) (ldB .take (tileKey 1 0x4000) 8 .keep).key (Load.writes (ldB .take (tileKey 1 0x4000) 8 .keep)) = .ok) ∧ ((stLd (ldB .take (tileKey 1 0x4000) 8 .keep) (fun s => s.setFull (tileKey 1 0x4000) true)).loadReady 0 (ldB .take (tileKey 1 0x4000) 8 .keep) = true) ∧ ((stLd (ldB .take (tileKey 1 0x4000) 8 .keep) (fun s => s.setFull (tileKey 1 0x4000) true)).fullRange ((ldB .take (tileKey 1 0x4000) 8 .keep)).key = true)) :=
  ⟨canon_of (by decide +kernel), by decide +kernel⟩

theorem witness_LongLoadAnswers_handle :
    ((stLd (ldB .handle (tileKey 1 0x4000) 32 .keep) id)).Canon ∧
    ((((stLd (ldB .handle (tileKey 1 0x4000) 32 .keep) id).core 0).loads = [ldB .handle (tileKey 1 0x4000) 32 .keep]) ∧ (((stLd (ldB .handle (tileKey 1 0x4000) 32 .keep) id).core 0).st = .running) ∧ ((stLd (ldB .handle (tileKey 1 0x4000) 32 .keep) id).splitHeld 0 (ldB .handle (tileKey 1 0x4000) 32 .keep).key = false) ∧ ((stLd (ldB .handle (tileKey 1 0x4000) 32 .keep) id).routeLoad ((stLd (ldB .handle (tileKey 1 0x4000) 32 .keep) id).master 0) (ldB .handle (tileKey 1 0x4000) 32 .keep).key (Load.writes (ldB .handle (tileKey 1 0x4000) 32 .keep)) = .ok) ∧ ((stLd (ldB .handle (tileKey 1 0x4000) 32 .keep) id).loadReady 0 (ldB .handle (tileKey 1 0x4000) 32 .keep) = true) ∧ (((ldB .handle (tileKey 1 0x4000) 32 .keep)).size = 32)) :=
  ⟨canon_of (by decide +kernel), by decide +kernel⟩

theorem witness_LongLoadAnswers_pinned :
    ((stLd (ldB .plain 0x900000 8 .keep) pinD)).Canon ∧
    ((((stLd (ldB .plain 0x900000 8 .keep) pinD).core 0).loads = [ldB .plain 0x900000 8 .keep]) ∧ (((stLd (ldB .plain 0x900000 8 .keep) pinD).core 0).st = .running) ∧ ((stLd (ldB .plain 0x900000 8 .keep) pinD).splitHeld 0 (ldB .plain 0x900000 8 .keep).key = false) ∧ ((stLd (ldB .plain 0x900000 8 .keep) pinD).routeLoad ((stLd (ldB .plain 0x900000 8 .keep) pinD).master 0) (ldB .plain 0x900000 8 .keep).key (Load.writes (ldB .plain 0x900000 8 .keep)) = .ok) ∧ ((stLd (ldB .plain 0x900000 8 .keep) pinD).loadReady 0 (ldB .plain 0x900000 8 .keep) = true) ∧ (((stLd (ldB .plain 0x900000 8 .keep) pinD).pinnedAt 0x900000).isSome = true)) :=
  ⟨canon_of (by decide +kernel), by decide +kernel⟩

theorem witness_LongLoadAnswers_hit :
    ((stLd (ldB .plain 0x900000 8 .keep) hitD)).Canon ∧
    ((((stLd (ldB .plain 0x900000 8 .keep) hitD).core 0).loads = [ldB .plain 0x900000 8 .keep]) ∧ (((stLd (ldB .plain 0x900000 8 .keep) hitD).core 0).st = .running) ∧ ((stLd (ldB .plain 0x900000 8 .keep) hitD).splitHeld 0 (ldB .plain 0x900000 8 .keep).key = false) ∧ ((stLd (ldB .plain 0x900000 8 .keep) hitD).routeLoad ((stLd (ldB .plain 0x900000 8 .keep) hitD).master 0) (ldB .plain 0x900000 8 .keep).key (Load.writes (ldB .plain 0x900000 8 .keep)) = .ok) ∧ ((stLd (ldB .plain 0x900000 8 .keep) hitD).loadReady 0 (ldB .plain 0x900000 8 .keep) = true) ∧ (isDram 0x900000 = true) ∧ ((stLd (ldB .plain 0x900000 8 .keep) hitD).pinnedAt 0x900000 = none) ∧ ((stLd (ldB .plain 0x900000 8 .keep) hitD).blockFor 0 0x900000 .keep = some blkR)) :=
  ⟨canon_of (by decide +kernel), by decide +kernel⟩

theorem witness_LongLoadAnswers_miss :
    ((stLd (ldB .plain 0x900000 8 .keep) id)).Canon ∧
    ((((stLd (ldB .plain 0x900000 8 .keep) id).core 0).loads = [ldB .plain 0x900000 8 .keep]) ∧ (((stLd (ldB .plain 0x900000 8 .keep) id).core 0).st = .running) ∧ ((stLd (ldB .plain 0x900000 8 .keep) id).splitHeld 0 (ldB .plain 0x900000 8 .keep).key = false) ∧ ((stLd (ldB .plain 0x900000 8 .keep) id).routeLoad ((stLd (ldB .plain 0x900000 8 .keep) id).master 0) (ldB .plain 0x900000 8 .keep).key (Load.writes (ldB .plain 0x900000 8 .keep)) = .ok) ∧ ((stLd (ldB .plain 0x900000 8 .keep) id).loadReady 0 (ldB .plain 0x900000 8 .keep) = true) ∧ ((stLd (ldB .plain 0x900000 8 .keep) id).blockFor 0 0x900000 .keep = none) ∧ (((stLd (ldB .plain 0x900000 8 .keep) id).tile 0).blocks.length < ((stLd (ldB .plain 0x900000 8 .keep) id).tile 0).cacheBlocks)) :=
  ⟨canon_of (by decide +kernel), by decide +kernel⟩

theorem witness_LongLoadAnswers_nofill :
    ((stLd (ldB .handle 0x900000 32 .nofill) id)).Canon ∧
    ((((stLd (ldB .handle 0x900000 32 .nofill) id).core 0).loads = [ldB .handle 0x900000 32 .nofill]) ∧ (((stLd (ldB .handle 0x900000 32 .nofill) id).core 0).st = .running) ∧ ((stLd (ldB .handle 0x900000 32 .nofill) id).splitHeld 0 (ldB .handle 0x900000 32 .nofill).key = false) ∧ ((stLd (ldB .handle 0x900000 32 .nofill) id).routeLoad ((stLd (ldB .handle 0x900000 32 .nofill) id).master 0) (ldB .handle 0x900000 32 .nofill).key (Load.writes (ldB .handle 0x900000 32 .nofill)) = .ok) ∧ ((stLd (ldB .handle 0x900000 32 .nofill) id).loadReady 0 (ldB .handle 0x900000 32 .nofill) = true) ∧ ((stLd (ldB .handle 0x900000 32 .nofill) id).blockFor 0 0x900000 .nofill = none)) :=
  ⟨canon_of (by decide +kernel), by decide +kernel⟩

theorem witness_LongLoadAnswers_churn :
    ((stLch (ldB .plain 0x900000 8 .keep))).Canon ∧
    ((((stLch (ldB .plain 0x900000 8 .keep)).core (coreKey churn0)).loads = [ldB .plain 0x900000 8 .keep]) ∧ (((stLch (ldB .plain 0x900000 8 .keep)).core (coreKey churn0)).st = .running) ∧ ((stLch (ldB .plain 0x900000 8 .keep)).splitHeld (coreKey churn0) (ldB .plain 0x900000 8 .keep).key = false) ∧ ((stLch (ldB .plain 0x900000 8 .keep)).routeLoad ((stLch (ldB .plain 0x900000 8 .keep)).master (coreKey churn0)) (ldB .plain 0x900000 8 .keep).key (Load.writes (ldB .plain 0x900000 8 .keep)) = .ok) ∧ ((stLch (ldB .plain 0x900000 8 .keep)).loadReady (coreKey churn0) (ldB .plain 0x900000 8 .keep) = true) ∧ (isTileCore (coreKey churn0) = false)) :=
  ⟨canon_of (by decide +kernel), by decide +kernel⟩

theorem witness_LongLoadAnswers_ro_hit :
    ((stLd (ldB .ro 0x900000 8 .keep) roD)).Canon ∧
    ((((stLd (ldB .ro 0x900000 8 .keep) roD).core 0).loads = [ldB .ro 0x900000 8 .keep]) ∧ (((stLd (ldB .ro 0x900000 8 .keep) roD).core 0).st = .running) ∧ ((stLd (ldB .ro 0x900000 8 .keep) roD).splitHeld 0 (ldB .ro 0x900000 8 .keep).key = false) ∧ ((stLd (ldB .ro 0x900000 8 .keep) roD).routeLoad ((stLd (ldB .ro 0x900000 8 .keep) roD).master 0) (ldB .ro 0x900000 8 .keep).key (Load.writes (ldB .ro 0x900000 8 .keep)) = .ok) ∧ ((stLd (ldB .ro 0x900000 8 .keep) roD).loadReady 0 (ldB .ro 0x900000 8 .keep) = true) ∧ ((stLd (ldB .ro 0x900000 8 .keep) roD).roServes 0 0x900000 = true) ∧ (((stLd (ldB .ro 0x900000 8 .keep) roD).tile 0).ro.find? (fun e => e.pa == 0x900000) = some { blkR with data := List.replicate 64 4 })) :=
  ⟨canon_of (by decide +kernel), by decide +kernel⟩

theorem witness_LongLoadAnswers_ro_miss :
    ((stLd (ldB .ro 0x900000 8 .keep) id)).Canon ∧
    ((((stLd (ldB .ro 0x900000 8 .keep) id).core 0).loads = [ldB .ro 0x900000 8 .keep]) ∧ (((stLd (ldB .ro 0x900000 8 .keep) id).core 0).st = .running) ∧ ((stLd (ldB .ro 0x900000 8 .keep) id).splitHeld 0 (ldB .ro 0x900000 8 .keep).key = false) ∧ ((stLd (ldB .ro 0x900000 8 .keep) id).routeLoad ((stLd (ldB .ro 0x900000 8 .keep) id).master 0) (ldB .ro 0x900000 8 .keep).key (Load.writes (ldB .ro 0x900000 8 .keep)) = .ok) ∧ ((stLd (ldB .ro 0x900000 8 .keep) id).loadReady 0 (ldB .ro 0x900000 8 .keep) = true) ∧ ((stLd (ldB .ro 0x900000 8 .keep) id).roServes 0 0x900000 = true) ∧ (((stLd (ldB .ro 0x900000 8 .keep) id).tile 0).ro.find? (fun e => e.pa == 0x900000) = none)) :=
  ⟨canon_of (by decide +kernel), by decide +kernel⟩

theorem witness_LongLoadAnswers_ro_other :
    ((stLd (ldB .ro 0x900000 8 .keep) pinD)).Canon ∧
    ((((stLd (ldB .ro 0x900000 8 .keep) pinD).core 0).loads = [ldB .ro 0x900000 8 .keep]) ∧ (((stLd (ldB .ro 0x900000 8 .keep) pinD).core 0).st = .running) ∧ ((stLd (ldB .ro 0x900000 8 .keep) pinD).splitHeld 0 (ldB .ro 0x900000 8 .keep).key = false) ∧ ((stLd (ldB .ro 0x900000 8 .keep) pinD).routeLoad ((stLd (ldB .ro 0x900000 8 .keep) pinD).master 0) (ldB .ro 0x900000 8 .keep).key (Load.writes (ldB .ro 0x900000 8 .keep)) = .ok) ∧ ((stLd (ldB .ro 0x900000 8 .keep) pinD).loadReady 0 (ldB .ro 0x900000 8 .keep) = true) ∧ ((stLd (ldB .ro 0x900000 8 .keep) pinD).roServes 0 0x900000 = false)) :=
  ⟨canon_of (by decide +kernel), by decide +kernel⟩

theorem witness_AtomicActsOnce_amo :
    ((stLd (ldB (.amo .swap) (tileKey 1 0x4000) 8 .keep) id)).Canon ∧
    ((((stLd (ldB (.amo .swap) (tileKey 1 0x4000) 8 .keep) id).core 0).loads = [ldB (.amo .swap) (tileKey 1 0x4000) 8 .keep]) ∧ ((ldB (.amo .swap) (tileKey 1 0x4000) 8 .keep).size = (ldB (.amo .swap) (tileKey 1 0x4000) 8 .keep).ty.width / 8) ∧ ((stLd (ldB (.amo .swap) (tileKey 1 0x4000) 8 .keep) id).splitHeld 0 (ldB (.amo .swap) (tileKey 1 0x4000) 8 .keep).key = false) ∧ ((stLd (ldB (.amo .swap) (tileKey 1 0x4000) 8 .keep) id).routeLoad ((stLd (ldB (.amo .swap) (tileKey 1 0x4000) 8 .keep) id).master 0) (ldB (.amo .swap) (tileKey 1 0x4000) 8 .keep).key true = .ok) ∧ ((stLd (ldB (.amo .swap) (tileKey 1 0x4000) 8 .keep) id).loadReady 0 (ldB (.amo .swap) (tileKey 1 0x4000) 8 .keep) = true) ∧ (isDram ((stLd (ldB (.amo .swap) (tileKey 1 0x4000) 8 .keep) id).realKey ((ldB (.amo .swap) (tileKey 1 0x4000) 8 .keep)).key) = false) ∧ (0x3000 ≤ keyOff ((stLd (ldB (.amo .swap) (tileKey 1 0x4000) 8 .keep) id).realKey ((ldB (.amo .swap) (tileKey 1 0x4000) 8 .keep)).key))) :=
  ⟨canon_of (by decide +kernel), by decide +kernel⟩

theorem witness_AtomicActsOnce_cas :
    ((stLd (ldB .cas (tileKey 1 0x4000) 8 .keep) id)).Canon ∧
    ((((stLd (ldB .cas (tileKey 1 0x4000) 8 .keep) id).core 0).loads = [ldB .cas (tileKey 1 0x4000) 8 .keep]) ∧ ((ldB .cas (tileKey 1 0x4000) 8 .keep).size = (ldB .cas (tileKey 1 0x4000) 8 .keep).ty.width / 8) ∧ ((stLd (ldB .cas (tileKey 1 0x4000) 8 .keep) id).splitHeld 0 (ldB .cas (tileKey 1 0x4000) 8 .keep).key = false) ∧ ((stLd (ldB .cas (tileKey 1 0x4000) 8 .keep) id).routeLoad ((stLd (ldB .cas (tileKey 1 0x4000) 8 .keep) id).master 0) (ldB .cas (tileKey 1 0x4000) 8 .keep).key true = .ok) ∧ ((stLd (ldB .cas (tileKey 1 0x4000) 8 .keep) id).loadReady 0 (ldB .cas (tileKey 1 0x4000) 8 .keep) = true)) :=
  ⟨canon_of (by decide +kernel), by decide +kernel⟩

theorem witness_AtomicActsOnce_cas_equal :
    ((stLd ({ ldB .cas (tileKey 1 0x4000) 8 .keep with a := 0x8122334455667788, b := 9 }) id)).Canon ∧
    ((((stLd ({ ldB .cas (tileKey 1 0x4000) 8 .keep with a := 0x8122334455667788, b := 9 }) id).core 0).loads = [{ ldB .cas (tileKey 1 0x4000) 8 .keep with a := 0x8122334455667788, b := 9 }]) ∧ (({ ldB .cas (tileKey 1 0x4000) 8 .keep with a := 0x8122334455667788, b := 9 }).size = ({ ldB .cas (tileKey 1 0x4000) 8 .keep with a := 0x8122334455667788, b := 9 }).ty.width / 8) ∧ ((stLd ({ ldB .cas (tileKey 1 0x4000) 8 .keep with a := 0x8122334455667788, b := 9 }) id).splitHeld 0 ({ ldB .cas (tileKey 1 0x4000) 8 .keep with a := 0x8122334455667788, b := 9 }).key = false) ∧ ((stLd ({ ldB .cas (tileKey 1 0x4000) 8 .keep with a := 0x8122334455667788, b := 9 }) id).routeLoad ((stLd ({ ldB .cas (tileKey 1 0x4000) 8 .keep with a := 0x8122334455667788, b := 9 }) id).master 0) ({ ldB .cas (tileKey 1 0x4000) 8 .keep with a := 0x8122334455667788, b := 9 }).key true = .ok) ∧ ((stLd ({ ldB .cas (tileKey 1 0x4000) 8 .keep with a := 0x8122334455667788, b := 9 }) id).loadReady 0 ({ ldB .cas (tileKey 1 0x4000) 8 .keep with a := 0x8122334455667788, b := 9 }) = true)) :=
  ⟨canon_of (by decide +kernel), by decide +kernel⟩

theorem witness_AtomicActsOnce_amo_pinned :
    ((stLd (ldB (.amo .swap) 0x900000 8 .keep) pinD)).Canon ∧
    ((((stLd (ldB (.amo .swap) 0x900000 8 .keep) pinD).core 0).loads = [ldB (.amo .swap) 0x900000 8 .keep]) ∧ ((ldB (.amo .swap) 0x900000 8 .keep).size = (ldB (.amo .swap) 0x900000 8 .keep).ty.width / 8) ∧ ((stLd (ldB (.amo .swap) 0x900000 8 .keep) pinD).splitHeld 0 (ldB (.amo .swap) 0x900000 8 .keep).key = false) ∧ ((stLd (ldB (.amo .swap) 0x900000 8 .keep) pinD).routeLoad ((stLd (ldB (.amo .swap) 0x900000 8 .keep) pinD).master 0) (ldB (.amo .swap) 0x900000 8 .keep).key true = .ok) ∧ ((stLd (ldB (.amo .swap) 0x900000 8 .keep) pinD).loadReady 0 (ldB (.amo .swap) 0x900000 8 .keep) = true) ∧ (isDram ((stLd (ldB (.amo .swap) 0x900000 8 .keep) pinD).realKey ((ldB (.amo .swap) 0x900000 8 .keep)).key) = false) ∧ (0x3000 ≤ keyOff ((stLd (ldB (.amo .swap) 0x900000 8 .keep) pinD).realKey ((ldB (.amo .swap) 0x900000 8 .keep)).key))) :=
  ⟨canon_of (by decide +kernel), by decide +kernel⟩

theorem witness_AtomicActsOnce_amo_dram :
    ((stLd (ldB (.amo .swap) 0x900000 8 .keep) hitD)).Canon ∧
    ((((stLd (ldB (.amo .swap) 0x900000 8 .keep) hitD).core 0).loads = [ldB (.amo .swap) 0x900000 8 .keep]) ∧ ((ldB (.amo .swap) 0x900000 8 .keep).size = (ldB (.amo .swap) 0x900000 8 .keep).ty.width / 8) ∧ ((stLd (ldB (.amo .swap) 0x900000 8 .keep) hitD).splitHeld 0 (ldB (.amo .swap) 0x900000 8 .keep).key = false) ∧ ((stLd (ldB (.amo .swap) 0x900000 8 .keep) hitD).routeLoad ((stLd (ldB (.amo .swap) 0x900000 8 .keep) hitD).master 0) (ldB (.amo .swap) 0x900000 8 .keep).key true = .ok) ∧ ((stLd (ldB (.amo .swap) 0x900000 8 .keep) hitD).loadReady 0 (ldB (.amo .swap) 0x900000 8 .keep) = true) ∧ (isDram ((ldB (.amo .swap) 0x900000 8 .keep)).key = true) ∧ ((stLd (ldB (.amo .swap) 0x900000 8 .keep) hitD).pinnedAt ((ldB (.amo .swap) 0x900000 8 .keep)).key = none) ∧ (((ldB (.amo .swap) 0x900000 8 .keep)).key % 8 = 0)) :=
  ⟨canon_of (by decide +kernel), by decide +kernel⟩

theorem witness_AtomicActsOnce_cas_dram :
    ((stLd ({ ldB .cas 0x900000 8 .keep with a := 0x8122334455667788, b := 9 }) id)).Canon ∧
    ((((stLd ({ ldB .cas 0x900000 8 .keep with a := 0x8122334455667788, b := 9 }) id).core 0).loads = [{ ldB .cas 0x900000 8 .keep with a := 0x8122334455667788, b := 9 }]) ∧ (({ ldB .cas 0x900000 8 .keep with a := 0x8122334455667788, b := 9 }).size = ({ ldB .cas 0x900000 8 .keep with a := 0x8122334455667788, b := 9 }).ty.width / 8) ∧ ((stLd ({ ldB .cas 0x900000 8 .keep with a := 0x8122334455667788, b := 9 }) id).splitHeld 0 ({ ldB .cas 0x900000 8 .keep with a := 0x8122334455667788, b := 9 }).key = false) ∧ ((stLd ({ ldB .cas 0x900000 8 .keep with a := 0x8122334455667788, b := 9 }) id).routeLoad ((stLd ({ ldB .cas 0x900000 8 .keep with a := 0x8122334455667788, b := 9 }) id).master 0) ({ ldB .cas 0x900000 8 .keep with a := 0x8122334455667788, b := 9 }).key true = .ok) ∧ ((stLd ({ ldB .cas 0x900000 8 .keep with a := 0x8122334455667788, b := 9 }) id).loadReady 0 ({ ldB .cas 0x900000 8 .keep with a := 0x8122334455667788, b := 9 }) = true)) :=
  ⟨canon_of (by decide +kernel), by decide +kernel⟩

theorem witness_AtomicActsOnce_done :
    ((stLd ({ ldB .done 0x900000 8 .keep with a := 77, b := 0 }) id)).Canon ∧
    ((((stLd ({ ldB .done 0x900000 8 .keep with a := 77, b := 0 }) id).core 0).loads = [{ ldB .done 0x900000 8 .keep with a := 77, b := 0 }]) ∧ ((stLd ({ ldB .done 0x900000 8 .keep with a := 77, b := 0 }) id).performed 0 (({ ldB .done 0x900000 8 .keep with a := 77, b := 0 })).scope (({ ldB .done 0x900000 8 .keep with a := 77, b := 0 })).b.toNat = true) ∧ (((stLd ({ ldB .done 0x900000 8 .keep with a := 77, b := 0 }) id).core 0).st = .running)) :=
  ⟨canon_of (by decide +kernel), by decide +kernel⟩

theorem witness_StoresEnter_st :
    (stM).Runs (.st gt ⟨7, 18, .s64, false, .core, .keep, false, 0⟩) ∧
    (∃ v, (stM.ready (.st gt ⟨7, 18, .s64, false, .core, .keep, false, 0⟩)).checkAddr 0 ((stM.core 0).rx 18 + (0 : BitVec 20).signExtend 64) 8 .wr = (v, .ok 0x900000) ∧ (v.splitHeld 0 0x900000 = false) ∧ ((v.closeWindow 0 0x900000).route ((v.closeWindow 0 0x900000).master 0) 0x900000 true ≠ .page) ∧ ((v.closeWindow 0 0x900000).cntSt 0 < 255)) :=
  ⟨runs_of (by decide +kernel), ⟨_, pair_of (by decide +kernel), by decide +kernel⟩⟩

theorem witness_StoresEnter_stf :
    (stM).Runs (.stf gt ⟨7, 16, .s64, false, .core, .keep, false, 0⟩) ∧
    (∃ v, (stM.ready (.stf gt ⟨7, 16, .s64, false, .core, .keep, false, 0⟩)).checkAddr 0 ((stM.core 0).rx 16 + (0 : BitVec 20).signExtend 64) 8 .wr = (v, .ok (tileKey 0 0x4000)) ∧ (v.splitHeld 0 (tileKey 0 0x4000) = false) ∧ ((v.closeWindow 0 (tileKey 0 0x4000)).route ((v.closeWindow 0 (tileKey 0 0x4000)).master 0) (tileKey 0 0x4000) true ≠ .page) ∧ ((v.closeWindow 0 (tileKey 0 0x4000)).cntSt 0 < 255) ∧ ((v.closeWindow 0 (tileKey 0 0x4000)).fullRange (tileKey 0 0x4000) = true)) :=
  ⟨runs_of (by decide +kernel), ⟨_, pair_of (by decide +kernel), by decide +kernel⟩⟩

theorem witness_StoresEnter_hst :
    (stM).Runs (.hst gt ⟨3, 17, false, .core, .keep, 0⟩) ∧
    (∃ v, (stM.ready (.hst gt ⟨3, 17, false, .core, .keep, 0⟩)).checkAddr 0 ((stM.core 0).rx 17 + (0 : BitVec 20).signExtend 64) 32 .wr = (v, .ok (tileKey 1 0x4000)) ∧ (v.splitHeld 0 (tileKey 1 0x4000) = false) ∧ ((v.closeWindow 0 (tileKey 1 0x4000)).route ((v.closeWindow 0 (tileKey 1 0x4000)).master 0) (tileKey 1 0x4000) true ≠ .page) ∧ ((v.closeWindow 0 (tileKey 1 0x4000)).cntSt 0 < 255)) :=
  ⟨runs_of (by decide +kernel), ⟨_, pair_of (by decide +kernel), by decide +kernel⟩⟩

theorem witness_StoresEnter_red :
    (stM).Runs (.red gt ⟨17, 5, .s64, .core, .add, .plain⟩) ∧
    (∃ v, (stM.ready (.red gt ⟨17, 5, .s64, .core, .add, .plain⟩)).checkAddr 0 ((stM.core 0).rx 17) 8 .rw = (v, .ok (tileKey 1 0x4000)) ∧ (v.splitHeld 0 (tileKey 1 0x4000) = false) ∧ ((v.closeWindow 0 (tileKey 1 0x4000)).route ((v.closeWindow 0 (tileKey 1 0x4000)).master 0) (tileKey 1 0x4000) true ≠ .page) ∧ ((v.closeWindow 0 (tileKey 1 0x4000)).cntSt 0 < 255)) :=
  ⟨runs_of (by decide +kernel), ⟨_, pair_of (by decide +kernel), by decide +kernel⟩⟩

theorem witness_StoreBufferDrains_write :
    ((stSt (sbA .write (tileKey 1 0x4000)) id)).Canon ∧
    ((((stSt (sbA .write (tileKey 1 0x4000)) id).core 0).sbuf = [sbA .write (tileKey 1 0x4000)]) ∧ ((stSt (sbA .write (tileKey 1 0x4000)) id).mayDrain 0 (sbA .write (tileKey 1 0x4000)) = true) ∧ ((stSt (sbA .write (tileKey 1 0x4000)) id).splitHeld 0 (sbA .write (tileKey 1 0x4000)).key = false) ∧ ((stSt (sbA .write (tileKey 1 0x4000)) id).route ((stSt (sbA .write (tileKey 1 0x4000)) id).master 0) (sbA .write (tileKey 1 0x4000)).key true = .ok) ∧ ((sbA .write (tileKey 1 0x4000)).key / 64 = ((sbA .write (tileKey 1 0x4000)).key + (sbA .write (tileKey 1 0x4000)).bytes.length - 1) / 64) ∧ ((sbA .write (tileKey 1 0x4000)).bytes ≠ []) ∧ (isDram ((stSt (sbA .write (tileKey 1 0x4000)) id).realKey ((sbA .write (tileKey 1 0x4000))).key) = false) ∧ (0x3000 ≤ keyOff ((stSt (sbA .write (tileKey 1 0x4000)) id).realKey ((sbA .write (tileKey 1 0x4000))).key))) :=
  ⟨canon_of (by decide +kernel), by decide +kernel⟩

theorem witness_StoreBufferDrains_full :
    ((stSt (sbA .writeFull (tileKey 1 0x4000)) id)).Canon ∧
    ((((stSt (sbA .writeFull (tileKey 1 0x4000)) id).core 0).sbuf = [sbA .writeFull (tileKey 1 0x4000)]) ∧ ((stSt (sbA .writeFull (tileKey 1 0x4000)) id).mayDrain 0 (sbA .writeFull (tileKey 1 0x4000)) = true) ∧ ((stSt (sbA .writeFull (tileKey 1 0x4000)) id).splitHeld 0 (sbA .writeFull (tileKey 1 0x4000)).key = false) ∧ ((stSt (sbA .writeFull (tileKey 1 0x4000)) id).route ((stSt (sbA .writeFull (tileKey 1 0x4000)) id).master 0) (sbA .writeFull (tileKey 1 0x4000)).key true = .ok) ∧ ((sbA .writeFull (tileKey 1 0x4000)).key / 64 = ((sbA .writeFull (tileKey 1 0x4000)).key + (sbA .writeFull (tileKey 1 0x4000)).bytes.length - 1) / 64) ∧ ((sbA .writeFull (tileKey 1 0x4000)).bytes ≠ []) ∧ (isDram ((sbA .writeFull (tileKey 1 0x4000))).key = false)) :=
  ⟨canon_of (by decide +kernel), by decide +kernel⟩

theorem witness_StoreBufferDrains_pinned :
    ((stSt (sbA .write 0x900000) pinD)).Canon ∧
    ((((stSt (sbA .write 0x900000) pinD).core 0).sbuf = [sbA .write 0x900000]) ∧ ((stSt (sbA .write 0x900000) pinD).mayDrain 0 (sbA .write 0x900000) = true) ∧ ((stSt (sbA .write 0x900000) pinD).splitHeld 0 (sbA .write 0x900000).key = false) ∧ ((stSt (sbA .write 0x900000) pinD).route ((stSt (sbA .write 0x900000) pinD).master 0) (sbA .write 0x900000).key true = .ok) ∧ ((sbA .write 0x900000).key / 64 = ((sbA .write 0x900000).key + (sbA .write 0x900000).bytes.length - 1) / 64) ∧ ((sbA .write 0x900000).bytes ≠ [])) :=
  ⟨canon_of (by decide +kernel), by decide +kernel⟩

theorem witness_StoreBufferDrains_dram_churn :
    ((stStc (sbA .write 0x900000))).Canon ∧
    ((((stStc (sbA .write 0x900000)).core (coreKey churn0)).sbuf = [sbA .write 0x900000]) ∧ ((stStc (sbA .write 0x900000)).mayDrain (coreKey churn0) (sbA .write 0x900000) = true) ∧ ((stStc (sbA .write 0x900000)).splitHeld (coreKey churn0) (sbA .write 0x900000).key = false) ∧ ((stStc (sbA .write 0x900000)).route ((stStc (sbA .write 0x900000)).master (coreKey churn0)) (sbA .write 0x900000).key true = .ok) ∧ ((sbA .write 0x900000).key / 64 = ((sbA .write 0x900000).key + (sbA .write 0x900000).bytes.length - 1) / 64) ∧ ((sbA .write 0x900000).bytes ≠ []) ∧ (isTileCore (coreKey churn0) = false) ∧ (isDram ((sbA .write 0x900000)).key = true ∧ (stStc (sbA .write 0x900000)).pinnedAt ((sbA .write 0x900000)).key = none)) :=
  ⟨canon_of (by decide +kernel), by decide +kernel⟩

theorem witness_StoreBufferDrains_dram_nofill :
    ((stSt ({ sbA .write 0x900000 with hint := .nofill }) id)).Canon ∧
    ((((stSt ({ sbA .write 0x900000 with hint := .nofill }) id).core 0).sbuf = [{ sbA .write 0x900000 with hint := .nofill }]) ∧ ((stSt ({ sbA .write 0x900000 with hint := .nofill }) id).mayDrain 0 ({ sbA .write 0x900000 with hint := .nofill }) = true) ∧ ((stSt ({ sbA .write 0x900000 with hint := .nofill }) id).splitHeld 0 ({ sbA .write 0x900000 with hint := .nofill }).key = false) ∧ ((stSt ({ sbA .write 0x900000 with hint := .nofill }) id).route ((stSt ({ sbA .write 0x900000 with hint := .nofill }) id).master 0) ({ sbA .write 0x900000 with hint := .nofill }).key true = .ok) ∧ (({ sbA .write 0x900000 with hint := .nofill }).key / 64 = (({ sbA .write 0x900000 with hint := .nofill }).key + ({ sbA .write 0x900000 with hint := .nofill }).bytes.length - 1) / 64) ∧ (({ sbA .write 0x900000 with hint := .nofill }).bytes ≠ []) ∧ ((((stSt ({ sbA .write 0x900000 with hint := .nofill }) id).tile 0).blocks.any fun b => b.pa == 0x900000 && b.owned) = false)) :=
  ⟨canon_of (by decide +kernel), by decide +kernel⟩

theorem witness_StoreBufferDrains_dram_fill :
    ((stSt (sbA .write 0x900000) id)).Canon ∧
    ((((stSt (sbA .write 0x900000) id).core 0).sbuf = [sbA .write 0x900000]) ∧ ((stSt (sbA .write 0x900000) id).mayDrain 0 (sbA .write 0x900000) = true) ∧ ((stSt (sbA .write 0x900000) id).splitHeld 0 (sbA .write 0x900000).key = false) ∧ ((stSt (sbA .write 0x900000) id).route ((stSt (sbA .write 0x900000) id).master 0) (sbA .write 0x900000).key true = .ok) ∧ ((sbA .write 0x900000).key / 64 = ((sbA .write 0x900000).key + (sbA .write 0x900000).bytes.length - 1) / 64) ∧ ((sbA .write 0x900000).bytes ≠ []) ∧ ((((stSt (sbA .write 0x900000) id).tile 0).blocks.any fun b => b.pa == 0x900000 && b.owned) = false) ∧ (((sbA .write 0x900000)).hint ≠ .nofill) ∧ (((stSt (sbA .write 0x900000) id).tile 0).blocks.length < ((stSt (sbA .write 0x900000) id).tile 0).cacheBlocks)) :=
  ⟨canon_of (by decide +kernel), by decide +kernel⟩

theorem witness_StoreBufferDrains_dram_mine :
    ((stSt (sbA .write 0x900000) mineD)).Canon ∧
    ((((stSt (sbA .write 0x900000) mineD).core 0).sbuf = [sbA .write 0x900000]) ∧ ((stSt (sbA .write 0x900000) mineD).mayDrain 0 (sbA .write 0x900000) = true) ∧ ((stSt (sbA .write 0x900000) mineD).splitHeld 0 (sbA .write 0x900000).key = false) ∧ ((stSt (sbA .write 0x900000) mineD).route ((stSt (sbA .write 0x900000) mineD).master 0) (sbA .write 0x900000).key true = .ok) ∧ ((sbA .write 0x900000).key / 64 = ((sbA .write 0x900000).key + (sbA .write 0x900000).bytes.length - 1) / 64) ∧ ((sbA .write 0x900000).bytes ≠ []) ∧ (((stSt (sbA .write 0x900000) mineD).sector (0x900000 / 1024)).owner = some 0)) :=
  ⟨canon_of (by decide +kernel), by decide +kernel⟩

theorem witness_StoreBufferDrains_red :
    ((stSt ({ sbA (.red .add .s32) (tileKey 1 0x4000) with bytes := [1, 2, 3, 0x80] }) id)).Canon ∧
    ((((stSt ({ sbA (.red .add .s32) (tileKey 1 0x4000) with bytes := [1, 2, 3, 0x80] }) id).core 0).sbuf = [{ sbA (.red .add .s32) (tileKey 1 0x4000) with bytes := [1, 2, 3, 0x80] }]) ∧ ((stSt ({ sbA (.red .add .s32) (tileKey 1 0x4000) with bytes := [1, 2, 3, 0x80] }) id).mayDrain 0 ({ sbA (.red .add .s32) (tileKey 1 0x4000) with bytes := [1, 2, 3, 0x80] }) = true) ∧ ((stSt ({ sbA (.red .add .s32) (tileKey 1 0x4000) with bytes := [1, 2, 3, 0x80] }) id).splitHeld 0 ({ sbA (.red .add .s32) (tileKey 1 0x4000) with bytes := [1, 2, 3, 0x80] }).key = false) ∧ ((stSt ({ sbA (.red .add .s32) (tileKey 1 0x4000) with bytes := [1, 2, 3, 0x80] }) id).route ((stSt ({ sbA (.red .add .s32) (tileKey 1 0x4000) with bytes := [1, 2, 3, 0x80] }) id).master 0) ({ sbA (.red .add .s32) (tileKey 1 0x4000) with bytes := [1, 2, 3, 0x80] }).key true = .ok) ∧ (({ sbA (.red .add .s32) (tileKey 1 0x4000) with bytes := [1, 2, 3, 0x80] }).key / 64 = (({ sbA (.red .add .s32) (tileKey 1 0x4000) with bytes := [1, 2, 3, 0x80] }).key + ({ sbA (.red .add .s32) (tileKey 1 0x4000) with bytes := [1, 2, 3, 0x80] }).bytes.length - 1) / 64) ∧ (({ sbA (.red .add .s32) (tileKey 1 0x4000) with bytes := [1, 2, 3, 0x80] }).bytes ≠ [])) :=
  ⟨canon_of (by decide +kernel), by decide +kernel⟩

theorem witness_StoreBufferDrains_red_pinned :
    ((stSt ({ sbA (.red .add .s32) 0x900000 with bytes := [1, 2, 3, 0x80] }) pinD)).Canon ∧
    ((((stSt ({ sbA (.red .add .s32) 0x900000 with bytes := [1, 2, 3, 0x80] }) pinD).core 0).sbuf = [{ sbA (.red .add .s32) 0x900000 with bytes := [1, 2, 3, 0x80] }]) ∧ ((stSt ({ sbA (.red .add .s32) 0x900000 with bytes := [1, 2, 3, 0x80] }) pinD).mayDrain 0 ({ sbA (.red .add .s32) 0x900000 with bytes := [1, 2, 3, 0x80] }) = true) ∧ ((stSt ({ sbA (.red .add .s32) 0x900000 with bytes := [1, 2, 3, 0x80] }) pinD).splitHeld 0 ({ sbA (.red .add .s32) 0x900000 with bytes := [1, 2, 3, 0x80] }).key = false) ∧ ((stSt ({ sbA (.red .add .s32) 0x900000 with bytes := [1, 2, 3, 0x80] }) pinD).route ((stSt ({ sbA (.red .add .s32) 0x900000 with bytes := [1, 2, 3, 0x80] }) pinD).master 0) ({ sbA (.red .add .s32) 0x900000 with bytes := [1, 2, 3, 0x80] }).key true = .ok) ∧ (({ sbA (.red .add .s32) 0x900000 with bytes := [1, 2, 3, 0x80] }).key / 64 = (({ sbA (.red .add .s32) 0x900000 with bytes := [1, 2, 3, 0x80] }).key + ({ sbA (.red .add .s32) 0x900000 with bytes := [1, 2, 3, 0x80] }).bytes.length - 1) / 64) ∧ (({ sbA (.red .add .s32) 0x900000 with bytes := [1, 2, 3, 0x80] }).bytes ≠ [])) :=
  ⟨canon_of (by decide +kernel), by decide +kernel⟩

theorem witness_StoreBufferDrains_red_new :
    ((stSt ({ sbA (.red .add .s32) 0x900000 with bytes := [1, 2, 3, 0x80] }) hitD)).Canon ∧
    ((((stSt ({ sbA (.red .add .s32) 0x900000 with bytes := [1, 2, 3, 0x80] }) hitD).core 0).sbuf = [{ sbA (.red .add .s32) 0x900000 with bytes := [1, 2, 3, 0x80] }]) ∧ ((stSt ({ sbA (.red .add .s32) 0x900000 with bytes := [1, 2, 3, 0x80] }) hitD).mayDrain 0 ({ sbA (.red .add .s32) 0x900000 with bytes := [1, 2, 3, 0x80] }) = true) ∧ ((stSt ({ sbA (.red .add .s32) 0x900000 with bytes := [1, 2, 3, 0x80] }) hitD).splitHeld 0 ({ sbA (.red .add .s32) 0x900000 with bytes := [1, 2, 3, 0x80] }).key = false) ∧ ((stSt ({ sbA (.red .add .s32) 0x900000 with bytes := [1, 2, 3, 0x80] }) hitD).route ((stSt ({ sbA (.red .add .s32) 0x900000 with bytes := [1, 2, 3, 0x80] }) hitD).master 0) ({ sbA (.red .add .s32) 0x900000 with bytes := [1, 2, 3, 0x80] }).key true = .ok) ∧ (({ sbA (.red .add .s32) 0x900000 with bytes := [1, 2, 3, 0x80] }).key / 64 = (({ sbA (.red .add .s32) 0x900000 with bytes := [1, 2, 3, 0x80] }).key + ({ sbA (.red .add .s32) 0x900000 with bytes := [1, 2, 3, 0x80] }).bytes.length - 1) / 64) ∧ (({ sbA (.red .add .s32) 0x900000 with bytes := [1, 2, 3, 0x80] }).bytes ≠ []) ∧ ((stSt ({ sbA (.red .add .s32) 0x900000 with bytes := [1, 2, 3, 0x80] }) hitD).partials = [])) :=
  ⟨canon_of (by decide +kernel), by decide +kernel⟩

theorem witness_StoreBufferDrains_red_joins :
    ((stSt ({ sbA (.red .add .s32) 0x900000 with bytes := [1, 2, 3, 0x80] }) (partD 0x900000))).Canon ∧
    ((((stSt ({ sbA (.red .add .s32) 0x900000 with bytes := [1, 2, 3, 0x80] }) (partD 0x900000)).core 0).sbuf = [{ sbA (.red .add .s32) 0x900000 with bytes := [1, 2, 3, 0x80] }]) ∧ ((stSt ({ sbA (.red .add .s32) 0x900000 with bytes := [1, 2, 3, 0x80] }) (partD 0x900000)).mayDrain 0 ({ sbA (.red .add .s32) 0x900000 with bytes := [1, 2, 3, 0x80] }) = true) ∧ ((stSt ({ sbA (.red .add .s32) 0x900000 with bytes := [1, 2, 3, 0x80] }) (partD 0x900000)).splitHeld 0 ({ sbA (.red .add .s32) 0x900000 with bytes := [1, 2, 3, 0x80] }).key = false) ∧ ((stSt ({ sbA (.red .add .s32) 0x900000 with bytes := [1, 2, 3, 0x80] }) (partD 0x900000)).route ((stSt ({ sbA (.red .add .s32) 0x900000 with bytes := [1, 2, 3, 0x80] }) (partD 0x900000)).master 0) ({ sbA (.red .add .s32) 0x900000 with bytes := [1, 2, 3, 0x80] }).key true = .ok) ∧ (({ sbA (.red .add .s32) 0x900000 with bytes := [1, 2, 3, 0x80] }).key / 64 = (({ sbA (.red .add .s32) 0x900000 with bytes := [1, 2, 3, 0x80] }).key + ({ sbA (.red .add .s32) 0x900000 with bytes := [1, 2, 3, 0x80] }).bytes.length - 1) / 64) ∧ (({ sbA (.red .add .s32) 0x900000 with bytes := [1, 2, 3, 0x80] }).bytes ≠ []) ∧ (∀ q ∈ (stSt ({ sbA (.red .add .s32) 0x900000 with bytes := [1, 2, 3, 0x80] }) (partD 0x900000)).partials, q.key = 0x900000 ∧ q.die = entryDie 0 0x900000 ∧ q.op = .add ∧ q.ty = .s32)) :=
  ⟨canon_of (by decide +kernel), by decide +kernel⟩

theorem witness_LostWrites_lost :
    ((((stS .write (tileKey 2 0x4000)).core 0).sbuf = [(sbA .write (tileKey 2 0x4000))]) ∧ ((stS .write (tileKey 2 0x4000)).mayDrain 0 (sbA .write (tileKey 2 0x4000)) = true) ∧ ((sbA .write (tileKey 2 0x4000)).kind = .write) ∧ ((stS .write (tileKey 2 0x4000)).splitHeld 0 (sbA .write (tileKey 2 0x4000)).key = false) ∧ ((stS .write (tileKey 2 0x4000)).route ((stS .write (tileKey 2 0x4000)).master 0) (sbA .write (tileKey 2 0x4000)).key true = .err 7) ∧ (((stS .write (tileKey 2 0x4000)).core 0).lost = false)) :=
  by decide +kernel

theorem witness_LostWrites_refused :
    ((((stS .write (tileKey 1024 0x4000)).core 0).sbuf = [(sbA .write (tileKey 1024 0x4000))]) ∧ ((stS .write (tileKey 1024 0x4000)).mayDrain 0 (sbA .write (tileKey 1024 0x4000)) = true) ∧ ((sbA .write (tileKey 1024 0x4000)).kind = .write) ∧ ((stS .write (tileKey 1024 0x4000)).splitHeld 0 (sbA .write (tileKey 1024 0x4000)).key = false) ∧ ((stS .write (tileKey 1024 0x4000)).route ((stS .write (tileKey 1024 0x4000)).master 0) (sbA .write (tileKey 1024 0x4000)).key true = .refuse)) :=
  by decide +kernel

theorem witness_BlockOperations_pref_nothing :
    (stM).Runs (.pref gt ⟨20, .core, .keep, 0⟩) ∧
    ((((stM.ready (.pref gt ⟨20, .core, .keep, 0⟩)).resolve 0 ((stM.core 0).rx 20 + (0 : BitVec 20).signExtend 64).toNat .rd).2 = none)) :=
  ⟨runs_of (by decide +kernel), by decide +kernel⟩

theorem witness_BlockOperations_pref :
    (stM).Runs (.pref gt ⟨18, .core, .keep, 0⟩) :=
  runs_of (by decide +kernel)

theorem witness_BlockOperations_clean_free :
    (stM).Runs (.clean gt ⟨18, .core, .keep, 0⟩) ∧
    (∃ v, (stM.ready (.clean gt ⟨18, .core, .keep, 0⟩)).checkAddr 0 ((stM.core 0).rx 18 + (0 : BitVec 20).signExtend 64) 1 .rd = (v, .ok 0x900000) ∧ (v.splitHeld 0 0x900000 = false) ∧ ((isDram 0x900000 && isTileCore 0 && (((v.closeWindow 0 0x900000).tile 0).blocks.any (fun b => b.pa == 0x900000 / 64 * 64) || ((v.closeWindow 0 0x900000).core 0).sbuf.any fun e => e.key / 64 == 0x900000 / 64)) = false) ∧ ((v.closeWindow 0 0x900000).cntSt 0 < 255)) :=
  ⟨runs_of (by decide +kernel), ⟨_, pair_of (by decide +kernel), by decide +kernel⟩⟩

theorem witness_BlockOperations_clean_held :
    (stB).Runs (.clean gt ⟨18, .core, .keep, 0⟩) ∧
    (∃ v, (stB.ready (.clean gt ⟨18, .core, .keep, 0⟩)).checkAddr 0 ((stM.core 0).rx 18 + (0 : BitVec 20).signExtend 64) 1 .rd = (v, .ok 0x900000) ∧ (v.splitHeld 0 0x900000 = false) ∧ ((isDram 0x900000 && isTileCore 0 && (((v.closeWindow 0 0x900000).tile 0).blocks.any (fun b => b.pa == 0x900000 / 64 * 64) || ((v.closeWindow 0 0x900000).core 0).sbuf.any fun e => e.key / 64 == 0x900000 / 64)) = true) ∧ ((v.closeWindow 0 0x900000).cntSt 0 < 255)) :=
  ⟨runs_of (by decide +kernel), ⟨_, pair_of (by decide +kernel), by decide +kernel⟩⟩

theorem witness_BlockOperations_inval_free :
    (stM).Runs (.inval gt ⟨18, .core, .keep, 0⟩) ∧
    (∃ v, (stM.ready (.inval gt ⟨18, .core, .keep, 0⟩)).checkAddr 0 ((stM.core 0).rx 18 + (0 : BitVec 20).signExtend 64) 1 .rd = (v, .ok 0x900000) ∧ (v.splitHeld 0 0x900000 = false) ∧ ((isDram 0x900000 && isTileCore 0 && (((v.closeWindow 0 0x900000).tile 0).blocks.any (fun b => b.pa == 0x900000 / 64 * 64) || ((v.closeWindow 0 0x900000).core 0).sbuf.any fun e => e.key / 64 == 0x900000 / 64)) = false) ∧ ((v.closeWindow 0 0x900000).cntSt 0 < 255)) :=
  ⟨runs_of (by decide +kernel), ⟨_, pair_of (by decide +kernel), by decide +kernel⟩⟩

theorem witness_BlockOperations_inval_held :
    (stB).Runs (.inval gt ⟨18, .core, .keep, 0⟩) ∧
    (∃ v, (stB.ready (.inval gt ⟨18, .core, .keep, 0⟩)).checkAddr 0 ((stM.core 0).rx 18 + (0 : BitVec 20).signExtend 64) 1 .rd = (v, .ok 0x900000) ∧ (v.splitHeld 0 0x900000 = false) ∧ ((isDram 0x900000 && isTileCore 0 && (((v.closeWindow 0 0x900000).tile 0).blocks.any (fun b => b.pa == 0x900000 / 64 * 64) || ((v.closeWindow 0 0x900000).core 0).sbuf.any fun e => e.key / 64 == 0x900000 / 64)) = true) ∧ ((v.closeWindow 0 0x900000).cntSt 0 < 255)) :=
  ⟨runs_of (by decide +kernel), ⟨_, pair_of (by decide +kernel), by decide +kernel⟩⟩

theorem witness_HeldAccessArrives_load :
    ((stH.nextLoad 0 = some (ldA .plain)) ∧ ((ldA .plain).kind ≠ .done) ∧ (stH.routeLoad (stH.master 0) (ldA .plain).key (ldA .plain).writes = .held) ∧ (stH.arrives 0 (ldA .plain) = true) ∧ ((stH.tile (stH.holder (ldA .plain).key)).compact = some cpA)) :=
  by decide +kernel

theorem witness_HeldAccessArrives_store :
    ((stH2.nextLoad 0 = none) ∧ (stH2.nextStore 0 = some (sbA .write (tileKey 1 0x4000))) ∧ (stH2.mayDrain 0 (sbA .write (tileKey 1 0x4000)) = true) ∧ (stH2.route (stH2.master 0) (tileKey 1 0x4000) true = .held) ∧ ((stH2.tile (stH2.holder (tileKey 1 0x4000))).compact = some cpA)) :=
  by decide +kernel

end Sys2Proof.Tests
end

