-- ==== Sys2Proof/Tests/WitnessEngine.lean ====
section
/-! SUPPORT. Witnesses, continued: messages, fences, barriers, queues, tags, the vector unit, control registers and system words. -/

open Sys2Proof Sys2Proof.Machine

namespace Sys2Proof.Tests

set_option maxRecDepth 100000
set_option Elab.async false

/-- A state with a mapped page and core 4 running a thread of the same job. -/
def stD (f : Core → Core) : State := (stC f).setCore 4 { coreA with pc := 0x180000 }

def msgA : Msg := { dst := 4, data := 0x1234, bad := false, clk := 3, seq := 0 }

/-- Barrier 5 of die 0 with core 0 as its member, at a phase. -/
def stBar (phase : BitVec 8) (arrived : BitVec 1024) : State :=
  { stM with dies := [(0, { Die.idle with bars := [(5, { Barrier.idle with kind := .team, mask := 1, phase := phase, arrived := arrived })] })] }

/-- A command of the matrix queue that clears accumulator 0. -/
def accZ (age : Nat) : Cmd :=
  { q := .mxq, w := 0x13, hs := [], dph := 0, pc := 0x100000, age := age, since := 0, started := false, xfer := false, logWait := false, born := (0, 0),
    prog := Progress.start }

/-- A row of elements with step 64. -/
def hRow (base cols pitch fmt : Nat) : Wide :=
  BitVec.ofNat 256 (base + 2 ^ 64 + cols * 2 ^ 80 + pitch * 2 ^ 96 + 64 * 2 ^ 160 + fmt * 2 ^ 192)

/-- h1 and h2: 200 FP32 elements; h3: 256 `n8` elements; h4: 64 scaled elements; h5: a handle of no assigned format. -/
def coreV : Core :=
  { coreA with
    h := ((((coreA.h.set 1 (hRow 0x4000 200 800 0)).set 2 (hRow 0x5000 200 800 0)).set 3 (hRow 0x6000 256 256 9)).set 4
      (hRow 0x7000 64 64 15 ||| BitVec.ofNat 256 (2 ^ 200 + 0x100 * 2 ^ 208 + 2 * 2 ^ 232))).set 5 (BitVec.ofNat 256 (31 * 2 ^ 192))
    x := (coreA.x.set 8 0x3F800000).set 9 0x40000000 }
def stV : State := stC fun _ => coreV

def hV : BitVec 4 → VHandle := fun n => ⟨n, false⟩

/-- A membership image at the start of the general range: cores 0 and 4, no links. -/
def stI : State := stM.writeNat (tileKey 0 0x4000) 8 0x11
/-- The same with a bit of the image that must be 0. -/
def stI2 : State := stI.writeNat (tileKey 0 0x4080) 8 0x40

/-- An image across the end of one DRAM page into the next. -/
def stTwo (phase : BitVec 8) : State :=
  (stBar phase 0).onCore 0 fun c => { c with x := c.x.set 5 0x50FF80, tlb := [pageA, { pageA with va := 0x510000, pa := 0xA00000 }] }

def stW (f : Core → Core) : State := { stC f with time := 2 ^ 26 }

/-- x24 to x27 hold a command; `n` commands wait in the matrix queue. -/
def stP (cmd : Word) (n : Nat) : State :=
  stC fun c => { c with x := c.x.set 24 cmd, cmds := (List.range n).map accZ, h := coreV.h }

def stG (tags : Word) : State := stC fun c => { c with tags := tags, x := c.x.set 5 0x8000000000000006 }

/-- One word of every vector instruction. -/
def vecWords : List Instr := [
  .vadd gt ⟨⟨2, true⟩, .h ⟨1, true⟩, .x 8, .rne⟩,
  .vsub gt ⟨hV 2, .h (hV 1), .x 8, .rtz⟩,
  .vmul gt ⟨hV 2, .x 8, .h (hV 1), .rup⟩,
  .vfma gt ⟨hV 2, hV 1, .x 8, .h (hV 2), .rdn⟩,
  .vmin gt ⟨hV 2, .h (hV 1), .x 0⟩,
  .vmax gt ⟨hV 2, .h (hV 1), .h (hV 2)⟩,
  .vabs gt ⟨hV 2, hV 1⟩,
  .vneg gt ⟨hV 2, hV 1⟩,
  .vexp2 gt ⟨hV 2, hV 1, .rne⟩,
  .vlog2 gt ⟨hV 2, hV 1, .rne⟩,
  .vrcp gt ⟨hV 2, hV 1, .rne⟩,
  .vrsq gt ⟨hV 2, hV 1, .rne⟩,
  .vtanh gt ⟨hV 2, hV 1, .rne⟩,
  .vcvt gt ⟨hV 3, hV 1, some 8, some 9, .sr⟩,
  .vquant gt ⟨hV 4, hV 1, some 8, true, none, .rne⟩,
  .vamax gt ⟨7, hV 1, 8, .rne⟩,
  .vred gt ⟨7, hV 1, 8, .rne⟩,
  .vcmp gt ⟨1, 2, .set, .lt, hV 1, .x 8⟩,
  .vsel gt ⟨hV 2, 1, .h (hV 1), .x 8⟩,
  .vperm gt ⟨hV 2, hV 1, hV 3⟩,
  .vbcast gt ⟨hV 2, hV 1, 5⟩,
  .vmov gt ⟨hV 2, .h (hV 1)⟩,
  .vfill gt ⟨hV 2, .x 8⟩,
  .vempty gt (hV 2),
  .vplog gt ⟨1, 0xCA, 1, 2, 3⟩,
  .vpcnt gt ⟨7, 1⟩,
  .vpfirst gt ⟨7, 1⟩,
  .vpmovFromX gt ⟨1, 3, true, 5⟩,
  .vpmovToX gt ⟨7, 3, 1⟩]

/-- `stV` with a checked load outstanding. -/
def stVl : State := stC fun _ => { coreV with loads := [ldA .plain] }

/-- `stV` with one vector word in the queue, and the same with its quarters granted. -/
def stQ (i : Instr) : State := stateAfter i stV
def grantQ (n : Nat) (s : State) : State := s.onCore 0 fun c => { c with vq := c.vq.map fun e => { e with granted := n } }
def vaddW : Instr := .vadd gt ⟨⟨2, true⟩, .h ⟨1, true⟩, .x 8, .rne⟩
def headQ (s : State) : VEntry := (s.core 0).vq.headD { i := vaddW, n := 0, d := 0, a := 0, b := 0, c := 0, mask := 0, dph := 0, pc := 0, age := 0, granted := 0, amax := 0, due := 0 }

/-- Small handles over filled memory. -/
def stSm : State :=
  ((((stC fun _ => { coreV with h := ((((coreV.h.set 1 (hRow 0x4000 16 64 0)).set 2 (hRow 0x4100 16 64 0)).set 3 (hRow 0x4200 16 16 9)).set 4
      (hRow 0x4300 16 16 15 ||| BitVec.ofNat 256 (2 ^ 200 + 0x100 * 2 ^ 208 + 2 * 2 ^ 232))) }).writeNat (tileKey 0 0x4000) 40 (0x3FC00001C0A000007F8000013F80000042000000BF000000 * 2 ^ 64 + 12345678901)).writeNat
    (tileKey 0 0x4100) 40 0x3F80000040A00000FF800000C1200000420000007FC00000).writeNat (tileKey 0 0x4200) 10 0x030A0001090807FF0502)

def stQ8 : State := stateAfter (.vadd gt ⟨hV 2, .h (hV 1), .x 8, .rne⟩) (stC fun _ => { coreV with h := (coreV.h.set 1 (hRow 0x4000 5 20 0)).set 2 (hRow 0x5000 3 12 0) })

def reqA (acc : Bool) (fn : CsrFn) (ra : Word) : SplitReq := { core := 0, rd := 7, acc := acc, fn := fn, ra := ra }
def stR (acc : Bool) (fn : CsrFn) (ra : Word) : State := stM.setTile 0 { tileA with req := some (reqA acc fn ra) }

/-- A supervisor core of die 0 has the turn; x5 names core 0, x6 a page to invalidate and x7 job 1. -/
def stSup : State :=
  { stD id with cur := .sup 0 0 1 }.setCore (2 ^ 23 + 1)
    { coreA with x := ((coreA.x.set 5 0).set 6 0x500001).set 7 1, job := { part := 0, ctx := 0 }, tlb := [] }

/-! ## Witnesses -/

theorem witness_Messages_msend :
    (stM).Runs (.msend gt ⟨5, 16, 0⟩) ∧
    ((((stM.core 0).rx 16 + (0 : BitVec 20).signExtend 64).toNat % 32 = 0) ∧ (ownOff 0 ((stM.core 0).rx 16 + (0 : BitVec 20).signExtend 64) = some 0x4000) ∧ ((0x3000 : Nat) ≤ 0x4000 ∧ 0x4000 < stM.ownEnd 0) ∧ (stM.splitHeld 0 (storeBase 0 + 0x4000) = false) ∧ (stM.mailOut 0 < 8) ∧ (stM.cntSt 0 < 255) ∧ (stM.readBlocked (stM.core 0).sbuf (storeBase 0 + 0x4000) 32 = false)) :=
  ⟨runs_of (by decide +kernel), by decide +kernel⟩

theorem witness_Messages_mrecv :
    ((stM.mailPut 0 4 true msgA)).Runs (.mrecv gt ⟨5, 16, 0⟩) ∧
    (((((stM.mailPut 0 4 true msgA).core 0).rx 16 + (0 : BitVec 20).signExtend 64).toNat % 32 = 0) ∧ (ownOff 0 (((stM.mailPut 0 4 true msgA).core 0).rx 16 + (0 : BitVec 20).signExtend 64) = some 0x4000) ∧ ((0x3000 : Nat) ≤ 0x4000 ∧ 0x4000 < (stM.mailPut 0 4 true msgA).ownEnd 0) ∧ ((stM.mailPut 0 4 true msgA).splitHeld 0 (storeBase 0 + 0x4000) = false) ∧ (((stM.mailPut 0 4 true msgA).core 0).loads = []) ∧ (((stM.mailPut 0 4 true msgA).core 0).sbuf = []) ∧ ((stM.mailPut 0 4 true msgA).mailUsed 0 ≠ 0)) :=
  ⟨runs_of (by decide +kernel), by decide +kernel⟩

theorem witness_Messages_delivery :
    ((stD fun c => { c with msgs := [msgA] })).Canon ∧
    ((((stD fun c => { c with msgs := [msgA] }).core 0).msgs = [msgA]) ∧ ((stD fun c => { c with msgs := [msgA] }).fate 0 msgA = .deliver) ∧ ((stD fun c => { c with msgs := [msgA] }).msgTurn 0 msgA = true) ∧ ((0 : Nat) ≠ msgA.dst.toNat)) :=
  ⟨canon_of (by decide +kernel), by decide +kernel⟩

theorem witness_Messages_back :
    ((stC fun c => { c with msgs := [msgA] })).Canon ∧
    ((((stC fun c => { c with msgs := [msgA] }).core 0).msgs = [msgA]) ∧ ((stC fun c => { c with msgs := [msgA] }).msgTurn 0 msgA = true) ∧ (((stC fun c => { c with msgs := [msgA] }).core 0).birth ≤ msgA.seq) ∧ ((stC fun c => { c with msgs := [msgA] }).fate 0 msgA = .back) ∧ ((stC fun c => { c with msgs := [msgA] }).mailUsed 0 < 32)) :=
  ⟨canon_of (by decide +kernel), by decide +kernel⟩

theorem witness_FencesAndWaits_fence :
    (stM).Runs (.fence gt ⟨.pod, true, true, true, true, true, false, true⟩) ∧
    (stM).Runs (.fence gt ⟨.pod, true, true, true, true, true, true, true⟩) ∧
    ((stM.faultPend 0 = false) ∧ ((stM.core 0).lost = false) ∧ ((stM.core 0).loads = []) ∧ (stM.released 0 stM.seq .pod = true) ∧ (isTileCore 0 = true)) :=
  ⟨runs_of (by decide +kernel), runs_of (by decide +kernel), by decide +kernel⟩

theorem witness_FencesAndWaits_wait :
    (stM).Runs (.wait gt ⟨0, 0, 0, 0, 0⟩) ∧
    ((stM.faultPend 0 = false) ∧ (within (stM.core 0).cntLd 0 = true) ∧ (within (stM.cntSt 0) 0 = true) ∧ (within (stM.core 0).cntVx 0 = true) ∧ (within (stM.core 0).cntCp 0 = true) ∧ (within (stM.core 0).cntTl 0 = true)) :=
  ⟨runs_of (by decide +kernel), by decide +kernel⟩

theorem witness_FencesAndWaits_lost_write :
    ((stC fun c => { c with remerr := 0x100010007 })).Runs (.fence gt ⟨.pod, true, true, true, true, true, false, true⟩) ∧
    ((stC fun c => { c with remerr := 0x100010007 })).Handles 0 ∧
    (((stC fun c => { c with remerr := 0x100010007 }).faultPend 0 = false) ∧ (((stC fun c => { c with remerr := 0x100010007 }).core 0).lost = true) ∧ (((stC fun c => { c with remerr := 0x100010007 }).core 0).remerr.toNat % 2 ^ 16 ∉ [6, 9, 13])) :=
  ⟨runs_of (by decide +kernel), handles_of (by decide +kernel), by decide +kernel⟩

theorem witness_BarrierWords_arrive_outside :
    (stM).Runs (.arrive gt 7 5) ∧
    ((stM.isCompactBar 0 5 = false) ∧ (stM.member 0 5 = false)) :=
  ⟨runs_of (by decide +kernel), by decide +kernel⟩

theorem witness_BarrierWords_arrive_member :
    (stBar 255 0).Runs (.arrive gt 7 5) ∧
    (((stBar 255 0).isCompactBar 0 5 = false) ∧ ((stBar 255 0).member 0 5 = true) ∧ ((stBar 255 0).hasArrived 0 5 = false) ∧ ((stBar 255 0).released 0 (stBar 255 0).seq ((stBar 255 0).barScope (coreDieKey 0) 5 0) = true)) :=
  ⟨runs_of (by decide +kernel), by decide +kernel⟩

theorem witness_BarrierWords_next_phase :
    (stBar 8 0).Runs (.bwait gt 5 5 1 2) ∧
    (((stBar 8 0).isCompactBar 0 5 = false) ∧ ((((stBar 8 0).bar 0 5).phase - (((stBar 8 0).core 0).rx 5).truncate 8).toNat = 1)) :=
  ⟨runs_of (by decide +kernel), by decide +kernel⟩

theorem witness_BarrierWords_last_phase :
    (stBar 134 0).Runs (.bwait gt 5 5 1 2) ∧
    (((stBar 134 0).isCompactBar 0 5 = false) ∧ ((((stBar 134 0).bar 0 5).phase - (((stBar 134 0).core 0).rx 5).truncate 8).toNat = 127)) :=
  ⟨runs_of (by decide +kernel), by decide +kernel⟩

theorem witness_BarrierWords_future_token :
    (stBar 135 0).Runs (.bwait gt 5 5 1 2) ∧
    (stBar 135 0).Handles 0 ∧
    (((stBar 135 0).isCompactBar 0 5 = false) ∧ ((((stBar 135 0).bar 0 5).phase - (((stBar 135 0).core 0).rx 5).truncate 8).toNat = 128)) :=
  ⟨runs_of (by decide +kernel), handles_of (by decide +kernel), by decide +kernel⟩

theorem witness_BarrierWords_waits :
    (stBar 7 0).Runs (.bwait gt 5 5 1 2) ∧
    (((stBar 7 0).isCompactBar 0 5 = false) ∧ ((((stBar 7 0).bar 0 5).phase - (((stBar 7 0).core 0).rx 5).truncate 8).toNat = 0)) :=
  ⟨runs_of (by decide +kernel), by decide +kernel⟩

theorem witness_BarrierWords_compact :
    ({ stM with dies := [(0, { Die.idle with bars := [(5, { Barrier.idle with kind := .compact 3 job1, mask := 1 })] })] }).Runs (.arrive gt 7 5) ∧
    ({ stM with dies := [(0, { Die.idle with bars := [(5, { Barrier.idle with kind := .compact 3 job1, mask := 1 })] })] }).Runs (.bwait gt 5 5 1 2) ∧
    ({ stM with dies := [(0, { Die.idle with bars := [(5, { Barrier.idle with kind := .compact 3 job1, mask := 1 })] })] }).Handles 0 ∧
    ((({ stM with dies := [(0, { Die.idle with bars := [(5, { Barrier.idle with kind := .compact 3 job1, mask := 1 })] })] }).isCompactBar 0 5 = true)) :=
  ⟨runs_of (by decide +kernel), runs_of (by decide +kernel), handles_of (by decide +kernel), by decide +kernel⟩

theorem witness_MembershipImages_write :
    (stI).Runs (.bmask gt 5 16) ∧
    (∃ u, (stI.ready (.bmask gt 5 16)).readMem 0 (((stI.core 0).rx 16)).toNat 256 = (u, .ok ((toBytes 256 (0x11)), false)) ∧ ((stI.bar 0 5).kind = .free) ∧ ((stI.bar 0 5).arrived = 0) ∧ (u.imageBad 0 (leNat (toBytes 256 (0x11))) = false) ∧ (u.linksLeave 0 (leNat (toBytes 256 (0x11))) = false)) :=
  ⟨runs_of (by decide +kernel), ⟨_, pair_of (by decide +kernel), by decide +kernel⟩⟩

theorem witness_MembershipImages_format :
    (stI2).Runs (.bmask gt 5 16) ∧
    (∃ u, (stI2.ready (.bmask gt 5 16)).readMem 0 (((stI2.core 0).rx 16)).toNat 256 = (u, .ok ((toBytes 256 (0x11 + 2 ^ 1030)), false)) ∧ ((stI2.bar 0 5).kind = .free) ∧ ((stI2.bar 0 5).arrived = 0) ∧ (u.imageBad 0 (leNat (toBytes 256 (0x11 + 2 ^ 1030))) = true)) :=
  ⟨runs_of (by decide +kernel), ⟨_, pair_of (by decide +kernel), by decide +kernel⟩⟩

theorem witness_MembershipImages_read :
    ((stBar 7 0)).Runs (.bmaskRd gt 5 16) ∧
    (∃ v, ((stBar 7 0).ready (.bmaskRd gt 5 16)).checkAddr 0 (((stBar 7 0).core 0).rx 16) 64 .wr = (v, .ok (tileKey 0 0x4000)) ∧ (v.splitHeld 0 (tileKey 0 0x4000) = false) ∧ (256 ≤ 2 ^ 16 - (((stBar 7 0).core 0).rx 16).toNat % 2 ^ 16) ∧ ((v.closeWindow 0 (tileKey 0 0x4000)).route ((v.closeWindow 0 (tileKey 0 0x4000)).master 0) (tileKey 0 0x4000) true ≠ .page) ∧ ((v.closeWindow 0 (tileKey 0 0x4000)).cntSt 0 < 255)) :=
  ⟨runs_of (by decide +kernel), ⟨_, pair_of (by decide +kernel), by decide +kernel⟩⟩

theorem witness_MembershipImages_read_two :
    ((stTwo 7)).Runs (.bmaskRd gt 5 5) ∧
    (∃ v, ((stTwo 7).ready (.bmaskRd gt 5 5)).checkAddr 0 (((stTwo 7).core 0).rx 5) 64 .wr = (v, .ok 0x90FF80) ∧ (v.splitHeld 0 0x90FF80 = false) ∧ (2 ^ 16 - (((stTwo 7).core 0).rx 5).toNat % 2 ^ 16 < 256) ∧ (((v.closeWindow 0 0x90FF80).checkAddr 0 (((stTwo 7).core 0).rx 5 + 0x80) 64 .wr).2 = .ok 0xA00000) ∧ ((v.closeWindow 0 0x90FF80).route ((v.closeWindow 0 0x90FF80).master 0) 0x90FF80 true ≠ .page) ∧ ((v.closeWindow 0 0x90FF80).route ((v.closeWindow 0 0x90FF80).master 0) 0xA00000 true ≠ .page) ∧ ((v.closeWindow 0 0x90FF80).cntSt 0 < 254)) :=
  ⟨runs_of (by decide +kernel), ⟨_, pair_of (by decide +kernel), by decide +kernel⟩⟩

theorem witness_PhasesAndTimeouts_complete :
    (((stBar 255 1).phaseReady (dieKey 0 0) 5 = true) ∧ ((stBar 255 0).phaseReady (dieKey 0 0) 5 = false)) :=
  by decide +kernel

theorem witness_PhasesAndTimeouts_timeout :
    ((((stW fun c => { c with bwaiting := some (63, 0), waitFrom := some 0 }).core 0).bwaiting = some (63, 0)) ∧ (((stW fun c => { c with bwaiting := some (63, 0), waitFrom := some 0 }).core 0).waitFrom = some 0) ∧ (((stW fun c => { c with bwaiting := some (63, 0), waitFrom := some 0 }).core 0).st = .running) ∧ ((stW fun c => { c with bwaiting := some (63, 0), waitFrom := some 0 }).phase 0 63 = 0) ∧ (0 + 2 ^ 26 ≤ (stW fun c => { c with bwaiting := some (63, 0), waitFrom := some 0 }).time) ∧ (((stW fun c => { c with bwaiting := some (63, 0), waitFrom := some 0 }).core 0).settled = true)) :=
  by decide +kernel

theorem witness_PushAndQstat_push :
    ((stP 0x13 15)).Runs (.push gt .mxq 6) ∧
    (∀ n ∈ namedWords (((stP 0x13 15).core 0).block 6), n ∉ ((stP 0x13 15).core 0).pendingWords ∧ (stP 0x13 15).Sound 0 n) ∧
    (((stP 0x13 15).faultPend 0 = false) ∧ (opcAccepted .mxq (cf (((stP 0x13 15).core 0).block 6) 0 8) = true) ∧ (((((stP 0x13 15).ready (.push gt .mxq 6)).fill 0 (namedWords (((stP 0x13 15).core 0).block 6)) [])).cmdBad 0 (((stP 0x13 15).core 0).block 6) (((stP 0x13 15).core 0).snapshot (((stP 0x13 15).core 0).block 6)) = false) ∧ (scaleShort (((stP 0x13 15).core 0).block 6) (((stP 0x13 15).core 0).snapshot (((stP 0x13 15).core 0).block 6)) = false) ∧ (((((stP 0x13 15).ready (.push gt .mxq 6)).fill 0 (namedWords (((stP 0x13 15).core 0).block 6)) [])).queueFull 0 .mxq = false) ∧ (((((stP 0x13 15).ready (.push gt .mxq 6)).fill 0 (namedWords (((stP 0x13 15).core 0).block 6)) [])).pushWaits 0 .mxq = false)) :=
  ⟨runs_of (by decide +kernel), free_of (by decide +kernel), by decide +kernel⟩

theorem witness_PushAndQstat_push_copy :
    ((stP 0x210001 0)).Runs (.push gt .cpq 6) ∧
    (∀ n ∈ namedWords (((stP 0x210001 0).core 0).block 6), n ∉ ((stP 0x210001 0).core 0).pendingWords ∧ (stP 0x210001 0).Sound 0 n) ∧
    (((stP 0x210001 0).faultPend 0 = false) ∧ (opcAccepted .cpq (cf (((stP 0x210001 0).core 0).block 6) 0 8) = true) ∧ (((((stP 0x210001 0).ready (.push gt .cpq 6)).fill 0 (namedWords (((stP 0x210001 0).core 0).block 6)) [])).cmdBad 0 (((stP 0x210001 0).core 0).block 6) (((stP 0x210001 0).core 0).snapshot (((stP 0x210001 0).core 0).block 6)) = false) ∧ (scaleShort (((stP 0x210001 0).core 0).block 6) (((stP 0x210001 0).core 0).snapshot (((stP 0x210001 0).core 0).block 6)) = false) ∧ (((((stP 0x210001 0).ready (.push gt .cpq 6)).fill 0 (namedWords (((stP 0x210001 0).core 0).block 6)) [])).queueFull 0 .cpq = false) ∧ (((((stP 0x210001 0).ready (.push gt .cpq 6)).fill 0 (namedWords (((stP 0x210001 0).core 0).block 6)) [])).pushWaits 0 .cpq = false)) :=
  ⟨runs_of (by decide +kernel), free_of (by decide +kernel), by decide +kernel⟩

theorem witness_PushAndQstat_try :
    ((stP 0x13 15)).Runs (.pushTry gt .mxq 6 1 2) ∧
    (∀ n ∈ namedWords (((stP 0x13 15).core 0).block 6), n ∉ ((stP 0x13 15).core 0).pendingWords ∧ (stP 0x13 15).Sound 0 n) ∧
    (((stP 0x13 15).faultPend 0 = false) ∧ (opcAccepted .mxq (cf (((stP 0x13 15).core 0).block 6) 0 8) = true) ∧ (((((stP 0x13 15).ready (.pushTry gt .mxq 6 1 2)).fill 0 (namedWords (((stP 0x13 15).core 0).block 6)) [])).cmdBad 0 (((stP 0x13 15).core 0).block 6) (((stP 0x13 15).core 0).snapshot (((stP 0x13 15).core 0).block 6)) = false) ∧ (scaleShort (((stP 0x13 15).core 0).block 6) (((stP 0x13 15).core 0).snapshot (((stP 0x13 15).core 0).block 6)) = false) ∧ (((((stP 0x13 15).ready (.pushTry gt .mxq 6 1 2)).fill 0 (namedWords (((stP 0x13 15).core 0).block 6)) [])).queueFull 0 .mxq = false) ∧ (((((stP 0x13 15).ready (.pushTry gt .mxq 6 1 2)).fill 0 (namedWords (((stP 0x13 15).core 0).block 6)) [])).pushWaits 0 .mxq = false)) :=
  ⟨runs_of (by decide +kernel), free_of (by decide +kernel), by decide +kernel⟩

theorem witness_PushAndQstat_try_full :
    ((stP 0x13 16)).Runs (.pushTry gt .mxq 6 1 2) ∧
    (∀ n ∈ namedWords (((stP 0x13 16).core 0).block 6), n ∉ ((stP 0x13 16).core 0).pendingWords ∧ (stP 0x13 16).Sound 0 n) ∧
    (((stP 0x13 16).faultPend 0 = false) ∧ (opcAccepted .mxq (cf (((stP 0x13 16).core 0).block 6) 0 8) = true) ∧ (((((stP 0x13 16).ready (.pushTry gt .mxq 6 1 2)).fill 0 (namedWords (((stP 0x13 16).core 0).block 6)) [])).cmdBad 0 (((stP 0x13 16).core 0).block 6) (((stP 0x13 16).core 0).snapshot (((stP 0x13 16).core 0).block 6)) = false) ∧ (scaleShort (((stP 0x13 16).core 0).block 6) (((stP 0x13 16).core 0).snapshot (((stP 0x13 16).core 0).block 6)) = false) ∧ (((((stP 0x13 16).ready (.pushTry gt .mxq 6 1 2)).fill 0 (namedWords (((stP 0x13 16).core 0).block 6)) [])).queueFull 0 .mxq = true) ∧ (((((stP 0x13 16).ready (.pushTry gt .mxq 6 1 2)).fill 0 (namedWords (((stP 0x13 16).core 0).block 6)) [])).pushWaits 0 .mxq = false)) :=
  ⟨runs_of (by decide +kernel), free_of (by decide +kernel), by decide +kernel⟩

theorem witness_PushAndQstat_qstat : ∀ i ∈ ([
    .qstat gt .mxq 7,
    .qstat gt .lnq 31] : List Instr), (stP 0x13 3).Runs i :=
  runs_all (by decide +kernel)

theorem witness_TagWords_set :
    (stG 0x8000000000000004).Runs (.twait gt 63) ∧
    (stG 0x8000000000000004).Runs (.tany gt 7 5) ∧
    (stG 0x8000000000000004).Runs (.tany gt 7 0) ∧
    (stG 0x8000000000000004).Runs (.tfind gt 7 0) ∧
    (stG 0x8000000000000004).Runs (.tfind gt 7 5) ∧
    (stG 0).Runs (.cancel gt 63 7) ∧
    (((stG 0x8000000000000004).faultPend 0 = false) ∧ (((stG 0x8000000000000004).core 0).tags.getLsbD 63 = true) ∧ (((stG 0x8000000000000004).core 0).tags &&& ((stG 0x8000000000000004).core 0).rx 5 ≠ 0) ∧ (((stG 0x8000000000000004).core 0).rx 0 = 0)) :=
  ⟨runs_of (by decide +kernel), runs_of (by decide +kernel), runs_of (by decide +kernel), runs_of (by decide +kernel), runs_of (by decide +kernel), runs_of (by decide +kernel), by decide +kernel⟩

theorem witness_ArrivalObjects_init :
    (stM).Runs (.abinit gt 63 5) ∧
    (stM).Runs (.abinitReset gt 0 0) :=
  ⟨runs_of (by decide +kernel), runs_of (by decide +kernel)⟩

theorem witness_ArrivalObjects_met :
    ((stM.writeNat (arrivalKey (storeBase 0) 63) 16 (3 * 2 ^ 64))).Runs (.abwait gt 63) ∧
    (((stM.writeNat (arrivalKey (storeBase 0) 63) 16 (3 * 2 ^ 64)).faultPend 0 = false) ∧ (getFld ((stM.writeNat (arrivalKey (storeBase 0) 63) 16 (3 * 2 ^ 64)).readNat (arrivalKey (storeBase 0) 63) 16) 65 1 = 1)) :=
  ⟨runs_of (by decide +kernel), by decide +kernel⟩

theorem witness_ArrivalObjects_timeout :
    ((((stW fun c => { c with abwaiting := some 63, waitFrom := some 0 }).core 0).abwaiting = some 63) ∧ (((stW fun c => { c with abwaiting := some 63, waitFrom := some 0 }).core 0).waitFrom = some 0) ∧ (((stW fun c => { c with abwaiting := some 63, waitFrom := some 0 }).core 0).st = .running) ∧ (0 + 2 ^ 26 ≤ (stW fun c => { c with abwaiting := some 63, waitFrom := some 0 }).time) ∧ (((stW fun c => { c with abwaiting := some 63, waitFrom := some 0 }).core 0).settled = true) ∧ (getFld ((stW fun c => { c with abwaiting := some 63, waitFrom := some 0 }).readNat (arrivalKey (storeBase 0) 63) 16) 65 1 = 0)) :=
  by decide +kernel

theorem witness_HandleRegisterWords_all : ∀ i ∈ ([
    .hset gt 1 4 5,
    .hset gt 15 14 5,
    .hget gt 7 1 0,
    .hmov gt 1 2,
    .hadv gt 1 0,
    .hadv gt 1 5] : List Instr), (stV).Runs i :=
  runs_all (by decide +kernel)

theorem witness_VectorWordsEnter : ∀ i ∈ vecWords, stV.RunsLanes i := lanes_all (by decide +kernel)

theorem witness_VectorWordsEnter_checks :
    (∀ i ∈ vecWords, i.isVector = true ∧ (stV.readyLanes i).vecCheck 0 i = none ∧ absmaxAddr i (stV.core 0) = none) ∧
    (stV.core 0).vq.length < 32 ∧ (stV.tile 0).compact = none := by decide +kernel

theorem witness_VectorWordsEnter_absmax :
    (stV).RunsLanes (.vquant gt ⟨hV 4, hV 1, some 8, true, some (16, .tile), .rne⟩) ∧
    (∃ v, (stV.readyLanes (.vquant gt ⟨hV 4, hV 1, some 8, true, some (16, .tile), .rne⟩)).checkAddr 0 0x0100000000004000 4 .rw = (v, .ok (tileKey 0 0x4000)) ∧ (absmaxAddr (.vquant gt ⟨hV 4, hV 1, some 8, true, some (16, .tile), .rne⟩) (stV.core 0) = some 0x0100000000004000) ∧ (v.splitHeld 0 (tileKey 0 0x4000) = false) ∧ ((stV.readyLanes (.vquant gt ⟨hV 4, hV 1, some 8, true, some (16, .tile), .rne⟩)).vecCheck 0 (.vquant gt ⟨hV 4, hV 1, some 8, true, some (16, .tile), .rne⟩) = none)) :=
  ⟨lanes_of (by decide +kernel), ⟨_, pair_of (by decide +kernel), by decide +kernel⟩⟩

theorem witness_VectorChecksTrap_format :
    (stV).RunsLanes (.vadd gt ⟨hV 5, .h (hV 1), .x 8, .rne⟩) ∧
    (stV).Handles 0 ∧
    ((Instr.isVector (.vadd gt ⟨hV 5, .h (hV 1), .x 8, .rne⟩) = true) ∧ ((stV.readyLanes (.vadd gt ⟨hV 5, .h (hV 1), .x 8, .rne⟩)).vecCheck 0 (.vadd gt ⟨hV 5, .h (hV 1), .x 8, .rne⟩) = some (3, 5))) :=
  ⟨lanes_of (by decide +kernel), handles_of (by decide +kernel), by decide +kernel⟩

theorem witness_VectorChecksTrap_rule :
    (stV).RunsLanes (.vadd gt ⟨hV 3, .h (hV 1), .x 8, .rne⟩) ∧
    (stV).Handles 0 ∧
    ((Instr.isVector (.vadd gt ⟨hV 3, .h (hV 1), .x 8, .rne⟩) = true) ∧ ((stV.readyLanes (.vadd gt ⟨hV 3, .h (hV 1), .x 8, .rne⟩)).vecCheck 0 (.vadd gt ⟨hV 3, .h (hV 1), .x 8, .rne⟩) = some (3, 3))) :=
  ⟨lanes_of (by decide +kernel), handles_of (by decide +kernel), by decide +kernel⟩

theorem witness_VectorWordsSuppressed_vadd :
    (stV).Canon ∧
    (∀ w ∈ named (.vadd ⟨0, 0, 0, 0⟩ ⟨hV 2, .h (hV 1), .x 8, .rne⟩), w ∉ (stV.core stV.me).pendingWords ∧ stV.Sound stV.me w) ∧
    ((Instr.isVector (.vadd ⟨0, 0, 0, 0⟩ ⟨hV 2, .h (hV 1), .x 8, .rne⟩) = true) ∧ ((stV.core stV.me).st = .running) ∧ (stV.laneMask (.vadd ⟨0, 0, 0, 0⟩ ⟨hV 2, .h (hV 1), .x 8, .rne⟩) = 0) ∧ ((stV.core stV.me).checked = false) ∧ (∀ w ∈ Instr.lateWords (.vadd ⟨0, 0, 0, 0⟩ ⟨hV 2, .h (hV 1), .x 8, .rne⟩), w ∉ (stV.core stV.me).pendingWords)) :=
  ⟨canon_of (by decide +kernel), free_of (by decide +kernel), by decide +kernel⟩

theorem witness_VectorWordsSuppressed_vcmp :
    (stV).Canon ∧
    (∀ w ∈ named (.vcmp ⟨0, 0, 0, 0⟩ ⟨1, 2, .clr, .lt, hV 1, .x 8⟩), w ∉ (stV.core stV.me).pendingWords ∧ stV.Sound stV.me w) ∧
    ((Instr.isVector (.vcmp ⟨0, 0, 0, 0⟩ ⟨1, 2, .clr, .lt, hV 1, .x 8⟩) = true) ∧ ((stV.core stV.me).st = .running) ∧ (stV.laneMask (.vcmp ⟨0, 0, 0, 0⟩ ⟨1, 2, .clr, .lt, hV 1, .x 8⟩) = 0) ∧ ((stV.core stV.me).checked = false) ∧ (∀ w ∈ Instr.lateWords (.vcmp ⟨0, 0, 0, 0⟩ ⟨1, 2, .clr, .lt, hV 1, .x 8⟩), w ∉ (stV.core stV.me).pendingWords)) :=
  ⟨canon_of (by decide +kernel), free_of (by decide +kernel), by decide +kernel⟩

theorem witness_VectorWordsSuppressed_checked :
    (stVl).Canon ∧
    (∀ w ∈ named (.vadd ⟨0, 0, 0, 0⟩ ⟨hV 2, .h (hV 1), .x 8, .rne⟩), w ∉ (stVl.core stVl.me).pendingWords ∧ stVl.Sound stVl.me w) ∧
    ((Instr.isVector (.vadd ⟨0, 0, 0, 0⟩ ⟨hV 2, .h (hV 1), .x 8, .rne⟩) = true) ∧ ((stVl.core stVl.me).st = .running) ∧ (stVl.laneMask (.vadd ⟨0, 0, 0, 0⟩ ⟨hV 2, .h (hV 1), .x 8, .rne⟩) = 0) ∧ ((stVl.core stVl.me).checked = true) ∧ (clears (.vadd ⟨0, 0, 0, 0⟩ ⟨hV 2, .h (hV 1), .x 8, .rne⟩) = false)) :=
  ⟨canon_of (by decide +kernel), free_of (by decide +kernel), by decide +kernel⟩

theorem witness_QuartersAndCompletion_grant :
    (((arbitrate (stQ vaddW |>.tile 0).vstarve ((stQ vaddW).vecCands 0)).isSome = true)) :=
  by decide +kernel

theorem witness_QuartersAndCompletion_wait :
    ((((stQ vaddW).core 0).vq = [headQ (stQ vaddW)]) ∧ ((headQ (stQ vaddW)).granted < 4)) :=
  by decide +kernel

theorem witness_QuartersAndCompletion_complete :
    ((((grantQ 4 (stQ vaddW)).core 0).vq = [headQ (grantQ 4 (stQ vaddW))]) ∧ ((headQ (grantQ 4 (stQ vaddW))).granted = 4) ∧ ((grantQ 4 (stQ vaddW)).vecClosed 0 (headQ (grantQ 4 (stQ vaddW))) = none) ∧ ((grantQ 4 (stQ vaddW)).vecMarked (storeBase 0) (headQ (grantQ 4 (stQ vaddW))) = none) ∧ ((headQ (grantQ 4 (stQ vaddW))).reduces = false)) :=
  by decide +kernel

theorem witness_QuartersAndCompletion_reduces :
    ((((grantQ 4 (stQ (.vquant gt ⟨hV 4, hV 1, some 8, true, some (16, .tile), .rne⟩))).core 0).vq = [headQ (grantQ 4 (stQ (.vquant gt ⟨hV 4, hV 1, some 8, true, some (16, .tile), .rne⟩)))]) ∧ ((headQ (grantQ 4 (stQ (.vquant gt ⟨hV 4, hV 1, some 8, true, some (16, .tile), .rne⟩)))).granted = 4) ∧ ((grantQ 4 (stQ (.vquant gt ⟨hV 4, hV 1, some 8, true, some (16, .tile), .rne⟩))).vecClosed 0 (headQ (grantQ 4 (stQ (.vquant gt ⟨hV 4, hV 1, some 8, true, some (16, .tile), .rne⟩)))) = none) ∧ ((grantQ 4 (stQ (.vquant gt ⟨hV 4, hV 1, some 8, true, some (16, .tile), .rne⟩))).vecMarked (storeBase 0) (headQ (grantQ 4 (stQ (.vquant gt ⟨hV 4, hV 1, some 8, true, some (16, .tile), .rne⟩)))) = none) ∧ ((headQ (grantQ 4 (stQ (.vquant gt ⟨hV 4, hV 1, some 8, true, some (16, .tile), .rne⟩)))).reduces = true)) :=
  by decide +kernel

theorem witness_LaneArithmetic_vadd :
    (stQ vaddW).Canon ∧
    (((headQ (stQ vaddW)).i = vaddW) ∧ (hFmt (headQ (stQ vaddW)).d < 3) ∧ (handleShape (headQ (stQ vaddW)).d = false) ∧ ((headQ (stQ vaddW)).active.length = 64)) :=
  ⟨canon_of (by decide +kernel), by decide +kernel⟩

/-- Every vector word stands in the queue with what the statement of its lanes asks of it. -/
theorem witness_LaneArithmetic_words : ∀ i ∈ vecWords, (stQ i).Canon ∧ (headQ (stQ i)).i = i ∧
    (asHandle i.slots.d (headQ (stQ i)).d ≠ none → hFmt (headQ (stQ i)).d < 22 ∧ handleShape (headQ (stQ i)).d = false) := fun i hi =>
  ⟨canon_of (List.all_eq_true.mp (show vecWords.all (fun i => canonB (stQ i)) = true by decide +kernel) i hi),
    (show ∀ i ∈ vecWords, (headQ (stQ i)).i = i ∧
      (asHandle i.slots.d (headQ (stQ i)).d ≠ none → hFmt (headQ (stQ i)).d < 22 ∧ handleShape (headQ (stQ i)).d = false) by decide +kernel) i hi⟩

theorem witness_LaneArithmetic_scales :
    ((hGeom (headQ (stQ (.vquant gt ⟨hV 4, hV 1, some 8, true, none, .rne⟩))).d ≠ 0)) :=
  by decide +kernel

theorem witness_ControlRegisterWords_all : ∀ i ∈ ([
    .csrr gt 7 0x000,
    .csrr gt 7 0x302,
    .csrw gt ⟨7, 5, 0x100⟩,
    .csrw gt ⟨7, 5, 0x103⟩,
    .csrw gt ⟨7, 5, 0x104⟩,
    .csrw gt ⟨7, 5, 0x200⟩,
    .csrw gt ⟨7, 5, 0x204⟩,
    .csrw gt ⟨7, 5, 0x205⟩,
    .csrset gt ⟨7, 5, 0x100⟩,
    .csrset gt ⟨7, 5, 0x103⟩,
    .csrset gt ⟨7, 5, 0x104⟩,
    .csrset gt ⟨7, 5, 0x200⟩,
    .csrset gt ⟨7, 5, 0x204⟩,
    .csrset gt ⟨7, 5, 0x205⟩,
    .csrclr gt ⟨7, 5, 0x100⟩,
    .csrclr gt ⟨7, 5, 0x103⟩,
    .csrclr gt ⟨7, 5, 0x104⟩,
    .csrclr gt ⟨7, 5, 0x200⟩,
    .csrclr gt ⟨7, 5, 0x204⟩,
    .csrclr gt ⟨7, 5, 0x205⟩] : List Instr), (stV).Runs i :=
  runs_all (by decide +kernel)

theorem witness_RefusedByDecode_tlbi :
    ((Instr.isWord (.tlbi gt 0 0 .tile) = true) ∧ (Instr.isVector (.tlbi gt 0 0 .tile) = false) ∧ ((stV.core 0).st = .running) ∧ (refusedByRole 0 (.tlbi gt 0 0 .tile) = true ∨ refusedCsr 0 (.tlbi gt 0 0 .tile) = true) ∧ ((stV.core 0).settled = true)) :=
  by decide +kernel

theorem witness_RefusedByDecode_qget :
    ((Instr.isWord (.qget gt 8 0 0 0) = true) ∧ (Instr.isVector (.qget gt 8 0 0 0) = false) ∧ ((stV.core 0).st = .running) ∧ (refusedByRole 0 (.qget gt 8 0 0 0) = true ∨ refusedCsr 0 (.qget gt 8 0 0 0) = true) ∧ ((stV.core 0).settled = true)) :=
  by decide +kernel

theorem witness_RefusedByDecode_csr :
    ((Instr.isWord (.csrw gt ⟨7, 5, 0x000⟩) = true) ∧ (Instr.isVector (.csrw gt ⟨7, 5, 0x000⟩) = false) ∧ ((stV.core 0).st = .running) ∧ (refusedByRole 0 (.csrw gt ⟨7, 5, 0x000⟩) = true ∨ refusedCsr 0 (.csrw gt ⟨7, 5, 0x000⟩) = true) ∧ ((stV.core 0).settled = true)) :=
  by decide +kernel

theorem witness_RefusedByDecode_csrr :
    ((Instr.isWord (.csrr gt 7 0x808) = true) ∧ (Instr.isVector (.csrr gt 7 0x808) = false) ∧ ((stV.core 0).st = .running) ∧ (refusedByRole 0 (.csrr gt 7 0x808) = true ∨ refusedCsr 0 (.csrr gt 7 0x808) = true) ∧ ((stV.core 0).settled = true)) :=
  by decide +kernel

theorem witness_SplitWrites_accsplit :
    ((((stR true .set 0x1111).tile 0).req = some (reqA true .set 0x1111)) ∧ (((stR true .set 0x1111).core 0).st = .running) ∧ ((stR true .set 0x1111).splitReady 0 true = true) ∧ (((stR true .set 0x1111).tile 0).compact = none)) :=
  by decide +kernel

theorem witness_SplitWrites_acc_clr :
    ((((stR true .clr 0xFF).tile 0).req = some (reqA true .clr 0xFF)) ∧ (((stR true .clr 0xFF).core 0).st = .running) ∧ ((stR true .clr 0xFF).splitReady 0 true = true) ∧ (((stR true .clr 0xFF).tile 0).compact = none)) :=
  by decide +kernel

theorem witness_SplitWrites_tsplit :
    ((((stR false .write 15).tile 0).req = some (reqA false .write 15)) ∧ (((stR false .write 15).core 0).st = .running) ∧ ((stR false .write 15).splitReady 0 false = true) ∧ (((stR false .write 15).tile 0).compact = none) ∧ ((stR false .write 15).splitAllowed 0 15 = true)) :=
  by decide +kernel

theorem witness_SplitWrites_tsplit_refused :
    ((((stR false .set 0x1F).tile 0).req = some (reqA false .set 0x1F)) ∧ (((stR false .set 0x1F).core 0).st = .running) ∧ ((stR false .set 0x1F).splitReady 0 false = true) ∧ (((stR false .set 0x1F).tile 0).compact = none) ∧ ((stR false .set 0x1F).splitAllowed 0 0x1F = false)) :=
  by decide +kernel

theorem witness_SystemWords_wfi_limit :
    ((stW fun c => { c with wfiLimit := some (2 ^ 26), waitFrom := some 0 })).Runs (.wfi gt 5) ∧
    ((((stW fun c => { c with wfiLimit := some (2 ^ 26), waitFrom := some 0 }).core 0).wfiLimit = some (2 ^ 26)) ∧ (((stW fun c => { c with wfiLimit := some (2 ^ 26), waitFrom := some 0 }).core 0).waitFrom = some 0) ∧ ((2 : Nat) ^ 26 ≠ 0) ∧ (0 + 2 ^ 26 ≤ (stW fun c => { c with wfiLimit := some (2 ^ 26), waitFrom := some 0 }).time)) :=
  ⟨runs_of (by decide +kernel), by decide +kernel⟩

theorem witness_SystemWords_wfi_event :
    ((stC fun c => { c with wfiLimit := some 0, waitFrom := some 0, wfiEvent := true })).Runs (.wfi gt 5) ∧
    ((((stC fun c => { c with wfiLimit := some 0, waitFrom := some 0, wfiEvent := true }).core 0).wfiLimit = some 0) ∧ (((stC fun c => { c with wfiLimit := some 0, waitFrom := some 0, wfiEvent := true }).core 0).waitFrom = some 0) ∧ (((stC fun c => { c with wfiLimit := some 0, waitFrom := some 0, wfiEvent := true }).core 0).wfiEvent = true)) :=
  ⟨runs_of (by decide +kernel), by decide +kernel⟩

theorem witness_SystemWords_wfi_starts :
    (stV).Runs (.wfi gt 5) ∧
    (((stV.core 0).wfiLimit = none)) :=
  ⟨runs_of (by decide +kernel), by decide +kernel⟩

theorem witness_SystemWords_job_words :
    (stV).Runs (.seal gt 5 0) ∧
    (stV).Runs (.prio gt 3) ∧
    (stV).Runs (.rand gt 7) ∧
    ((isSup 0 = false)) :=
  ⟨runs_of (by decide +kernel), runs_of (by decide +kernel), runs_of (by decide +kernel), by decide +kernel⟩

theorem witness_SystemWords_seal_other :
    (stSup).Runs (.seal gt 6 7) ∧
    ((isSup stSup.me = true) ∧ ((7 : XReg) ≠ 0)) :=
  ⟨runs_of (by decide +kernel), by decide +kernel⟩

theorem witness_SystemWords_tlbi :
    (stSup).Runs (.tlbi gt 6 7 .package) ∧
    ((((stSup.core stSup.me).rx 6).getLsbD 0 = true) ∧ (((stSup.ready (.tlbi gt 6 7 .package)).tlbDrop stSup.me .package (tlbiHits job1 ((stSup.core stSup.me).rx 6))).tlbSettled stSup.me .package job1 ((stSup.core stSup.me).rx 6) = true)) :=
  ⟨runs_of (by decide +kernel), by decide +kernel⟩

theorem witness_SystemWords_tlbi_bad :
    ((stSup.onCore stSup.me fun c => { c with x := c.x.set 5 0x28 })).Runs (.tlbi gt 5 7 .core) ∧
    ((stSup.onCore stSup.me fun c => { c with x := c.x.set 5 0x28 })).Handles (stSup.onCore stSup.me fun c => { c with x := c.x.set 5 0x28 }).me ∧
    (((((stSup.onCore stSup.me fun c => { c with x := c.x.set 5 0x28 }).core (stSup.onCore stSup.me fun c => { c with x := c.x.set 5 0x28 }).me).rx 5).getLsbD 0 = false) ∧ ((((stSup.onCore stSup.me fun c => { c with x := c.x.set 5 0x28 }).core (stSup.onCore stSup.me fun c => { c with x := c.x.set 5 0x28 }).me).rx 5).toNat % 2 ^ 16 ≠ 0)) :=
  ⟨runs_of (by decide +kernel), handles_of (by decide +kernel), by decide +kernel⟩

theorem witness_SystemWords_wfi_timeout :
    ((((stW fun c => { c with wfiLimit := some 5, waitFrom := some 0 }).core 0).wfiLimit = some 5) ∧ (((stW fun c => { c with wfiLimit := some 5, waitFrom := some 0 }).core 0).waitFrom = some 0) ∧ (((stW fun c => { c with wfiLimit := some 5, waitFrom := some 0 }).core 0).st = .running) ∧ ((5 : Nat) ≠ 0) ∧ (0 + 5 ≤ (stW fun c => { c with wfiLimit := some 5, waitFrom := some 0 }).time)) :=
  by decide +kernel

end Sys2Proof.Tests
end

