-- ==== Sys2Proof/Tests/WitnessCommand.lean ====
section
/-! SUPPORT. Witnesses, continued: scheduling and engine commands. -/

open Sys2Proof Sys2Proof.Machine

namespace Sys2Proof.Tests

set_option maxRecDepth 100000
set_option Elab.async false

/-! ## Launching -/

/-- A booted package with page tables: context 1 maps the first GiB to 0x80000000, readable, writable and executable; queue 0 is
fed and queue 1 is the host's. -/
def stX0 : State :=
  let s := { stC fun c => { c with tlb := [], cap := 3 } with
    dies := [(0, { Die.idle with sup := [(0x800, 0x10000), (0x801, 0x30000), (0x802, 0x1000000), (0x804, 0x50000)] })] }
  ((((((((s.writeNat 0x10040 8 0x20000).writeNat (0x10040 + 44) 1 0x20).writeNat 0x20000 8 0x21001).writeNat 0x21000 8 0x22001).writeNat
    0x22000 8 0x8000001F).writeNat 0x30000 32 (0x31000 + 2 ^ 68 + 2 ^ 69)).writeNat 0x30020 32 (0x32000 + 2 ^ 69)).writeNat
    0x31000 1 0).setCore 4 Core.idle

/-- A record of one thread at 0x400000 with its counter at 0x410060, or of five threads. -/
def recA (size : Nat) : BitVec 512 := BitVec.ofNat 512 (0x400000 + size * 2 ^ 64 + 7 * 2 ^ 128 + 0x410060 * 2 ^ 192)

def stX (f : Core → Core) : State := stX0.onCore 0 f

def q0 : QueueId := ⟨0, 0, 0⟩
def q1 : QueueId := ⟨0, 0, 1⟩

def cmdA (q : QName) (w : Wide) (hs : List Wide) : Cmd := { accZ 0 with q := q, w := w, hs := hs }

/-- A handle of 32 rows and 32 columns. -/
def hSq (base pitch fmt : Nat) : Wide :=
  BitVec.ofNat 256 (base + 32 * 2 ^ 64 + 32 * 2 ^ 80 + pitch * 2 ^ 96 + fmt * 2 ^ 192)

/-- `stX0` with queue 1, the save slots and the tile images of its context at addresses of their own. -/
def stXh : State :=
  let s := { stX0 with dies := [(0, { Die.idle with sup := [(0x800, 0x10000), (0x801, 0x100000), (0x802, 0x1000000), (0x804, 0x50000)] })] }
  ((s.writeNat 0x10050 8 0x4000000000).writeNat 0x10058 8 0x5000000000).writeNat 0x100020 32 (0x102000 + 2 ^ 69)

/-- The launch queue of `stX0` with a command at its head that has read its record; `tail` is the launch queue's tail. -/
def lnD (nums : List Nat) : Cmd :=
  { cmdA .lnq (BitVec.ofNat 256 (0x50 + 0x420000 * 2 ^ 64)) [] with prog := { Progress.start with nums := nums } }
def stLn (nums : List Nat) (tail : Nat) : State :=
  ((stX fun c => { c with cmds := [lnD nums] }).writeNat 0x80420000 64 (recA 1).toNat).writeNat 0x30018 4 tail

/-- A started machine with one copy of 200 FP32 elements from h1 to h2 in the queue, by opcode. -/
def cpy (op : Nat) : Cmd := cmdA .cpq (BitVec.ofNat 256 (op + 0x500000 * 2 ^ 64 * (op - 1) + 2 * 2 ^ 128 * (op - 1))) [hRow 0x5000 200 800 0, hRow 0x4000 200 800 0]
def stK (op : Nat) : State := (stC fun c => { c with cmds := [cpy op] }).writeNat (tileKey 0 0x4000) 8 0x1122334455667788
def stK1 : State := ((stK 1).beginCopy 0 (cpy 1) (copyPieces 0 (cpy 1))).onCmd 0 0 fun c =>
  { c with prog := { c.prog with sent := c.prog.pieces } }
def cpy1 : Cmd := (stK1.core 0).cmds.headD (cpy 1)
def pce1 : Piece := cpy1.prog.pieces.headD { recv := 0, line := 0, src := 0, first := 0, len := 0, scale := false }

/-- A copy to tile 1024, on package 1, with an empty provenance log. -/
def cpyL : Cmd :=
  { cpy 1 with hs := [BitVec.ofNat 256 (0x01_00_00_00_40_00_40_00 + 2 ^ 64 + 8 * 2 ^ 80 + 32 * 2 ^ 96 + 2 ^ 197), hRow 0x4000 8 32 0] }
def stLog : State := stC (fun c => { c with cmds := [cpyL] }) |>.setSup 0 0x810 0xB00000 |>.setSup 0 0x811 0x100

/-- Bytes of an `MROT` pair on their way to tile 0. -/
def rotA : Rotated := { n := 3, fromEast := true, off := 0x84000, bytes := [1, 2, 3] }
def stRot : State := (stC fun c => { c with cmds := [{ cmdA .mxq 0x11 [] with started := true, prog := { Progress.start with idx := 3 } }] }).setTile 0 { tileA with arriving := [rotA], rotated := [(3, (0, 1))] }
def stGr : State := stC fun c => { c with cmds := [accZ 0] }

/-- A collective of kind `kind` of one member, this die, over four FP32 elements at 0x510000 with destination 0x520000; its
descriptor stands at 0x500000. -/
def colA (kind : Nat) : Cmd := cmdA .clq (BitVec.ofNat 256 (0x20 + kind * 2 ^ 16 + 4 * 2 ^ 32 + 0x500000 * 2 ^ 64 + 0x501000 * 2 ^ 128 + 0x502000 * 2 ^ 192)) []
def stCl (kind : Nat) : State := ((stC fun c => { c with cmds := [colA kind] }).writeNat 0x900000 8 (9 + 1024 * 2 ^ 32)).writeNat 0x901000 8 0x3F8000003F800000
def stCl1 (kind : Nat) : State := (stCl kind).collStart 0 (colA kind)
def colS (kind : Nat) : Cmd := ((stCl1 kind).core 0).cmds.headD (colA kind)
def cndC (kind : Nat) : Cand × SMap Nat := ((stCl kind).collNext 0).getD (⟨0, 0, 0, 0, 0⟩, [])
def stCl2 (kind : Nat) : State := ((stCl1 kind).onDie 0 fun n => { n with clstarve := (cndC kind).2 }).collMatch 0 (colS kind) false
def prbC (_kind : Nat) (s : State) (g : Coll) (m : CollMember) : State × Probe :=
  let per := g.chunkLen / collSize m.cmd.w
  s.collProbe g m.cmd.w [m] (g.chunk * per) (min (collDest m.cmd.w g.dies.length) ((g.chunk + 1) * per))
def collA (kind : Nat) : Coll := (stCl2 kind).colls.headD { gid := 0, kind := 0, dies := [], who := [], alive := [], chunk := 0, chunkLen := 0 }
def memA (kind : Nat) : CollMember := ((((stCl2 kind).collMembers (collA kind)).getD []).headD { rank := 0, core := 0, cmd := colA kind })

/-- The same group with a larger count, so that its first chunk is not its last, and with a source in a tile whose state is away. -/
def colL (va : Nat) : Cmd := cmdA .clq (BitVec.ofNat 256 (0x20 + 3 * 2 ^ 16 + 300 * 2 ^ 32 + 0x500000 * 2 ^ 64 + va * 2 ^ 128 + 0x502000 * 2 ^ 192)) []
def stLg (va : Nat) : State :=
  let s := (stC fun c => { c with cmds := [colL va] }).writeNat 0x900000 8 (9 + 1024 * 2 ^ 32)
  let u := s.collStart 0 (colL va)
  u.collMatch 0 ((u.core 0).cmds.headD (colL va)) false
def collL (va : Nat) : Coll := (stLg va).colls.headD { gid := 0, kind := 0, dies := [], who := [], alive := [], chunk := 0, chunkLen := 0 }
def memL (va : Nat) : CollMember := ((((stLg va).collMembers (collL va)).getD []).headD { rank := 0, core := 0, cmd := colL va })
def stLw : State := (stLg 0x0100000000104000).setTile 1 { tileA with compact := some cpA }

/-- A started member of a group with die 1, whose member has not come in 2^30 clocks. -/
def colT : Cmd := { colA 0 with started := true, prog := { Progress.start with nums := [0, 0, 1] } }
def stClT : State := { stC fun c => { c with cmds := [colT] } with time := 2 ^ 30 }

/-- A group of this die and of a die on package 1, which this die knows dead. -/
def collD : Coll := { gid := 9, kind := 0, dies := [0, 4], who := [(0, 0), (0, 0)], alive := [0, 1], chunk := 0, chunkLen := 1024 }
def stRef : State := { stM with colls := [collD], dies := [(0, { Die.idle with sup := [(0x840, 2)] })] }

/-- An offload and a replay of 128 bytes between 0x501000 and bus address 0x8000, the first entry in hand. -/
def offA (op : Nat) (counted : Bool) : Cmd :=
  { cmdA .ofq (BitVec.ofNat 256 (op + 2 ^ 32 + 0x500000 * 2 ^ 64)) [] with
    started := true, prog := { Progress.start with idx := 1, nums := [if op = 0x28 then 0x501000 else 0x0100000000004000, 0x8000, 128], counted := counted } }
def stO (op : Nat) (counted : Bool) : State :=
  let s := (stC fun c => { c with cmds := [offA op counted] }).writeNat 0x901000 8 0x1122334455667788
  { s with hostMem := memWrite s.hostMem (hostKey 0 0x8000) [9, 8, 7] }

/-! ## Witnesses -/

theorem witness_LaunchQueueWords_spawn :
    ((stX fun c => { c with snap := some (recA 1) })).Runs (.spawn gt 0 5) ∧
    ((((stX fun c => { c with snap := some (recA 1) }).core 0).snap = some (recA 1)) ∧ (((stX fun c => { c with snap := some (recA 1) }).ready (.spawn gt 0 5)).released 0 ((stX fun c => { c with snap := some (recA 1) }).ready (.spawn gt 0 5)).seq .pod = true) ∧ (qFull (((stX fun c => { c with snap := some (recA 1) }).ready (.spawn gt 0 5)).queueDesc 0 (((stX fun c => { c with snap := some (recA 1) }).ready (.spawn gt 0 5)).core 0).job.part.toNat 0) = false)) :=
  ⟨runs_of (by decide +kernel), by decide +kernel⟩

theorem witness_LaunchQueueWords_spawn_reads :
    (((stX fun c => { c with x := c.x.set 5 0x420000 }).writeNat 0x80420000 64 (recA 1).toNat)).Runs (.spawn gt 0 5) ∧
    (∃ w, (((stX fun c => { c with x := c.x.set 5 0x420000 }).writeNat 0x80420000 64 (recA 1).toNat).ready (.spawn gt 0 5)).readMem 0 ((((stX fun c => { c with x := c.x.set 5 0x420000 }).writeNat 0x80420000 64 (recA 1).toNat).core 0).rx 5).toNat 64 = (w, .ok ((toBytes 64 (recA 1).toNat), false)) ∧ ((((stX fun c => { c with x := c.x.set 5 0x420000 }).writeNat 0x80420000 64 (recA 1).toNat).core 0).snap = none) ∧ (((((stX fun c => { c with x := c.x.set 5 0x420000 }).writeNat 0x80420000 64 (recA 1).toNat).core 0).rx 5).toNat % 64 = 0) ∧ (recA 1 = BitVec.ofNat 512 (leNat (toBytes 64 (recA 1).toNat))) ∧ (w.mayLaunch 0 0 (recA 1) = true) ∧ (w.released 0 w.seq .pod = true) ∧ (qFull (w.queueDesc 0 (w.core 0).job.part.toNat 0) = false)) :=
  ⟨runs_of (by decide +kernel), ⟨_, pair_of (by decide +kernel), by decide +kernel⟩⟩

theorem witness_LaunchQueueWords_spawn_unaligned :
    (stX0).Runs (.spawn gt 0 5) ∧
    (stX0).Handles 0 ∧
    (((stX0.core 0).snap = none) ∧ (((stX0.core 0).rx 5).toNat % 64 ≠ 0)) :=
  ⟨runs_of (by decide +kernel), handles_of (by decide +kernel), by decide +kernel⟩

theorem witness_LaunchQueueWords_join :
    ((((stX fun c => { c with x := (c.x.set 5 0x410060).set 6 2 })).writeNat 0x80410060 8 2)).Runs (.join gt 5 6) ∧
    (∃ v, ((((stX fun c => { c with x := (c.x.set 5 0x410060).set 6 2 })).writeNat 0x80410060 8 2).ready (.join gt 5 6)).checkAddr 0 (((((stX fun c => { c with x := (c.x.set 5 0x410060).set 6 2 })).writeNat 0x80410060 8 2).core 0).rx 5) 8 .rd = (v, .ok 0x80410060) ∧ ∃ w, (v.closeWindow 0 0x80410060).readMem 0 (((((stX fun c => { c with x := (c.x.set 5 0x410060).set 6 2 })).writeNat 0x80410060 8 2).core 0).rx 5).toNat 8 = (w, .ok (toBytes 8 2, false)) ∧ (v.splitHeld 0 0x80410060 = false) ∧ ((w.core 0).rx 6 ≤ BitVec.ofNat 64 (leNat (toBytes 8 2)) ∨ (BitVec.ofNat 64 (leNat (toBytes 8 2)) : Word).getLsbD 63 = true)) :=
  ⟨runs_of (by decide +kernel), ⟨_, pair_of (by decide +kernel), _, pair_of (by decide +kernel), by decide +kernel⟩⟩

theorem witness_LaunchQueueWords_host :
    ((((stXh.pkg 0).parts.find 0).isSome = true) ∧ (qFed (stXh.queueDesc 0 0 1) = false) ∧ (qSized (stXh.queueDesc 0 0 1) = true) ∧ (stXh.posted = []) ∧ (stXh.hostRoute 0 0 (qSlot (stXh.queueDesc 0 0 1) (qTail (stXh.queueDesc 0 0 1)) % 2 ^ 47) 64 true = .ok ∧ paPkg (qSlot (stXh.queueDesc 0 0 1) (qTail (stXh.queueDesc 0 0 1))) = 0 ∧ qSlot (stXh.queueDesc 0 0 1) (qTail (stXh.queueDesc 0 0 1)) % 64 + 64 ≤ 64) ∧ ((stXh.engineWrite (qSlot (stXh.queueDesc 0 0 1) (qTail (stXh.queueDesc 0 0 1))) (toBytes 64 (recA 1).toNat) false).hostRoute 0 0 ((stXh.queueAt 0 0 1 + 24) % 2 ^ 47) 4 true = .ok ∧ paPkg (stXh.queueAt 0 0 1 + 24) = 0 ∧ (stXh.queueAt 0 0 1 + 24) % 64 + 4 ≤ 64)) :=
  by decide +kernel

theorem witness_ThreadStarts_canonical :
    (stX0).Canon :=
  canon_of (by decide +kernel)

theorem witness_RecordsAndTeams_place_1 :
    (((((stX fun _ => Core.idle).onPkg 0 fun p => { p with waiting := [(0, (recA 1, 0x31000))], fed := [(0, [(job1, 2)])] }).pkg 0).waiting.find (queueKey 0 0) = some (recA 1, 0x31000)) ∧ (((stX fun _ => Core.idle).onPkg 0 fun p => { p with waiting := [(0, (recA 1, 0x31000))], fed := [(0, [(job1, 2)])] }).placeNext 0 0 = some (0, 0)) ∧ (((stX fun _ => Core.idle).onPkg 0 fun p => { p with waiting := [(0, (recA 1, 0x31000))], fed := [(0, [(job1, 2)])] }).recordJob 0 0 0 = job1) ∧ (((stX fun _ => Core.idle).onPkg 0 fun p => { p with waiting := [(0, (recA 1, 0x31000))], fed := [(0, [(job1, 2)])] }).teamBar 0 (recSize (recA 1)) = some none) ∧ (((stX fun _ => Core.idle).onPkg 0 fun p => { p with waiting := [(0, (recA 1, 0x31000))], fed := [(0, [(job1, 2)])] }).baseOk 0 0 (((stX fun _ => Core.idle).onPkg 0 fun p => { p with waiting := [(0, (recA 1, 0x31000))], fed := [(0, [(job1, 2)])] }).recordJob 0 0 0) (recA 1) 0 = true)) :=
  by decide +kernel

theorem witness_RecordsAndTeams_place_5 :
    (((((stX fun _ => Core.idle).onPkg 0 fun p => { p with waiting := [(0, (recA 5, 0x31000))], fed := [(0, [(job1, 2)])] }).pkg 0).waiting.find (queueKey 0 0) = some (recA 5, 0x31000)) ∧ (((stX fun _ => Core.idle).onPkg 0 fun p => { p with waiting := [(0, (recA 5, 0x31000))], fed := [(0, [(job1, 2)])] }).placeNext 0 0 = some (0, 0)) ∧ (((stX fun _ => Core.idle).onPkg 0 fun p => { p with waiting := [(0, (recA 5, 0x31000))], fed := [(0, [(job1, 2)])] }).recordJob 0 0 0 = job1) ∧ (((stX fun _ => Core.idle).onPkg 0 fun p => { p with waiting := [(0, (recA 5, 0x31000))], fed := [(0, [(job1, 2)])] }).teamBar 0 (recSize (recA 5)) = some (some 0)) ∧ (((stX fun _ => Core.idle).onPkg 0 fun p => { p with waiting := [(0, (recA 5, 0x31000))], fed := [(0, [(job1, 2)])] }).baseOk 0 0 (((stX fun _ => Core.idle).onPkg 0 fun p => { p with waiting := [(0, (recA 5, 0x31000))], fed := [(0, [(job1, 2)])] }).recordJob 0 0 0) (recA 5) 0 = true)) :=
  by decide +kernel

theorem witness_RecordsAndTeams_take :
    ((((stX0.putRecord 0 0 1 (recA 1))).takeable 0 0 1 = true) ∧ (let e := ((stX0.putRecord 0 0 1 (recA 1))).engineRead none (qSlot (((stX0.putRecord 0 0 1 (recA 1))).queueDesc 0 0 1) (qHead (((stX0.putRecord 0 0 1 (recA 1))).queueDesc 0 0 1))) 64
     let x := e.1.engineWrite (((stX0.putRecord 0 0 1 (recA 1))).queueAt 0 0 1 + 16) (toBytes 4 ((qHead (((stX0.putRecord 0 0 1 (recA 1))).queueDesc 0 0 1) + 1) % 2 ^ 32)) false
     x.recordOk 0 0 (e.1.recordJob 0 0 1) (BitVec.ofNat 512 (leNat e.2)) = true)) :=
  by decide +kernel

theorem witness_RecordsAndTeams_take_refused :
    (((stX0.putRecord 0 0 1 0).takeable 0 0 1 = true) ∧ (let s := stX0.putRecord 0 0 1 0
     let e := s.engineRead none (qSlot (s.queueDesc 0 0 1) (qHead (s.queueDesc 0 0 1))) 64
     let x := e.1.engineWrite (s.queueAt 0 0 1 + 16) (toBytes 4 ((qHead (s.queueDesc 0 0 1) + 1) % 2 ^ 32)) false
     x.recordOk 0 0 (e.1.recordJob 0 0 1) (BitVec.ofNat 512 (leNat e.2)) = false)) :=
  by decide +kernel

theorem witness_RecordsAndTeams_launch :
    (∃ u, (((stX fun c => { c with cmds := [cmdA .lnq (BitVec.ofNat 256 (0x50 + 0x420000 * 2 ^ 64)) []] })).writeNat 0x80420000 64 (recA 1).toNat).grab 0 (cmdA .lnq (BitVec.ofNat 256 (0x50 + 0x420000 * 2 ^ 64)) []) (cw1 (cmdA .lnq (BitVec.ofNat 256 (0x50 + 0x420000 * 2 ^ 64)) []).w) 64 = (u, .ok ((toBytes 64 (recA 1).toNat), false)) ∧ (((((stX fun c => { c with cmds := [cmdA .lnq (BitVec.ofNat 256 (0x50 + 0x420000 * 2 ^ 64)) []] })).writeNat 0x80420000 64 (recA 1).toNat).core 0).headOf .lnq = some (cmdA .lnq (BitVec.ofNat 256 (0x50 + 0x420000 * 2 ^ 64)) [])) ∧ ((cmdA .lnq (BitVec.ofNat 256 (0x50 + 0x420000 * 2 ^ 64)) []).prog.nums = []) ∧ ((((stX fun c => { c with cmds := [cmdA .lnq (BitVec.ofNat 256 (0x50 + 0x420000 * 2 ^ 64)) []] })).writeNat 0x80420000 64 (recA 1).toNat).released 0 (cmdA .lnq (BitVec.ofNat 256 (0x50 + 0x420000 * 2 ^ 64)) []).age .pod = true) ∧ (u.mayLaunch 0 (cf (cmdA .lnq (BitVec.ofNat 256 (0x50 + 0x420000 * 2 ^ 64)) []).w 16 4) (BitVec.ofNat 512 (leNat (toBytes 64 (recA 1).toNat))) = true) ∧ (qFull ((u.onCmd 0 0 fun e => { e with started := true, prog := { e.prog with nums := [leNat (toBytes 64 (recA 1).toNat)] } }).queueDesc 0 0 (cf (cmdA .lnq (BitVec.ofNat 256 (0x50 + 0x420000 * 2 ^ 64)) []).w 16 4)) = false)) :=
  ⟨_, pair_of (by decide +kernel), by decide +kernel⟩

theorem witness_RecordsAndTeams_launch_full :
    (∃ u, (stLn [] 16).grab 0 (lnD []) (cw1 (lnD []).w) 64 = (u, .ok ((toBytes 64 (recA 1).toNat), false)) ∧ (((stLn [] 16).core 0).headOf .lnq = some (lnD [])) ∧ ((stLn [] 16).released 0 0 .pod = true) ∧ (u.mayLaunch 0 (cf (lnD []).w 16 4) (BitVec.ofNat 512 (leNat (toBytes 64 (recA 1).toNat))) = true) ∧ (qFull ((u.onCmd 0 0 fun e => { e with started := true, prog := { e.prog with nums := [leNat (toBytes 64 (recA 1).toNat)] } }).queueDesc 0 0 0) = true)) :=
  ⟨_, pair_of (by decide +kernel), by decide +kernel⟩

theorem witness_RecordsAndTeams_launch_read :
    ((((stLn [5] 0).core 0).headOf .lnq = some (lnD [5])) ∧ (qFull ((stLn [5] 0).queueDesc 0 0 (cf (lnD [5]).w 16 4)) = false)) :=
  by decide +kernel

theorem witness_CopyCommands_copy :
    ((((stK 1).core 0).cmds.find? (fun e => e.q == .cpq && !e.started) = some (cpy 1)) ∧ ((cpy 1).opc = 1) ∧ (((stK 1).core 0).cmds.filter (fun e => e.q == .cpq && e.started) = []) ∧ ((stK 1).leavesTo 0 (cpy 1) (copyPieces 0 (cpy 1)) = none)) :=
  by decide +kernel

theorem witness_CopyCommands_gather :
    (∃ w, (stK 2).listWaits 0 (cpy 2) = (w, false) ∧ (((stK 2).core 0).cmds.find? (fun e => e.q == .cpq && !e.started) = some (cpy 2)) ∧ ((cpy 2).opc = 2) ∧ (((stK 2).core 0).cmds.filter (fun e => e.q == .cpq && e.started) = []) ∧ ((w.listPieces 0 (cpy 2)).1.leavesTo 0 (cpy 2) (w.listPieces 0 (cpy 2)).2 = none)) :=
  ⟨_, pair_of (by decide +kernel), by decide +kernel⟩

theorem witness_CopyCommands_scatter :
    (∃ w, (stK 3).listWaits 0 (cpy 3) = (w, false) ∧ (((stK 3).core 0).cmds.find? (fun e => e.q == .cpq && !e.started) = some (cpy 3)) ∧ ((cpy 3).opc = 3) ∧ (((stK 3).core 0).cmds.filter (fun e => e.q == .cpq && e.started) = []) ∧ ((w.listPieces 0 (cpy 3)).1.leavesTo 0 (cpy 3) (w.listPieces 0 (cpy 3)).2 = none)) :=
  ⟨_, pair_of (by decide +kernel), by decide +kernel⟩

theorem witness_CopyCommands_logged :
    (((stLog.core 0).cmds.find? (fun e => e.q == .cpq && !e.started) = some cpyL) ∧ (cpyL.opc = 1) ∧ ((stLog.core 0).cmds.filter (fun e => e.q == .cpq && e.started) = []) ∧ (stLog.leavesTo 0 cpyL (copyPieces 0 cpyL) = some (1, 0x0100000040004000, 32)) ∧ ((stLog.logProvenance 0 cpyL.born 1 0x0100000040004000 32).isSome = true)) :=
  by decide +kernel

theorem witness_CopyCommands_region :
    (((stK1.core 0).piecesReady[0 % max (stK1.core 0).piecesReady.length 1]? = some (cpy1, pce1))) :=
  by decide +kernel

theorem witness_CopyCommands_piece :
    (stK1).Canon ∧
    (∃ u, stK1.pieceBits 0 cpy1 pce1 = (u, (stK1.pieceBits 0 cpy1 pce1).2) ∧ ((stK1.core 0).cmds.find? (fun e => e.age == cpy1.age && e.prog.pieces.contains pce1) = some cpy1) ∧ (destHome cpy1 = true) ∧ (u.localClosed 0 (hBase (cpy1.hs.getD 0 0) + pieceOff (cpy1.hs.getD 0 0) pce1) pce1.len = false) ∧ (isDram (storeBase 0 + hBase (cpy1.hs.getD 0 0) + pieceOff (cpy1.hs.getD 0 0) pce1) = false) ∧ (cf cpy1.w 30 1 = 0) ∧ ((match (stK1.pieceBits 0 cpy1 pce1).2 with | .ok _ => true | .error _ => false) = true)) :=
  ⟨canon_of (by decide +kernel), ⟨_, pair_of (by decide +kernel), by decide +kernel⟩⟩

theorem witness_CopyCommands_complete :
    ((stC fun c => { c with cmds := [{ cpy 1 with started := true }] })).Canon ∧
    ((((stC fun c => { c with cmds := [{ cpy 1 with started := true }] }).core 0).cmds.find? (fun e => e.q == .cpq && e.started && e.prog.pieces.isEmpty) = some { cpy 1 with started := true })) :=
  ⟨canon_of (by decide +kernel), by decide +kernel⟩

theorem witness_MatrixCommands_zero :
    (((((stC fun c => { c with cmds := [(cmdA .mxq (BitVec.ofNat 256 (0x13 + 7 * 2 ^ 16)) [])] }).setTile 0 tileA).core 0).matrixHead 0x13 = some (cmdA .mxq (BitVec.ofNat 256 (0x13 + 7 * 2 ^ 16)) [])) ∧ (((stC fun c => { c with cmds := [(cmdA .mxq (BitVec.ofNat 256 (0x13 + 7 * 2 ^ 16)) [])] }).setTile 0 tileA).marks = []) ∧ ((cmdA .mxq (BitVec.ofNat 256 (0x13 + 7 * 2 ^ 16)) []).started = true ∨ ((stC fun c => { c with cmds := [(cmdA .mxq (BitVec.ofNat 256 (0x13 + 7 * 2 ^ 16)) [])] }).setTile 0 tileA).cmdClosed 0 (cmdA .mxq (BitVec.ofNat 256 (0x13 + 7 * 2 ^ 16)) []) = none) ∧ ((match ((stC fun c => { c with cmds := [(cmdA .mxq (BitVec.ofNat 256 (0x13 + 7 * 2 ^ 16)) [])] }).setTile 0 tileA).matrixPick 0 with | some x => x.1.core == 0 | none => false) = true) ∧ (∀ i ∈ List.range 4, i ≠ 0 → ((stC fun c => { c with cmds := [(cmdA .mxq (BitVec.ofNat 256 (0x13 + 7 * 2 ^ 16)) [])] }).setTile 0 tileA).matrixReady i = none) ∧ (cf (cmdA .mxq (BitVec.ofNat 256 (0x13 + 7 * 2 ^ 16)) []).w 19 2 = 0)) :=
  by decide +kernel

theorem witness_MatrixCommands_load :
    (((((stC fun c => { c with cmds := [(cmdA .mxq (BitVec.ofNat 256 (0x13 + 2 ^ 19)) [hSq 0x4000 128 0])] }).setTile 0 tileA).core 0).matrixHead 0x13 = some (cmdA .mxq (BitVec.ofNat 256 (0x13 + 2 ^ 19)) [hSq 0x4000 128 0])) ∧ (((stC fun c => { c with cmds := [(cmdA .mxq (BitVec.ofNat 256 (0x13 + 2 ^ 19)) [hSq 0x4000 128 0])] }).setTile 0 tileA).marks = []) ∧ ((cmdA .mxq (BitVec.ofNat 256 (0x13 + 2 ^ 19)) [hSq 0x4000 128 0]).started = true ∨ ((stC fun c => { c with cmds := [(cmdA .mxq (BitVec.ofNat 256 (0x13 + 2 ^ 19)) [hSq 0x4000 128 0])] }).setTile 0 tileA).cmdClosed 0 (cmdA .mxq (BitVec.ofNat 256 (0x13 + 2 ^ 19)) [hSq 0x4000 128 0]) = none) ∧ ((match ((stC fun c => { c with cmds := [(cmdA .mxq (BitVec.ofNat 256 (0x13 + 2 ^ 19)) [hSq 0x4000 128 0])] }).setTile 0 tileA).matrixPick 0 with | some x => x.1.core == 0 | none => false) = true) ∧ (∀ i ∈ List.range 4, i ≠ 0 → ((stC fun c => { c with cmds := [(cmdA .mxq (BitVec.ofNat 256 (0x13 + 2 ^ 19)) [hSq 0x4000 128 0])] }).setTile 0 tileA).matrixReady i = none) ∧ (cf (cmdA .mxq (BitVec.ofNat 256 (0x13 + 2 ^ 19)) [hSq 0x4000 128 0]).w 19 2 = 1)) :=
  by decide +kernel

theorem witness_MatrixCommands_add :
    (((((stC fun c => { c with cmds := [(cmdA .mxq (BitVec.ofNat 256 (0x13 + 2 * 2 ^ 19)) [hSq 0x4000 128 0])] }).setTile 0 { tileA with accTy := 1 }).core 0).matrixHead 0x13 = some (cmdA .mxq (BitVec.ofNat 256 (0x13 + 2 * 2 ^ 19)) [hSq 0x4000 128 0])) ∧ (((stC fun c => { c with cmds := [(cmdA .mxq (BitVec.ofNat 256 (0x13 + 2 * 2 ^ 19)) [hSq 0x4000 128 0])] }).setTile 0 { tileA with accTy := 1 }).marks = []) ∧ ((cmdA .mxq (BitVec.ofNat 256 (0x13 + 2 * 2 ^ 19)) [hSq 0x4000 128 0]).started = true ∨ ((stC fun c => { c with cmds := [(cmdA .mxq (BitVec.ofNat 256 (0x13 + 2 * 2 ^ 19)) [hSq 0x4000 128 0])] }).setTile 0 { tileA with accTy := 1 }).cmdClosed 0 (cmdA .mxq (BitVec.ofNat 256 (0x13 + 2 * 2 ^ 19)) [hSq 0x4000 128 0]) = none) ∧ ((match ((stC fun c => { c with cmds := [(cmdA .mxq (BitVec.ofNat 256 (0x13 + 2 * 2 ^ 19)) [hSq 0x4000 128 0])] }).setTile 0 { tileA with accTy := 1 }).matrixPick 0 with | some x => x.1.core == 0 | none => false) = true) ∧ (∀ i ∈ List.range 4, i ≠ 0 → ((stC fun c => { c with cmds := [(cmdA .mxq (BitVec.ofNat 256 (0x13 + 2 * 2 ^ 19)) [hSq 0x4000 128 0])] }).setTile 0 { tileA with accTy := 1 }).matrixReady i = none) ∧ (cf (cmdA .mxq (BitVec.ofNat 256 (0x13 + 2 * 2 ^ 19)) [hSq 0x4000 128 0]).w 19 2 = 2) ∧ ((((stC fun c => { c with cmds := [(cmdA .mxq (BitVec.ofNat 256 (0x13 + 2 * 2 ^ 19)) [hSq 0x4000 128 0])] }).setTile 0 { tileA with accTy := 1 }).tile 0).isInt 0 = true)) :=
  by decide +kernel

theorem witness_MatrixCommands_move :
    (((((stC fun c => { c with cmds := [(cmdA .mxq (BitVec.ofNat 256 (0x13 + 3 * 2 ^ 19 + 2 ^ 25)) [])] }).setTile 0 tileA).core 0).matrixHead 0x13 = some (cmdA .mxq (BitVec.ofNat 256 (0x13 + 3 * 2 ^ 19 + 2 ^ 25)) [])) ∧ (((stC fun c => { c with cmds := [(cmdA .mxq (BitVec.ofNat 256 (0x13 + 3 * 2 ^ 19 + 2 ^ 25)) [])] }).setTile 0 tileA).marks = []) ∧ ((cmdA .mxq (BitVec.ofNat 256 (0x13 + 3 * 2 ^ 19 + 2 ^ 25)) []).started = true ∨ ((stC fun c => { c with cmds := [(cmdA .mxq (BitVec.ofNat 256 (0x13 + 3 * 2 ^ 19 + 2 ^ 25)) [])] }).setTile 0 tileA).cmdClosed 0 (cmdA .mxq (BitVec.ofNat 256 (0x13 + 3 * 2 ^ 19 + 2 ^ 25)) []) = none) ∧ ((match ((stC fun c => { c with cmds := [(cmdA .mxq (BitVec.ofNat 256 (0x13 + 3 * 2 ^ 19 + 2 ^ 25)) [])] }).setTile 0 tileA).matrixPick 0 with | some x => x.1.core == 0 | none => false) = true) ∧ (∀ i ∈ List.range 4, i ≠ 0 → ((stC fun c => { c with cmds := [(cmdA .mxq (BitVec.ofNat 256 (0x13 + 3 * 2 ^ 19 + 2 ^ 25)) [])] }).setTile 0 tileA).matrixReady i = none) ∧ (cf (cmdA .mxq (BitVec.ofNat 256 (0x13 + 3 * 2 ^ 19 + 2 ^ 25)) []).w 19 2 = 3)) :=
  by decide +kernel

theorem witness_MatrixCommands_mma :
    (((((stC fun c => { c with cmds := [(cmdA .mxq (BitVec.ofNat 256 (0x10 + 32 * 2 ^ 48)) [hSq 0x4000 64 1, hSq 0x5000 64 1])] }).setTile 0 tileA).core 0).matrixHead 0x10 = some (cmdA .mxq (BitVec.ofNat 256 (0x10 + 32 * 2 ^ 48)) [hSq 0x4000 64 1, hSq 0x5000 64 1])) ∧ (((stC fun c => { c with cmds := [(cmdA .mxq (BitVec.ofNat 256 (0x10 + 32 * 2 ^ 48)) [hSq 0x4000 64 1, hSq 0x5000 64 1])] }).setTile 0 tileA).marks = []) ∧ ((cmdA .mxq (BitVec.ofNat 256 (0x10 + 32 * 2 ^ 48)) [hSq 0x4000 64 1, hSq 0x5000 64 1]).started = true ∨ ((stC fun c => { c with cmds := [(cmdA .mxq (BitVec.ofNat 256 (0x10 + 32 * 2 ^ 48)) [hSq 0x4000 64 1, hSq 0x5000 64 1])] }).setTile 0 tileA).cmdClosed 0 (cmdA .mxq (BitVec.ofNat 256 (0x10 + 32 * 2 ^ 48)) [hSq 0x4000 64 1, hSq 0x5000 64 1]) = none) ∧ ((match ((stC fun c => { c with cmds := [(cmdA .mxq (BitVec.ofNat 256 (0x10 + 32 * 2 ^ 48)) [hSq 0x4000 64 1, hSq 0x5000 64 1])] }).setTile 0 tileA).matrixPick 0 with | some x => x.1.core == 0 | none => false) = true) ∧ (∀ i ∈ List.range 4, i ≠ 0 → ((stC fun c => { c with cmds := [(cmdA .mxq (BitVec.ofNat 256 (0x10 + 32 * 2 ^ 48)) [hSq 0x4000 64 1, hSq 0x5000 64 1])] }).setTile 0 tileA).matrixReady i = none) ∧ ((cmdA .mxq (BitVec.ofNat 256 (0x10 + 32 * 2 ^ 48)) [hSq 0x4000 64 1, hSq 0x5000 64 1]).prog.k < cf (cmdA .mxq (BitVec.ofNat 256 (0x10 + 32 * 2 ^ 48)) [hSq 0x4000 64 1, hSq 0x5000 64 1]).w 48 16)) :=
  by decide +kernel

theorem witness_MatrixCommands_drain :
    (((((stC fun c => { c with cmds := [(cmdA .mxq (BitVec.ofNat 256 (0x12)) [hSq 0x4000 128 0])] }).setTile 0 tileA).core 0).matrixHead 0x12 = some (cmdA .mxq (BitVec.ofNat 256 (0x12)) [hSq 0x4000 128 0])) ∧ (((stC fun c => { c with cmds := [(cmdA .mxq (BitVec.ofNat 256 (0x12)) [hSq 0x4000 128 0])] }).setTile 0 tileA).marks = []) ∧ ((cmdA .mxq (BitVec.ofNat 256 (0x12)) [hSq 0x4000 128 0]).started = true ∨ ((stC fun c => { c with cmds := [(cmdA .mxq (BitVec.ofNat 256 (0x12)) [hSq 0x4000 128 0])] }).setTile 0 tileA).cmdClosed 0 (cmdA .mxq (BitVec.ofNat 256 (0x12)) [hSq 0x4000 128 0]) = none) ∧ ((match ((stC fun c => { c with cmds := [(cmdA .mxq (BitVec.ofNat 256 (0x12)) [hSq 0x4000 128 0])] }).setTile 0 tileA).matrixPick 0 with | some x => x.1.core == 0 | none => false) = true) ∧ (∀ i ∈ List.range 4, i ≠ 0 → ((stC fun c => { c with cmds := [(cmdA .mxq (BitVec.ofNat 256 (0x12)) [hSq 0x4000 128 0])] }).setTile 0 tileA).matrixReady i = none) ∧ (cf (cmdA .mxq (BitVec.ofNat 256 (0x12)) [hSq 0x4000 128 0]).w 28 1 = 0)) :=
  by decide +kernel

theorem witness_MatrixCommands_mrot :
    (((((stC fun c => { c with cmds := [(cmdA .mxq (BitVec.ofNat 256 (0x11 + 32 * 2 ^ 48)) [hSq 0x84000 64 1, hSq 0x85000 64 1])] }).setTile 0 { tileA with compact := some { cpA with grid := 1 } }).core 0).matrixHead 0x11 = some (cmdA .mxq (BitVec.ofNat 256 (0x11 + 32 * 2 ^ 48)) [hSq 0x84000 64 1, hSq 0x85000 64 1])) ∧ (((stC fun c => { c with cmds := [(cmdA .mxq (BitVec.ofNat 256 (0x11 + 32 * 2 ^ 48)) [hSq 0x84000 64 1, hSq 0x85000 64 1])] }).setTile 0 { tileA with compact := some { cpA with grid := 1 } }).marks = []) ∧ ((cmdA .mxq (BitVec.ofNat 256 (0x11 + 32 * 2 ^ 48)) [hSq 0x84000 64 1, hSq 0x85000 64 1]).started = true ∨ ((stC fun c => { c with cmds := [(cmdA .mxq (BitVec.ofNat 256 (0x11 + 32 * 2 ^ 48)) [hSq 0x84000 64 1, hSq 0x85000 64 1])] }).setTile 0 { tileA with compact := some { cpA with grid := 1 } }).cmdClosed 0 (cmdA .mxq (BitVec.ofNat 256 (0x11 + 32 * 2 ^ 48)) [hSq 0x84000 64 1, hSq 0x85000 64 1]) = none) ∧ ((match ((stC fun c => { c with cmds := [(cmdA .mxq (BitVec.ofNat 256 (0x11 + 32 * 2 ^ 48)) [hSq 0x84000 64 1, hSq 0x85000 64 1])] }).setTile 0 { tileA with compact := some { cpA with grid := 1 } }).matrixPick 0 with | some x => x.1.core == 0 | none => false) = true) ∧ (∀ i ∈ List.range 4, i ≠ 0 → ((stC fun c => { c with cmds := [(cmdA .mxq (BitVec.ofNat 256 (0x11 + 32 * 2 ^ 48)) [hSq 0x84000 64 1, hSq 0x85000 64 1])] }).setTile 0 { tileA with compact := some { cpA with grid := 1 } }).matrixReady i = none) ∧ ((cmdA .mxq (BitVec.ofNat 256 (0x11 + 32 * 2 ^ 48)) [hSq 0x84000 64 1, hSq 0x85000 64 1]).started = false) ∧ ((cmdA .mxq (BitVec.ofNat 256 (0x11 + 32 * 2 ^ 48)) [hSq 0x84000 64 1, hSq 0x85000 64 1]).prog.k < cf (cmdA .mxq (BitVec.ofNat 256 (0x11 + 32 * 2 ^ 48)) [hSq 0x84000 64 1, hSq 0x85000 64 1]).w 48 16) ∧ (((stC fun c => { c with cmds := [(cmdA .mxq (BitVec.ofNat 256 (0x11 + 32 * 2 ^ 48)) [hSq 0x84000 64 1, hSq 0x85000 64 1])] }).setTile 0 { tileA with compact := some { cpA with grid := 1 } }).gridOf 0 ≠ 0)) :=
  by decide +kernel

theorem witness_MatrixCommands_norm :
    (((((stC fun c => { c with cmds := [(cmdA .mxq (BitVec.ofNat 256 (0x18)) [hSq 0x4000 64 1, hSq 0x5000 64 1])] }).setTile 0 tileA).core 0).matrixHead 0x18 = some (cmdA .mxq (BitVec.ofNat 256 (0x18)) [hSq 0x4000 64 1, hSq 0x5000 64 1])) ∧ (((stC fun c => { c with cmds := [(cmdA .mxq (BitVec.ofNat 256 (0x18)) [hSq 0x4000 64 1, hSq 0x5000 64 1])] }).setTile 0 tileA).marks = []) ∧ ((cmdA .mxq (BitVec.ofNat 256 (0x18)) [hSq 0x4000 64 1, hSq 0x5000 64 1]).started = true ∨ ((stC fun c => { c with cmds := [(cmdA .mxq (BitVec.ofNat 256 (0x18)) [hSq 0x4000 64 1, hSq 0x5000 64 1])] }).setTile 0 tileA).cmdClosed 0 (cmdA .mxq (BitVec.ofNat 256 (0x18)) [hSq 0x4000 64 1, hSq 0x5000 64 1]) = none) ∧ ((match ((stC fun c => { c with cmds := [(cmdA .mxq (BitVec.ofNat 256 (0x18)) [hSq 0x4000 64 1, hSq 0x5000 64 1])] }).setTile 0 tileA).matrixPick 0 with | some x => x.1.core == 0 | none => false) = true) ∧ (∀ i ∈ List.range 4, i ≠ 0 → ((stC fun c => { c with cmds := [(cmdA .mxq (BitVec.ofNat 256 (0x18)) [hSq 0x4000 64 1, hSq 0x5000 64 1])] }).setTile 0 tileA).matrixReady i = none)) :=
  by decide +kernel

theorem witness_MatrixCommands_alias :
    (((((stC fun c => { c with cmds := [(cmdA .mxq (BitVec.ofNat 256 (0x19)) [])] }).setTile 0 { tileA with ladle := { Ladle.idle with owner := some 0, stage := .normed, k := 2, nA := [0x3F800000, 0x40000000], nB := [0x3F800000, 0x3F800000] } }).core 0).matrixHead 0x19 = some (cmdA .mxq (BitVec.ofNat 256 (0x19)) [])) ∧ (((stC fun c => { c with cmds := [(cmdA .mxq (BitVec.ofNat 256 (0x19)) [])] }).setTile 0 { tileA with ladle := { Ladle.idle with owner := some 0, stage := .normed, k := 2, nA := [0x3F800000, 0x40000000], nB := [0x3F800000, 0x3F800000] } }).marks = []) ∧ ((cmdA .mxq (BitVec.ofNat 256 (0x19)) []).started = true ∨ ((stC fun c => { c with cmds := [(cmdA .mxq (BitVec.ofNat 256 (0x19)) [])] }).setTile 0 { tileA with ladle := { Ladle.idle with owner := some 0, stage := .normed, k := 2, nA := [0x3F800000, 0x40000000], nB := [0x3F800000, 0x3F800000] } }).cmdClosed 0 (cmdA .mxq (BitVec.ofNat 256 (0x19)) []) = none) ∧ ((match ((stC fun c => { c with cmds := [(cmdA .mxq (BitVec.ofNat 256 (0x19)) [])] }).setTile 0 { tileA with ladle := { Ladle.idle with owner := some 0, stage := .normed, k := 2, nA := [0x3F800000, 0x40000000], nB := [0x3F800000, 0x3F800000] } }).matrixPick 0 with | some x => x.1.core == 0 | none => false) = true) ∧ (∀ i ∈ List.range 4, i ≠ 0 → ((stC fun c => { c with cmds := [(cmdA .mxq (BitVec.ofNat 256 (0x19)) [])] }).setTile 0 { tileA with ladle := { Ladle.idle with owner := some 0, stage := .normed, k := 2, nA := [0x3F800000, 0x40000000], nB := [0x3F800000, 0x3F800000] } }).matrixReady i = none) ∧ ((((stC fun c => { c with cmds := [(cmdA .mxq (BitVec.ofNat 256 (0x19)) [])] }).setTile 0 { tileA with ladle := { Ladle.idle with owner := some 0, stage := .normed, k := 2, nA := [0x3F800000, 0x40000000], nB := [0x3F800000, 0x3F800000] } }).tile 0).ladle.owner = some 0) ∧ ((((stC fun c => { c with cmds := [(cmdA .mxq (BitVec.ofNat 256 (0x19)) [])] }).setTile 0 { tileA with ladle := { Ladle.idle with owner := some 0, stage := .normed, k := 2, nA := [0x3F800000, 0x40000000], nB := [0x3F800000, 0x3F800000] } }).tile 0).ladle.stage ≠ .empty)) :=
  by decide +kernel

theorem witness_MatrixCommands_smm :
    (((((stC fun c => { c with cmds := [(cmdA .mxq (BitVec.ofNat 256 (0x1A + 32 * 2 ^ 192 + 0x6000 * 2 ^ 224)) [hSq 0x4000 64 1, hSq 0x5000 64 1])] }).setTile 0 { tileA with ladle := { Ladle.idle with owner := some 0, stage := .zero } }).core 0).matrixHead 0x1A = some (cmdA .mxq (BitVec.ofNat 256 (0x1A + 32 * 2 ^ 192 + 0x6000 * 2 ^ 224)) [hSq 0x4000 64 1, hSq 0x5000 64 1])) ∧ (((stC fun c => { c with cmds := [(cmdA .mxq (BitVec.ofNat 256 (0x1A + 32 * 2 ^ 192 + 0x6000 * 2 ^ 224)) [hSq 0x4000 64 1, hSq 0x5000 64 1])] }).setTile 0 { tileA with ladle := { Ladle.idle with owner := some 0, stage := .zero } }).marks = []) ∧ ((cmdA .mxq (BitVec.ofNat 256 (0x1A + 32 * 2 ^ 192 + 0x6000 * 2 ^ 224)) [hSq 0x4000 64 1, hSq 0x5000 64 1]).started = true ∨ ((stC fun c => { c with cmds := [(cmdA .mxq (BitVec.ofNat 256 (0x1A + 32 * 2 ^ 192 + 0x6000 * 2 ^ 224)) [hSq 0x4000 64 1, hSq 0x5000 64 1])] }).setTile 0 { tileA with ladle := { Ladle.idle with owner := some 0, stage := .zero } }).cmdClosed 0 (cmdA .mxq (BitVec.ofNat 256 (0x1A + 32 * 2 ^ 192 + 0x6000 * 2 ^ 224)) [hSq 0x4000 64 1, hSq 0x5000 64 1]) = none) ∧ ((match ((stC fun c => { c with cmds := [(cmdA .mxq (BitVec.ofNat 256 (0x1A + 32 * 2 ^ 192 + 0x6000 * 2 ^ 224)) [hSq 0x4000 64 1, hSq 0x5000 64 1])] }).setTile 0 { tileA with ladle := { Ladle.idle with owner := some 0, stage := .zero } }).matrixPick 0 with | some x => x.1.core == 0 | none => false) = true) ∧ (∀ i ∈ List.range 4, i ≠ 0 → ((stC fun c => { c with cmds := [(cmdA .mxq (BitVec.ofNat 256 (0x1A + 32 * 2 ^ 192 + 0x6000 * 2 ^ 224)) [hSq 0x4000 64 1, hSq 0x5000 64 1])] }).setTile 0 { tileA with ladle := { Ladle.idle with owner := some 0, stage := .zero } }).matrixReady i = none) ∧ ((cmdA .mxq (BitVec.ofNat 256 (0x1A + 32 * 2 ^ 192 + 0x6000 * 2 ^ 224)) [hSq 0x4000 64 1, hSq 0x5000 64 1]).prog.k = 0) ∧ (0 < cf (cmdA .mxq (BitVec.ofNat 256 (0x1A + 32 * 2 ^ 192 + 0x6000 * 2 ^ 224)) [hSq 0x4000 64 1, hSq 0x5000 64 1]).w 192 22 ∧ cf (cmdA .mxq (BitVec.ofNat 256 (0x1A + 32 * 2 ^ 192 + 0x6000 * 2 ^ 224)) [hSq 0x4000 64 1, hSq 0x5000 64 1]).w 192 22 % 32 = 0) ∧ (0x3000 ≤ cf (cmdA .mxq (BitVec.ofNat 256 (0x1A + 32 * 2 ^ 192 + 0x6000 * 2 ^ 224)) [hSq 0x4000 64 1, hSq 0x5000 64 1]).w 224 20 ∧ (cmdA .mxq (BitVec.ofNat 256 (0x1A + 32 * 2 ^ 192 + 0x6000 * 2 ^ 224)) [hSq 0x4000 64 1, hSq 0x5000 64 1]).started = false ∧ (((stC fun c => { c with cmds := [(cmdA .mxq (BitVec.ofNat 256 (0x1A + 32 * 2 ^ 192 + 0x6000 * 2 ^ 224)) [hSq 0x4000 64 1, hSq 0x5000 64 1])] }).setTile 0 { tileA with ladle := { Ladle.idle with owner := some 0, stage := .zero } }).tile 0).ladle.owner = some 0 ∧ (((stC fun c => { c with cmds := [(cmdA .mxq (BitVec.ofNat 256 (0x1A + 32 * 2 ^ 192 + 0x6000 * 2 ^ 224)) [hSq 0x4000 64 1, hSq 0x5000 64 1])] }).setTile 0 { tileA with ladle := { Ladle.idle with owner := some 0, stage := .zero } }).tile 0).ladle.stage = .zero)) :=
  by decide +kernel

theorem witness_MatrixCommands_rotated :
    (stRot).Canon ∧
    (((stRot.tile 0).arriving.find? (fun x => ((stRot.tile 0).rotated.find x.n).isSome) = some rotA)) :=
  ⟨canon_of (by decide +kernel), by decide +kernel⟩

theorem witness_MatrixCommands_grant :
    (((stGr.matrixPick 0).isSome = true) ∧ ((stGr.matrixPick 0).map (fun e => e.1.core) = some 0) ∧ (stGr.matrixReady 0 = some (accZ 0))) :=
  by decide +kernel

theorem witness_CollectiveAndOffloadCommands_allreduce :
    (((stCl 0).collNext 0 = some (cndC 0)) ∧ ((cndC 0).1.core = 0) ∧ (((stCl 0).core 0).cmds.find? (fun d => d.age == (cndC 0).1.age && collKind d.w == 0) = some (colA 0)) ∧ ((((stCl1 0).core 0).cmds.any fun y => y.age == (colA 0).age && !y.started) = false) ∧ (((stCl1 0).core 0).cmds.filter (fun y => y.q == .clq && collKind y.w == 0 && y.started && !y.prog.counted) = [colS 0])) :=
  by decide +kernel

theorem witness_CollectiveAndOffloadCommands_commit_allreduce :
    (((stCl2 0).colls.filter (fun g => g.dies.contains 0) = [collA 0]) ∧ (∀ r ∈ (collA 0).alive, (stCl2 0).rankDead (collA 0) r = false) ∧ ((prbC 0 (stCl2 0) (collA 0) (memA 0)).2 = .ok) ∧ ((stCl2 0).collMembers (collA 0) = some [memA 0]) ∧ (collDest (memA 0).cmd.w (collA 0).dies.length ≤ ((collA 0).chunk + 1) * ((collA 0).chunkLen / collSize (memA 0).cmd.w))) :=
  by decide +kernel

theorem witness_CollectiveAndOffloadCommands_reduceScatter :
    (((stCl 1).collNext 0 = some (cndC 1)) ∧ ((cndC 1).1.core = 0) ∧ (((stCl 1).core 0).cmds.find? (fun d => d.age == (cndC 1).1.age && collKind d.w == 1) = some (colA 1)) ∧ ((((stCl1 1).core 0).cmds.any fun y => y.age == (colA 1).age && !y.started) = false) ∧ (((stCl1 1).core 0).cmds.filter (fun y => y.q == .clq && collKind y.w == 1 && y.started && !y.prog.counted) = [colS 1])) :=
  by decide +kernel

theorem witness_CollectiveAndOffloadCommands_commit_reduceScatter :
    (((stCl2 1).colls.filter (fun g => g.dies.contains 0) = [collA 1]) ∧ (∀ r ∈ (collA 1).alive, (stCl2 1).rankDead (collA 1) r = false) ∧ ((prbC 1 (stCl2 1) (collA 1) (memA 1)).2 = .ok) ∧ ((stCl2 1).collMembers (collA 1) = some [memA 1]) ∧ (collDest (memA 1).cmd.w (collA 1).dies.length ≤ ((collA 1).chunk + 1) * ((collA 1).chunkLen / collSize (memA 1).cmd.w))) :=
  by decide +kernel

theorem witness_CollectiveAndOffloadCommands_allgather :
    (((stCl 2).collNext 0 = some (cndC 2)) ∧ ((cndC 2).1.core = 0) ∧ (((stCl 2).core 0).cmds.find? (fun d => d.age == (cndC 2).1.age && collKind d.w == 2) = some (colA 2)) ∧ ((((stCl1 2).core 0).cmds.any fun y => y.age == (colA 2).age && !y.started) = false) ∧ (((stCl1 2).core 0).cmds.filter (fun y => y.q == .clq && collKind y.w == 2 && y.started && !y.prog.counted) = [colS 2])) :=
  by decide +kernel

theorem witness_CollectiveAndOffloadCommands_commit_allgather :
    (((stCl2 2).colls.filter (fun g => g.dies.contains 0) = [collA 2]) ∧ (∀ r ∈ (collA 2).alive, (stCl2 2).rankDead (collA 2) r = false) ∧ ((prbC 2 (stCl2 2) (collA 2) (memA 2)).2 = .ok) ∧ ((stCl2 2).collMembers (collA 2) = some [memA 2]) ∧ (collDest (memA 2).cmd.w (collA 2).dies.length ≤ ((collA 2).chunk + 1) * ((collA 2).chunkLen / collSize (memA 2).cmd.w))) :=
  by decide +kernel

theorem witness_CollectiveAndOffloadCommands_broadcast :
    (((stCl 3).collNext 0 = some (cndC 3)) ∧ ((cndC 3).1.core = 0) ∧ (((stCl 3).core 0).cmds.find? (fun d => d.age == (cndC 3).1.age && collKind d.w == 3) = some (colA 3)) ∧ ((((stCl1 3).core 0).cmds.any fun y => y.age == (colA 3).age && !y.started) = false) ∧ (((stCl1 3).core 0).cmds.filter (fun y => y.q == .clq && collKind y.w == 3 && y.started && !y.prog.counted) = [colS 3])) :=
  by decide +kernel

theorem witness_CollectiveAndOffloadCommands_commit_broadcast :
    (((stCl2 3).colls.filter (fun g => g.dies.contains 0) = [collA 3]) ∧ (∀ r ∈ (collA 3).alive, (stCl2 3).rankDead (collA 3) r = false) ∧ ((prbC 3 (stCl2 3) (collA 3) (memA 3)).2 = .ok) ∧ ((stCl2 3).collMembers (collA 3) = some [memA 3]) ∧ (collDest (memA 3).cmd.w (collA 3).dies.length ≤ ((collA 3).chunk + 1) * ((collA 3).chunkLen / collSize (memA 3).cmd.w))) :=
  by decide +kernel

theorem witness_CollectiveAndOffloadCommands_reduce :
    (((stCl 4).collNext 0 = some (cndC 4)) ∧ ((cndC 4).1.core = 0) ∧ (((stCl 4).core 0).cmds.find? (fun d => d.age == (cndC 4).1.age && collKind d.w == 4) = some (colA 4)) ∧ ((((stCl1 4).core 0).cmds.any fun y => y.age == (colA 4).age && !y.started) = false) ∧ (((stCl1 4).core 0).cmds.filter (fun y => y.q == .clq && collKind y.w == 4 && y.started && !y.prog.counted) = [colS 4])) :=
  by decide +kernel

theorem witness_CollectiveAndOffloadCommands_commit_reduce :
    (((stCl2 4).colls.filter (fun g => g.dies.contains 0) = [collA 4]) ∧ (∀ r ∈ (collA 4).alive, (stCl2 4).rankDead (collA 4) r = false) ∧ ((prbC 4 (stCl2 4) (collA 4) (memA 4)).2 = .ok) ∧ ((stCl2 4).collMembers (collA 4) = some [memA 4]) ∧ (collDest (memA 4).cmd.w (collA 4).dies.length ≤ ((collA 4).chunk + 1) * ((collA 4).chunkLen / collSize (memA 4).cmd.w))) :=
  by decide +kernel

theorem witness_CollectiveAndOffloadCommands_goes_on :
    (((stLg 0x501000).colls.filter (fun g => g.dies.contains 0) = [collL 0x501000]) ∧ (∀ r ∈ (collL 0x501000).alive, (stLg 0x501000).rankDead (collL 0x501000) r = false) ∧ ((prbC 3 (stLg 0x501000) (collL 0x501000) (memL 0x501000)).2 = .ok) ∧ ((stLg 0x501000).collMembers (collL 0x501000) = some [memL 0x501000]) ∧ (¬ collDest (memL 0x501000).cmd.w (collL 0x501000).dies.length ≤ ((collL 0x501000).chunk + 1) * ((collL 0x501000).chunkLen / collSize (memL 0x501000).cmd.w))) :=
  by decide +kernel

theorem witness_CollectiveAndOffloadCommands_held :
    ((stLw.colls.filter (fun g => g.dies.contains 0) = [collL 0x0100000000104000]) ∧ (∀ r ∈ (collL 0x0100000000104000).alive, stLw.rankDead (collL 0x0100000000104000) r = false) ∧ ((prbC 3 stLw (collL 0x0100000000104000) (memL 0x0100000000104000)).2 = .waits) ∧ (stLw.collMembers (collL 0x0100000000104000) = some [memL 0x0100000000104000]) ∧ (¬ collDest (memL 0x0100000000104000).cmd.w (collL 0x0100000000104000).dies.length ≤ ((collL 0x0100000000104000).chunk + 1) * ((collL 0x0100000000104000).chunkLen / collSize (memL 0x0100000000104000).cmd.w))) :=
  by decide +kernel

theorem witness_CollectiveAndOffloadCommands_timeout :
    (stClT).Canon ∧
    (((stClT.core 0).cmds.find? (fun d => d.q == QName.clq && !d.prog.counted && decide (d.since + 2 ^ 30 ≤ stClT.time) && stClT.collMissing 0 d) = some colT) ∧ (stClT.faultPend 0 = false)) :=
  ⟨canon_of (by decide +kernel), by decide +kernel⟩

theorem witness_CollectiveAndOffloadCommands_reform :
    ((stRef.colls = [collD]) ∧ (collD.dies.contains 0 = true) ∧ (∀ y ∈ stRef.cores, ∀ z ∈ y.2.cmds, z.q = QName.clq → z.prog.counted = true) ∧ (stRef.rankDead collD 1 = true)) :=
  by decide +kernel

theorem witness_CollectiveAndOffloadCommands_offload :
    (((stO 0x28 false).grab 0 (offA 0x28 false) ((offA 0x28 false).prog.dva + (offA 0x28 false).prog.off) 64).1).Canon ∧
    (∃ u, (stO 0x28 false).grab 0 (offA 0x28 false) ((offA 0x28 false).prog.dva + (offA 0x28 false).prog.off) 64 = (u, .ok ((toBytes 64 0x1122334455667788), false)) ∧ (((stO 0x28 false).core 0).headOf .ofq = some (offA 0x28 false)) ∧ ((offA 0x28 false).started = true) ∧ ((offA 0x28 false).prog.counted = false) ∧ ((offA 0x28 false).prog.more = true) ∧ ((offA 0x28 false).opc = 0x28) ∧ ((toBytes 64 0x1122334455667788).length = 64)) :=
  ⟨canon_of (by decide +kernel), ⟨_, pair_of (by decide +kernel), by decide +kernel⟩⟩

theorem witness_CollectiveAndOffloadCommands_replay :
    ((((stO 0x29 false).core 0).headOf .ofq = some (offA 0x29 false)) ∧ ((offA 0x29 false).started = true) ∧ ((offA 0x29 false).prog.counted = false) ∧ ((offA 0x29 false).prog.more = true) ∧ ((offA 0x29 false).opc = 0x29)) :=
  by decide +kernel

theorem witness_CollectiveAndOffloadCommands_offload_done :
    (((stO 0x28 true).awaiting 0 = some (0, offA 0x28 true)) ∧ ((offA 0x28 true).opc = 0x28)) :=
  by decide +kernel

theorem witness_CollectiveAndOffloadCommands_replay_data :
    (((stO 0x29 true).engineAt 0 ((offA 0x29 true).prog.dva + (offA 0x29 true).prog.off) .wr).1).Canon ∧
    (∃ v, (stO 0x29 true).engineAt 0 ((offA 0x29 true).prog.dva + (offA 0x29 true).prog.off) .wr = (v, .key (tileKey 0 0x4000)) ∧ ((stO 0x29 true).awaiting 0 = some (0, offA 0x29 true)) ∧ ((offA 0x29 true).opc = 0x29) ∧ (keyPkg (tileKey 0 0x4000) = corePkg 0) ∧ (isDram (tileKey 0 0x4000) = false) ∧ (cf (offA 0x29 true).w 30 1 = 0)) :=
  ⟨canon_of (by decide +kernel), ⟨_, pair_of (by decide +kernel), by decide +kernel⟩⟩

theorem witness_CollectiveAndOffloadCommands_report :
    (((stM.onPkg 0 fun _ => { pkgA with reporting := some 2 }).awaiting 0 = none) ∧ (((stM.onPkg 0 fun _ => { pkgA with reporting := some 2 }).pkg 0).reporting = some 2)) :=
  by decide +kernel

end Sys2Proof.Tests
end

