-- ==== Sys2Proof/Tests/WitnessThread.lean ====
section
/-! SUPPORT. Witnesses, continued: threads, compacts, faults, caches and the host. -/

open Sys2Proof Sys2Proof.Machine

namespace Sys2Proof.Tests

set_option maxRecDepth 100000
set_option Elab.async false

/-! ## Threads -/

def teamA : Team := { rcd := recA 1, base := 0, job := job1, failed := false }

/-- `stX0` with the team of core 0 registered; `f` changes core 0. -/
def stE (f : Core → Core) : State :=
  (stX fun c => f { c with size := 1 }).onPkg 0 fun p => { p with teams := [(1, teamA)] }

/-- Cores 0 and 1 of one team wait at the same `gang`, members of its barrier. -/
def stGang (phase : BitVec 8) : State :=
  let c := { coreA with token := some 7, bwaiting := some (5, 7), size := 2 }
  { stM with cores := [(0, c), (1, c)],
             dies := [(0, { Die.idle with bars := [(5, { Barrier.idle with kind := .team, mask := 3, phase := phase })] })] }

/-- A thread that drains, with its context at 0x60000 and one accumulator. -/
def stSv : State :=
  ((stE fun c => { c with st := .saving, saveMap := 0x2, savePc := 0x100000, pc := 0x100010 }).writeNat (0x10040 + 16) 8 0x40060000)
/-- The same thread saved, its context holding zeros. -/
def stSd : State := stSv.onCore 0 fun c => { c with st := .saved }

def job2 : Job := { part := 0, ctx := 2 }
/-- Tile 0 holds the state of job 1, whose thread is saved there, and so is one of job 2. -/
def stSw : State :=
  { stM with cores := [(0, { coreA with st := .saved }), (1, { coreA with st := .saved, job := job2 })] }
/-- The same with the first alone, and a record of another job waiting. -/
def stSo : State :=
  { stM with cores := [(0, { coreA with st := .saved })],
             pkgs := [(0, { pkgA with waiting := [(0, (recA 1, 0))], fed := [(0, [(job2, 0)])] })] }

/-- The start slot of churn 0 holds a record and go. -/
def stCh : State := (stX0.writeNat 0x30200 64 (recA 1).toNat).writeNat 0x30240 4 0x5

def gradA : Grad := { w := 0x40, src := 0, cls := 1, age := 0, clk := 5 }
/-- A churn with a record in gradient queue 3 has the turn. -/
def stGq : State :=
  { stM with cur := .churn 0 0, grads := [(gradKey (2 ^ 22) 3, [gradA])] }.setCore (2 ^ 22) { coreA with tlb := [] }

/-! ## Compacts -/

/-- Tile 0 alone in a compact at barrier 5 of its die, whose phase has passed the token 7. -/
def cp0 : Compact := { cpA with signer := some 0, team := 0, signed := false, members := [{ pkg := 0, tile := 0, pbase := 0x40080000, xprog := 0 }], poff := 0x84000, plen := 1 }
def stZ (f : Core → Core) : State :=
  { (stX f).setTile 0 { tileA with compact := some cp0 } with
    dies := [(0, { Die.idle with sup := (stX0.die 0).sup, bars := [(5, { Barrier.idle with kind := .compact 3 job1, mask := 1, phase := 8, since := some 0 })] })] }

/-- A descriptor of this tile alone at 0x500000: id 3, barrier 5, timeout 1, one KiB from offset 0x84000, base 0x600000. -/
def dscA : Desc :=
  { hdr := 3 + 5 * 2 ^ 24 + 2 ^ 32 + 0x84000 * 2 ^ 64 + 2 ^ 84, entries := [0x600000 * 2 ^ 64] }
def withDsc (s : State) : State := (s.writeNat 0x80500000 32 dscA.hdr).writeNat 0x80500020 32 (0x600000 * 2 ^ 64)
def x5d (c : Core) : Core := { c with x := c.x.set 5 0x500000 }

/-- The same descriptor with a reserved bit set. -/
def dscB : Desc := { dscA with hdr := dscA.hdr + 2 ^ 30 }
def withBad (s : State) : State := (s.writeNat 0x80500000 32 dscB.hdr).writeNat 0x80500020 32 (0x600000 * 2 ^ 64)
def stXb : State := withDsc (stX fun c => { x5d c with broken := true })

/-- The descriptor with a range that no page maps. -/
def dscC : Desc := { dscA with entries := [0x80000000 * 2 ^ 64] }
def stXc : State := ((stX x5d).writeNat 0x80500000 32 dscC.hdr).writeNat 0x80500020 32 (0x80000000 * 2 ^ 64)

/-! ## Faults -/

def phA : PhysCore := ⟨⟨0, 0, 0⟩, 0, 0⟩
def quA : QuadId := ⟨0, 0, 0⟩
/-- The die has missed two beats of physical core 0, which is silent. -/
def stMiss (n : Nat) : State :=
  { stC (fun c => { c with st := .killed, report := true }) with dies := [(0, { Die.idle with silent := [(phA.index, true)], missed := [(phA.index, n)] })], time := 2 ^ 20 }
def stQd (f : Quad → Quad) : State := { stC (fun c => { c with st := .stopped }) with quads := [(0, f Quad.idle)], time := 2 ^ 26 }

def stDcl : State := (stMiss 2).onDie phA.dieNum fun v => { v with declared := [(phA.index, true)] }

/-- The test rotation of quadrant 0 is on and its next turn is due; `n` is the tile whose turn it is. -/
def stTurn (n : Nat) : State :=
  { stC id with quads := [(0, { Quad.idle with turn := n })], dies := [(0, { Die.idle with sup := [(0x820, 1)] })] }

def mgA : Merge := { p := 0, q := 1, since := 0, seen := [], seenAt := 0 }
/-- Two partitions of one die each, at a time. -/
def stMg (ms : List Merge) (time : Nat) : State :=
  { stM with cores := [], pkgs := [(0, { pkgA with parts := [(0, 1), (1, 2)], merges := ms })], time := time }

def knA : Kernel := { part := 0, ctx := 1, entry := 0x400000, since := 0, d := 1024, o := 1, label := none }
def stKn : State := { stM with pkgs := [(0, { pkgA with kernels := [knA] })], time := 2 ^ 20 }

/-! ## Witnesses -/

theorem witness_ThreadEvents_exit :
    (stM).Runs (.exit gt) ∧
    ((stM.faultPend 0 = false) ∧ ((stM.core 0).lost = false) ∧ (stM.quiet 0 = true) ∧ (stM.released 0 stM.seq .pod = true)) :=
  ⟨runs_of (by decide +kernel), by decide +kernel⟩

theorem witness_ThreadEvents_team_end :
    ((isChurn 0 = false) ∧ ((stE fun c => { c with st := .ended }).teamOver 0 = true) ∧ (((stE fun c => { c with st := .ended }).pkg 0).teams.find ((stE fun c => { c with st := .ended }).core 0).teamKey = some teamA)) :=
  by decide +kernel

theorem witness_ThreadEvents_mark :
    ((isTileCore 0 = true) ∧ ((stM.core 0).alive = true)) :=
  by decide +kernel

theorem witness_ThreadEvents_safe_passes :
    (stM).Runs (.safe gt 0x1FFFFFFFFFFFFFFF) ∧
    ((((stM.core 0).mark && isTileCore 0) = false)) :=
  ⟨runs_of (by decide +kernel), by decide +kernel⟩

theorem witness_ThreadEvents_safe_saves :
    ((stC fun c => { c with mark := true })).Runs (.safe gt 0x1FFFFFFFFFFFFFFF) ∧
    (((((stC fun c => { c with mark := true }).core 0).mark && isTileCore 0) = true)) :=
  ⟨runs_of (by decide +kernel), by decide +kernel⟩

theorem witness_ThreadEvents_yield_passes :
    (stM).Runs (.yield gt) ∧
    (((isTileCore 0 && ((stM.core 0).mark || (stM.ready (.yield gt)).othersWait 0)) = false)) :=
  ⟨runs_of (by decide +kernel), by decide +kernel⟩

theorem witness_ThreadEvents_yield_saves :
    ((stC fun c => { c with mark := true })).Runs (.yield gt) ∧
    (((isTileCore 0 && (((stC fun c => { c with mark := true }).core 0).mark || ((stC fun c => { c with mark := true }).ready (.yield gt)).othersWait 0)) = true)) :=
  ⟨runs_of (by decide +kernel), by decide +kernel⟩

theorem witness_ThreadEvents_gang_arrives :
    (stM).Runs (.gang gt 5) ∧
    ((stM.isCompactBar 0 5 = false) ∧ ((stM.core 0).token = none) ∧ (stM.member 0 5 = false)) :=
  ⟨runs_of (by decide +kernel), by decide +kernel⟩

theorem witness_ThreadEvents_gang_member :
    ((stBar 7 0)).Runs (.gang gt 5) ∧
    (((stBar 7 0).isCompactBar 0 5 = false) ∧ (((stBar 7 0).core 0).token = none) ∧ ((stBar 7 0).member 0 5 = true) ∧ ((stBar 7 0).hasArrived 0 5 = false) ∧ ((stBar 7 0).released 0 (stBar 7 0).seq ((stBar 7 0).barScope (coreDieKey 0) 5 0) = true)) :=
  ⟨runs_of (by decide +kernel), by decide +kernel⟩

theorem witness_ThreadEvents_gang_passes :
    ((stGang 8)).Runs (.gang gt 5) ∧
    (((stGang 8).isCompactBar 0 5 = false) ∧ (((stGang 8).core 0).token = some 7) ∧ (((stGang 8).phase 0 5 - 7).toNat = 1) ∧ (isTileCore 0 = true) ∧ (((stGang 8).ready (.gang gt 5)).gangOf 0 5 = [0, 1])) :=
  ⟨runs_of (by decide +kernel), by decide +kernel⟩

theorem witness_ThreadEvents_gang_last :
    ((stGang 134)).Runs (.gang gt 5) ∧
    (((stGang 134).isCompactBar 0 5 = false) ∧ (((stGang 134).core 0).token = some 7) ∧ (((stGang 134).phase 0 5 - 7).toNat = 127) ∧ (isTileCore 0 = true) ∧ (((stGang 134).ready (.gang gt 5)).gangOf 0 5 = [0, 1])) :=
  ⟨runs_of (by decide +kernel), by decide +kernel⟩

theorem witness_ThreadEvents_gang_future :
    ((stGang 135)).Runs (.gang gt 5) ∧
    ((stGang 135)).Handles 0 ∧
    (((stGang 135).isCompactBar 0 5 = false) ∧ (((stGang 135).core 0).token = some 7) ∧ (((stGang 135).phase 0 5 - 7).toNat = 128)) :=
  ⟨runs_of (by decide +kernel), handles_of (by decide +kernel), by decide +kernel⟩

theorem witness_ThreadEvents_gang_compact :
    ({ stM with dies := [(0, { Die.idle with bars := [(5, { Barrier.idle with kind := .compact 3 job1, mask := 1 })] })] }).Runs (.gang gt 5) ∧
    ({ stM with dies := [(0, { Die.idle with bars := [(5, { Barrier.idle with kind := .compact 3 job1, mask := 1 })] })] }).Handles 0 ∧
    ((({ stM with dies := [(0, { Die.idle with bars := [(5, { Barrier.idle with kind := .compact 3 job1, mask := 1 })] })] }).isCompactBar 0 5 = true)) :=
  ⟨runs_of (by decide +kernel), handles_of (by decide +kernel), by decide +kernel⟩

theorem witness_ThreadEvents_save :
    (stSv).Canon ∧
    ((stSv.savable 0 = true)) :=
  ⟨canon_of (by decide +kernel), by decide +kernel⟩

theorem witness_ThreadEvents_resume :
    (stSd).Canon ∧
    ((isTileCore 0 = true) ∧ (stSd.resumable 0 = true) ∧ (stSd.resumesBefore 0 = false) ∧ (stSd.ladleHeld 0 = false) ∧ ((stSd.bringIn (coreTile 0) (stSd.core 0).job).saveSlot 0 + 16 ≤ tileBase)) :=
  ⟨canon_of (by decide +kernel), by decide +kernel⟩

theorem witness_ThreadEvents_swap :
    ((stSw.allSaved 0 = true) ∧ (stSw.savedJob 0 = some job2)) :=
  by decide +kernel

theorem witness_ThreadEvents_swap_out :
    ((stSo.allSaved 0 = true) ∧ (stSo.savedJob 0 = none) ∧ ((stSo.tile 0).job = some job1) ∧ (stSo.tileBusy 0 job1 = true) ∧ (stSo.recordWants 0 job1 = true)) :=
  by decide +kernel

theorem witness_ThreadEvents_remap :
    (((65 : BitVec 7).toNat < 66) ∧ ((stC fun c => { c with st := .stopped }).quiesced 0 = true) ∧ ((List.range 64).find? (fun i => i != 0 % 64 && (stC fun c => { c with st := .stopped }).ptile (tileQuadKey 0 * 64 + i) == 65) = none) ∧ (65 ∉ ((stC fun c => { c with st := .stopped }).quad (tileQuadKey 0)).out) ∧ (65 ∉ ((stC fun c => { c with st := .stopped }).quad (tileQuadKey 0)).lost) ∧ (((stC fun c => { c with st := .stopped }).quad (tileQuadKey 0)).testing ≠ some 65)) :=
  by decide +kernel

theorem witness_ThreadEvents_exchange :
    (((5 : BitVec 7).toNat < 66) ∧ ((stC fun c => { c with st := .stopped }).quiesced 0 = true) ∧ ((List.range 64).find? (fun i => i != 0 % 64 && (stC fun c => { c with st := .stopped }).ptile (tileQuadKey 0 * 64 + i) == 5) = some 5) ∧ ((stC fun c => { c with st := .stopped }).idleTile (tileQuadKey 0 * 64 + 5) = true) ∧ (5 ∉ ((stC fun c => { c with st := .stopped }).quad (tileQuadKey 0)).out) ∧ (5 ∉ ((stC fun c => { c with st := .stopped }).quad (tileQuadKey 0)).lost) ∧ (((stC fun c => { c with st := .stopped }).quad (tileQuadKey 0)).testing ≠ some 5)) :=
  by decide +kernel

theorem witness_ThreadEvents_restart :
    (((stE fun c => { c with st := .stopped, tpc := 0x123450 }).startRecord 0 = some teamA) ∧ (((stE fun c => { c with st := .stopped, tpc := 0x123450 }).core 0).st = .stopped)) :=
  by decide +kernel

theorem witness_ThreadEvents_end_stopped :
    (((isTileCore 0 && (stE fun c => { c with st := .stopped, tpc := 0x123450 }).tileLost (coreTile 0)) = false) ∧ (((stE fun c => { c with st := .stopped, tpc := 0x123450 }).core 0).st = .stopped) ∧ ((stE fun c => { c with st := .stopped, tpc := 0x123450 }).spent 0 = true)) :=
  by decide +kernel

theorem witness_ThreadEvents_restart_killed :
    (((stE fun c => { c with st := .killed, dead := true }).startRecord 0 = some teamA) ∧ (((stE fun c => { c with st := .killed, dead := true }).core 0).st = .killed) ∧ (((stE fun c => { c with st := .killed, dead := true }).core 0).dead = true) ∧ ((stE fun c => { c with st := .killed, dead := true }).onGoodCore 0 = true)) :=
  by decide +kernel

theorem witness_ThreadEvents_stop_running :
    ((stM.endWith 0 = [0]) ∧ ((stM.core 0).st = .running)) :=
  by decide +kernel

theorem witness_ThreadEvents_churn :
    (((stCh.core (coreKey (.churn 0 0))).alive = false) ∧ ((stCh.pkg 0).churns.find 0 = none) ∧ (stCh.serves 0 (stCh.partOf 0 (coreDie (coreKey (.churn 0 0)))) = true) ∧ (stCh.slotGo (coreKey (.churn 0 0)) = true) ∧ (let b := stCh.engineRead none (stCh.startSlot (coreKey (.churn 0 0))) 128
     let r : BitVec 512 := BitVec.ofNat 512 (leNat b.2)
     b.1.recordOk 0 0 { part := 0, ctx := BitVec.ofNat 12 (getFld (leNat b.2) 514 12) } r = true ∧ recSize r = 1 ∧ recTile r = 0 ∧ recPin r = false)) :=
  by decide +kernel

theorem witness_ThreadEvents_qget :
    (stGq).Runs (.qget gt 8 3 1 2) ∧
    ((((stGq.ready (.qget gt 8 3 1 2)).nextGrad (gradKey stGq.me 3)).isSome = true)) :=
  ⟨runs_of (by decide +kernel), by decide +kernel⟩

theorem witness_ThreadEvents_qget_empty :
    (stGq).Runs (.qget gt 8 7 1 2) ∧
    (((stGq.ready (.qget gt 8 7 1 2)).nextGrad (gradKey stGq.me 7) = none) ∧ ((1 : PReg) ≠ 0)) :=
  ⟨runs_of (by decide +kernel), by decide +kernel⟩

theorem witness_CompactWords_passed :
    ((stZ fun c => { c with token := some 7 })).Runs (.sign gt 5) ∧
    ((stZ fun c => { c with token := some 7 })).Runs (.sstep gt 5) ∧
    ((stZ fun c => { c with token := some 7 })).Runs (.dissolve gt 5) ∧
    ((((stZ fun c => { c with token := some 7 }).core 0).token = some 7) ∧ (((stZ fun c => { c with token := some 7 }).core 0).broken = false) ∧ (((stZ fun c => { c with token := some 7 }).tile 0).compact = some cp0) ∧ (cp0.signer = some 0) ∧ ((stZ fun c => { c with token := some 7 }).phase 0 cp0.bid.toNat ≠ 7) ∧ (cp0.held = []) ∧ (0 ∈ cp0.tiles)) :=
  ⟨runs_of (by decide +kernel), runs_of (by decide +kernel), runs_of (by decide +kernel), by decide +kernel⟩

theorem witness_CompactWords_broken :
    ((stZ fun c => { c with token := some 7, broken := true })).Runs (.sstep gt 5) ∧
    ((stZ fun c => { c with token := some 7, broken := true })).Runs (.sign gt 5) ∧
    ((stZ fun c => { c with token := some 7, broken := true })).Runs (.dissolve gt 5) ∧
    ((stZ fun c => { c with token := some 7, broken := true })).Handles 0 ∧
    ((((stZ fun c => { c with token := some 7, broken := true }).core 0).token = some 7) ∧ (((stZ fun c => { c with token := some 7, broken := true }).core 0).broken = true)) :=
  ⟨runs_of (by decide +kernel), runs_of (by decide +kernel), runs_of (by decide +kernel), handles_of (by decide +kernel), by decide +kernel⟩

theorem witness_CompactWords_broken_xfer :
    ((stZ fun c => { c with plan := [(1, 0), (2, 0)], broken := true })).Runs (.xfer gt 5) ∧
    ((stZ fun c => { c with plan := [(1, 0), (2, 0)], broken := true })).Handles 0 ∧
    ((((stZ fun c => { c with plan := [(1, 0), (2, 0)], broken := true }).core 0).plan = [(1, 0), (2, 0)]) ∧ (((stZ fun c => { c with plan := [(1, 0), (2, 0)], broken := true }).core 0).broken = true)) :=
  ⟨runs_of (by decide +kernel), handles_of (by decide +kernel), by decide +kernel⟩

theorem witness_CompactWords_unaligned :
    ((stZ id)).Runs (.sign gt 5) ∧
    ((stZ id)).Runs (.xfer gt 5) ∧
    ((stZ id)).Runs (.sstep gt 5) ∧
    ((stZ id)).Runs (.dissolve gt 5) ∧
    ((stZ id)).Handles 0 ∧
    ((((stZ id).core 0).token = none) ∧ (((stZ id).core 0).plan = []) ∧ (((stZ id).tile 0).signing = none) ∧ ((((stZ id).core 0).rx 5).toNat % 32 ≠ 0)) :=
  ⟨runs_of (by decide +kernel), runs_of (by decide +kernel), runs_of (by decide +kernel), runs_of (by decide +kernel), handles_of (by decide +kernel), by decide +kernel⟩

theorem witness_CompactWords_sign_waited :
    (((stX id).setTile 0 { tileA with signing := some cp0 })).Runs (.sign gt 5) ∧
    (((((stX id).setTile 0 { tileA with signing := some cp0 }).core 0).token = none) ∧ ((((stX id).setTile 0 { tileA with signing := some cp0 }).tile 0).signing = some cp0) ∧ (cp0.signer = some 0) ∧ ((cp0.pinned.any fun n => ((((stX id).setTile 0 { tileA with signing := some cp0 }).ready (.sign gt 5)).sector n.1).pinned) = false) ∧ ((((stX id).setTile 0 { tileA with signing := some cp0 }).ready (.sign gt 5)).released 0 (((stX id).setTile 0 { tileA with signing := some cp0 }).ready (.sign gt 5)).seq .pod = true)) :=
  ⟨runs_of (by decide +kernel), by decide +kernel⟩

theorem witness_CompactWords_sign :
    ((withDsc ((stX x5d)))).Runs (.sign gt 5) ∧
    (∃ a, ((withDsc ((stX x5d))).ready (.sign gt 5)).readMem 0 (((withDsc ((stX x5d))).core 0).rx 5).toNat 32 = (a, .ok ((toBytes 32 dscA.hdr), false)) ∧ ∃ v, a.readMem 0 ((((withDsc ((stX x5d))).core 0).rx 5).toNat + 32) (32 * (dscA.nm + 1)) = (v, .ok ((toBytes 32 (0x600000 * 2 ^ 64)), false)) ∧ ∃ y, v.rangeCheck 0 (rangePages (getFld (0x600000 * 2 ^ 64) 64 64) dscA.plen) = (y, none) ∧ (((withDsc ((stX x5d))).core 0).token = none) ∧ (((withDsc ((stX x5d))).core 0).plan = []) ∧ ((((withDsc ((stX x5d))).core 0).rx 5).toNat % 32 = 0) ∧ (dscA.hdr = leNat (toBytes 32 dscA.hdr)) ∧ (dscA.entries = (List.range (dscA.nm + 1)).map (fun i => getFld (leNat (toBytes 32 (0x600000 * 2 ^ 64))) (256 * i) 256)) ∧ (v.descBad dscA = false) ∧ (dscA.entryOf 0 = some (0x600000 * 2 ^ 64)) ∧ (((withDsc ((stX x5d))).tile 0).signing = none) ∧ ((v.tile 0).signing = none) ∧ ((v.tile 0).compact = none) ∧ ((v.tile 0).scratchEnd ≤ dscA.poff) ∧ (dscA.poff + 1024 * dscA.plen ≤ 0x100000) ∧ (v.barTaken 0 dscA = false) ∧ (dscA.gridBad = false) ∧ (((dscA.compact ((y.core 0).rx 5) (y.core 0).job 0 (y.core 0).base.toNat (y.rangeSectors 0 (getFld (0x600000 * 2 ^ 64) 64 64) dscA.poff dscA.plen)).pinned.any fun n => (((y.claimBar 0 (dscA.compact ((y.core 0).rx 5) (y.core 0).job 0 (y.core 0).base.toNat (y.rangeSectors 0 (getFld (0x600000 * 2 ^ 64) 64 64) dscA.poff dscA.plen))).onTile 0 fun n => { n with signing := some (dscA.compact ((y.core 0).rx 5) (y.core 0).job 0 (y.core 0).base.toNat (y.rangeSectors 0 (getFld (0x600000 * 2 ^ 64) 64 64) dscA.poff dscA.plen)) }).sector n.1).pinned) = false) ∧ (((y.claimBar 0 (dscA.compact ((y.core 0).rx 5) (y.core 0).job 0 (y.core 0).base.toNat (y.rangeSectors 0 (getFld (0x600000 * 2 ^ 64) 64 64) dscA.poff dscA.plen))).onTile 0 fun n => { n with signing := some (dscA.compact ((y.core 0).rx 5) (y.core 0).job 0 (y.core 0).base.toNat (y.rangeSectors 0 (getFld (0x600000 * 2 ^ 64) 64 64) dscA.poff dscA.plen)) }).released 0 ((y.claimBar 0 (dscA.compact ((y.core 0).rx 5) (y.core 0).job 0 (y.core 0).base.toNat (y.rangeSectors 0 (getFld (0x600000 * 2 ^ 64) 64 64) dscA.poff dscA.plen))).onTile 0 fun n => { n with signing := some (dscA.compact ((y.core 0).rx 5) (y.core 0).job 0 (y.core 0).base.toNat (y.rangeSectors 0 (getFld (0x600000 * 2 ^ 64) 64 64) dscA.poff dscA.plen)) }).seq .pod = true)) :=
  ⟨runs_of (by decide +kernel), ⟨_, pair_of (by decide +kernel), _, pair_of (by decide +kernel), _, pair_of (by decide +kernel), by decide +kernel⟩⟩

theorem witness_CompactWords_sstep :
    ((withDsc (stZ x5d))).Runs (.sstep gt 5) ∧
    (∃ a, ((withDsc (stZ x5d)).ready (.sstep gt 5)).readMem 0 (((withDsc (stZ x5d)).core 0).rx 5).toNat 32 = (a, .ok ((toBytes 32 dscA.hdr), false)) ∧ ∃ v, a.readMem 0 ((((withDsc (stZ x5d)).core 0).rx 5).toNat + 32) (32 * (dscA.nm + 1)) = (v, .ok ((toBytes 32 (0x600000 * 2 ^ 64)), false)) ∧ (((withDsc (stZ x5d)).core 0).token = none) ∧ (((withDsc (stZ x5d)).core 0).plan = []) ∧ ((((withDsc (stZ x5d)).core 0).rx 5).toNat % 32 = 0) ∧ (dscA.hdr = leNat (toBytes 32 dscA.hdr)) ∧ (dscA.entries = (List.range (dscA.nm + 1)).map (fun i => getFld (leNat (toBytes 32 (0x600000 * 2 ^ 64))) (256 * i) 256)) ∧ (v.descBad dscA = false) ∧ (dscA.entryOf 0 = some (0x600000 * 2 ^ 64)) ∧ ((v.core 0).broken = false) ∧ ((v.tile 0).compact = some cp0) ∧ (v.signs 0 dscA = true) ∧ (v.transfersDone 0 = true) ∧ (v.released 0 v.seq .pod = true)) :=
  ⟨runs_of (by decide +kernel), ⟨_, pair_of (by decide +kernel), _, pair_of (by decide +kernel), by decide +kernel⟩⟩

theorem witness_CompactWords_dissolve :
    ((withDsc (stZ x5d))).Runs (.dissolve gt 5) ∧
    (∃ a, ((withDsc (stZ x5d)).ready (.dissolve gt 5)).readMem 0 (((withDsc (stZ x5d)).core 0).rx 5).toNat 32 = (a, .ok ((toBytes 32 dscA.hdr), false)) ∧ ∃ v, a.readMem 0 ((((withDsc (stZ x5d)).core 0).rx 5).toNat + 32) (32 * (dscA.nm + 1)) = (v, .ok ((toBytes 32 (0x600000 * 2 ^ 64)), false)) ∧ (((withDsc (stZ x5d)).core 0).token = none) ∧ (((withDsc (stZ x5d)).core 0).plan = []) ∧ ((((withDsc (stZ x5d)).core 0).rx 5).toNat % 32 = 0) ∧ (dscA.hdr = leNat (toBytes 32 dscA.hdr)) ∧ (dscA.entries = (List.range (dscA.nm + 1)).map (fun i => getFld (leNat (toBytes 32 (0x600000 * 2 ^ 64))) (256 * i) 256)) ∧ (v.descBad dscA = false) ∧ (dscA.entryOf 0 = some (0x600000 * 2 ^ 64)) ∧ ((v.core 0).broken = false) ∧ ((v.tile 0).compact = some cp0) ∧ (v.signs 0 dscA = true) ∧ (v.transfersDone 0 = true) ∧ (v.released 0 v.seq .pod = true)) :=
  ⟨runs_of (by decide +kernel), ⟨_, pair_of (by decide +kernel), _, pair_of (by decide +kernel), by decide +kernel⟩⟩

theorem witness_CompactWords_broken_later :
    (stXb).Runs (.xfer gt 5) ∧
    (∃ a, (stXb.ready (.xfer gt 5)).readMem 0 ((stXb.core 0).rx 5).toNat 32 = (a, .ok ((toBytes 32 dscA.hdr), false)) ∧ ∃ v, a.readMem 0 (((stXb.core 0).rx 5).toNat + 32) (32 * (dscA.nm + 1)) = (v, .ok ((toBytes 32 (0x600000 * 2 ^ 64)), false)) ∧ ((stXb.core 0).token = none) ∧ ((stXb.core 0).plan = []) ∧ (((stXb.core 0).rx 5).toNat % 32 = 0) ∧ (dscA.hdr = leNat (toBytes 32 dscA.hdr)) ∧ (dscA.entries = (List.range (dscA.nm + 1)).map (fun i => getFld (leNat (toBytes 32 (0x600000 * 2 ^ 64))) (256 * i) 256)) ∧ (v.descBad dscA = false) ∧ (dscA.entryOf 0 = some (0x600000 * 2 ^ 64)) ∧ ((v.core 0).broken = true) ∧ ((v.core 0).tvec ≠ 0) ∧ ((v.core 0).inh = false) ∧ ((v.core 0).settled = true)) :=
  ⟨runs_of (by decide +kernel), ⟨_, pair_of (by decide +kernel), _, pair_of (by decide +kernel), by decide +kernel⟩⟩

theorem witness_CompactWords_broken_sstep :
    (stXb).Runs (.sstep gt 5) ∧
    (∃ a, (stXb.ready (.sstep gt 5)).readMem 0 ((stXb.core 0).rx 5).toNat 32 = (a, .ok ((toBytes 32 dscA.hdr), false)) ∧ ∃ v, a.readMem 0 (((stXb.core 0).rx 5).toNat + 32) (32 * (dscA.nm + 1)) = (v, .ok ((toBytes 32 (0x600000 * 2 ^ 64)), false)) ∧ ((stXb.core 0).token = none) ∧ ((stXb.core 0).plan = []) ∧ (((stXb.core 0).rx 5).toNat % 32 = 0) ∧ (dscA.hdr = leNat (toBytes 32 dscA.hdr)) ∧ (dscA.entries = (List.range (dscA.nm + 1)).map (fun i => getFld (leNat (toBytes 32 (0x600000 * 2 ^ 64))) (256 * i) 256)) ∧ (v.descBad dscA = false) ∧ (dscA.entryOf 0 = some (0x600000 * 2 ^ 64)) ∧ ((v.core 0).broken = true) ∧ ((v.core 0).tvec ≠ 0) ∧ ((v.core 0).inh = false) ∧ ((v.core 0).settled = true)) :=
  ⟨runs_of (by decide +kernel), ⟨_, pair_of (by decide +kernel), _, pair_of (by decide +kernel), by decide +kernel⟩⟩

theorem witness_CompactWords_broken_dissolve :
    (stXb).Runs (.dissolve gt 5) ∧
    (∃ a, (stXb.ready (.dissolve gt 5)).readMem 0 ((stXb.core 0).rx 5).toNat 32 = (a, .ok ((toBytes 32 dscA.hdr), false)) ∧ ∃ v, a.readMem 0 (((stXb.core 0).rx 5).toNat + 32) (32 * (dscA.nm + 1)) = (v, .ok ((toBytes 32 (0x600000 * 2 ^ 64)), false)) ∧ ((stXb.core 0).token = none) ∧ ((stXb.core 0).plan = []) ∧ (((stXb.core 0).rx 5).toNat % 32 = 0) ∧ (dscA.hdr = leNat (toBytes 32 dscA.hdr)) ∧ (dscA.entries = (List.range (dscA.nm + 1)).map (fun i => getFld (leNat (toBytes 32 (0x600000 * 2 ^ 64))) (256 * i) 256)) ∧ (v.descBad dscA = false) ∧ (dscA.entryOf 0 = some (0x600000 * 2 ^ 64)) ∧ ((v.core 0).broken = true) ∧ ((v.core 0).tvec ≠ 0) ∧ ((v.core 0).inh = false) ∧ ((v.core 0).settled = true)) :=
  ⟨runs_of (by decide +kernel), ⟨_, pair_of (by decide +kernel), _, pair_of (by decide +kernel), by decide +kernel⟩⟩

theorem witness_CompactWords_bad_sign :
    ((withBad (stX x5d))).Runs (.sign gt 5) ∧
    (∃ a, ((withBad (stX x5d)).ready (.sign gt 5)).readMem 0 (((withBad (stX x5d)).core 0).rx 5).toNat 32 = (a, .ok ((toBytes 32 dscB.hdr), false)) ∧ ∃ v, a.readMem 0 ((((withBad (stX x5d)).core 0).rx 5).toNat + 32) (32 * (dscB.nm + 1)) = (v, .ok ((toBytes 32 (0x600000 * 2 ^ 64)), false)) ∧ (((withBad (stX x5d)).core 0).token = none) ∧ (((withBad (stX x5d)).core 0).plan = []) ∧ ((((withBad (stX x5d)).core 0).rx 5).toNat % 32 = 0) ∧ (dscB.hdr = leNat (toBytes 32 dscB.hdr)) ∧ (dscB.entries = (List.range (dscB.nm + 1)).map (fun i => getFld (leNat (toBytes 32 (0x600000 * 2 ^ 64))) (256 * i) 256)) ∧ (v.descBad dscB = true) ∧ (((withBad (stX x5d)).tile 0).signing = none)) :=
  ⟨runs_of (by decide +kernel), ⟨_, pair_of (by decide +kernel), _, pair_of (by decide +kernel), by decide +kernel⟩⟩

theorem witness_CompactWords_bad_xfer :
    ((withBad (stX x5d))).Runs (.xfer gt 5) ∧
    (∃ a, ((withBad (stX x5d)).ready (.xfer gt 5)).readMem 0 (((withBad (stX x5d)).core 0).rx 5).toNat 32 = (a, .ok ((toBytes 32 dscB.hdr), false)) ∧ ∃ v, a.readMem 0 ((((withBad (stX x5d)).core 0).rx 5).toNat + 32) (32 * (dscB.nm + 1)) = (v, .ok ((toBytes 32 (0x600000 * 2 ^ 64)), false)) ∧ (((withBad (stX x5d)).core 0).token = none) ∧ (((withBad (stX x5d)).core 0).plan = []) ∧ ((((withBad (stX x5d)).core 0).rx 5).toNat % 32 = 0) ∧ (dscB.hdr = leNat (toBytes 32 dscB.hdr)) ∧ (dscB.entries = (List.range (dscB.nm + 1)).map (fun i => getFld (leNat (toBytes 32 (0x600000 * 2 ^ 64))) (256 * i) 256)) ∧ (v.descBad dscB = true) ∧ (((withBad (stX x5d)).tile 0).signing = none)) :=
  ⟨runs_of (by decide +kernel), ⟨_, pair_of (by decide +kernel), _, pair_of (by decide +kernel), by decide +kernel⟩⟩

theorem witness_CompactWords_not_signed :
    ((withDsc (stX x5d))).Runs (.dissolve gt 5) ∧
    (∃ a, ((withDsc (stX x5d)).ready (.dissolve gt 5)).readMem 0 (((withDsc (stX x5d)).core 0).rx 5).toNat 32 = (a, .ok ((toBytes 32 dscA.hdr), false)) ∧ ∃ v, a.readMem 0 ((((withDsc (stX x5d)).core 0).rx 5).toNat + 32) (32 * (dscA.nm + 1)) = (v, .ok ((toBytes 32 (0x600000 * 2 ^ 64)), false)) ∧ (((withDsc (stX x5d)).core 0).token = none) ∧ (((withDsc (stX x5d)).core 0).plan = []) ∧ ((((withDsc (stX x5d)).core 0).rx 5).toNat % 32 = 0) ∧ (dscA.hdr = leNat (toBytes 32 dscA.hdr)) ∧ (dscA.entries = (List.range (dscA.nm + 1)).map (fun i => getFld (leNat (toBytes 32 (0x600000 * 2 ^ 64))) (256 * i) 256)) ∧ (v.descBad dscA = false) ∧ (dscA.entryOf 0 = some (0x600000 * 2 ^ 64)) ∧ ((v.core 0).broken = false) ∧ (v.signs 0 dscA = false)) :=
  ⟨runs_of (by decide +kernel), ⟨_, pair_of (by decide +kernel), _, pair_of (by decide +kernel), by decide +kernel⟩⟩

theorem witness_CompactWords_signed_twice :
    ((withDsc (stZ x5d))).Runs (.sign gt 5) ∧
    (∃ a, ((withDsc (stZ x5d)).ready (.sign gt 5)).readMem 0 (((withDsc (stZ x5d)).core 0).rx 5).toNat 32 = (a, .ok ((toBytes 32 dscA.hdr), false)) ∧ ∃ v, a.readMem 0 ((((withDsc (stZ x5d)).core 0).rx 5).toNat + 32) (32 * (dscA.nm + 1)) = (v, .ok ((toBytes 32 (0x600000 * 2 ^ 64)), false)) ∧ (((withDsc (stZ x5d)).core 0).token = none) ∧ (((withDsc (stZ x5d)).core 0).plan = []) ∧ ((((withDsc (stZ x5d)).core 0).rx 5).toNat % 32 = 0) ∧ (dscA.hdr = leNat (toBytes 32 dscA.hdr)) ∧ (dscA.entries = (List.range (dscA.nm + 1)).map (fun i => getFld (leNat (toBytes 32 (0x600000 * 2 ^ 64))) (256 * i) 256)) ∧ (v.descBad dscA = false) ∧ (dscA.entryOf 0 = some (0x600000 * 2 ^ 64)) ∧ (((withDsc (stZ x5d)).tile 0).signing = none) ∧ (¬ (v.tile 0).compact = none)) :=
  ⟨runs_of (by decide +kernel), ⟨_, pair_of (by decide +kernel), _, pair_of (by decide +kernel), by decide +kernel⟩⟩

theorem witness_CompactWords_unmapped :
    (stXc).Runs (.sign gt 5) ∧
    (∃ a, (stXc.ready (.sign gt 5)).readMem 0 ((stXc.core 0).rx 5).toNat 32 = (a, .ok ((toBytes 32 dscC.hdr), false)) ∧ ∃ v, a.readMem 0 (((stXc.core 0).rx 5).toNat + 32) (32 * (dscC.nm + 1)) = (v, .ok ((toBytes 32 (0x80000000 * 2 ^ 64)), false)) ∧ ∃ y, v.rangeCheck 0 (rangePages (getFld (0x80000000 * 2 ^ 64) 64 64) dscC.plen) = (y, some ⟨.fault causePage, 0x80000000⟩) ∧ ((stXc.core 0).token = none) ∧ ((stXc.core 0).plan = []) ∧ (((stXc.core 0).rx 5).toNat % 32 = 0) ∧ (dscC.hdr = leNat (toBytes 32 dscC.hdr)) ∧ (dscC.entries = (List.range (dscC.nm + 1)).map (fun i => getFld (leNat (toBytes 32 (0x80000000 * 2 ^ 64))) (256 * i) 256)) ∧ (v.descBad dscC = false) ∧ (dscC.entryOf 0 = some (0x80000000 * 2 ^ 64)) ∧ ((stXc.tile 0).signing = none) ∧ ((v.tile 0).signing = none) ∧ ((v.tile 0).compact = none) ∧ ((v.tile 0).scratchEnd ≤ dscC.poff) ∧ (dscC.poff + 1024 * dscC.plen ≤ 0x100000) ∧ (v.barTaken 0 dscC = false) ∧ (dscC.gridBad = false)) :=
  ⟨runs_of (by decide +kernel), ⟨_, pair_of (by decide +kernel), _, pair_of (by decide +kernel), _, pair_of (by decide +kernel), by decide +kernel⟩⟩

theorem witness_CompactWords_xfer :
    ((stZ fun c => { c with plan := [(1, 0), (2, 0)] })).Runs (.xfer gt 5) ∧
    ((((stZ fun c => { c with plan := [(1, 0), (2, 0)] }).core 0).plan = [(1, 0), (2, 0)]) ∧ (((stZ fun c => { c with plan := [(1, 0), (2, 0)] }).core 0).broken = false) ∧ (((stZ fun c => { c with plan := [(1, 0), (2, 0)] }).tile 0).compact = some cp0) ∧ (((stZ fun c => { c with plan := [(1, 0), (2, 0)] }).tile 0).req = none) ∧ (((stZ fun c => { c with plan := [(1, 0), (2, 0)] }).core 0).queued .cpq + [((2 : Word), 0)].length < 32) ∧ ((((stZ fun c => { c with plan := [(1, 0), (2, 0)] }).core 0).cmds.any fun d => d.q == .cpq && d.logWait) = false)) :=
  ⟨runs_of (by decide +kernel), by decide +kernel⟩

theorem witness_CompactWords_timeout :
    (((({ stZ id with time := 1024 }).bar (dieKey 0 0) 5).kind = .compact 3 job1) ∧ ((({ stZ id with time := 1024 }).bar (dieKey 0 0) 5).since = some 0) ∧ (({ stZ id with time := 1024 }).phaseReady (dieKey 0 0) 5 = false) ∧ ((({ stZ id with time := 1024 }).tiles.find? (fun y => tileDieKey y.1 == dieKey 0 0 && (match y.2.compact with | some c => c.id == 3 && c.job == job1 && decide (0 + c.timeout * 1024 ≤ ({ stZ id with time := 1024 }).time) | none => false))) = some (0, { tileA with compact := some cp0 }))) :=
  by decide +kernel

theorem find_holds {α : Type} (P : α → Prop) : ∀ (m : SMap α) (k : Nat) (v : α), (∀ e ∈ m, P e.2) → m.find k = some v → P v
  | [], _, _, _, h => nomatch h
  | (k', w) :: m, k, v, hp, h => by
    unfold SMap.find at h
    split at h
    · cases h; exact hp _ (List.mem_cons_self ..)
    · exact find_holds P m k v (fun e he => hp e (List.mem_cons_of_mem _ he)) h

theorem held_of {s : State} (h : ∀ e ∈ s.tiles, e.2.compact.elim [] Compact.held = []) :
    ∀ u f, (s.tile u).compact = some f → f.held = [] := by
  intro u f
  unfold State.tile SMap.get
  cases hm : s.tiles.find u with
  | none => intro hf; cases hf
  | some v =>
    have hv := find_holds (fun w : Tile => w.compact.elim [] Compact.held = []) s.tiles u v h hm
    intro hf
    simp only [Option.getD_some] at hf
    simpa [hf] using hv

theorem witness_CompactWords_held_nowhere :
    ∀ u f, ((stZ fun c => { c with token := some 7 }).tile u).compact = some f → f.held = [] :=
  held_of (by decide +kernel)

theorem witness_FaultEvents_refusal :
    ((((stC fun c => { c with refusal := some (0x500000, 0x100000) }).core 0).refusal = some (0x500000, 0x100000)) ∧ (((stC fun c => { c with refusal := some (0x500000, 0x100000) }).core 0).st = .running)) :=
  by decide +kernel

theorem witness_FaultEvents_report :
    ((((stMiss 2).core 0).report = true) ∧ (((stMiss 2).core 0).st = .killed) ∧ (((stMiss 2).core 0).dead = false)) :=
  by decide +kernel

theorem witness_FaultEvents_beat :
    ((stM.beats phA = true)) :=
  by decide +kernel

theorem witness_FaultEvents_miss :
    (((stMiss 1).beats phA = false) ∧ (phA.ptile.toNat < 66) ∧ (((stMiss 1).die phA.dieNum).counted.get 0 phA.index < (stMiss 1).beatNow) ∧ (((stMiss 1).die phA.dieNum).missed.get 0 phA.index + (if (stMiss 1).beatNow ≤ ((stMiss 1).die phA.dieNum).beat.get 0 phA.index then 0 else 1) < 3)) :=
  by decide +kernel

theorem witness_FaultEvents_third_miss :
    (((stMiss 2).beats phA = false) ∧ (phA.ptile.toNat < 66) ∧ (((stMiss 2).die phA.dieNum).counted.get 0 phA.index < (stMiss 2).beatNow) ∧ (3 ≤ ((stMiss 2).die phA.dieNum).missed.get 0 phA.index + (if (stMiss 2).beatNow ≤ ((stMiss 2).die phA.dieNum).beat.get 0 phA.index then 0 else 1)) ∧ (((stMiss 2).die phA.dieNum).declared.get false phA.index = false) ∧ ((stMiss 2).servedCore phA = some 0)) :=
  by decide +kernel

theorem witness_FaultEvents_declared :
    ((stDcl.beats phA = false) ∧ (phA.ptile.toNat < 66) ∧ ((stDcl.die phA.dieNum).counted.get 0 phA.index < stDcl.beatNow) ∧ (3 ≤ (stDcl.die phA.dieNum).missed.get 0 phA.index + (if stDcl.beatNow ≤ (stDcl.die phA.dieNum).beat.get 0 phA.index then 0 else 1)) ∧ ((stDcl.die phA.dieNum).declared.get false phA.index = true)) :=
  by decide +kernel

theorem witness_FaultEvents_packages :
    (((stM.pkg 0).off = false) ∧ ((stM.pkg 0).dead = false) ∧ ((stM.pkg 1).dead = false)) :=
  by decide +kernel

theorem witness_FaultEvents_resolve :
    (∃ u, stM.resolve 0 0x500000 .rd = (u, some 0x900000) ∧ ((isTileCore 0 && isDram 0x900000 && (u.pinnedAt 0x900000).isNone && (u.tile 0).blocks.any fun b => b.pa == 0x900000 / 64 * 64 && u.valid 0 b) = false)) :=
  ⟨_, pair_of (by decide +kernel), by decide +kernel⟩

theorem witness_FaultEvents_block :
    (∃ u, stB.resolve 0 0x500000 .rd = (u, some 0x900000) ∧ ((isTileCore 0 && isDram 0x900000 && (u.pinnedAt 0x900000).isNone && (u.tile 0).blocks.any fun b => b.pa == 0x900000 / 64 * 64 && u.valid 0 b) = true)) :=
  ⟨_, pair_of (by decide +kernel), by decide +kernel⟩

theorem witness_FaultEvents_turn_spare :
    ((((stTurn 64).quad 0).testing = none) ∧ (((stTurn 64).quad 0).drain = none) ∧ (((stTurn 64).skimctl 0).testBit 0 = true) ∧ (((stTurn 64).quad 0).lastTurn + getFld ((stTurn 64).skimctl 0) 16 32 * 2 ^ 16 ≤ (stTurn 64).time) ∧ (((stTurn 64).quad 0).nextTile = some 64) ∧ ((stTurn 64).onPtile 0 64 = none)) :=
  by decide +kernel

theorem witness_FaultEvents_turn_mapped :
    ((((stTurn 0).quad 0).testing = none) ∧ (((stTurn 0).quad 0).drain = none) ∧ (((stTurn 0).skimctl 0).testBit 0 = true) ∧ (((stTurn 0).quad 0).lastTurn + getFld ((stTurn 0).skimctl 0) 16 32 * 2 ^ 16 ≤ (stTurn 0).time) ∧ (((stTurn 0).quad 0).nextTile = some 0) ∧ ((stTurn 0).onPtile 0 0 = some 0)) :=
  by decide +kernel

theorem witness_FaultEvents_drain :
    ((((stQd fun q => { q with drain := some (0, 0) }).quad 0).testing = none) ∧ (((stQd fun q => { q with drain := some (0, 0) }).quad 0).drain = some (0, 0)) ∧ ((stQd fun q => { q with drain := some (0, 0) }).onPtile 0 0 = some 0) ∧ ((List.range 66).find? (fun i => i != 0 && (stQd fun q => { q with drain := some (0, 0) }).idleSpare 0 i) = some 64) ∧ ((stQd fun q => { q with drain := some (0, 0) }).quiesced 0 = true) ∧ (0 + 2 ^ 26 ≤ (stQd fun q => { q with drain := some (0, 0) }).time)) :=
  by decide +kernel

theorem witness_FaultEvents_testing :
    ((((stQd fun q => { q with testing := some 3 }).quad 0).testing = some 3)) :=
  by decide +kernel

theorem witness_CachesAndHost_fill :
    ((stM.cacheable 0 0x900000 = true) ∧ ((stM.tile 0).blocks.any (fun b => b.pa == 0x900000 / 64 * 64 && b.owned) = false) ∧ ((stM.sector (0x900000 / 1024)).owner ≠ some 0)) :=
  by decide +kernel

theorem witness_CachesAndHost_walk :
    (((stX0.pageWalk (corePkg 0) (stX0.core 0).job 0x500000).isSome = true)) :=
  by decide +kernel

theorem witness_CachesAndHost_host :
    ((stM.posted = []) ∧ (stM.hostRoute 0 0 0x900000 3 false = .ok) ∧ (stM.hostRoute 0 0 0x900000 [(1 : Byte), 2, 3].length true = .ok) ∧ ((0 * 2 ^ 47 + 0x900000) % 64 + 3 ≤ 64)) :=
  by decide +kernel

theorem witness_CachesAndHost_unbacked :
    ((stM.hostRoute 0 0 0x8000000000 3 false ≠ .ok ∧ stM.hostRoute 0 0 0x8000000000 3 false ≠ .held) ∧ (stM.hostRoute 0 0 0x8000000000 3 true ≠ .ok ∧ stM.hostRoute 0 0 0x8000000000 3 true ≠ .held)) :=
  by decide +kernel

theorem witness_CachesAndHost_control :
    ((stM.present 0 0 = true) ∧ ((0x1000 : BitVec 42).toNat + 3 ≤ 2 ^ 16)) :=
  by decide +kernel

theorem witness_CachesAndHost_control_block :
    ((stM.present 0 0 = true) ∧ ((8 : Nat) + 8 ≤ 2 ^ 16)) :=
  by decide +kernel

theorem witness_CachesAndHost_nonce :
    ((stM.present 0 0 = true) ∧ ((toBytes 8 0x1122334455667788).length = 8)) :=
  by decide +kernel

theorem witness_CachesAndHost_absent :
    ((stM.present 0 3 = false)) :=
  by decide +kernel

theorem memRead_below (a n : Nat) (h : a + n ≤ tileBase) : leNat (memRead [] a n) = 0 := by
  induction n generalizing a with
  | zero => rfl
  | succ n ih =>
    have ha : a < tileBase := by omega
    simp [memRead, leNat, ih (a + 1) (by omega), memGet, SMap.get, SMap.find, memDefault, homeP0, ha]

theorem getFld_zero (lo n : Nat) : getFld 0 lo n = 0 := by simp [getFld]

/-- Where no memory is listed and the context table stands low in DRAM no context is live. -/
theorem anyLive_of_unwritten {s : State} (hm : s.mem = []) (hp : s.partials = []) (hs : s.sectors = []) (pkg part : Nat)
    (ht : (s.sup (s.partDie pkg (BitVec.ofNat 2 part).toNat) 0x800).toNat = 0) : s.anyLive pkg part = false := by
  have read (n : Nat) (hn : n < 4096) : (s.settle (64 * n) 64).readNat (64 * n) 64 = 0 := by
    have : (s.settle (64 * n) 64).mem = [] := by
      unfold State.settle
      split
      · simp [State.gather, State.recall, State.sector, hp, hs, SMap.get, SMap.find, Sector.idle, hm]
      · exact hm
    rw [State.readNat, this, memRead_below]
    unfold tileBase; omega
  simp only [State.anyLive, List.any_eq_false, List.mem_range, State.ctxField, ht, Nat.zero_add]
  intro n hn
  have e : (BitVec.ofNat 12 n).toNat = n := by rw [BitVec.toNat_ofNat]; omega
  simp [e, read n hn, getFld_zero]

theorem witness_CachesAndHost_merge :
    ((stMg [] 0).present 0 0 = true ∧ ((stMg [] 0).pkg 0).merges.find? (fun m => m.p == 0) = none ∧ (2 : BitVec 4) ≠ 0 ∧
      ((stMg [] 0).pkg 0).byMask 2 = some 1 ∧ (1 : Nat) ≠ 0) ∧ (stMg [] 0).anyLive 0 (max 0 1) = false ∧
      ((stMg [] 0).merging 0 0 = false ∧ (stMg [] 0).merging 0 1 = false) :=
  ⟨by decide +kernel, anyLive_of_unwritten rfl rfl rfl 0 (max 0 1) (by decide +kernel), by decide +kernel⟩

theorem witness_CachesAndHost_merge_ends :
    (((stMg [mgA] 5).present 0 0 = true) ∧ (((stMg [mgA] 5).pkg 0).merges.find? (fun m => m.p == 0) = some mgA) ∧ ((stMg [mgA] 5).time < 0 + 2 ^ 24) ∧ ((stMg [mgA] 5).time < mgA.seenAt + 4096) ∧ ((stMg [mgA] 5).drained 0 0 mgA = true) ∧ ((stMg [mgA] 5).drained 0 1 mgA = true)) :=
  by decide +kernel

theorem witness_CachesAndHost_merge_looks :
    (((stMg [mgA] 5000).present 0 0 = true) ∧ (((stMg [mgA] 5000).pkg 0).merges.find? (fun m => m.p == 0) = some mgA) ∧ (mgA.seenAt + 4096 ≤ (stMg [mgA] 5000).time) ∧ ((stMg [mgA] 5000).time < 0 + 2 ^ 24) ∧ ((stMg [mgA] 5000).drained 0 0 ({ mgA with seen := ((stMg [mgA] 5000).tailsOf 0 mgA.q).foldl (fun r e => r.put e.1 e.2) ((stMg [mgA] 5000).tailsOf 0 mgA.p), seenAt := (stMg [mgA] 5000).time } : Merge) = true) ∧ ((stMg [mgA] 5000).drained 0 1 ({ mgA with seen := ((stMg [mgA] 5000).tailsOf 0 mgA.q).foldl (fun r e => r.put e.1 e.2) ((stMg [mgA] 5000).tailsOf 0 mgA.p), seenAt := (stMg [mgA] 5000).time } : Merge) = true)) :=
  by decide +kernel

theorem witness_CachesAndHost_merge_waits :
    ((((stMg [mgA] 5000).writeNat 0x18 4 1).present 0 0 = true) ∧ ((((stMg [mgA] 5000).writeNat 0x18 4 1).pkg 0).merges.find? (fun m => m.p == 0) = some mgA) ∧ (mgA.seenAt + 4096 ≤ ((stMg [mgA] 5000).writeNat 0x18 4 1).time) ∧ (((stMg [mgA] 5000).writeNat 0x18 4 1).drained 0 0 ({ mgA with seen := (((stMg [mgA] 5000).writeNat 0x18 4 1).tailsOf 0 mgA.q).foldl (fun r e => r.put e.1 e.2) (((stMg [mgA] 5000).writeNat 0x18 4 1).tailsOf 0 mgA.p), seenAt := ((stMg [mgA] 5000).writeNat 0x18 4 1).time } : Merge) = false)) :=
  by decide +kernel

theorem witness_CachesAndHost_merge_timeout :
    ((((stMg [mgA] (2 ^ 24)).pkg 0).merges.find? (fun m => decide (m.since + 2 ^ 24 ≤ (stMg [mgA] (2 ^ 24)).time)) = some mgA)) :=
  by decide +kernel

theorem witness_CachesAndHost_attest :
    ((stM.present 0 0 = true) ∧ ((stM.control 0 0).areq = false) ∧ ((stM.pkg 0).reporting = none)) :=
  by decide +kernel

theorem witness_CachesAndHost_boot :
    (((State.reset.pkg 0).booted = false) ∧ ((State.reset.pkg 0).bootFailed = false)) :=
  by decide +kernel

theorem witness_CachesAndHost_power :
    (((stM.pkg 0).dead = false) ∧ ((1151 : Nat) < 1152) ∧ ((1151 : Nat) < 1056 → 1200 ≤ (4400 : Nat) ∧ (4400 : Nat) ≤ 4400)) :=
  by decide +kernel

theorem witness_CachesAndHost_tile_island :
    (((1055 : Nat) < 1152) ∧ ((1055 : Nat) < 1056 → 1200 ≤ (1200 : Nat) ∧ (1200 : Nat) ≤ 4400)) :=
  by decide +kernel

theorem witness_CachesAndHost_other_island :
    (((1056 : Nat) < 1152) ∧ ((1056 : Nat) < 1056 → 1200 ≤ (100 : Nat) ∧ (100 : Nat) ≤ 4400)) :=
  by decide +kernel

theorem witness_CachesAndHost_label :
    ((knA ∈ (stKn.pkg 0).kernels) ∧ (knA.part = 0 ∧ knA.ctx = (1 : BitVec 12).toNat ∧ knA.entry = 0x400000 ∧ knA.label = none ∧ knA.since + 2 ^ 20 ≤ stKn.time)) :=
  by decide +kernel

end Sys2Proof.Tests
end

/-! SUPPORT. Integer operands and results at a type (R101 to R104), window addresses (R109), scalar words that write one register,
and the proofs of O10 and O13. -/

namespace Sys2Proof
open Machine

/-! ## Values, patterns and extensions at a type -/

theorem ITy.width_bounds (ty : ITy) : 6 ≤ ty.width ∧ ty.width ≤ 64 := by cases ty <;> decide

theorem ITy.pattern_cast (ty : ITy) (a : Int) : (ty.pattern a : Int) = a % 2 ^ ty.width := by
  have hd : (2 ^ ty.width : Int) ∣ 2 ^ 64 := pow_dvd_pow 2 ty.width_bounds.2
  rw [ITy.pattern, BitVec.toNat_ofInt]
  push_cast
  rw [Int.toNat_of_nonneg (Int.emod_nonneg a (by norm_num))]
  exact Int.emod_emod_of_dvd a hd

/-- The value at a type is the unsigned one, but for a multiple of 2^w. -/
theorem ITy.value_emod (ty : ITy) (v : Word) : ty.value v % 2 ^ ty.width = ((v.toNat % 2 ^ ty.width : Nat) : Int) := by
  have hn : ((v.toNat % 2 ^ ty.width : Nat) : Int) % 2 ^ ty.width = ((v.toNat % 2 ^ ty.width : Nat) : Int) := by
    push_cast; exact Int.emod_emod _ _
  unfold ITy.value
  dsimp only
  split
  · rw [Int.sub_emod_right, hn]
  · exact hn

theorem ITy.pattern_value (ty : ITy) (v : Word) : ty.pattern (ty.value v) = v.toNat % 2 ^ ty.width := by
  have h := (ty.pattern_cast (ty.value v)).trans (ty.value_emod v)
  exact_mod_cast h

theorem ITy.value_nonneg {ty : ITy} (h : ty.signed = false) (v : Word) : 0 ≤ ty.value v := by
  unfold ITy.value
  simp only [h, Bool.false_and, Bool.false_eq_true, if_false]
  exact Int.natCast_nonneg _

/-- An extension depends on the low w bits alone: narrowing comes first (R101). -/
theorem ITy.extend_congr (ty : ITy) {a b : Int} (h : ty.pattern a = ty.pattern b) : ty.extend a = ty.extend b := by
  have hv : ty.value (BitVec.ofInt 64 a) = ty.value (BitVec.ofInt 64 b) := by
    unfold ITy.pattern at h
    unfold ITy.value
    rw [h]
  exact congrArg (BitVec.ofInt 64) hv

/-! ## Operations on values (R102 to R104) -/

theorem getLsbD_ofInt_value (ty : ITy) (v : Word) {i : Nat} (hi : i < ty.width) :
    (BitVec.ofInt 64 (ty.value v)).getLsbD i = v.getLsbD i := by
  have h := congrArg (Nat.testBit · i) (ty.pattern_value v)
  simpa only [ITy.pattern, Nat.testBit_mod_two_pow, hi, decide_true, Bool.true_and, BitVec.testBit_toNat] using h

/-- A bitwise operation on two values gives the low w bits that it gives on the registers. -/
theorem extend_bitInt (ty : ITy) (f : Word → Word → Word) (op : Bool → Bool → Bool) (x y : Word)
    (hf : ∀ (a b : Word) i, i < 64 → (f a b).getLsbD i = op (a.getLsbD i) (b.getLsbD i)) :
    ty.extend (bitInt f (ty.value x) (ty.value y)) = ty.extend ((f x y).toNat : Int) := by
  refine ty.extend_congr (Nat.eq_of_testBit_eq fun i => ?_)
  unfold ITy.pattern bitInt
  simp only [Nat.testBit_mod_two_pow]
  by_cases hi : i < ty.width
  · have h64 : i < 64 := hi.trans_le ty.width_bounds.2
    simp [hi, BitVec.testBit_toNat, hf _ _ i h64, getLsbD_ofInt_value ty _ hi]
  · simp [hi]

/-- R103: at an unsigned type both values are at least 0, where the two divisions agree. -/
theorem divInt_value (ty : ITy) (x y : Word) :
    divInt ty (ty.value x) (ty.value y) = if ty.value y = 0 then -1 else Int.tdiv (ty.value x) (ty.value y) := by
  unfold divInt
  cases hs : ty.signed with
  | true => rfl
  | false => rw [Int.tdiv_eq_ediv_of_nonneg (ITy.value_nonneg hs x)]; rfl

theorem remInt_value (ty : ITy) (x y : Word) :
    remInt ty (ty.value x) (ty.value y) =
      if ty.value y = 0 then ty.value x else ty.value x - ty.value y * Int.tdiv (ty.value x) (ty.value y) := by
  unfold remInt
  rw [← Int.tmod_def]
  cases hs : ty.signed with
  | true => rfl
  | false => rw [Int.tmod_eq_emod_of_nonneg (ITy.value_nonneg hs x)]; rfl

/-- R104: 2^w is a multiple of 64, so the amount is read from the register as it stands. -/
theorem shiftAmount_value (ty : ITy) (v : Word) : shiftAmount (ty.value v) = v.toNat % 64 := by
  have hd : (64 : Nat) ∣ 2 ^ ty.width := pow_dvd_pow 2 ty.width_bounds.1
  have hi : (64 : Int) ∣ 2 ^ ty.width := by exact_mod_cast hd
  rw [shiftAmount, ← Int.emod_emod_of_dvd _ hi, ty.value_emod]
  have h := Nat.mod_mod_of_dvd v.toNat hd
  omega

theorem sllInt_value (ty : ITy) (v : Word) (n : Nat) :
    sllInt ty (ty.value v) n = if n < ty.width then ((v.toNat % 2 ^ ty.width : Nat) : Int) * 2 ^ n else 0 := by
  rw [sllInt, ITy.pattern_value]; push_cast; rfl

/-- A shift by w or more leaves nothing of w bits. -/
theorem srlInt_value (ty : ITy) (v : Word) (n : Nat) :
    srlInt ty (ty.value v) n = if n < ty.width then ((v.toNat % 2 ^ ty.width : Nat) : Int) / 2 ^ n else 0 := by
  rw [srlInt, ITy.pattern_value]
  split
  · push_cast; rfl
  · next hn =>
    have hlt : v.toNat % 2 ^ ty.width < 2 ^ n :=
      (Nat.mod_lt _ (by positivity)).trans_le (Nat.pow_le_pow_right (by norm_num) (not_lt.1 hn))
    rw [Nat.div_eq_of_lt hlt]; rfl

theorem sraInt_value (ty : ITy) (v : Word) (n : Nat) :
    sraInt ty (ty.value v) n =
      (if v.toNat % 2 ^ ty.width < 2 ^ (ty.width - 1) then ((v.toNat % 2 ^ ty.width : Nat) : Int)
        else ((v.toNat % 2 ^ ty.width : Nat) : Int) - 2 ^ ty.width) / 2 ^ n := by
  rw [sraInt, ITy.pattern_value]
  simp only [← Nat.not_lt, ite_not]

theorem rotInt_value (ty : ITy) (v : Word) (n : Nat) :
    rotInt ty (ty.value v) n =
      ((v.toNat % 2 ^ ty.width : Nat) : Int) / 2 ^ (n % ty.width) +
        ((v.toNat % 2 ^ ty.width : Nat) : Int) % 2 ^ (n % ty.width) * 2 ^ (ty.width - n % ty.width) := by
  rw [rotInt, ITy.pattern_value]; push_cast; rfl

/-- The low ten bits of a word, moved up by at most 54. -/
theorem toNat_field_shiftLeft (v : Word) {n : Nat} (hn : n ≤ 54) :
    ((fld v 0 10).zeroExtend 64 <<< n).toNat = v.toNat % 1024 * 2 ^ n := by
  have hp : (2 : Nat) ^ n ≤ 2 ^ 54 := Nat.pow_le_pow_right (by norm_num) hn
  have hlt : v.toNat % 1024 * 2 ^ n < 2 ^ 64 :=
    (Nat.mul_lt_mul_of_lt_of_le (Nat.mod_lt _ (by norm_num : 0 < 1024)) hp (by norm_num)).trans_eq (by norm_num)
  have hv : ((fld v 0 10).zeroExtend 64).toNat = v.toNat % 1024 := by simp; omega
  rw [BitVec.toNat_shiftLeft, hv, Nat.shiftLeft_eq, Nat.mod_eq_of_lt hlt]

/-- The fields of a window address stand in bits of their own, so that joining them adds them. -/
theorem window_or_eq_add {p t : Nat} (hp : p < 1024) (ht : t < 1024) :
    2 ^ 56 ||| p * 2 ^ 30 ||| t * 2 ^ 20 = 2 ^ 56 + p * 2 ^ 30 + t * 2 ^ 20 := by
  have pkg := Nat.two_pow_add_eq_or_of_lt (i := 56) (b := p * 2 ^ 30) (by omega) 1
  have tile := Nat.two_pow_add_eq_or_of_lt (i := 30) (b := t * 2 ^ 20) (by omega) (2 ^ 26 + p)
  calc 2 ^ 56 ||| p * 2 ^ 30 ||| t * 2 ^ 20
      = 2 ^ 30 * (2 ^ 26 + p) ||| t * 2 ^ 20 := by rw [mul_one] at pkg; rw [← pkg]; congr 1; ring
    _ = 2 ^ 56 + p * 2 ^ 30 + t * 2 ^ 20 := by rw [← tile]; ring

/-- R109: the address that the fields of `padr` make. -/
theorem windowAddr_eq (a b : Word) :
    (0x0100000000000000 ||| (fld a 0 10).zeroExtend 64 <<< 30 ||| (fld b 0 10).zeroExtend 64 <<< 20 : Word) =
      BitVec.ofNat 64 (0x0100000000000000 + a.toNat % 1024 * 2 ^ 30 + b.toNat % 1024 * 2 ^ 20) := by
  have ha : a.toNat % 1024 < 1024 := Nat.mod_lt _ (by norm_num)
  have hb : b.toNat % 1024 < 1024 := Nat.mod_lt _ (by norm_num)
  have hlt : 0x0100000000000000 + a.toNat % 1024 * 2 ^ 30 + b.toNat % 1024 * 2 ^ 20 < 2 ^ 64 := by omega
  refine BitVec.eq_of_toNat_eq ?_
  rw [BitVec.toNat_or, BitVec.toNat_or, toNat_field_shiftLeft a (by norm_num), toNat_field_shiftLeft b (by norm_num),
    BitVec.toNat_ofNat, Nat.mod_eq_of_lt hlt]
  exact window_or_eq_add ha hb

/-! ## A scalar word that writes one register -/

namespace Machine

/-- A scalar word that runs changes its core as its meaning says, and completes. -/
theorem completes_of_scalarWord {s : State} {i : Instr} {f : Core → Core} (he : exec i s = scalarWord i s f)
    (hf : ∀ (c : Core) r, f { c with rc := r } = { f c with rc := r }) : Completes s i f := by
  intro h
  refine ⟨_, he.trans (congrArg Host.Outcome.next (State.issue_runs h _)), (State.ready_named h).did _ fun c r => ?_⟩
  rw [hf]; rfl

theorem Core.wx_withRc (c : Core) (r : List (Nat × Bool)) (rd : XReg) (v : Word) :
    ({ c with rc := r } : Core).wx rd v = { c.wx rd v with rc := r } := by
  unfold Core.wx
  split <;> rfl

/-- The word writes `v` to `rd`, where `v` does not depend on the register cache. -/
theorem completes_wx {s : State} {i : Instr} {rd : XReg} {v : Core → Word}
    (hv : ∀ (c : Core) r, v { c with rc := r } = v c) (he : exec i s = scalarWord i s fun c => c.wx rd (v c)) :
    Completes s i fun c => c.wx rd (v c) :=
  completes_of_scalarWord he fun c r => by rw [hv, Core.wx_withRc]

/-- What the register form does, by the result that its operation gives. -/
theorem intR_eq_wx {o : IntR} {f : ITy → Int → Int → Int} {c : Core} {v : Word}
    (h : o.ty.extend (f o.ty (o.ty.value (c.rx o.ra)) (o.ty.value (c.rx o.rb))) = v) : intR o f c = c.wx o.rd v :=
  congrArg (c.wx o.rd) h

/-- A word of the register form completes with the change that its operation makes, however that change is written. -/
theorem completes_intR {s : State} {i : Instr} {o : IntR} {f : ITy → Int → Int → Int} {f' : Core → Core}
    (he : exec i s = scalarWord i s (intR o f)) (h : ∀ c, intR o f c = f' c) : Completes s i f' := by
  obtain rfl : intR o f = f' := funext h
  exact completes_wx (fun _ _ => rfl) he

end Machine

/-! ## The statements -/

/-- Settles O10: the narrowing forgets how an operand was extended, so each operation on the values gives the bits that the
statement names. -/
theorem integerRegisterResults : Obligations.IntegerRegisterResults := by
  intro s g o
  refine ⟨?add, ?sub, ?mul, ?mulh, ?div, ?rem, ?and, ?or, ?xor, ?andn, ?sll, ?srl, ?sra, ?rot, ?min, ?max⟩
  case add => exact completes_intR rfl fun _ => rfl
  case sub => exact completes_intR rfl fun _ => rfl
  case mul => exact completes_intR rfl fun _ => rfl
  case mulh =>
    exact completes_intR rfl fun _ => intR_eq_wx <|
      congrArg o.ty.extend (Int.fdiv_eq_ediv_of_nonneg _ (by positivity)).symm
  case div => exact completes_intR rfl fun _ => intR_eq_wx (congrArg o.ty.extend (divInt_value o.ty _ _))
  case rem => exact completes_intR rfl fun _ => intR_eq_wx (congrArg o.ty.extend (remInt_value o.ty _ _))
  case and =>
    exact completes_intR rfl fun _ => intR_eq_wx <|
      extend_bitInt o.ty _ (· && ·) _ _ fun _ _ _ _ => BitVec.getLsbD_and
  case or =>
    exact completes_intR rfl fun _ => intR_eq_wx <|
      extend_bitInt o.ty _ (· || ·) _ _ fun _ _ _ _ => BitVec.getLsbD_or
  case xor =>
    exact completes_intR rfl fun _ => intR_eq_wx <|
      extend_bitInt o.ty _ (· ^^ ·) _ _ fun _ _ _ _ => BitVec.getLsbD_xor
  case andn =>
    exact completes_intR rfl fun _ => intR_eq_wx <|
      extend_bitInt o.ty _ (fun p q => p && !q) _ _ fun _ _ _ hi => by simp [hi]
  case sll => exact completes_intR rfl fun _ => intR_eq_wx (by rw [shiftAmount_value, sllInt_value])
  case srl => exact completes_intR rfl fun _ => intR_eq_wx (by rw [shiftAmount_value, srlInt_value])
  case sra => exact completes_intR rfl fun _ => intR_eq_wx (by rw [shiftAmount_value, sraInt_value])
  case rot => exact completes_intR rfl fun _ => intR_eq_wx (by rw [shiftAmount_value, rotInt_value])
  case min => exact completes_intR rfl fun _ => intR_eq_wx (congrArg o.ty.extend (min_def _ _))
  case max => exact completes_intR rfl fun _ => intR_eq_wx (congrArg o.ty.extend (max_def _ _))

/-- Settles O13: each of the five words writes one register, with a value of its operands and of the pc alone. -/
theorem constantsAndAddresses : Obligations.ConstantsAndAddresses := by
  intro s g rd ra rb imm up o
  refine ⟨?li, ?lih, ?lea, ?adr, ?padr⟩
  case li => exact completes_wx (fun _ _ => rfl) rfl
  case lih =>
    have low (w : Word) : w.truncate 32 = fld w 0 32 := BitVec.setWidth_eq_extractLsb' (by norm_num)
    simp only [low]
    exact completes_wx (fun _ _ => rfl) rfl
  case lea => exact completes_wx (fun _ _ => rfl) rfl
  case adr => exact completes_wx (fun _ _ => rfl) rfl
  case padr =>
    simp only [← windowAddr_eq]
    exact completes_wx (fun _ _ => rfl) rfl

end Sys2Proof

/-! SUPPORT. A gradient record to a churn of another partition, and the refutation of O38. -/

namespace Sys2Proof
open Machine

/-! ## A record that a partition boundary refuses (R347, R386) -/

namespace Machine

/-- Package 0 in two partitions, die 0 in the first and die 1 in the second. The thread of core 0 belongs to the first; its block x4
to x7 holds a gradient record of type 0 with 64 bytes at 0x500000, for churn 8, which stands on die 1. -/
def gradAcross : State :=
  { State.reset with
    cores := [(0, { Core.idle with
      st := .running, pc := 0x100000, job := { part := 0, ctx := 1 }
      x := ((Core.idle.x.set 4 0x80040).set 5 0x500000).set 6 64 })]
    pkgs := [(0, { Pkg.idle with parts := [(0, 1), (1, 2)], booted := true })] }

/-- The push of that record. -/
def pushAcross : Instr := .push ⟨0xFF, 0, 0, 0⟩ (.gq 0) 1

theorem gradAcross_canon : gradAcross.Canon :=
  ⟨rfl, rfl, rfl, rfl, rfl, rfl, rfl, rfl, rfl, rfl, rfl, rfl, rfl, rfl, rfl⟩

theorem gradAcross_sound (w : Nat) : gradAcross.Sound 0 w := ⟨rfl, fun _ _ => rfl, rfl⟩

theorem gradAcross_runs : gradAcross.Runs pushAcross where
  canon := gradAcross_canon
  running := by decide
  role := by decide
  csr := by decide
  guard := by decide
  ready _ _ := List.not_mem_nil
  passes := .inl rfl
  clean w _ := gradAcross_sound w

theorem gradAcross_names : namedWords ((gradAcross.core 0).block 1) = [] := by decide +kernel

/-- The push completes with no command in the queue and a refusal of the record's address on its way to the core. -/
theorem exec_pushAcross : ∃ t, exec pushAcross gradAcross = .next t ∧ (t.core 0).cmds = [] ∧
    (t.core 0).refusal = some (0x500000, 0x100000) :=
  ⟨_, rfl, by decide +kernel, by decide +kernel⟩

end Machine

/-- Refutes O38 at a gradient push: a record for a churn on a die of another partition passes every check of R89, and the boundary
refuses it (Assumption 104), so that no command of it stands in the queue. -/
theorem not_pushAndQstat : ¬ Obligations.PushAndQstat := by
  unfold Obligations.PushAndQstat
  intro h
  have hnames : ∀ n ∈ namedWords ((gradAcross.core 0).block 1), n ∉ (gradAcross.core 0).pendingWords ∧ gradAcross.Sound 0 n := by
    rw [gradAcross_names]
    exact fun _ hn => absurd hn List.not_mem_nil
  obtain ⟨hpush, -⟩ := h gradAcross ⟨0xFF, 0, 0, 0⟩ (.gq 0) 1 0 0 0
  obtain ⟨t, ht, ⟨d, hd, -⟩, -⟩ := hpush
    ⟨gradAcross_runs, by decide +kernel, by decide +kernel, hnames, by decide +kernel, by decide +kernel⟩
    (by decide +kernel) (by decide +kernel)
  obtain ⟨u, hu, hnone, -⟩ := exec_pushAcross
  obtain rfl : t = u := Host.Outcome.next.inj (ht.symm.trans hu)
  exact List.cons_ne_nil d [] (hd.symm.trans hnone)

end Sys2Proof

/-! SUPPORT. What a trap leaves of its thread (R337), and the proof of O20. -/

namespace Sys2Proof
open Machine

namespace Machine

/-! ## A core without what others share of it -/

/-- A core without what its register cache, its barriers and its gang keep of it. The operations around a trap change nothing else:
the cache is written back (R94), floors and memberships go with the barriers (R19, R271), the gang is left (R41). -/
def Core.bare (c : Core) : Core :=
  { c with rc := [], floors := [], left := [], gang := false, gangPos := 0, gangPath := [] }

theorem Core.Same.bare {c d : Core} (h : c.Same d) : c.bare = d.bare := h.field Core.bare fun _ _ => rfl

/-- What does not speak of the shared fields reads alike. -/
theorem Core.field_of_bare {c d : Core} (h : c.bare = d.bare) {α : Type} (f : Core → α)
    (hf : ∀ x : Core, f x.bare = f x := by exact fun _ => rfl) : f c = f d :=
  (hf c).symm.trans ((congrArg f h).trans (hf d))

/-- A change of a core's shared fields alone, on whichever core. -/
theorem State.bare_onCore (s : State) (k j : Nat) {f : Core → Core} (hf : ∀ c, (f c).bare = c.bare) :
    ((s.onCore k f).core j).bare = (s.core j).bare := by
  rcases eq_or_ne j k with rfl | h
  · rw [State.core_onCore_same, hf]
  · rw [State.core_onCore_other s f h]

theorem foldl_bare {α : Type} (l : List α) (f : State → α → State) (j : Nat)
    (hf : ∀ (t : State) x, ((f t x).core j).bare = (t.core j).bare) (s : State) :
    ((l.foldl f s).core j).bare = (s.core j).bare :=
  foldl_keeps (fun t => (t.core j).bare = (s.core j).bare) l f (fun t x h => (hf t x).trans h) s rfl

theorem State.bare_keepFloors (s : State) (k j : Nat) : ((s.keepFloors k).core j).bare = (s.core j).bare := by
  unfold State.keepFloors
  split
  · rfl
  · refine foldl_bare _ _ j (fun t d => ?_) s
    refine foldl_bare _ _ j (fun u m => ?_) t
    exact u.bare_onCore m j fun _ => rfl

theorem State.bare_leaveGang (s : State) (k j : Nat) : ((s.leaveGang k).core j).bare = (s.core j).bare := by
  unfold State.leaveGang
  split_ifs
  · refine foldl_bare _ _ j (fun t i => ?_) s
    exact t.bare_onCore (k + i) j fun _ => rfl
  · exact s.bare_onCore k j fun _ => rfl
  · rfl

theorem State.bare_leaveBarriers (s : State) (k j : Nat) : ((s.leaveBarriers k).core j).bare = (s.core j).bare := by
  unfold State.leaveBarriers
  split
  · rw [State.core_onDie]
    exact s.bare_onCore k j fun _ => rfl
  · rfl

theorem State.bare_flushRc (s : State) (k : Nat) : ((s.flushRc k).core k).bare = (s.core k).bare := by
  rw [State.flushRc, State.trimRc_core]
  rfl

/-! ## What changes no core -/

@[simp] theorem State.core_dropReq (s : State) (k j : Nat) : (s.dropReq k).core j = s.core j := by
  unfold State.dropReq
  split <;> rfl

@[simp] theorem State.core_dropSign (s : State) (k j : Nat) : (s.dropSign k).core j = s.core j := by
  unfold State.dropSign
  dsimp only
  split
  · split_ifs <;> rfl
  · rfl

@[simp] theorem State.core_abandon (s : State) (k j : Nat) : (s.abandon k).core j = s.core j := by
  rw [State.abandon, State.core_dropSign, State.core_dropReq]

@[simp] theorem State.core_storeNat (s : State) (key n v j : Nat) : (s.storeNat key n v).core j = s.core j :=
  foldl_core _ _ (fun t _ j => by split <;> rfl) _ j

@[simp] theorem State.core_recordCore (s : State) (k cause st how : Nat) (tpc tval aux : Word) (j : Nat) :
    (s.recordCore k cause st how tpc tval aux).core j = s.core j := by
  unfold State.recordCore State.record
  dsimp only
  rw [State.core_onDie]
  split
  · rfl
  · rw [State.core_setSup, State.core_storeNat]

/-! ## A thread that stops, a thread that goes to its handler -/

theorem State.bare_abandon_keepFloors (s : State) (k j : Nat) :
    (((s.keepFloors k).abandon k).core j).bare = (s.core j).bare := by
  rw [State.core_abandon, State.bare_keepFloors]

/-- Stopping a thread changes its state and what it waits in. -/
theorem State.bare_stopThread (s : State) (k : Nat) (st : ThreadState) :
    ((s.stopThread k st).core k).bare = { (s.core k).bare.unwait with st := st } := by
  unfold State.stopThread
  dsimp only
  rw [State.bare_leaveGang, State.bare_leaveBarriers, State.bare_flushRc, State.core_onCore_same]
  exact congrArg (fun c : Core => { c.unwait with st := st }) (s.bare_abandon_keepFloors k k)

/-- A cause that a handler may take: the three others freeze, kill or stop the thread (R337). -/
abbrev ReachesHandler (cause : Nat) : Prop :=
  cause ≠ causeAccess ∧ cause ≠ causeEccFatal ∧ cause ≠ causeBarrierTimeout

/-- What stopping at a trap does to the core (R337, step 3), the fields of `Core.bare` aside. -/
def Core.stopsAt (c : Core) (cause : Nat) (pc tval : Word) : Core :=
  { c.unwait with st := .stopped, tcause := BitVec.ofNat 64 cause, tpc := pc, tval := tval }

/-- R337, step 3: without a handler, or inside it, the thread stops with its trap registers set. -/
theorem State.bare_takeTrap_stops {s : State} {k cause : Nat} {pc tval aux : Word} (hc : ReachesHandler cause)
    (hh : (s.core k).tvec = 0 ∨ (s.core k).inh = true) :
    ((s.takeTrap k cause false pc tval aux).core k).bare = ((s.core k).stopsAt cause pc tval).bare := by
  obtain ⟨hacc, hecc, -⟩ := hc
  have hstop : (s.core k).tvec = 0 ∨ (s.core k).inh ∨ cause = causeBarrierTimeout := hh.imp_right .inl
  unfold State.takeTrap
  dsimp only
  rw [if_neg hacc, if_neg hecc, if_pos hstop, State.core_recordCore, State.bare_stopThread, State.core_onCore_same]
  rfl

/-- R337, step 4, as the model writes it. -/
theorem State.takeTrap_handler {s : State} {k cause : Nat} {pc tval aux : Word} (hc : ReachesHandler cause)
    (hv : (s.core k).tvec ≠ 0) (hi : (s.core k).inh = false) :
    s.takeTrap k cause false pc tval aux =
      (((s.keepFloors k).abandon k).onCore k fun c => c.handled cause pc tval).leaveGang k := by
  obtain ⟨hacc, hecc, hbar⟩ := hc
  have hgo : ¬ ((s.core k).tvec = 0 ∨ (s.core k).inh ∨ cause = causeBarrierTimeout) := by
    rw [hi]
    simpa [hbar] using hv
  unfold State.takeTrap
  dsimp only
  rw [if_neg hacc, if_neg hecc, if_neg hgo]
  rfl

theorem State.bare_takeTrap_handler {s : State} {k cause : Nat} {pc tval aux : Word} (hc : ReachesHandler cause)
    (hv : (s.core k).tvec ≠ 0) (hi : (s.core k).inh = false) :
    ((s.takeTrap k cause false pc tval aux).core k).bare = ((s.core k).handled cause pc tval).bare := by
  rw [State.takeTrap_handler hc hv hi, State.bare_leaveGang, State.core_onCore_same]
  exact congrArg (fun c : Core => c.handled cause pc tval) (s.bare_abandon_keepFloors k k)

/-! ## A core that waits in nothing that others see -/

theorem State.keepFloors_unbound {s : State} {k : Nat} (h : s.Unbound k) : s.keepFloors k = s := by
  unfold State.keepFloors
  rw [h.phase]

theorem State.abandon_unbound {s : State} {k : Nat} (h : s.Unbound k) : s.abandon k = s := by
  have hreq : ((s.tile (coreTile k)).req.any fun r => r.core == k) = false := by
    cases hr : (s.tile (coreTile k)).req with
    | none => rfl
    | some r => simpa using h.split r hr
  have hdrop : s.dropReq k = s := by simp [State.dropReq, hreq]
  unfold State.abandon State.dropSign
  rw [hdrop]
  dsimp only
  split
  · next c hc => rw [if_neg (h.sign c (Option.ite_none_right_eq_some.1 hc).2)]
  · rfl

theorem State.leaveGang_none {s : State} {k : Nat} (h : (s.core k).gang = false) : s.leaveGang k = s := by
  simp [State.leaveGang, h]

/-- Taking the trap changes the core alone. -/
theorem State.takeTrap_unbound {s : State} {k cause : Nat} {pc tval aux : Word} (hc : ReachesHandler cause)
    (hv : (s.core k).tvec ≠ 0) (hi : (s.core k).inh = false) (hu : s.Unbound k) (hg : (s.core k).gang = false) :
    s.takeTrap k cause false pc tval aux = s.onCore k fun c => c.handled cause pc tval := by
  rw [State.takeTrap_handler hc hv hi, State.keepFloors_unbound hu, State.abandon_unbound hu,
    State.leaveGang_none (by rw [State.core_onCore_same]; exact hg)]

/-! ## A trap at a word whose operands are named -/

section Named

variable {s u : State} {cause : Nat} {v : Word} (h : s.Named u)
include h

theorem State.Named.unbound (hu : s.Unbound s.me) : u.Unbound s.me := by
  have ht (t : Nat) : u.tile t = s.tile t := (congrArg (fun w : State => w.tile t) h.same.rest :)
  exact ⟨(Core.field_of_bare h.core.bare Core.bwaiting).trans hu.phase, ht _ ▸ hu.split, ht _ ▸ hu.sign⟩

/-- With every earlier instruction completed, the trap is taken now (R127). -/
theorem State.Named.trap_eq (hs : (s.core s.me).settled = true) :
    u.trap s.me cause v = u.takeTrap s.me cause false (u.core s.me).pc v 0 :=
  if_pos ((Core.field_of_bare h.core.bare Core.settled).trans hs)

/-- A trap that the thread's handler takes. -/
theorem State.Named.trapsTo (hr : (s.core s.me).st = .running) (hc : ReachesHandler cause) (hh : s.Handles s.me) :
    s.TrapsTo (u.trap s.me cause v) cause v := by
  have hv : (u.core s.me).tvec ≠ 0 := (Core.field_of_bare h.core.bare Core.tvec).trans_ne hh.tvec
  have hi : (u.core s.me).inh = false := (Core.field_of_bare h.core.bare Core.inh).trans hh.inh
  rw [h.trap_eq hh.settled]
  have e : ((u.takeTrap s.me cause false (u.core s.me).pc v 0).core s.me).bare =
      ((s.core s.me).handled cause (s.core s.me).pc v).bare :=
    (State.bare_takeTrap_handler hc hv hi).trans (congrArg (fun c : Core => c.handled cause c.pc v) h.core.bare)
  exact {
    tcause := Core.field_of_bare e Core.tcause
    tpc := Core.field_of_bare e Core.tpc
    tval := Core.field_of_bare e Core.tval
    inh := Core.field_of_bare e Core.inh
    pc := Core.field_of_bare e Core.pc
    st := (Core.field_of_bare e Core.st).trans hr
    x := (Core.field_of_bare e Core.x :)
    p := (Core.field_of_bare e Core.p :)
    h := (Core.field_of_bare e Core.h :)
    vp := (Core.field_of_bare e Core.vp :)
    only := fun hu hg => by
      have hgang : (u.core s.me).gang = false := (h.core.field Core.gang fun _ _ => rfl).trans hg
      rw [State.takeTrap_unbound hc hv hi (h.unbound hu) hgang]
      exact h.did (fun c => c.handled cause c.pc v) fun _ _ => rfl }

/-- A trap that the thread's supervisor takes: the thread stops at the word, with its registers and inh as they were. -/
theorem State.Named.trap_stops (hc : ReachesHandler cause) (hh : (s.core s.me).tvec = 0 ∨ (s.core s.me).inh = true)
    (hs : (s.core s.me).settled = true) :
    ((u.trap s.me cause v).core s.me).bare = ((s.core s.me).stopsAt cause (s.core s.me).pc v).bare := by
  have hv : (u.core s.me).tvec = (s.core s.me).tvec := Core.field_of_bare h.core.bare Core.tvec
  have hi : (u.core s.me).inh = (s.core s.me).inh := Core.field_of_bare h.core.bare Core.inh
  rw [h.trap_eq hs, State.bare_takeTrap_stops hc (by rwa [hv, hi])]
  exact congrArg (fun c : Core => c.stopsAt cause c.pc v) h.core.bare

/-- R337 at such a word: the handler takes the trap where there is one and the thread is not inside it; else the thread stops. -/
theorem State.Named.trap_directed (hr : (s.core s.me).st = .running) (hc : ReachesHandler cause)
    (hs : (s.core s.me).settled = true) :
    let c := s.core s.me
    let d := (u.trap s.me cause v).core s.me
    (c.tvec ≠ 0 → c.inh = false → s.TrapsTo (u.trap s.me cause v) cause v) ∧
    (c.tvec = 0 ∨ c.inh = true → d.st = .stopped ∧ d.tcause = BitVec.ofNat 64 cause ∧ d.tpc = c.pc ∧ d.tval = v ∧
      d.inh = c.inh ∧ d.pc = c.pc ∧ d.x = c.x) := by
  refine ⟨fun hv hi => h.trapsTo hr hc ⟨hv, hi, hs⟩, fun hh => ?_⟩
  have e := h.trap_stops (v := v) hc hh hs
  exact ⟨Core.field_of_bare e Core.st, Core.field_of_bare e Core.tcause, Core.field_of_bare e Core.tpc,
    Core.field_of_bare e Core.tval, (Core.field_of_bare e Core.inh :), (Core.field_of_bare e Core.pc :),
    (Core.field_of_bare e Core.x :)⟩

end Named

/-! ## `trap` and `eret` -/

theorem aligned8_iff (a : Word) : (fld a 0 3 != 0) = false ↔ a.toNat % 8 = 0 := by
  simp [bne_eq_false_iff_eq, ← BitVec.toNat_inj]

theorem exec_trap_runs {s : State} {g : Guard} {n : BitVec 16} (h : s.Runs (.trap g n)) :
    exec (.trap g n) s = .next ((s.ready (.trap g n)).trap s.me causeSoft (n.zeroExtend 64)) :=
  congrArg Host.Outcome.next (State.issue_runs h _)

theorem exec_eret_runs {s : State} {g : Guard} (h : s.Runs (.eret g)) :
    exec (.eret g) s = .next (if (s.core s.me).tpc.toNat % 8 = 0 then (s.ready (.eret g)).returnTrap s.me
      else (s.ready (.eret g)).trap s.me causeAlign (s.core s.me).tpc) := by
  have htpc : ((s.ready (.eret g)).core s.me).tpc = (s.core s.me).tpc := Core.field_of_bare (State.ready_named h).core.bare Core.tpc
  refine congrArg Host.Outcome.next ((State.issue_runs h _).trans ?_)
  dsimp only
  rw [htpc]
  by_cases ha : (s.core s.me).tpc.toNat % 8 = 0
  · rw [if_pos ha, (aligned8_iff _).2 ha]; rfl
  · rw [if_neg ha, if_pos (Bool.not_eq_false _ ▸ mt (aligned8_iff _).1 ha)]

end Machine

/-- Settles O20: both words come down to a trap at a word whose operands are named, which R337 directs by `tvec` and inh, or to the
return of R341. -/
theorem softTrapAndReturn : Obligations.SoftTrapAndReturn := by
  intro s g n
  dsimp only
  refine ⟨fun hr hs => ?trap, fun hr ha => ?eret, fun hr ha hs => ?misaligned⟩
  case trap =>
    have hc : ReachesHandler causeSoft := by decide
    exact ⟨_, exec_trap_runs hr, (State.ready_named hr).trap_directed hr.running hc hs⟩
  case eret =>
    refine ⟨_, exec_eret_runs hr, ?_⟩
    rw [if_pos ha]
    exact (State.ready_named hr).did (fun c => { c.unwait with pc := c.tpc, inh := false }) fun _ _ => rfl
  case misaligned =>
    have hc : ReachesHandler causeAlign := by decide
    refine ⟨_, exec_eret_runs hr, ?_⟩
    rw [if_neg ha]
    exact (State.ready_named hr).trap_directed hr.running hc hs

end Sys2Proof

/-! SUPPORT. The decoder and the encoder read and write the same fields (R71 to R86), and the proofs of O2 and O3. -/

namespace Sys2Proof

/-! ## Codes -/

theorem ITy.code_eq_iff {t : ITy} {c : BitVec 3} : t.code = c ↔ t = ITy.ofCode c := by
  revert c; cases t <;> decide

theorem Wm.code_eq_iff {t : Wm} {c : BitVec 2} : t.code = c ↔ t = Wm.ofCode c := by
  revert c; cases t <;> decide

theorem AOrd.code_eq_iff {t : AOrd} {c : BitVec 2} : t.code = c ↔ t = AOrd.ofCode c := by
  revert c; cases t <;> decide

theorem FTy.code_eq_iff {t : FTy} {c : BitVec 3} : t.code = c ↔ FTy.ofCode c = some t := by
  revert c; cases t <;> decide

theorem Rm.code_eq_iff {t : Rm} {c : BitVec 3} : t.code = c ↔ Rm.ofCode c = some t := by
  revert c; cases t <;> decide

theorem Cond.code_eq_iff {t : Cond} {c : BitVec 4} : t.code = c ↔ Cond.ofCode c = some t := by
  revert c; cases t <;> decide

theorem Scope.code_eq_iff {t : Scope} {c : BitVec 3} : t.code = c ↔ Scope.ofCode c = some t := by
  revert c; cases t <;> decide

theorem Hint.code_eq_iff {t : Hint} {c : BitVec 2} : t.code = c ↔ Hint.ofCode c = some t := by
  revert c; cases t <;> decide

theorem AmoOp.code_eq_iff {t : AmoOp} {c : BitVec 4} : t.code = c ↔ AmoOp.ofCode c = some t := by
  revert c; cases t <;> decide

theorem Kind.code_eq_iff {t : Kind} {c : BitVec 4} : t.code = c ↔ Kind.ofCode c = some t := by
  revert c; rcases t with t | _ | _
  · cases t <;> decide
  · decide
  · decide

theorem QName.code_eq_iff {t : QName} {c : BitVec 5} : t.code = c ↔ QName.ofCode c = some t := by
  revert c; rcases t with _ | _ | _ | _ | n | _
  case gq => revert n; decide
  all_goals decide

theorem bit1_eq_iff {b : Bool} {c : BitVec 1} : bit1 b = c ↔ b = (c == 1) := by
  revert b c; decide

theorem encSlot_eq_iff {v : VOp} {c : BitVec 7} : encSlot v = c ↔ vSlot c = some v := by
  rcases v with ⟨h, a⟩ | r
  · revert h a c; decide +kernel
  · revert r c; decide +kernel

theorem encSlotH_eq_iff {v : VHandle} {c : BitVec 7} : encSlotH v = c ↔ vSlotH c = some v := by
  rcases v with ⟨h, a⟩; revert h a c; decide +kernel

theorem encSlotX_eq_iff {r : XReg} {c : BitVec 7} : encSlotX r = c ↔ vSlotX c = some r := by
  revert r c; decide +kernel

theorem encSlotP_eq_iff {r : PReg} {c : BitVec 7} : encSlotP r = c ↔ vSlotP c = some r := by
  revert r c; decide +kernel

/-! ## Steps of the decoder -/

theorem need_eq_ok {α : Type} {b : Bool} {e : DecodeError} {k : Dec α} {a : α} :
    need b e k = .ok a ↔ b = true ∧ k = .ok a := by
  cases b <;> simp [need]

theorem code_eq_ok {α β : Type} {o : Option α} {k : α → Dec β} {b : β} :
    code o k = .ok b ↔ ∃ a, o = some a ∧ k a = .ok b := by
  cases o <;> simp [code]

theorem limit_eq_ok {i j : Instr} : limit i = .ok j ↔ i = j ∧ j.wf = true := by
  rw [limit, need_eq_ok]
  constructor
  · rintro ⟨h, h'⟩; cases h'; exact ⟨rfl, h⟩
  · rintro ⟨rfl, h⟩; exact ⟨h, rfl⟩

/-- A field splits where a concatenation does. -/
theorem append_eq_fld_iff {m n k lo : Nat} {w : BitVec m} {x : BitVec n} {y : BitVec k} :
    x ++ y = fld w lo (n + k) ↔ x = fld w (lo + k) n ∧ y = fld w lo k := by
  simp only [BitVec.eq_of_getLsbD_eq_iff, BitVec.getLsbD_append, BitVec.getLsbD_extractLsb']
  constructor
  · intro h
    constructor <;> intro i hi
    · have := h (k + i) (by omega)
      simpa [hi, Nat.add_assoc, show k + i < n + k by omega] using this
    · have := h i (by omega)
      simpa [hi, show i < n + k by omega] using this
  · rintro ⟨hx, hy⟩ i hi
    by_cases hk : i < k
    · simpa [hk, hi] using hy i hk
    · have := hx (i - k) (by omega)
      simpa [hk, hi, show i - k < n by omega, show lo + k + (i - k) = lo + i by omega] using this

theorem bit_eq_one_of_ne_zero {b : BitVec 1} (h : b ≠ 0) : b = 1 := by revert b; decide

/-- The word has the body `b`: what stands below its guard and its major opcode. -/
abbrev HasBody (w : Word) (b : BitVec 40) : Prop := b = fld w 0 40

/-- A field of a known value, as a number: so that such fields join and split by arithmetic. -/
theorem fld_eq_ofNat_iff {w : Word} {lo n c : Nat} : fld w lo n = BitVec.ofNat n c ↔ w.toNat / 2 ^ lo % 2 ^ n = c % 2 ^ n := by
  rw [← BitVec.toNat_inj, BitVec.extractLsb'_toNat, Nat.shiftRight_eq_div_pow, BitVec.toNat_ofNat]

theorem ofNat_eq_fld_iff {w : Word} {lo n c : Nat} : BitVec.ofNat n c = fld w lo n ↔ w.toNat / 2 ^ lo % 2 ^ n = c % 2 ^ n :=
  eq_comm.trans fld_eq_ofNat_iff

theorem toNat_fld {w : Word} {lo n : Nat} : (fld w lo n).toNat = w.toNat / 2 ^ lo % 2 ^ n := by
  rw [BitVec.extractLsb'_toNat, Nat.shiftRight_eq_div_pow]

/-! ## The fields of each format (R75 to R84) -/

section Formats

variable {w : Word}

theorem hasBody_encR3 {rd ra rb rc : XReg} {ty rm : BitVec 3} {fn : BitVec 4} {ord : BitVec 2} :
    HasBody w (encR3 rd ra rb rc ty rm fn ord) ↔ rd = fld w 35 5 ∧ ra = fld w 30 5 ∧ rb = fld w 25 5 ∧ rc = fld w 20 5 ∧
      ty = fld w 17 3 ∧ rm = fld w 14 3 ∧ fn = fld w 10 4 ∧ ord = fld w 8 2 ∧ 0#8 = fld w 0 8 := by
  unfold HasBody encR3
  simp only [append_eq_fld_iff (w := w), and_assoc]

theorem hasBody_encI {o : IntI} {sub : BitVec 3} :
    HasBody w (encI o sub) ↔ o.rd = fld w 35 5 ∧ o.ra = fld w 30 5 ∧ o.ty = ITy.ofCode (fld w 27 3) ∧ sub = fld w 24 3 ∧
      o.imm = fld w 0 24 := by
  rw [← ITy.code_eq_iff]
  unfold HasBody encI
  simp only [append_eq_fld_iff (w := w), and_assoc]

theorem hasBody_encM {r rb : XReg} {ty : BitVec 3} {ord : BitVec 1} {scope : BitVec 3} {hint : BitVec 2} {take : BitVec 1}
    {disp : BitVec 20} :
    HasBody w (encM r rb ty ord scope hint take disp) ↔ r = fld w 35 5 ∧ rb = fld w 30 5 ∧ ty = fld w 27 3 ∧ ord = fld w 26 1 ∧
      scope = fld w 23 3 ∧ hint = fld w 21 2 ∧ take = fld w 20 1 ∧ disp = fld w 0 20 := by
  unfold HasBody encM
  simp only [append_eq_fld_iff (w := w), and_assoc]

theorem hasBody_encC {pt pf : PReg} {wm : BitVec 2} {cond : BitVec 4} {ra rb : XReg} {ty : BitVec 3} {im : BitVec 1}
    {imm : BitVec 14} :
    HasBody w (encC pt pf wm cond ra rb ty im imm) ↔ pt = fld w 37 3 ∧ pf = fld w 34 3 ∧ wm = fld w 32 2 ∧ cond = fld w 28 4 ∧
      ra = fld w 23 5 ∧ rb = fld w 18 5 ∧ ty = fld w 15 3 ∧ im = fld w 14 1 ∧ imm = fld w 0 14 := by
  unfold HasBody encC
  simp only [append_eq_fld_iff (w := w), and_assoc]

theorem hasBody_encHMem {dir : BitVec 1} {o : HandleM} :
    HasBody w (encHMem dir o) ↔ dir = fld w 39 1 ∧ o.h = fld w 35 4 ∧ o.rb = fld w 30 5 ∧ 0#3 = fld w 27 3 ∧
      bit1 o.ord = fld w 26 1 ∧ o.scope.code = fld w 23 3 ∧ o.hint.code = fld w 21 2 ∧ 0#1 = fld w 20 1 ∧ o.disp = fld w 0 20 := by
  unfold HasBody encHMem
  simp only [append_eq_fld_iff (w := w), and_assoc]

theorem hasBody_encHReg {fn : BitVec 2} {h hs : HReg} {x : XReg} {f : BitVec 4} :
    HasBody w (encHReg fn h hs x f) ↔ fn = fld w 38 2 ∧ h = fld w 34 4 ∧ hs = fld w 30 4 ∧ x = fld w 25 5 ∧ f = fld w 21 4 ∧
      0#21 = fld w 0 21 := by
  unfold HasBody encHReg
  simp only [append_eq_fld_iff (w := w), and_assoc]

theorem hasBody_encV {hd : BitVec 4} {dm : BitVec 1} {a b c : BitVec 7} {rm : BitVec 3} {fn : BitVec 4} {aux : BitVec 7} :
    HasBody w (encV hd dm a b c rm fn aux) ↔ hd = fld w 36 4 ∧ dm = fld w 35 1 ∧ a = slotA w ∧ b = slotB w ∧ c = slotC w ∧
      rm = vRm w ∧ fn = vFn w ∧ aux = vAux w := by
  unfold HasBody encV slotA slotB slotC vRm vFn vAux
  simp only [append_eq_fld_iff (w := w), and_assoc]

theorem hasBody_encP {q : BitVec 5} {cb pt pf : BitVec 3} {try1 : BitVec 1} {rd : XReg} :
    HasBody w (encP q cb pt pf try1 rd) ↔ q = fld w 35 5 ∧ cb = fld w 32 3 ∧ pt = fld w 29 3 ∧ pf = fld w 26 3 ∧
      try1 = fld w 25 1 ∧ rd = fld w 20 5 ∧ 0#20 = fld w 0 20 := by
  unfold HasBody encP
  simp only [append_eq_fld_iff (w := w), and_assoc]

theorem hasBody_encCsr {fn : BitVec 2} {o : CsrS} :
    HasBody w (encCsr fn o) ↔ fn = fld w 38 2 ∧ o.rd = fld w 33 5 ∧ o.ra = fld w 28 5 ∧ o.csr = fld w 16 12 ∧
      0#16 = fld w 0 16 := by
  unfold HasBody encCsr
  simp only [append_eq_fld_iff (w := w), and_assoc]

theorem hasBody_encSys {fn : BitVec 3} {ra rb : XReg} {scope : BitVec 3} {c : BitVec 16} :
    HasBody w (encSys fn ra rb scope c) ↔ fn = fld w 37 3 ∧ ra = fld w 32 5 ∧ rb = fld w 27 5 ∧ scope = fld w 24 3 ∧
      0#8 = fld w 16 8 ∧ c = fld w 0 16 := by
  unfold HasBody encSys
  simp only [append_eq_fld_iff (w := w), and_assoc]

theorem hasBody_encX34 {fn : BitVec 1} {ra : XReg} :
    HasBody w (encX34 fn ra) ↔ fn = fld w 39 1 ∧ ra = fld w 34 5 ∧ 0#34 = fld w 0 34 := by
  unfold HasBody encX34
  simp only [append_eq_fld_iff (w := w), and_assoc]

end Formats

/-! ## Scalar words -/

section Scalar

variable {g : Guard} {w : Word} {i : Instr}

theorem decIntR_eq_ok {k : IntR → Instr} :
    decIntR k w = .ok i ↔ i.wf = true ∧ ∃ o, k o = i ∧ HasBody w (encIntR o 0) := by
  simp only [decIntR, need_eq_ok, limit_eq_ok, Bool.and_eq_true, beq_iff_eq, encIntR, hasBody_encR3, ITy.code_eq_iff,
    BitVec.ofNat_eq_ofNat, fld_eq_ofNat_iff, ofNat_eq_fld_iff]
  constructor
  · rintro ⟨hz, h, hw⟩
    exact ⟨hw, _, h, rfl, rfl, rfl, hz.1, rfl, by omega⟩
  · rintro ⟨hw, ⟨_, _, _, _⟩, h, rfl, rfl, rfl, hc, rfl, hz⟩
    exact ⟨by omega, h, hw⟩

theorem decMinMax_eq_ok : decMinMax g w = .ok i ↔ i.wf = true ∧ ∃ o,
    .min g o = i ∧ HasBody w (encIntR o 0) ∨ .max g o = i ∧ HasBody w (encIntR o 1) := by
  simp only [decMinMax, need_eq_ok, limit_eq_ok, Bool.and_eq_true, Bool.or_eq_true, beq_iff_eq, encIntR, hasBody_encR3,
    ITy.code_eq_iff, BitVec.ofNat_eq_ofNat, fld_eq_ofNat_iff, ofNat_eq_fld_iff]
  constructor
  · rintro ⟨hf, hz, h, hw⟩
    split at h
    · exact ⟨hw, _, .inl ⟨h, rfl, rfl, rfl, hz.1.1, rfl, by omega⟩⟩
    · exact ⟨hw, _, .inr ⟨h, rfl, rfl, rfl, hz.1.1, rfl, by omega⟩⟩
  · rintro ⟨hw, ⟨_, _, _, _⟩, ⟨h, rfl, rfl, rfl, hc, rfl, hz⟩ | ⟨h, rfl, rfl, rfl, hc, rfl, hz⟩⟩
    · exact ⟨by omega, by omega, by rwa [if_pos (by omega)], hw⟩
    · exact ⟨by omega, by omega, by rwa [if_neg (by omega)], hw⟩

theorem decIntU_eq_ok : decIntU g w = .ok i ↔ i.wf = true ∧ ∃ o,
    .clz g o = i ∧ HasBody w (encIntU o 0) ∨ .ctz g o = i ∧ HasBody w (encIntU o 1) ∨
    .popc g o = i ∧ HasBody w (encIntU o 2) ∨ .sext g o = i ∧ HasBody w (encIntU o 3) ∨
    .zext g o = i ∧ HasBody w (encIntU o 4) := by
  simp only [decIntU, need_eq_ok, limit_eq_ok, Bool.and_eq_true, decide_eq_true_eq, beq_iff_eq, encIntU, hasBody_encR3,
    ITy.code_eq_iff, BitVec.ofNat_eq_ofNat, fld_eq_ofNat_iff, ofNat_eq_fld_iff, toNat_fld]
  constructor
  · rintro ⟨hf, hz, h, hw⟩
    refine ⟨hw, ⟨fld w 35 5, fld w 30 5, ITy.ofCode (fld w 17 3)⟩, ?_⟩
    have hn : w.toNat / 2 ^ 10 % 2 ^ 4 = 0 ∨ w.toNat / 2 ^ 10 % 2 ^ 4 = 1 ∨ w.toNat / 2 ^ 10 % 2 ^ 4 = 2 ∨
      w.toNat / 2 ^ 10 % 2 ^ 4 = 3 ∨ w.toNat / 2 ^ 10 % 2 ^ 4 = 4 := by omega
    rcases hn with hn | hn | hn | hn | hn <;> rw [hn] at h
    · exact .inl ⟨h, rfl, rfl, by omega, by omega, rfl, by omega⟩
    · exact .inr (.inl ⟨h, rfl, rfl, by omega, by omega, rfl, by omega⟩)
    · exact .inr (.inr (.inl ⟨h, rfl, rfl, by omega, by omega, rfl, by omega⟩))
    · exact .inr (.inr (.inr (.inl ⟨h, rfl, rfl, by omega, by omega, rfl, by omega⟩)))
    · exact .inr (.inr (.inr (.inr ⟨h, rfl, rfl, by omega, by omega, rfl, by omega⟩)))
  · rintro ⟨hw, ⟨_, _, _⟩, h | h | h | h | h⟩
    all_goals
      obtain ⟨h, rfl, rfl, h1, h2, rfl, h3, h4, hz⟩ := h
      exact ⟨by omega, by omega, by rw [h4]; exact h, hw⟩

theorem decIntI_eq_ok {k : IntI → Instr} :
    decIntI k w = .ok i ↔ i.wf = true ∧ ∃ o, k o = i ∧ HasBody w (encI o 0) := by
  simp only [decIntI, need_eq_ok, limit_eq_ok, beq_iff_eq, hasBody_encI]
  constructor
  · rintro ⟨hz, h, hw⟩
    exact ⟨hw, _, h, rfl, rfl, rfl, hz.symm, rfl⟩
  · rintro ⟨hw, ⟨_, _, _, _⟩, h, rfl, rfl, rfl, hz, rfl⟩
    exact ⟨hz.symm, h, hw⟩

theorem decMinMaxI_eq_ok : decMinMaxI g w = .ok i ↔ i.wf = true ∧ ∃ o,
    .minImm g o = i ∧ HasBody w (encI o 0) ∨ .maxImm g o = i ∧ HasBody w (encI o 1) := by
  simp only [decMinMaxI, need_eq_ok, limit_eq_ok, Bool.or_eq_true, beq_iff_eq, hasBody_encI,
    BitVec.ofNat_eq_ofNat, fld_eq_ofNat_iff, ofNat_eq_fld_iff]
  constructor
  · rintro ⟨hf, h, hw⟩
    split at h
    · exact ⟨hw, _, .inl ⟨h, rfl, rfl, rfl, by omega, rfl⟩⟩
    · exact ⟨hw, _, .inr ⟨h, rfl, rfl, rfl, by omega, rfl⟩⟩
  · rintro ⟨hw, ⟨_, _, _, _⟩, ⟨h, rfl, rfl, rfl, hz, rfl⟩ | ⟨h, rfl, rfl, rfl, hz, rfl⟩⟩
    · exact ⟨by omega, by rwa [if_pos (by omega)], hw⟩
    · exact ⟨by omega, by rwa [if_neg (by omega)], hw⟩

theorem decAddrM_eq_ok {k : AddrM → Instr} :
    decAddrM k w = .ok i ↔ i.wf = true ∧ ∃ o, k o = i ∧ HasBody w (encAddr o) := by
  simp only [decAddrM, need_eq_ok, limit_eq_ok, beq_iff_eq, encAddr, hasBody_encM,
    BitVec.ofNat_eq_ofNat, fld_eq_ofNat_iff, ofNat_eq_fld_iff]
  constructor
  · rintro ⟨hz, h, hw⟩
    exact ⟨hw, _, h, rfl, rfl, by omega, by omega, by omega, by omega, by omega, rfl⟩
  · rintro ⟨hw, ⟨_, _, _⟩, h, rfl, rfl, h1, h2, h3, h4, h5, rfl⟩
    exact ⟨by omega, h, hw⟩

theorem decFloatR_eq_ok {k : FloatR → Instr} :
    decFloatR k w = .ok i ↔ i.wf = true ∧ ∃ o, k o = i ∧ HasBody w (encFloatR o) := by
  simp only [decFloatR, need_eq_ok, code_eq_ok, limit_eq_ok, Bool.and_eq_true, beq_iff_eq, encFloatR, hasBody_encR3,
    FTy.code_eq_iff, Rm.code_eq_iff, BitVec.ofNat_eq_ofNat, fld_eq_ofNat_iff, ofNat_eq_fld_iff]
  constructor
  · rintro ⟨hz, ty, hty, rm, hrm, h, hw⟩
    exact ⟨hw, _, h, rfl, rfl, rfl, hz.1, hty, hrm, by omega⟩
  · rintro ⟨hw, ⟨_, _, _, ty, rm⟩, h, rfl, rfl, rfl, hc, hty, hrm, hz⟩
    exact ⟨by omega, ty, hty, rm, hrm, h, hw⟩

theorem decFma_eq_ok : decFma g w = .ok i ↔ i.wf = true ∧
    ∃ o, .fma g o = i ∧ HasBody w (encR3 o.rd o.ra o.rb o.rc o.ty.code o.rm.code 0 0) := by
  simp only [decFma, need_eq_ok, code_eq_ok, limit_eq_ok, beq_iff_eq, hasBody_encR3, FTy.code_eq_iff, Rm.code_eq_iff,
    BitVec.ofNat_eq_ofNat, fld_eq_ofNat_iff, ofNat_eq_fld_iff]
  constructor
  · rintro ⟨hz, ty, hty, rm, hrm, h, hw⟩
    exact ⟨hw, _, h, rfl, rfl, rfl, rfl, hty, hrm, by omega⟩
  · rintro ⟨hw, ⟨_, _, _, _, ty, rm⟩, h, rfl, rfl, rfl, rfl, hty, hrm, hz⟩
    exact ⟨by omega, ty, hty, rm, hrm, h, hw⟩

theorem decFsqrt_eq_ok : decFsqrt g w = .ok i ↔ i.wf = true ∧
    ∃ o, .fsqrt g o = i ∧ HasBody w (encR3 o.rd o.ra 0 0 o.ty.code o.rm.code 0 0) := by
  simp only [decFsqrt, need_eq_ok, code_eq_ok, limit_eq_ok, Bool.and_eq_true, beq_iff_eq, hasBody_encR3,
    FTy.code_eq_iff, Rm.code_eq_iff, BitVec.ofNat_eq_ofNat, fld_eq_ofNat_iff, ofNat_eq_fld_iff]
  constructor
  · rintro ⟨hz, ty, hty, rm, hrm, h, hw⟩
    exact ⟨hw, _, h, rfl, rfl, by omega, by omega, hty, hrm, by omega⟩
  · rintro ⟨hw, ⟨_, _, ty, rm⟩, h, rfl, rfl, h1, h2, hty, hrm, hz⟩
    exact ⟨by omega, ty, hty, rm, hrm, h, hw⟩

theorem decFmin_eq_ok {k : FminR → Instr} :
    decFmin k w = .ok i ↔ i.wf = true ∧ ∃ o, k o = i ∧ HasBody w (encFmin o) := by
  simp only [decFmin, need_eq_ok, code_eq_ok, limit_eq_ok, Bool.and_eq_true, beq_iff_eq, encFmin, hasBody_encR3,
    FTy.code_eq_iff, BitVec.ofNat_eq_ofNat, fld_eq_ofNat_iff, ofNat_eq_fld_iff]
  constructor
  · rintro ⟨hz, ty, hty, h, hw⟩
    exact ⟨hw, _, h, rfl, rfl, rfl, hz.1, hty, by omega⟩
  · rintro ⟨hw, ⟨_, _, _, ty⟩, h, rfl, rfl, rfl, hc, hty, hz⟩
    exact ⟨by omega, ty, hty, h, hw⟩

theorem decFcvt_eq_ok : decFcvt g w = .ok i ↔ i.wf = true ∧
    ∃ o, .fcvt g o = i ∧ HasBody w (encR3 o.rd o.ra 0 (0#1 ++ o.src.code) 0 o.rm.code o.dst.code 0) := by
  simp only [decFcvt, need_eq_ok, code_eq_ok, limit_eq_ok, Bool.and_eq_true, beq_iff_eq, hasBody_encR3]
  simp only [append_eq_fld_iff (w := w), Kind.code_eq_iff, Rm.code_eq_iff, BitVec.ofNat_eq_ofNat, fld_eq_ofNat_iff, ofNat_eq_fld_iff]
  constructor
  · rintro ⟨hz, dst, hdst, src, hsrc, rm, hrm, h, hw⟩
    exact ⟨hw, _, h, rfl, rfl, by omega, ⟨by omega, hsrc⟩, by omega, hrm, hdst, by omega⟩
  · rintro ⟨hw, ⟨_, _, dst, src, rm⟩, h, rfl, rfl, h1, ⟨h2, hsrc⟩, h3, hrm, hdst, hz⟩
    exact ⟨by omega, dst, hdst, src, hsrc, rm, hrm, h, hw⟩

theorem decFclass_eq_ok : decFclass g w = .ok i ↔ i.wf = true ∧
    ∃ o, .fclass g o = i ∧ HasBody w (encR3 o.rd o.ra 0 0 o.ty.code 0 0 0) := by
  simp only [decFclass, need_eq_ok, code_eq_ok, limit_eq_ok, Bool.and_eq_true, beq_iff_eq, hasBody_encR3,
    FTy.code_eq_iff, BitVec.ofNat_eq_ofNat, fld_eq_ofNat_iff, ofNat_eq_fld_iff]
  constructor
  · rintro ⟨hz, ty, hty, h, hw⟩
    exact ⟨hw, _, h, rfl, rfl, by omega, by omega, hty, by omega⟩
  · rintro ⟨hw, ⟨_, _, ty⟩, h, rfl, rfl, h1, h2, hty, hz⟩
    exact ⟨by omega, ty, hty, h, hw⟩

/-- The body of a `cmp`, by its second operand (R80). -/
def encCmp (o : CmpC) : BitVec 40 :=
  match o.b with
  | .reg r => encC o.pt o.pf o.wm.code o.cond.code o.ra r o.ty.code 0 0
  | .imm v => encC o.pt o.pf o.wm.code o.cond.code o.ra 0 o.ty.code 1 v

theorem decCmp_eq_ok : decCmp g w = .ok i ↔ i.wf = true ∧ ∃ o, .cmp g o = i ∧ HasBody w (encCmp o) := by
  simp only [decCmp, need_eq_ok, code_eq_ok, limit_eq_ok]
  constructor
  · rintro ⟨hz, cond, hcond, h, hw⟩
    refine ⟨hw, _, h, ?_⟩
    by_cases him : fld w 14 1 = 1
    · simp only [him, beq_self_eq_true, if_true, beq_iff_eq] at hz
      simp only [encCmp, him, beq_self_eq_true, if_true, hasBody_encC, Wm.code_eq_iff, Cond.code_eq_iff, ITy.code_eq_iff]
      exact ⟨trivial, trivial, trivial, hcond, trivial, hz.symm, trivial, trivial, trivial⟩
    · have him0 : fld w 14 1 = 0 := not_not.1 fun hne => him (bit_eq_one_of_ne_zero hne)
      simp only [beq_eq_false_iff_ne.2 him, Bool.false_eq_true, if_false, beq_iff_eq] at hz
      simp only [encCmp, beq_eq_false_iff_ne.2 him, Bool.false_eq_true, if_false, hasBody_encC, Wm.code_eq_iff,
        Cond.code_eq_iff, ITy.code_eq_iff]
      exact ⟨trivial, trivial, trivial, hcond, trivial, trivial, trivial, him0.symm, hz.symm⟩
  · rintro ⟨hw, ⟨_, _, _, cond, _, b, _⟩, h, hb⟩
    cases b <;> simp only [encCmp, hasBody_encC, Wm.code_eq_iff, Cond.code_eq_iff, ITy.code_eq_iff] at hb <;>
      obtain ⟨rfl, rfl, rfl, hcond, rfl, hr, rfl, him, hv⟩ := hb <;> refine ⟨?_, cond, hcond, ?_, hw⟩
    · simp [← him, ← hv]
    · rw [← h, ← him, hr]; rfl
    · simp [← him, ← hr]
    · rw [← h, ← him, hv]; rfl

theorem decFcmp_eq_ok : decFcmp g w = .ok i ↔ i.wf = true ∧
    ∃ o, .fcmp g o = i ∧ HasBody w (encC o.pt o.pf o.wm.code o.cond.code o.ra o.rb o.ty.code 0 0) := by
  simp only [decFcmp, need_eq_ok, code_eq_ok, limit_eq_ok, beq_iff_eq, hasBody_encC, Wm.code_eq_iff, Cond.code_eq_iff,
    FTy.code_eq_iff, BitVec.ofNat_eq_ofNat, fld_eq_ofNat_iff, ofNat_eq_fld_iff]
  constructor
  · rintro ⟨hz, cond, hcond, ty, hty, h, hw⟩
    exact ⟨hw, _, h, rfl, rfl, rfl, hcond, rfl, rfl, hty, by omega⟩
  · rintro ⟨hw, ⟨_, _, _, cond, _, _, ty⟩, h, rfl, rfl, rfl, hcond, rfl, rfl, hty, hz⟩
    exact ⟨by omega, cond, hcond, ty, hty, h, hw⟩

theorem decTbit_eq_ok : decTbit g w = .ok i ↔ i.wf = true ∧
    ∃ o, .tbit g o = i ∧ HasBody w (encC o.pt o.pf o.wm.code (0#3 ++ bit1 o.zero) o.ra 0 0 1 (0#8 ++ o.n)) := by
  have hbit : (fld w 28 4 == 0 || fld w 28 4 == 1) = true ↔ 0#3 = fld w 29 3 := by
    simp only [Bool.or_eq_true, beq_iff_eq, BitVec.ofNat_eq_ofNat, fld_eq_ofNat_iff, ofNat_eq_fld_iff]
    omega
  have hzero (hz : 0#3 = fld w 29 3) : (fld w 28 4 == 1) = (fld w 28 1 == 1) := by
    rw [Bool.eq_iff_iff]
    simp only [beq_iff_eq, BitVec.ofNat_eq_ofNat, fld_eq_ofNat_iff, ofNat_eq_fld_iff] at *
    omega
  simp only [decTbit, need_eq_ok, limit_eq_ok, Bool.and_eq_true, beq_iff_eq, hbit, hasBody_encC, Wm.code_eq_iff]
  simp only [append_eq_fld_iff (w := w), bit1_eq_iff, BitVec.ofNat_eq_ofNat] at *
  constructor
  · rintro ⟨⟨h1, h2⟩, ⟨him, hc⟩, h, hw⟩
    refine ⟨hw, _, h, rfl, rfl, rfl, ⟨hc, hzero hc⟩, rfl, ?_⟩
    simp only [fld_eq_ofNat_iff, ofNat_eq_fld_iff] at *
    exact ⟨by omega, by omega, him, by omega, trivial⟩
  · rintro ⟨hw, ⟨_, _, _, _, _, _⟩, h, rfl, rfl, rfl, ⟨hc, rfl⟩, rfl, hrb, hty, him, h8, rfl⟩
    refine ⟨?_, ⟨him.symm, hc⟩, by rw [hzero hc]; exact h, hw⟩
    simp only [fld_eq_ofNat_iff, ofNat_eq_fld_iff] at *
    omega

theorem decPlog_eq_ok : decPlog g w = .ok i ↔ i.wf = true ∧
    ∃ o, .plog g o = i ∧ HasBody w (o.pd ++ 0#5 ++ o.table ++ o.sa ++ o.sb ++ o.sc ++ 0#15) := by
  simp only [decPlog, need_eq_ok, limit_eq_ok, Bool.and_eq_true, beq_iff_eq, HasBody]
  simp only [append_eq_fld_iff (w := w), and_assoc]
  constructor
  · rintro ⟨h1, h2, h, hw⟩
    exact ⟨hw, _, h, rfl, h1.symm, rfl, rfl, rfl, rfl, h2.symm⟩
  · rintro ⟨hw, ⟨_, _, _, _, _⟩, h, rfl, h1, rfl, rfl, rfl, rfl, h2⟩
    exact ⟨h1.symm, h2.symm, h, hw⟩

theorem decPmov_eq_ok : decPmov g w = .ok i ↔ i.wf = true ∧ ∃ x,
    .pmovToX g x = i ∧ HasBody w (0#8 ++ 0#4 ++ x ++ 0#23) ∨ .pmovToPr g x = i ∧ HasBody w (0#8 ++ 1#4 ++ x ++ 0#23) := by
  simp only [decPmov, need_eq_ok, limit_eq_ok, Bool.and_eq_true, Bool.or_eq_true, beq_iff_eq, HasBody]
  simp only [append_eq_fld_iff (w := w), BitVec.ofNat_eq_ofNat, fld_eq_ofNat_iff, ofNat_eq_fld_iff]
  constructor
  · rintro ⟨hf, hz, h, hw⟩
    split at h
    · exact ⟨hw, _, .inl ⟨h, ⟨⟨by omega, by omega⟩, rfl⟩, by omega⟩⟩
    · exact ⟨hw, _, .inr ⟨h, ⟨⟨by omega, by omega⟩, rfl⟩, by omega⟩⟩
  · rintro ⟨hw, _, ⟨h, ⟨hz, rfl⟩, h0⟩ | ⟨h, ⟨hz, rfl⟩, h0⟩⟩
    · exact ⟨by omega, by omega, by rwa [if_pos (by omega)], hw⟩
    · exact ⟨by omega, by omega, by rwa [if_neg (by omega)], hw⟩

end Scalar

/-! ## Memory, atomics, barriers, queues and handles -/

section Access

variable {g : Guard} {w : Word} {i : Instr}

theorem decMemM_eq_ok {k : MemM → Instr} {takes : Bool} (hk : ∀ o, (k o).wf = true → takes = true ∨ o.take = false) :
    decMemM k takes w = .ok i ↔ i.wf = true ∧ ∃ o, k o = i ∧ HasBody w (encMem o) := by
  simp only [decMemM, need_eq_ok, code_eq_ok, limit_eq_ok, Bool.or_eq_true, beq_iff_eq, encMem, hasBody_encM,
    ITy.code_eq_iff, Scope.code_eq_iff, Hint.code_eq_iff, bit1_eq_iff]
  constructor
  · rintro ⟨-, scope, hs, hint, hh, h, hw⟩
    exact ⟨hw, _, h, rfl, rfl, rfl, rfl, hs, hh, rfl, rfl⟩
  · rintro ⟨hw, ⟨_, _, _, _, scope, hint, _, _⟩, rfl, rfl, rfl, rfl, rfl, hs, hh, rfl, rfl⟩
    refine ⟨(hk _ hw).imp_right fun ht => ?_, scope, hs, hint, hh, rfl, hw⟩
    exact not_not.1 fun hne => Bool.eq_false_iff.1 ht (beq_iff_eq.2 (bit_eq_one_of_ne_zero hne))

theorem decBlockM_eq_ok {k : BlockM → Instr} :
    decBlockM k w = .ok i ↔ i.wf = true ∧ ∃ o, k o = i ∧ HasBody w (encBlock o) := by
  simp only [decBlockM, need_eq_ok, code_eq_ok, limit_eq_ok, Bool.and_eq_true, beq_iff_eq, encBlock, hasBody_encM,
    Scope.code_eq_iff, Hint.code_eq_iff, BitVec.ofNat_eq_ofNat, fld_eq_ofNat_iff, ofNat_eq_fld_iff]
  constructor
  · rintro ⟨hz, scope, hs, hint, hh, h, hw⟩
    exact ⟨hw, _, h, by omega, rfl, by omega, by omega, hs, hh, by omega, rfl⟩
  · rintro ⟨hw, ⟨_, scope, hint, _⟩, h, h1, rfl, h2, h3, hs, hh, h4, rfl⟩
    exact ⟨by omega, scope, hs, hint, hh, h, hw⟩

/-- A code of an atomic operation is below 8 (R320). -/
theorem AmoOp.code_lt {c : BitVec 4} {op : AmoOp} (h : AmoOp.ofCode c = some op) : c < 8 := by
  rw [← AmoOp.code_eq_iff] at h
  subst h; cases op <;> decide

theorem decAmo_eq_ok : decAmo g w = .ok i ↔ i.wf = true ∧
    ∃ o, .amo g o = i ∧ HasBody w (encR3 o.rd o.ra o.rb 0 o.ty.code o.scope.code o.op.code o.ord.code) := by
  simp only [decAmo, need_eq_ok, code_eq_ok, limit_eq_ok, Bool.and_eq_true, decide_eq_true_eq, beq_iff_eq, hasBody_encR3,
    ITy.code_eq_iff, Scope.code_eq_iff, AmoOp.code_eq_iff, AOrd.code_eq_iff]
  constructor
  · rintro ⟨-, op, hop, hz, scope, hs, h, hw⟩
    exact ⟨hw, _, h, rfl, rfl, rfl, hz.1.symm, rfl, hs, hop, rfl, hz.2.symm⟩
  · rintro ⟨hw, ⟨_, _, _, _, scope, op, _⟩, h, rfl, rfl, rfl, h1, rfl, hs, hop, rfl, h2⟩
    exact ⟨AmoOp.code_lt hop, op, hop, ⟨h1.symm, h2.symm⟩, scope, hs, h, hw⟩

theorem decCas_eq_ok : decCas g w = .ok i ↔ i.wf = true ∧
    ∃ o, .cas g o = i ∧ HasBody w (encR3 o.rd o.ra o.rb o.rc o.ty.code o.scope.code 0 o.ord.code) := by
  simp only [decCas, need_eq_ok, code_eq_ok, limit_eq_ok, beq_iff_eq, hasBody_encR3, ITy.code_eq_iff, Scope.code_eq_iff,
    AOrd.code_eq_iff]
  constructor
  · rintro ⟨h1, h2, scope, hs, h, hw⟩
    exact ⟨hw, _, h, rfl, rfl, rfl, rfl, rfl, hs, h1.symm, rfl, h2.symm⟩
  · rintro ⟨hw, ⟨_, _, _, _, _, scope, _⟩, h, rfl, rfl, rfl, rfl, rfl, hs, h1, rfl, h2⟩
    exact ⟨h1.symm, h2.symm, scope, hs, h, hw⟩

/-- `red` takes every operation but `swap`, whose code is 0. -/
theorem AmoOp.code_ne_zero {c : BitVec 4} {op : AmoOp} (h : AmoOp.ofCode c = some op) (hs : op ≠ .swap) : c ≠ 0 := by
  rw [← AmoOp.code_eq_iff] at h
  subst h; revert hs; cases op <;> decide

theorem decRed_eq_ok : decRed g w = .ok i ↔ i.wf = true ∧
    ∃ o, .red g o = i ∧ HasBody w (encR3 0 o.ra o.rb 0 o.ty.code o.scope.code o.op.code o.ord.code) := by
  simp only [decRed, need_eq_ok, code_eq_ok, limit_eq_ok, Bool.and_eq_true, decide_eq_true_eq, beq_iff_eq, bne_iff_ne,
    hasBody_encR3, ITy.code_eq_iff, Scope.code_eq_iff, AmoOp.code_eq_iff, AOrd.code_eq_iff]
  constructor
  · rintro ⟨-, op, hop, hz, scope, hs, h, hw⟩
    exact ⟨hw, _, h, hz.1.1.symm, rfl, rfl, hz.1.2.symm, rfl, hs, hop, rfl, hz.2.symm⟩
  · rintro ⟨hw, ⟨_, _, _, scope, op, _⟩, rfl, h1, rfl, rfl, h2, rfl, hs, hop, rfl, h3⟩
    have hne : op ≠ .swap := by
      rintro rfl
      simp [Instr.wf] at hw
    exact ⟨⟨AmoOp.code_ne_zero hop hne, AmoOp.code_lt hop⟩, op, hop, ⟨⟨h1.symm, h2.symm⟩, h3.symm⟩, scope, hs, rfl, hw⟩

theorem decFence_eq_ok : decFence g w = .ok i ↔ i.wf = true ∧ ∃ o, .fence g o = i ∧
    HasBody w (o.scope.code ++ bit1 o.ld ++ bit1 o.st ++ bit1 o.acq ++ bit1 o.rel ++ bit1 o.sc ++ bit1 o.ro ++ bit1 o.eng ++ 0#30) := by
  simp only [decFence, need_eq_ok, code_eq_ok, limit_eq_ok, beq_iff_eq, HasBody]
  simp only [append_eq_fld_iff (w := w), and_assoc, Scope.code_eq_iff, bit1_eq_iff]
  constructor
  · rintro ⟨hz, scope, hs, h, hw⟩
    exact ⟨hw, _, h, hs, rfl, rfl, rfl, rfl, rfl, rfl, rfl, hz.symm⟩
  · rintro ⟨hw, ⟨scope, _, _, _, _, _, _, _⟩, h, hs, rfl, rfl, rfl, rfl, rfl, rfl, rfl, hz⟩
    exact ⟨hz.symm, scope, hs, h, hw⟩

theorem decBmask_eq_ok : decBmask g w = .ok i ↔ i.wf = true ∧ ∃ (b : BitVec 6) (ra : XReg),
    .bmask g b ra = i ∧ HasBody w (b ++ ra ++ 0#1 ++ 0#28) ∨ .bmaskRd g b ra = i ∧ HasBody w (b ++ ra ++ 1#1 ++ 0#28) := by
  simp only [decBmask, need_eq_ok, limit_eq_ok, beq_iff_eq, HasBody]
  simp only [append_eq_fld_iff (w := w), and_assoc, BitVec.ofNat_eq_ofNat, fld_eq_ofNat_iff, ofNat_eq_fld_iff]
  constructor
  · rintro ⟨hz, h, hw⟩
    split at h
    · exact ⟨hw, _, _, .inl ⟨h, rfl, rfl, by omega⟩⟩
    · exact ⟨hw, _, _, .inr ⟨h, rfl, rfl, by omega⟩⟩
  · rintro ⟨hw, _, _, ⟨h, rfl, rfl, hz⟩ | ⟨h, rfl, rfl, hz⟩⟩
    · exact ⟨by omega, by rwa [if_pos (by omega)], hw⟩
    · exact ⟨by omega, by rwa [if_neg (by omega)], hw⟩

theorem decPush_eq_ok : decPush g w = .ok i ↔ i.wf = true ∧ ∃ (q : QName) (cb : BitVec 3),
    .push g q cb = i ∧ HasBody w (encP q.code cb 0 0 0 0) ∨
    ∃ pt pf : PReg, .pushTry g q cb pt pf = i ∧ HasBody w (encP q.code cb pt pf 1 0) := by
  simp only [decPush, need_eq_ok, code_eq_ok, limit_eq_ok, Bool.and_eq_true, Bool.or_eq_true, beq_iff_eq, hasBody_encP,
    QName.code_eq_iff, BitVec.ofNat_eq_ofNat, fld_eq_ofNat_iff, ofNat_eq_fld_iff]
  constructor
  · rintro ⟨hz, hc, q, hq, h, hw⟩
    split at h
    · exact ⟨hw, q, _, .inr ⟨_, _, h, hq, rfl, rfl, rfl, by omega⟩⟩
    · exact ⟨hw, q, _, .inl ⟨h, hq, rfl, by omega⟩⟩
  · rintro ⟨hw, q, _, ⟨h, hq, rfl, hz⟩ | ⟨_, _, h, hq, rfl, rfl, rfl, hz⟩⟩
    · exact ⟨by omega, by omega, q, hq, by rwa [if_neg (by omega)], hw⟩
    · exact ⟨by omega, by omega, q, hq, by rwa [if_pos (by omega)], hw⟩

theorem decQstat_eq_ok : decQstat g w = .ok i ↔ i.wf = true ∧ ∃ (q : QName) (rd : XReg),
    .qstat g q rd = i ∧ HasBody w (encP q.code 0 0 0 0 rd) := by
  simp only [decQstat, need_eq_ok, code_eq_ok, limit_eq_ok, beq_iff_eq, hasBody_encP,
    QName.code_eq_iff, BitVec.ofNat_eq_ofNat, fld_eq_ofNat_iff, ofNat_eq_fld_iff]
  constructor
  · rintro ⟨hz, hc, q, hq, h, hw⟩
    exact ⟨hw, q, _, h, hq, by omega, by omega, by omega, by omega, rfl, by omega⟩
  · rintro ⟨hw, q, _, h, hq, h1, h2, h3, h4, rfl, h5⟩
    exact ⟨by omega, by omega, q, hq, h, hw⟩

theorem decWait_eq_ok : decWait g w = .ok i ↔ i.wf = true ∧
    ∃ o, .wait g o = i ∧ HasBody w (o.ld ++ o.st ++ o.vx ++ o.cp ++ o.tl ++ 0#20) := by
  simp only [decWait, need_eq_ok, limit_eq_ok, beq_iff_eq, HasBody]
  simp only [append_eq_fld_iff (w := w), and_assoc]
  constructor
  · rintro ⟨hz, h, hw⟩
    exact ⟨hw, _, h, rfl, rfl, rfl, rfl, rfl, hz.symm⟩
  · rintro ⟨hw, ⟨_, _, _, _, _⟩, h, rfl, rfl, rfl, rfl, rfl, hz⟩
    exact ⟨hz.symm, h, hw⟩

theorem decTagWait_eq_ok : decTagWait g w = .ok i ↔ i.wf = true ∧
    ((∃ t : BitVec 6, .twait g t = i ∧ HasBody w (0#2 ++ 0#10 ++ t ++ 0#22)) ∨
     ∃ rd ra : XReg, .tany g rd ra = i ∧ HasBody w (1#2 ++ rd ++ ra ++ 0#28) ∨
      .tfind g rd ra = i ∧ HasBody w (2#2 ++ rd ++ ra ++ 0#28)) := by
  unfold decTagWait HasBody
  simp only [append_eq_fld_iff (w := w), and_assoc, BitVec.ofNat_eq_ofNat, ofNat_eq_fld_iff, toNat_fld]
  constructor
  · intro h
    split at h <;> simp only [need_eq_ok, limit_eq_ok, Bool.and_eq_true, beq_iff_eq, fld_eq_ofNat_iff,
      reduceCtorEq] at h
    · obtain ⟨hz, h, hw⟩ := h
      exact ⟨hw, .inl ⟨_, h, by omega, by omega, rfl, by omega⟩⟩
    · obtain ⟨hz, h, hw⟩ := h
      exact ⟨hw, .inr ⟨_, _, .inl ⟨h, by omega, rfl, rfl, by omega⟩⟩⟩
    · obtain ⟨hz, h, hw⟩ := h
      exact ⟨hw, .inr ⟨_, _, .inr ⟨h, by omega, rfl, rfl, by omega⟩⟩⟩
  · rintro ⟨hw, ⟨_, h, hf, h1, rfl, h2⟩ | ⟨_, _, ⟨h, hf, rfl, rfl, h2⟩ | ⟨h, hf, rfl, rfl, h2⟩⟩⟩ <;> rw [hf] <;>
      simp only [Nat.reducePow, Nat.reduceMod, need_eq_ok, limit_eq_ok, Bool.and_eq_true, beq_iff_eq, fld_eq_ofNat_iff]
    · exact ⟨by omega, h, hw⟩
    · exact ⟨by omega, h, hw⟩
    · exact ⟨by omega, h, hw⟩

theorem decArrival_eq_ok : decArrival g w = .ok i ↔ i.wf = true ∧
    ((∃ (n : BitVec 6) (ra : XReg), .abinit g n ra = i ∧ HasBody w (0#2 ++ n ++ ra ++ 0#27) ∨
      .abinitReset g n ra = i ∧ HasBody w (1#2 ++ n ++ ra ++ 0#27)) ∨
     ∃ n : BitVec 6, .abwait g n = i ∧ HasBody w (2#2 ++ n ++ 0#32)) := by
  unfold decArrival HasBody
  simp only [append_eq_fld_iff (w := w), and_assoc, BitVec.ofNat_eq_ofNat, ofNat_eq_fld_iff, toNat_fld]
  constructor
  · intro h
    split at h <;> simp only [need_eq_ok, limit_eq_ok, Bool.and_eq_true, beq_iff_eq, fld_eq_ofNat_iff,
      reduceCtorEq] at h
    · obtain ⟨hz, h, hw⟩ := h
      exact ⟨hw, .inl ⟨_, _, .inl ⟨h, by omega, rfl, rfl, by omega⟩⟩⟩
    · obtain ⟨hz, h, hw⟩ := h
      exact ⟨hw, .inl ⟨_, _, .inr ⟨h, by omega, rfl, rfl, by omega⟩⟩⟩
    · obtain ⟨hz, h, hw⟩ := h
      exact ⟨hw, .inr ⟨_, h, by omega, rfl, by omega⟩⟩
  · rintro ⟨hw, ⟨_, _, ⟨h, hf, rfl, rfl, h2⟩ | ⟨h, hf, rfl, rfl, h2⟩⟩ | ⟨_, h, hf, rfl, h2⟩⟩ <;> rw [hf] <;>
      simp only [Nat.reducePow, Nat.reduceMod, need_eq_ok, limit_eq_ok, Bool.and_eq_true, beq_iff_eq, fld_eq_ofNat_iff]
    · exact ⟨by omega, h, hw⟩
    · exact ⟨by omega, h, hw⟩
    · exact ⟨by omega, h, hw⟩

theorem decHandleR_eq_ok : decHandleR g w = .ok i ↔ i.wf = true ∧ ∃ (h hs : HReg) (x : XReg) (f : BitVec 4),
    .hset g h f x = i ∧ HasBody w (encHReg 0 h 0 x f) ∨ .hget g x h f = i ∧ HasBody w (encHReg 1 h 0 x f) ∨
    .hmov g h hs = i ∧ HasBody w (encHReg 2 h hs 0 0) ∨ .hadv g h x = i ∧ HasBody w (encHReg 3 h 0 x 0) := by
  simp only [decHandleR, need_eq_ok, beq_iff_eq, hasBody_encHReg, BitVec.ofNat_eq_ofNat, ofNat_eq_fld_iff, fld_eq_ofNat_iff,
    toNat_fld]
  constructor
  · rintro ⟨hz, h⟩
    have hn : w.toNat / 2 ^ 38 % 2 ^ 2 = 0 ∨ w.toNat / 2 ^ 38 % 2 ^ 2 = 1 ∨ w.toNat / 2 ^ 38 % 2 ^ 2 = 2 ∨
      w.toNat / 2 ^ 38 % 2 ^ 2 = 3 := by omega
    rcases hn with hn | hn | hn | hn <;> simp only [hn, need_eq_ok, limit_eq_ok, Bool.and_eq_true, beq_iff_eq,
      fld_eq_ofNat_iff] at h <;> obtain ⟨hc, h, hw⟩ := h <;>
      refine ⟨hw, fld w 34 4, fld w 30 4, fld w 25 5, fld w 21 4, ?_⟩
    · exact .inl ⟨h, by omega, rfl, by omega, rfl, rfl, by omega⟩
    · exact .inr (.inl ⟨h, by omega, rfl, by omega, rfl, rfl, by omega⟩)
    · exact .inr (.inr (.inl ⟨h, by omega, rfl, rfl, by omega⟩))
    · exact .inr (.inr (.inr ⟨h, by omega, rfl, by omega, rfl, by omega⟩))
  · rintro ⟨hw, _, _, _, _, ⟨h, hf, rfl, h1, rfl, rfl, h2⟩ | ⟨h, hf, rfl, h1, rfl, rfl, h2⟩ | ⟨h, hf, rfl, rfl, h2⟩ |
      ⟨h, hf, rfl, h1, rfl, h2⟩⟩ <;> rw [hf] <;>
      simp only [Nat.reducePow, Nat.reduceMod, need_eq_ok, limit_eq_ok, Bool.and_eq_true, beq_iff_eq, fld_eq_ofNat_iff]
    · exact ⟨by omega, by omega, h, hw⟩
    · exact ⟨by omega, by omega, h, hw⟩
    · exact ⟨by omega, by omega, h, hw⟩
    · exact ⟨by omega, by omega, h, hw⟩

theorem decHandleM_eq_ok : decHandleM g w = .ok i ↔ i.wf = true ∧ ∃ o,
    .hld g o = i ∧ HasBody w (encHMem 0 o) ∨ .hst g o = i ∧ HasBody w (encHMem 1 o) := by
  simp only [decHandleM, need_eq_ok, code_eq_ok, limit_eq_ok, Bool.and_eq_true, beq_iff_eq, hasBody_encHMem,
    Scope.code_eq_iff, Hint.code_eq_iff, bit1_eq_iff]
  constructor
  · rintro ⟨hz, scope, hs, hint, hh, h, hw⟩
    split at h
    · next hd => exact ⟨hw, _, .inl ⟨h, hd.symm, rfl, rfl, hz.1.symm, rfl, hs, hh, hz.2.symm, rfl⟩⟩
    · next hd =>
      exact ⟨hw, _, .inr ⟨h, (bit_eq_one_of_ne_zero hd).symm, rfl, rfl, hz.1.symm, rfl, hs, hh, hz.2.symm, rfl⟩⟩
  · rintro ⟨hw, ⟨_, _, _, scope, hint, _⟩, ⟨h, hd, rfl, rfl, h1, rfl, hs, hh, h2, rfl⟩ | ⟨h, hd, rfl, rfl, h1, rfl, hs, hh, h2, rfl⟩⟩
    · exact ⟨⟨h1.symm, h2.symm⟩, scope, hs, hint, hh, by rw [← hd]; exact h, hw⟩
    · exact ⟨⟨h1.symm, h2.symm⟩, scope, hs, hint, hh, by rw [← hd]; exact h, hw⟩

end Access

/-! ## Vector words (R82) -/

section Vector

variable {g : Guard} {w : Word} {i : Instr}

theorem hasBody_encV_dest {d : VHandle} {a b c : BitVec 7} {rm : BitVec 3} {fn : BitVec 4} {aux : BitVec 7} :
    HasBody w (encV d.h (bit1 d.adv) a b c rm fn aux) ↔ d = vDest w ∧ a = slotA w ∧ b = slotB w ∧ c = slotC w ∧
      rm = vRm w ∧ fn = vFn w ∧ aux = vAux w := by
  obtain ⟨h, adv⟩ := d
  rw [hasBody_encV, bit1_eq_iff, ← and_assoc, vDest, VHandle.mk.injEq]

theorem decVecR2_eq_ok {k : VecR2 → Instr} :
    decVecR2 k w = .ok i ↔ i.wf = true ∧ ∃ o, k o = i ∧ HasBody w (encVecR2 o) := by
  simp only [decVecR2, need_eq_ok, code_eq_ok, limit_eq_ok, Bool.and_eq_true, beq_iff_eq, encVecR2, hasBody_encV_dest,
    encSlot_eq_iff, Rm.code_eq_iff]
  constructor
  · rintro ⟨hf, ⟨hc, hx⟩, a, ha, b, hb, rm, hrm, h, hw⟩
    exact ⟨hw, _, h, rfl, ha, hb, hc.symm, hrm, hf.symm, hx.symm⟩
  · rintro ⟨hw, ⟨_, a, b, rm⟩, h, rfl, ha, hb, hc, hrm, hf, hx⟩
    exact ⟨hf.symm, ⟨hc.symm, hx.symm⟩, a, ha, b, hb, rm, hrm, h, hw⟩

theorem decVfma_eq_ok : decVfma g w = .ok i ↔ i.wf = true ∧ ∃ o, .vfma g o = i ∧
    HasBody w (encV o.d.h (bit1 o.d.adv) (encSlotH o.a) (encSlot o.b) (encSlot o.c) o.rm.code 0 0) := by
  simp only [decVfma, need_eq_ok, code_eq_ok, limit_eq_ok, beq_iff_eq, hasBody_encV_dest, encSlot_eq_iff, encSlotH_eq_iff,
    Rm.code_eq_iff]
  constructor
  · rintro ⟨hf, hx, a, ha, b, hb, c, hc, rm, hrm, h, hw⟩
    exact ⟨hw, _, h, rfl, ha, hb, hc, hrm, hf.symm, hx.symm⟩
  · rintro ⟨hw, ⟨_, a, b, c, rm⟩, h, rfl, ha, hb, hc, hrm, hf, hx⟩
    exact ⟨hf.symm, hx.symm, a, ha, b, hb, c, hc, rm, hrm, h, hw⟩

/-- Where two sub-functions are assigned, a word that is not of the first is of the second. -/
theorem eq_one_of_ne_zero {f : BitVec 4} (h : f = 0 ∨ f = 1) (h0 : f ≠ 0) : f = 1 := h.resolve_left h0

theorem decVmin_eq_ok : decVmin g w = .ok i ↔ i.wf = true ∧ ∃ o,
    .vmin g o = i ∧ HasBody w (encVecMin o 0) ∨ .vmax g o = i ∧ HasBody w (encVecMin o 1) := by
  simp only [decVmin, need_eq_ok, code_eq_ok, limit_eq_ok, Bool.and_eq_true, Bool.or_eq_true, beq_iff_eq, encVecMin,
    hasBody_encV_dest, encSlot_eq_iff]
  constructor
  · rintro ⟨hf, ⟨hc, hx⟩, hrm, a, ha, b, hb, h, hw⟩
    split at h
    · next h0 => exact ⟨hw, _, .inl ⟨h, rfl, ha, hb, hc.symm, hrm.symm, h0.symm, hx.symm⟩⟩
    · next h0 => exact ⟨hw, _, .inr ⟨h, rfl, ha, hb, hc.symm, hrm.symm, (eq_one_of_ne_zero hf h0).symm, hx.symm⟩⟩
  · rintro ⟨hw, ⟨_, a, b⟩, ⟨h, rfl, ha, hb, hc, hrm, hf, hx⟩ | ⟨h, rfl, ha, hb, hc, hrm, hf, hx⟩⟩ <;> rw [← hf] <;>
      exact ⟨by simp, ⟨hc.symm, hx.symm⟩, hrm.symm, a, ha, b, hb, h, hw⟩

theorem decVabs_eq_ok : decVabs g w = .ok i ↔ i.wf = true ∧ ∃ o,
    .vabs g o = i ∧ HasBody w (encVecU o 0) ∨ .vneg g o = i ∧ HasBody w (encVecU o 1) := by
  simp only [decVabs, need_eq_ok, code_eq_ok, limit_eq_ok, Bool.and_eq_true, Bool.or_eq_true, beq_iff_eq, encVecU,
    hasBody_encV_dest, encSlotH_eq_iff]
  constructor
  · rintro ⟨hf, ⟨⟨hb, hc⟩, hx⟩, hrm, a, ha, h, hw⟩
    split at h
    · next h0 => exact ⟨hw, _, .inl ⟨h, rfl, ha, hb.symm, hc.symm, hrm.symm, h0.symm, hx.symm⟩⟩
    · next h0 => exact ⟨hw, _, .inr ⟨h, rfl, ha, hb.symm, hc.symm, hrm.symm, (eq_one_of_ne_zero hf h0).symm, hx.symm⟩⟩
  · rintro ⟨hw, ⟨_, a⟩, ⟨h, rfl, ha, hb, hc, hrm, hf, hx⟩ | ⟨h, rfl, ha, hb, hc, hrm, hf, hx⟩⟩ <;> rw [← hf] <;>
      exact ⟨by simp, ⟨⟨hb.symm, hc.symm⟩, hx.symm⟩, hrm.symm, a, ha, h, hw⟩

theorem decVecF_eq_ok : decVecF g w = .ok i ↔ i.wf = true ∧ ∃ o,
    .vexp2 g o = i ∧ HasBody w (encVecF o 0) ∨ .vlog2 g o = i ∧ HasBody w (encVecF o 1) ∨
    .vrcp g o = i ∧ HasBody w (encVecF o 2) ∨ .vrsq g o = i ∧ HasBody w (encVecF o 3) ∨
    .vtanh g o = i ∧ HasBody w (encVecF o 4) := by
  simp only [decVecF, need_eq_ok, code_eq_ok, limit_eq_ok, Bool.and_eq_true, decide_eq_true_eq, beq_iff_eq, encVecF,
    hasBody_encV_dest, encSlotH_eq_iff, Rm.code_eq_iff]
  generalize vFn w = f
  constructor
  · rintro ⟨hf, ⟨⟨hb, hc⟩, hx⟩, a, ha, rm, hrm, h, hw⟩
    have hn : f = 0 ∨ f = 1 ∨ f = 2 ∨ f = 3 ∨ f = 4 := by bv_omega
    refine ⟨hw, ⟨vDest w, a, rm⟩, ?_⟩
    rcases hn with rfl | rfl | rfl | rfl | rfl
    · exact .inl ⟨h, rfl, ha, hb.symm, hc.symm, hrm, rfl, hx.symm⟩
    · exact .inr (.inl ⟨h, rfl, ha, hb.symm, hc.symm, hrm, rfl, hx.symm⟩)
    · exact .inr (.inr (.inl ⟨h, rfl, ha, hb.symm, hc.symm, hrm, rfl, hx.symm⟩))
    · exact .inr (.inr (.inr (.inl ⟨h, rfl, ha, hb.symm, hc.symm, hrm, rfl, hx.symm⟩)))
    · exact .inr (.inr (.inr (.inr ⟨h, rfl, ha, hb.symm, hc.symm, hrm, rfl, hx.symm⟩)))
  · rintro ⟨hw, ⟨_, a, rm⟩, h | h | h | h | h⟩ <;> obtain ⟨h, rfl, ha, hb, hc, hrm, rfl, hx⟩ := h <;>
      exact ⟨by decide, ⟨⟨hb.symm, hc.symm⟩, hx.symm⟩, a, ha, rm, hrm, h, hw⟩

theorem encSlotX_ne_zero {r : XReg} : encSlotX r ≠ 0 := by revert r; decide

/-- An optional scalar slot: its aux bit says whether it is there. -/
theorem optX_eq_ok {β : Type} {p : Bool} {s : BitVec 7} {k : Option XReg → Dec β} {b : β} :
    optX p s k = .ok b ↔ ∃ o, encOptX o = s ∧ o.isSome = p ∧ k o = .ok b := by
  cases p with
  | false =>
    simp only [optX, Bool.false_eq_true, if_false, need_eq_ok, beq_iff_eq]
    exact ⟨fun ⟨hs, h⟩ => ⟨none, hs.symm, rfl, h⟩, fun ⟨o, hs, hp, h⟩ => by
      obtain rfl := Option.isSome_eq_false_iff.1 hp |> Option.isNone_iff_eq_none.1
      exact ⟨hs.symm, h⟩⟩
  | true =>
    simp only [optX, if_true, code_eq_ok, ← encSlotX_eq_iff]
    exact ⟨fun ⟨r, hs, h⟩ => ⟨some r, hs, rfl, h⟩, fun ⟨o, hs, hp, h⟩ => by
      obtain ⟨r, rfl⟩ := Option.isSome_iff_exists.1 hp
      exact ⟨r, hs, h⟩⟩

theorem decVcvt_eq_ok : decVcvt g w = .ok i ↔ i.wf = true ∧ ∃ o, .vcvt g o = i ∧
    HasBody w (encV o.d.h (bit1 o.d.adv) (encSlotH o.a) (encOptX o.scale) (encOptX o.clip) o.rm.code 0
      (0#5 ++ bit1 o.clip.isSome ++ bit1 o.scale.isSome)) := by
  unfold decVcvt
  simp only [need_eq_ok, code_eq_ok, optX_eq_ok, limit_eq_ok, beq_iff_eq, hasBody_encV_dest, encSlotH_eq_iff, Rm.code_eq_iff]
  unfold vAux
  simp only [append_eq_fld_iff (w := w), and_assoc, bit1_eq_iff]
  constructor
  · rintro ⟨hf, hx, a, ha, sc, hsc, hsp, cl, hcl, hcp, rm, hrm, h, hw⟩
    exact ⟨hw, _, h, rfl, ha, hsc, hcl, hrm, hf.symm, hx.symm, hcp, hsp⟩
  · rintro ⟨hw, ⟨_, a, sc, cl, rm⟩, h, rfl, ha, hsc, hcl, hrm, hf, hx, hcp, hsp⟩
    exact ⟨hf.symm, hx.symm, a, ha, sc, hsc, hsp, cl, hcl, hcp, rm, hrm, h, hw⟩

theorem decVquant_eq_ok : decVquant g w = .ok i ↔ i.wf = true ∧ ∃ o, .vquant g o = i ∧ HasBody w (encVquant o) := by
  unfold decVquant encVquant
  simp only [need_eq_ok, code_eq_ok, optX_eq_ok, beq_iff_eq, hasBody_encV_dest, encSlotH_eq_iff, Rm.code_eq_iff]
  unfold vAux
  simp only [append_eq_fld_iff (w := w), and_assoc, bit1_eq_iff]
  constructor
  · rintro ⟨hf, hx, a, ha, sc, hsc, hsp, am, ham, hap, rm, hrm, h⟩
    cases am with
    | none =>
      simp only [need_eq_ok, limit_eq_ok, beq_iff_eq] at h
      obtain ⟨hs, h, hw⟩ := h
      exact ⟨hw, _, h, rfl, ha, hsc, ham, hrm, hf.symm, hx.symm, hs.symm, hap, rfl, hsp⟩
    | some x =>
      simp only [code_eq_ok, limit_eq_ok, ← Scope.code_eq_iff] at h
      obtain ⟨s, hs, h, hw⟩ := h
      exact ⟨hw, _, h, rfl, ha, hsc, ham, hrm, hf.symm, hx.symm, hs, hap, rfl, hsp⟩
  · rintro ⟨hw, ⟨_, a, sc, cs, am, rm⟩, h, rfl, ha, hsc, ham, hrm, hf, hx, hs, hap, rfl, hsp⟩
    refine ⟨hf.symm, hx.symm, a, ha, sc, hsc, hsp, am.map Prod.fst, ham, by simpa using hap, rm, hrm, ?_⟩
    cases am with
    | none => exact need_eq_ok.2 ⟨by rw [← hs]; rfl, limit_eq_ok.2 ⟨h, hw⟩⟩
    | some x => exact code_eq_ok.2 ⟨x.2, Scope.code_eq_iff.1 hs, limit_eq_ok.2 ⟨h, hw⟩⟩

theorem decVred_eq_ok : decVred g w = .ok i ↔ i.wf = true ∧ ∃ o,
    .vamax g o = i ∧ HasBody w (encVecRed o 0) ∨ .vred g o = i ∧ HasBody w (encVecRed o 1) := by
  have hd : fld w 35 5 = 0#5 ↔ 0#4 = fld w 36 4 ∧ 0#1 = fld w 35 1 := by
    simp only [fld_eq_ofNat_iff, ofNat_eq_fld_iff]; omega
  unfold decVred encVecRed
  simp only [need_eq_ok, code_eq_ok, limit_eq_ok, Bool.and_eq_true, Bool.or_eq_true, beq_iff_eq, hasBody_encV,
    encSlotH_eq_iff, encSlotX_eq_iff, Rm.code_eq_iff, BitVec.ofNat_eq_ofNat, hd]
  unfold vAux
  simp only [append_eq_fld_iff (w := w)]
  constructor
  · rintro ⟨hf, ⟨⟨hd, hc⟩, hx⟩, a, ha, x, hb, rm, hrm, h, hw⟩
    split at h
    · next h0 => exact ⟨hw, _, .inl ⟨h, hd.1, hd.2, ha, hb, hc.symm, hrm, h0.symm, hx.symm, rfl⟩⟩
    · next h0 => exact ⟨hw, _, .inr ⟨h, hd.1, hd.2, ha, hb, hc.symm, hrm, (eq_one_of_ne_zero hf h0).symm, hx.symm, rfl⟩⟩
  · rintro ⟨hw, ⟨_, a, x, rm⟩, ⟨h, hd, hm, ha, hb, hc, hrm, hf, hx, rfl⟩ | ⟨h, hd, hm, ha, hb, hc, hrm, hf, hx, rfl⟩⟩ <;>
      rw [← hf] <;> exact ⟨by simp, ⟨⟨⟨hd, hm⟩, hc.symm⟩, hx.symm⟩, a, ha, x, hb, rm, hrm, h, hw⟩

theorem decVcmp_eq_ok : decVcmp g w = .ok i ↔ i.wf = true ∧ ∃ o, .vcmp g o = i ∧
    HasBody w (encV (0#1 ++ o.pt) 0 (encSlotH o.a) (encSlot o.b) 0 0 o.cond.code (o.pf ++ o.wm.code ++ 0#2)) := by
  unfold decVcmp
  simp only [need_eq_ok, code_eq_ok, limit_eq_ok, Bool.and_eq_true, beq_iff_eq, hasBody_encV, encSlotH_eq_iff,
    encSlot_eq_iff, Cond.code_eq_iff]
  unfold vAux
  simp only [append_eq_fld_iff (w := w), Wm.code_eq_iff]
  constructor
  · rintro ⟨⟨⟨⟨hm, h39⟩, hc⟩, hx⟩, hrm, cond, hcond, a, ha, b, hb, h, hw⟩
    exact ⟨hw, _, h, ⟨h39.symm, rfl⟩, hm.symm, ha, hb, hc.symm, hrm.symm, hcond, ⟨rfl, rfl⟩, hx.symm⟩
  · rintro ⟨hw, ⟨_, _, _, cond, a, b⟩, h, ⟨h39, rfl⟩, hm, ha, hb, hc, hrm, hcond, ⟨rfl, rfl⟩, hx⟩
    exact ⟨⟨⟨⟨hm.symm, h39.symm⟩, hc.symm⟩, hx.symm⟩, hrm.symm, cond, hcond, a, ha, b, hb, h, hw⟩

theorem decVsel_eq_ok : decVsel g w = .ok i ↔ i.wf = true ∧ ∃ o, .vsel g o = i ∧
    HasBody w (encV o.d.h (bit1 o.d.adv) (encSlot o.a) (encSlot o.b) (encSlotP o.sel) 0 0 0) := by
  simp only [decVsel, need_eq_ok, code_eq_ok, limit_eq_ok, beq_iff_eq, hasBody_encV_dest, encSlot_eq_iff, encSlotP_eq_iff]
  constructor
  · rintro ⟨hf, hx, hrm, sel, hc, a, ha, b, hb, h, hw⟩
    exact ⟨hw, _, h, rfl, ha, hb, hc, hrm.symm, hf.symm, hx.symm⟩
  · rintro ⟨hw, ⟨_, sel, a, b⟩, h, rfl, ha, hb, hc, hrm, hf, hx⟩
    exact ⟨hf.symm, hx.symm, hrm.symm, sel, hc, a, ha, b, hb, h, hw⟩

theorem decVperm_eq_ok : decVperm g w = .ok i ↔ i.wf = true ∧
    ((∃ o, .vperm g o = i ∧ HasBody w (encV o.d.h (bit1 o.d.adv) (encSlotH o.a) (encSlotH o.ix) 0 0 0 0)) ∨
     ∃ o, .vbcast g o = i ∧ HasBody w (encV o.d.h (bit1 o.d.adv) (encSlotH o.a) (encSlotX o.x) 0 0 1 0)) := by
  simp only [decVperm, need_eq_ok, code_eq_ok, Bool.and_eq_true, Bool.or_eq_true, beq_iff_eq, hasBody_encV_dest, encSlotH_eq_iff,
    encSlotX_eq_iff]
  constructor
  · rintro ⟨hf, ⟨hc, hx⟩, hrm, a, ha, h⟩
    split at h
    · next h0 =>
      simp only [code_eq_ok, limit_eq_ok] at h
      obtain ⟨ix, hb, h, hw⟩ := h
      exact ⟨hw, .inl ⟨_, h, rfl, ha, hb, hc.symm, hrm.symm, h0.symm, hx.symm⟩⟩
    · next h0 =>
      simp only [code_eq_ok, limit_eq_ok] at h
      obtain ⟨x, hb, h, hw⟩ := h
      exact ⟨hw, .inr ⟨_, h, rfl, ha, hb, hc.symm, hrm.symm, (eq_one_of_ne_zero hf h0).symm, hx.symm⟩⟩
  · rintro ⟨hw, ⟨⟨_, a, b⟩, h, rfl, ha, hb, hc, hrm, hf, hx⟩ | ⟨⟨_, a, b⟩, h, rfl, ha, hb, hc, hrm, hf, hx⟩⟩ <;> rw [← hf] <;>
      exact ⟨by simp, ⟨hc.symm, hx.symm⟩, hrm.symm, a, ha, code_eq_ok.2 ⟨b, hb, limit_eq_ok.2 ⟨h, hw⟩⟩⟩

theorem decVmov_eq_ok : decVmov g w = .ok i ↔ i.wf = true ∧
    ((∃ o, .vmov g o = i ∧ HasBody w (encVecMov o 0) ∨ .vfill g o = i ∧ HasBody w (encVecMov o 1)) ∨
     ∃ d, .vempty g d = i ∧ HasBody w (encV d.h (bit1 d.adv) 0 0 0 0 2 0)) := by
  unfold decVmov encVecMov
  simp only [need_eq_ok, Bool.and_eq_true, decide_eq_true_eq, beq_iff_eq, hasBody_encV_dest, encSlot_eq_iff]
  generalize vFn w = f
  constructor
  · rintro ⟨hf, ⟨⟨hb, hc⟩, hx⟩, hrm, h⟩
    have hn : f = 0 ∨ f = 1 ∨ f = 2 := by bv_omega
    rcases hn with rfl | rfl | rfl
    · obtain ⟨a, ha, h⟩ := code_eq_ok.1 h
      obtain ⟨h, hw⟩ := limit_eq_ok.1 h
      exact ⟨hw, .inl ⟨_, .inl ⟨h, rfl, ha, hb.symm, hc.symm, hrm.symm, rfl, hx.symm⟩⟩⟩
    · obtain ⟨a, ha, h⟩ := code_eq_ok.1 h
      obtain ⟨h, hw⟩ := limit_eq_ok.1 h
      exact ⟨hw, .inl ⟨_, .inr ⟨h, rfl, ha, hb.symm, hc.symm, hrm.symm, rfl, hx.symm⟩⟩⟩
    · obtain ⟨ha, h⟩ := need_eq_ok.1 h
      obtain ⟨h, hw⟩ := limit_eq_ok.1 h
      exact ⟨hw, .inr ⟨_, h, rfl, (beq_iff_eq.1 ha).symm, hb.symm, hc.symm, hrm.symm, rfl, hx.symm⟩⟩
  · rintro ⟨hw, ⟨⟨_, a⟩, ⟨h, rfl, ha, hb, hc, hrm, rfl, hx⟩ | ⟨h, rfl, ha, hb, hc, hrm, rfl, hx⟩⟩ |
      ⟨_, h, rfl, ha, hb, hc, hrm, rfl, hx⟩⟩
    · exact ⟨by decide, ⟨⟨hb.symm, hc.symm⟩, hx.symm⟩, hrm.symm, code_eq_ok.2 ⟨a, ha, limit_eq_ok.2 ⟨h, hw⟩⟩⟩
    · exact ⟨by decide, ⟨⟨hb.symm, hc.symm⟩, hx.symm⟩, hrm.symm, code_eq_ok.2 ⟨a, ha, limit_eq_ok.2 ⟨h, hw⟩⟩⟩
    · exact ⟨by decide, ⟨⟨hb.symm, hc.symm⟩, hx.symm⟩, hrm.symm, need_eq_ok.2 ⟨beq_iff_eq.2 ha.symm, limit_eq_ok.2 ⟨h, hw⟩⟩⟩

theorem decVplog_eq_ok : decVplog g w = .ok i ↔ i.wf = true ∧ ∃ o, .vplog g o = i ∧
    HasBody w ((0#1 ++ o.pd) ++ 0#1 ++ encSlotP o.sa ++ encSlotP o.sb ++ (0#3 ++ o.sc) ++ o.table ++ 0#7) := by
  unfold decVplog encSlotP HasBody
  simp only [need_eq_ok, limit_eq_ok, Bool.and_eq_true, beq_iff_eq]
  simp only [append_eq_fld_iff (w := w)]
  constructor
  · rintro ⟨⟨⟨⟨⟨⟨⟨⟨h1, h2⟩, h3⟩, h4⟩, h5⟩, h6⟩, h7⟩, h8⟩, h, hw⟩
    exact ⟨hw, _, h, ⟨⟨⟨⟨⟨⟨h1.symm, rfl⟩, h2.symm⟩, ⟨h3.symm, rfl⟩, h4.symm⟩, ⟨h5.symm, rfl⟩, h6.symm⟩, h7.symm, rfl⟩, rfl⟩,
      h8.symm⟩
  · rintro ⟨hw, ⟨_, _, _, _, _⟩, h, ⟨⟨⟨⟨⟨⟨h1, rfl⟩, h2⟩, ⟨h3, rfl⟩, h4⟩, ⟨h5, rfl⟩, h6⟩, h7, rfl⟩, rfl⟩, h8⟩
    exact ⟨⟨⟨⟨⟨⟨⟨⟨h1.symm, h2.symm⟩, h3.symm⟩, h4.symm⟩, h5.symm⟩, h6.symm⟩, h7.symm⟩, h8.symm⟩, h, hw⟩

theorem decVpred_eq_ok : decVpred g w = .ok i ↔ i.wf = true ∧
    ((∃ o, .vpcnt g o = i ∧ HasBody w (encV 0 0 (encSlotP o.a) (encSlotX o.rd) 0 0 0 0) ∨
      .vpfirst g o = i ∧ HasBody w (encV 0 0 (encSlotP o.a) (encSlotX o.rd) 0 0 1 0)) ∨
     (∃ o, .vpmovFromX g o = i ∧ HasBody w (encV (0#1 ++ o.pd) 0 0 (encSlotX o.x) 0 0 2 (0#4 ++ bit1 o.keep ++ o.q))) ∨
     ∃ o, .vpmovToX g o = i ∧ HasBody w (encV 0 0 (encSlotP o.a) (encSlotX o.rd) 0 0 3 (0#5 ++ o.q))) := by
  have hd : fld w 35 5 = 0#5 ↔ 0#4 = fld w 36 4 ∧ 0#1 = fld w 35 1 := by
    simp only [fld_eq_ofNat_iff, ofNat_eq_fld_iff]; omega
  have hx0 : fld w 3 4 = 0#4 ∧ fld w 0 3 = 0#3 ↔ 0#7 = fld w 0 7 := by
    simp only [fld_eq_ofNat_iff, ofNat_eq_fld_iff]; omega
  have hx3 : fld w 3 4 = 0#4 ∧ fld w 2 1 = 0#1 ↔ 0#5 = fld w 2 5 := by
    simp only [fld_eq_ofNat_iff, ofNat_eq_fld_iff]; omega
  unfold decVpred
  simp only [need_eq_ok, code_eq_ok, Bool.and_eq_true, decide_eq_true_eq, beq_iff_eq, hasBody_encV, encSlotP_eq_iff, encSlotX_eq_iff,
    BitVec.ofNat_eq_ofNat]
  unfold vAux
  simp only [append_eq_fld_iff (w := w), bit1_eq_iff]
  generalize vFn w = f
  constructor
  · rintro ⟨hf, ⟨hc, hx⟩, hrm, x, hb, h⟩
    have hn : f = 0 ∨ f = 1 ∨ f = 2 ∨ f = 3 := by bv_omega
    rcases hn with rfl | rfl | rfl | rfl
    · obtain ⟨h0, h⟩ := need_eq_ok.1 h
      obtain ⟨a, ha, h⟩ := code_eq_ok.1 h
      obtain ⟨h, hw⟩ := limit_eq_ok.1 h
      simp only [Bool.and_eq_true, beq_iff_eq, hd] at h0
      exact ⟨hw, .inl ⟨_, .inl ⟨h, h0.1.1, h0.1.2, ha, hb, hc.symm, hrm.symm, rfl, hx0.1 ⟨hx, h0.2⟩⟩⟩⟩
    · obtain ⟨h0, h⟩ := need_eq_ok.1 h
      obtain ⟨a, ha, h⟩ := code_eq_ok.1 h
      obtain ⟨h, hw⟩ := limit_eq_ok.1 h
      simp only [Bool.and_eq_true, beq_iff_eq, hd] at h0
      exact ⟨hw, .inl ⟨_, .inr ⟨h, h0.1.1, h0.1.2, ha, hb, hc.symm, hrm.symm, rfl, hx0.1 ⟨hx, h0.2⟩⟩⟩⟩
    · obtain ⟨h0, h⟩ := need_eq_ok.1 h
      obtain ⟨h, hw⟩ := limit_eq_ok.1 h
      simp only [Bool.and_eq_true, beq_iff_eq] at h0
      exact ⟨hw, .inr (.inl ⟨_, h, ⟨h0.2.symm, rfl⟩, h0.1.2.symm, h0.1.1.symm, hb, hc.symm, hrm.symm, rfl, ⟨hx.symm, rfl⟩, rfl⟩)⟩
    · obtain ⟨h0, h⟩ := need_eq_ok.1 h
      obtain ⟨a, ha, h⟩ := code_eq_ok.1 h
      obtain ⟨h, hw⟩ := limit_eq_ok.1 h
      simp only [Bool.and_eq_true, beq_iff_eq, hd] at h0
      exact ⟨hw, .inr (.inr ⟨_, h, h0.1.1, h0.1.2, ha, hb, hc.symm, hrm.symm, rfl, hx3.1 ⟨hx, h0.2⟩, rfl⟩)⟩
  · rintro ⟨hw, ⟨⟨x, a⟩, h⟩ | ⟨⟨_, _, _, x⟩, h, ⟨h39, rfl⟩, hm, ha, hb, hc, hrm, rfl, ⟨hx, rfl⟩, rfl⟩ |
      ⟨⟨x, _, a⟩, h, hd', hm, ha, hb, hc, hrm, rfl, hx, rfl⟩⟩
    · rcases h with ⟨h, hd', hm, ha, hb, hc, hrm, rfl, hx⟩ | ⟨h, hd', hm, ha, hb, hc, hrm, rfl, hx⟩ <;>
        exact ⟨by decide, ⟨hc.symm, (hx0.2 hx).1⟩, hrm.symm, x, hb, need_eq_ok.2 ⟨by
          simp only [Bool.and_eq_true, beq_iff_eq, hd]; exact ⟨⟨hd', hm⟩, (hx0.2 hx).2⟩,
          code_eq_ok.2 ⟨a, ha, limit_eq_ok.2 ⟨h, hw⟩⟩⟩⟩
    · exact ⟨by decide, ⟨hc.symm, hx.symm⟩, hrm.symm, x, hb, need_eq_ok.2 ⟨by
        simp only [Bool.and_eq_true, beq_iff_eq]; exact ⟨⟨ha.symm, hm.symm⟩, h39.symm⟩,
        limit_eq_ok.2 ⟨h, hw⟩⟩⟩
    · exact ⟨by decide, ⟨hc.symm, (hx3.2 hx).1⟩, hrm.symm, x, hb, need_eq_ok.2 ⟨by
        simp only [Bool.and_eq_true, beq_iff_eq, hd]; exact ⟨⟨hd', hm⟩, (hx3.2 hx).2⟩,
        code_eq_ok.2 ⟨a, ha, limit_eq_ok.2 ⟨h, hw⟩⟩⟩⟩

end Vector

/-! ## Control registers, system words, scheduling -/

section System

variable {g : Guard} {w : Word} {i : Instr}

theorem decCsr_eq_ok : decCsr g w = .ok i ↔ i.wf = true ∧
    ((∃ rd n, .csrr g rd n = i ∧ HasBody w (encCsr 0 { rd := rd, ra := 0, csr := n })) ∨
     ∃ o, .csrw g o = i ∧ HasBody w (encCsr 1 o) ∨ .csrset g o = i ∧ HasBody w (encCsr 2 o) ∨
      .csrclr g o = i ∧ HasBody w (encCsr 3 o)) := by
  unfold decCsr
  simp only [need_eq_ok, beq_iff_eq, hasBody_encCsr]
  generalize fld w 38 2 = f
  constructor
  · rintro ⟨hz, h⟩
    have hn : f = 0 ∨ f = 1 ∨ f = 2 ∨ f = 3 := by bv_omega
    rcases hn with rfl | rfl | rfl | rfl
    · obtain ⟨h0, h⟩ := need_eq_ok.1 h
      obtain ⟨h, hw⟩ := limit_eq_ok.1 h
      exact ⟨hw, .inl ⟨_, _, h, rfl, rfl, (beq_iff_eq.1 h0).symm, rfl, hz.symm⟩⟩
    · obtain ⟨h, hw⟩ := limit_eq_ok.1 h
      exact ⟨hw, .inr ⟨_, .inl ⟨h, rfl, rfl, rfl, rfl, hz.symm⟩⟩⟩
    · obtain ⟨h, hw⟩ := limit_eq_ok.1 h
      exact ⟨hw, .inr ⟨_, .inr (.inl ⟨h, rfl, rfl, rfl, rfl, hz.symm⟩)⟩⟩
    · obtain ⟨h, hw⟩ := limit_eq_ok.1 h
      exact ⟨hw, .inr ⟨_, .inr (.inr ⟨h, rfl, rfl, rfl, rfl, hz.symm⟩)⟩⟩
  · rintro ⟨hw, ⟨_, _, h, rfl, rfl, h0, rfl, hz⟩ | ⟨⟨_, _, _⟩, ⟨h, rfl, rfl, rfl, rfl, hz⟩ | ⟨h, rfl, rfl, rfl, rfl, hz⟩ |
      ⟨h, rfl, rfl, rfl, rfl, hz⟩⟩⟩
    · exact ⟨hz.symm, need_eq_ok.2 ⟨beq_iff_eq.2 h0.symm, limit_eq_ok.2 ⟨h, hw⟩⟩⟩
    all_goals exact ⟨hz.symm, limit_eq_ok.2 ⟨h, hw⟩⟩

theorem decSystem_eq_ok : decSystem g w = .ok i ↔ i.wf = true ∧
    ((∃ n, .trap g n = i ∧ HasBody w (encSys 0 0 0 0 n)) ∨ (.eret g = i ∧ HasBody w (encSys 1 0 0 0 0)) ∨
     (∃ ra, .wfi g ra = i ∧ HasBody w (encSys 2 ra 0 0 0)) ∨ (∃ ra rb, .seal g ra rb = i ∧ HasBody w (encSys 3 ra rb 0 0)) ∨
     ∃ ra rb s, .tlbi g ra rb s = i ∧ HasBody w (encSys 4 ra rb s.code 0)) := by
  unfold decSystem
  simp only [hasBody_encSys, Scope.code_eq_iff]
  simp only [BitVec.ofNat_eq_ofNat, ofNat_eq_fld_iff, toNat_fld]
  constructor
  · intro h
    split at h
    · obtain ⟨hz, h⟩ := need_eq_ok.1 h
      obtain ⟨h, hw⟩ := limit_eq_ok.1 h
      simp only [beq_iff_eq, fld_eq_ofNat_iff] at hz
      exact ⟨hw, .inl ⟨_, h, by omega, by omega, by omega, by omega, by omega, rfl⟩⟩
    · obtain ⟨hz, h⟩ := need_eq_ok.1 h
      obtain ⟨h, hw⟩ := limit_eq_ok.1 h
      simp only [beq_iff_eq, fld_eq_ofNat_iff] at hz
      exact ⟨hw, .inr (.inl ⟨h, by omega⟩)⟩
    · obtain ⟨hz, h⟩ := need_eq_ok.1 h
      obtain ⟨h, hw⟩ := limit_eq_ok.1 h
      simp only [beq_iff_eq, fld_eq_ofNat_iff] at hz
      exact ⟨hw, .inr (.inr (.inl ⟨_, h, by omega, rfl, by omega⟩))⟩
    · obtain ⟨hz, h⟩ := need_eq_ok.1 h
      obtain ⟨h, hw⟩ := limit_eq_ok.1 h
      simp only [beq_iff_eq, fld_eq_ofNat_iff] at hz
      exact ⟨hw, .inr (.inr (.inr (.inl ⟨_, _, h, by omega, rfl, rfl, by omega⟩)))⟩
    · obtain ⟨hz, h⟩ := need_eq_ok.1 h
      obtain ⟨s, hs, h⟩ := code_eq_ok.1 h
      obtain ⟨h, hw⟩ := limit_eq_ok.1 h
      simp only [beq_iff_eq, fld_eq_ofNat_iff] at hz
      exact ⟨hw, .inr (.inr (.inr (.inr ⟨_, _, s, h, by omega, rfl, rfl, hs, by omega⟩)))⟩
    · cases h
  · rintro ⟨hw, ⟨_, h, hf, hz⟩ | ⟨h, hf, hz⟩ | ⟨_, h, hf, rfl, hz⟩ | ⟨_, _, h, hf, rfl, rfl, hz⟩ |
      ⟨_, _, s, h, hf, rfl, rfl, hs, hz⟩⟩ <;> rw [hf]
    · obtain ⟨h1, h2, h3, h4, rfl⟩ := hz
      refine need_eq_ok.2 ⟨?_, limit_eq_ok.2 ⟨h, hw⟩⟩
      simp only [beq_iff_eq, fld_eq_ofNat_iff]; omega
    · refine need_eq_ok.2 ⟨?_, limit_eq_ok.2 ⟨h, hw⟩⟩
      simp only [beq_iff_eq, fld_eq_ofNat_iff]; omega
    · refine need_eq_ok.2 ⟨?_, limit_eq_ok.2 ⟨h, hw⟩⟩
      simp only [beq_iff_eq, fld_eq_ofNat_iff]; omega
    · refine need_eq_ok.2 ⟨?_, limit_eq_ok.2 ⟨h, hw⟩⟩
      simp only [beq_iff_eq, fld_eq_ofNat_iff]; omega
    · refine need_eq_ok.2 ⟨?_, code_eq_ok.2 ⟨s, hs, limit_eq_ok.2 ⟨h, hw⟩⟩⟩
      simp only [beq_iff_eq, fld_eq_ofNat_iff]; omega

theorem decSpawn_eq_ok : decSpawn g w = .ok i ↔ i.wf = true ∧
    ((∃ q ra, .spawn g q ra = i ∧ HasBody w (0#1 ++ ra ++ 0#5 ++ q ++ 0#25)) ∨
     ∃ ra rb, .join g ra rb = i ∧ HasBody w (1#1 ++ ra ++ rb ++ 0#29)) := by
  unfold decSpawn HasBody
  simp only [append_eq_fld_iff (w := w), and_assoc]
  constructor
  · intro h
    split at h
    · next h0 =>
      obtain ⟨hz, h⟩ := need_eq_ok.1 h
      obtain ⟨h, hw⟩ := limit_eq_ok.1 h
      simp only [Bool.and_eq_true, beq_iff_eq] at h0 hz
      exact ⟨hw, .inl ⟨_, _, h, h0.symm, rfl, hz.1.symm, rfl, hz.2.symm⟩⟩
    · next h0 =>
      obtain ⟨hz, h⟩ := need_eq_ok.1 h
      obtain ⟨h, hw⟩ := limit_eq_ok.1 h
      simp only [beq_iff_eq] at h0 hz
      exact ⟨hw, .inr ⟨_, _, h, (bit_eq_one_of_ne_zero h0).symm, rfl, rfl, hz.symm⟩⟩
  · rintro ⟨hw, ⟨_, _, h, h0, rfl, h1, rfl, h2⟩ | ⟨_, _, h, h0, rfl, rfl, h1⟩⟩ <;> rw [← h0]
    · exact need_eq_ok.2 ⟨by rw [← h1, ← h2]; rfl, limit_eq_ok.2 ⟨h, hw⟩⟩
    · exact need_eq_ok.2 ⟨by rw [← h1]; rfl, limit_eq_ok.2 ⟨h, hw⟩⟩

theorem decSched_eq_ok {map : Word} : decSched g w map = .ok i ↔ i.wf = true ∧
    ((.safe g map = i ∧ HasBody w 0#40) ∨ (.yield g = i ∧ HasBody w (1#2 ++ 0#38)) ∨
     (∃ n, .prio g n = i ∧ HasBody w (2#2 ++ n ++ 0#36)) ∨ ∃ b, .gang g b = i ∧ HasBody w (3#2 ++ 0#2 ++ b ++ 0#30)) := by
  unfold decSched HasBody
  simp only [append_eq_fld_iff (w := w), and_assoc, BitVec.ofNat_eq_ofNat, ofNat_eq_fld_iff, toNat_fld]
  constructor
  · intro h
    have hn : w.toNat / 2 ^ 38 % 2 ^ 2 = 0 ∨ w.toNat / 2 ^ 38 % 2 ^ 2 = 1 ∨ w.toNat / 2 ^ 38 % 2 ^ 2 = 2 ∨
      w.toNat / 2 ^ 38 % 2 ^ 2 = 3 := by omega
    rcases hn with hn | hn | hn | hn <;> rw [hn] at h <;> obtain ⟨hz, h⟩ := need_eq_ok.1 h <;>
      obtain ⟨h, hw⟩ := limit_eq_ok.1 h <;> simp only [Bool.and_eq_true, beq_iff_eq, fld_eq_ofNat_iff (w := w)] at hz
    · exact ⟨hw, .inl ⟨h, by omega⟩⟩
    · exact ⟨hw, .inr (.inl ⟨h, by omega, by omega⟩)⟩
    · exact ⟨hw, .inr (.inr (.inl ⟨_, h, by omega, rfl, by omega⟩))⟩
    · exact ⟨hw, .inr (.inr (.inr ⟨_, h, by omega, by omega, rfl, by omega⟩))⟩
  · rintro ⟨hw, ⟨h, hz⟩ | ⟨h, hf, hz⟩ | ⟨_, h, hf, rfl, hz⟩ | ⟨_, h, hf, h0, rfl, hz⟩⟩
    · rw [show w.toNat / 2 ^ 38 % 2 ^ 2 = 0 by omega]
      refine need_eq_ok.2 ⟨?_, limit_eq_ok.2 ⟨h, hw⟩⟩
      have hm : fld map 61 3 = 0#3 := by subst h; simpa [Instr.wf] using hw
      simp only [Bool.and_eq_true, beq_iff_eq, fld_eq_ofNat_iff (w := w)]
      exact ⟨by omega, hm⟩
    all_goals
      rw [hf]
      refine need_eq_ok.2 ⟨?_, limit_eq_ok.2 ⟨h, hw⟩⟩
      simp only [Bool.and_eq_true, beq_iff_eq, fld_eq_ofNat_iff (w := w)]
      omega

theorem decCompact_eq_ok {k0 k1 : XReg → Instr} : decCompact k0 k1 w = .ok i ↔ i.wf = true ∧ ∃ ra,
    k0 ra = i ∧ HasBody w (encX34 0 ra) ∨ k1 ra = i ∧ HasBody w (encX34 1 ra) := by
  unfold decCompact
  simp only [need_eq_ok, limit_eq_ok, beq_iff_eq, hasBody_encX34]
  constructor
  · rintro ⟨hz, h, hw⟩
    split at h
    · next h0 => exact ⟨hw, _, .inl ⟨h, h0.symm, rfl, hz.symm⟩⟩
    · next h0 => exact ⟨hw, _, .inr ⟨h, (bit_eq_one_of_ne_zero h0).symm, rfl, hz.symm⟩⟩
  · rintro ⟨hw, _, ⟨h, h0, rfl, hz⟩ | ⟨h, h0, rfl, hz⟩⟩ <;> rw [← h0] <;> exact ⟨hz.symm, h, hw⟩

theorem decQget_eq_ok : decQget g w = .ok i ↔ i.wf = true ∧ ∃ rd q pt pf,
    .qget g rd q pt pf = i ∧ HasBody w (rd ++ q ++ pt ++ pf ++ 0#26) := by
  unfold decQget HasBody
  simp only [append_eq_fld_iff (w := w), and_assoc, need_eq_ok, limit_eq_ok, beq_iff_eq]
  constructor
  · rintro ⟨hz, h, hw⟩
    exact ⟨hw, _, _, _, _, h, rfl, rfl, rfl, rfl, hz.symm⟩
  · rintro ⟨hw, _, _, _, _, h, rfl, rfl, rfl, rfl, hz⟩
    exact ⟨hz.symm, h, hw⟩

end System

section Plain

/-! Words with one meaning, whose fields the decoder reads in place. -/

variable {g : Guard} {w : Word} {i : Instr}

theorem decLong_eq_ok {k : XReg → BitVec 35 → Instr} : limit (k (fld w 35 5) (fld w 0 35)) = .ok i ↔ i.wf = true ∧
    ∃ rd v, k rd v = i ∧ HasBody w (rd ++ v) := by
  unfold HasBody
  simp only [append_eq_fld_iff (w := w), limit_eq_ok]
  exact ⟨fun ⟨h, hw⟩ => ⟨hw, _, _, h, rfl, rfl⟩, fun ⟨hw, _, _, h, e1, e2⟩ => ⟨by rw [← h, e1, e2], hw⟩⟩

theorem decLih_eq_ok : need (fld w 32 3 == 0) .reserved (limit (.lih g (fld w 35 5) (fld w 0 32))) = .ok i ↔ i.wf = true ∧
    ∃ rd v, .lih g rd v = i ∧ HasBody w (rd ++ 0#3 ++ v) := by
  unfold HasBody
  simp only [append_eq_fld_iff (w := w), and_assoc, need_eq_ok, limit_eq_ok, beq_iff_eq]
  exact ⟨fun ⟨hz, h, hw⟩ => ⟨hw, _, _, h, rfl, hz.symm, rfl⟩, fun ⟨hw, _, _, h, e1, hz, e2⟩ => ⟨hz.symm, by rw [← h, e1, e2], hw⟩⟩

theorem decPadr_eq_ok : need (fld w 0 25 == 0) .reserved (limit (.padr g (fld w 35 5) (fld w 30 5) (fld w 25 5))) = .ok i ↔
    i.wf = true ∧ ∃ rd ra rb, .padr g rd ra rb = i ∧ HasBody w (encR3 rd ra rb 0 0 0 0 0) := by
  simp only [need_eq_ok, limit_eq_ok, beq_iff_eq, hasBody_encR3, BitVec.ofNat_eq_ofNat, fld_eq_ofNat_iff, ofNat_eq_fld_iff]
  constructor
  · rintro ⟨hz, h, hw⟩
    exact ⟨hw, _, _, _, h, rfl, rfl, rfl, by omega⟩
  · rintro ⟨hw, _, _, _, h, rfl, rfl, rfl, hz⟩
    exact ⟨by omega, h, hw⟩

theorem decJump_eq_ok {k : BitVec 32 → Instr} : need (fld w 32 8 == 0) .reserved (limit (k (fld w 0 32))) = .ok i ↔ i.wf = true ∧
    ∃ o, k o = i ∧ HasBody w (0#8 ++ o) := by
  unfold HasBody
  simp only [append_eq_fld_iff (w := w), need_eq_ok, limit_eq_ok, beq_iff_eq]
  exact ⟨fun ⟨hz, h, hw⟩ => ⟨hw, _, h, hz.symm, rfl⟩, fun ⟨hw, _, h, hz, e⟩ => ⟨hz.symm, by rw [← h, e], hw⟩⟩

theorem decJr_eq_ok : need (fld w 0 30 == 0) .reserved (limit (.jr g (fld w 35 5) (fld w 30 5))) = .ok i ↔ i.wf = true ∧
    ∃ rd ra, .jr g rd ra = i ∧ HasBody w (encR3 rd ra 0 0 0 0 0 0) := by
  simp only [need_eq_ok, limit_eq_ok, beq_iff_eq, hasBody_encR3, BitVec.ofNat_eq_ofNat, fld_eq_ofNat_iff, ofNat_eq_fld_iff]
  constructor
  · rintro ⟨hz, h, hw⟩
    exact ⟨hw, _, _, h, rfl, rfl, by omega⟩
  · rintro ⟨hw, _, _, h, rfl, rfl, hz⟩
    exact ⟨by omega, h, hw⟩

theorem decExit_eq_ok : need (fld w 0 40 == 0) .reserved (limit (.exit g)) = .ok i ↔ i.wf = true ∧
    (.exit g = i ∧ HasBody w 0) := by
  simp only [need_eq_ok, limit_eq_ok, beq_iff_eq]
  exact ⟨fun ⟨hz, h, hw⟩ => ⟨hw, h, hz.symm⟩, fun ⟨hw, h, hz⟩ => ⟨hz.symm, h, hw⟩⟩

theorem decArrive_eq_ok : need (fld w 0 29 == 0) .reserved (limit (.arrive g (fld w 35 5) (fld w 29 6))) = .ok i ↔ i.wf = true ∧
    ∃ rd b, .arrive g rd b = i ∧ HasBody w (rd ++ b ++ 0#29) := by
  unfold HasBody
  simp only [append_eq_fld_iff (w := w), and_assoc, need_eq_ok, limit_eq_ok, beq_iff_eq]
  exact ⟨fun ⟨hz, h, hw⟩ => ⟨hw, _, _, h, rfl, rfl, hz.symm⟩, fun ⟨hw, _, _, h, e1, e2, hz⟩ => ⟨hz.symm, by rw [← h, e1, e2], hw⟩⟩

theorem decBwait_eq_ok : need (fld w 0 23 == 0) .reserved (limit (.bwait g (fld w 34 6) (fld w 29 5) (fld w 26 3) (fld w 23 3))) =
    .ok i ↔ i.wf = true ∧ ∃ b ra pt pf, .bwait g b ra pt pf = i ∧ HasBody w (b ++ ra ++ pt ++ pf ++ 0#23) := by
  unfold HasBody
  simp only [append_eq_fld_iff (w := w), and_assoc, need_eq_ok, limit_eq_ok, beq_iff_eq]
  constructor
  · rintro ⟨hz, h, hw⟩
    exact ⟨hw, _, _, _, _, h, rfl, rfl, rfl, rfl, hz.symm⟩
  · rintro ⟨hw, _, _, _, _, h, rfl, rfl, rfl, rfl, hz⟩
    exact ⟨hz.symm, h, hw⟩

theorem decCancel_eq_ok : need (fld w 0 29 == 0) .reserved (limit (.cancel g (fld w 34 6) (fld w 29 5))) = .ok i ↔ i.wf = true ∧
    ∃ t rd, .cancel g t rd = i ∧ HasBody w (t ++ rd ++ 0#29) := by
  unfold HasBody
  simp only [append_eq_fld_iff (w := w), and_assoc, need_eq_ok, limit_eq_ok, beq_iff_eq]
  exact ⟨fun ⟨hz, h, hw⟩ => ⟨hw, _, _, h, rfl, rfl, hz.symm⟩, fun ⟨hw, _, _, h, e1, e2, hz⟩ => ⟨hz.symm, by rw [← h, e1, e2], hw⟩⟩

theorem decRand_eq_ok : need (fld w 0 35 == 0) .reserved (limit (.rand g (fld w 35 5))) = .ok i ↔ i.wf = true ∧
    ∃ rd, .rand g rd = i ∧ HasBody w (rd ++ 0#35) := by
  unfold HasBody
  simp only [append_eq_fld_iff (w := w), need_eq_ok, limit_eq_ok, beq_iff_eq]
  exact ⟨fun ⟨hz, h, hw⟩ => ⟨hw, _, h, rfl, hz.symm⟩, fun ⟨hw, _, h, e, hz⟩ => ⟨hz.symm, by rw [← h, e], hw⟩⟩

end Plain

/-! ## The word as a whole (R71) -/

/-- A word is packed from its guard, its major opcode and its body. -/
theorem packWord_eq_iff {w : Word} {g : Guard} {op : BitVec 7} {b : BitVec 40} :
    packWord g op b = w ↔ g = Guard.ofWord w ∧ op = fld w 40 7 ∧ HasBody w b := by
  have hw : w = fld w 0 64 := BitVec.extractLsb'_eq_self.symm
  obtain ⟨t, ga, gb, gc⟩ := g
  conv_lhs => rhs; rw [hw]
  unfold packWord
  simp only [append_eq_fld_iff (w := w), and_assoc, Guard.ofWord, Guard.mk.injEq, HasBody]

theorem encode_eq_packWord {i : Instr} {g : Guard} {op : BitVec 7} {b : BitVec 40} (hp : i.parts = some (g, op, b)) :
    encode i = packWord g op b := by
  rw [encode, hp]

/-- `i` is an instruction whose word is `w`. -/
structure Encodes (i : Instr) (w : Word) : Prop where
  isWord : i.isWord = true
  wf : i.wf = true
  word : encode i = w

theorem Encodes.of {i : Instr} {w : Word} {op : BitVec 7} {b : BitVec 40} (hp : i.parts = some (Guard.ofWord w, op, b))
    (hop : (fld w 40 7).toNat = op.toNat) (hw : i.wf = true) (hb : HasBody w b) : Encodes i w where
  isWord := by rw [Instr.isWord, hp]; rfl
  wf := hw
  word := (encode_eq_packWord hp).trans (packWord_eq_iff.2 ⟨rfl, BitVec.eq_of_toNat_eq hop.symm, hb⟩)

/-- A memory word without `take` has that bit clear (R79). -/
theorem take_of_wf {p t : Bool} (h : (p && !t) = true) : t = false := by
  cases p <;> cases t <;> simp_all

/-- What decodes encodes the word: decoder by decoder, in the order of the opcodes. -/
theorem encodes_of_decodeWord {w m : Word} {i : Instr} (h : decodeWord w m = .ok i) : Encodes i w := by
  unfold decodeWord at h
  dsimp only at h
  split at h
  case h_1 hop | h_2 hop | h_3 hop | h_4 hop | h_5 hop | h_6 hop | h_7 hop | h_8 hop | h_9 hop | h_10 hop | h_11 hop
    | h_12 hop | h_13 hop | h_14 hop =>
    obtain ⟨hw, o, rfl, hb⟩ := decIntR_eq_ok.1 h
    exact .of rfl hop hw hb
  case h_15 hop =>
    obtain ⟨hw, o, ⟨rfl, hb⟩ | ⟨rfl, hb⟩⟩ := decMinMax_eq_ok.1 h <;> exact .of rfl hop hw hb
  case h_16 hop =>
    obtain ⟨hw, o, ⟨rfl, hb⟩ | ⟨rfl, hb⟩ | ⟨rfl, hb⟩ | ⟨rfl, hb⟩ | ⟨rfl, hb⟩⟩ := decIntU_eq_ok.1 h <;>
      exact .of rfl hop hw hb
  case h_17 hop | h_18 hop | h_19 hop | h_20 hop | h_21 hop | h_22 hop | h_23 hop | h_24 hop | h_25 hop | h_26 hop =>
    obtain ⟨hw, o, rfl, hb⟩ := decIntI_eq_ok.1 h
    exact .of rfl hop hw hb
  case h_27 hop =>
    obtain ⟨hw, o, ⟨rfl, hb⟩ | ⟨rfl, hb⟩⟩ := decMinMaxI_eq_ok.1 h <;> exact .of rfl hop hw hb
  case h_28 hop | h_31 hop =>
    obtain ⟨hw, rd, v, rfl, hb⟩ := decLong_eq_ok.1 h
    exact .of rfl hop hw hb
  case h_29 hop =>
    obtain ⟨hw, rd, v, rfl, hb⟩ := decLih_eq_ok.1 h
    exact .of rfl hop hw hb
  case h_30 hop | h_60 hop | h_61 hop =>
    obtain ⟨hw, o, rfl, hb⟩ := decAddrM_eq_ok.1 h
    exact .of rfl hop hw hb
  case h_32 hop =>
    obtain ⟨hw, rd, ra, rb, rfl, hb⟩ := decPadr_eq_ok.1 h
    exact .of rfl hop hw hb
  case h_33 hop | h_34 hop | h_35 hop | h_37 hop =>
    obtain ⟨hw, o, rfl, hb⟩ := decFloatR_eq_ok.1 h
    exact .of rfl hop hw hb
  case h_36 hop =>
    obtain ⟨hw, o, rfl, hb⟩ := decFma_eq_ok.1 h
    exact .of rfl hop hw hb
  case h_38 hop =>
    obtain ⟨hw, o, rfl, hb⟩ := decFsqrt_eq_ok.1 h
    exact .of rfl hop hw hb
  case h_39 hop | h_40 hop =>
    obtain ⟨hw, o, rfl, hb⟩ := decFmin_eq_ok.1 h
    exact .of rfl hop hw hb
  case h_41 hop =>
    obtain ⟨hw, o, rfl, hb⟩ := decFcvt_eq_ok.1 h
    exact .of rfl hop hw hb
  case h_42 hop =>
    obtain ⟨hw, o, rfl, hb⟩ := decFclass_eq_ok.1 h
    exact .of rfl hop hw hb
  case h_43 hop =>
    obtain ⟨hw, o, rfl, hb⟩ := decCmp_eq_ok.1 h
    exact .of rfl hop hw hb
  case h_44 hop =>
    obtain ⟨hw, o, rfl, hb⟩ := decFcmp_eq_ok.1 h
    exact .of rfl hop hw hb
  case h_45 hop =>
    obtain ⟨hw, o, rfl, hb⟩ := decTbit_eq_ok.1 h
    exact .of rfl hop hw hb
  case h_46 hop =>
    obtain ⟨hw, o, rfl, hb⟩ := decPlog_eq_ok.1 h
    exact .of rfl hop hw hb
  case h_47 hop =>
    obtain ⟨hw, x, ⟨rfl, hb⟩ | ⟨rfl, hb⟩⟩ := decPmov_eq_ok.1 h <;> exact .of rfl hop hw hb
  case h_48 hop | h_49 hop =>
    obtain ⟨hw, o, rfl, hb⟩ := decJump_eq_ok.1 h
    exact .of rfl hop hw hb
  case h_50 hop =>
    obtain ⟨hw, rd, ra, rfl, hb⟩ := decJr_eq_ok.1 h
    exact .of rfl hop hw hb
  case h_51 hop =>
    obtain ⟨hw, rfl, hb⟩ := decExit_eq_ok.1 h
    exact .of rfl hop hw hb
  case h_52 hop | h_53 hop | h_55 hop | h_56 hop =>
    obtain ⟨hw, o, rfl, hb⟩ := (decMemM_eq_ok (fun o ho => .inr (by exact take_of_wf ho))).1 h
    exact .of rfl hop hw hb
  case h_54 hop =>
    obtain ⟨hw, o, rfl, hb⟩ := (decMemM_eq_ok (fun _ _ => .inl rfl)).1 h
    exact .of rfl hop hw hb
  case h_57 hop | h_58 hop | h_59 hop =>
    obtain ⟨hw, o, rfl, hb⟩ := decBlockM_eq_ok.1 h
    exact .of rfl hop hw hb
  case h_62 hop =>
    obtain ⟨hw, o, rfl, hb⟩ := decAmo_eq_ok.1 h
    exact .of rfl hop hw hb
  case h_63 hop =>
    obtain ⟨hw, o, rfl, hb⟩ := decCas_eq_ok.1 h
    exact .of rfl hop hw hb
  case h_64 hop =>
    obtain ⟨hw, o, rfl, hb⟩ := decRed_eq_ok.1 h
    exact .of rfl hop hw hb
  case h_65 hop =>
    obtain ⟨hw, o, rfl, hb⟩ := decFence_eq_ok.1 h
    exact .of rfl hop hw hb
  case h_66 hop =>
    obtain ⟨hw, rd, b, rfl, hb⟩ := decArrive_eq_ok.1 h
    exact .of rfl hop hw hb
  case h_67 hop =>
    obtain ⟨hw, b, ra, pt, pf, rfl, hb⟩ := decBwait_eq_ok.1 h
    exact .of rfl hop hw hb
  case h_68 hop =>
    obtain ⟨hw, b, ra, ⟨rfl, hb⟩ | ⟨rfl, hb⟩⟩ := decBmask_eq_ok.1 h <;> exact .of rfl hop hw hb
  case h_69 hop =>
    obtain ⟨hw, q, cb, ⟨rfl, hb⟩ | ⟨pt, pf, rfl, hb⟩⟩ := decPush_eq_ok.1 h <;> exact .of rfl hop hw hb
  case h_70 hop =>
    obtain ⟨hw, q, rd, rfl, hb⟩ := decQstat_eq_ok.1 h
    exact .of rfl hop hw hb
  case h_71 hop =>
    obtain ⟨hw, o, rfl, hb⟩ := decWait_eq_ok.1 h
    exact .of rfl hop hw hb
  case h_72 hop =>
    obtain ⟨hw, ⟨t, rfl, hb⟩ | ⟨rd, ra, ⟨rfl, hb⟩ | ⟨rfl, hb⟩⟩⟩ := decTagWait_eq_ok.1 h <;>
      exact .of rfl hop hw hb
  case h_73 hop =>
    obtain ⟨hw, t, rd, rfl, hb⟩ := decCancel_eq_ok.1 h
    exact .of rfl hop hw hb
  case h_74 hop =>
    obtain ⟨hw, ⟨n, ra, ⟨rfl, hb⟩ | ⟨rfl, hb⟩⟩ | ⟨n, rfl, hb⟩⟩ := decArrival_eq_ok.1 h <;> exact .of rfl hop hw hb
  case h_75 hop =>
    obtain ⟨hw, hr, hs, x, f, ⟨rfl, hb⟩ | ⟨rfl, hb⟩ | ⟨rfl, hb⟩ | ⟨rfl, hb⟩⟩ := decHandleR_eq_ok.1 h <;>
      exact .of rfl hop hw hb
  case h_76 hop =>
    obtain ⟨hw, o, ⟨rfl, hb⟩ | ⟨rfl, hb⟩⟩ := decHandleM_eq_ok.1 h <;> exact .of rfl hop hw hb
  case h_77 hop | h_78 hop | h_79 hop =>
    obtain ⟨hw, o, rfl, hb⟩ := decVecR2_eq_ok.1 h
    exact .of rfl hop hw hb
  case h_80 hop =>
    obtain ⟨hw, o, rfl, hb⟩ := decVfma_eq_ok.1 h
    exact .of rfl hop hw hb
  case h_81 hop =>
    obtain ⟨hw, o, ⟨rfl, hb⟩ | ⟨rfl, hb⟩⟩ := decVmin_eq_ok.1 h <;> exact .of rfl hop hw hb
  case h_82 hop =>
    obtain ⟨hw, o, ⟨rfl, hb⟩ | ⟨rfl, hb⟩⟩ := decVabs_eq_ok.1 h <;> exact .of rfl hop hw hb
  case h_83 hop =>
    obtain ⟨hw, o, ⟨rfl, hb⟩ | ⟨rfl, hb⟩ | ⟨rfl, hb⟩ | ⟨rfl, hb⟩ | ⟨rfl, hb⟩⟩ := decVecF_eq_ok.1 h <;>
      exact .of rfl hop hw hb
  case h_84 hop =>
    obtain ⟨hw, o, rfl, hb⟩ := decVcvt_eq_ok.1 h
    exact .of rfl hop hw hb
  case h_85 hop =>
    obtain ⟨hw, o, rfl, hb⟩ := decVquant_eq_ok.1 h
    exact .of rfl hop hw hb
  case h_86 hop =>
    obtain ⟨hw, o, ⟨rfl, hb⟩ | ⟨rfl, hb⟩⟩ := decVred_eq_ok.1 h <;> exact .of rfl hop hw hb
  case h_87 hop =>
    obtain ⟨hw, o, rfl, hb⟩ := decVcmp_eq_ok.1 h
    exact .of rfl hop hw hb
  case h_88 hop =>
    obtain ⟨hw, o, rfl, hb⟩ := decVsel_eq_ok.1 h
    exact .of rfl hop hw hb
  case h_89 hop =>
    obtain ⟨hw, ⟨o, rfl, hb⟩ | ⟨o, rfl, hb⟩⟩ := decVperm_eq_ok.1 h <;> exact .of rfl hop hw hb
  case h_90 hop =>
    obtain ⟨hw, ⟨o, ⟨rfl, hb⟩ | ⟨rfl, hb⟩⟩ | ⟨d, rfl, hb⟩⟩ := decVmov_eq_ok.1 h <;> exact .of rfl hop hw hb
  case h_91 hop =>
    obtain ⟨hw, o, rfl, hb⟩ := decVplog_eq_ok.1 h
    exact .of rfl hop hw hb
  case h_92 hop =>
    obtain ⟨hw, ⟨o, ⟨rfl, hb⟩ | ⟨rfl, hb⟩⟩ | ⟨o, rfl, hb⟩ | ⟨o, rfl, hb⟩⟩ := decVpred_eq_ok.1 h <;>
      exact .of rfl hop hw hb
  case h_93 hop =>
    obtain ⟨hw, ⟨rd, n, rfl, hb⟩ | ⟨o, ⟨rfl, hb⟩ | ⟨rfl, hb⟩ | ⟨rfl, hb⟩⟩⟩ := decCsr_eq_ok.1 h <;>
      exact .of rfl hop hw hb
  case h_94 hop =>
    obtain ⟨hw, ⟨n, rfl, hb⟩ | ⟨rfl, hb⟩ | ⟨ra, rfl, hb⟩ | ⟨ra, rb, rfl, hb⟩ | ⟨ra, rb, sc, rfl, hb⟩⟩ := decSystem_eq_ok.1 h <;>
      exact .of rfl hop hw hb
  case h_95 hop =>
    obtain ⟨hw, ⟨q, ra, rfl, hb⟩ | ⟨ra, rb, rfl, hb⟩⟩ := decSpawn_eq_ok.1 h <;> exact .of rfl hop hw hb
  case h_96 hop =>
    obtain ⟨hw, ⟨rfl, hb⟩ | ⟨rfl, hb⟩ | ⟨n, rfl, hb⟩ | ⟨b, rfl, hb⟩⟩ := decSched_eq_ok.1 h <;>
      exact .of rfl hop hw hb
  case h_97 hop | h_98 hop =>
    obtain ⟨hw, ra, ⟨rfl, hb⟩ | ⟨rfl, hb⟩⟩ := decCompact_eq_ok.1 h <;> exact .of rfl hop hw hb
  case h_99 hop =>
    obtain ⟨hw, rd, q, pt, pf, rfl, hb⟩ := decQget_eq_ok.1 h
    exact .of rfl hop hw hb
  case h_100 hop =>
    obtain ⟨hw, rd, rfl, hb⟩ := decRand_eq_ok.1 h
    exact .of rfl hop hw hb
  case h_101 => cases h

/-- What the word of an instruction holds. -/
theorem fields_of_encode {i : Instr} {w : Word} (he : encode i = w) {g : Guard} {op : BitVec 7} {b : BitVec 40}
    (hp : i.parts = some (g, op, b)) : g = Guard.ofWord w ∧ fld w 40 7 = op ∧ HasBody w b := by
  obtain ⟨hg, ho, hb⟩ := packWord_eq_iff.1 ((encode_eq_packWord hp).symm.trans he)
  exact ⟨hg, ho.symm, hb⟩

/-- The word of a vector instruction decodes to it: constructor by constructor. -/
theorem decodeWord_vector {i : Instr} {w m : Word} (hv : i.isVector = true) (hw : i.wf = true)
    (hf : ∀ {g op b}, i.parts = some (g, op, b) → g = Guard.ofWord w ∧ fld w 40 7 = op ∧ HasBody w b) :
    decodeWord w m = .ok i := by
  unfold decodeWord
  dsimp only
  cases i with
  | vadd g o | vsub g o | vmul g o =>
    obtain ⟨rfl, hop, hb⟩ := hf rfl
    rw [hop]; exact decVecR2_eq_ok.2 ⟨hw, o, rfl, hb⟩
  | vfma g o =>
    obtain ⟨rfl, hop, hb⟩ := hf rfl
    rw [hop]; exact decVfma_eq_ok.2 ⟨hw, o, rfl, hb⟩
  | vmin g o =>
    obtain ⟨rfl, hop, hb⟩ := hf rfl
    rw [hop]; exact decVmin_eq_ok.2 ⟨hw, o, .inl ⟨rfl, hb⟩⟩
  | vmax g o =>
    obtain ⟨rfl, hop, hb⟩ := hf rfl
    rw [hop]; exact decVmin_eq_ok.2 ⟨hw, o, .inr ⟨rfl, hb⟩⟩
  | vabs g o =>
    obtain ⟨rfl, hop, hb⟩ := hf rfl
    rw [hop]; exact decVabs_eq_ok.2 ⟨hw, o, .inl ⟨rfl, hb⟩⟩
  | vneg g o =>
    obtain ⟨rfl, hop, hb⟩ := hf rfl
    rw [hop]; exact decVabs_eq_ok.2 ⟨hw, o, .inr ⟨rfl, hb⟩⟩
  | vexp2 g o =>
    obtain ⟨rfl, hop, hb⟩ := hf rfl
    rw [hop]; exact decVecF_eq_ok.2 ⟨hw, o, .inl ⟨rfl, hb⟩⟩
  | vlog2 g o =>
    obtain ⟨rfl, hop, hb⟩ := hf rfl
    rw [hop]; exact decVecF_eq_ok.2 ⟨hw, o, .inr (.inl ⟨rfl, hb⟩)⟩
  | vrcp g o =>
    obtain ⟨rfl, hop, hb⟩ := hf rfl
    rw [hop]; exact decVecF_eq_ok.2 ⟨hw, o, .inr (.inr (.inl ⟨rfl, hb⟩))⟩
  | vrsq g o =>
    obtain ⟨rfl, hop, hb⟩ := hf rfl
    rw [hop]; exact decVecF_eq_ok.2 ⟨hw, o, .inr (.inr (.inr (.inl ⟨rfl, hb⟩)))⟩
  | vtanh g o =>
    obtain ⟨rfl, hop, hb⟩ := hf rfl
    rw [hop]; exact decVecF_eq_ok.2 ⟨hw, o, .inr (.inr (.inr (.inr ⟨rfl, hb⟩)))⟩
  | vcvt g o =>
    obtain ⟨rfl, hop, hb⟩ := hf rfl
    rw [hop]; exact decVcvt_eq_ok.2 ⟨hw, o, rfl, hb⟩
  | vquant g o =>
    obtain ⟨rfl, hop, hb⟩ := hf rfl
    rw [hop]; exact decVquant_eq_ok.2 ⟨hw, o, rfl, hb⟩
  | vamax g o =>
    obtain ⟨rfl, hop, hb⟩ := hf rfl
    rw [hop]; exact decVred_eq_ok.2 ⟨hw, o, .inl ⟨rfl, hb⟩⟩
  | vred g o =>
    obtain ⟨rfl, hop, hb⟩ := hf rfl
    rw [hop]; exact decVred_eq_ok.2 ⟨hw, o, .inr ⟨rfl, hb⟩⟩
  | vcmp g o =>
    obtain ⟨rfl, hop, hb⟩ := hf rfl
    rw [hop]; exact decVcmp_eq_ok.2 ⟨hw, o, rfl, hb⟩
  | vsel g o =>
    obtain ⟨rfl, hop, hb⟩ := hf rfl
    rw [hop]; exact decVsel_eq_ok.2 ⟨hw, o, rfl, hb⟩
  | vperm g o =>
    obtain ⟨rfl, hop, hb⟩ := hf rfl
    rw [hop]; exact decVperm_eq_ok.2 ⟨hw, .inl ⟨o, rfl, hb⟩⟩
  | vbcast g o =>
    obtain ⟨rfl, hop, hb⟩ := hf rfl
    rw [hop]; exact decVperm_eq_ok.2 ⟨hw, .inr ⟨o, rfl, hb⟩⟩
  | vmov g o =>
    obtain ⟨rfl, hop, hb⟩ := hf rfl
    rw [hop]; exact decVmov_eq_ok.2 ⟨hw, .inl ⟨o, .inl ⟨rfl, hb⟩⟩⟩
  | vfill g o =>
    obtain ⟨rfl, hop, hb⟩ := hf rfl
    rw [hop]; exact decVmov_eq_ok.2 ⟨hw, .inl ⟨o, .inr ⟨rfl, hb⟩⟩⟩
  | vempty g _ =>
    obtain ⟨rfl, hop, hb⟩ := hf rfl
    rw [hop]; exact decVmov_eq_ok.2 ⟨hw, .inr ⟨_, rfl, hb⟩⟩
  | vplog g o =>
    obtain ⟨rfl, hop, hb⟩ := hf rfl
    rw [hop]; exact decVplog_eq_ok.2 ⟨hw, o, rfl, hb⟩
  | vpcnt g o =>
    obtain ⟨rfl, hop, hb⟩ := hf rfl
    rw [hop]; exact decVpred_eq_ok.2 ⟨hw, .inl ⟨o, .inl ⟨rfl, hb⟩⟩⟩
  | vpfirst g o =>
    obtain ⟨rfl, hop, hb⟩ := hf rfl
    rw [hop]; exact decVpred_eq_ok.2 ⟨hw, .inl ⟨o, .inr ⟨rfl, hb⟩⟩⟩
  | vpmovFromX g o =>
    obtain ⟨rfl, hop, hb⟩ := hf rfl
    rw [hop]; exact decVpred_eq_ok.2 ⟨hw, .inr (.inl ⟨o, rfl, hb⟩)⟩
  | vpmovToX g o =>
    obtain ⟨rfl, hop, hb⟩ := hf rfl
    rw [hop]; exact decVpred_eq_ok.2 ⟨hw, .inr (.inr ⟨o, rfl, hb⟩)⟩
  | _ => cases hv

/-- The word of `seal`, whose name is a keyword and can name no case below. -/
theorem decodeWord_seal {g : Guard} {ra rb : XReg} {w : Word} (hw : (Instr.seal g ra rb).wf = true)
    (hf : ∀ {g' op b}, (Instr.seal g ra rb).parts = some (g', op, b) → g' = Guard.ofWord w ∧ fld w 40 7 = op ∧ HasBody w b) :
    decodeWord w (Instr.seal g ra rb).mapWord = .ok (.seal g ra rb) := by
  obtain ⟨rfl, hop, hb⟩ := hf rfl
  unfold decodeWord
  dsimp only
  rw [hop]
  exact decSystem_eq_ok.2 ⟨hw, .inr (.inr (.inr (.inl ⟨_, _, rfl, hb⟩)))⟩

/-- The word of any instruction decodes to it: constructor by constructor. -/
theorem decodeWord_word {i : Instr} {w : Word} (hi : i.isWord = true) (hw : i.wf = true)
    (hf : ∀ {g op b}, i.parts = some (g, op, b) → g = Guard.ofWord w ∧ fld w 40 7 = op ∧ HasBody w b) :
    decodeWord w i.mapWord = .ok i := by
  rcases hv : i.isVector with _ | _
  case true => exact decodeWord_vector hv hw hf
  unfold decodeWord
  dsimp only
  cases i with
  | add g o | sub g o | mul g o | mulh g o | div g o | rem g o | and g o | or g o | xor g o | andn g o | sll g o
    | srl g o | sra g o | rot g o =>
    obtain ⟨rfl, hop, hb⟩ := hf rfl
    rw [hop]; exact decIntR_eq_ok.2 ⟨hw, o, rfl, hb⟩
  | min g o =>
    obtain ⟨rfl, hop, hb⟩ := hf rfl
    rw [hop]; exact decMinMax_eq_ok.2 ⟨hw, o, .inl ⟨rfl, hb⟩⟩
  | max g o =>
    obtain ⟨rfl, hop, hb⟩ := hf rfl
    rw [hop]; exact decMinMax_eq_ok.2 ⟨hw, o, .inr ⟨rfl, hb⟩⟩
  | addImm g o | mulImm g o | andImm g o | orImm g o | xorImm g o | andnImm g o | sllImm g o | srlImm g o | sraImm g o
    | rotImm g o =>
    obtain ⟨rfl, hop, hb⟩ := hf rfl
    rw [hop]; exact decIntI_eq_ok.2 ⟨hw, o, rfl, hb⟩
  | minImm g o =>
    obtain ⟨rfl, hop, hb⟩ := hf rfl
    rw [hop]; exact decMinMaxI_eq_ok.2 ⟨hw, o, .inl ⟨rfl, hb⟩⟩
  | maxImm g o =>
    obtain ⟨rfl, hop, hb⟩ := hf rfl
    rw [hop]; exact decMinMaxI_eq_ok.2 ⟨hw, o, .inr ⟨rfl, hb⟩⟩
  | clz g o =>
    obtain ⟨rfl, hop, hb⟩ := hf rfl
    rw [hop]; exact decIntU_eq_ok.2 ⟨hw, o, .inl ⟨rfl, hb⟩⟩
  | ctz g o =>
    obtain ⟨rfl, hop, hb⟩ := hf rfl
    rw [hop]; exact decIntU_eq_ok.2 ⟨hw, o, .inr (.inl ⟨rfl, hb⟩)⟩
  | popc g o =>
    obtain ⟨rfl, hop, hb⟩ := hf rfl
    rw [hop]; exact decIntU_eq_ok.2 ⟨hw, o, .inr (.inr (.inl ⟨rfl, hb⟩))⟩
  | sext g o =>
    obtain ⟨rfl, hop, hb⟩ := hf rfl
    rw [hop]; exact decIntU_eq_ok.2 ⟨hw, o, .inr (.inr (.inr (.inl ⟨rfl, hb⟩)))⟩
  | zext g o =>
    obtain ⟨rfl, hop, hb⟩ := hf rfl
    rw [hop]; exact decIntU_eq_ok.2 ⟨hw, o, .inr (.inr (.inr (.inr ⟨rfl, hb⟩)))⟩
  | li g _ _ | adr g _ _ =>
    obtain ⟨rfl, hop, hb⟩ := hf rfl
    rw [hop]; exact decLong_eq_ok.2 ⟨hw, _, _, rfl, hb⟩
  | lih g _ _ =>
    obtain ⟨rfl, hop, hb⟩ := hf rfl
    rw [hop]; exact decLih_eq_ok.2 ⟨hw, _, _, rfl, hb⟩
  | lea g o | msend g o | mrecv g o =>
    obtain ⟨rfl, hop, hb⟩ := hf rfl
    rw [hop]; exact decAddrM_eq_ok.2 ⟨hw, o, rfl, hb⟩
  | padr g _ _ _ =>
    obtain ⟨rfl, hop, hb⟩ := hf rfl
    rw [hop]; exact decPadr_eq_ok.2 ⟨hw, _, _, _, rfl, hb⟩
  | fadd g o | fsub g o | fmul g o | fdiv g o =>
    obtain ⟨rfl, hop, hb⟩ := hf rfl
    rw [hop]; exact decFloatR_eq_ok.2 ⟨hw, o, rfl, hb⟩
  | fma g o =>
    obtain ⟨rfl, hop, hb⟩ := hf rfl
    rw [hop]; exact decFma_eq_ok.2 ⟨hw, o, rfl, hb⟩
  | fsqrt g o =>
    obtain ⟨rfl, hop, hb⟩ := hf rfl
    rw [hop]; exact decFsqrt_eq_ok.2 ⟨hw, o, rfl, hb⟩
  | fmin g o | fmax g o =>
    obtain ⟨rfl, hop, hb⟩ := hf rfl
    rw [hop]; exact decFmin_eq_ok.2 ⟨hw, o, rfl, hb⟩
  | fcvt g o =>
    obtain ⟨rfl, hop, hb⟩ := hf rfl
    rw [hop]; exact decFcvt_eq_ok.2 ⟨hw, o, rfl, hb⟩
  | fclass g o =>
    obtain ⟨rfl, hop, hb⟩ := hf rfl
    rw [hop]; exact decFclass_eq_ok.2 ⟨hw, o, rfl, hb⟩
  | cmp g o =>
    obtain ⟨rfl, hop, hb⟩ := hf rfl
    rw [hop]; exact decCmp_eq_ok.2 ⟨hw, o, rfl, hb⟩
  | fcmp g o =>
    obtain ⟨rfl, hop, hb⟩ := hf rfl
    rw [hop]; exact decFcmp_eq_ok.2 ⟨hw, o, rfl, hb⟩
  | tbit g o =>
    obtain ⟨rfl, hop, hb⟩ := hf rfl
    rw [hop]; exact decTbit_eq_ok.2 ⟨hw, o, rfl, hb⟩
  | plog g o =>
    obtain ⟨rfl, hop, hb⟩ := hf rfl
    rw [hop]; exact decPlog_eq_ok.2 ⟨hw, o, rfl, hb⟩
  | pmovToX g _ =>
    obtain ⟨rfl, hop, hb⟩ := hf rfl
    rw [hop]; exact decPmov_eq_ok.2 ⟨hw, _, .inl ⟨rfl, hb⟩⟩
  | pmovToPr g _ =>
    obtain ⟨rfl, hop, hb⟩ := hf rfl
    rw [hop]; exact decPmov_eq_ok.2 ⟨hw, _, .inr ⟨rfl, hb⟩⟩
  | br g _ | call g _ =>
    obtain ⟨rfl, hop, hb⟩ := hf rfl
    rw [hop]; exact decJump_eq_ok.2 ⟨hw, _, rfl, hb⟩
  | jr g _ _ =>
    obtain ⟨rfl, hop, hb⟩ := hf rfl
    rw [hop]; exact decJr_eq_ok.2 ⟨hw, _, _, rfl, hb⟩
  | exit g =>
    obtain ⟨rfl, hop, hb⟩ := hf rfl
    rw [hop]; exact decExit_eq_ok.2 ⟨hw, rfl, hb⟩
  | ld g o | st g o | stf g o | ldc g o =>
    obtain ⟨rfl, hop, hb⟩ := hf rfl
    rw [hop]; exact (decMemM_eq_ok fun _ h => .inr (by exact take_of_wf h)).2 ⟨hw, o, rfl, hb⟩
  | lds g o =>
    obtain ⟨rfl, hop, hb⟩ := hf rfl
    rw [hop]; exact (decMemM_eq_ok fun _ _ => .inl rfl).2 ⟨hw, o, rfl, hb⟩
  | pref g o | clean g o | inval g o =>
    obtain ⟨rfl, hop, hb⟩ := hf rfl
    rw [hop]; exact decBlockM_eq_ok.2 ⟨hw, o, rfl, hb⟩
  | amo g o =>
    obtain ⟨rfl, hop, hb⟩ := hf rfl
    rw [hop]; exact decAmo_eq_ok.2 ⟨hw, o, rfl, hb⟩
  | cas g o =>
    obtain ⟨rfl, hop, hb⟩ := hf rfl
    rw [hop]; exact decCas_eq_ok.2 ⟨hw, o, rfl, hb⟩
  | red g o =>
    obtain ⟨rfl, hop, hb⟩ := hf rfl
    rw [hop]; exact decRed_eq_ok.2 ⟨hw, o, rfl, hb⟩
  | fence g o =>
    obtain ⟨rfl, hop, hb⟩ := hf rfl
    rw [hop]; exact decFence_eq_ok.2 ⟨hw, o, rfl, hb⟩
  | arrive g _ _ =>
    obtain ⟨rfl, hop, hb⟩ := hf rfl
    rw [hop]; exact decArrive_eq_ok.2 ⟨hw, _, _, rfl, hb⟩
  | bwait g _ _ _ _ =>
    obtain ⟨rfl, hop, hb⟩ := hf rfl
    rw [hop]; exact decBwait_eq_ok.2 ⟨hw, _, _, _, _, rfl, hb⟩
  | bmask g _ _ =>
    obtain ⟨rfl, hop, hb⟩ := hf rfl
    rw [hop]; exact decBmask_eq_ok.2 ⟨hw, _, _, .inl ⟨rfl, hb⟩⟩
  | bmaskRd g _ _ =>
    obtain ⟨rfl, hop, hb⟩ := hf rfl
    rw [hop]; exact decBmask_eq_ok.2 ⟨hw, _, _, .inr ⟨rfl, hb⟩⟩
  | push g _ _ =>
    obtain ⟨rfl, hop, hb⟩ := hf rfl
    rw [hop]; exact decPush_eq_ok.2 ⟨hw, _, _, .inl ⟨rfl, hb⟩⟩
  | pushTry g _ _ _ _ =>
    obtain ⟨rfl, hop, hb⟩ := hf rfl
    rw [hop]; exact decPush_eq_ok.2 ⟨hw, _, _, .inr ⟨_, _, rfl, hb⟩⟩
  | qstat g _ _ =>
    obtain ⟨rfl, hop, hb⟩ := hf rfl
    rw [hop]; exact decQstat_eq_ok.2 ⟨hw, _, _, rfl, hb⟩
  | wait g o =>
    obtain ⟨rfl, hop, hb⟩ := hf rfl
    rw [hop]; exact decWait_eq_ok.2 ⟨hw, o, rfl, hb⟩
  | twait g _ =>
    obtain ⟨rfl, hop, hb⟩ := hf rfl
    rw [hop]; exact decTagWait_eq_ok.2 ⟨hw, .inl ⟨_, rfl, hb⟩⟩
  | tany g _ _ =>
    obtain ⟨rfl, hop, hb⟩ := hf rfl
    rw [hop]; exact decTagWait_eq_ok.2 ⟨hw, .inr ⟨_, _, .inl ⟨rfl, hb⟩⟩⟩
  | tfind g _ _ =>
    obtain ⟨rfl, hop, hb⟩ := hf rfl
    rw [hop]; exact decTagWait_eq_ok.2 ⟨hw, .inr ⟨_, _, .inr ⟨rfl, hb⟩⟩⟩
  | cancel g _ _ =>
    obtain ⟨rfl, hop, hb⟩ := hf rfl
    rw [hop]; exact decCancel_eq_ok.2 ⟨hw, _, _, rfl, hb⟩
  | abinit g _ _ =>
    obtain ⟨rfl, hop, hb⟩ := hf rfl
    rw [hop]; exact decArrival_eq_ok.2 ⟨hw, .inl ⟨_, _, .inl ⟨rfl, hb⟩⟩⟩
  | abinitReset g _ _ =>
    obtain ⟨rfl, hop, hb⟩ := hf rfl
    rw [hop]; exact decArrival_eq_ok.2 ⟨hw, .inl ⟨_, _, .inr ⟨rfl, hb⟩⟩⟩
  | abwait g _ =>
    obtain ⟨rfl, hop, hb⟩ := hf rfl
    rw [hop]; exact decArrival_eq_ok.2 ⟨hw, .inr ⟨_, rfl, hb⟩⟩
  | hset g _ _ _ =>
    obtain ⟨rfl, hop, hb⟩ := hf rfl
    rw [hop]; exact decHandleR_eq_ok.2 ⟨hw, _, 0, _, _, .inl ⟨rfl, hb⟩⟩
  | hget g _ _ _ =>
    obtain ⟨rfl, hop, hb⟩ := hf rfl
    rw [hop]; exact decHandleR_eq_ok.2 ⟨hw, _, 0, _, _, .inr (.inl ⟨rfl, hb⟩)⟩
  | hmov g _ _ =>
    obtain ⟨rfl, hop, hb⟩ := hf rfl
    rw [hop]; exact decHandleR_eq_ok.2 ⟨hw, _, _, 0, 0, .inr (.inr (.inl ⟨rfl, hb⟩))⟩
  | hadv g _ _ =>
    obtain ⟨rfl, hop, hb⟩ := hf rfl
    rw [hop]; exact decHandleR_eq_ok.2 ⟨hw, _, 0, _, 0, .inr (.inr (.inr ⟨rfl, hb⟩))⟩
  | hld g o =>
    obtain ⟨rfl, hop, hb⟩ := hf rfl
    rw [hop]; exact decHandleM_eq_ok.2 ⟨hw, o, .inl ⟨rfl, hb⟩⟩
  | hst g o =>
    obtain ⟨rfl, hop, hb⟩ := hf rfl
    rw [hop]; exact decHandleM_eq_ok.2 ⟨hw, o, .inr ⟨rfl, hb⟩⟩
  | csrr g _ _ =>
    obtain ⟨rfl, hop, hb⟩ := hf rfl
    rw [hop]; exact decCsr_eq_ok.2 ⟨hw, .inl ⟨_, _, rfl, hb⟩⟩
  | csrw g o =>
    obtain ⟨rfl, hop, hb⟩ := hf rfl
    rw [hop]; exact decCsr_eq_ok.2 ⟨hw, .inr ⟨o, .inl ⟨rfl, hb⟩⟩⟩
  | csrset g o =>
    obtain ⟨rfl, hop, hb⟩ := hf rfl
    rw [hop]; exact decCsr_eq_ok.2 ⟨hw, .inr ⟨o, .inr (.inl ⟨rfl, hb⟩)⟩⟩
  | csrclr g o =>
    obtain ⟨rfl, hop, hb⟩ := hf rfl
    rw [hop]; exact decCsr_eq_ok.2 ⟨hw, .inr ⟨o, .inr (.inr ⟨rfl, hb⟩)⟩⟩
  | trap g _ =>
    obtain ⟨rfl, hop, hb⟩ := hf rfl
    rw [hop]; exact decSystem_eq_ok.2 ⟨hw, .inl ⟨_, rfl, hb⟩⟩
  | eret g =>
    obtain ⟨rfl, hop, hb⟩ := hf rfl
    rw [hop]; exact decSystem_eq_ok.2 ⟨hw, .inr (.inl ⟨rfl, hb⟩)⟩
  | wfi g _ =>
    obtain ⟨rfl, hop, hb⟩ := hf rfl
    rw [hop]; exact decSystem_eq_ok.2 ⟨hw, .inr (.inr (.inl ⟨_, rfl, hb⟩))⟩
  | tlbi g _ _ _ =>
    obtain ⟨rfl, hop, hb⟩ := hf rfl
    rw [hop]; exact decSystem_eq_ok.2 ⟨hw, .inr (.inr (.inr (.inr ⟨_, _, _, rfl, hb⟩)))⟩
  | spawn g _ _ =>
    obtain ⟨rfl, hop, hb⟩ := hf rfl
    rw [hop]; exact decSpawn_eq_ok.2 ⟨hw, .inl ⟨_, _, rfl, hb⟩⟩
  | join g _ _ =>
    obtain ⟨rfl, hop, hb⟩ := hf rfl
    rw [hop]; exact decSpawn_eq_ok.2 ⟨hw, .inr ⟨_, _, rfl, hb⟩⟩
  | safe g _ =>
    obtain ⟨rfl, hop, hb⟩ := hf rfl
    rw [hop]; exact decSched_eq_ok.2 ⟨hw, .inl ⟨rfl, hb⟩⟩
  | yield g =>
    obtain ⟨rfl, hop, hb⟩ := hf rfl
    rw [hop]; exact decSched_eq_ok.2 ⟨hw, .inr (.inl ⟨rfl, hb⟩)⟩
  | prio g _ =>
    obtain ⟨rfl, hop, hb⟩ := hf rfl
    rw [hop]; exact decSched_eq_ok.2 ⟨hw, .inr (.inr (.inl ⟨_, rfl, hb⟩))⟩
  | gang g _ =>
    obtain ⟨rfl, hop, hb⟩ := hf rfl
    rw [hop]; exact decSched_eq_ok.2 ⟨hw, .inr (.inr (.inr ⟨_, rfl, hb⟩))⟩
  | sign g _ | xfer g _ =>
    obtain ⟨rfl, hop, hb⟩ := hf rfl
    rw [hop]; exact decCompact_eq_ok.2 ⟨hw, _, .inl ⟨rfl, hb⟩⟩
  | dissolve g _ | sstep g _ =>
    obtain ⟨rfl, hop, hb⟩ := hf rfl
    rw [hop]; exact decCompact_eq_ok.2 ⟨hw, _, .inr ⟨rfl, hb⟩⟩
  | qget g _ _ _ _ =>
    obtain ⟨rfl, hop, hb⟩ := hf rfl
    rw [hop]; exact decQget_eq_ok.2 ⟨hw, _, _, _, _, rfl, hb⟩
  | rand g _ =>
    obtain ⟨rfl, hop, hb⟩ := hf rfl
    rw [hop]; exact decRand_eq_ok.2 ⟨hw, _, rfl, hb⟩
  | _ => cases hi <;> cases hv <;> exact decodeWord_seal hw hf

theorem decodeWord_encode {i : Instr} (hi : i.isWord = true) (hw : i.wf = true) : decodeWord (encode i) i.mapWord = .ok i :=
  decodeWord_word hi hw (fields_of_encode rfl)

/-! ## The statements -/

/-- Settles O2: the bodies of R75 to R84 read back field by field, and the opcode of R85 selects the decoder that reads them. -/
theorem encodedWordDecodes : Obligations.EncodedWordDecodes := fun _ => decodeWord_encode

/-- Settles O3: each decoder accepts only words that its fields fill, zeros included. -/
theorem decodedWordEncodes : Obligations.DecodedWordEncodes := fun _ _ _ h =>
  have he := encodes_of_decodeWord h
  ⟨he.isWord, he.wf, he.word⟩

end Sys2Proof

/-! SUPPORT. The step as a whole: it answers, it keeps the canonical form, it runs what it decodes; and the proofs of O1 and
O4 to O8. -/

namespace Sys2Proof
open Machine

namespace Machine

/-! ## Every step answers (Assumption 4) -/

/-- Every instruction answers a next state, by its arm. -/
theorem exec_answers (i : Instr) (s : State) : ∃ t, exec i s = .next t := by
  cases i <;> exact ⟨_, rfl⟩

theorem State.turn_answers (s : State) : ∃ t, s.turn = .next t := by
  unfold State.turn
  dsimp only
  split
  · exact ⟨_, rfl⟩
  · split
    · exact ⟨_, rfl⟩
    · split
      · exact ⟨_, rfl⟩
      · next i _ _ =>
        obtain ⟨t, ht⟩ := exec_answers i (s.fetch s.me).1
        rw [ht]
        exact ⟨_, rfl⟩

theorem State.act_answers (s : State) (a : Act) : ∃ t, s.act a = .next t := by
  cases a with
  | event i =>
    unfold State.act
    dsimp only
    split
    · exact ⟨_, rfl⟩
    · exact exec_answers i s
  | core c => exact State.turn_answers _
  | _ => exact ⟨_, rfl⟩

/-! ## Every step keeps the canonical form -/

/-- Every instruction keeps the canonical form, by its arm. -/
theorem exec_canon (i : Instr) {s : State} (hc : s.Canon) : Holds State.Canon (exec i s) := by
  cases i with
  | add g o => exact execAdd_canon g o s hc
  | sub g o => exact execSub_canon g o s hc
  | mul g o => exact execMul_canon g o s hc
  | mulh g o => exact execMulh_canon g o s hc
  | div g o => exact execDiv_canon g o s hc
  | rem g o => exact execRem_canon g o s hc
  | and g o => exact execAnd_canon g o s hc
  | or g o => exact execOr_canon g o s hc
  | xor g o => exact execXor_canon g o s hc
  | andn g o => exact execAndn_canon g o s hc
  | sll g o => exact execSll_canon g o s hc
  | srl g o => exact execSrl_canon g o s hc
  | sra g o => exact execSra_canon g o s hc
  | rot g o => exact execRot_canon g o s hc
  | min g o => exact execMin_canon g o s hc
  | max g o => exact execMax_canon g o s hc
  | addImm g o => exact execAddImm_canon g o s hc
  | mulImm g o => exact execMulImm_canon g o s hc
  | andImm g o => exact execAndImm_canon g o s hc
  | orImm g o => exact execOrImm_canon g o s hc
  | xorImm g o => exact execXorImm_canon g o s hc
  | andnImm g o => exact execAndnImm_canon g o s hc
  | sllImm g o => exact execSllImm_canon g o s hc
  | srlImm g o => exact execSrlImm_canon g o s hc
  | sraImm g o => exact execSraImm_canon g o s hc
  | rotImm g o => exact execRotImm_canon g o s hc
  | minImm g o => exact execMinImm_canon g o s hc
  | maxImm g o => exact execMaxImm_canon g o s hc
  | clz g o => exact execClz_canon g o s hc
  | ctz g o => exact execCtz_canon g o s hc
  | popc g o => exact execPopc_canon g o s hc
  | sext g o => exact execSext_canon g o s hc
  | zext g o => exact execZext_canon g o s hc
  | li g rd imm => exact execLi_canon g rd imm s hc
  | lih g rd imm => exact execLih_canon g rd imm s hc
  | lea g o => exact execLea_canon g o s hc
  | adr g rd imm => exact execAdr_canon g rd imm s hc
  | padr g rd ra rb => exact execPadr_canon g rd ra rb s hc
  | fadd g o => exact execFadd_canon g o s hc
  | fsub g o => exact execFsub_canon g o s hc
  | fmul g o => exact execFmul_canon g o s hc
  | fma g o => exact execFma_canon g o s hc
  | fdiv g o => exact execFdiv_canon g o s hc
  | fsqrt g o => exact execFsqrt_canon g o s hc
  | fmin g o => exact execFmin_canon g o s hc
  | fmax g o => exact execFmax_canon g o s hc
  | fcvt g o => exact execFcvt_canon g o s hc
  | fclass g o => exact execFclass_canon g o s hc
  | cmp g o => exact execCmp_canon g o s hc
  | fcmp g o => exact execFcmp_canon g o s hc
  | tbit g o => exact execTbit_canon g o s hc
  | plog g o => exact execPlog_canon g o s hc
  | pmovToX g x => exact execPmovToX_canon g x s hc
  | pmovToPr g x => exact execPmovToPr_canon g x s hc
  | br g off => exact execBr_canon g off s hc
  | call g off => exact execCall_canon g off s hc
  | jr g rd ra => exact execJr_canon g rd ra s hc
  | exit g => exact execExit_canon g s hc
  | ld g o => exact execLd_canon g o s hc
  | st g o => exact execSt_canon g o s hc
  | lds g o => exact execLds_canon g o s hc
  | stf g o => exact execStf_canon g o s hc
  | ldc g o => exact execLdc_canon g o s hc
  | pref g o => exact execPref_canon g o s hc
  | clean g o => exact execClean_canon g o s hc
  | inval g o => exact execInval_canon g o s hc
  | longLoadAnswer c => exact execLongLoadAnswer_canon c s hc
  | storeBufferDrain c => exact execStoreBufferDrain_canon c s hc
  | msend g o => exact execMsend_canon g o s hc
  | messageDelivery c => exact execMessageDelivery_canon c s hc
  | mrecv g o => exact execMrecv_canon g o s hc
  | amo g o => exact execAmo_canon g o s hc
  | cas g o => exact execCas_canon g o s hc
  | red g o => exact execRed_canon g o s hc
  | redAccept c => exact execRedAccept_canon c s hc
  | fence g o => exact execFence_canon g o s hc
  | arrive g rd bid => exact execArrive_canon g rd bid s hc
  | bwait g bid ra pt pf => exact execBwait_canon g bid ra pt pf s hc
  | bmask g bid ra => exact execBmask_canon g bid ra s hc
  | bmaskRd g bid ra => exact execBmaskRd_canon g bid ra s hc
  | barrierPhaseComplete d bid => exact execBarrierPhaseComplete_canon d bid s hc
  | barrierTimeout c => exact execBarrierTimeout_canon c s hc
  | push g q cb => exact execPush_canon g q cb s hc
  | pushTry g q cb pt pf => exact execPushTry_canon g q cb pt pf s hc
  | qstat g q rd => exact execQstat_canon g q rd s hc
  | wait g o => exact execWait_canon g o s hc
  | twait g tag => exact execTwait_canon g tag s hc
  | tany g rd ra => exact execTany_canon g rd ra s hc
  | tfind g rd ra => exact execTfind_canon g rd ra s hc
  | cancel g tag rd => exact execCancel_canon g tag rd s hc
  | abinit g obj ra => exact execAbinit_canon g obj ra s hc
  | abinitReset g obj ra => exact execAbinitReset_canon g obj ra s hc
  | abwait g obj => exact execAbwait_canon g obj s hc
  | abwaitTimeout c => exact execAbwaitTimeout_canon c s hc
  | hset g h f x => exact execHset_canon g h f x s hc
  | hget g x h f => exact execHget_canon g x h f s hc
  | hmov g h hs => exact execHmov_canon g h hs s hc
  | hadv g h x => exact execHadv_canon g h x s hc
  | hld g o => exact execHld_canon g o s hc
  | hst g o => exact execHst_canon g o s hc
  | vadd g o => exact execVadd_canon g o s hc
  | vsub g o => exact execVsub_canon g o s hc
  | vmul g o => exact execVmul_canon g o s hc
  | vfma g o => exact execVfma_canon g o s hc
  | vmin g o => exact execVmin_canon g o s hc
  | vmax g o => exact execVmax_canon g o s hc
  | vabs g o => exact execVabs_canon g o s hc
  | vneg g o => exact execVneg_canon g o s hc
  | vexp2 g o => exact execVexp2_canon g o s hc
  | vlog2 g o => exact execVlog2_canon g o s hc
  | vrcp g o => exact execVrcp_canon g o s hc
  | vrsq g o => exact execVrsq_canon g o s hc
  | vtanh g o => exact execVtanh_canon g o s hc
  | vcvt g o => exact execVcvt_canon g o s hc
  | vquant g o => exact execVquant_canon g o s hc
  | vamax g o => exact execVamax_canon g o s hc
  | vred g o => exact execVred_canon g o s hc
  | vcmp g o => exact execVcmp_canon g o s hc
  | vsel g o => exact execVsel_canon g o s hc
  | vperm g o => exact execVperm_canon g o s hc
  | vbcast g o => exact execVbcast_canon g o s hc
  | vmov g o => exact execVmov_canon g o s hc
  | vfill g o => exact execVfill_canon g o s hc
  | vempty g d => exact execVempty_canon g d s hc
  | vplog g o => exact execVplog_canon g o s hc
  | vpcnt g o => exact execVpcnt_canon g o s hc
  | vpfirst g o => exact execVpfirst_canon g o s hc
  | vpmovFromX g o => exact execVpmovFromX_canon g o s hc
  | vpmovToX g o => exact execVpmovToX_canon g o s hc
  | vectorQuarterGrant c => exact execVectorQuarterGrant_canon c s hc
  | vectorComplete c => exact execVectorComplete_canon c s hc
  | csrr g rd csr => exact execCsrr_canon g rd csr s hc
  | csrw g o => exact execCsrw_canon g o s hc
  | csrset g o => exact execCsrset_canon g o s hc
  | csrclr g o => exact execCsrclr_canon g o s hc
  | tsplitWrite t => exact execTsplitWrite_canon t s hc
  | accsplitWrite t => exact execAccsplitWrite_canon t s hc
  | trap g code => exact execTrap_canon g code s hc
  | eret g => exact execEret_canon g s hc
  | wfi g ra => exact execWfi_canon g ra s hc
  | wfiTimeout c => exact execWfiTimeout_canon c s hc
  | tlbi g ra rb scope => exact execTlbi_canon g ra rb scope s hc
  | spawn g lq ra => exact execSpawn_canon g lq ra s hc
  | join g ra rb => exact execJoin_canon g ra rb s hc
  | safe g map => exact execSafe_canon g map s hc
  | yield g => exact execYield_canon g s hc
  | prio g n => exact execPrio_canon g n s hc
  | gang g bid => exact execGang_canon g bid s hc
  | sign g ra => exact execSign_canon g ra s hc
  | dissolve g ra => exact execDissolve_canon g ra s hc
  | xfer g ra => exact execXfer_canon g ra s hc
  | sstep g ra => exact execSstep_canon g ra s hc
  | heldAccessArrive c => exact execHeldAccessArrive_canon c s hc
  | compactTimeout d bid => exact execCompactTimeout_canon d bid s hc
  | qget g rd q pt pf => exact execQget_canon g rd q pt pf s hc
  | rand g rd => exact execRand_canon g rd s hc
  | copy c => exact execCopy_canon c s hc
  | copyPieceArrive c k => exact execCopyPieceArrive_canon c k s hc
  | copyComplete c => exact execCopyComplete_canon c s hc
  | gather c => exact execGather_canon c s hc
  | scatter c => exact execScatter_canon c s hc
  | mma c => exact execMma_canon c s hc
  | mrot c => exact execMrot_canon c s hc
  | mrotBytesArrive t => exact execMrotBytesArrive_canon t s hc
  | drain c => exact execDrain_canon c s hc
  | accZero c => exact execAccZero_canon c s hc
  | accLoad c => exact execAccLoad_canon c s hc
  | accAdd c => exact execAccAdd_canon c s hc
  | accMove c => exact execAccMove_canon c s hc
  | norm c => exact execNorm_canon c s hc
  | aliasBuild c => exact execAliasBuild_canon c s hc
  | smm c => exact execSmm_canon c s hc
  | collAllreduce c => exact execCollAllreduce_canon c s hc
  | collReduceScatter c => exact execCollReduceScatter_canon c s hc
  | collAllgather c => exact execCollAllgather_canon c s hc
  | collBroadcast c => exact execCollBroadcast_canon c s hc
  | collReduce c => exact execCollReduce_canon c s hc
  | collChunkCommit d => exact execCollChunkCommit_canon d s hc
  | collTimeout c => exact execCollTimeout_canon c s hc
  | collReform d => exact execCollReform_canon d s hc
  | offload c => exact execOffload_canon c s hc
  | replay c => exact execReplay_canon c s hc
  | launch c => exact execLaunch_canon c s hc
  | hostTailWrite q rec => exact execHostTailWrite_canon q rec s hc
  | launchRecordTake q => exact execLaunchRecordTake_canon q s hc
  | teamPlacement q base => exact execTeamPlacement_canon q base s hc
  | teamEnd c => exact execTeamEnd_canon c s hc
  | supervisorMark c withdraw => exact execSupervisorMark_canon c withdraw s hc
  | threadSave c => exact execThreadSave_canon c s hc
  | threadResume c => exact execThreadResume_canon c s hc
  | tileImageSwap t => exact execTileImageSwap_canon t s hc
  | tmapWrite t ptile => exact execTmapWrite_canon t ptile s hc
  | threadRestart c => exact execThreadRestart_canon c s hc
  | threadSupervisorResume c => exact execThreadSupervisorResume_canon c s hc
  | threadSupervisorEnd c => exact execThreadSupervisorEnd_canon c s hc
  | accessRefusal c => exact execAccessRefusal_canon c s hc
  | fatalReport c => exact execFatalReport_canon c s hc
  | heartbeat p => exact execHeartbeat_canon p s hc
  | heartbeatMiss p => exact execHeartbeatMiss_canon p s hc
  | pkgHeartbeat pkg => exact execPkgHeartbeat_canon pkg s hc
  | pkgDead pkg => exact execPkgDead_canon pkg s hc
  | linkFailure a b rerouted => exact execLinkFailure_canon a b rerouted s hc
  | ueRetransmit c k => exact execUeRetransmit_canon c k s hc
  | skimTurn q => exact execSkimTurn_canon q s hc
  | skimQuiesceTimeout q => exact execSkimQuiesceTimeout_canon q s hc
  | skimResult q pass => exact execSkimResult_canon q pass s hc
  | tileCacheFill t pa => exact execTileCacheFill_canon t pa s hc
  | ownershipGrant t pa => exact execOwnershipGrant_canon t pa s hc
  | logicalClockTick t n => exact execLogicalClockTick_canon t n s hc
  | clockMinUpdate pkg => exact execClockMinUpdate_canon pkg s hc
  | pageWalk c va => exact execPageWalk_canon c va s hc
  | churnStart pkg c => exact execChurnStart_canon pkg c s hc
  | hostRead pkg fn off n => exact execHostRead_canon pkg fn off n s hc
  | hostWrite pkg fn bar2 off data => exact execHostWrite_canon pkg fn bar2 off data s hc
  | mergeRequest pkg fn mask => exact execMergeRequest_canon pkg fn mask s hc
  | mergeDrainTimeout pkg => exact execMergeDrainTimeout_canon pkg s hc
  | attestationRequest pkg fn => exact execAttestationRequest_canon pkg fn s hc
  | boot pkg => exact execBoot_canon pkg s hc
  | thermalTrip d => exact execThermalTrip_canon d s hc
  | islandClockChange pkg island mhz mv => exact execIslandClockChange_canon pkg island mhz mv s hc
  | cxlHotRemove pkg port cap => exact execCxlHotRemove_canon pkg port cap s hc
  | softError va c uncorrectable => exact execSoftError_canon va c uncorrectable s hc
  | powerOff pkg => exact execPowerOff_canon pkg s hc
  | hostCompletion d a => exact execHostCompletion_canon d a s hc
  | matrixKstepGrant t => exact execMatrixKstepGrant_canon t s hc
  | kernelLabel pkg part ctx entry => exact execKernelLabel_canon pkg part ctx entry s hc
  -- `seal`, whose name is a keyword
  | _ g ra rb => exact execSeal_canon g ra rb s hc

theorem canon_of_holds {o : Host.Outcome State Fault Refusal} {t : State} (h : Holds State.Canon o) (e : o = .next t) : t.Canon := by
  subst e; exact h

theorem State.turn_canon {s : State} (h : s.Canon) : Holds State.Canon s.turn := by
  have hf := s.fetch_canon s.me h
  unfold State.turn
  dsimp only
  split
  · exact s.after_canon _ h
  · split
    · exact State.after_canon _ _ hf
    · split
      · exact State.after_canon _ _ (State.trap_canon _ _ _ _ hf)
      · next i _ _ =>
        obtain ⟨t, ht⟩ := exec_answers i (s.fetch s.me).1
        rw [ht]
        exact State.after_canon _ _ (canon_of_holds (exec_canon i hf) ht)

theorem State.act_canon {s : State} (a : Act) (h : s.Canon) : Holds State.Canon (s.act a) := by
  cases a with
  | event i =>
    unfold State.act
    dsimp only
    split
    · exact h
    · exact exec_canon i h
  | core c => exact State.turn_canon (canon_cur h _)
  | _ => exact s.idleAct_canon _ h

theorem step_canon {s : State} (h : s.Canon) : Holds State.Canon (step s) := by
  unfold step
  split
  · exact State.act_canon _ (canon_agenda h _)
  · exact State.turn_canon h

/-! ## What a turn runs -/

/-- With nothing in the agenda, a core that runs a thread takes a turn: what it has fetched decides the rest. -/
theorem step_of_running {s : State} (ha : s.agenda = []) (hr : (s.core s.me).st = .running) :
    step s = s.turn ∧ ¬ (s.core s.me).st ≠ .running :=
  ⟨by rw [step, ha], not_not.2 hr⟩

end Machine

/-! ## The statements -/

/-- Settles O1, by running the decoder. -/
theorem writtenWordsDecode : Obligations.WrittenWordsDecode := by
  unfold Obligations.WrittenWordsDecode
  decide +kernel

/-- Settles O4, by what the instruction answers. -/
theorem stepRunsTheDecodedInstruction : Obligations.StepRunsTheDecodedInstruction := by
  intro s bs i n ha hr hf hd
  obtain ⟨hstep, hrun⟩ := step_of_running ha hr
  rw [hstep, State.turn, if_neg hrun]
  cases hout : exec i (s.fetch s.me).1 <;> simp only [hf, hd, hout]

/-- Settles O5: with every earlier instruction completed, the trap is taken at once (R127). -/
theorem undecodedWordTraps : Obligations.UndecodedWordTraps := by
  intro s bs e ha hr hf hd hs
  obtain ⟨hstep, hrun⟩ := step_of_running ha hr
  have htrap (v : Word) : (s.fetch s.me).1.trap s.me causeIllegal v =
      (s.fetch s.me).1.takeTrap s.me causeIllegal false ((s.fetch s.me).1.core s.me).pc v 0 := if_pos hs
  rw [hstep, State.turn, if_neg hrun]
  simp only [hf, hd, htrap]

/-- Settles O6: at reset every list is empty. -/
theorem resetIsCanonical : Obligations.ResetIsCanonical :=
  ⟨rfl, rfl, rfl, rfl, rfl, rfl, rfl, rfl, rfl, rfl, rfl, rfl, rfl, rfl, rfl⟩

/-- Settles O7: the fetch, every arm of `exec`, the acts of the agenda and what follows a turn each keep the form. -/
theorem stepKeepsCanonicalForm : Obligations.StepKeepsCanonicalForm := fun _ _ hs ht => canon_of_holds (step_canon hs) ht

/-- Settles O8. -/
theorem everyStepAnswers : Obligations.EveryStepAnswers := by
  intro s
  unfold step
  split
  · exact State.act_answers _ _
  · exact State.turn_answers _

end Sys2Proof

/-! SUPPORT. Registers and predicates that are written, scalar words that are suppressed, words that raise flags, jumps, and how a trap
is directed; and the proofs of O9, O11, O12 and O14 to O19, and of O21. -/

namespace Sys2Proof
open Machine

namespace Machine

/-! ## Writes that do not see the register cache -/

theorem Core.wp_withRc (c : Core) (r : List (Nat × Bool)) (p : PReg) (v : Bool) :
    ({ c with rc := r } : Core).wp p v = { c.wp p v with rc := r } := by
  unfold Core.wp
  split <;> rfl

theorem Core.writePair_withRc (c : Core) (r : List (Nat × Bool)) (pt pf : PReg) (v : Bool × Bool) :
    ({ c with rc := r } : Core).writePair pt pf v = { c.writePair pt pf v with rc := r } :=
  (congrArg (fun d : Core => d.wp pf v.2) (c.wp_withRc r pt v.1)).trans ((c.wp pt v.1).wp_withRc r pf v.2)

theorem Core.setPair_withRc (c : Core) (r : List (Nat × Bool)) (wm : Wm) (pt pf : PReg) (v : Bool) :
    ({ c with rc := r } : Core).setPair wm pt pf v = { c.setPair wm pt pf v with rc := r } :=
  c.writePair_withRc r pt pf _

theorem Core.clearPair_withRc (c : Core) (r : List (Nat × Bool)) (wm : Wm) (pt pf : PReg) :
    ({ c with rc := r } : Core).clearPair wm pt pf = { c.clearPair wm pt pf with rc := r } := by
  unfold Core.clearPair
  split
  · exact c.writePair_withRc r pt pf _
  · rfl

theorem Core.suppress_withRc (c : Core) (r : List (Nat × Bool)) (i : Instr) :
    ({ c with rc := r } : Core).suppress i = { c.suppress i with rc := r } := by
  unfold Core.suppress
  split
  · rw [Core.clearPair_withRc]; rfl
  · rw [Core.clearPair_withRc]; rfl
  · rw [Core.clearPair_withRc]; rfl
  · rfl

/-- Two writes of one key: the later one stands. -/
theorem SMap.put_put {α : Type} (m : SMap α) (k : Nat) (v w : α) : (m.put k v).put k w = m.put k w := by
  induction m with
  | nil => simp [SMap.put]
  | cons e m ih =>
    obtain ⟨j, x⟩ := e
    simp only [SMap.put]
    split_ifs <;> simp_all [SMap.put]

theorem State.onCore_onCore (s : State) (k : Nat) (f g : Core → Core) :
    (s.onCore k f).onCore k g = s.onCore k fun c => g (f c) := by
  unfold State.onCore
  rw [State.core_setCore_same]
  unfold State.setCore
  dsimp only
  rw [SMap.put_put]

/-! ## Registers (R92, R99) -/

theorem Core.wx_zero (c : Core) (v : Word) : c.wx 0 v = c := if_pos rfl

theorem Core.wp_zero (c : Core) (v : Bool) : c.wp 0 v = c := if_pos rfl

theorem Core.rvp_zero (c : Core) : c.rvp 0 = BitVec.allOnes 256 := rfl

theorem Core.rvp_wvp_same (c : Core) {p : PReg} (v : Wide) (h : p ≠ 0) : (c.wvp p v).rvp p = v := by
  unfold Core.rvp Core.wvp
  rw [if_neg h, if_neg h]
  simp

theorem Core.rvp_wvp_other (c : Core) {p q : PReg} (v : Wide) (h : q ≠ p) : (c.wvp p v).rvp q = c.rvp q := by
  have hn : p.toNat ≠ q.toNat := fun e => h (BitVec.eq_of_toNat_eq e.symm)
  unfold Core.rvp Core.wvp
  split
  · rfl
  · split
    · rfl
    · simp [hn]

/-! ## A suppressed word (R98) -/

/-- Every scalar word goes through issue: an event is no word, and the vector words are set apart. -/
theorem exec_eq_issue {i : Instr} (hw : i.isWord = true) (hv : i.isVector = false) (s : State) :
    ∃ body, exec i s = .next (s.issue i body) := by
  cases i <;> cases hw <;> cases hv <;> exact ⟨_, rfl⟩

theorem did_suppress {s : State} {i : Instr} (hw : i.isWord = true) (hv : i.isVector = false) (h : s.Suppresses i) :
    ∃ t, exec i s = .next t ∧ s.Did t fun c => c.suppress i := by
  obtain ⟨body, he⟩ := exec_eq_issue hw hv s
  obtain ⟨u, hu, hn⟩ := State.issue_suppressed h body
  exact ⟨_, he.trans (congrArg Host.Outcome.next hu), hn.did _ fun c r => c.suppress_withRc r i⟩

/-! ## The immediate form (R101) -/

theorem intI_eq_wx {o : IntI} {f : ITy → Int → Int → Int} {c : Core} {v : Word}
    (h : o.ty.extend (f o.ty (o.ty.value (c.rx o.ra)) (o.ty.value (o.imm.signExtend 64))) = v) : intI o f c = c.wx o.rd v :=
  congrArg (c.wx o.rd) h

theorem completes_intI {s : State} {i : Instr} {o : IntI} {f : ITy → Int → Int → Int} {f' : Core → Core}
    (he : exec i s = scalarWord i s (intI o f)) (h : ∀ c, intI o f c = f' c) : Completes s i f' := by
  obtain rfl : intI o f = f' := funext h
  exact completes_wx (fun _ _ => rfl) he

/-- An immediate below 64 is itself the shift amount. -/
theorem shiftAmount_imm (ty : ITy) {n : Nat} (hn : 7 ≤ n) (imm : BitVec n) (h : imm.toNat < 64) :
    shiftAmount (ty.value (imm.signExtend 64)) = imm.toNat := by
  have hm : imm.msb = false := by
    rw [BitVec.msb_eq_false_iff_two_mul_lt]
    have : 2 ^ 7 ≤ 2 ^ n := Nat.pow_le_pow_right (by norm_num) hn
    omega
  rw [shiftAmount_value, BitVec.signExtend_eq_setWidth_of_msb_false hm, BitVec.toNat_setWidth,
    Nat.mod_eq_of_lt (h.trans (by norm_num)), Nat.mod_eq_of_lt h]

/-! ## Counts (R105) -/

theorem leadZeros_zero (w : Nat) : leadZeros 0 w = w := by
  induction w with
  | zero => rfl
  | succ w ih => simp [leadZeros, ih]; omega

/-- The leading zeros of a number below 2^w end at its highest one. -/
theorem leadZeros_eq {p w : Nat} (hp : p < 2 ^ w) (h0 : p ≠ 0) : leadZeros p w = w - 1 - Nat.log2 p := by
  induction w with
  | zero => omega
  | succ w ih =>
    rw [leadZeros]
    rcases Nat.lt_or_ge p (2 ^ w) with hlt | hge
    · have hl : Nat.log2 p < w := (Nat.log2_lt h0).2 hlt
      rw [Nat.div_eq_of_lt hlt, if_neg (by norm_num), ih hlt]
      omega
    · have hd : p / 2 ^ w = 1 := by
        rw [Nat.div_eq_iff (by positivity)]
        rw [pow_succ] at hp
        omega
      have hl : Nat.log2 p = w := (Nat.log2_eq_iff h0).2 ⟨hge, hp⟩
      rw [hd, if_pos (by norm_num), hl]
      omega

theorem trailZeros_zero (w : Nat) : trailZeros 0 w = w := by
  induction w with
  | zero => rfl
  | succ w ih => simp [trailZeros, ih]; omega

/-- The trailing zeros of a number below 2^w stand below its lowest one. -/
theorem trailZeros_spec {p w : Nat} (hp : p < 2 ^ w) (h0 : p ≠ 0) :
    p.testBit (trailZeros p w) = true ∧ p % 2 ^ trailZeros p w = 0 := by
  induction w generalizing p with
  | zero => omega
  | succ w ih =>
    rw [trailZeros]
    split
    · next h1 => exact ⟨by simp [Nat.testBit_zero, h1], by simp [Nat.mod_one]⟩
    · next h1 =>
      obtain ⟨hbit, hmod⟩ := ih (p := p / 2) (by rw [pow_succ] at hp; omega) (by omega)
      rw [Nat.add_comm 1]
      refine ⟨by rw [Nat.testBit_succ]; exact hbit, ?_⟩
      rw [pow_succ', Nat.mod_mul, hmod]
      omega

/-- The ones of a number, counted from below. -/
theorem popCount_eq (p w : Nat) : popCount p w = ((List.range w).filter fun n => p.testBit n).length := by
  induction w generalizing p with
  | zero => rfl
  | succ w ih =>
    have hrest : ((List.range w).map Nat.succ).filter (fun n => p.testBit n) =
        ((List.range w).filter fun n => (p / 2).testBit n).map Nat.succ := by
      rw [List.filter_map]
      congr 2
      funext n
      exact Nat.testBit_succ p n
    rw [popCount, ih, List.range_succ_eq_map, List.filter_cons, hrest, Nat.testBit_zero]
    rcases Nat.mod_two_eq_zero_or_one p with h | h
    · simp [h]
    · simp [h]; omega

/-- The one-source form, by the result that its operation gives. -/
theorem completes_intU {s : State} {i : Instr} {o : IntU} {f : ITy → Nat → Word} {f' : Nat → Word}
    (he : exec i s = scalarWord i s (intU o f)) (h : ∀ v : Word, f o.ty (v.toNat % 2 ^ o.ty.width) = f' (v.toNat % 2 ^ o.ty.width)) :
    Completes s i fun c => c.wx o.rd (f' ((c.rx o.ra).toNat % 2 ^ o.ty.width)) := by
  have hf : intU o f = fun c => c.wx o.rd (f' ((c.rx o.ra).toNat % 2 ^ o.ty.width)) :=
    funext fun c => congrArg (c.wx o.rd) (h _)
  rw [hf] at he
  exact completes_wx (fun _ _ => rfl) he

theorem ITy.extend_pattern (ty : ITy) (v : Word) : ty.extend ((v.toNat % 2 ^ ty.width : Nat) : Int) =
    BitVec.ofInt 64 (if ty.signed && decide (2 ^ (ty.width - 1) ≤ v.toNat % 2 ^ ty.width) then
      ((v.toNat % 2 ^ ty.width : Nat) : Int) - 2 ^ ty.width else ((v.toNat % 2 ^ ty.width : Nat) : Int)) := by
  have hlt : v.toNat % 2 ^ ty.width < 2 ^ 64 :=
    (Nat.mod_lt _ (by positivity)).trans_le (Nat.pow_le_pow_right (by norm_num) ty.width_bounds.2)
  have hv : (BitVec.ofInt 64 ((v.toNat % 2 ^ ty.width : Nat) : Int)).toNat % 2 ^ ty.width = v.toNat % 2 ^ ty.width := by
    rw [BitVec.ofInt_natCast, BitVec.toNat_ofNat, Nat.mod_eq_of_lt hlt, Nat.mod_mod]
  unfold ITy.extend ITy.value
  dsimp only
  rw [hv]

/-! ## A trap that the thread's own handler takes, and nobody else sees (R337) -/

theorem State.Unbound.onCore {s : State} {k : Nat} (h : s.Unbound k) {f : Core → Core} (hf : ∀ c, (f c).bwaiting = c.bwaiting) :
    (s.onCore k f).Unbound k :=
  ⟨by rw [State.core_onCore_same, hf]; exact h.phase, h.split, h.sign⟩

theorem State.trap_unbound {s : State} {k cause : Nat} {v : Word} (hc : ReachesHandler cause) (hs : (s.core k).settled = true)
    (hv : (s.core k).tvec ≠ 0) (hi : (s.core k).inh = false) (hu : s.Unbound k) (hg : (s.core k).gang = false) :
    s.trap k cause v = s.onCore k fun c => c.handled cause c.pc v :=
  (if_pos hs).trans (State.takeTrap_unbound hc hv hi hu hg)

/-- The same on a core that has just set flags. -/
theorem State.trap_raised {s : State} {k : Nat} {fl : Flags} {v : Word} (hs : (s.core k).settled = true)
    (hv : (s.core k).tvec ≠ 0) (hi : (s.core k).inh = false) (hu : s.Unbound k) (hg : (s.core k).gang = false) :
    (s.onCore k fun c => c.raise fl).trap k causeFp v = s.onCore k fun c => (c.raise fl).handled causeFp c.pc v := by
  have hc : (s.onCore k fun c => c.raise fl).core k = (s.core k).raise fl := s.core_onCore_same k _
  have ht := State.trap_unbound (s := s.onCore k fun c => c.raise fl) (v := v) (by decide : ReachesHandler causeFp)
    (by rw [hc]; exact hs) (by rw [hc]; exact hv) (by rw [hc]; exact hi) (hu.onCore fun _ => rfl) (by rw [hc]; exact hg)
  rw [ht, State.onCore_onCore]
  rfl

/-! ## Words that raise flags (R111) -/

/-- What a floating word does once its operands are named: it traps where a raised flag is enabled, else `put` takes its result. -/
def raising {α : Type} (f : Core → α × Flags) (put : α → Core → Core) (k : Nat) (t : State) : State :=
  let c := t.core k
  let r := f c
  if c.fpTraps r.2 then
    (if c.settled then (t.onCore k fun c => c.raise r.2).trap k causeFp (r.2.zeroExtend 64) else t.await k)
  else t.finishWith k fun c => put r.1 (c.raise r.2)

section Raising

variable {α : Type} {s : State} {i : Instr} {f : Core → α × Flags} {put : α → Core → Core}
  (he : exec i s = .next (s.issue i (raising f put))) (hf : ∀ (c : Core) r, f { c with rc := r } = f c)
include he hf

/-- With no raised flag enabled, the flags and the result are written. -/
theorem completes_of_raising (hput : ∀ (c : Core) v r, put v { c with rc := r } = { put v c with rc := r })
    (hno : (s.core s.me).fpTraps (f (s.core s.me)).2 = false) :
    Completes s i fun c => put (f (s.core s.me)).1 (c.raise (f (s.core s.me)).2) := by
  intro hr
  have hn := State.ready_named hr
  have hres : f ((s.ready i).core s.me) = f (s.core s.me) := hn.core.field f hf
  have htr : ((s.ready i).core s.me).fpTraps (f (s.core s.me)).2 = false :=
    (hn.core.field (fun c => c.fpTraps (f (s.core s.me)).2) fun _ _ => rfl).trans hno
  have hbody : raising f put s.me (s.ready i) =
      (s.ready i).onCore s.me fun c => (put (f (s.core s.me)).1 (c.raise (f (s.core s.me)).2)).advance 8 := by
    unfold raising
    dsimp only
    rw [hres, htr]
    rfl
  refine ⟨_, he.trans (congrArg Host.Outcome.next ((State.issue_runs hr _).trans hbody)), hn.did _ fun c r => ?_⟩
  have h1 : ({ c with rc := r } : Core).raise (f (s.core s.me)).2 = { c.raise (f (s.core s.me)).2 with rc := r } := rfl
  rw [h1, hput]
  rfl

/-- An enabled flag is set, and the trap is taken with nothing else changed. -/
theorem traps_of_raising (hr : s.Runs i) (hu : s.Unbound s.me) (hs : (s.core s.me).settled = true)
    (hfl : (s.core s.me).fpTraps (f (s.core s.me)).2 = true) (hv : (s.core s.me).tvec ≠ 0) (hi : (s.core s.me).inh = false)
    (hg : (s.core s.me).gang = false) :
    ∃ t, exec i s = .next t ∧ s.Did t fun c =>
      (c.raise (f (s.core s.me)).2).handled 15 c.pc ((f (s.core s.me)).2.zeroExtend 64) := by
  have hn := State.ready_named hr
  have hres : f ((s.ready i).core s.me) = f (s.core s.me) := hn.core.field f hf
  have hb := hn.core.bare
  have hset : ((s.ready i).core s.me).settled = true := (Core.field_of_bare hb Core.settled).trans hs
  have htr : ((s.ready i).core s.me).fpTraps (f (s.core s.me)).2 = true :=
    (Core.field_of_bare hb fun c => c.fpTraps (f (s.core s.me)).2).trans hfl
  have htrap : ((s.ready i).onCore s.me fun c => c.raise (f (s.core s.me)).2).trap s.me causeFp ((f (s.core s.me)).2.zeroExtend 64) =
      (s.ready i).onCore s.me fun c => (c.raise (f (s.core s.me)).2).handled causeFp c.pc ((f (s.core s.me)).2.zeroExtend 64) :=
    State.trap_raised hset ((Core.field_of_bare hb Core.tvec).trans_ne hv) ((Core.field_of_bare hb Core.inh).trans hi)
      (hn.unbound hu) ((hn.core.field Core.gang fun _ _ => rfl).trans hg)
  have hbody : raising f put s.me (s.ready i) =
      (s.ready i).onCore s.me fun c => (c.raise (f (s.core s.me)).2).handled causeFp c.pc ((f (s.core s.me)).2.zeroExtend 64) := by
    unfold raising
    dsimp only
    rw [hres, if_pos htr, if_pos hset, htrap]
  exact ⟨_, he.trans (congrArg Host.Outcome.next ((State.issue_runs hr _).trans hbody)), hn.did _ fun _ _ => rfl⟩

end Raising

/-- A floating word that writes a register. -/
theorem completes_float {s : State} {i : Instr} {rd : XReg} {f : Core → Word × Flags} (he : exec i s = floatWord i s rd f)
    (hf : ∀ (c : Core) r, f { c with rc := r } = f c) (hno : (s.core s.me).fpTraps (f (s.core s.me)).2 = false) :
    Completes s i fun c => (c.raise (f (s.core s.me)).2).wx rd (f (s.core s.me)).1 :=
  completes_of_raising (put := fun v c => c.wx rd v) he hf (fun c v r => c.wx_withRc r rd v) hno

/-- What `fmin` and `fmax` give (R113). -/
def picked (m : FminR) (greater : Bool) (c : Core) : Word × Flags :=
  let r := pickMin m.ty.fmt greater (m.ty.bits (c.rx m.ra)) (m.ty.bits (c.rx m.rb))
  (BitVec.ofNat 64 r.1, r.2)

/-! ## Compares and predicate moves -/

/-- What `fcmp` compares (R117). -/
def condOf (o : FcmpC) (c : Core) : Bool × Flags := fpCond o.cond (o.ty.val (c.rx o.ra)) (o.ty.val (c.rx o.rb))

theorem classBit_lt (f : Fmt) (n : Nat) : classBit f n < 10 := by
  unfold classBit
  split
  · split <;> decide
  · split <;> decide
  · split_ifs <;> decide

theorem tableBit_eq (t : BitVec 8) (a b c : Bool) :
    tableBit t a b c = t.getLsbD ((if a then 4 else 0) + (if b then 2 else 0) + if c then 1 else 0) := by
  cases a <;> cases b <;> cases c <;> rfl

/-- The byte of the predicates, as the sum of those that read 1 (R120). -/
theorem predByte_eq (c : Core) : (c.p ||| 1).zeroExtend 64 =
    BitVec.ofNat 64 (((List.range 8).filter fun n => c.rp (BitVec.ofNat 3 n)).foldl (fun a n => a + 2 ^ n) 0) := by
  have h : ∀ p : BitVec 8, (p ||| 1).zeroExtend 64 = BitVec.ofNat 64 (((List.range 8).filter fun n =>
      BitVec.ofNat 3 n == 0 || p.getLsbD (BitVec.ofNat 3 n).toNat).foldl (fun a n => a + 2 ^ n) 0) := by decide +kernel
  exact h c.p

theorem rp_ofByte (c : Core) (v : Word) (n : PReg) :
    ({ c with p := v.truncate 8 ||| 1 } : Core).rp n = (n == 0 || v.getLsbD n.toNat) := by
  have hn : n.toNat < 8 := n.isLt
  unfold Core.rp
  rcases eq_or_ne n 0 with rfl | h
  · rfl
  · have h0 : n.toNat ≠ 0 := fun e => h (BitVec.eq_of_toNat_eq e)
    simp [hn, h0]

/-! ## Jumps (R122) -/

theorem exec_jr_runs {s : State} {g : Guard} {rd ra : XReg} (h : s.Runs (.jr g rd ra)) :
    exec (.jr g rd ra) s = .next (if ((s.core s.me).rx ra).toNat % 8 = 0 then
        (s.ready (.jr g rd ra)).onCore s.me fun c => (c.wx rd (c.pc + 8)).jump ((s.core s.me).rx ra)
      else (s.ready (.jr g rd ra)).trap s.me causeAlign ((s.core s.me).rx ra)) := by
  have hrx : ((s.ready (.jr g rd ra)).core s.me).rx ra = (s.core s.me).rx ra :=
    Core.field_of_bare (State.ready_named h).core.bare fun c => c.rx ra
  refine congrArg Host.Outcome.next ((State.issue_runs h _).trans ?_)
  dsimp only
  rw [hrx]
  by_cases ha : ((s.core s.me).rx ra).toNat % 8 = 0
  · rw [if_pos ha, (aligned8_iff _).2 ha]; rfl
  · rw [if_neg ha, if_pos (Bool.not_eq_false _ ▸ mt (aligned8_iff _).1 ha)]

/-! ## How a trap is directed (R337) -/

section Directed

variable {s : State} {k cause : Nat} {eng : Bool} {pc tval aux : Word}

/-- R337, step 3. -/
theorem State.bare_takeTrap_stopped (h6 : cause ≠ causeAccess) (h9 : cause ≠ causeEccFatal)
    (hh : (s.core k).tvec = 0 ∨ (s.core k).inh = true ∨ cause = causeBarrierTimeout) :
    ((s.takeTrap k cause eng pc tval aux).core k).bare =
      ((s.core k).stopsAt (cause + if eng then 2 ^ 16 else 0) pc tval).bare := by
  unfold State.takeTrap
  dsimp only
  rw [if_neg h6, if_neg h9, if_pos hh, State.core_recordCore, State.bare_stopThread, State.core_onCore_same]
  rfl

/-- R337, step 4, where nobody else sees what the core waits in. -/
theorem State.takeTrap_handled (h6 : cause ≠ causeAccess) (h9 : cause ≠ causeEccFatal) (h13 : cause ≠ 13) (hv : (s.core k).tvec ≠ 0)
    (hi : (s.core k).inh = false) (hu : s.Unbound k) :
    s.takeTrap k cause eng pc tval aux =
      (s.onCore k fun c => c.handled (cause + if eng then 2 ^ 16 else 0) pc tval).leaveGang k := by
  have hgo : ¬ ((s.core k).tvec = 0 ∨ (s.core k).inh ∨ cause = causeBarrierTimeout) := by
    rw [hi]
    simpa [causeBarrierTimeout, h13] using hv
  unfold State.takeTrap
  dsimp only
  rw [if_neg h6, if_neg h9, if_neg hgo, State.keepFloors_unbound hu, State.abandon_unbound hu]
  rfl

/-- A member that leaves its gang alone leaves it, whether or not it leads (R41). -/
theorem State.core_leaveGang (hg : (s.core k).gang = true) : (s.leaveGang k).core k = (s.core k).ungang := by
  unfold State.leaveGang
  rw [if_pos hg]
  split
  · have h (u : State) (i : Nat) (hi : i ≠ 0) : (u.onCore (k + i) Core.ungang).core k = u.core k :=
      u.core_onCore_other _ (by omega)
    simp only [List.range_succ, List.range_zero, List.nil_append, List.foldl_append, List.foldl_cons, List.foldl_nil]
    rw [h _ 3 (by decide), h _ 2 (by decide), h _ 1 (by decide)]
    exact s.core_onCore_same k _
  · exact s.core_onCore_same k _

end Directed

end Machine

/-! ## The statements -/

/-- Settles O21, register file by register file. -/
theorem registerRules : Obligations.RegisterRules := by
  intro c v b
  refine ⟨fun r => ⟨rfl, fun hr => ?x, fun q hq => c.rx_wx_other v hq⟩, c.wx_zero v,
    fun r => ⟨rfl, fun hr => ?p, fun q hq => c.rp_wp_other b hq⟩, c.wp_zero b,
    fun h w => ⟨c.rh_wh_same h w, fun j hj => c.rh_wh_other w hj⟩,
    fun r w => ⟨rfl, c.rvp_wvp_same w, fun q hq => c.rvp_wvp_other w hq⟩⟩
  case x => rw [Core.rx_wx_same, if_neg hr]
  case p => rw [Core.rp_wp_same, decide_eq_false hr, Bool.false_or]

/-- Settles O9: issue hands a suppressed scalar word to `Core.suppress`, which does what the statement writes out. -/
theorem suppressedWordOnlyAdvances : Obligations.SuppressedWordOnlyAdvances := by
  intro s i hw hv h
  obtain ⟨t, ht, hd⟩ := did_suppress hw hv h
  refine ⟨t, ht, ?_⟩
  cases i <;> exact hd

/-- Settles O11: as for the register form, with the immediate in place of the second register. -/
theorem integerImmediateResults : Obligations.IntegerImmediateResults := by
  intro s g o
  have hsh (h : o.imm.toNat < 64) := shiftAmount_imm o.ty (by norm_num) o.imm h
  refine ⟨?add, ?mul, ?and, ?or, ?xor, ?andn, ?min, ?max, fun h => ⟨?sll, ?srl, ?sra, ?rot⟩⟩
  case add => exact completes_intI rfl fun _ => rfl
  case mul => exact completes_intI rfl fun _ => rfl
  case and =>
    exact completes_intI rfl fun _ => intI_eq_wx <|
      extend_bitInt o.ty _ (· && ·) _ _ fun _ _ _ _ => BitVec.getLsbD_and
  case or =>
    exact completes_intI rfl fun _ => intI_eq_wx <|
      extend_bitInt o.ty _ (· || ·) _ _ fun _ _ _ _ => BitVec.getLsbD_or
  case xor =>
    exact completes_intI rfl fun _ => intI_eq_wx <|
      extend_bitInt o.ty _ (· ^^ ·) _ _ fun _ _ _ _ => BitVec.getLsbD_xor
  case andn =>
    exact completes_intI rfl fun _ => intI_eq_wx <|
      extend_bitInt o.ty _ (fun p q => p && !q) _ _ fun _ _ _ hi => by simp [hi]
  case min => exact completes_intI rfl fun _ => intI_eq_wx (congrArg o.ty.extend (min_def _ _))
  case max => exact completes_intI rfl fun _ => intI_eq_wx (congrArg o.ty.extend (max_def _ _))
  case sll => exact completes_intI rfl fun _ => intI_eq_wx (by rw [hsh h, sllInt_value])
  case srl => exact completes_intI rfl fun _ => intI_eq_wx (by rw [hsh h, srlInt_value])
  case sra => exact completes_intI rfl fun _ => intI_eq_wx (by rw [hsh h, sraInt_value])
  case rot => exact completes_intI rfl fun _ => intI_eq_wx (by rw [hsh h, rotInt_value])

/-- Settles O12: each count is pinned down by recursion on the width. -/
theorem oneSourceResults : Obligations.OneSourceResults := by
  intro s g o
  refine ⟨fun p hp h0 => leadZeros_eq hp h0, leadZeros_zero _, ?clz, fun p hp h0 => trailZeros_spec hp h0, trailZeros_zero _,
    ?ctz, ?popc, fun hs => ?sext, fun hs => ?zext⟩
  case clz => exact completes_intU (f' := fun p => BitVec.ofNat 64 (leadZeros p o.ty.width)) rfl fun _ => rfl
  case ctz => exact completes_intU (f' := fun p => BitVec.ofNat 64 (trailZeros p o.ty.width)) rfl fun _ => rfl
  case popc =>
    exact completes_intU (f' := fun p => BitVec.ofNat 64 ((List.range o.ty.width).filter fun n => p.testBit n).length) rfl
      fun v => congrArg (BitVec.ofNat 64) (popCount_eq _ _)
  case sext =>
    refine completes_intU
      (f' := fun p => BitVec.ofInt 64 (if p < 2 ^ (o.ty.width - 1) then (p : Int) else p - 2 ^ o.ty.width)) rfl fun v => ?_
    rw [ITy.extend_pattern, hs]
    simp only [Bool.true_and, decide_eq_true_eq, ← Nat.not_lt, ite_not]
  case zext =>
    refine completes_intU (f' := fun p => BitVec.ofNat 64 p) rfl fun v => ?_
    rw [ITy.extend_pattern, hs]
    exact BitVec.ofInt_natCast _ _

/-- Settles O14: a floating word whose raised flags are not enabled writes its flags and its result. -/
theorem floatResults : Obligations.FloatResults := by
  intro s g o p q m v
  refine ⟨?add, ?sub, ?mul, ?div, ?fma, ?sqrt, ?min, ?max, ?cvt⟩
  case add => exact completes_float (f := float2 o Val.add) rfl fun _ _ => rfl
  case sub => exact completes_float (f := float2 o fun rm a b => Val.add rm a b.neg) rfl fun _ _ => rfl
  case mul => exact completes_float (f := float2 o fun _ => Val.mul) rfl fun _ _ => rfl
  case div => exact completes_float (f := float2 o fun _ => Val.div) rfl fun _ _ => rfl
  case fma => exact completes_float (f := fun c => p.ty.pack p.rm (Val.fma p.rm (p.ty.val (c.rx p.ra)) (p.ty.val (c.rx p.rb))
    (p.ty.val (c.rx p.rc)))) rfl fun _ _ => rfl
  case sqrt => exact completes_float (f := fun c => q.ty.pack q.rm (Val.sqrt (q.ty.val (c.rx q.ra)))) rfl fun _ _ => rfl
  case min => exact completes_float (f := picked m false) rfl fun _ _ => rfl
  case max => exact completes_float (f := picked m true) rfl fun _ _ => rfl
  case cvt => exact completes_float (f := fun c => convert v.dst v.src v.rm (c.rx v.ra)) rfl fun _ _ => rfl

/-- Settles O15: the flag is set first, and the trap is taken on the core that holds it. -/
theorem floatTrap : Obligations.FloatTrap := by
  intro s g o f
  refine ⟨fun hr hu hs hfl hv hi hg => ?add, fun hr hu hs hfl hv hi hg => ?div, fun hr hu hs hfl hv hi hg => ?cmp⟩
  case add => exact traps_of_raising (f := float2 o Val.add) (put := fun v c => c.wx o.rd v) rfl (fun _ _ => rfl) hr hu hs hfl hv hi hg
  case div => exact traps_of_raising (f := float2 o fun _ => Val.div) (put := fun v c => c.wx o.rd v) rfl (fun _ _ => rfl) hr hu hs hfl hv hi hg
  case cmp =>
    exact traps_of_raising (f := condOf f) (put := fun v c => c.setPair f.wm f.pt f.pf v) rfl (fun _ _ => rfl) hr hu hs hfl hv hi hg

/-- Settles O16: the pair that `Core.setPair` writes is the one of the write mode. -/
theorem compareResults : Obligations.CompareResults := by
  intro s g o f k
  refine ⟨?cmp, fun hno => ?fcmp, classBit_lt k.ty.fmt, completes_wx (fun _ _ => rfl) rfl⟩
  case cmp =>
    have h := completes_of_scalarWord (s := s) (i := .cmp g o) rfl fun c r => c.setPair_withRc r o.wm o.pt o.pf _
    cases hwm : o.wm <;> (rw [hwm] at h; exact h)
  case fcmp =>
    have h := completes_of_raising (s := s) (i := .fcmp g f) (f := condOf f) (put := fun v c => c.setPair f.wm f.pt f.pf v) rfl
      (fun _ _ => rfl) (fun c v r => c.setPair_withRc r f.wm f.pt f.pf v) hno
    cases hwm : f.wm <;> (rw [hwm] at h; exact h)

/-- Settles O17. -/
theorem predicateResults : Obligations.PredicateResults := by
  intro s g o l x
  refine ⟨?tbit, ?plog, ?toX, ?toPr, fun c n => rp_ofByte c _ n⟩
  case tbit => exact completes_of_scalarWord rfl fun c r => c.setPair_withRc r o.wm o.pt o.pf _
  case plog =>
    simp only [← tableBit_eq]
    exact completes_of_scalarWord rfl fun c r => c.wp_withRc r l.pd _
  case toX =>
    simp only [← predByte_eq]
    exact completes_wx (fun _ _ => rfl) rfl
  case toPr =>
    have low (w : Word) : w.truncate 8 = fld w 0 8 := BitVec.setWidth_eq_extractLsb' (by norm_num)
    simp only [low]
    exact completes_of_scalarWord rfl fun _ _ => rfl

/-- Settles O18: the target is read from the state in which the operands are named, which has the registers of the first. -/
theorem branchesAndJumps : Obligations.BranchesAndJumps := by
  intro s g off rd ra
  refine ⟨fun hr => ?br, fun hr => ?call, fun hr ha => ?jr, fun hr ha hh => ?misaligned⟩
  case br =>
    refine ⟨_, congrArg Host.Outcome.next (State.issue_runs hr _), ?_⟩
    simp only [mul_comm (8 : Word)]
    exact (State.ready_named hr).did _ fun _ _ => rfl
  case call =>
    refine ⟨_, congrArg Host.Outcome.next (State.issue_runs hr _), ?_⟩
    simp only [mul_comm (8 : Word)]
    exact (State.ready_named hr).did (fun c => (c.wx 1 (c.pc + 8)).jump (branchTarget c.pc off)) fun _ _ => rfl
  case jr =>
    refine ⟨_, exec_jr_runs hr, ?_⟩
    rw [if_pos ha]
    have h := (State.ready_named hr).did (fun c => (c.wx rd (c.pc + 8)).jump ((s.core s.me).rx ra)) fun c r => by
      rw [Core.wx_withRc]; rfl
    exact ⟨h.toSameBut, h.core⟩
  case misaligned =>
    refine ⟨_, exec_jr_runs hr, ?_⟩
    rw [if_neg ha]
    exact (State.ready_named hr).trapsTo hr.running (by decide) hh

/-- Settles O19. -/
theorem trapDirection : Obligations.TrapDirection := by
  intro s k cause eng pc tval aux
  refine ⟨fun h => if_pos h, fun h => ?kill, fun h6 h9 hh => ?stops, fun h6 h9 h13 hv hi hu hg => ?handler,
    fun h6 h9 h13 hv hi hu hg => ?gang⟩
  case kill => exact (if_neg (by rw [h]; decide)).trans (if_pos h)
  case stops =>
    have e := State.bare_takeTrap_stopped (eng := eng) (pc := pc) (tval := tval) (aux := aux) h6 h9 hh
    exact ⟨Core.field_of_bare e Core.st, Core.field_of_bare e Core.tcause, Core.field_of_bare e Core.tpc,
      Core.field_of_bare e Core.tval, (Core.field_of_bare e Core.pc :), (Core.field_of_bare e Core.x :)⟩
  case handler =>
    rw [State.takeTrap_handled h6 h9 h13 hv hi hu, State.leaveGang_none (by rw [State.core_onCore_same]; exact hg)]
    rfl
  case gang =>
    rw [State.takeTrap_handled h6 h9 h13 hv hi hu, State.core_leaveGang (by rw [State.core_onCore_same]; exact hg),
      State.core_onCore_same]

end Sys2Proof

/-! SUPPORT. Forming and checking an address (R125, R162 to R165), the words that access memory, what they enter; and the proofs of O22
to O25, O28, O30 and O32. -/

namespace Sys2Proof
open Machine

namespace Machine

/-! ## A change of the TLBs alone -/

/-- `t` is `s` but for what the TLBs hold (R164). -/
structure State.SameButTlbs (s t : State) : Prop where
  rest : t = { s with cores := t.cores, tiles := t.tiles, quads := t.quads }
  cores : ∀ j, { t.core j with tlb := (s.core j).tlb } = s.core j
  tiles : ∀ j, { t.tile j with tlb := (s.tile j).tlb } = s.tile j
  quads : ∀ j, { t.quad j with tlb := (s.quad j).tlb } = s.quad j

theorem State.SameButTlbs.refl (s : State) : s.SameButTlbs s := ⟨rfl, fun _ => rfl, fun _ => rfl, fun _ => rfl⟩

theorem State.quad_onQuad_other (s : State) {q j : Nat} (f : Quad → Quad) (h : j ≠ q) : (s.onQuad q f).quad j = s.quad j :=
  SMap.get_put_other _ _ _ h

theorem State.tlbFill_sameButTlbs (s : State) (k : Nat) (e : Tlb) : s.SameButTlbs (s.tlbFill k e) := by
  have hcore (j : Nat) : { (s.onCore k fun c => { c with tlb := tlbAdd 32 e c.tlb }).core j with tlb := (s.core j).tlb } = s.core j := by
    rcases eq_or_ne j k with rfl | h
    · rw [State.core_onCore_same]
    · rw [State.core_onCore_other s _ h]
  have htile (u : State) (t j : Nat) : { (u.onTile t fun v => { v with tlb := tlbAdd 256 e v.tlb }).tile j with tlb := (u.tile j).tlb } =
      u.tile j := by
    rcases eq_or_ne j t with rfl | h
    · rw [State.tile_onTile_same]
    · rw [State.tile_onTile_other u _ h]
  have hquad (u : State) (q j : Nat) : { (u.onQuad q fun v => { v with tlb := tlbAdd 8192 e v.tlb }).quad j with tlb := (u.quad j).tlb } =
      u.quad j := by
    rcases eq_or_ne j q with rfl | h
    · rw [State.quad_onQuad_same]
    · rw [State.quad_onQuad_other u _ h]
  unfold State.tlbFill
  dsimp only
  split
  · exact ⟨rfl, hcore, htile (s.onCore k _) (coreTile k), hquad ((s.onCore k _).onTile (coreTile k) _) (coreQuad k)⟩
  · exact ⟨rfl, hcore, fun _ => rfl, hquad (s.onCore k _) (coreQuad k)⟩

theorem State.resolve_sameButTlbs (s : State) (k va : Nat) (need : Need) : s.SameButTlbs (s.resolve k va need).1 := by
  unfold State.resolve
  split
  · dsimp only
    split <;> exact .refl s
  · split
    · exact .refl s
    · split
      · exact .refl s
      · dsimp only
        split <;> exact s.tlbFill_sameButTlbs k _

theorem State.checkAddr_sameButTlbs (s : State) (k : Nat) (va : Word) (size : Nat) (need : Need) :
    s.SameButTlbs (s.checkAddr k va size need).1 := by
  unfold State.checkAddr
  split
  · exact .refl s
  · split
    · exact .refl s
    · exact s.resolve_sameButTlbs k va.toNat need

/-- A check fails with PAGE or with ALIGN (R125). -/
theorem State.checkAddr_error {s v : State} {k : Nat} {va : Word} {size : Nat} {need : Need} {cause : Nat}
    (h : s.checkAddr k va size need = (v, .error cause)) : cause = causePage ∨ cause = causeAlign := by
  have h2 := congrArg Prod.snd h
  unfold State.checkAddr at h2
  split at h2
  · exact .inl (Except.error.inj h2).symm
  · split at h2
    · exact .inr (Except.error.inj h2).symm
    · dsimp only at h2
      split at h2
      · exact absurd h2 (by simp)
      · exact .inl (Except.error.inj h2).symm

section SameButTlbs

variable {s v : State} (h : s.SameButTlbs v)
include h

/-- A field of a core other than its TLB. -/
theorem State.SameButTlbs.coreField {α : Type} (j : Nat) (f : Core → α) (hf : ∀ (c : Core) t, f { c with tlb := t } = f c) :
    f (v.core j) = f (s.core j) :=
  (hf _ _).symm.trans (congrArg f (h.cores j))

theorem State.SameButTlbs.tileField {α : Type} (j : Nat) (f : Tile → α) (hf : ∀ (c : Tile) t, f { c with tlb := t } = f c) :
    f (v.tile j) = f (s.tile j) :=
  (hf _ _).symm.trans (congrArg f (h.tiles j))

theorem State.SameButTlbs.unbound {k : Nat} (hu : s.Unbound k) : v.Unbound k :=
  ⟨(h.coreField k Core.bwaiting fun _ _ => rfl).trans hu.phase,
    fun r hr => hu.split r ((h.tileField (coreTile k) Tile.req fun _ _ => rfl).symm.trans hr),
    fun c hc => hu.sign c ((h.tileField (coreTile k) Tile.signing fun _ _ => rfl).symm.trans hc)⟩

theorem State.SameButTlbs.me : v.me = s.me := (congrArg State.me h.rest :)

end SameButTlbs

/-! ## A word that checks an address -/

theorem State.withKey_error {s v : State} {k : Nat} {va : Word} {size : Nat} {need : Need} {body : Nat → State → State} {cause : Nat}
    (h : s.checkAddr k va size need = (v, .error cause)) : s.withKey k va size need body = v.trap k cause va := by
  unfold State.withKey
  rw [h]

theorem State.withKey_ok {s v : State} {k : Nat} {va : Word} {size : Nat} {need : Need} {body : Nat → State → State} {key : Nat}
    (h : s.checkAddr k va size need = (v, .ok key)) (hs : v.splitHeld k key = false) :
    s.withKey k va size need body = body key (v.closeWindow k key) := by
  unfold State.withKey
  rw [h]
  dsimp only
  rw [hs]
  exact if_neg (by decide)

@[simp] theorem State.core_closeWindow (s : State) (k key j : Nat) : (s.closeWindow k key).core j = s.core j := by
  unfold State.closeWindow
  dsimp only
  split
  · split
    · split <;> rfl
    · rfl
  · rfl

@[simp] theorem State.seq_closeWindow (s : State) (k key : Nat) : (s.closeWindow k key).seq = s.seq := by
  unfold State.closeWindow
  dsimp only
  split
  · split
    · split <;> rfl
    · rfl
  · rfl

/-- A word that runs reads what it needs of its core, `f`, from the state before its operands were named. -/
theorem exec_runs_reading {α : Type} {s : State} {i : Instr} {body : Nat → State → State} {f : Core → α} {b : α → State → State}
    (hr : s.Runs i) (he : exec i s = .next (s.issue i body)) (hb : ∀ t : State, body s.me t = b (f (t.core s.me)) t)
    (hf : ∀ (c : Core) r, f { c with rc := r } = f c) : exec i s = .next (b (f (s.core s.me)) (s.ready i)) := by
  rw [he, State.issue_runs hr, hb, (State.ready_named hr).core.field f hf]

section Words

variable {s : State} {g : Guard}

theorem exec_ld_runs {o : MemM} (hr : s.Runs (.ld g o)) : exec (.ld g o) s = .next ((s.ready (.ld g o)).withKey s.me
    ((s.core s.me).rx o.rb + o.disp.signExtend 64) (o.ty.width / 8) .rd fun key u =>
      if isShort s.me key then u.shortLoad s.me o ((s.core s.me).rx o.rb + o.disp.signExtend 64) key false
      else u.enterLoad s.me (loadOf .plain o s.me ((s.core s.me).rx o.rb + o.disp.signExtend 64) key u)) :=
  exec_runs_reading (f := fun c => memAddr c o.rb o.disp) (b := fun va t => t.withKey s.me va (o.ty.width / 8) .rd fun key u =>
      if isShort s.me key then u.shortLoad s.me o va key false else u.enterLoad s.me (loadOf .plain o s.me va key u))
    hr rfl (fun _ => rfl) fun _ _ => rfl

theorem exec_ldc_runs {o : MemM} (hr : s.Runs (.ldc g o)) : exec (.ldc g o) s = .next ((s.ready (.ldc g o)).withKey s.me
    ((s.core s.me).rx o.rb + o.disp.signExtend 64) (o.ty.width / 8) .rd fun key u =>
      if isShort s.me key then u.shortLoad s.me o ((s.core s.me).rx o.rb + o.disp.signExtend 64) key false
      else u.enterLoad s.me (loadOf (if isDram key then .ro else .plain) o s.me
        ((s.core s.me).rx o.rb + o.disp.signExtend 64) key u)) :=
  exec_runs_reading (f := fun c => memAddr c o.rb o.disp) (b := fun va t => t.withKey s.me va (o.ty.width / 8) .rd fun key u =>
      if isShort s.me key then u.shortLoad s.me o va key false
      else u.enterLoad s.me (loadOf (if isDram key then .ro else .plain) o s.me va key u))
    hr rfl (fun _ => rfl) fun _ _ => rfl

theorem exec_lds_runs {o : MemM} (hr : s.Runs (.lds g o)) : exec (.lds g o) s = .next ((s.ready (.lds g o)).withKey s.me
    ((s.core s.me).rx o.rb + o.disp.signExtend 64) (o.ty.width / 8) .rd fun key u =>
      if !u.fullRange key && !u.killedRange key then u.trap s.me causePage ((s.core s.me).rx o.rb + o.disp.signExtend 64)
      else if isShort s.me key then u.bankLoad s.me o ((s.core s.me).rx o.rb + o.disp.signExtend 64) key
      else u.enterLoad s.me (loadOf (if o.take then .take else .wait) o s.me
        ((s.core s.me).rx o.rb + o.disp.signExtend 64) key u)) :=
  exec_runs_reading (f := fun c => memAddr c o.rb o.disp) (b := fun va t => t.withKey s.me va (o.ty.width / 8) .rd fun key u =>
      if !u.fullRange key && !u.killedRange key then u.trap s.me causePage va
      else if isShort s.me key then u.bankLoad s.me o va key
      else u.enterLoad s.me (loadOf (if o.take then .take else .wait) o s.me va key u))
    hr rfl (fun _ => rfl) fun _ _ => rfl

theorem exec_st_runs {o : MemM} (hr : s.Runs (.st g o)) : exec (.st g o) s = .next ((s.ready (.st g o)).withKey s.me
    ((s.core s.me).rx o.rb + o.disp.signExtend 64) (o.ty.width / 8) .wr fun key u =>
      u.enterStore s.me (storeOf .write o ((s.core s.me).rx o.rb + o.disp.signExtend 64) key s.me u)) :=
  exec_runs_reading (f := fun c => memAddr c o.rb o.disp) (b := fun va t => t.withKey s.me va (o.ty.width / 8) .wr fun key u =>
      u.enterStore s.me (storeOf .write o va key s.me u)) hr rfl (fun _ => rfl) fun _ _ => rfl

theorem exec_stf_runs {o : MemM} (hr : s.Runs (.stf g o)) : exec (.stf g o) s = .next ((s.ready (.stf g o)).withKey s.me
    ((s.core s.me).rx o.rb + o.disp.signExtend 64) (o.ty.width / 8) .wr fun key u =>
      if !u.fullRange key && !(isTileStore key && decide (0x1000 ≤ keyOff key) && decide (keyOff key < 0x2000)) then
        u.trap s.me causePage ((s.core s.me).rx o.rb + o.disp.signExtend 64)
      else u.enterStore s.me (storeOf .writeFull o ((s.core s.me).rx o.rb + o.disp.signExtend 64) key s.me u)) :=
  exec_runs_reading (f := fun c => memAddr c o.rb o.disp) (b := fun va t => t.withKey s.me va (o.ty.width / 8) .wr fun key u =>
      if !u.fullRange key && !(isTileStore key && decide (0x1000 ≤ keyOff key) && decide (keyOff key < 0x2000)) then
        u.trap s.me causePage va
      else u.enterStore s.me (storeOf .writeFull o va key s.me u)) hr rfl (fun _ => rfl) fun _ _ => rfl

theorem exec_hld_runs {h : HandleM} (hr : s.Runs (.hld g h)) : exec (.hld g h) s = .next ((s.ready (.hld g h)).withKey s.me
    ((s.core s.me).rx h.rb + h.disp.signExtend 64) 32 .rd fun key u => u.enterLoad s.me
      { kind := .handle, hint := h.hint, bad := false, reg := h.h.toNat, ty := .n64, size := 32,
        va := (s.core s.me).rx h.rb + h.disp.signExtend 64, key := key, a := 0, b := 0, scope := h.scope, acq := h.ord, rel := false,
        checked := isChecked s.me key || u.pinnedElse s.me key, err := 0, pc := (u.core s.me).pc, seq := u.seq }) :=
  exec_runs_reading (f := fun c => memAddr c h.rb h.disp) (b := fun va t => t.withKey s.me va 32 .rd fun key u => u.enterLoad s.me
      { kind := .handle, hint := h.hint, bad := false, reg := h.h.toNat, ty := .n64, size := 32, va := va, key := key, a := 0, b := 0,
        scope := h.scope, acq := h.ord, rel := false, checked := isChecked s.me key || u.pinnedElse s.me key, err := 0,
        pc := (u.core s.me).pc, seq := u.seq }) hr rfl (fun _ => rfl) fun _ _ => rfl

theorem exec_hst_runs {h : HandleM} (hr : s.Runs (.hst g h)) : exec (.hst g h) s = .next ((s.ready (.hst g h)).withKey s.me
    ((s.core s.me).rx h.rb + h.disp.signExtend 64) 32 .wr fun key u => u.enterStore s.me
      { kind := .write, va := (s.core s.me).rx h.rb + h.disp.signExtend 64, key := key,
        bytes := toBytes 32 ((u.core s.me).rh h.h).toNat, scope := h.scope, rel := h.ord, hint := h.hint, pc := (u.core s.me).pc,
        seq := u.seq }) :=
  exec_runs_reading (f := fun c => memAddr c h.rb h.disp) (b := fun va t => t.withKey s.me va 32 .wr fun key u => u.enterStore s.me
      { kind := .write, va := va, key := key, bytes := toBytes 32 ((u.core s.me).rh h.h).toNat, scope := h.scope,
        rel := h.ord, hint := h.hint, pc := (u.core s.me).pc, seq := u.seq }) hr rfl (fun _ => rfl) fun _ _ => rfl

theorem exec_amo_runs {a : AmoR} (hr : s.Runs (.amo g a)) : exec (.amo g a) s = .next ((s.ready (.amo g a)).enterAtomic s.me
    (.amo a.op) a.rd a.ty ((s.core s.me).rx a.ra) ((s.core s.me).rx a.rb) 0 a.scope a.ord) :=
  exec_runs_reading (f := fun c => (c.rx a.ra, c.rx a.rb))
    (b := fun r t => t.enterAtomic s.me (.amo a.op) a.rd a.ty r.1 r.2 0 a.scope a.ord) hr rfl (fun _ => rfl) fun _ _ => rfl

theorem exec_cas_runs {a : CasR} (hr : s.Runs (.cas g a)) : exec (.cas g a) s = .next ((s.ready (.cas g a)).enterAtomic s.me
    .cas a.rd a.ty ((s.core s.me).rx a.ra) ((s.core s.me).rx a.rb) ((s.core s.me).rx a.rc) a.scope a.ord) :=
  exec_runs_reading (f := fun c => (c.rx a.ra, c.rx a.rb, c.rx a.rc))
    (b := fun r t => t.enterAtomic s.me .cas a.rd a.ty r.1 r.2.1 r.2.2 a.scope a.ord) hr rfl (fun _ => rfl) fun _ _ => rfl

theorem exec_red_runs {r : RedR} (hr : s.Runs (.red g r)) : exec (.red g r) s = .next ((s.ready (.red g r)).withKey s.me
    ((s.core s.me).rx r.ra) (r.ty.width / 8) .rw fun key u => u.enterStore s.me
      { kind := .red r.op r.ty, va := (s.core s.me).rx r.ra, key := key,
        bytes := toBytes (r.ty.width / 8) ((u.core s.me).rx r.rb).toNat, scope := r.scope, rel := r.ord == .rel, hint := .keep,
        pc := (u.core s.me).pc, seq := u.seq }) :=
  exec_runs_reading (f := fun c => c.rx r.ra) (b := fun va t => t.withKey s.me va (r.ty.width / 8) .rw fun key u =>
      u.enterStore s.me
        { kind := .red r.op r.ty, va := va, key := key, bytes := toBytes (r.ty.width / 8) ((u.core s.me).rx r.rb).toNat,
          scope := r.scope, rel := r.ord == .rel, hint := .keep, pc := (u.core s.me).pc, seq := u.seq }) hr rfl (fun _ => rfl) fun _ _ => rfl

end Words

/-! ## A check that fails -/

section Checked

variable {s v : State} {i : Instr} {va : Word} {size : Nat} {need : Need}

/-- The trap of a check that failed, at a word whose operands are named, is taken to the handler and changes the core alone. -/
theorem traps_of_checkAddr {cause : Nat} {body : Nat → State → State}
    (hc : (s.ready i).checkAddr s.me va size need = (v, .error cause))
    (hr : s.Runs i) (he : exec i s = .next ((s.ready i).withKey s.me va size need body)) (hu : s.Unbound s.me)
    (hs : (s.core s.me).settled = true) (hv : (s.core s.me).tvec ≠ 0) (hi : (s.core s.me).inh = false)
    (hg : (s.core s.me).gang = false) :
    ∃ t, exec i s = .next t ∧ v.SameBut t s.me ∧ t.core s.me = (v.core s.me).handled cause (s.core s.me).pc va := by
  have hn := State.ready_named hr
  have hb := hn.core.bare
  have ht : (s.ready i).SameButTlbs v := by
    have := (s.ready i).checkAddr_sameButTlbs s.me va size need
    rwa [hc] at this
  have hcause : ReachesHandler cause := by
    rcases State.checkAddr_error hc with rfl | rfl <;> decide
  have hpc : (v.core s.me).pc = (s.core s.me).pc :=
    (ht.coreField s.me Core.pc fun _ _ => rfl).trans (Core.field_of_bare hb Core.pc)
  have htrap : v.trap s.me cause va = v.onCore s.me fun c => c.handled cause c.pc va :=
    State.trap_unbound hcause ((ht.coreField s.me Core.settled fun _ _ => rfl).trans ((Core.field_of_bare hb Core.settled).trans hs))
      (((ht.coreField s.me Core.tvec fun _ _ => rfl).trans (Core.field_of_bare hb Core.tvec)).trans_ne hv)
      ((ht.coreField s.me Core.inh fun _ _ => rfl).trans ((Core.field_of_bare hb Core.inh).trans hi))
      (ht.unbound (hn.unbound hu))
      ((ht.coreField s.me Core.gang fun _ _ => rfl).trans ((hn.core.field Core.gang fun _ _ => rfl).trans hg))
  refine ⟨_, he.trans (congrArg Host.Outcome.next ((State.withKey_error hc).trans htrap)), .onCore v s.me _, ?_⟩
  rw [State.core_onCore_same, hpc]

/-- A field of the core that neither the register cache nor the TLB is part of, when the address has been checked. -/
theorem core_of_checkAddr {key : Nat} (hc : (s.ready i).checkAddr s.me va size need = (v, .ok key)) (hr : s.Runs i) {α : Type}
    (f : Core → α) (hf : ∀ (c : Core) r t, f { c with rc := r, tlb := t } = f c) : f (v.core s.me) = f (s.core s.me) := by
  have ht : (s.ready i).SameButTlbs v := by
    have := (s.ready i).checkAddr_sameButTlbs s.me va size need
    rwa [hc] at this
  exact (ht.coreField s.me f fun c t => hf c c.rc t).trans ((State.ready_named hr).core.field f fun c r => hf c r c.tlb)

end Checked

/-! ## What enters -/

@[simp] theorem State.core_finishWith_same (s : State) (k : Nat) (f : Core → Core) :
    (s.finishWith k f).core k = (f (s.core k)).advance 8 :=
  s.core_onCore_same k _

theorem State.core_finishWith_other (s : State) {k j : Nat} (f : Core → Core) (h : j ≠ k) : (s.finishWith k f).core j = s.core j :=
  s.core_onCore_other _ h

theorem State.enterLoad_enters {s : State} {k : Nat} {l : Load} (hp : s.routeLoad (s.master k) l.key l.writes ≠ .page)
    (hd : s.routeLoad (s.master k) l.key l.writes ≠ .dead) (h64 : (s.core k).loads.length < 64) :
    EntersLoad s (s.enterLoad k l) k l := by
  have he : s.enterLoad k l = (s.finishWith k fun c => { c with loads := c.loads ++ [l] }).tick := by
    unfold State.enterLoad
    split
    · exact absurd ‹_› hp
    · exact absurd ‹_› hd
    · exact if_neg (by omega)
  rw [he]
  refine ⟨rfl, fun j hj => ?_, ?_⟩
  · rw [State.core_tick, State.core_finishWith_other s _ hj]
  · rw [State.core_tick, State.core_finishWith_same]
    rfl

theorem State.enterStore_enters {s : State} {k : Nat} {e : Store} (hp : s.route (s.master k) e.key true ≠ .page)
    (h255 : s.cntSt k < 255) : EntersStore s (s.enterStore k e) k e := by
  have he : s.enterStore k e = (s.finishWith k fun c => { c with sbuf := c.sbuf ++ [e] }).tick := by
    unfold State.enterStore
    split
    · exact absurd ‹_› hp
    · exact if_neg (by omega)
  rw [he]
  refine ⟨rfl, fun j hj => ?_, ?_⟩
  · rw [State.core_tick, State.core_finishWith_other s _ hj]
  · rw [State.core_tick, State.core_finishWith_same]
    rfl

/-! ## The memory system, apart from the rest of the machine -/

/-- `r` with the memory system of `s`: the bytes, their marks, the partial copies, the homes and the tiles. -/
def State.withMemory (r s : State) : State :=
  { r with mem := s.mem, marks := s.marks, partials := s.partials, sectors := s.sectors, tiles := s.tiles }

section WithMemory

variable (r s : State)

theorem State.withMemory_self : s.withMemory s = s := rfl

/-- A fold of steps that see the memory system alone sees it alone. -/
theorem foldl_withMemory {α : Type} (f : State → α → State) (l : List α)
    (hf : ∀ (t : State) x, f (r.withMemory t) x = r.withMemory (f t x)) : l.foldl f (r.withMemory s) = r.withMemory (l.foldl f s) :=
  List.foldl_hom r.withMemory fun t x => hf t x

theorem State.setMark_withMemory (key : Nat) (b : Bool) : (r.withMemory s).setMark key b = r.withMemory (s.setMark key b) := rfl

theorem State.onTile_withMemory (t : Nat) (f : Tile → Tile) : (r.withMemory s).onTile t f = r.withMemory (s.onTile t f) := rfl

theorem State.onSector_withMemory (n : Nat) (f : Sector → Sector) :
    (r.withMemory s).onSector n f = r.withMemory (s.onSector n f) := rfl

theorem State.store_withMemory (key : Nat) (bs : List Byte) : (r.withMemory s).store key bs = r.withMemory (s.store key bs) :=
  foldl_withMemory r (s.write key bs) _ _ fun t i => by
    rw [show (r.withMemory t).isMarked = t.isMarked from rfl]
    split <;> rfl

theorem State.storeNat_withMemory (key n v : Nat) : (r.withMemory s).storeNat key n v = r.withMemory (s.storeNat key n v) :=
  State.store_withMemory r s key _

theorem State.storeMasked_withMemory (key : Nat) (mask : BitVec 64) (bs : List Byte) :
    (r.withMemory s).storeMasked key mask bs = r.withMemory (s.storeMasked key mask bs) :=
  foldl_withMemory r s _ _ fun t _ => by
    split
    · exact State.store_withMemory r t _ _
    · refine foldl_withMemory r t _ _ fun u _ => ?_
      split
      · exact State.store_withMemory r u _ _
      · rfl

theorem State.writeBlock_withMemory (t : Nat) (b : Block) : (r.withMemory s).writeBlock t b = r.withMemory (s.writeBlock t b) := by
  unfold State.writeBlock
  dsimp only
  rw [State.storeMasked_withMemory, foldl_withMemory]
  · rfl
  · intro u i
    split <;> rfl

theorem State.recall_withMemory (key : Nat) : (r.withMemory s).recall key = r.withMemory (s.recall key) := by
  unfold State.recall
  rw [show (r.withMemory s).sector = s.sector from rfl, show (r.withMemory s).tile = s.tile from rfl]
  dsimp only
  split
  · rfl
  · split
    · rfl
    · rw [foldl_withMemory]
      · rfl
      · exact fun u b => State.writeBlock_withMemory r u _ b

theorem State.gather_withMemory (key n : Nat) : (r.withMemory s).gather key n = r.withMemory (s.gather key n) :=
  foldl_withMemory r { s with partials := s.partials.filter fun p => !overlaps (p.key / 8 * 8) 8 key n } _ _ fun t _ =>
    State.storeNat_withMemory r t _ _ _

theorem State.settle_withMemory (key n : Nat) : (r.withMemory s).settle key n = r.withMemory (s.settle key n) := by
  unfold State.settle
  split
  · rw [State.gather_withMemory, State.recall_withMemory]
  · rfl

theorem State.settleRange_withMemory (key n : Nat) : (r.withMemory s).settleRange key n = r.withMemory (s.settleRange key n) := by
  unfold State.settleRange
  split
  · refine foldl_withMemory r s _ _ fun t _ => ?_
    rw [State.gather_withMemory, State.recall_withMemory]
  · rfl

end WithMemory

/-! ## The route of an access sees no queue and no age -/

section Route

variable {s u : State} (hm : u.withMemory s = u) (hd : u.dies = s.dies) (hp : u.pkgs = s.pkgs)
include hm hd hp

theorem State.ctxField_congr (pkg : Nat) (j : Job) (lo n : Nat) : u.ctxField pkg j lo n = s.ctxField pkg j lo n := by
  have hsup : u.sup = s.sup := by unfold State.sup State.die; rw [hd]
  have hpd : u.partDie = s.partDie := by unfold State.partDie State.pkg; rw [hp]
  unfold State.ctxField
  dsimp only
  rw [hsup, hpd, ← hm, State.settle_withMemory]
  rfl

theorem State.guarded_congr (key : Nat) : u.guarded key = s.guarded key := by
  have hsup : u.sup = s.sup := by unfold State.sup State.die; rw [hd]
  have hpd : u.partDie = s.partDie := by unfold State.partDie State.pkg; rw [hp]
  have hpk : u.pkg = s.pkg := by unfold State.pkg; rw [hp]
  have hmem : u.mem = s.mem := (congrArg State.mem hm).symm
  have htab : u.ctxTab = s.ctxTab := by unfold State.ctxTab; rw [hsup, hpd]
  have hlist : u.ctxsListed = s.ctxsListed := by unfold State.ctxsListed; rw [htab, hmem]
  unfold State.guarded
  simp only [hsup, hpk, htab, hlist, State.ctxField_congr hm hd hp]

theorem State.route_congr (hc : u.cores = s.cores) (hcl : u.closures = s.closures) (m : Master) (key : Nat) (w : Bool) :
    u.route m key w = s.route m key w := by
  have hsup : u.sup = s.sup := by unfold State.sup State.die; rw [hd]
  have hpd : u.partDie = s.partDie := by unfold State.partDie State.pkg; rw [hp]
  have hpk : u.pkg = s.pkg := by unfold State.pkg; rw [hp]
  have hcore : u.core = s.core := by unfold State.core; rw [hc]
  have htile : u.tile = s.tile := by unfold State.tile; rw [← hm]; rfl
  have hsec : u.sector = s.sector := by unfold State.sector; rw [← hm]; rfl
  have hpo : u.partOf = s.partOf := by unfold State.partOf; rw [hpk]
  have hmp : u.masterPart = s.masterPart := by unfold State.masterPart; rw [hpo]
  have hdead : u.deadSeen = s.deadSeen := by unfold State.deadSeen; rw [hsup]
  have hclo : u.closedFor = s.closedFor := by unfold State.closedFor; rw [hcl, hmp]
  have hins : u.insider = s.insider := by unfold State.insider; rw [htile]
  have hwin : u.windowOpen = s.windowOpen := by unfold State.windowOpen State.othersOn; rw [htile, hcore]
  have hctx : u.inCtxTable = s.inCtxTable := by unfold State.inCtxTable State.ctxTab; rw [hsup, hpd, hpk]
  have hpin : u.pinnedAt = s.pinnedAt := by unfold State.pinnedAt; rw [hsec]
  unfold State.route
  rw [hdead, hpo, hmp, hclo, htile, hwin, hcore, hins, hctx, State.guarded_congr hm hd hp, hpin]

end Route
/-! ## Short loads -/

theorem State.compact_raiseClk (s : State) (k w j : Nat) : ((s.raiseClk k w).tile j).compact = (s.tile j).compact := by
  unfold State.raiseClk State.raiseClock
  split
  · rcases eq_or_ne j (coreTile k) with rfl | h
    · rw [State.tile_onTile_same]
    · rw [State.tile_onTile_other s _ h]
  · rfl

theorem State.placed_sawStamps (s : State) (k key n : Nat) (buf : List Store) : (s.sawStamps k key n).placed buf = s.placed buf := by
  have hpin (a : Nat) : (s.sawStamps k key n).pinnedAt a = s.pinnedAt a := by
    unfold State.sawStamps State.raiseClk
    split <;> rfl
  have hreal (a : Nat) : (s.sawStamps k key n).realKey a = s.realKey a := by
    unfold State.realKey State.pinnedKey
    rw [hpin]
    split
    · rw [State.sawStamps, State.compact_raiseClk]
    · rfl
  unfold State.placed State.placeStore
  simp only [hreal]

theorem State.realKey_store (s : State) {key : Nat} (h : isDram key = false) : s.realKey key = key := by
  have : s.pinnedAt key = none := by simp [State.pinnedAt, h]
  rw [State.realKey, this]

/-- At a store the marks of the bank decide. -/
theorem State.readsBad_store (s : State) (k : Nat) (older : List Store) {key : Nat} (n : Nat) (h : isDram key = false) :
    s.readsBad k older key n = anyBad s.isMarked (s.placed older) key key n := by
  have hb (i : Nat) : s.badAt k (key + i) = s.isMarked (key + i) := by
    have : isDram (key + i) = false := by simp [isDram] at h ⊢; omega
    simp [State.badAt, this]
  rw [State.readsBad, s.realKey_store h]
  simp only [anyBad, hb]

theorem State.readsBad_sawStamps (s : State) (k key n : Nat) (older : List Store) (h : isDram key = false) :
    (s.sawStamps k key n).readsBad k older key n = s.readsBad k older key n := by
  rw [State.readsBad_store _ k older n h, State.readsBad_store s k older n h, State.placed_sawStamps]
  unfold State.sawStamps State.raiseClk
  split <;> rfl

theorem State.sawStamps_core_fields (s : State) (k key n : Nat) {α : Type} (f : Core → α)
    (hf : ∀ (c : Core) w, f { c with clk := w } = f c) : f ((s.sawStamps k key n).core k) = f (s.core k) := by
  unfold State.sawStamps State.raiseClk
  split
  · rfl
  · rw [State.core_onCore_same, hf]

theorem isShort_store {k key : Nat} (h : isShort k key = true) : isDram key = false := by
  have : isTileStore key = true := by
    unfold isShort at h
    simp only [Bool.and_eq_true] at h
    exact h.1.1.2
  simp [isTileStore, isDram] at this ⊢
  omega

/-- A short load that nothing holds up completes with the bytes at its key, under the thread's own buffered stores. -/
theorem State.shortLoad_completes {s : State} {k : Nat} {o : MemM} {va : Word} {key : Nat} (take : Bool) (hk : isDram key = false)
    (hp : s.route (s.master k) key false ≠ .page) (hrf : s.route (s.master k) key false ≠ .refuse) (hl : (s.core k).loads = [])
    (hb : s.readBlocked (s.core k).sbuf key (o.ty.width / 8) = false)
    (hbad : s.readsBad k (s.core k).sbuf key (o.ty.width / 8) = false) :
    s.shortLoad k o va key take =
      (if take then (s.sawStamps k key (o.ty.width / 8)).setFull key false else s.sawStamps k key (o.ty.width / 8)).finishWith k
        fun c => c.wx o.r (o.ty.extend (leNat (overlay (s.placed (s.core k).sbuf) (s.realKey key) (s.read key (o.ty.width / 8))))) := by
  have hbytes : s.loadBytes k key (o.ty.width / 8) o.hint = (s.sawStamps k key (o.ty.width / 8),
      overlay (s.placed (s.core k).sbuf) (s.realKey key) (s.read key (o.ty.width / 8))) := by
    simp [State.loadBytes, State.seenBytes, State.fetchBytes, hk]
  unfold State.shortLoad
  dsimp only
  rw [hl, hb, hbytes]
  dsimp only
  rw [State.readsBad_sawStamps s k key _ _ hk, hbad]
  split
  · exact absurd ‹_› hp
  · exact absurd ‹_› hrf
  · rfl

section LeaveLine

variable (u : State) (k key : Nat) (load : Option Nat)

theorem State.route_leaveLine (m : Master) (a : Nat) (w : Bool) : (u.leaveLine k key load).route m a w = u.route m a w :=
  State.route_congr (s := u) (u := u.leaveLine k key load) rfl rfl rfl rfl rfl m a w
theorem State.master_leaveLine (j : Nat) : (u.leaveLine k key load).master j = u.master j := rfl
theorem State.core_leaveLine (j : Nat) : (u.leaveLine k key load).core j = u.core j := rfl
theorem State.readBlocked_leaveLine (older : List Store) (a n : Nat) :
    (u.leaveLine k key load).readBlocked older a n = u.readBlocked older a n := rfl
theorem State.readsBad_leaveLine (j : Nat) (older : List Store) (a n : Nat) :
    (u.leaveLine k key load).readsBad j older a n = u.readsBad j older a n := rfl

end LeaveLine

/-- An `lds` of the own tile whose turn it is leaves the line and completes as a short load (R135). -/
theorem State.bankLoad_completes {u : State} {k : Nat} {o : MemM} {va : Word} {key : Nat} {l : Load}
    (hfull : u.fullRange key = true) (hshort : isShort k key = true) (hp : u.route (u.master k) key false ≠ .page)
    (hrf : u.route (u.master k) key false ≠ .refuse) (hl : (u.core k).loads = [])
    (hb : u.readBlocked (u.core k).sbuf key (o.ty.width / 8) = false)
    (hbad : u.readsBad k (u.core k).sbuf key (o.ty.width / 8) = false) (hturn : u.bankTurn k key none = true) :
    let w := (u.leaveLine k key none).sawStamps k key (o.ty.width / 8)
    (if !u.fullRange key && !u.killedRange key then u.trap k causePage va
      else if isShort k key then u.bankLoad k o va key else u.enterLoad k l) =
      (if o.take then w.setFull key false else w).finishWith k fun c =>
        c.wx o.r (o.ty.extend (leNat (overlay (u.placed (u.core k).sbuf) (u.realKey key) (u.read key (o.ty.width / 8))))) := by
  have hturned : (if !u.fullRange key && !u.killedRange key then u.trap k causePage va
      else if isShort k key then u.bankLoad k o va key else u.enterLoad k l) =
      (u.leaveLine k key none).shortLoad k o va key o.take := by
    unfold State.bankLoad
    rw [hfull, hshort, hl, hb, hturn]
    rfl
  rw [← State.route_leaveLine u k key none, ← State.master_leaveLine u k key none] at hp hrf
  rw [← State.core_leaveLine u k key none] at hl
  rw [← State.core_leaveLine u k key none, ← State.readBlocked_leaveLine u k key none] at hb
  rw [← State.core_leaveLine u k key none, ← State.readsBad_leaveLine u k key none] at hbad
  exact hturned.trans (State.shortLoad_completes o.take (isShort_store hshort) hp hrf hl hb hbad)

/-! ## Words that enter -/

/-- A word that passes its check enters the load that it makes. -/
theorem entersLoad_of_check {s v : State} {i : Instr} {va : Word} {size : Nat} {need : Need} {key : Nat} {l : Load}
    {body : Nat → State → State} (_hr : s.Runs i) (hc : (s.ready i).checkAddr s.me va size need = (v, .ok key))
    (hs : v.splitHeld s.me key = false) (he : exec i s = .next ((s.ready i).withKey s.me va size need body))
    (hb : body key (v.closeWindow s.me key) = (v.closeWindow s.me key).enterLoad s.me l) (hkey : l.key = key)
    (hp : (v.closeWindow s.me key).routeLoad ((v.closeWindow s.me key).master s.me) key l.writes ≠ .page)
    (hd : (v.closeWindow s.me key).routeLoad ((v.closeWindow s.me key).master s.me) key l.writes ≠ .dead)
    (h64 : (s.core s.me).loads.length < 64) :
    ∃ t, exec i s = .next t ∧ EntersLoad (v.closeWindow s.me key) t s.me l := by
  have hlen : ((v.closeWindow s.me key).core s.me).loads = (s.core s.me).loads := by
    rw [State.core_closeWindow]
    exact core_of_checkAddr hc _hr Core.loads fun _ _ _ => rfl
  refine ⟨_, he.trans (congrArg Host.Outcome.next ((State.withKey_ok hc hs).trans hb)), ?_⟩
  exact State.enterLoad_enters (by rw [hkey]; exact hp) (by rw [hkey]; exact hd) (by rw [hlen]; exact h64)

/-- The same of an entry of the store buffer. -/
theorem entersStore_of_check {s v : State} {i : Instr} {va : Word} {size : Nat} {need : Need} {key : Nat} {e : Store}
    {body : Nat → State → State} (hc : (s.ready i).checkAddr s.me va size need = (v, .ok key)) (hs : v.splitHeld s.me key = false)
    (he : exec i s = .next ((s.ready i).withKey s.me va size need body))
    (hb : body key (v.closeWindow s.me key) = (v.closeWindow s.me key).enterStore s.me e) (hkey : e.key = key)
    (hp : (v.closeWindow s.me key).route ((v.closeWindow s.me key).master s.me) key true ≠ .page)
    (h255 : (v.closeWindow s.me key).cntSt s.me < 255) :
    ∃ t, exec i s = .next t ∧ EntersStore (v.closeWindow s.me key) t s.me e :=
  ⟨_, he.trans (congrArg Host.Outcome.next ((State.withKey_ok hc hs).trans hb)),
    State.enterStore_enters (by rw [hkey]; exact hp) h255⟩

/-- The entry that a store of format M makes reads its register and its pc as they were. -/
theorem storeOf_checked {s v : State} {i : Instr} {va a : Word} {size : Nat} {need : Need} {key : Nat} {kind : StoreKind} {o : MemM}
    (hc : (s.ready i).checkAddr s.me va size need = (v, .ok key)) (hr : s.Runs i) :
    storeOf kind o a key s.me (v.closeWindow s.me key) =
      { kind := kind, va := a, key := key, bytes := toBytes (o.ty.width / 8) ((s.core s.me).rx o.r).toNat, scope := o.scope,
        rel := o.ord, hint := o.hint, pc := (s.core s.me).pc, seq := v.seq } := by
  have hread : ((v.core s.me).rx o.r, (v.core s.me).pc) = ((s.core s.me).rx o.r, (s.core s.me).pc) :=
    core_of_checkAddr hc hr (fun c => (c.rx o.r, c.pc)) fun _ _ _ => rfl
  obtain ⟨hrx, hpc⟩ := Prod.mk.inj hread
  rw [storeOf, State.core_closeWindow, State.seq_closeWindow, hrx, hpc]

/-! ## The head of the store buffer at a target that does not serve it (R346, R350, R351) -/

theorem State.core_popStore_same (s : State) (k : Nat) :
    (s.popStore k).core k = { s.core k with sbuf := (s.core k).sbuf.drop 1 } :=
  s.core_onCore_same k _

/-- What becomes of a plain store at the head of the buffer. -/
theorem State.drainStore_write {s : State} {k : Nat} {e : Store} {es : List Store} (hb : (s.core k).sbuf = e :: es)
    (hm : s.mayDrain k e = true) (hs : s.splitHeld k e.key = false) (hk : e.kind = .write) :
    s.drainStore k = match s.route (s.master k) e.key true with
      | .ok => s.performStore k e
      | .err c => (s.popStore k).loseWrite k c (keyPkg e.key)
      | .page => (s.popStore k).loseWrite k causePage (keyPkg e.key)
      | .dead => (s.popStore k).loseWrite k causeRemoteDead (keyPkg e.key)
      | .refuse => (s.popStore k).refuseAt k e.va e.pc
      | .gone => s.popStore k
      | .held => s := by
  unfold State.drainStore
  rw [hb]
  dsimp only
  rw [hm, hs, hk]
  rfl

theorem remerr_free {c : Core} (h : c.lost = false) : getFld c.remerr.toNat 16 1 = 0 := by
  have hb : c.remerr.toNat.testBit 16 = false := h
  rw [Nat.testBit_eq_decide_div_mod_eq] at hb
  unfold getFld
  have := of_decide_eq_false hb
  omega

theorem remerr_lost {c : Core} {cause p : Nat} (h : cause < 2 ^ 16)
    (hc : c.remerr = BitVec.ofNat 64 (cause + 2 ^ 16 + 2 ^ 24 + p * 2 ^ 32)) : c.lost = true := by
  unfold Core.lost
  rw [hc, BitVec.getLsbD_ofNat, Nat.testBit_eq_decide_div_mod_eq]
  have : (cause + 2 ^ 16 + 2 ^ 24 + p * 2 ^ 32) / 2 ^ 16 % 2 = 1 := by omega
  rw [this]
  rfl

/-! ## An access that a compact member holds (R288, R310) -/

theorem State.holdAt_new {s : State} {key : Nat} {h : Held} {cp : Compact} (hc : (s.tile (s.holder key)).compact = some cp)
    (hf : s.isHeld key h = false) : s.holdAt (s.holder key) h =
      s.setTile (s.holder key) { s.tile (s.holder key) with compact := some { cp with held := cp.held ++ [h] } } := by
  unfold State.isHeld at hf
  unfold State.holdAt
  rw [hc] at hf
  rw [hc]
  exact if_neg (Bool.not_eq_true _ ▸ hf)

end Machine

/-! ## The statements -/

/-- Settles O22. -/
theorem addressChecks : Obligations.AddressChecks := by
  intro s k va size need
  have h := s.checkAddr_sameButTlbs k va size need
  refine ⟨⟨_, _, _, h.rest⟩, h.cores, h.tiles, h.quads, fun hc => ?page, fun hc ha => ?align, fun hw ha hn hm => ?window⟩
  case page => simp [State.checkAddr, hc, causePage]
  case align => simp [State.checkAddr, hc, ha, causeAlign]
  case window =>
    have hc : canonical va.toNat = true := by simp [canonical, hw]
    have ht : va.toNat / 2 ^ 30 % 1024 * 1024 + va.toNat / 2 ^ 20 % 1024 = va.toNat / 2 ^ 20 % 2 ^ 20 := by omega
    have hex : (need == Need.ex) = false := by simpa using hn
    have hres : s.resolve k va.toNat need = (s, some (tileKey (va.toNat / 2 ^ 20 % 2 ^ 20) (va.toNat % 2 ^ 20))) := by
      unfold State.resolve
      dsimp only
      rw [if_pos hw, hex, hm, ht]
      exact if_neg (by decide)
    unfold State.checkAddr
    rw [hc, ha, hres]
    rfl

/-- Settles O23: each of these words goes through one check, whose failure traps. -/
theorem memoryWordTraps : Obligations.MemoryWordTraps := by
  intro s v g o h a cause
  refine ⟨fun hr hc hu hs hv hi hg => ?ld, fun hr hc hu hs hv hi hg => ?st, fun hr hc hu hs hv hi hg => ?lds,
    fun hr hc hu hs hv hi hg => ?stf, fun hr hc hu hs hv hi hg => ?ldc, fun hr hc hu hs hv hi hg => ?hld,
    fun hr hc hu hs hv hi hg => ?hst, fun hr hc hu hs hv hi hg => ?amo⟩
  case ld => exact traps_of_checkAddr hc hr (exec_ld_runs hr) hu hs hv hi hg
  case st => exact traps_of_checkAddr hc hr (exec_st_runs hr) hu hs hv hi hg
  case lds => exact traps_of_checkAddr hc hr (exec_lds_runs hr) hu hs hv hi hg
  case stf => exact traps_of_checkAddr hc hr (exec_stf_runs hr) hu hs hv hi hg
  case ldc => exact traps_of_checkAddr hc hr (exec_ldc_runs hr) hu hs hv hi hg
  case hld => exact traps_of_checkAddr hc hr (exec_hld_runs hr) hu hs hv hi hg
  case hst => exact traps_of_checkAddr hc hr (exec_hst_runs hr) hu hs hv hi hg
  case amo => exact traps_of_checkAddr hc hr (exec_amo_runs hr) hu hs hv hi hg

/-- Settles O24: with every condition met, each of the three words comes down to `State.shortLoad`. -/
theorem shortLoads : Obligations.ShortLoads := by
  intro s v g o key
  have hsbuf {i : Instr} (hr : s.Runs i) {va : Word} {n : Nat} (hc : (s.ready i).checkAddr s.me va n .rd = (v, .ok key)) :
      ((v.closeWindow s.me key).core s.me).sbuf = (s.core s.me).sbuf ∧
        ((v.closeWindow s.me key).core s.me).loads = (s.core s.me).loads := by
    rw [State.core_closeWindow]
    exact ⟨core_of_checkAddr hc hr Core.sbuf fun _ _ _ => rfl, core_of_checkAddr hc hr Core.loads fun _ _ _ => rfl⟩
  refine ⟨?ld, ?ldc, ?wait, ?take⟩
  case ld =>
    rintro ⟨hr, hc, hshort, hsplit, hp, hrf, hl, hb, hbad⟩
    obtain ⟨e, e'⟩ := hsbuf hr hc
    refine ⟨_, exec_ld_runs hr, ?_⟩
    rw [State.withKey_ok hc hsplit, if_pos hshort,
      State.shortLoad_completes false (isShort_store hshort) hp hrf (e'.trans hl) (by rw [e]; exact hb) (by rw [e]; exact hbad), e]
    exact ⟨.onCore _ s.me _, State.core_onCore_same _ _ _⟩
  case ldc =>
    rintro ⟨hr, hc, hshort, hsplit, hp, hrf, hl, hb, hbad⟩
    obtain ⟨e, e'⟩ := hsbuf hr hc
    refine ⟨_, exec_ldc_runs hr, ?_⟩
    rw [State.withKey_ok hc hsplit, if_pos hshort,
      State.shortLoad_completes false (isShort_store hshort) hp hrf (e'.trans hl) (by rw [e]; exact hb) (by rw [e]; exact hbad), e]
    exact ⟨.onCore _ s.me _, State.core_onCore_same _ _ _⟩
  case wait =>
    rintro ⟨hr, hc, hshort, hsplit, hp, hrf, hl, hb, hbad⟩ ⟨hfull, hturn⟩ htake
    obtain ⟨e, e'⟩ := hsbuf hr hc
    refine ⟨_, exec_lds_runs hr, ?_⟩
    rw [State.withKey_ok hc hsplit, State.bankLoad_completes hfull hshort hp hrf (e'.trans hl) (by rw [e]; exact hb)
      (by rw [e]; exact hbad) hturn, htake, e]
    exact ⟨.onCore _ s.me _, State.core_onCore_same _ _ _⟩
  case take =>
    rintro ⟨hr, hc, hshort, hsplit, hp, hrf, hl, hb, hbad⟩ ⟨hfull, hturn⟩ htake
    obtain ⟨e, e'⟩ := hsbuf hr hc
    refine ⟨_, exec_lds_runs hr, ?_⟩
    rw [State.withKey_ok hc hsplit, State.bankLoad_completes hfull hshort hp hrf (e'.trans hl) (by rw [e]; exact hb)
      (by rw [e]; exact hbad) hturn, htake, e]
    exact ⟨.onCore _ s.me _, State.core_onCore_same _ _ _⟩

/-- Settles O25: past its check, each word enters the load that its operands make. -/
theorem longLoadsEnter : Obligations.LongLoadsEnter := by
  intro s v g o h a b key
  refine ⟨fun hsh => ?ld, fun hsh => ?ldc, fun hsh hfull => ?lds, ?hld, ?amo, ?cas⟩
  case ld =>
    intro hr hc hs hp hd h64
    have hlong : ¬ isShort s.me key = true := by rw [hsh]; decide
    exact entersLoad_of_check hr hc hs (exec_ld_runs hr) (if_neg hlong) rfl hp hd h64
  case ldc =>
    intro hr hc hs hp hd h64
    have hlong : ¬ isShort s.me key = true := by rw [hsh]; decide
    exact entersLoad_of_check hr hc hs (exec_ldc_runs hr) (if_neg hlong) rfl hp hd h64
  case lds =>
    intro hr hc hs hp hd h64
    have hlong : ¬ isShort s.me key = true := by rw [hsh]; decide
    have hok : ¬ (!(v.closeWindow s.me key).fullRange key && !(v.closeWindow s.me key).killedRange key) = true := by
      rcases hfull with e | e <;> simp [e]
    exact entersLoad_of_check hr hc hs (exec_lds_runs hr) ((if_neg hok).trans (if_neg hlong)) rfl hp hd h64
  case hld =>
    intro hr hc hs hp hd h64
    have hpc : ((v.closeWindow s.me key).core s.me).pc = (s.core s.me).pc :=
      (congrArg Core.pc (State.core_closeWindow v s.me key s.me)).trans (core_of_checkAddr hc hr Core.pc fun _ _ _ => rfl)
    refine entersLoad_of_check hr hc hs (exec_hld_runs hr) ?_ rfl hp hd h64
    rw [hpc]
  case amo =>
    intro hr hc hs hp hd h64
    have hpc : ((v.closeWindow s.me key).core s.me).pc = (s.core s.me).pc :=
      (congrArg Core.pc (State.core_closeWindow v s.me key s.me)).trans (core_of_checkAddr hc hr Core.pc fun _ _ _ => rfl)
    refine entersLoad_of_check hr hc hs (exec_amo_runs hr) ?_ rfl hp hd h64
    rw [hpc]
  case cas =>
    intro hr hc hs hp hd h64
    have hpc : ((v.closeWindow s.me key).core s.me).pc = (s.core s.me).pc :=
      (congrArg Core.pc (State.core_closeWindow v s.me key s.me)).trans (core_of_checkAddr hc hr Core.pc fun _ _ _ => rfl)
    refine entersLoad_of_check hr hc hs (exec_cas_runs hr) ?_ rfl hp hd h64
    rw [hpc]

/-- Settles O28: past its check, each word enters the entry that its operands make. -/
theorem storesEnter : Obligations.StoresEnter := by
  intro s v g o h r key
  refine ⟨?st, fun hfull => ?stf, ?hst, ?red⟩
  case st =>
    intro hr hc hs hp h255
    refine entersStore_of_check hc hs (exec_st_runs hr) ?_ rfl hp h255
    rw [storeOf_checked hc hr]
  case stf =>
    intro hr hc hs hp h255
    have hok : ¬ (!(v.closeWindow s.me key).fullRange key &&
        !(isTileStore key && decide (0x1000 ≤ keyOff key) && decide (keyOff key < 0x2000))) = true := by
      rcases hfull with e | ⟨e, e1, e2⟩
      · simp [e]
      · simp [e, e1, e2]
    refine entersStore_of_check hc hs (exec_stf_runs hr) ((if_neg hok).trans ?_) rfl hp h255
    rw [storeOf_checked hc hr]
  case hst =>
    intro hr hc hs hp h255
    have hread : (((v.closeWindow s.me key).core s.me).rh h.h, ((v.closeWindow s.me key).core s.me).pc) =
        ((s.core s.me).rh h.h, (s.core s.me).pc) := by
      rw [State.core_closeWindow]
      exact core_of_checkAddr hc hr (fun c => (c.rh h.h, c.pc)) fun _ _ _ => rfl
    obtain ⟨hrh, hpc⟩ := Prod.mk.inj hread
    refine entersStore_of_check hc hs (exec_hst_runs hr) ?_ rfl hp h255
    rw [hrh, hpc, State.seq_closeWindow]
  case red =>
    intro hr hc hs hp h255
    have hread : (((v.closeWindow s.me key).core s.me).rx r.rb, ((v.closeWindow s.me key).core s.me).pc) =
        ((s.core s.me).rx r.rb, (s.core s.me).pc) := by
      rw [State.core_closeWindow]
      exact core_of_checkAddr hc hr (fun c => (c.rx r.rb, c.pc)) fun _ _ _ => rfl
    obtain ⟨hrx, hpc⟩ := Prod.mk.inj hread
    refine entersStore_of_check hc hs (exec_red_runs hr) ?_ rfl hp h255
    rw [hrx, hpc, State.seq_closeWindow]

/-- Settles O30. -/
theorem lostWrites : Obligations.LostWrites := by
  intro s c e es cause
  dsimp only
  intro hb hm hs hk
  refine ⟨fun hroute hlost hcause => ⟨_, rfl, ?_⟩, fun hroute => ⟨_, rfl, ?_⟩⟩
  · have hfree : getFld ((s.popStore (coreKey c)).core (coreKey c)).remerr.toNat 16 1 = 0 := by
      rw [State.core_popStore_same]
      exact remerr_free hlost
    have hd : s.drainStore (coreKey c) = (s.popStore (coreKey c)).loseWrite (coreKey c) cause (keyPkg e.key) := by
      rw [State.drainStore_write hb hm hs hk, hroute]
    rw [hd]
    unfold State.loseWrite
    refine ⟨rfl, ?_, ?_⟩
    all_goals
      rw [State.core_onCore_same]
      dsimp only
      rw [if_pos hfree]
    · rw [State.core_popStore_same, hb]
      rfl
    · exact ⟨remerr_lost hcause rfl, rfl⟩
  · have hd : s.drainStore (coreKey c) = (s.popStore (coreKey c)).refuseAt (coreKey c) e.va e.pc := by
      rw [State.drainStore_write hb hm hs hk, hroute]
    have hnone : (s.core (coreKey c)).refusal = none := by
      simp only [State.mayDrain, Bool.and_eq_true, Option.isNone_iff_eq_none] at hm
      exact hm.1.1.2
    rw [hd]
    unfold State.refuseAt
    refine ⟨rfl, ?_, ?_⟩
    all_goals rw [State.core_onCore_same, State.core_popStore_same]
    · rw [hb]
      rfl
    · dsimp only
      rw [hnone]
      rfl

/-- Settles O32: an access that is next is none of those that wait there. -/
theorem heldAccessArrives : Obligations.HeldAccessArrives := by
  intro s c l e cp
  refine ⟨fun hn hk hr ha hc => congrArg Host.Outcome.next ?_, fun hl hn hd hr hc => congrArg Host.Outcome.next ?_⟩
  · have hfree : s.isHeld l.key (.load (coreKey c) l.seq) = false := by
      simpa using List.find?_some hn
    have hk' : (l.kind != .done) = true := by simpa using hk
    dsimp only
    rw [hn]
    dsimp only
    rw [hk', hr, ha]
    exact State.holdAt_new hc hfree
  · have hfree : s.isHeld e.key (.store (coreKey c) e.seq) = false := by
      simpa using List.find?_some hn
    dsimp only
    rw [hl]
    dsimp only
    rw [hn]
    dsimp only
    rw [hd, hr]
    exact State.holdAt_new hc hfree

end Sys2Proof

/-! SUPPORT. What the memory system's operations change, what a load is answered with; and the proofs of O26 and O31. -/

namespace Sys2Proof
open Machine

namespace Machine

/-! ## Operations of the memory system alone -/

section WithMemory

variable (r s : State)

theorem State.tile_withMemory (t : Nat) : (r.withMemory s).tile t = s.tile t := rfl

theorem State.sector_withMemory (n : Nat) : (r.withMemory s).sector n = s.sector n := rfl

theorem State.raiseClock_withMemory (t w : Nat) : (r.withMemory s).raiseClock t w = r.withMemory (s.raiseClock t w) := rfl

theorem State.dropBlock_withMemory (t pa : Nat) : (r.withMemory s).dropBlock t pa = r.withMemory (s.dropBlock t pa) := by
  unfold State.dropBlock
  rw [State.tile_withMemory]
  split
  · rfl
  · next b _ =>
    have hw : (if b.owned then (r.withMemory s).writeBlock t b else r.withMemory s) =
        r.withMemory (if b.owned then s.writeBlock t b else s) := by
      split
      · exact State.writeBlock_withMemory r s t b
      · rfl
    dsimp only
    rw [hw]
    generalize (if b.owned then s.writeBlock t b else s) = u
    rw [State.onTile_withMemory, State.tile_withMemory]
    split <;> rfl

theorem State.makeRoom_withMemory (t : Nat) : (r.withMemory s).makeRoom t = r.withMemory (s.makeRoom t) := by
  unfold State.makeRoom
  rw [State.tile_withMemory]
  dsimp only
  split
  · rfl
  · split
    · exact State.dropBlock_withMemory r s t _
    · exact State.dropBlock_withMemory r s t _
    · rfl

/-- A fill sees the time as well, which a tile's clock follows. -/
theorem State.fillBlock_withMemory (ht : r.time = s.time) (t pa : Nat) (keep low : Bool) :
    (r.withMemory s).fillBlock t pa keep low = r.withMemory (s.fillBlock t pa keep low) := by
  have htime : (s.settle (pa / 64 * 64) 64).time = s.time := (congrArg State.time (State.settle_withMemory s s _ _) :)
  have hclock : (r.withMemory (s.settle (pa / 64 * 64) 64)).clock t = (s.settle (pa / 64 * 64) 64).clock t := by
    unfold State.clock
    rw [htime, ← ht]
    rfl
  unfold State.fillBlock
  dsimp only
  rw [State.settle_withMemory, hclock, State.onSector_withMemory, State.sector_withMemory, State.raiseClock_withMemory,
    State.onTile_withMemory, State.tile_withMemory, State.makeRoom_withMemory]
  split <;> rfl

/-- What the memory system's operations leave: the rest of the machine. -/
theorem State.settle_rest (key n : Nat) : s.withMemory (s.settle key n) = s.settle key n := (s.settle_withMemory s key n).symm

theorem State.settleRange_rest (key n : Nat) : s.withMemory (s.settleRange key n) = s.settleRange key n :=
  (s.settleRange_withMemory s key n).symm

theorem State.fillBlock_rest (t pa : Nat) (keep low : Bool) : s.withMemory (s.fillBlock t pa keep low) = s.fillBlock t pa keep low :=
  (State.fillBlock_withMemory s s rfl t pa keep low).symm

end WithMemory

/-! ## What the classifier counts -/

theorem State.tally_rest (s : State) (k d o : Nat) : { s with pkgs := (s.tally k d o).pkgs } = s.tally k d o := by
  unfold State.tally
  split <;> rfl

theorem State.withMemory_tally (s : State) (k d o : Nat) : (s.tally k d o).withMemory s = s.tally k d o :=
  (congrArg (fun u : State => u.withMemory s) (s.tally_rest k d o).symm).trans (s.tally_rest k d o)

/-- Counting comes before or after bringing memory up to date. -/
theorem State.mem_settle_tally (s : State) (k d o key n : Nat) : ((s.tally k d o).settle key n).mem = (s.settle key n).mem := by
  rw [← State.withMemory_tally, State.settle_withMemory]
  rfl

theorem State.mem_settleRange_tally (s : State) (k d o key n : Nat) :
    ((s.tally k d o).settleRange key n).mem = (s.settleRange key n).mem := by
  rw [← State.withMemory_tally, State.settleRange_withMemory]
  rfl

/-! ## A tile through a settle: its blocks lose what they owned, and nothing else changes -/

/-- `t` is `s` at tile `j` but for what its blocks say. -/
def State.SameTile (s t : State) (j : Nat) : Prop :=
  ∃ bs, t.tile j = { s.tile j with blocks := bs } ∧ bs.length = (s.tile j).blocks.length

theorem State.SameTile.refl (s : State) (j : Nat) : s.SameTile s j := ⟨_, rfl, rfl⟩

theorem State.SameTile.trans {s t u : State} {j : Nat} (h : s.SameTile t j) (h' : t.SameTile u j) : s.SameTile u j := by
  obtain ⟨bs, e, hl⟩ := h
  obtain ⟨cs, e', hl'⟩ := h'
  exact ⟨cs, by rw [e', e], by rw [hl', e, hl]⟩

theorem State.SameTile.of_eq {s t : State} {j : Nat} (h : t.tile j = s.tile j) : s.SameTile t j := ⟨_, h, rfl⟩

/-- What every step of a fold leaves, the fold leaves. -/
theorem foldl_field {α β : Type} (F : State → β) (l : List α) (f : State → α → State) (hf : ∀ (t : State) x, F (f t x) = F t)
    (s : State) : F (l.foldl f s) = F s :=
  foldl_keeps (fun t => F t = F s) l f (fun t x h => (hf t x).trans h) s rfl

/-- A store writes its bytes and clears marks. -/
theorem State.store_rest (s : State) (key : Nat) (bs : List Byte) :
    { s with mem := memWrite s.mem key bs, marks := (s.store key bs).marks } = s.store key bs := by
  have h := foldl_field (fun t : State => { t with marks := [] })
    (List.range ((key + bs.length) / eccUnit key - (key + eccUnit key - 1) / eccUnit key))
    (fun t i => if t.isMarked (((key + eccUnit key - 1) / eccUnit key + i) * eccUnit key) then
      t.setMark (((key + eccUnit key - 1) / eccUnit key + i) * eccUnit key) false else t)
    (fun t i => by split <;> rfl) (s.write key bs)
  exact (congrArg (fun u : State => { u with marks := (s.store key bs).marks }) h).symm

theorem State.mem_store (s : State) (key : Nat) (bs : List Byte) : (s.store key bs).mem = memWrite s.mem key bs :=
  (congrArg State.mem (s.store_rest key bs)).symm

theorem State.tiles_store (s : State) (key : Nat) (bs : List Byte) : (s.store key bs).tiles = s.tiles :=
  (congrArg State.tiles (s.store_rest key bs)).symm

theorem State.tiles_storeMasked (s : State) (key : Nat) (mask : BitVec 64) (bs : List Byte) :
    (s.storeMasked key mask bs).tiles = s.tiles := by
  refine foldl_field State.tiles _ _ (fun t h => ?_) s
  split
  · exact t.tiles_store _ _
  · refine foldl_field State.tiles _ _ (fun u i => ?_) t
    split
    · exact u.tiles_store _ _
    · rfl

theorem State.tile_writeBlock (s : State) (t j : Nat) (b : Block) :
    (s.writeBlock t b).tile j = if j = t then { s.tile j with blocks := (s.tile j).blocks.map fun c =>
      if c.pa = b.pa then { c with dirty := 0, owned := false } else c } else s.tile j := by
  have ht (l : List Nat) (u : State) : (l.foldl (fun u i => if b.bad.getLsbD i && fld b.dirty (8 * i) 8 != 0 then
      u.setMark (b.pa + 8 * i) true else u) u).tiles = u.tiles :=
    foldl_field State.tiles l _ (fun u i => by split <;> rfl) u
  have hj (u : State) (hu : u.tiles = s.tiles) : u.tile j = s.tile j := by unfold State.tile; rw [hu]
  have hsame := hj _ ((ht (List.range 8) (s.storeMasked b.pa b.dirty b.data)).trans (s.tiles_storeMasked _ _ _))
  unfold State.writeBlock
  split
  · next h =>
    subst h
    rw [State.tile_onTile_same, hsame]
  · next h => rw [State.tile_onTile_other _ _ h, hsame]

theorem State.SameTile.writeBlock (s : State) (t j : Nat) (b : Block) : s.SameTile (s.writeBlock t b) j := by
  rw [State.SameTile, State.tile_writeBlock]
  split
  · exact ⟨_, rfl, List.length_map _⟩
  · exact ⟨_, rfl, rfl⟩

theorem State.SameTile.foldl {α : Type} {j : Nat} (l : List α) {f : State → α → State} (hf : ∀ (t : State) x, t.SameTile (f t x) j)
    (s : State) : s.SameTile (l.foldl f s) j :=
  foldl_keeps (fun t => s.SameTile t j) l f (fun t x h => h.trans (hf t x)) s (.refl s j)

theorem State.SameTile.recall (s : State) (key j : Nat) : s.SameTile (s.recall key) j := by
  unfold State.recall
  dsimp only
  split
  · exact .refl s j
  · split
    · exact .refl s j
    · next t _ _ => exact State.SameTile.foldl _ (fun u b => .writeBlock u t j b) s

theorem State.tiles_gather (s : State) (key n : Nat) : (s.gather key n).tiles = s.tiles :=
  (foldl_field State.tiles _ _ (fun t _ => t.tiles_store _ _) _ :)

theorem State.SameTile.settle (s : State) (key n j : Nat) : s.SameTile (s.settle key n) j := by
  unfold State.settle
  split
  · have hg : (s.gather key n).tile j = s.tile j := by unfold State.tile; rw [s.tiles_gather]
    exact (State.SameTile.of_eq hg).trans (.recall _ key j)
  · exact .refl s j

/-! ## A fill from the home (R153) -/

theorem State.makeRoom_of_room {s : State} {t : Nat} (h : (s.tile t).blocks.length < (s.tile t).cacheBlocks) : s.makeRoom t = s :=
  if_pos h

/-- Where no block has to leave, a fill brings memory up to date and writes nothing else. -/
theorem State.mem_fillBlock {s : State} {t : Nat} (pa : Nat) {keep : Bool} (low : Bool)
    (h : (s.tile t).blocks.length < (s.tile t).cacheBlocks ∨ keep = false ∨ (s.tile t).cacheBlocks = 0) :
    (s.fillBlock t pa keep low).mem = (s.settle (pa / 64 * 64) 64).mem := by
  obtain ⟨bs, htile, hlen⟩ := State.SameTile.settle s (pa / 64 * 64) 64 t
  unfold State.fillBlock
  dsimp only
  split
  · next hk =>
    simp only [Bool.and_eq_true, decide_eq_true_eq] at hk
    obtain ⟨hkeep, hcache⟩ := hk
    rw [State.makeRoom_of_room]
    · rfl
    · simp only [State.tile_onTile_same, State.raiseClock, State.tile_onSector, htile] at hcache ⊢
      have hroom : (s.tile t).blocks.length < (s.tile t).cacheBlocks := by
        rcases h with h | h | h
        · exact h
        · exact absurd hkeep (by rw [h]; decide)
        · exact absurd (show 0 < (s.tile t).cacheBlocks from hcache) (by rw [h]; decide)
      calc _ ≤ bs.length := List.length_filter_le _ _
        _ = (s.tile t).blocks.length := hlen
        _ < (s.tile t).cacheBlocks := hroom
  · rfl

/-! ## What a read changes of the cores -/

/-- A core without what reading and naming registers change of it. -/
def Core.still (c : Core) : Core := { c with rc := [], poison := [], clk := 0, tlb := [] }

theorem Core.field_of_still {c d : Core} (h : c.still = d.still) {α : Type} (f : Core → α)
    (hf : ∀ x : Core, f x.still = f x := by exact fun _ => rfl) : f c = f d :=
  (hf c).symm.trans ((congrArg f h).trans (hf d))

theorem State.still_of_cores {s t : State} (h : t.cores = s.cores) (j : Nat) : (t.core j).still = (s.core j).still := by
  unfold State.core
  rw [h]

theorem State.still_onCore (s : State) (k j : Nat) {f : Core → Core} (hf : ∀ c, (f c).still = c.still) :
    ((s.onCore k f).core j).still = (s.core j).still := by
  rcases eq_or_ne j k with rfl | h
  · rw [State.core_onCore_same, hf]
  · rw [State.core_onCore_other s f h]

theorem State.still_raiseClk (s : State) (k w j : Nat) : ((s.raiseClk k w).core j).still = (s.core j).still := by
  unfold State.raiseClk
  split
  · rfl
  · exact s.still_onCore k j fun _ => rfl

theorem State.still_sawStamps (s : State) (k key n j : Nat) : ((s.sawStamps k key n).core j).still = (s.core j).still :=
  s.still_raiseClk k _ j

theorem State.cores_settle (s : State) (key n : Nat) : (s.settle key n).cores = s.cores :=
  (congrArg State.cores (s.settle_rest key n)).symm

theorem State.cores_settleRange (s : State) (key n : Nat) : (s.settleRange key n).cores = s.cores :=
  (congrArg State.cores (s.settleRange_rest key n)).symm

theorem State.cores_fillBlock (s : State) (t pa : Nat) (keep low : Bool) : (s.fillBlock t pa keep low).cores = s.cores :=
  (congrArg State.cores (s.fillBlock_rest t pa keep low)).symm

theorem State.cores_tally (s : State) (k d o : Nat) : (s.tally k d o).cores = s.cores :=
  (congrArg State.cores (s.tally_rest k d o)).symm

theorem State.cores_cachedRead (s : State) (t pa n : Nat) (hint : Hint) : (s.cachedRead t pa n hint).1.cores = s.cores := by
  unfold State.cachedRead
  dsimp only
  split
  · rfl
  · exact s.cores_fillBlock t pa _ _

theorem State.still_homeSeen (s : State) (k pa j : Nat) : ((s.homeSeen k pa).core j).still = (s.core j).still :=
  s.still_raiseClk k _ j

theorem State.still_fetchBytes (s : State) (k key n : Nat) (hint : Hint) (j : Nat) :
    ((s.fetchBytes k key n hint).1.core j).still = (s.core j).still := by
  unfold State.fetchBytes
  split
  · split
    · exact s.still_sawStamps k _ n j
    · split
      · refine State.still_of_cores ?_ j
        rw [State.cores_cachedRead]
        split
        · rfl
        · exact s.cores_tally k _ _
      · dsimp only
        rw [State.still_homeSeen]
        exact State.still_of_cores ((State.cores_settleRange _ _ _).trans (s.cores_tally k _ _)) j
  · exact s.still_sawStamps k key n j

theorem State.still_roBytes (s : State) (k key n j : Nat) : ((s.roBytes k key n).1.core j).still = (s.core j).still := by
  refine State.still_of_cores ?_ j
  have hc : (if s.roHolds k key then s else s.tally k 64 0).cores = s.cores := by
    split
    · rfl
    · exact s.cores_tally k _ _
  unfold State.roBytes State.roRead
  dsimp only
  split
  · exact hc
  · exact (State.cores_settle _ _ _).trans hc

/-! ## The bytes of a read, and the memory that it leaves -/

section Fetch

variable {s : State} {k key n : Nat} {hint : Hint}

theorem State.fetchBytes_store (h : isDram key = false) :
    s.fetchBytes k key n hint = (s.sawStamps k key n, s.read key n) := by
  unfold State.fetchBytes
  rw [if_neg (by rw [h]; decide)]

theorem State.mem_sawStamps (s : State) (k key n : Nat) : (s.sawStamps k key n).mem = s.mem := by
  unfold State.sawStamps State.raiseClk
  split <;> rfl

theorem State.mem_homeSeen (s : State) (k pa : Nat) : (s.homeSeen k pa).mem = s.mem := by
  unfold State.homeSeen State.dieSaw State.raiseClk
  dsimp only
  split <;> rfl

theorem State.fetchBytes_pinned {p : Nat} (h : s.pinnedAt key = some p) :
    (s.fetchBytes k key n hint).1.mem = s.mem ∧ (s.fetchBytes k key n hint).2 = s.read (s.pinnedKey p key) n := by
  have hd : isDram key = true := by
    by_contra hd
    simp [State.pinnedAt, hd] at h
  unfold State.fetchBytes
  rw [if_pos hd, h]
  exact ⟨s.mem_sawStamps k _ n, rfl⟩

/-- A block that the tile may serve. -/
theorem State.fetchBytes_block (hd : isDram key = true) (hp : s.pinnedAt key = none) (ht : isTileCore k = true) {b : Block}
    (hb : s.blockFor (coreTile k) key hint = some b) :
    (s.fetchBytes k key n hint).1.mem = s.mem ∧ (s.fetchBytes k key n hint).2 = (b.data.drop (key % 64)).take n := by
  unfold State.fetchBytes
  rw [if_pos hd, hp]
  dsimp only
  rw [if_pos ht, hb]
  unfold State.cachedRead
  dsimp only [Option.isSome]
  rw [if_pos rfl, hb]
  exact ⟨rfl, rfl⟩

theorem State.blockFor_tally (s : State) (k d o t pa : Nat) (h : Hint) : (s.tally k d o).blockFor t pa h = s.blockFor t pa h := by
  rw [← State.tally_rest]
  rfl

/-- No such block: the home, brought up to date. -/
theorem State.fetchBytes_home (hd : isDram key = true) (hp : s.pinnedAt key = none) (ht : isTileCore k = true)
    (hb : s.blockFor (coreTile k) key hint = none)
    (hroom : (s.tile (coreTile k)).blocks.length < (s.tile (coreTile k)).cacheBlocks ∨ hint = .nofill ∨
      (s.tile (coreTile k)).cacheBlocks = 0) :
    (s.fetchBytes k key n hint).1.mem = (s.settle (key / 64 * 64) 64).mem ∧
      (s.fetchBytes k key n hint).2 = (s.settle (key / 64 * 64) 64).read key n := by
  have htile : (s.tally k 64 0).tile (coreTile k) = s.tile (coreTile k) := by rw [← State.tally_rest]; rfl
  have hmem : ((s.tally k 64 0).fillBlock (coreTile k) key (hint != .nofill) (hint == .stream)).mem =
      (s.settle (key / 64 * 64) 64).mem := by
    rw [State.mem_fillBlock, State.mem_settle_tally]
    rw [htile]
    refine hroom.imp_right (Or.imp_left fun h => ?_)
    rw [h]
    rfl
  unfold State.fetchBytes
  rw [if_pos hd, hp]
  dsimp only
  rw [if_pos ht, hb]
  unfold State.cachedRead
  dsimp only [Option.isSome]
  rw [if_neg (by decide), State.blockFor_tally, hb]
  exact ⟨hmem, congrArg (memRead · key n) hmem⟩

/-- A churn and a supervisor core read at the home. -/
theorem State.fetchBytes_noTile (hd : isDram key = true) (hp : s.pinnedAt key = none) (ht : isTileCore k = false) :
    (s.fetchBytes k key n hint).1.mem = (s.settleRange key n).mem ∧
      (s.fetchBytes k key n hint).2 = (s.settleRange key n).read key n := by
  have hmem := s.mem_settleRange_tally k n 0 key n
  unfold State.fetchBytes
  rw [if_pos hd, hp]
  dsimp only
  rw [if_neg (by rw [ht]; decide)]
  exact ⟨(State.mem_homeSeen _ k key).trans hmem, congrArg (memRead · key n) hmem⟩

/-- The read-only cache holds the block. -/
theorem State.roBytes_held {e : RoBlock} (h : (s.tile (coreTile k)).ro.find? (fun e => e.pa == key / 64 * 64) = some e) :
    (s.roBytes k key n).1.mem = s.mem ∧ (s.roBytes k key n).2 = (e.data.drop (key % 64)).take n := by
  have hh : s.roHolds k key = true := by
    have := List.find?_some h
    exact List.any_eq_true.2 ⟨e, List.mem_of_find?_eq_some h, this⟩
  unfold State.roBytes State.roRead
  dsimp only
  rw [if_pos hh, h]
  exact ⟨rfl, rfl⟩

/-- The read-only cache fills from the home. -/
theorem State.roBytes_filled (h : (s.tile (coreTile k)).ro.find? (fun e => e.pa == key / 64 * 64) = none) :
    (s.roBytes k key n).1.mem = (s.settle (key / 64 * 64) 64).mem ∧
      (s.roBytes k key n).2 = (((s.settle (key / 64 * 64) 64).read (key / 64 * 64) 64).drop (key % 64)).take n := by
  have hh : s.roHolds k key = false := by
    rw [State.roHolds, List.any_eq_false]
    exact List.find?_eq_none.1 h
  have htile : (s.tally k 64 0).tile (coreTile k) = s.tile (coreTile k) := by rw [← State.tally_rest]; rfl
  have hmem := s.mem_settle_tally k 64 0 (key / 64 * 64) 64
  unfold State.roBytes State.roRead
  dsimp only
  rw [if_neg (by rw [hh]; decide), htile, h]
  exact ⟨hmem, congrArg (fun m => ((memRead m (key / 64 * 64) 64).drop (key % 64)).take n) hmem⟩

end Fetch

/-! ## A register that is written late (R94) -/

/-- Naming registers changes the register cache of its core and what is poisoned there. -/
theorem State.still_fill (s : State) (k : Nat) (reads writes : List Nat) (j : Nat) :
    ((s.fill k reads writes).core j).still = (s.core j).still := by
  rcases eq_or_ne j k with rfl | h
  · unfold State.fill
    dsimp only
    rw [State.trimRc_core, State.core_setCore_same]
    rfl
  · exact congrArg Core.still ((State.SameBut.fill s k reads writes).others j h)

theorem State.retireLoad_running {s : State} {k : Nat} (h : (s.core k).st = .running) (l : Load) (bad : Bool) (f : Core → Core) :
    s.retireLoad k l bad f = ((s.onCore k fun c => { c with loads := c.loads.drop 1 }).fill k [] l.words).onCore k
      fun c => (f c).poisonIf bad l.words l.va := by
  unfold State.retireLoad State.lateWrite
  rw [if_pos (.inl (by rw [State.core_onCore_same]; exact h))]

theorem State.SameBut.retireLoad {s : State} {k : Nat} (h : (s.core k).st = .running) (l : Load) (bad : Bool) (f : Core → Core) :
    s.SameBut (s.retireLoad k l bad f) k := by
  rw [State.retireLoad_running h]
  exact (State.SameBut.onCore s k _).trans ((State.SameBut.fill _ k _ _).trans (.onCore _ k _))

theorem Core.still_poisonIf (c : Core) (bad : Bool) (ws : List Nat) (va : Word) : (c.poisonIf bad ws va).still = c.still := by
  unfold Core.poisonIf
  split <;> rfl

/-- What the core is once the load is retired, `f` having written its register. -/
theorem State.still_retireLoad {s : State} {k : Nat} (h : (s.core k).st = .running) (l : Load) (bad : Bool) {f : Core → Core}
    (hf : ∀ c d : Core, c.still = d.still → (f c).still = (f d).still) :
    ((s.retireLoad k l bad f).core k).still = (f { s.core k with loads := (s.core k).loads.drop 1 }).still := by
  rw [State.retireLoad_running h, State.core_onCore_same, Core.still_poisonIf]
  refine hf _ _ ?_
  rw [State.still_fill, State.core_onCore_same]

theorem Core.still_wx (c d : Core) (r : XReg) (v : Word) (h : c.still = d.still) : (c.wx r v).still = (d.wx r v).still := by
  have he (x : Core) : (x.wx r v).still = (x.still.wx r v).still := by
    unfold Core.wx
    split <;> rfl
  rw [he, h, ← he]

theorem Core.still_wh (c d : Core) (h : HReg) (v : Wide) (e : c.still = d.still) : (c.wh h v).still = (d.wh h v).still :=
  (congrArg (fun x : Core => (x.wh h v).still) e :)

/-! ## The answer to a load -/

/-- The state in which the answer to a load leaves the line and the full bits (R135). -/
def Load.lined (l : Load) (k : Nat) (u : State) : State :=
  if l.kind == .wait || l.kind == .take || l.kind == .plain then
    (if l.kind = .take then u.setFull l.key false else u).leaveLine k l.key (some l.seq) else u

/-- The core once `bs` have gone to the load's register. -/
def Load.put (l : Load) (bs : List Byte) (c : Core) : Core :=
  if l.kind = .handle then c.wh (BitVec.ofNat 4 l.reg) (BitVec.ofNat 256 (leNat bs))
  else c.wx (BitVec.ofNat 5 l.reg) (loadValue l.ty bs)

theorem Load.still_put (l : Load) (bs : List Byte) (c d : Core) (h : c.still = d.still) :
    (l.put bs c).still = (l.put bs d).still := by
  unfold Load.put
  split
  · exact Core.still_wh c d _ _ h
  · exact Core.still_wx c d _ _ h

theorem Load.core_lined (l : Load) (k : Nat) (u : State) (j : Nat) : (l.lined k u).core j = u.core j := by
  unfold Load.lined
  split
  · split <;> rfl
  · rfl

theorem Load.mem_lined (l : Load) (k : Nat) (u : State) : (l.lined k u).mem = u.mem := by
  unfold Load.lined
  split
  · split <;> rfl
  · rfl

/-- The oldest load of a running core that its target serves is performed. -/
theorem State.answerLoad_ok {s : State} {k : Nat} {l : Load} {ls : List Load} (hl : (s.core k).loads = l :: ls)
    (hk : l.kind ≠ .done) (hs : s.splitHeld k l.key = false) (hr : s.routeLoad (s.master k) l.key l.writes = .ok)
    (hready : s.loadReady k l = true) (hfull : l.waitsFull = true → s.fullRange l.key = true) :
    s.answerLoad k = s.performLoad k l := by
  have hpage : (l.waitsFull && !s.fullRange l.key) = false := by
    cases hw : l.waitsFull with
    | false => rfl
    | true => rw [hfull hw]; rfl
  unfold State.answerLoad
  rw [hl]
  dsimp only
  rw [if_neg hk, hs, hr]
  dsimp only
  rw [hpage, hready]
  rfl

/-- A load of these kinds gives its register what its thread sees at its key. -/
theorem State.performLoad_seen (s : State) (k : Nat) {l : Load} (hsize : l.kind = .handle → l.size = 32)
    (hk : l.kind = .plain ∨ (l.kind == .wait || l.kind == .take) = true ∨ l.kind = .handle ∨
      l.kind = .ro ∧ s.roServes k l.key = false) :
    let older := (s.core k).olderStores l
    let r := s.fetchBytes k l.key l.size l.hint
    s.performLoad k l = (l.lined k r.1).retireLoad k l (r.1.readsBad k older l.key l.size)
      (l.put (overlay (s.placed older) (s.realKey l.key) r.2)) := by
  unfold State.performLoad Load.lined Load.put
  cases hkind : l.kind with
  | plain => rfl
  | wait => rfl
  | take => rfl
  | handle => rw [hsize hkind]; rfl
  | ro =>
    have hro : s.roServes k l.key = false := by simpa [hkind] using hk
    simp only [hro]
    rfl
  | amo op => simp [hkind] at hk
  | cas => simp [hkind] at hk
  | done => simp [hkind] at hk

/-- What an answer gives: the register that the load names, and nothing else of the thread. -/
structure Load.Answered (l : Load) (ls : List Load) (s u : State) (k : Nat) (mem : List Host.Cell) (bs : List Byte) (t : State) : Prop where
  same : (l.lined k u).SameBut t k
  loads : (t.core k).loads = ls
  pc : (t.core k).pc = (s.core k).pc
  mem : ∀ x, OutsideHome k x → memGet t.mem x = memGet mem x
  handle : l.kind = .handle → (t.core k).x = (s.core k).x ∧ ∀ h, (t.core k).rh h = if h = BitVec.ofNat 4 l.reg
    then BitVec.ofNat 256 (leNat bs) else (s.core k).rh h
  register : l.kind ≠ .handle → (t.core k).h = (s.core k).h ∧ ∀ r, (t.core k).rx r = if r = BitVec.ofNat 5 l.reg ∧ r ≠ 0
    then l.ty.extend (leNat bs) else (s.core k).rx r

theorem Core.rx_wx (c : Core) (r q : XReg) (v : Word) : (c.wx r v).rx q = if q = r ∧ q ≠ 0 then v else c.rx q := by
  rcases eq_or_ne q r with rfl | h
  · rw [Core.rx_wx_same]
    rcases eq_or_ne q 0 with rfl | h0
    · rfl
    · rw [if_neg h0, if_pos ⟨rfl, h0⟩]
  · rw [c.rx_wx_other v h, if_neg fun e => h e.1]

theorem Core.rh_wh (c : Core) (r q : HReg) (v : Wide) : (c.wh r v).rh q = if q = r then v else c.rh q := by
  rcases eq_or_ne q r with rfl | h
  · rw [Core.rh_wh_same, if_pos rfl]
  · rw [c.rh_wh_other v h, if_neg h]

theorem Core.h_wx (c : Core) (r : XReg) (v : Word) : (c.wx r v).h = c.h := by
  unfold Core.wx
  split <;> rfl

/-- A load that is retired with `bs` on a core that the read has left as it was is answered. -/
theorem Load.answered_of_retire {l : Load} {ls : List Load} {s u : State} {k : Nat} {mem : List Host.Cell} {bs : List Byte}
    (hl : (s.core k).loads = l :: ls) (hst : (s.core k).st = .running) (hu : (u.core k).still = (s.core k).still) (hm : u.mem = mem)
    (bad : Bool) : l.Answered ls s u k mem bs ((l.lined k u).retireLoad k l bad (l.put bs)) := by
  have hrun : ((l.lined k u).core k).st = .running := by
    rw [Load.core_lined]
    exact (Core.field_of_still hu Core.st).trans hst
  have hsame := State.SameBut.retireLoad hrun l bad (l.put bs)
  have hcore : (((l.lined k u).retireLoad k l bad (l.put bs)).core k).still = (l.put bs { s.core k with loads := ls }).still := by
    rw [State.still_retireLoad hrun l bad fun c d => l.still_put bs c d, Load.core_lined]
    refine l.still_put bs _ _ ?_
    have hd : (u.core k).loads.drop 1 = ls := by rw [Core.field_of_still hu Core.loads, hl]; rfl
    rw [hd]
    exact congrArg (fun c : Core => { c with loads := ls }) hu
  refine ⟨hsame, ?_, ?_, fun x hx => ?_, fun hk => ?_, fun hk => ?_⟩
  · rw [Core.field_of_still hcore Core.loads]
    unfold Load.put Core.wx
    split_ifs <;> rfl
  · rw [Core.field_of_still hcore Core.pc]
    unfold Load.put Core.wx
    split_ifs <;> rfl
  · rw [hsame.mem x hx, Load.mem_lined, hm]
  · rw [Load.put, if_pos hk] at hcore
    refine ⟨(Core.field_of_still hcore Core.x :), fun h => ?_⟩
    rw [Core.field_of_still hcore fun c => c.rh h, Core.rh_wh]
    rfl
  · rw [Load.put, if_neg hk] at hcore
    refine ⟨(Core.field_of_still hcore Core.h).trans (Core.h_wx _ _ _), fun r => ?_⟩
    rw [Core.field_of_still hcore fun c => c.rx r, Core.rx_wx]
    rfl

/-! ## Prefetch, clean and invalidate (R132, R133) -/

theorem State.core_finish_same (s : State) (k : Nat) : (s.finish k).core k = (s.core k).advance 8 := s.core_onCore_same k _

/-- `pref` once its operands are named (R132). -/
def prefBody (o : BlockM) (k : Nat) (va : Word) (t : State) : State :=
  let r := t.resolve k va.toNat .rd
  match r.2 with
  | some key =>
    if isDram key && isTileCore k && o.hint == .keep && (r.1.pinnedAt key).isNone
        && r.1.route (r.1.master k) key false == .ok
        && !((r.1.tile (coreTile k)).blocks.any fun b => b.pa == key / 64 * 64)
    then ((r.1.tally k 64 0).fillBlock (coreTile k) key true false).finish k
    else t.finish k
  | none => t.finish k

/-- What `pref` comes to: it completes, after a fill or without one. -/
theorem exec_pref_runs {s : State} {g : Guard} {o : BlockM} (hr : s.Runs (.pref g o)) :
    let r := (s.ready (.pref g o)).resolve s.me ((s.core s.me).rx o.rb + o.disp.signExtend 64).toNat .rd
    (r.2 = none → exec (.pref g o) s = .next ((s.ready (.pref g o)).finish s.me)) ∧
    (exec (.pref g o) s = .next ((s.ready (.pref g o)).finish s.me) ∨
      ∃ key, exec (.pref g o) s = .next (((r.1.tally s.me 64 0).fillBlock (coreTile s.me) key true false).finish s.me)) := by
  have he : exec (.pref g o) s = .next (prefBody o s.me ((s.core s.me).rx o.rb + o.disp.signExtend 64) (s.ready (.pref g o))) :=
    exec_runs_reading (f := fun c => memAddr c o.rb o.disp) (b := prefBody o s.me) hr rfl (fun _ => rfl) fun _ _ => rfl
  dsimp only
  rw [he]
  unfold prefBody
  dsimp only
  constructor
  · intro h
    rw [h]
  · split
    · split
      · exact .inr ⟨_, rfl⟩
      · exact .inl rfl
    · exact .inl rfl

/-- `clean` and `inval` of a block that the tile does not hold complete. -/
theorem State.blockOp_free {s v : State} {k key : Nat} {o : BlockM} {kind : StoreKind}
    (hc : s.checkAddr k (memAddr (s.core k) o.rb o.disp) 1 .rd = (v, .ok key))
    (hf : (isDram key && isTileCore k && ((v.tile (coreTile k)).blocks.any (fun b => b.pa == key / 64 * 64) ||
      (v.core k).sbuf.any fun e => e.key / 64 == key / 64)) = false) : s.blockOp k o kind = v.finish k := by
  unfold State.blockOp
  dsimp only
  rw [hc]
  dsimp only
  rw [hf]
  rfl

/-- Of a block that it holds, or that a store of the thread may bring, they enter the store buffer. -/
theorem State.blockOp_held {s v : State} {k key : Nat} {o : BlockM} {kind : StoreKind}
    (hc : s.checkAddr k (memAddr (s.core k) o.rb o.disp) 1 .rd = (v, .ok key))
    (hf : (isDram key && isTileCore k && ((v.tile (coreTile k)).blocks.any (fun b => b.pa == key / 64 * 64) ||
      (v.core k).sbuf.any fun e => e.key / 64 == key / 64)) = true) (h255 : v.cntSt k < 255) :
    s.blockOp k o kind = (v.finishWith k fun c => { c with sbuf := c.sbuf ++ [{
      kind := kind, va := memAddr (s.core k) o.rb o.disp, key := key, bytes := [], scope := o.scope, rel := false, hint := .keep,
      pc := c.pc, seq := v.seq }] }).tick := by
  unfold State.blockOp
  dsimp only
  rw [hc]
  dsimp only
  rw [if_pos hf, if_neg (by omega)]

end Machine

/-! ## The statements -/

/-- Settles O26: performing the load brings its bytes, from wherever the place is, and retires it. -/
theorem longLoadAnswers : Obligations.LongLoadAnswers := by
  intro s c l ls
  dsimp only
  intro hcan hl hst hsplit hroute hready hsize hfull
  refine ⟨fun hk => ?seen, fun hk hro => ?ro⟩
  case seen =>
    have hdone : l.kind ≠ .done := by
      intro e
      simp [e] at hk
    have hperf := (State.answerLoad_ok hl hdone hsplit hroute hready fun hw => hfull (by rw [Bool.or_comm]; exact hw)).trans
      (s.performLoad_seen (coreKey c) hsize hk)
    have key (mem : List Host.Cell) (bs : List Byte) (h : (s.fetchBytes (coreKey c) l.key l.size l.hint).1.mem = mem ∧
        (s.fetchBytes (coreKey c) l.key l.size l.hint).2 = bs) :
        ∃ t, exec (.longLoadAnswer c) s = .next t ∧ l.Answered ls s (s.fetchBytes (coreKey c) l.key l.size l.hint).1 (coreKey c) mem
          (overlay (s.placed ((s.core (coreKey c)).olderStores l)) (s.realKey l.key) bs) t := by
      rw [← h.2]
      exact ⟨_, congrArg Host.Outcome.next hperf, Load.answered_of_retire hl hst (State.still_fetchBytes s _ _ _ _ _) h.1 _⟩
    refine ⟨fun hd => ?store, fun p hp => ?pinned, fun hd hp ht => ⟨fun b hb => ?block, fun hb hroom => ?home⟩, fun hd hp ht => ?noTile⟩
    case store =>
      have h := key s.mem (s.read l.key l.size) (by rw [State.fetchBytes_store hd]; exact ⟨State.mem_sawStamps _ _ _ _, rfl⟩)
      rw [State.fetchBytes_store hd] at h
      obtain ⟨t, ht, h1, h2, h3, h4, h5, h6⟩ := h
      exact ⟨t, ht, h1, h2, h3, h4, h5, h6⟩
    case pinned =>
      obtain ⟨t, ht, h1, h2, h3, h4, h5, h6⟩ := key _ _ (State.fetchBytes_pinned hp)
      exact ⟨t, ht, h1, h2, h3, h4, h5, h6⟩
    case block =>
      obtain ⟨t, ht, h1, h2, h3, h4, h5, h6⟩ := key _ _ (State.fetchBytes_block hd hp ht hb)
      exact ⟨t, ht, h1, h2, h3, h4, h5, h6⟩
    case home =>
      obtain ⟨t, ht, h1, h2, h3, h4, h5, h6⟩ := key _ _ (State.fetchBytes_home hd hp ht hb hroom)
      exact ⟨t, ht, h1, h2, h3, h4, h5, h6⟩
    case noTile =>
      obtain ⟨t, ht, h1, h2, h3, h4, h5, h6⟩ := key _ _ (State.fetchBytes_noTile hd hp ht)
      exact ⟨t, ht, h1, h2, h3, h4, h5, h6⟩
  case ro =>
    have hperf : s.answerLoad (coreKey c) = (l.lined (coreKey c) (s.roBytes (coreKey c) l.key l.size).1).retireLoad (coreKey c) l
        (anyBad ((s.roBytes (coreKey c) l.key l.size).1.badRo (coreKey c)) [] l.key l.key l.size)
        (l.put (s.roBytes (coreKey c) l.key l.size).2) := by
      rw [State.answerLoad_ok hl (by rw [hk]; decide) hsplit hroute hready fun hw => hfull (by rw [Bool.or_comm]; exact hw)]
      unfold State.performLoad Load.lined Load.put
      rw [hk]
      dsimp only
      rw [hro]
      rfl
    have key (mem : List Host.Cell) (bs : List Byte) (h : (s.roBytes (coreKey c) l.key l.size).1.mem = mem ∧
        (s.roBytes (coreKey c) l.key l.size).2 = bs) :
        ∃ t, exec (.longLoadAnswer c) s = .next t ∧
          l.Answered ls s (s.roBytes (coreKey c) l.key l.size).1 (coreKey c) mem bs t := by
      rw [← h.2]
      exact ⟨_, congrArg Host.Outcome.next hperf, Load.answered_of_retire hl hst (State.still_roBytes s _ _ _ _) h.1 _⟩
    refine ⟨fun e he => ?held, fun he => ?filled⟩
    case held =>
      obtain ⟨t, ht, h1, h2, h3, h4, h5, h6⟩ := key _ _ (State.roBytes_held he)
      exact ⟨t, ht, h1, h2, h3, h4, h5, h6⟩
    case filled =>
      obtain ⟨t, ht, h1, h2, h3, h4, h5, h6⟩ := key _ _ (State.roBytes_filled he)
      exact ⟨t, ht, h1, h2, h3, h4, h5, h6⟩

/-- Settles O31. -/
theorem blockOperations : Obligations.BlockOperations := by
  intro s v g o key
  refine ⟨fun hr hnone => ?none, fun hr => ?pref, fun i kind hi hr hc => ?block⟩
  case none => exact ⟨_, (exec_pref_runs hr).1 hnone, (State.ready_named hr).did _ fun _ _ => rfl⟩
  case pref =>
    have hb := (State.ready_named hr).core.bare
    have hdone {u t : State} (ht : t = u.finish s.me) (hpc : (u.core s.me).pc = (s.core s.me).pc)
        (hx : (u.core s.me).x = (s.core s.me).x) (hh : (u.core s.me).h = (s.core s.me).h) :
        (t.core s.me).pc = (s.core s.me).pc + 8 ∧ (t.core s.me).x = (s.core s.me).x ∧ (t.core s.me).h = (s.core s.me).h := by
      rw [ht, State.core_finish_same]
      exact ⟨congrArg (· + 8) hpc, hx, hh⟩
    rcases (exec_pref_runs hr).2 with he | ⟨a, he⟩
    · exact ⟨_, he, hdone rfl (Core.field_of_bare hb Core.pc) (Core.field_of_bare hb Core.x) (Core.field_of_bare hb Core.h)⟩
    · have ht := State.resolve_sameButTlbs (s.ready (.pref g o)) s.me ((s.core s.me).rx o.rb + o.disp.signExtend 64).toNat .rd
      have hc := (State.cores_fillBlock (((s.ready (.pref g o)).resolve s.me
        ((s.core s.me).rx o.rb + o.disp.signExtend 64).toNat .rd).1.tally s.me 64 0) (coreTile s.me) a true false).trans
        (State.cores_tally _ s.me 64 0)
      refine ⟨_, he, hdone rfl ?_ ?_ ?_⟩
      all_goals rw [State.core, hc]
      · exact (ht.coreField s.me Core.pc fun _ _ => rfl).trans (Core.field_of_bare hb Core.pc)
      · exact (ht.coreField s.me Core.x fun _ _ => rfl).trans (Core.field_of_bare hb Core.x)
      · exact (ht.coreField s.me Core.h fun _ _ => rfl).trans (Core.field_of_bare hb Core.h)
  case block =>
    have hva : memAddr ((s.ready i).core s.me) o.rb o.disp = (s.core s.me).rx o.rb + o.disp.signExtend 64 :=
      (State.ready_named hr).core.field (fun c => memAddr c o.rb o.disp) fun _ _ => rfl
    have he : exec i s = .next ((s.ready i).blockOp s.me o kind) := by
      rcases hi with hi | hi <;> obtain ⟨rfl, rfl⟩ := Prod.mk.inj hi <;>
        exact congrArg Host.Outcome.next (State.issue_runs hr _)
    have hc' := hc
    rw [← hva] at hc'
    refine ⟨fun hheld => ⟨_, he, ?_⟩, fun hheld h255 => ⟨_, he, ?_⟩⟩
    · rw [State.blockOp_free hc' hheld]
      exact ⟨.onCore v s.me _, v.core_finish_same s.me⟩
    · rw [State.blockOp_held hc' hheld h255, hva]
      refine ⟨rfl, fun j hj => ?_, ?_⟩
      · rw [State.core_tick, State.core_finishWith_other v _ hj]
      · have hpc : (v.core s.me).pc = (s.core s.me).pc := core_of_checkAddr hc hr Core.pc fun _ _ _ => rfl
        rw [State.core_tick, State.core_finishWith_same, ← hpc]
        rfl

end Sys2Proof

/-! SUPPORT. What a write, a reduction and an atomic leave at their place; and the proofs of O27 and O29. -/

namespace Sys2Proof
open Machine

/-! ## The bytes of a type -/

/-- A type's bytes hold its width. -/
theorem ITy.bytes_pow (ty : ITy) : 256 ^ (ty.width / 8) = 2 ^ ty.width := by cases ty <;> rfl

theorem ITy.bytes_cases (ty : ITy) : ty.width / 8 = 1 ∨ ty.width / 8 = 2 ∨ ty.width / 8 = 4 ∨ ty.width / 8 = 8 := by
  cases ty <;> decide

namespace Machine

/-! ## Bytes and the numbers that they spell -/

theorem leNat_lt (bs : List Byte) : leNat bs < 256 ^ bs.length := by
  induction bs with
  | nil => simp [leNat]
  | cons b bs ih =>
    have hb : b.toNat < 256 := b.isLt
    rw [leNat, List.length_cons, pow_succ]
    omega

theorem leNat_toBytes (n v : Nat) : leNat (toBytes n v) = v % 256 ^ n := by
  induction n generalizing v with
  | zero => simp [toBytes, leNat, Nat.mod_one]
  | succ n ih =>
    rw [toBytes, leNat, ih, pow_succ', Nat.mod_mul]
    simp

theorem memRead_memWrite_same {m : List Host.Cell} (a : Nat) (bs : List Byte) (h : Memory.wf m = true) :
    memRead (memWrite m a bs) a bs.length = bs := by
  refine List.ext_getElem (memRead_length _ _ _) fun i hi hi' => ?_
  have hg := memRead_get (memWrite m a bs) a bs.length i hi'
  rw [memGet_memWrite_at bs a i h hi', List.getElem?_eq_getElem hi] at hg
  exact Option.some.inj hg

theorem State.readNat_lt (s : State) (key n : Nat) : s.readNat key n < 256 ^ n := by
  have h := leNat_lt (memRead s.mem key n)
  rwa [memRead_length] at h

/-- What is read where bytes have been written. -/
theorem State.readNat_of_mem {s : State} {m : List Host.Cell} {key n v : Nat} (hm : s.mem = memWrite m key (toBytes n v))
    (h : Memory.wf m = true) : s.readNat key n = v % 256 ^ n := by
  have hr := memRead_memWrite_same key (toBytes n v) h
  rw [toBytes_length] at hr
  rw [State.readNat, hm, hr, leNat_toBytes]

theorem State.read_of_mem {s : State} {m : List Host.Cell} {key : Nat} {bs : List Byte} (hm : s.mem = memWrite m key bs)
    (h : Memory.wf m = true) : s.read key bs.length = bs := by
  rw [State.read, hm, memRead_memWrite_same key bs h]

/-! ## A bank -/

/-- A place of a store where a write stands as it is: a general range, or a store without register homes (R11). -/
abbrev Banked (p : Nat) : Prop := isDram p = false ∧ (isTileStore p = true → 0x3000 ≤ keyOff p)

theorem State.bankStore_eq (s : State) (k : Nat) {p : Nat} (h : Banked p) (bs : List Byte) :
    s.bankStore k p bs = (s.store p bs).stamp k p bs.length := by
  have hf : ¬ (isTileStore p && decide (keyOff p < 0x3000)) = true := by
    intro hc
    simp only [Bool.and_eq_true, decide_eq_true_eq] at hc
    have := h.2 hc.1
    omega
  rw [State.bankStore, State.fixStore, if_neg hf]

/-- A write at a bank changes its bytes, their marks and their stamps. -/
theorem State.bankStore_rest (s : State) (k : Nat) {p : Nat} (h : Banked p) (bs : List Byte) :
    { s with mem := memWrite s.mem p bs, marks := (s.bankStore k p bs).marks, stamps := (s.bankStore k p bs).stamps } =
      s.bankStore k p bs := by
  rw [s.bankStore_eq k h]
  exact congrArg (fun u : State => { u with stamps := ((s.store p bs).stamp k p bs.length).stamps }) (s.store_rest p bs)

theorem State.mem_bankStore (s : State) (k : Nat) {p : Nat} (h : Banked p) (bs : List Byte) :
    (s.bankStore k p bs).mem = memWrite s.mem p bs := (congrArg State.mem (s.bankStore_rest k h bs)).symm

theorem State.cores_bankStore (s : State) (k : Nat) {p : Nat} (h : Banked p) (bs : List Byte) :
    (s.bankStore k p bs).cores = s.cores := (congrArg State.cores (s.bankStore_rest k h bs)).symm

theorem State.full_bankStore (s : State) (k : Nat) {p : Nat} (h : Banked p) (bs : List Byte) :
    (s.bankStore k p bs).full = s.full := (congrArg State.full (s.bankStore_rest k h bs)).symm

/-- A place outside DRAM is a store's own, or the scratchpad of a pinned sector. -/
theorem State.realKey_bank {s : State} {key : Nat} (h : isDram (s.realKey key) = false) :
    isDram key = false ∧ s.realKey key = key ∨ isDram key = true ∧ ∃ t, s.pinnedAt key = some t ∧ s.realKey key = s.pinnedKey t key := by
  cases hd : isDram key with
  | false => exact .inl ⟨rfl, s.realKey_store hd⟩
  | true =>
    refine .inr ⟨rfl, ?_⟩
    cases hp : s.pinnedAt key with
    | none => rw [State.realKey, hp] at h; exact absurd h (by rw [hd]; decide)
    | some t => exact ⟨t, rfl, by rw [State.realKey, hp]⟩

/-! ## Memory that is up to date already -/

theorem State.partials_store (s : State) (key : Nat) (bs : List Byte) : (s.store key bs).partials = s.partials :=
  (congrArg State.partials (s.store_rest key bs)).symm

theorem State.sectors_store (s : State) (key : Nat) (bs : List Byte) : (s.store key bs).sectors = s.sectors :=
  (congrArg State.sectors (s.store_rest key bs)).symm

theorem State.partials_gather (s : State) (key n : Nat) :
    (s.gather key n).partials = s.partials.filter fun p => !overlaps (p.key / 8 * 8) 8 key n :=
  (foldl_field State.partials _ _ (fun t _ => t.partials_store _ _) _ :)

theorem State.sectors_gather (s : State) (key n : Nat) : (s.gather key n).sectors = s.sectors :=
  (foldl_field State.sectors _ _ (fun t _ => t.sectors_store _ _) _ :)

theorem State.sector_gather (s : State) (key n j : Nat) : (s.gather key n).sector j = s.sector j := by
  unfold State.sector
  rw [s.sectors_gather]

/-- What a fold of stores and marks keeps, a masked store keeps. -/
theorem State.storeMasked_field {β : Type} (F : State → β) (hs : ∀ (t : State) key bs, F (t.store key bs) = F t) (s : State)
    (key : Nat) (mask : BitVec 64) (bs : List Byte) : F (s.storeMasked key mask bs) = F s := by
  refine foldl_field F _ _ (fun t h => ?_) s
  split
  · exact hs t _ _
  · refine foldl_field F _ _ (fun u i => ?_) t
    split
    · exact hs u _ _
    · rfl

/-- What neither a store nor a mark nor a tile is part of, a write-back keeps. -/
theorem State.writeBlock_field {β : Type} (F : State → β) (hs : ∀ (t : State) key bs, F (t.store key bs) = F t)
    (hm : ∀ (t : State) key, F (t.setMark key true) = F t) (ht : ∀ (u : State) t f, F (u.onTile t f) = F u) (s : State) (t : Nat)
    (b : Block) : F (s.writeBlock t b) = F s := by
  unfold State.writeBlock
  dsimp only
  rw [ht, foldl_field F _ _ (fun u i => ?_) _, State.storeMasked_field F hs]
  split
  · exact hm u _
  · rfl

theorem State.partials_recall (s : State) (key : Nat) : (s.recall key).partials = s.partials := by
  unfold State.recall
  dsimp only
  split
  · rfl
  · split
    · rfl
    · exact foldl_field State.partials _ _
        (fun u b => State.writeBlock_field State.partials State.partials_store (fun _ _ => rfl) (fun _ _ _ => rfl) u _ b) s

theorem State.sectors_writeBlocks (s : State) (t : Nat) (bs : List Block) :
    (bs.foldl (fun u b => u.writeBlock t b) s).sectors = s.sectors :=
  foldl_field State.sectors _ _
    (fun u b => State.writeBlock_field State.sectors State.sectors_store (fun _ _ => rfl) (fun _ _ _ => rfl) u t b) s

/-- After a recall the home owns the sector, or it is pinned. -/
theorem State.recall_home (s : State) (key : Nat) :
    ((s.recall key).sector (key / 1024)).owner = none ∨ ((s.recall key).sector (key / 1024)).pinned = true := by
  unfold State.recall
  dsimp only
  split
  · next h => exact .inl h
  · split
    · next h => exact .inr h
    · rw [State.sector_onSector_same]
      exact .inl rfl

theorem State.recall_of_home {s : State} {key : Nat}
    (h : (s.sector (key / 1024)).owner = none ∨ (s.sector (key / 1024)).pinned = true) : s.recall key = s := by
  unfold State.recall
  dsimp only
  rcases h with h | h
  · rw [h]
  · split
    · rfl
    · exact if_pos h

theorem State.gather_of_none {s : State} {key n : Nat} (h : ∀ p ∈ s.partials, overlaps (p.key / 8 * 8) 8 key n = false) :
    s.gather key n = s := by
  have h0 : (s.partials.filter fun p => overlaps (p.key / 8 * 8) 8 key n) = [] :=
    List.filter_eq_nil_iff.2 fun p hp => by rw [h p hp]; decide
  have h1 : (s.partials.filter fun p => !overlaps (p.key / 8 * 8) 8 key n) = s.partials :=
    List.filter_eq_self.2 fun p hp => by rw [h p hp]; rfl
  unfold State.gather
  dsimp only
  rw [h0, h1]
  rfl

/-- Memory is up to date for the bytes from `key` (R154, R324). -/
structure State.UpToDate (s : State) (key n : Nat) : Prop where
  partials : ∀ p ∈ s.partials, overlaps (p.key / 8 * 8) 8 key n = false
  home : (s.sector (key / 1024)).owner = none ∨ (s.sector (key / 1024)).pinned = true

theorem State.settle_upToDate (s : State) {key : Nat} (n : Nat) (hd : isDram key = true) : (s.settle key n).UpToDate key n := by
  rw [State.settle, if_pos hd]
  refine ⟨fun p hp => ?_, (s.gather key n).recall_home key⟩
  rw [State.partials_recall, State.partials_gather] at hp
  simpa using (List.mem_filter.1 hp).2

/-- Bringing it up to date again changes nothing, where the bytes lie in one sector. -/
theorem State.UpToDate.settleRange {s : State} {key n : Nat} (h : s.UpToDate key n)
    (h1 : (key + n + 1023) / 1024 - key / 1024 = 1) : s.settleRange key n = s := by
  have hr : s.recall ((key / 1024 + 0) * 1024) = s := by
    refine State.recall_of_home ?_
    have : (key / 1024 + 0) * 1024 / 1024 = key / 1024 := by omega
    rw [this]
    exact h.home
  unfold State.settleRange
  split
  · rw [h1]
    simp only [List.range_succ, List.range_zero, List.nil_append, List.foldl_cons, List.foldl_nil]
    rw [State.gather_of_none h.partials, hr]
  · rfl

theorem State.UpToDate.homeSeen {s : State} {key n : Nat} (h : s.UpToDate key n) (k pa : Nat) : (s.homeSeen k pa).UpToDate key n := by
  unfold State.homeSeen State.dieSaw State.raiseClk
  dsimp only
  split <;> exact ⟨h.partials, h.home⟩

/-! ## A write at the home (R154) -/

theorem State.mem_grant (s : State) (k pa : Nat) : (s.grant k pa).1.mem = s.mem := by
  unfold State.grant State.raiseClk
  dsimp only
  split <;> rfl

theorem State.full_grant (s : State) (k pa : Nat) : (s.grant k pa).1.full = s.full := by
  unfold State.grant State.raiseClk
  dsimp only
  split <;> rfl

theorem State.partials_grant (s : State) (k pa : Nat) : (s.grant k pa).1.partials = s.partials := by
  unfold State.grant State.raiseClk
  dsimp only
  split <;> rfl

theorem State.still_grant (s : State) (k pa j : Nat) : ((s.grant k pa).1.core j).still = (s.core j).still := by
  unfold State.grant
  exact State.still_raiseClk (s.onSector (pa / 1024) _) k _ j

theorem State.full_settleRange (s : State) (key n : Nat) : (s.settleRange key n).full = s.full :=
  (congrArg State.full (s.settleRange_rest key n)).symm

theorem State.mem_homeWrite (s : State) (k pa : Nat) (bs : List Byte) :
    (s.homeWrite (some k) pa bs).1.mem = memWrite (s.settleRange pa bs.length).mem pa bs := by
  unfold State.homeWrite
  dsimp only
  rw [State.mem_store, State.mem_grant]

theorem State.full_homeWrite (s : State) (k pa : Nat) (bs : List Byte) : (s.homeWrite (some k) pa bs).1.full = s.full := by
  unfold State.homeWrite
  dsimp only
  rw [← State.store_rest]
  exact (State.full_grant _ k pa).trans (s.full_settleRange pa _)

theorem State.still_homeWrite (s : State) (k pa : Nat) (bs : List Byte) (j : Nat) :
    ((s.homeWrite (some k) pa bs).1.core j).still = (s.core j).still := by
  have hc : (s.homeWrite (some k) pa bs).1.cores = ((s.settleRange pa bs.length).grant k pa).1.cores := by
    unfold State.homeWrite
    dsimp only
    rw [← State.store_rest]
  rw [State.still_of_cores hc, State.still_grant]
  exact State.still_of_cores (s.cores_settleRange pa _) j

/-! ## Atomics (R321 to R323) -/

theorem State.atomicAt_bank {s : State} {key : Nat} (k : Nat) (ty : ITy) (f : Word → Option Word)
    (h : isDram (s.realKey key) = false) : s.atomicAt k key ty f = s.atomicBank k (s.realKey key) (ty.width / 8) f := by
  unfold State.atomicAt
  rcases State.realKey_bank h with ⟨hd, hk⟩ | ⟨hd, t, hp, hk⟩
  · rw [hk]
    exact if_neg (by rw [hd]; decide)
  · rw [hk]
    dsimp only
    rw [if_pos hd, hp]

/-- What an atomic does at its place `p`, from the state `u` in which memory is up to date: it reads the old pattern and writes the
new one. -/
structure State.ActsAt (s u : State) (o : AtomicOut) (k p w : Nat) (f : Word → Option Word) : Prop where
  old : o.old = u.readNat p w
  bad : o.bad = (u.markedIn p w).isSome
  still : (o.s.core k).still = (s.core k).still
  bank : isDram p = false → o.w = 0
  mem : o.s.mem = match f (BitVec.ofNat 64 o.old) with
    | some v => memWrite u.mem p (toBytes w v.toNat)
    | none => u.mem

theorem State.atomicBank_acts (s : State) (k : Nat) {p : Nat} (h : Banked p) (w : Nat) (f : Word → Option Word) :
    s.ActsAt s (s.atomicBank k p w f) k p w f := by
  unfold State.atomicBank
  refine ⟨rfl, rfl, ?_, fun _ => rfl, ?_⟩
  · dsimp only
    split
    · rw [State.still_of_cores (State.cores_bankStore _ k h _)]
      exact s.still_sawStamps k p w k
    · exact s.still_sawStamps k p w k
  · dsimp only
    cases f (BitVec.ofNat 64 (s.readNat p w)) with
    | none => exact s.mem_sawStamps k p w
    | some v => exact (State.mem_bankStore _ k h _).trans (congrArg (memWrite · p _) (s.mem_sawStamps k p w))

theorem State.marks_settle_tally (s : State) (k d o key n : Nat) : ((s.tally k d o).settle key n).marks = (s.settle key n).marks := by
  rw [← State.withMemory_tally, State.settle_withMemory]
  rfl

theorem State.marks_homeSeen (s : State) (k pa : Nat) : (s.homeSeen k pa).marks = s.marks := by
  unfold State.homeSeen State.dieSaw State.raiseClk
  dsimp only
  split <;> rfl

theorem State.markedIn_congr {s u : State} (h : u.marks = s.marks) (key n : Nat) : u.markedIn key n = s.markedIn key n := by
  induction n generalizing key with
  | zero => rfl
  | succ n ih =>
    have hm : u.isMarked key = s.isMarked key := by unfold State.isMarked; rw [h]
    rw [State.markedIn, State.markedIn, hm, ih]

/-- In DRAM an atomic acts at the home, brought up to date for its bytes. -/
theorem State.atomicAt_home {s : State} {key : Nat} (k : Nat) (ty : ITy) (f : Word → Option Word) (hd : isDram key = true)
    (hp : s.pinnedAt key = none) (ha : key % (ty.width / 8) = 0) :
    s.ActsAt (s.settle key (ty.width / 8)) (s.atomicAt k key ty f) k key (ty.width / 8) f := by
  have hone : (key + ty.width / 8 + 1023) / 1024 - key / 1024 = 1 := by
    rcases ty.bytes_cases with h | h | h | h <;> rw [h] at ha ⊢ <;> omega
  have hup : (((s.tally k (ty.width / 8) 0).settle key (ty.width / 8)).homeSeen k key).UpToDate key (ty.width / 8) :=
    (State.settle_upToDate _ _ hd).homeSeen k key
  have hmem : (((s.tally k (ty.width / 8) 0).settle key (ty.width / 8)).homeSeen k key).mem = (s.settle key (ty.width / 8)).mem := by
    rw [State.mem_homeSeen, State.mem_settle_tally]
  have hmarks : (((s.tally k (ty.width / 8) 0).settle key (ty.width / 8)).homeSeen k key).marks =
      (s.settle key (ty.width / 8)).marks := by
    rw [State.marks_homeSeen, State.marks_settle_tally]
  have hstill : ((((s.tally k (ty.width / 8) 0).settle key (ty.width / 8)).homeSeen k key).core k).still = (s.core k).still := by
    rw [State.still_homeSeen]
    exact State.still_of_cores ((State.cores_settle _ _ _).trans (s.cores_tally k _ _)) k
  have hd' : isDram key ≠ false := by rw [hd]; decide
  unfold State.atomicAt
  dsimp only
  rw [if_pos hd, hp]
  dsimp only
  revert hup hmem hmarks hstill
  generalize ((s.tally k (ty.width / 8) 0).settle key (ty.width / 8)).homeSeen k key = u
  intro hup hmem hmarks hstill
  have hold : u.readNat key (ty.width / 8) = (s.settle key (ty.width / 8)).readNat key (ty.width / 8) :=
    congrArg (fun m => leNat (memRead m key (ty.width / 8))) hmem
  have hbad : (u.markedIn key (ty.width / 8)).isSome = ((s.settle key (ty.width / 8)).markedIn key (ty.width / 8)).isSome := by
    rw [State.markedIn_congr hmarks]
  split
  · next v hv =>
    refine ⟨hold, hbad, (u.still_homeWrite k key _ k).trans hstill, fun h => absurd h hd', ?_⟩
    dsimp only
    rw [hv, State.mem_homeWrite, toBytes_length, hup.settleRange hone, hmem]
  · next hv =>
    refine ⟨hold, hbad, hstill, fun h => absurd h hd', ?_⟩
    dsimp only
    rw [hv, hmem]

/-- The oldest load, an atomic that its target serves and that may act, acts. -/
theorem State.answerLoad_atomic {s : State} {k : Nat} {l : Load} {ls : List Load} (hl : (s.core k).loads = l :: ls)
    (hw : l.writes = true) (hs : s.splitHeld k l.key = false) (hr : s.routeLoad (s.master k) l.key true = .ok)
    (hready : s.loadReady k l = true) : s.answerLoad k = s.performLoad k l := by
  refine State.answerLoad_ok hl ?_ hs (by rw [hw]; exact hr) hready ?_
  · intro e
    simp [Load.writes, e] at hw
  · intro e
    unfold Load.writes at hw
    unfold Load.waitsFull at e
    split at hw <;> simp_all

/-- What stands at the place of an atomic once it has acted. -/
theorem State.ActsAt.leaves {s u : State} {o : AtomicOut} {k p w : Nat} {f : Word → Option Word} (h : s.ActsAt u o k p w f)
    (hwf : Memory.wf u.mem = true) :
    o.s.readNat p w = ((f (BitVec.ofNat 64 (u.readNat p w))).elim (u.readNat p w) fun v => v.toNat % 256 ^ w) ∧
      ∀ a, a < p ∨ p + w ≤ a → memGet o.s.mem a = memGet u.mem a := by
  have hmem := h.mem
  rw [h.old] at hmem
  split at hmem
  · next v hv =>
    rw [hv]
    refine ⟨State.readNat_of_mem hmem hwf, fun a ha => ?_⟩
    rw [hmem]
    exact memGet_memWrite_other _ _ (by rw [toBytes_length]; exact ha)
  · next hv =>
    rw [hv]
    exact ⟨congrArg (fun m => leNat (memRead m p w)) hmem, fun a _ => by rw [hmem]⟩

/-- An atomic that acts: the old value waits in its load, and nothing but its place has changed. -/
theorem State.performAtomic_acts {s u : State} {k p : Nat} {l : Load} {ls : List Load} (value : Nat → Word)
    (hl : (s.core k).loads = l :: ls)
    (h : s.ActsAt u (s.atomicAt k l.key l.ty l.newValue) k p (l.ty.width / 8) l.newValue) (hwf : Memory.wf u.mem = true) :
    let t := s.performAtomic k l value
    let old := u.readNat p (l.ty.width / 8)
    (∃ b, (t.core k).loads = { l with kind := .done, a := value old, b := b,
                                      bad := (u.markedIn p (l.ty.width / 8)).isSome } :: ls ∧ (isDram p = false → b = 0)) ∧
    (t.core k).x = (s.core k).x ∧
    t.readNat p (l.ty.width / 8) = ((l.newValue (BitVec.ofNat 64 old)).elim old fun v => v.toNat % 2 ^ l.ty.width) ∧
    ∀ a, a < p ∨ p + l.ty.width / 8 ≤ a → memGet t.mem a = memGet u.mem a := by
  have hx := Core.field_of_still h.still Core.x
  have hloads := Core.field_of_still h.still Core.loads
  obtain ⟨hread, hother⟩ := h.leaves hwf
  rw [l.ty.bytes_pow] at hread
  unfold State.performAtomic
  dsimp only
  rw [State.core_onCore_same]
  dsimp only
  rw [hloads, hl, h.old, h.bad]
  exact ⟨⟨_, rfl, fun hb => by rw [h.bank hb]; rfl⟩, hx, hread, hother⟩

/-- The pattern that a `cas` leaves (R321). -/
theorem casValue_eq (l : Load) (hk : l.kind = .cas) {old : Nat} (hold : old < 2 ^ l.ty.width) :
    ((l.newValue (BitVec.ofNat 64 old)).elim old fun v => v.toNat % 2 ^ l.ty.width) =
      if old = l.a.toNat % 2 ^ l.ty.width then l.b.toNat % 2 ^ l.ty.width else old := by
  have h64 : old < 2 ^ 64 := hold.trans_le (Nat.pow_le_pow_right (by norm_num) l.ty.width_bounds.2)
  have hmod : (BitVec.ofNat 64 old).toNat % 2 ^ l.ty.width = old := by
    rw [BitVec.toNat_ofNat, Nat.mod_eq_of_lt h64, Nat.mod_eq_of_lt hold]
  unfold Load.newValue
  rw [hk]
  dsimp only
  rw [hmod]
  split <;> rfl

/-- The answer to an atomic: it has acted at `p` on the memory of `u`, with the old value for its register and the new pattern at its
place. -/
def Load.ActedAs (l : Load) (ls : List Load) (s u : State) (c : CoreId) (p : Nat) (value : Nat → Word) (new : Nat → Nat) : Prop :=
  ∃ t b, exec (.longLoadAnswer c) s = .next t ∧
    (t.core (coreKey c)).loads = { l with kind := .done, a := value (u.readNat p (l.ty.width / 8)), b := b,
                                          bad := (u.markedIn p (l.ty.width / 8)).isSome } :: ls ∧
    (isDram p = false → b = 0) ∧ (t.core (coreKey c)).x = (s.core (coreKey c)).x ∧
    t.readNat p (l.ty.width / 8) = new (u.readNat p (l.ty.width / 8)) ∧
    ∀ a, a < p ∨ p + l.ty.width / 8 ≤ a → memGet t.mem a = memGet u.mem a

section Acted

variable {s u : State} {c : CoreId} {l : Load} {ls : List Load} {p : Nat} (hl : (s.core (coreKey c)).loads = l :: ls)
  (h : s.ActsAt u (s.atomicAt (coreKey c) l.key l.ty l.newValue) (coreKey c) p (l.ty.width / 8) l.newValue)
  (hwf : Memory.wf u.mem = true) (hs : s.splitHeld (coreKey c) l.key = false)
  (hr : s.routeLoad (s.master (coreKey c)) l.key true = .ok) (hready : s.loadReady (coreKey c) l = true)
include hl h hwf hs hr hready

theorem Load.acted_amo {op : AmoOp} (hk : l.kind = .amo op) : l.ActedAs ls s u c p (op.oldValue l.ty) fun old =>
    (op.apply l.ty (BitVec.ofNat 64 old) l.a).toNat % 2 ^ l.ty.width := by
  have hperf : s.performLoad (coreKey c) l = s.performAtomic (coreKey c) l (op.oldValue l.ty) := by
    unfold State.performLoad
    rw [hk]
  have hans := (State.answerLoad_atomic hl (by rw [Load.writes, hk]) hs hr hready).trans hperf
  obtain ⟨⟨b, hloads, hb⟩, hx, hnew, hother⟩ := State.performAtomic_acts (op.oldValue l.ty) hl h hwf
  refine ⟨_, b, congrArg Host.Outcome.next hans, hloads, hb, hx, hnew.trans ?_, hother⟩
  rw [Load.newValue, hk]
  rfl

theorem Load.acted_cas (hk : l.kind = .cas) : l.ActedAs ls s u c p (fun old => l.ty.extend (old : Nat)) fun old =>
    if old = l.a.toNat % 2 ^ l.ty.width then l.b.toNat % 2 ^ l.ty.width else old := by
  have hperf : s.performLoad (coreKey c) l = s.performAtomic (coreKey c) l fun old => l.ty.extend (old : Nat) := by
    unfold State.performLoad
    rw [hk]
  have hans := (State.answerLoad_atomic hl (by rw [Load.writes, hk]) hs hr hready).trans hperf
  obtain ⟨⟨b, hloads, hb⟩, hx, hnew, hother⟩ := State.performAtomic_acts (fun old => l.ty.extend (old : Nat)) hl h hwf
  refine ⟨_, b, congrArg Host.Outcome.next hans, hloads, hb, hx, hnew.trans ?_, hother⟩
  exact casValue_eq l hk ((u.readNat_lt p _).trans_eq l.ty.bytes_pow)

end Acted

/-! ## A write at its target (R131, R136, R152, R154) -/

/-- A write of bytes that lie in one block is one piece. -/
theorem State.writeAt_piece (s : State) (k key : Nat) (bs : List Byte) (full : Bool) (hint : Hint)
    (h1 : key / 64 = (key + bs.length - 1) / 64) (h0 : bs.length ≠ 0) :
    (s.writeAt k key bs full hint).1 = (s.writeChunk k key bs full hint).1 := by
  have hone : (key + bs.length + 63) / 64 - key / 64 = 1 := by omega
  have hlo : max key ((key / 64 + 0) * 64) = key := by omega
  have hhi : min (key + bs.length) ((key / 64 + 0 + 1) * 64) = key + bs.length := by omega
  unfold State.writeAt
  rw [hone]
  simp only [List.range_succ, List.range_zero, List.nil_append, List.foldl_cons, List.foldl_nil]
  rw [hlo, hhi, Nat.sub_self, List.drop_zero, List.take_of_length_le (by omega)]

/-- At a store, or at the scratchpad of a pinned sector. -/
theorem State.writeChunk_bank {s : State} {key : Nat} (k : Nat) (bs : List Byte) (hint : Hint) (h : isDram (s.realKey key) = false) :
    (s.writeChunk k key bs false hint).1 = s.bankStore k (s.realKey key) bs := by
  unfold State.writeChunk
  rcases State.realKey_bank h with ⟨hd, hk⟩ | ⟨hd, t, hp, hk⟩
  · rw [hk, if_neg (by rw [hd]; decide)]
    rfl
  · rw [hk, if_pos hd, hp]

/-- In DRAM, by a core that has no tile. -/
theorem State.writeChunk_home {s : State} {k key : Nat} (bs : List Byte) (full : Bool) (hint : Hint) (hd : isDram key = true)
    (hp : s.pinnedAt key = none) (ht : isTileCore k = false) :
    (s.writeChunk k key bs full hint).1 = (s.homeWrite (some k) key bs).1 := by
  unfold State.writeChunk
  rw [if_pos hd, hp]
  dsimp only
  rw [if_neg (by rw [ht]; decide)]

theorem State.writeChunk_cached {s : State} {k key : Nat} (bs : List Byte) (full : Bool) (hint : Hint) (hd : isDram key = true)
    (hp : s.pinnedAt key = none) (ht : isTileCore k = true) :
    (s.writeChunk k key bs full hint).1 = ((s.tallyWrite k key hint).cachedWrite k key bs hint).1 := by
  unfold State.writeChunk
  rw [if_pos hd, hp]
  dsimp only
  rw [if_pos ht]

theorem State.tallyWrite_rest (s : State) (k key : Nat) (hint : Hint) :
    { s with pkgs := (s.tallyWrite k key hint).pkgs } = s.tallyWrite k key hint := by
  unfold State.tallyWrite
  dsimp only
  split
  · rfl
  · exact s.tally_rest k 64 0

/-! ## A write through the tile's cache (R152, R154) -/

/-- Memory as a tile that writes one block brings it up to date: the partial copies of the block, and the bytes that another
tile owns. -/
def State.granting (s : State) (k pa : Nat) : State :=
  if (s.sector (pa / 1024)).owner == some (coreTile k) then s.gather (pa / 64 * 64) 64 else (s.gather (pa / 64 * 64) 64).recall pa

theorem State.granting_withMemory (r s : State) (k pa : Nat) : (r.withMemory s).granting k pa = r.withMemory (s.granting k pa) := by
  unfold State.granting
  rw [State.sector_withMemory, State.gather_withMemory, State.recall_withMemory]
  split <;> rfl

theorem State.granting_rest (s : State) (k pa : Nat) : s.withMemory (s.granting k pa) = s.granting k pa :=
  (State.granting_withMemory s s k pa).symm

theorem State.tile_recall_other {s : State} {key j : Nat} (h : (s.sector (key / 1024)).owner ≠ some j) :
    (s.recall key).tile j = s.tile j := by
  unfold State.recall
  dsimp only
  split
  · rfl
  · next t ht =>
    have hj : j ≠ t := fun e => h (e ▸ ht)
    split
    · rfl
    · exact foldl_field (fun u : State => u.tile j) _ _ (fun u b => by rw [State.tile_writeBlock, if_neg hj]) s

/-- It leaves the tile's own blocks. -/
theorem State.tile_granting (s : State) (k pa : Nat) : (s.granting k pa).tile (coreTile k) = s.tile (coreTile k) := by
  have hg : (s.gather (pa / 64 * 64) 64).tile (coreTile k) = s.tile (coreTile k) := by
    unfold State.tile
    rw [s.tiles_gather]
  unfold State.granting
  split
  · exact hg
  · next h =>
    rw [State.tile_recall_other, hg]
    rw [State.sector_gather]
    simpa using h

theorem State.blocks_raiseClk (s : State) (k w j : Nat) : ((s.raiseClk k w).tile j).blocks = (s.tile j).blocks := by
  unfold State.raiseClk State.raiseClock
  split
  · rcases eq_or_ne j (coreTile k) with rfl | h
    · rw [State.tile_onTile_same]
    · rw [State.tile_onTile_other s _ h]
  · rfl

theorem State.cacheBlocks_raiseClk (s : State) (k w j : Nat) : ((s.raiseClk k w).tile j).cacheBlocks = (s.tile j).cacheBlocks := by
  unfold State.raiseClk State.raiseClock
  split
  · rcases eq_or_ne j (coreTile k) with rfl | h
    · rw [State.tile_onTile_same]
      rfl
    · rw [State.tile_onTile_other s _ h]
  · rfl

/-- `cachedWrite`, once memory is up to date and the home has granted the write. -/
theorem State.cachedWrite_eq (s : State) (k pa : Nat) (bs : List Byte) (hint : Hint) :
    let t := coreTile k
    let a := pa / 64 * 64
    let r := (s.granting k pa).grant k pa
    let u := r.1
    (s.cachedWrite k pa bs hint).1 =
      if (s.tile t).blocks.any (fun b => b.pa == a && b.owned) then
        ((u.onTile t fun v => { v with blocks := v.blocks.map fun b =>
          if b.pa = a then { b.put (pa % 64) bs with wts := r.2, rts := r.2, low := hint == .stream } else b }).touch t a)
      else if hint == .nofill || decide ((s.tile t).cacheBlocks = 0) then
        (u.store pa bs).onTile t fun v => { v with blocks := v.blocks.filter fun b => b.pa != a }
      else
        let u := (u.onTile t fun v => { v with blocks := v.blocks.filter fun b => b.pa != a }).makeRoom t
        let b : Block := { pa := a, wts := r.2, rts := r.2, owned := true, dirty := 0, data := u.read a 64, bad := u.badWords a,
                           low := hint == .stream }
        (u.onTile t fun v => { v with blocks := v.blocks ++ [b.put (pa % 64) bs] }).onSector (pa / 1024)
          fun e => { e with owner := some t } := by
  have hown : (if ((s.gather (pa / 64 * 64) 64).sector (pa / 1024)).owner == some (coreTile k) then s.gather (pa / 64 * 64) 64
      else (s.gather (pa / 64 * 64) 64).recall pa) = s.granting k pa := by
    rw [State.sector_gather]
    rfl
  have hcb : (((s.granting k pa).grant k pa).1.tile (coreTile k)).cacheBlocks = (s.tile (coreTile k)).cacheBlocks := by
    unfold State.grant
    rw [State.cacheBlocks_raiseClk, State.tile_onSector, State.tile_granting]
  unfold State.cachedWrite
  dsimp only
  rw [hown, State.tile_granting, hcb]
  split
  · rfl
  · split <;> rfl

theorem State.makeRoom_rest (s : State) (t : Nat) : s.withMemory (s.makeRoom t) = s.makeRoom t := (s.makeRoom_withMemory s t).symm

/-- What is no part of the memory system, of a core or of the full bits' rest: the full bits stay. -/
theorem State.full_cachedWrite (s : State) (k pa : Nat) (bs : List Byte) (hint : Hint) :
    (s.cachedWrite k pa bs hint).1.full = s.full := by
  have hu : ((s.granting k pa).grant k pa).1.full = s.full :=
    (State.full_grant _ k pa).trans (congrArg State.full (s.granting_rest k pa)).symm
  rw [State.cachedWrite_eq]
  dsimp only
  split
  · exact hu
  · split
    · exact (congrArg State.full (State.store_rest _ pa bs)).symm.trans hu
    · exact (congrArg State.full (State.makeRoom_rest _ _)).symm.trans hu

theorem State.still_cachedWrite (s : State) (k pa : Nat) (bs : List Byte) (hint : Hint) (j : Nat) :
    ((s.cachedWrite k pa bs hint).1.core j).still = (s.core j).still := by
  have hc : (s.cachedWrite k pa bs hint).1.cores = ((s.granting k pa).grant k pa).1.cores := by
    rw [State.cachedWrite_eq]
    dsimp only
    split
    · rfl
    · split
      · exact (congrArg State.cores (State.store_rest _ pa bs)).symm
      · exact (congrArg State.cores (State.makeRoom_rest _ _)).symm
  rw [State.still_of_cores hc, State.still_grant]
  exact State.still_of_cores (congrArg State.cores (s.granting_rest k pa)).symm j

section CachedWrite

variable {s : State} {k pa : Nat} {bs : List Byte} {hint : Hint}

/-- Where the tile holds no block for it, the write stands at the home. -/
theorem State.mem_cachedWrite_home
    (hheld : (s.tile (coreTile k)).blocks.any (fun b => b.pa == pa / 64 * 64 && b.owned) = false)
    (hno : hint = .nofill ∨ (s.tile (coreTile k)).cacheBlocks = 0) :
    (s.cachedWrite k pa bs hint).1.mem = memWrite (s.granting k pa).mem pa bs := by
  have hgo : (hint == .nofill || decide ((s.tile (coreTile k)).cacheBlocks = 0)) = true := by
    rcases hno with h | h <;> simp [h]
  rw [State.cachedWrite_eq]
  dsimp only
  rw [hheld, if_neg (by decide), if_pos hgo]
  exact (State.mem_store _ pa bs).trans (congrArg (memWrite · pa bs) (State.mem_grant _ k pa))

/-- Where there is room, the write stands in a block that the tile comes to own. -/
theorem State.cachedWrite_fills
    (hheld : (s.tile (coreTile k)).blocks.any (fun b => b.pa == pa / 64 * 64 && b.owned) = false)
    (hfill : hint ≠ .nofill) (hroom : (s.tile (coreTile k)).blocks.length < (s.tile (coreTile k)).cacheBlocks) :
    let t := (s.cachedWrite k pa bs hint).1
    t.mem = (s.granting k pa).mem ∧ (t.sector (pa / 1024)).owner = some (coreTile k) ∧
      ∃ b ∈ (t.tile (coreTile k)).blocks, b.pa = pa / 64 * 64 ∧ b.owned = true ∧
        b.data = ((s.granting k pa).read (pa / 64 * 64) 64).take (pa % 64) ++ bs ++
          ((s.granting k pa).read (pa / 64 * 64) 64).drop (pa % 64 + bs.length) := by
  have hgo : ¬ (hint == .nofill || decide ((s.tile (coreTile k)).cacheBlocks = 0)) = true := by
    have h0 : (s.tile (coreTile k)).cacheBlocks ≠ 0 := by omega
    simp [hfill, h0]
  have htile : (((s.granting k pa).grant k pa).1.tile (coreTile k)).blocks = (s.tile (coreTile k)).blocks := by
    unfold State.grant
    rw [State.blocks_raiseClk, State.tile_onSector, State.tile_granting]
  have hcache : (((s.granting k pa).grant k pa).1.tile (coreTile k)).cacheBlocks = (s.tile (coreTile k)).cacheBlocks := by
    unfold State.grant
    rw [State.cacheBlocks_raiseClk, State.tile_onSector, State.tile_granting]
  have hmem := State.mem_grant (s.granting k pa) k pa
  rw [State.cachedWrite_eq]
  dsimp only
  rw [hheld, if_neg (by decide), if_neg hgo, State.makeRoom_of_room]
  · refine ⟨hmem, by rw [State.sector_onSector_same], ?_⟩
    rw [State.tile_onSector, State.tile_onTile_same]
    refine ⟨_, List.mem_append_right _ (List.mem_singleton.2 rfl), rfl, rfl, ?_⟩
    exact congrArg (fun m => (memRead m (pa / 64 * 64) 64).take (pa % 64) ++ bs ++
      (memRead m (pa / 64 * 64) 64).drop (pa % 64 + bs.length)) hmem
  · rw [State.tile_onTile_same]
    calc _ ≤ (((s.granting k pa).grant k pa).1.tile (coreTile k)).blocks.length := List.length_filter_le _ _
      _ = (s.tile (coreTile k)).blocks.length := congrArg List.length htile
      _ < (s.tile (coreTile k)).cacheBlocks := hroom
      _ = (((s.granting k pa).grant k pa).1.tile (coreTile k)).cacheBlocks := hcache.symm

/-- A block that the tile owns takes the bytes. -/
theorem State.cachedWrite_owned {b : Block} (hb : b ∈ (s.tile (coreTile k)).blocks) (hpa : b.pa = pa / 64 * 64)
    (hown : b.owned = true) :
    let t := (s.cachedWrite k pa bs hint).1
    t.mem = (s.granting k pa).mem ∧
      ∃ x ∈ (t.tile (coreTile k)).blocks, x.pa = pa / 64 * 64 ∧ x.owned = true ∧
        x.data = b.data.take (pa % 64) ++ bs ++ b.data.drop (pa % 64 + bs.length) := by
  have hheld : (s.tile (coreTile k)).blocks.any (fun b => b.pa == pa / 64 * 64 && b.owned) = true :=
    List.any_eq_true.2 ⟨b, hb, by simp [hpa, hown]⟩
  have htile : (((s.granting k pa).grant k pa).1.tile (coreTile k)).blocks = (s.tile (coreTile k)).blocks := by
    unfold State.grant
    rw [State.blocks_raiseClk, State.tile_onSector, State.tile_granting]
  rw [State.cachedWrite_eq]
  dsimp only
  rw [if_pos hheld]
  refine ⟨State.mem_grant _ k pa, ?_⟩
  have hin : b ∈ (((s.granting k pa).grant k pa).1.tile (coreTile k)).blocks := htile ▸ hb
  unfold State.touch
  rw [State.tile_onTile_same, State.tile_onTile_same]
  refine ⟨_, List.mem_append_right _ (List.mem_filter.2 ⟨List.mem_map_of_mem hin, ?_⟩), ?_⟩
  · rw [if_pos hpa]
    simp [Block.put, hpa]
  · rw [if_pos hpa]
    exact ⟨hpa, hown, rfl⟩

end CachedWrite

/-! ## A reduction at its target (R324, R325) -/

theorem State.reduceAt_bank {s : State} {key : Nat} (k : Nat) (op : AmoOp) (ty : ITy) (v : Word)
    (h : isDram (s.realKey key) = false) :
    (s.reduceAt k key op ty v).1 = s.bankStore k (s.realKey key)
      (toBytes (ty.width / 8) (op.apply ty (BitVec.ofNat 64 (s.readNat (s.realKey key) (ty.width / 8))) v).toNat) := by
  unfold State.reduceAt
  rcases State.realKey_bank h with ⟨hd, hk⟩ | ⟨hd, t, hp, hk⟩
  · have hp : s.pinnedAt key = none := by simp [State.pinnedAt, hd]
    dsimp only
    rw [hk, hd, hp]
    rfl
  · dsimp only
    rw [hk, hd, hp]
    rfl

theorem State.reduceAt_home {s : State} {key : Nat} (k : Nat) (op : AmoOp) (ty : ITy) (v : Word) (hd : isDram key = true)
    (hp : s.pinnedAt key = none) :
    (s.reduceAt k key op ty v).1 = (((s.recall key).acceptRed (entryDie k key) key op ty v).grant k key).1 := by
  unfold State.reduceAt
  dsimp only
  rw [hd, hp]
  rfl

/-- A partial copy accepts a reduction of the kind that its item holds: it folds it in, or starts one (R324). -/
theorem State.acceptRed_same {s : State} {key : Nat} {op : AmoOp} {ty : ITy} (die : Nat) (v : Word)
    (hk : ∀ q ∈ s.partials, q.key / 8 = key / 8 → q.op = op ∧ q.ty = ty) :
    s.acceptRed die key op ty v = { s with partials := (s.acceptRed die key op ty v).partials } ∧
    ((∀ q ∈ s.partials, q.key = key → q.die ≠ die) → (s.acceptRed die key op ty v).partials = s.partials ++
      [{ key := key, die := die, op := op, ty := ty, val := op.apply ty (op.identity ty) v }]) ∧
    ((∃ q ∈ s.partials, q.key = key ∧ q.die = die) → (s.acceptRed die key op ty v).partials = s.partials.map fun q =>
      if q.key = key ∧ q.die = die then { q with val := op.apply ty q.val v } else q) := by
  have hno : (s.partials.any fun p => p.key / 8 == key / 8 && !(p.op == op && p.ty == ty)) = false := by
    rw [List.any_eq_false]
    intro q hq
    by_cases h : q.key / 8 = key / 8
    · simp [hk q hq h]
    · simp [h]
  have hsame (q : Partial) (hq : q ∈ s.partials) :
      (q.key == key && (q.op == op && q.ty == ty) && q.die == die) = decide (q.key = key ∧ q.die = die) := by
    rw [Bool.eq_iff_iff]
    by_cases h : q.key = key
    · simp [h, hk q hq (by rw [h])]
    · simp [h]
  have heq : s.acceptRed die key op ty v = if s.partials.any (fun q => decide (q.key = key ∧ q.die = die)) then
      { s with partials := s.partials.map fun q => if q.key = key ∧ q.die = die then { q with val := op.apply ty q.val v } else q }
      else { s with partials := s.partials ++ [{ key := key, die := die, op := op, ty := ty,
                                                 val := op.apply ty (op.identity ty) v }] } := by
    have hany : (s.partials.any fun q => q.key == key && (q.op == op && q.ty == ty) && q.die == die) =
        s.partials.any fun q => decide (q.key = key ∧ q.die = die) := by
      rw [Bool.eq_iff_iff, List.any_eq_true, List.any_eq_true]
      exact exists_congr fun q => and_congr_right fun hq => by rw [hsame q hq]
    have hmap : (s.partials.map fun q => if q.key == key && (q.op == op && q.ty == ty) && q.die == die then
        { q with val := op.apply ty q.val v } else q) =
        s.partials.map fun q => if q.key = key ∧ q.die = die then { q with val := op.apply ty q.val v } else q :=
      List.map_congr_left fun q hq => by rw [hsame q hq]; simp only [decide_eq_true_eq]
    unfold State.acceptRed
    dsimp only
    simp only [hno, Bool.false_eq_true, if_false]
    rw [hany, hmap]
  rw [heq]
  refine ⟨by split <;> rfl, fun hnone => ?_, fun ⟨q, hq, hqk⟩ => ?_⟩
  · rw [if_neg]
    rw [Bool.not_eq_true, List.any_eq_false]
    intro q hq
    simpa using hnone q hq
  · rw [if_pos (List.any_eq_true.2 ⟨q, hq, by simpa using hqk⟩)]

/-! ## The entry that leaves -/

theorem State.addFlight_rest (s : State) (k w : Nat) (sc : Scope) (seq key : Nat) :
    { s with cores := (s.addFlight k w sc seq key).cores } = s.addFlight k w sc seq key := by
  unfold State.addFlight
  split <;> rfl

theorem State.core_addFlight (s : State) (k w : Nat) (sc : Scope) (seq key j : Nat) :
    ∃ fl, (s.addFlight k w sc seq key).core j = { s.core j with flights := fl } := by
  unfold State.addFlight
  split
  · exact ⟨_, rfl⟩
  · rcases eq_or_ne j k with rfl | h
    · exact ⟨_, s.core_onCore_same j _⟩
    · exact ⟨_, s.core_onCore_other _ h⟩

/-- What has become of the cores when an entry has left its buffer. -/
structure State.Leaves (s t : State) (k : Nat) (es : List Store) : Prop where
  sbuf : (t.core k).sbuf = es
  regs : ∀ j, (t.core j).x = (s.core j).x ∧ (t.core j).pc = (s.core j).pc

/-- An entry that is performed leaves its buffer, and no register changes. -/
theorem State.leaves_addFlight {s x : State} {k : Nat} {e : Store} {es : List Store} (hb : (s.core k).sbuf = e :: es)
    (hx : ∀ j, (x.core j).still = ((s.popStore k).core j).still) (w : Nat) (sc : Scope) (seq key : Nat) :
    s.Leaves (x.addFlight k w sc seq key) k es := by
  have hpop (j : Nat) : ∃ sb, (s.popStore k).core j = { s.core j with sbuf := sb } := by
    rcases eq_or_ne j k with rfl | h
    · exact ⟨_, s.core_popStore_same j⟩
    · exact ⟨_, s.core_onCore_other _ h⟩
  refine ⟨?_, fun j => ?_⟩
  · obtain ⟨fl, h⟩ := x.core_addFlight k w sc seq key k
    rw [h]
    refine (Core.field_of_still (hx k) Core.sbuf).trans ?_
    rw [State.core_popStore_same, hb]
    rfl
  · obtain ⟨fl, h⟩ := x.core_addFlight k w sc seq key j
    obtain ⟨sb, h'⟩ := hpop j
    have hj := hx j
    rw [h'] at hj
    rw [h]
    exact ⟨Core.field_of_still hj Core.x, Core.field_of_still hj Core.pc⟩

/-- The head of a buffer that may leave and whose target serves it is performed. -/
theorem State.drainStore_ok {s : State} {k : Nat} {e : Store} {es : List Store} (hb : (s.core k).sbuf = e :: es)
    (hm : s.mayDrain k e = true) (hs : s.splitHeld k e.key = false) (hr : s.route (s.master k) e.key true = .ok) :
    s.drainStore k = s.performStore k e := by
  unfold State.drainStore
  rw [hb]
  dsimp only
  rw [hm, hs, hr]
  cases e.kind <;> rfl

/-- An entry that leaves: `x` is the state in which its work ends, but for what is counted in flight. -/
structure State.DrainsTo (s x t : State) (c : CoreId) (es : List Store) : Prop where
  exec : exec (.storeBufferDrain c) s = .next t
  leaves : s.Leaves t (coreKey c) es
  rest : { x with cores := t.cores } = t

section Drain

variable {s : State} {c : CoreId} {e : Store} {es : List Store} (hb : (s.core (coreKey c)).sbuf = e :: es)
  (hm : s.mayDrain (coreKey c) e = true) (hs : s.splitHeld (coreKey c) e.key = false)
  (hr : s.route (s.master (coreKey c)) e.key true = .ok)
include hb hm hs hr

/-- A plain store or `stf` within one block. -/
theorem State.drains_write {x : State} {full : Bool} (hk : e.kind = if full then .writeFull else .write)
    (hpiece : e.key / 64 = (e.key + e.bytes.length - 1) / 64 ∧ e.bytes.length ≠ 0)
    (hx : ((s.popStore (coreKey c)).writeChunk (coreKey c) e.key e.bytes full e.hint).1 = x)
    (hstill : ∀ j, (x.core j).still = ((s.popStore (coreKey c)).core j).still) : ∃ t, s.DrainsTo x t c es := by
  have hw : ((s.popStore (coreKey c)).writeAt (coreKey c) e.key e.bytes full e.hint).1 = x :=
    (State.writeAt_piece _ _ _ _ _ _ hpiece.1 hpiece.2).trans hx
  have hperf : ∃ w, s.performStore (coreKey c) e = x.addFlight (coreKey c) w e.scope e.seq e.key := by
    refine ⟨((s.popStore (coreKey c)).writeAt (coreKey c) e.key e.bytes full e.hint).2, ?_⟩
    rw [← hw]
    unfold State.performStore
    rw [hk]
    cases full <;> rfl
  obtain ⟨w, hw⟩ := hperf
  exact ⟨_, congrArg Host.Outcome.next ((State.drainStore_ok hb hm hs hr).trans hw),
    State.leaves_addFlight hb hstill _ _ _ _, State.addFlight_rest _ _ _ _ _ _⟩

/-- A reduction; that its die accepts it is the same step. -/
theorem State.drains_red {x : State} {op : AmoOp} {ty : ITy} (hk : e.kind = .red op ty)
    (hx : ((s.popStore (coreKey c)).reduceAt (coreKey c) e.key op ty (BitVec.ofNat 64 (leNat e.bytes))).1 = x)
    (hstill : ∀ j, (x.core j).still = ((s.popStore (coreKey c)).core j).still) :
    ∃ t, s.DrainsTo x t c es ∧ exec (.redAccept c) s = .next t := by
  have hperf : ∃ w, s.performStore (coreKey c) e = x.addFlight (coreKey c) w e.scope e.seq e.key := by
    refine ⟨((s.popStore (coreKey c)).reduceAt (coreKey c) e.key op ty (BitVec.ofNat 64 (leNat e.bytes))).2, ?_⟩
    rw [← hx]
    unfold State.performStore
    rw [hk]
  obtain ⟨w, hw⟩ := hperf
  have hd := (State.drainStore_ok hb hm hs hr).trans hw
  refine ⟨_, ⟨congrArg Host.Outcome.next hd, State.leaves_addFlight hb hstill _ _ _ _, State.addFlight_rest _ _ _ _ _ _⟩, ?_⟩
  refine congrArg Host.Outcome.next ?_
  rw [hb]
  dsimp only
  rw [hk]
  exact hd

end Drain

/-- What is read where bytes have been written, and what is not. -/
theorem State.wrote_of_mem {t : State} {m : List Host.Cell} {p : Nat} {bs : List Byte} (hmem : t.mem = memWrite m p bs)
    (hwf : Memory.wf m = true) :
    t.read p bs.length = bs ∧ ∀ x, x < p ∨ p + bs.length ≤ x → memGet t.mem x = memGet m x :=
  ⟨State.read_of_mem hmem hwf, fun x hx => by rw [hmem]; exact memGet_memWrite_other bs m hx⟩

/-- A write through the cache on a state with the memory system of `s`. -/
theorem State.mem_granting_of {r s : State} (h : r.withMemory s = r) (k pa : Nat) : (r.granting k pa).mem = (s.granting k pa).mem := by
  rw [← h, State.granting_withMemory]
  rfl

theorem State.mem_settleRange_popStore (s : State) (k key n : Nat) : ((s.popStore k).settleRange key n).mem = (s.settleRange key n).mem :=
  (congrArg State.mem (State.settleRange_withMemory (s.popStore k) s key n) :)

theorem State.granting_canon (s : State) (k pa : Nat) (h : s.Canon) : (s.granting k pa).Canon := by
  unfold State.granting
  split
  · exact s.gather_canon _ _ h
  · exact State.recall_canon _ _ (s.gather_canon _ _ h)

/-- What a tile core's write to DRAM is performed on: its entry gone, the bytes that it brings counted. -/
def State.cachedDrain (s : State) (k pa : Nat) (bs : List Byte) (hint : Hint) : State :=
  (((s.popStore k).tallyWrite k pa hint).cachedWrite k pa bs hint).1

theorem State.withMemory_tallyWrite (s : State) (k key : Nat) (hint : Hint) :
    ((s.popStore k).tallyWrite k key hint).withMemory s = (s.popStore k).tallyWrite k key hint :=
  (congrArg (fun u : State => u.withMemory s) ((s.popStore k).tallyWrite_rest k key hint).symm).trans
    ((s.popStore k).tallyWrite_rest k key hint)

theorem State.tile_tallyWrite (s : State) (k key : Nat) (hint : Hint) (t : Nat) :
    ((s.popStore k).tallyWrite k key hint).tile t = s.tile t :=
  (congrArg (fun u : State => u.tile t) (s.withMemory_tallyWrite k key hint) :).symm

theorem State.still_cachedDrain (s : State) (k pa : Nat) (bs : List Byte) (hint : Hint) (j : Nat) :
    ((s.cachedDrain k pa bs hint).core j).still = ((s.popStore k).core j).still :=
  (State.still_cachedWrite _ k pa bs hint j).trans
    (State.still_of_cores (congrArg State.cores ((s.popStore k).tallyWrite_rest k pa hint)).symm j)

theorem State.full_cachedDrain (s : State) (k pa : Nat) (bs : List Byte) (hint : Hint) :
    (s.cachedDrain k pa bs hint).full = s.full :=
  (State.full_cachedWrite _ k pa bs hint).trans (congrArg State.full ((s.popStore k).tallyWrite_rest k pa hint)).symm

section CachedDrain

variable {s : State} {k pa : Nat} {bs : List Byte} {hint : Hint}

theorem State.mem_cachedDrain_home
    (hheld : (s.tile (coreTile k)).blocks.any (fun b => b.pa == pa / 64 * 64 && b.owned) = false)
    (hno : hint = .nofill ∨ (s.tile (coreTile k)).cacheBlocks = 0) :
    (s.cachedDrain k pa bs hint).mem = memWrite (s.granting k pa).mem pa bs := by
  rw [← s.tile_tallyWrite k pa hint] at hheld hno
  exact (State.mem_cachedWrite_home hheld hno).trans
    (congrArg (memWrite · pa bs) (State.mem_granting_of (s.withMemory_tallyWrite k pa hint) k pa))

theorem State.cachedDrain_fills
    (hheld : (s.tile (coreTile k)).blocks.any (fun b => b.pa == pa / 64 * 64 && b.owned) = false)
    (hfill : hint ≠ .nofill) (hroom : (s.tile (coreTile k)).blocks.length < (s.tile (coreTile k)).cacheBlocks) :
    let t := s.cachedDrain k pa bs hint
    t.mem = (s.granting k pa).mem ∧ (t.sector (pa / 1024)).owner = some (coreTile k) ∧
      ∃ b ∈ (t.tile (coreTile k)).blocks, b.pa = pa / 64 * 64 ∧ b.owned = true ∧
        b.data = ((s.granting k pa).read (pa / 64 * 64) 64).take (pa % 64) ++ bs ++
          ((s.granting k pa).read (pa / 64 * 64) 64).drop (pa % 64 + bs.length) := by
  have hu := State.mem_granting_of (s.withMemory_tallyWrite k pa hint) k pa
  rw [← s.tile_tallyWrite k pa hint] at hheld hroom
  obtain ⟨hmem, hown, b, hblk, hpa, hbo, hdata⟩ := State.cachedWrite_fills (bs := bs) hheld hfill hroom
  rw [State.read, hu] at hdata
  exact ⟨hmem.trans hu, hown, b, hblk, hpa, hbo, hdata⟩

theorem State.cachedDrain_owned {b : Block} (hb : b ∈ (s.tile (coreTile k)).blocks) (hpa : b.pa = pa / 64 * 64)
    (hown : b.owned = true) :
    let t := s.cachedDrain k pa bs hint
    t.mem = (s.granting k pa).mem ∧
      ∃ x ∈ (t.tile (coreTile k)).blocks, x.pa = pa / 64 * 64 ∧ x.owned = true ∧
        x.data = b.data.take (pa % 64) ++ bs ++ b.data.drop (pa % 64 + bs.length) := by
  rw [← s.tile_tallyWrite k pa hint] at hb
  obtain ⟨hmem, hx⟩ := State.cachedWrite_owned (bs := bs) (hint := hint) hb hpa hown
  exact ⟨hmem.trans (State.mem_granting_of (s.withMemory_tallyWrite k pa hint) k pa), hx⟩

end CachedDrain

/-- `stf` fills the words that it touches. -/
theorem State.setFulls_rest (s : State) (key n : Nat) (b : Bool) : { s with full := (s.setFulls key n b).full } = s.setFulls key n b := by
  have h := foldl_field (fun t : State => { t with full := [] }) (List.range ((key + n + 7) / 8 - key / 8))
    (fun t i => t.setFull ((key / 8 + i) * 8) b) (fun _ _ => rfl) s
  exact (congrArg (fun u : State => { u with full := (s.setFulls key n b).full }) h).symm

theorem State.isFull_setFulls (s : State) (key : Nat) {n : Nat} (h : n ≠ 0) : (s.setFulls key n true).isFull key = true := by
  have hput (t : State) (i : Nat) (ht : t.isFull key = true) : (t.setFull ((key / 8 + i) * 8) true).isFull key = true := by
    have hi : (key / 8 + i) * 8 / 8 = key / 8 + i := by omega
    unfold State.isFull State.setFull
    dsimp only
    rw [if_pos rfl, hi]
    rcases eq_or_ne (key / 8) (key / 8 + i) with e | e
    · rw [← e, SMap.get_put_same]
    · rw [SMap.get_put_other _ _ _ e]
      exact ht
  obtain ⟨m, hm⟩ : ∃ m, (key + n + 7) / 8 - key / 8 = m + 1 := ⟨(key + n + 7) / 8 - key / 8 - 1, by omega⟩
  have h0 : (s.setFull ((key / 8 + 0) * 8) true).isFull key = true := by
    have hi : (key / 8 + 0) * 8 / 8 = key / 8 := by omega
    unfold State.isFull State.setFull
    dsimp only
    rw [if_pos rfl, hi, SMap.get_put_same]
  unfold State.setFulls
  rw [hm, List.range_succ_eq_map, List.foldl_cons, List.foldl_map]
  exact foldl_keeps (fun t => t.isFull key = true) _ _ (fun t i ht => hput t _ ht) _ h0

/-! ## Each place at which an entry comes to stand -/

/-- An entry that has left: the step, its buffer, the registers of every core. -/
abbrev State.Left (s t : State) (c : CoreId) (es : List Store) : Prop :=
  exec (.storeBufferDrain c) s = .next t ∧ (t.core (coreKey c)).sbuf = es ∧ ∀ j, (t.core j).x = (s.core j).x ∧ (t.core j).pc = (s.core j).pc

/-- It has written `bs` at `p`, on the memory of `u`. -/
abbrev State.Wrote (s t u : State) (c : CoreId) (es : List Store) (p : Nat) (bs : List Byte) : Prop :=
  s.Left t c es ∧ t.read p bs.length = bs ∧ ∀ x, x < p ∨ p + bs.length ≤ x → memGet t.mem x = memGet u.mem x

theorem State.DrainsTo.left {s x t : State} {c : CoreId} {es : List Store} (h : s.DrainsTo x t c es) : s.Left t c es :=
  ⟨h.exec, h.leaves.sbuf, h.leaves.regs⟩

theorem State.DrainsTo.wrote {s x t u : State} {c : CoreId} {es : List Store} (h : s.DrainsTo x t c es) {p : Nat} {bs : List Byte}
    (hmem : x.mem = memWrite u.mem p bs) (hwf : Memory.wf u.mem = true) : s.Wrote t u c es p bs :=
  ⟨h.left, State.wrote_of_mem ((congrArg State.mem h.rest).symm.trans hmem) hwf⟩

section Places

variable {s : State} {c : CoreId} {e : Store} {es : List Store} (hcan : s.Canon) (hb : (s.core (coreKey c)).sbuf = e :: es)
  (hm : s.mayDrain (coreKey c) e = true) (hs : s.splitHeld (coreKey c) e.key = false)
  (hr : s.route (s.master (coreKey c)) e.key true = .ok)
include hcan hb hm hs hr

section Plain

variable (hk : e.kind = .write) (hpiece : e.key / 64 = (e.key + e.bytes.length - 1) / 64 ∧ e.bytes.length ≠ 0)
include hk hpiece

theorem State.drain_bank (hbank : Banked (s.realKey e.key)) :
    ∃ t, s.Wrote t s c es (s.realKey e.key) e.bytes ∧ t.full = s.full := by
  obtain ⟨t, ht⟩ := State.drains_write hb hm hs hr (full := false) hk hpiece (State.writeChunk_bank _ _ _ hbank.1) fun j =>
    State.still_of_cores (State.cores_bankStore _ (coreKey c) hbank _) j
  exact ⟨t, ht.wrote (State.mem_bankStore _ _ hbank _) hcan.mem,
    (congrArg State.full ht.rest).symm.trans (State.full_bankStore _ (coreKey c) hbank _)⟩

theorem State.drain_home (hd : isDram e.key = true) (hp : s.pinnedAt e.key = none) (hc : isTileCore (coreKey c) = false) :
    ∃ t, s.Wrote t (s.settleRange e.key e.bytes.length) c es (s.realKey e.key) e.bytes ∧ t.full = s.full := by
  have hreal : s.realKey e.key = e.key := by rw [State.realKey, hp]
  obtain ⟨t, ht⟩ := State.drains_write hb hm hs hr (full := false) hk hpiece (State.writeChunk_home _ _ _ hd hp hc) fun j =>
    State.still_homeWrite _ _ _ _ j
  rw [hreal]
  exact ⟨t, ht.wrote ((State.mem_homeWrite _ _ _ _).trans
      (congrArg (memWrite · e.key e.bytes) (s.mem_settleRange_popStore (coreKey c) e.key e.bytes.length)))
      (s.settleRange_canon _ _ hcan).mem,
    (congrArg State.full ht.rest).symm.trans (State.full_homeWrite _ (coreKey c) _ _)⟩

variable (hd : isDram e.key = true) (hp : s.pinnedAt e.key = none) (hc : isTileCore (coreKey c) = true)
include hd hp hc

omit hcan in
theorem State.drains_cached : ∃ t, s.DrainsTo (s.cachedDrain (coreKey c) e.key e.bytes e.hint) t c es :=
  State.drains_write hb hm hs hr (full := false) hk hpiece (State.writeChunk_cached _ _ _ hd hp hc) fun j =>
    s.still_cachedDrain _ _ _ _ j

theorem State.drain_nofill
    (hheld : (s.tile (coreTile (coreKey c))).blocks.any (fun b => b.pa == e.key / 64 * 64 && b.owned) = false)
    (hno : e.hint = .nofill ∨ (s.tile (coreTile (coreKey c))).cacheBlocks = 0) :
    ∃ t, s.Wrote t (s.granting (coreKey c) e.key) c es (s.realKey e.key) e.bytes ∧ t.full = s.full := by
  have hreal : s.realKey e.key = e.key := by rw [State.realKey, hp]
  obtain ⟨t, ht⟩ := State.drains_cached hb hm hs hr hk hpiece hd hp hc
  rw [hreal]
  exact ⟨t, ht.wrote (State.mem_cachedDrain_home hheld hno) (s.granting_canon _ _ hcan).mem,
    (congrArg State.full ht.rest).symm.trans (s.full_cachedDrain _ _ _ _)⟩

omit hcan in
theorem State.drain_fill
    (hheld : (s.tile (coreTile (coreKey c))).blocks.any (fun b => b.pa == e.key / 64 * 64 && b.owned) = false)
    (hfill : e.hint ≠ .nofill)
    (hroom : (s.tile (coreTile (coreKey c))).blocks.length < (s.tile (coreTile (coreKey c))).cacheBlocks) :
    ∃ t, s.Left t c es ∧ t.mem = (s.granting (coreKey c) e.key).mem ∧ t.full = s.full ∧
      (t.sector (e.key / 1024)).owner = some (coreTile (coreKey c)) ∧
      ∃ b ∈ (t.tile (coreTile (coreKey c))).blocks, b.pa = e.key / 64 * 64 ∧ b.owned = true ∧
        b.data = ((s.granting (coreKey c) e.key).read (e.key / 64 * 64) 64).take (e.key % 64) ++ e.bytes ++
          ((s.granting (coreKey c) e.key).read (e.key / 64 * 64) 64).drop (e.key % 64 + e.bytes.length) := by
  obtain ⟨t, ht⟩ := State.drains_cached hb hm hs hr hk hpiece hd hp hc
  obtain ⟨hmem, hblk⟩ := State.cachedDrain_fills (bs := e.bytes) hheld hfill hroom
  refine ⟨t, ht.left, (congrArg State.mem ht.rest).symm.trans hmem,
    (congrArg State.full ht.rest).symm.trans (s.full_cachedDrain _ _ _ _), ?_⟩
  rw [← ht.rest]
  exact hblk

omit hcan in
theorem State.drain_owned {b : Block} (hblk : b ∈ (s.tile (coreTile (coreKey c))).blocks) (hpa : b.pa = e.key / 64 * 64)
    (hown : b.owned = true) :
    ∃ t, s.Left t c es ∧ t.mem = (s.granting (coreKey c) e.key).mem ∧ t.full = s.full ∧
      ∃ x ∈ (t.tile (coreTile (coreKey c))).blocks, x.pa = e.key / 64 * 64 ∧ x.owned = true ∧
        x.data = b.data.take (e.key % 64) ++ e.bytes ++ b.data.drop (e.key % 64 + e.bytes.length) := by
  obtain ⟨t, ht⟩ := State.drains_cached hb hm hs hr hk hpiece hd hp hc
  obtain ⟨hmem, hx⟩ := State.cachedDrain_owned (bs := e.bytes) (hint := e.hint) hblk hpa hown
  refine ⟨t, ht.left, (congrArg State.mem ht.rest).symm.trans hmem,
    (congrArg State.full ht.rest).symm.trans (s.full_cachedDrain _ _ _ _), ?_⟩
  rw [← ht.rest]
  exact hx

end Plain

theorem State.drain_full (hk : e.kind = .writeFull)
    (hpiece : e.key / 64 = (e.key + e.bytes.length - 1) / 64 ∧ e.bytes.length ≠ 0) (hd : isDram e.key = false)
    (hbank : Banked (s.realKey e.key)) :
    ∃ t, s.Wrote t s c es (s.realKey e.key) e.bytes ∧ t.isFull e.key = true := by
  have hreal : s.realKey e.key = e.key := s.realKey_store hd
  rw [hreal] at hbank
  have hx : ((s.popStore (coreKey c)).writeChunk (coreKey c) e.key e.bytes true e.hint).1 =
      ((s.popStore (coreKey c)).bankStore (coreKey c) e.key e.bytes).setFulls e.key e.bytes.length true := by
    unfold State.writeChunk
    rw [if_neg (by rw [hd]; decide)]
    rfl
  have hrest := State.setFulls_rest ((s.popStore (coreKey c)).bankStore (coreKey c) e.key e.bytes) e.key e.bytes.length true
  obtain ⟨t, ht⟩ := State.drains_write hb hm hs hr (full := true) hk hpiece hx fun j =>
    State.still_of_cores ((congrArg State.cores hrest).symm.trans (State.cores_bankStore _ (coreKey c) hbank _)) j
  rw [hreal]
  refine ⟨t, ht.wrote ((congrArg State.mem hrest).symm.trans (State.mem_bankStore _ (coreKey c) hbank _)) hcan.mem, ?_⟩
  rw [← ht.rest]
  exact State.isFull_setFulls _ _ hpiece.2

theorem State.drain_redBank {op : AmoOp} {ty : ITy} (hk : e.kind = .red op ty) (hbank : Banked (s.realKey e.key)) :
    ∃ t, s.Left t c es ∧ exec (.redAccept c) s = .next t ∧ t.full = s.full ∧
      t.readNat (s.realKey e.key) (ty.width / 8) = (op.apply ty (BitVec.ofNat 64 (s.readNat (s.realKey e.key) (ty.width / 8)))
        (BitVec.ofNat 64 (leNat e.bytes))).toNat % 2 ^ ty.width ∧
      ∀ b, b < s.realKey e.key ∨ s.realKey e.key + ty.width / 8 ≤ b → memGet t.mem b = memGet s.mem b := by
  obtain ⟨t, ht, hred⟩ := State.drains_red hb hm hs hr hk (State.reduceAt_bank _ _ _ _ hbank.1) fun j =>
    State.still_of_cores (State.cores_bankStore _ (coreKey c) hbank _) j
  have hmem := (congrArg State.mem ht.rest).symm.trans (State.mem_bankStore _ (coreKey c) hbank _)
  refine ⟨t, ht.left, hred, (congrArg State.full ht.rest).symm.trans (State.full_bankStore _ (coreKey c) hbank _), ?_, fun x hx => ?_⟩
  · exact (State.readNat_of_mem hmem hcan.mem).trans (by rw [ty.bytes_pow]; rfl)
  · rw [hmem]
    exact memGet_memWrite_other _ _ (by rw [toBytes_length]; exact hx)

omit hcan in
theorem State.drain_redHome {op : AmoOp} {ty : ITy} (hk : e.kind = .red op ty) (hd : isDram e.key = true)
    (hp : s.pinnedAt e.key = none) (hsame : ∀ q ∈ s.partials, q.key / 8 = e.key / 8 → q.op = op ∧ q.ty = ty) :
    ∃ t, s.Left t c es ∧ exec (.redAccept c) s = .next t ∧ t.full = s.full ∧ t.mem = (s.recall e.key).mem ∧
      ((∀ q ∈ s.partials, q.key = e.key → q.die ≠ entryDie (coreKey c) e.key) → t.partials = s.partials ++
        [{ key := e.key, die := entryDie (coreKey c) e.key, op := op, ty := ty,
           val := op.apply ty (op.identity ty) (BitVec.ofNat 64 (leNat e.bytes)) }]) ∧
      ((∃ q ∈ s.partials, q.key = e.key ∧ q.die = entryDie (coreKey c) e.key) → t.partials = s.partials.map fun q =>
        if q.key = e.key ∧ q.die = entryDie (coreKey c) e.key then
          { q with val := op.apply ty q.val (BitVec.ofNat 64 (leNat e.bytes)) } else q) := by
  have hparts : ((s.popStore (coreKey c)).recall e.key).partials = s.partials := State.partials_recall _ _
  have hpop : (s.popStore (coreKey c)).withMemory (s.recall e.key) = (s.popStore (coreKey c)).recall e.key :=
    (State.recall_withMemory (s.popStore (coreKey c)) s e.key).symm
  obtain ⟨hrest, hnew, hold⟩ := State.acceptRed_same (s := (s.popStore (coreKey c)).recall e.key) (entryDie (coreKey c) e.key)
    (BitVec.ofNat 64 (leNat e.bytes)) (by rw [hparts]; exact hsame)
  rw [hparts] at hnew hold
  have hcores := congrArg State.cores hrest
  have hfull := congrArg State.full hrest
  have hmem := congrArg State.mem hrest
  obtain ⟨t, ht, hred⟩ := State.drains_red hb hm hs hr hk (State.reduceAt_home _ _ _ _ hd hp) fun j =>
    (State.still_grant _ _ _ j).trans (State.still_of_cores (hcores.trans (congrArg State.cores hpop).symm) j)
  exact ⟨t, ht.left, hred,
    (congrArg State.full ht.rest).symm.trans ((State.full_grant _ _ _).trans (hfull.trans (congrArg State.full hpop).symm)),
    (congrArg State.mem ht.rest).symm.trans ((State.mem_grant _ _ _).trans (hmem.trans (congrArg State.mem hpop).symm)),
    fun h => (congrArg State.partials ht.rest).symm.trans ((State.partials_grant _ _ _).trans (hnew h)),
    fun h => (congrArg State.partials ht.rest).symm.trans ((State.partials_grant _ _ _).trans (hold h))⟩

end Places

end Machine

/-! ## The statements -/

/-- Settles O27: an atomic acts on the memory that is up to date for its place, and its register waits for the write. -/
theorem atomicActsOnce : Obligations.AtomicActsOnce := by
  intro s c l ls op
  dsimp only
  intro hcan hl
  refine ⟨fun _ hsplit hroute hready => ⟨fun hd hoff => ?bank, fun hd hp ha => ?home⟩, fun hk hdone hst => ?done⟩
  case bank =>
    have h : s.ActsAt s (s.atomicAt (coreKey c) l.key l.ty l.newValue) (coreKey c) (s.realKey l.key) (l.ty.width / 8) l.newValue := by
      rw [State.atomicAt_bank _ _ _ hd]
      exact s.atomicBank_acts _ ⟨hd, hoff⟩ _ _
    exact ⟨fun hk => Load.acted_amo hl h hcan.mem hsplit hroute hready hk, fun hk => Load.acted_cas hl h hcan.mem hsplit hroute hready hk⟩
  case home =>
    have hreal : s.realKey l.key = l.key := by rw [State.realKey, hp]
    have h := State.atomicAt_home (coreKey c) l.ty l.newValue hd hp ha
    rw [hreal]
    have hwf := (s.settle_canon l.key (l.ty.width / 8) hcan).mem
    exact ⟨fun hk => Load.acted_amo hl h hwf hsplit hroute hready hk, fun hk => Load.acted_cas hl h hwf hsplit hroute hready hk⟩
  case done =>
    have hperf : s.answerLoad (coreKey c) = (s.retireLoad (coreKey c) l l.bad fun d => d.wx (BitVec.ofNat 5 l.reg) l.a).addFlight
        (coreKey c) l.b.toNat l.scope l.seq l.key := by
      unfold State.answerLoad
      rw [hl]
      dsimp only
      rw [if_pos hk, if_pos (by unfold State.loadReady; rw [hk]; exact hdone)]
      unfold State.performLoad
      rw [hk]
    have hcore := State.still_retireLoad hst l l.bad fun c d => Core.still_wx c d (BitVec.ofNat 5 l.reg) l.a
    obtain ⟨fl, hfl⟩ := State.core_addFlight
      (s.retireLoad (coreKey c) l l.bad fun d => d.wx (BitVec.ofNat 5 l.reg) l.a) (coreKey c) l.b.toNat l.scope l.seq l.key (coreKey c)
    refine ⟨_, congrArg Host.Outcome.next hperf, ?_, ?_, fun r => ?_, fun a ha => ?_⟩
    · rw [hfl]
      refine (Core.field_of_still hcore Core.loads).trans ?_
      rw [hl]
      unfold Core.wx
      split <;> rfl
    · rw [hfl]
      refine (Core.field_of_still hcore Core.pc).trans ?_
      unfold Core.wx
      split <;> rfl
    · rw [hfl]
      refine (Core.field_of_still hcore fun c => c.rx r).trans ?_
      rw [Core.rx_wx]
      rfl
    · rw [← State.addFlight_rest]
      exact (State.SameBut.retireLoad hst l l.bad _).mem a ha

/-- Settles O29: bank, home and block are the three places at which a write comes to stand, bank and partial copy the two of a
reduction. -/
theorem storeBufferDrains : Obligations.StoreBufferDrains := by
  intro s c e es
  dsimp only
  intro hcan hb hm hs hr
  exact ⟨fun hk hpiece =>
      ⟨State.drain_bank hcan hb hm hs hr hk hpiece,
        fun hhome hc => State.drain_home hcan hb hm hs hr hk hpiece hhome.1 hhome.2 hc,
        fun hhome hc hheld hno => State.drain_nofill hcan hb hm hs hr hk hpiece hhome.1 hhome.2 hc hheld hno,
        fun hhome hc hheld hfill hroom => State.drain_fill hb hm hs hr hk hpiece hhome.1 hhome.2 hc hheld hfill hroom,
        fun hhome hc _ _ hblk hpa hown => State.drain_owned hb hm hs hr hk hpiece hhome.1 hhome.2 hc hblk hpa hown⟩,
    fun hk hpiece hd hbank => State.drain_full hcan hb hm hs hr hk hpiece hd hbank,
    fun _ _ hk => ⟨fun hbank => State.drain_redBank hcan hb hm hs hr hk hbank,
      fun hhome hsame => State.drain_redHome hb hm hs hr hk hhome.1 hhome.2 hsame⟩⟩

end Sys2Proof

/-! SUPPORT. Fences, waits, barriers, tags, arrival objects and handle registers, and the proofs of O34, O35, O37, O39, O40 and
O41. -/

namespace Sys2Proof
open Machine

namespace Machine

/-! ## A context table in a register home

The place of a thread's tag state hangs on its context table once its job has images (R279), and the table stands where the supervisor
register says, in a register home too. The register that naming an operand writes back to that home (R94) then moves the tag
state, and with it the fault record that `fence`, `wait`, `twait`, `tany`, `tfind` and `abwait` look at. -/

/-- Core 0 runs a thread of a job whose tile stands in its image, its context table at the core's own home. The register cache is
full; its oldest entry is x3, 0x10000, that the home does not hold yet. At the image of which the home tells no fault is pending; at that of
which x3 tells one is. Tag 0 is set and arrival object 0 is met. -/
def tableInHome : State :=
  { (State.reset.writeNat 0x12500 4 0x10000).writeNat (arrivalKey (storeBase 0) 0) 16 (2 ^ 65) with
    cores := [(0, { Core.idle with
      st := .running, pc := 0x100000, x := Core.idle.x.set 3 0x10000, tags := 1
      rc := (3, true) :: (List.range 63).map fun i => (4 + i, false) })]
    tiles := [(0, { Tile.idle with images := [Core.idle.job] })]
    dies := [(0, { Die.idle with sup := [(0x800, BitVec.ofNat 64 tileBase)] })]
    pkgs := [(0, { Pkg.idle with parts := [(0, 1)], booted := true })] }

/-- A guard that always holds and names p1, so that its word needs a place in the register cache. -/
def namingGuard : Guard := ⟨0xFF, 1, 0, 0⟩

theorem tableInHome_sound (w : Nat) : tableInHome.Sound 0 w := ⟨rfl, fun _ _ => rfl, rfl⟩

theorem tableInHome_runs {i : Instr} (hrole : refusedByRole 0 i = false) (hcsr : refusedCsr 0 i = false)
    (hguard : i.guard = namingGuard) : tableInHome.Runs i where
  canon := ⟨by decide +kernel, rfl, rfl, rfl, rfl, rfl, rfl, rfl, rfl, rfl, rfl, rfl, rfl, rfl, rfl⟩
  running := by decide +kernel
  role := hrole
  csr := hcsr
  guard := by rw [hguard]; decide +kernel
  ready _ _ := List.not_mem_nil
  passes := .inl rfl
  clean w _ := tableInHome_sound w

theorem tableInHome_quiet : tableInHome.faultPend 0 = false := by decide +kernel

/-- The fault that `wait` meets there stops the thread. -/
theorem exec_wait_tableInHome : ∃ t, exec (.wait namingGuard ⟨15, 15, 15, 15, 15⟩) tableInHome = .next t ∧ (t.core 0).st = .stopped :=
  ⟨_, rfl, by decide +kernel⟩

/-- So does the one that `twait` meets at a tag that is set. -/
theorem exec_twait_tableInHome : ∃ t, exec (.twait namingGuard 0) tableInHome = .next t ∧ (t.core 0).st = .stopped :=
  ⟨_, rfl, by decide +kernel⟩

/-- And the one that `abwait` meets at an object that is met. -/
theorem exec_abwait_tableInHome : ∃ t, exec (.abwait namingGuard 0) tableInHome = .next t ∧ (t.core 0).st = .stopped :=
  ⟨_, rfl, by decide +kernel⟩

/-- A word that stops the thread has not just gone on to the next one. -/
theorem not_did_of_stopped {i : Instr} (hstop : ∃ t, exec i tableInHome = .next t ∧ (t.core 0).st = .stopped) :
    ¬ ∃ t, exec i tableInHome = .next t ∧ tableInHome.Did t fun c => c.advance 8 := by
  rintro ⟨t, ht, hdid⟩
  obtain ⟨u, hu, hst⟩ := hstop
  obtain rfl : t = u := Host.Outcome.next.inj (ht.symm.trans hu)
  have hrun : (t.core 0).st = .running := hdid.core.field Core.st fun _ _ => rfl
  exact ThreadState.noConfusion (hst.symm.trans hrun)

/-- A change of a core that does not look at its register cache. -/
theorem Core.Same.map {c d : Core} (h : c.Same d) {f : Core → Core}
    (hf : ∀ (c : Core) r, f { c with rc := r } = { f c with rc := r }) : (f c).Same (f d) := by
  have hrc : (f d).rc = d.rc := (congrArg Core.rc (hf d d.rc) :)
  have e : f { c with rc := d.rc } = f d := congrArg f h
  rw [hf] at e
  unfold Core.Same
  rwa [hrc]

/-! ## States that differ in the register home and in what the register cache holds -/

/-- `u` is `s` but for the home of core `k` and for which registers its cache holds. -/
structure State.Alike (s u : State) (k : Nat) : Prop where
  same : s.SameBut u k
  core : (u.core k).Same (s.core k)

section Alike

variable {s u : State} {k : Nat} (h : s.Alike u k)
include h

/-- An operation on what is neither memory nor a core finds the same in both. -/
theorem State.Alike.map (F : State → State) (hF : ∀ (r : State) m n c,
      F { r with mem := m, marks := n, cores := c } = { F r with mem := m, marks := n, cores := c }) : (F s).Alike (F u) k := by
  have kept (r : State) : F r = { F r with mem := r.mem, marks := r.marks, cores := r.cores } := hF r r.mem r.marks r.cores
  have hcore (r : State) (j : Nat) : (F r).core j = r.core j := (congrArg (fun w : State => w.core j) (kept r) :)
  have hmem (r : State) : (F r).mem = r.mem := (congrArg State.mem (kept r) :)
  have hmark (r : State) (a : Nat) : (F r).isMarked a = r.isMarked a := (congrArg (fun w : State => w.isMarked a) (kept r) :)
  refine ⟨⟨?_, fun j hj => ?_, fun a ha => ?_, fun a ha => ?_⟩, ?_⟩
  · calc { F u with mem := (F s).mem, marks := (F s).marks, cores := (F s).cores }
        = { F u with mem := s.mem, marks := s.marks, cores := s.cores } := by rw [kept s]
      _ = F { u with mem := s.mem, marks := s.marks, cores := s.cores } := (hF ..).symm
      _ = F s := congrArg F h.same.rest
  · rw [hcore, hcore, h.same.others j hj]
  · rw [hmem, hmem, h.same.mem a ha]
  · rw [hmark, hmark, h.same.marks a ha]
  · rw [hcore, hcore]; exact h.core

/-- An operation on a core that does not look at its register cache does the same in both. -/
theorem State.Alike.onCore (j : Nat) (f : Core → Core) (hf : ∀ (c : Core) r, f { c with rc := r } = { f c with rc := r }) :
    (s.onCore j f).Alike (u.onCore j f) k := by
  refine ⟨⟨?_, fun i hi => ?_, h.same.mem, h.same.marks⟩, ?_⟩
  · exact congrArg (fun w : State => { w with cores := (s.onCore j f).cores }) h.same.rest
  · by_cases hj : i = j
    · subst hj
      rw [State.core_onCore_same, State.core_onCore_same, h.same.others i hi]
    · rw [State.core_onCore_other _ _ hj, State.core_onCore_other _ _ hj, h.same.others i hi]
  · by_cases hj : k = j
    · subst hj
      rw [State.core_onCore_same, State.core_onCore_same]
      exact h.core.map hf
    · rw [State.core_onCore_other _ _ hj, State.core_onCore_other _ _ hj]
      exact h.core

/-- A word that completes there. -/
theorem State.Alike.finishWith (f : Core → Core) (hf : ∀ (c : Core) r, f { c with rc := r } = { f c with rc := r }) :
    s.SameBut (u.finishWith k f) k ∧ ((u.finishWith k f).core k).Same ((f (s.core k)).advance 8) := by
  refine ⟨h.same.trans (.onCore u k _), ?_⟩
  rw [State.core_finishWith_same]
  exact h.core.map (f := fun c => (f c).advance 8) fun c r => by rw [hf]; rfl

theorem State.Alike.phase (b : Nat) : u.phase k b = s.phase k b := (congrArg (fun w : State => w.phase k b) h.same.rest :)

theorem State.Alike.isCompactBar (b : Nat) : u.isCompactBar k b = s.isCompactBar k b :=
  (congrArg (fun w : State => w.isCompactBar k b) h.same.rest :)

theorem State.Alike.member (b : Nat) : u.member k b = s.member k b := (congrArg (fun w : State => w.member k b) h.same.rest :)

theorem State.Alike.hasArrived (b : Nat) : u.hasArrived k b = s.hasArrived k b :=
  (congrArg (fun w : State => w.hasArrived k b) h.same.rest :)

theorem State.Alike.barScope (d b : Nat) : u.barScope d b k = s.barScope d b k :=
  (congrArg (fun w : State => w.barScope d b k) h.same.rest :)

theorem State.Alike.seq : u.seq = s.seq := (congrArg State.seq h.same.rest :)

theorem State.Alike.performed (sc : Scope) (w : Nat) : u.performed k sc w = s.performed k sc w :=
  (congrArg (fun r : State => r.performed k sc w) h.same.rest :)

theorem State.Alike.released (before : Nat) (sc : Scope) : u.released k before sc = s.released k before sc := by
  have hp : u.performed k sc = s.performed k sc := funext fun w => h.performed sc w
  have field {α : Type} (f : Core → α) (hf : ∀ (c : Core) r, f { c with rc := r } = f c) := h.core.field f hf
  unfold State.released State.writesDone
  rw [hp, field Core.sbuf fun _ _ => rfl, field Core.loads fun _ _ => rfl, field Core.flights fun _ _ => rfl,
    field Core.birth fun _ _ => rfl, field Core.sent fun _ _ => rfl]

end Alike

theorem State.ready_alike {s : State} {i : Instr} (h : s.Runs i) : s.Alike (s.ready i) s.me :=
  ⟨(State.ready_named h).same, (State.ready_named h).core⟩

theorem State.Alike.raiseClk {s u : State} {k : Nat} (h : s.Alike u k) (j w : Nat) : (s.raiseClk j w).Alike (u.raiseClk j w) k := by
  unfold State.raiseClk
  split
  · exact h.map (fun r => r.raiseClock (coreTile j) w) fun _ _ _ _ => rfl
  · exact h.onCore j _ fun _ _ => rfl

theorem State.Alike.clk {s u : State} {k : Nat} (h : s.Alike u k) : u.clk k = s.clk k := by
  unfold State.clk
  rw [h.core.field Core.clk fun _ _ => rfl,
    show u.clock = s.clock from (congrArg State.clock h.same.rest :), show u.time = s.time from (congrArg State.time h.same.rest :)]

theorem State.Alike.arriveAt {s u : State} {k : Nat} (h : s.Alike u k) (d b bit : Nat) :
    (s.arriveAt k d b bit).Alike (u.arriveAt k d b bit) k := by
  have ht : u.time = s.time := (congrArg State.time h.same.rest :)
  unfold State.arriveAt
  rw [h.clk, ht]
  exact (h.onCore k (fun c => { c with floors := c.floors.del b }) fun _ _ => rfl).map (fun r => r.onBar d b _) fun _ _ _ _ => rfl

theorem State.Alike.acquireBar {s u : State} {k : Nat} (h : s.Alike u k) (b : Nat) : (s.acquireBar k b).Alike (u.acquireBar k b) k := by
  unfold State.acquireBar
  have hb : u.bar = s.bar := (congrArg State.bar h.same.rest :)
  rw [hb]
  exact h.raiseClk k _

/-! ## Barriers -/

theorem State.bar_onBar_other (s : State) {d e : Nat} (b c : Nat) (f : Barrier → Barrier) (h : e ≠ d) :
    (s.onBar d b f).bar e c = s.bar e c := by
  unfold State.onBar State.bar
  rw [show (s.onDie d fun v => { v with bars := v.bars.put b (f (v.bars.get Barrier.idle b)) }).die e = s.die e from
    SMap.get_put_other _ _ _ h]

section BarrierWords

variable {s : State} {g : Guard} {bid : BitVec 6}

theorem exec_arrive_runs {rd : XReg} (hr : s.Runs (.arrive g rd bid)) :
    exec (.arrive g rd bid) s = .next
      (if s.isCompactBar s.me bid.toNat then (s.ready (.arrive g rd bid)).trap s.me causeFormat (bid.zeroExtend 64)
      else if !s.member s.me bid.toNat then
        (s.ready (.arrive g rd bid)).finishWith s.me fun c => c.wx rd ((s.phase s.me bid.toNat).zeroExtend 64)
      else if s.hasArrived s.me bid.toNat || !s.released s.me s.seq (s.barScope (coreDieKey s.me) bid.toNat s.me) then
        (s.ready (.arrive g rd bid)).await s.me
      else ((s.ready (.arrive g rd bid)).arriveAt s.me (coreDieKey s.me) bid.toNat (coreBit s.me)).finishWith s.me fun c =>
        c.wx rd ((s.phase s.me bid.toNat).zeroExtend 64)) := by
  have h := State.ready_alike hr
  refine congrArg Host.Outcome.next ((State.issue_runs hr _).trans ?_)
  dsimp only
  rw [h.isCompactBar, h.member, h.hasArrived, h.phase, h.barScope, h.released, h.seq]

theorem exec_bwait_runs {ra : XReg} {pt pf : PReg} (hr : s.Runs (.bwait g bid ra pt pf)) :
    exec (.bwait g bid ra pt pf) s = .next (
      let tok : BitVec 8 := ((s.core s.me).rx ra).truncate 8
      let d := ((s.bar (coreDieKey s.me) bid.toNat).phase - tok).toNat
      let u := s.ready (.bwait g bid ra pt pf)
      if s.isCompactBar s.me bid.toNat then u.trap s.me causeFormat (bid.zeroExtend 64)
      else if 128 ≤ d then u.trap s.me causeBarrierFuture (tok.zeroExtend 64)
      else if 1 ≤ d then
        (u.acquireBar s.me bid.toNat).finishWith s.me fun c => c.writePair pt pf (decide (2 ≤ d), !decide (2 ≤ d))
      else (u.awaitFresh s.me (s.core s.me).bwaiting.isSome).onCore s.me fun c => { c with bwaiting := some (bid, tok) }) := by
  have h := State.ready_alike hr
  have htok (v : Word) : fld v 0 8 = v.truncate 8 := (BitVec.setWidth_eq_extractLsb' (by norm_num)).symm
  refine congrArg Host.Outcome.next ((State.issue_runs hr _).trans ?_)
  dsimp only
  rw [h.isCompactBar, h.phase, h.core.field (fun c => c.rx ra) fun _ _ => rfl, h.core.field Core.bwaiting fun _ _ => rfl, htok]
  rfl

/-- R317: the arrival of a member counts. -/
theorem State.hasArrived_arriveAt (u : State) (k b : Nat) (f : Core → Core) :
    ((u.arriveAt k (coreDieKey k) b (coreBit k)).finishWith k f).hasArrived k b = true := by
  have hbit : coreBit k < 1024 := Nat.mod_lt _ (by norm_num)
  unfold State.hasArrived
  rw [show ((u.arriveAt k (coreDieKey k) b (coreBit k)).finishWith k f).bar (coreDieKey k) b =
    (u.arriveAt k (coreDieKey k) b (coreBit k)).bar (coreDieKey k) b from rfl]
  unfold State.arriveAt
  dsimp only
  rw [State.bar_onBar_same]
  simp [hbit]

end BarrierWords

/-! ## Phases -/

/-- What a phase that completes does on one die of its group. -/
def State.nextPhase (bid : Nat) (t : State) (e : Nat) : State :=
  ((t.bar e bid).cores e).foldl (fun u k => u.onCore k fun c => { c with wfiEvent := true, floors := c.floors.del bid })
    (t.onBar e bid fun b => { b with phase := b.phase + 1, arrived := 0, since := none })

theorem State.completePhase_eq (s : State) (d bid : Nat) :
    s.completePhase d bid = ((s.bar d bid).group d).foldl (State.nextPhase bid) s := rfl

theorem State.mem_nextPhase (bid : Nat) (t : State) (e : Nat) : (State.nextPhase bid t e).mem = t.mem := by
  unfold State.nextPhase
  refine foldl_field State.mem _ _ (fun u k => ?_) _
  rfl

theorem State.bar_nextPhase (bid : Nat) (t : State) (e d : Nat) :
    (State.nextPhase bid t e).bar d bid = (t.onBar e bid fun b => { b with phase := b.phase + 1, arrived := 0, since := none }).bar d bid := by
  unfold State.nextPhase
  refine foldl_field (fun u : State => u.bar d bid) _ _ (fun u k => ?_) _
  rfl

/-- The phase of a die that is not among those of the group stays. -/
theorem State.bar_foldl_nextPhase_other (bid d : Nat) (es : List Nat) (h : d ∉ es) (t : State) :
    (es.foldl (State.nextPhase bid) t).bar d bid = t.bar d bid := by
  induction es generalizing t with
  | nil => rfl
  | cons e es ih =>
    rw [List.mem_cons, not_or] at h
    rw [List.foldl_cons, ih h.2, State.bar_nextPhase, State.bar_onBar_other _ _ _ _ h.1]

theorem State.bar_completePhase (s : State) (d bid : Nat) :
    (s.completePhase d bid).bar d bid = { s.bar d bid with phase := (s.bar d bid).phase + 1, arrived := 0, since := none } := by
  rw [State.completePhase_eq, Barrier.group, List.eraseDups_cons, List.foldl_cons, State.bar_foldl_nextPhase_other,
    State.bar_nextPhase, State.bar_onBar_same]
  simp

/-- A `bwait` that waits (R318). -/
theorem State.Alike.awaitPhase {s u : State} {k : Nat} (h : s.Alike u k) (bid : BitVec 6) (tok : BitVec 8) (counting : Bool) :
    let t := (u.awaitFresh k counting).onCore k fun c => { c with bwaiting := some (bid, tok) }
    s.SameBut t k ∧ (t.core k).bwaiting = some (bid, tok) ∧ (t.core k).pc = (s.core k).pc ∧ (t.core k).x = (s.core k).x ∧
      (t.core k).p = (s.core k).p := by
  dsimp only
  refine ⟨(h.same.trans (.onCore u k _)).trans (.onCore _ k _), ?_⟩
  rw [State.core_onCore_same, State.awaitFresh, State.core_onCore_same]
  exact ⟨rfl, h.core.field Core.pc fun _ _ => rfl, h.core.field Core.x fun _ _ => rfl, h.core.field Core.p fun _ _ => rfl⟩

theorem exec_barrierTimeout_due {s : State} {c : CoreId} {bid : BitVec 6} {tok : BitVec 8} {t0 : Nat}
    (hb : (s.core (coreKey c)).bwaiting = some (bid, tok)) (hw : (s.core (coreKey c)).waitFrom = some t0)
    (hst : (s.core (coreKey c)).st = .running) (hp : s.phase (coreKey c) bid.toNat = tok) (ht : t0 + 2 ^ 26 ≤ s.time)
    (hs : (s.core (coreKey c)).settled = true) :
    exec (.barrierTimeout c) s = .next (s.takeTrap (coreKey c) causeBarrierTimeout false (s.core (coreKey c)).pc
      (bid.zeroExtend 64) 0) := by
  refine congrArg Host.Outcome.next ?_
  dsimp only
  rw [hb, hw]
  exact if_pos ⟨hst, hp, ht, hs⟩

/-! ## Handle registers -/

/-- What a field takes is the low bits of the value; every other bit stays. -/
theorem testBit_setFld (v lo n x b : Nat) :
    (setFld v lo n x).testBit b = if lo ≤ b ∧ b < lo + n then x.testBit (b - lo) else v.testBit b := by
  have e : setFld v lo n x = 2 ^ lo * (2 ^ n * (v / 2 ^ (lo + n)) + x % 2 ^ n) + v % 2 ^ lo := by
    unfold setFld
    rw [pow_add]
    ring
  have hx : x % 2 ^ n < 2 ^ n := Nat.mod_lt _ (Nat.two_pow_pos n)
  rw [e, Nat.testBit_two_pow_mul_add _ (Nat.mod_lt _ (Nat.two_pow_pos lo)), Nat.testBit_two_pow_mul_add _ hx]
  by_cases h : b < lo
  · rw [if_pos h, if_neg (by omega), Nat.testBit_mod_two_pow]
    simp [h]
  · rw [if_neg h]
    by_cases h' : b < lo + n
    · rw [if_pos (by omega), if_pos ⟨by omega, h'⟩, Nat.testBit_mod_two_pow]
      simp
      omega
    · rw [if_neg (by omega), if_neg (by omega), Nat.testBit_div_two_pow]
      congr 1
      omega

theorem Core.wh_withRc (c : Core) (r : List (Nat × Bool)) (h : HReg) (v : Wide) :
    ({ c with rc := r } : Core).wh h v = { c.wh h v with rc := r } := rfl

theorem handleGet_eq (v : Wide) (f : BitVec 4) : handleGet v f = if f = 4 ∨ f = 5
    then (v.extractLsb' (handleField f).1 32).signExtend 64 else BitVec.ofNat 64 (v.toNat / 2 ^ (handleField f).1 % 2 ^ (handleField f).2) := by
  unfold handleGet
  split
  · next h =>
    have hn : (handleField f).2 = 32 := by rcases h with rfl | rfl <;> rfl
    dsimp only
    rw [hn]
    congr 1
    apply BitVec.eq_of_toNat_eq
    simp [getFld, Nat.shiftRight_eq_div_pow]
  · rfl

/-- The cursor that an advance leaves, modulo 2^32. -/
theorem fld_hAdvance (v : Wide) (n : BitVec 32) : fld (hAdvance v n) 128 32 = fld v 128 32 + hStep v * n := by
  unfold hAdvance
  ext i hi
  simp only [BitVec.getElem_extractLsb', BitVec.getLsbD_or, BitVec.getLsbD_and, BitVec.getLsbD_not, BitVec.getLsbD_shiftLeft,
    BitVec.getLsbD_ofNat, Nat.testBit_two_pow_sub_one]
  have h256 : 128 + i < 256 := by omega
  have hi256 : i < 256 := by omega
  simp [h256, hi, hi256]

/-- An advance changes the cursor alone. -/
theorem getLsbD_hAdvance (v : Wide) (n : BitVec 32) (b : Nat) (h : b < 128 ∨ 160 ≤ b) : (hAdvance v n).getLsbD b = v.getLsbD b := by
  unfold hAdvance
  by_cases hb : b < 256
  · have hcur : b < 128 ∨ (fld v 128 32 + hStep v * n).getLsbD (b - 128) = false :=
      h.imp_right fun h => BitVec.getLsbD_of_ge _ _ (by omega)
    have hmask : b < 128 ∨ ¬ b - 128 < 32 := by omega
    simp only [BitVec.getLsbD_or, BitVec.getLsbD_and, BitVec.getLsbD_not, BitVec.getLsbD_shiftLeft, BitVec.getLsbD_ofNat,
      Nat.testBit_two_pow_sub_one, BitVec.truncate_eq_setWidth, BitVec.getLsbD_setWidth]
    rcases hcur with hlo | hcur
    · simp [hb, hlo]
    · rcases hmask with hlo | hhi
      · simp [hb, hlo]
      · simp [hb, hhi, hcur]
  · rw [BitVec.getLsbD_of_ge _ _ (by omega), BitVec.getLsbD_of_ge _ _ (by omega)]

theorem ofInt_advance (cur step n : BitVec 32) (m : Int) (h : BitVec.ofInt 32 m = n) :
    BitVec.ofInt 32 (cur.toInt + step.toInt * m) = cur + step * n := by
  rw [BitVec.ofInt_add, BitVec.ofInt_mul, BitVec.ofInt_toInt, BitVec.ofInt_toInt, h]

end Machine

/-! ## The statements -/

/-- Refutes O34 at `wait`: a context table in the thread's own register home, where the register that naming an operand writes back
moves the fault record (`tableInHome`). -/
theorem not_fencesAndWaits : ¬ Obligations.FencesAndWaits := by
  unfold Obligations.FencesAndWaits
  intro h
  obtain ⟨-, hwait, -⟩ := h tableInHome namingGuard ⟨.pod, false, false, false, false, false, false, false⟩ ⟨15, 15, 15, 15, 15⟩
  exact not_did_of_stopped exec_wait_tableInHome (hwait (tableInHome_runs rfl rfl rfl) tableInHome_quiet rfl rfl rfl rfl rfl)

/-- Refutes O39 at `twait`, at the same state. -/
theorem not_tagWords : ¬ Obligations.TagWords := by
  unfold Obligations.TagWords
  intro h
  obtain ⟨htwait, -⟩ := h tableInHome namingGuard 0 0 0
  exact not_did_of_stopped exec_twait_tableInHome (htwait (tableInHome_runs rfl rfl rfl) tableInHome_quiet rfl)

/-- Refutes O40 at `abwait`, at the same state. -/
theorem not_arrivalObjects : ¬ Obligations.ArrivalObjects := by
  unfold Obligations.ArrivalObjects
  intro h
  obtain ⟨-, -, habwait, -⟩ := h tableInHome namingGuard 0 0 (.tile 0) 0
  exact not_did_of_stopped exec_abwait_tableInHome
    (habwait (tableInHome_runs rfl rfl rfl) tableInHome_quiet (by decide +kernel))

/-- Settles O35: each word comes down to its cases on the state in which its operands are named, which differs from the first in the
register home alone. -/
theorem barrierWords : Obligations.BarrierWords := by
  unfold Obligations.BarrierWords
  intro s g rd ra bid pt pf
  refine ⟨fun hr hc hm => ?_, fun hr hc hm ha hrel => ?_, fun hr hc h1 h2 => ?_, fun hr hc h0 => ?_, fun hr hc hd hh => ?_,
    fun i hi hr hc hh => ?_⟩
  · have h := (State.ready_alike hr).finishWith
      (fun c => c.wx rd ((s.phase s.me bid.toNat).zeroExtend 64)) fun c r => Core.wx_withRc ..
    refine ⟨_, exec_arrive_runs hr, ?_⟩
    rw [if_neg (by simp [hc]), if_pos (by simp [hm])]
    exact ⟨h.1, h.2⟩
  · have h := ((State.ready_alike hr).arriveAt (coreDieKey s.me) bid.toNat (coreBit s.me)).finishWith
      (fun c => c.wx rd ((s.phase s.me bid.toNat).zeroExtend 64)) fun c r => Core.wx_withRc ..
    refine ⟨_, exec_arrive_runs hr, ?_⟩
    rw [if_neg (by simp [hc]), if_neg (by simp [hm]), if_neg (by simp [ha, hrel])]
    exact ⟨h.1, h.2, State.hasArrived_arriveAt ..⟩
  · have h (v : Bool × Bool) := ((State.ready_alike hr).acquireBar bid.toNat).finishWith
      (fun c => c.writePair pt pf v) fun c r => Core.writePair_withRc ..
    refine ⟨_, exec_bwait_runs hr, ?_⟩
    dsimp only
    rw [if_neg (by simp [hc]), if_neg (by omega), if_pos h1]
    exact h _
  · refine ⟨_, exec_bwait_runs hr, ?_⟩
    dsimp only
    rw [if_neg (by simp [hc]), if_neg (by omega), if_neg (by omega)]
    exact (State.ready_alike hr).awaitPhase bid _ _
  · refine ⟨_, exec_bwait_runs hr, ?_⟩
    dsimp only
    rw [if_neg (by simp [hc]), if_pos hd]
    exact (State.ready_named hr).trapsTo hr.running (by decide) hh
  · rcases hi with rfl | rfl
    · refine ⟨_, exec_arrive_runs hr, ?_⟩
      rw [if_pos hc]
      exact (State.ready_named hr).trapsTo hr.running (by decide) hh
    · refine ⟨_, exec_bwait_runs hr, ?_⟩
      dsimp only
      rw [if_pos hc]
      exact (State.ready_named hr).trapsTo hr.running (by decide) hh

/-- Settles O37: a die stands once in the group whose phase completes. -/
theorem phasesAndTimeouts : Obligations.PhasesAndTimeouts := by
  unfold Obligations.PhasesAndTimeouts
  intro s d bid c tok t0
  refine ⟨fun h => ?_, fun h => ?_, fun hb hw hst hp ht hs => ?_⟩
  · refine ⟨_, congrArg Host.Outcome.next (if_pos h), ?_⟩
    rw [State.bar_completePhase]
    exact ⟨foldl_field State.mem _ _ (State.mem_nextPhase _) _, rfl, rfl, rfl⟩
  · exact congrArg Host.Outcome.next (if_neg (by simp [h]))
  · have e := State.bare_takeTrap_stopped (s := s) (k := coreKey c) (cause := causeBarrierTimeout) (eng := false)
      (pc := (s.core (coreKey c)).pc) (tval := bid.zeroExtend 64) (aux := 0) (by decide) (by decide) (.inr (.inr rfl))
    refine ⟨_, exec_barrierTimeout_due hb hw hst hp ht hs, ?_⟩
    exact ⟨Core.field_of_bare e Core.st, Core.field_of_bare e Core.tcause, Core.field_of_bare e Core.tval,
      Core.field_of_bare e Core.tpc⟩

/-- Settles O41: the field's bits are those that `testBit_setFld` tells, and the advance is modular arithmetic of 32 bits. -/
theorem handleRegisterWords : Obligations.HandleRegisterWords := by
  unfold Obligations.HandleRegisterWords
  intro s g h hs f x
  refine ⟨completes_of_scalarWord rfl fun _ _ => rfl, fun _ v w b hb => ?_, ?_, completes_of_scalarWord rfl fun _ _ => rfl,
    ⟨fun c => c.wh h (hAdvance (c.rh h) (if x = 0 then 1 else fld (c.rx x) 0 32)), completes_of_scalarWord rfl fun _ _ => rfl,
      fun c => ⟨?_, ?_, fun b hb => ?_⟩⟩⟩
  · unfold handleSet
    rw [BitVec.getLsbD_ofNat, testBit_setFld]
    simp only [hb, decide_true, Bool.true_and]
    rfl
  · simp only [← handleGet_eq]
    exact completes_wx (fun _ _ => rfl) rfl
  · dsimp only
    rw [Core.rh_wh_same]
  · dsimp only
    rw [Core.rh_wh_same]
    unfold hCursor
    rw [fld_hAdvance, ofInt_advance]
    split
    · rfl
    · rw [BitVec.ofInt_natCast]
      exact BitVec.eq_of_toNat_eq (by simp)
  · dsimp only
    rw [Core.rh_wh_same, getLsbD_hAdvance _ _ _ hb]

end Sys2Proof

/-! SUPPORT. The issue of vector words, the arbiter of the lane groups and the completion of the oldest vector word, and the proofs
of O42, O43, O44 and O45. -/

namespace Sys2Proof
open Machine

namespace Machine

/-! ## The entry of a vector word (R217) -/

theorem exec_eq_issueVec {i : Instr} (hv : i.isVector = true) (s : State) : exec i s = .next (s.issueVec i) := by
  cases i <;> cases hv <;> rfl

theorem nodup_eraseDups {α : Type} [DecidableEq α] : ∀ l : List α, l.eraseDups.Nodup
  | [] => List.nodup_nil
  | a :: as => by
    rw [List.eraseDups_cons, List.nodup_cons, List.mem_eraseDups]
    exact ⟨by simp, nodup_eraseDups _⟩
termination_by l => l.length
decreasing_by exact Nat.lt_succ_of_le (List.length_filter_le _ _)

theorem Core.advance_marked (hs : List HReg) (hn : hs.Nodup) (c : Core) (h : HReg) :
    (hs.foldl (fun c h => c.wh h (hAdvance (c.rh h) 1)) c).rh h = if h ∈ hs then hAdvance (c.rh h) 1 else c.rh h := by
  induction hs generalizing c with
  | nil => rfl
  | cons g hs ih =>
    obtain ⟨hg, hn⟩ := List.nodup_cons.1 hn
    rw [List.foldl_cons, ih hn, Core.rh_wh]
    by_cases hgh : h = g
    · subst hgh
      rw [if_neg hg, if_pos rfl, if_pos List.mem_cons_self]
    · simp only [List.mem_cons, hgh, false_or, if_false]

/-- Each marked handle register moves on once. -/
theorem Core.rh_advanceCursors (c : Core) (i : Instr) (h : HReg) : (c.advanceCursors i).rh h =
    if h ∈ (i.slots.handles.filter (·.adv)).map (·.h) then hAdvance (c.rh h) 1 else c.rh h := by
  unfold Core.advanceCursors
  dsimp only
  rw [Core.advance_marked _ (nodup_eraseDups _)]
  simp only [List.mem_eraseDups]

theorem Core.advanceCursors_rest (c : Core) (i : Instr) : { c.advanceCursors i with h := c.h, poison := c.poison } = c := by
  unfold Core.advanceCursors
  have key (hs : List HReg) (d : Core) (hd : { d with h := c.h, poison := c.poison } = c) :
      { hs.foldl (fun c h => c.wh h (hAdvance (c.rh h) 1)) d with h := c.h, poison := c.poison } = c := by
    induction hs generalizing d with
    | nil => exact hd
    | cons g hs ih => exact ih _ hd
  exact key _ c rfl

@[simp] theorem State.core_shutWindow (s : State) (k j : Nat) : (s.shutWindow k).core j = s.core j := by
  unfold State.shutWindow
  split
  · split <;> rfl
  · rfl

@[simp] theorem State.seq_shutWindow (s : State) (k : Nat) : (s.shutWindow k).seq = s.seq := by
  unfold State.shutWindow
  split
  · split <;> rfl
  · rfl

/-- What the entry of a vector word does with room in the queue. -/
def State.vecPut (w : State) (k : Nat) (i : Instr) (n : Nat) (mask : Wide) (key : Nat) : State :=
  ((w.shutWindow k).finishWith k fun c => { c.advanceCursors i with
    vq := c.vq ++ [((w.shutWindow k).core k).vecEntry i n (w.shutWindow k).seq mask key] }).tick

section Enter

variable {s w : State} {k : Nat} {i : Instr}
  (field : ∀ {α : Type} (f : Core → α), (∀ (c : Core) r u, f { c with rc := r, tlb := u } = f c) → f (w.core k) = f (s.core k))
  (hseq : w.seq = s.seq)
include field hseq

/-- What the entry leaves, on a state whose core differs from `s` in its register cache and its TLB alone. -/
theorem State.vecPut_enters (n : Nat) (mask : Wide) (key : Nat) :
    let t := w.vecPut k i n mask key
    (w.shutWindow k).SameBut { t with seq := s.seq } k ∧ t.seq = s.seq + 1 ∧
      (t.core k).vq = (s.core k).vq ++ [(s.core k).vecEntry i n s.seq mask key] ∧
      (t.core k).pc = (s.core k).pc + 8 ∧ (t.core k).x = (s.core k).x ∧ (t.core k).p = (s.core k).p ∧ (t.core k).vp = (s.core k).vp ∧
      ∀ h : HReg, (t.core k).rh h = if h ∈ (i.slots.handles.filter (·.adv)).map (·.h) then hAdvance ((s.core k).rh h) 1
        else (s.core k).rh h := by
  have hadv {α : Type} (f : Core → α) (hf : ∀ (c : Core) h p, f { c with h := h, poison := p } = f c) :
      f ((w.core k).advanceCursors i) = f (w.core k) :=
    (hf ..).symm.trans (congrArg f (Core.advanceCursors_rest ..))
  have hs : (w.shutWindow k).seq = s.seq := (w.seq_shutWindow k).trans hseq
  have hc : (w.vecPut k i n mask key).core k = (({ (w.core k).advanceCursors i with
      vq := (w.core k).vq ++ [(w.core k).vecEntry i n s.seq mask key] } : Core).advance 8) := by
    unfold State.vecPut
    rw [State.core_tick, State.core_finishWith_same, State.core_shutWindow, hs]
  dsimp only
  refine ⟨⟨?_, fun j hj => State.core_finishWith_other (w.shutWindow k) (fun c => _) hj, fun _ _ => rfl, fun _ _ => rfl⟩, congrArg (· + 1) hs, ?_⟩
  · unfold State.vecPut
    rw [← hs]
    rfl
  rw [hc]
  refine ⟨?_, congrArg (· + 8) ((hadv Core.pc fun _ _ _ => rfl).trans (field Core.pc fun _ _ _ => rfl)),
    (hadv Core.x fun _ _ _ => rfl).trans (field Core.x fun _ _ _ => rfl),
    (hadv Core.p fun _ _ _ => rfl).trans (field Core.p fun _ _ _ => rfl),
    (hadv Core.vp fun _ _ _ => rfl).trans (field Core.vp fun _ _ _ => rfl), fun h => ?_⟩
  · show (w.core k).vq ++ [(w.core k).vecEntry i n s.seq mask key] = _
    rw [field Core.vq fun _ _ _ => rfl, field (fun c => c.vecEntry i n s.seq mask key) fun _ _ _ => rfl]
  · show ((w.core k).advanceCursors i).rh h = _
    rw [Core.rh_advanceCursors, field (fun c => c.rh h) fun _ _ _ => rfl]

end Enter

theorem State.shutWindow_with (k : Nat) (r : State) (m : List Host.Cell) (n : SMap Bool) (c : SMap Core) :
    { r with mem := m, marks := n, cores := c }.shutWindow k = { r.shutWindow k with mem := m, marks := n, cores := c } := by
  unfold State.shutWindow
  by_cases ht : isTileCore k = true
  · rw [if_pos ht, if_pos ht]
    show (match (r.tile (coreTile k)).compact with | some _ => _ | none => _) = _
    cases (r.tile (coreTile k)).compact <;> rfl
  · rw [if_neg ht, if_neg ht]

section VecEnter

variable {s : State} {k : Nat} {i : Instr} {n : Nat} {mask : Wide}

theorem State.vecEnter_trap {cause v : Nat} (hc : s.vecCheck k i = some (cause, v)) :
    s.vecEnter k i n mask = s.trap k cause (BitVec.ofNat 64 v) := by
  unfold State.vecEnter
  rw [hc]

theorem State.vecEnter_direct (hc : s.vecCheck k i = none) (ha : absmaxAddr i (s.core k) = none) (hq : (s.core k).vq.length < 32) :
    s.vecEnter k i n mask = s.vecPut k i n mask 0 := by
  unfold State.vecEnter
  rw [hc]
  dsimp only
  rw [ha]
  exact if_neg (Nat.not_le.2 hq)

theorem State.vecEnter_checked {va : Word} {v : State} {key : Nat} (hc : s.vecCheck k i = none)
    (ha : absmaxAddr i (s.core k) = some va) (hv : s.checkAddr k va 4 .rw = (v, .ok key)) (hs : v.splitHeld k key = false)
    (hq : (v.core k).vq.length < 32) : s.vecEnter k i n mask = (v.closeWindow k key).vecPut k i n mask key := by
  unfold State.vecEnter
  rw [hc]
  dsimp only
  rw [ha]
  dsimp only
  rw [State.withKey_ok hv hs]
  exact if_neg (by rw [State.core_closeWindow]; exact Nat.not_le.2 hq)

end VecEnter

/-! ## The checks of R218 -/

/-- A check that fails fails with a cause that a handler can take. -/
def Handled (o : Option (Nat × Nat)) : Prop := ∀ cause v, o = some (cause, v) → ReachesHandler cause

theorem Handled.or {a b : Option (Nat × Nat)} (ha : Handled a) (hb : Handled b) : Handled (a.or b) := fun cause v h => by
  rcases Option.or_eq_some_iff.1 h with h | ⟨-, h⟩
  · exact ha cause v h
  · exact hb cause v h

theorem Handled.map {α : Type} {cause : Nat} (hc : ReachesHandler cause) (o : Option α) (f : α → Nat) :
    Handled (o.map fun x => (cause, f x)) := fun c v h => by
  obtain ⟨x, -, hx⟩ := Option.map_eq_some_iff.1 h
  exact (Prod.mk.inj hx).1 ▸ hc

theorem State.vecCheck_handled (s : State) (k : Nat) (i : Instr) : Handled (s.vecCheck k i) := by
  have hformat : ReachesHandler causeFormat := by decide
  have hlocal : ReachesHandler causeVecNonlocal := by decide
  unfold State.vecCheck
  refine .or (.map hformat _ _) <| .or (.map hformat _ _) <| .or (.map hlocal _ _) <| .or (.map hlocal _ _) <|
    .or (.map hformat _ _) <| .or (.map hformat _ _) ?_
  split
  · exact .map (by decide) _ _
  · exact fun _ _ h => nomatch h

/-! ## A vector word with no true lane (R98) -/

theorem Core.wvp_withRc (c : Core) (r : List (Nat × Bool)) (p : PReg) (v : Wide) :
    ({ c with rc := r } : Core).wvp p v = { c.wvp p v with rc := r } := by
  unfold Core.wvp
  split <;> rfl

theorem Core.clearLanes_withRc (c : Core) (r : List (Nat × Bool)) (i : Instr) (n : Nat) :
    ({ c with rc := r } : Core).clearLanes i n = { c.clearLanes i n with rc := r } := by
  unfold Core.clearLanes
  split
  · split
    · simp only [Core.wvp_withRc]
      rfl
    · rfl
  · rfl

theorem State.issueVec_suppressed {s : State} {i : Instr} (hcanon : s.Canon) (hrun : (s.core s.me).st = .running)
    (hmask : s.laneMask i = 0) (hready : ∀ w ∈ named i, w ∉ (s.core s.me).pendingWords) (hclean : ∀ w ∈ i.guardWords, s.Sound s.me w)
    (hpair : clears i = true → (s.core s.me).checked = false ∧ ∀ w ∈ i.lateWords, w ∉ (s.core s.me).pendingWords ∧ s.Sound s.me w) :
    ∃ u, s.issueVec i = u.onCore s.me (fun c => (c.clearLanes i (s.laneCount i)).advance 8) ∧ s.Named u := by
  have hguard : ∀ w ∈ i.guardWords ++ [], s.Sound s.me w := fun w hw => hclean w (by simpa using hw)
  have c1 : ((s.fill s.me i.guardWords []).core s.me).Same (s.core s.me) := State.fill_core s s.me _ _ hguard
  have m1 := State.fill_marks s s.me i.guardWords [] hcanon.marks
  have p1 := poisonOf_none c1 fun w hw => (hclean w hw).own
  have hn := any_contains_false hready
  have hmask' : i.guard.lanes (s.core s.me) (lanesOf (i.slots.handles.map fun v => (s.core s.me).rh v.h)) = 0 := hmask
  have hwait : (clears i && ((s.core s.me).checked || i.lateWords.any (s.core s.me).pendingWords.contains)) = false := by
    cases hc : clears i with
    | false => rfl
    | true =>
      obtain ⟨hk, hl⟩ := hpair hc
      rw [Bool.true_and, hk, any_contains_false fun w hw => (hl w hw).1]
      rfl
  unfold named at hn
  refine ⟨if clears i then (s.fill s.me i.guardWords []).fill s.me [] i.lateWords else s.fill s.me i.guardWords [], ?_, ?_⟩
  · unfold State.issueVec
    dsimp only
    rw [if_neg (not_not.2 hrun), hn, p1]
    dsimp only
    rw [if_neg (by decide), if_pos hmask', hwait]
    exact if_neg (by decide)
  · split
    · next hc =>
      refine ⟨(State.SameBut.fill s s.me _ _).trans (State.SameBut.fill _ s.me _ _), ?_, State.fill_marks _ _ _ _ m1⟩
      exact (State.fill_core _ s.me _ _ fun w hw => State.fill_sound s s.me _ _ hcanon.marks hguard
        ((hpair hc).2 w (by simpa using hw)).2).trans c1
    · exact ⟨State.SameBut.fill s s.me _ _, c1, m1⟩

/-! ## The arbiter (R225) -/

theorem bestBy_mem {better : Cand → Cand → Bool} {cs : List Cand} {w : Cand} (h : bestBy better cs = some w) : w ∈ cs := by
  induction cs generalizing w with
  | nil => exact absurd h (by simp [bestBy])
  | cons c cs ih =>
    unfold bestBy at h
    split at h
    · exact Option.some.inj h ▸ List.mem_cons_self
    · next d hd =>
      split at h
      · exact Option.some.inj h ▸ List.mem_cons_of_mem _ (ih hd)
      · exact Option.some.inj h ▸ List.mem_cons_self

theorem byCredit_mem {cs : List Cand} {w : Cand} (h : byCredit cs = some w) : w ∈ cs := (List.mem_filter.1 (bestBy_mem h)).1

/-- A pick is a candidate, its credit aside. -/
theorem pickCand_core {cs : List Cand} {w : Cand} {n : Nat} (h : pickCand cs = some (w, n)) : ∃ c ∈ cs, c.core = w.core := by
  have pair {o : Option Cand} {m : Nat} (e : o.map (fun c => (c, m)) = some (w, n)) : o = some w := by
    obtain ⟨c, hc, he⟩ := Option.map_eq_some_iff.1 e
    exact (Prod.mk.inj he).1 ▸ hc
  unfold pickCand at h
  split at h
  · next c hc => exact ⟨c, byCredit_mem hc, congrArg (fun e : Cand × Nat => e.1.core) (Option.some.inj h)⟩
  · split at h
    · exact ⟨w, bestBy_mem (pair h), rfl⟩
    · obtain ⟨c, hc, rfl⟩ := List.mem_map.1 (byCredit_mem (pair h))
      exact ⟨c, hc, rfl⟩

theorem boundPick_mem {starve : SMap Nat} {cs : List Cand} {w : Cand} (h : boundPick starve cs = some w) : w ∈ cs := by
  unfold boundPick at h
  split at h
  · exact absurd h (by simp)
  · dsimp only at h
    split at h
    · exact (List.mem_filter.1 (bestBy_mem h)).1
    · exact absurd h (by simp)

theorem arbitrate_core {starve : SMap Nat} {cs : List Cand} {w : Cand} {n : Nat} (h : arbitrate starve cs = some (w, n)) :
    ∃ c ∈ cs, c.core = w.core := by
  unfold arbitrate at h
  split at h
  · next c hc => exact ⟨c, boundPick_mem hc, congrArg (fun e : Cand × Nat => e.1.core) (Option.some.inj h)⟩
  · obtain ⟨c, hc, he⟩ := pickCand_core h
    exact ⟨c, (List.mem_filter.1 hc).1, he⟩

/-- A candidate at the vector unit has a quarter to be granted. -/
theorem State.vecCands_mem {s : State} {k : Nat} {c : Cand} (h : c ∈ s.vecCands k) :
    c.core ∈ sharers k ∧ ∃ e, (s.core c.core).vecHead = some e := by
  obtain ⟨j, hj, hc⟩ := List.mem_filterMap.1 h
  obtain ⟨e, he, rfl⟩ := Option.map_eq_some_iff.1 hc
  exact ⟨hj, e, he⟩

/-- The credits alone change at a pick. -/
theorem State.core_charge {α : Type} (s : State) (k : Nat) (weight : Nat → Nat) (w : Cand) (n : Nat) (upd : (Int → Int) → Core → Core)
    (F : Core → α) (hF : ∀ g c, F (upd g c) = F c) (j : Nat) : F ((s.charge k weight w n upd).core j) = F (s.core j) := by
  have hone (u : State) (i : Nat) (g : Int → Int) : F ((u.onCore i (upd g)).core j) = F (u.core j) := by
    by_cases hj : j = i
    · subst hj
      rw [State.core_onCore_same, hF]
    · rw [State.core_onCore_other _ _ hj]
  unfold State.charge
  rw [hone]
  exact foldl_field (fun u => F (u.core j)) _ _ (fun u i => hone u i _) s

theorem State.mem_charge (s : State) (k : Nat) (weight : Nat → Nat) (w : Cand) (n : Nat) (upd : (Int → Int) → Core → Core) :
    (s.charge k weight w n upd).mem = s.mem :=
  foldl_field State.mem (sharers k) (fun u j => u.onCore j (upd (refill n (weight j)))) (fun _ _ => rfl) s

/-- The core to whose head a quarter is granted. -/
def State.granted (s : State) (w : Cand) : State :=
  s.onCore w.core fun v => { v with vq := match v.vecHead with
    | some h => v.vq.map fun e => if e.age = h.age then { e with granted := e.granted + 1 } else e
    | none => v.vq }

theorem exec_quarterGrant {s : State} {c : CoreId} {w : Cand} {n : Nat}
    (h : arbitrate (if isTileCore (coreKey c) then (s.tile (coreTile (coreKey c))).vstarve else []) (s.vecCands (coreKey c)) = some (w, n)) :
    ∃ t, exec (.vectorQuarterGrant c) s = .next t ∧
      let u := (s.charge (coreKey c) s.weight w n fun f v => { v with vcredit := f v.vcredit }).granted w
      t.mem = u.mem ∧ t.cores = u.cores := by
  refine ⟨_, rfl, ?_⟩
  dsimp only
  rw [h]
  dsimp only
  split <;> exact ⟨rfl, rfl⟩

/-! ## Completion (R220) -/

section Complete

variable {s : State} {c : CoreId} {e : VEntry} {es : List VEntry} (hq : (s.core (coreKey c)).vq = e :: es)
include hq

theorem exec_vectorComplete_waits (hg : e.granted < 4) : exec (.vectorComplete c) s = .next s := by
  refine congrArg Host.Outcome.next ?_
  dsimp only
  rw [hq]
  exact if_pos hg

variable (hg : e.granted = 4) (hc : s.vecClosed (coreKey c) e = none) (hm : s.vecMarked (storeBase (coreKey c)) e = none)
include hg hc hm

theorem exec_vectorComplete_retires (hr : e.reduces = false) : exec (.vectorComplete c) s =
    .next (((s.tally (coreKey c) 0 e.active.length).vecEffect (coreKey c) e).onCore (coreKey c) fun c =>
      { c with vq := c.vq.filter fun x => x.age != e.age }) := by
  refine congrArg Host.Outcome.next ?_
  dsimp only
  rw [hq]
  dsimp only
  rw [if_neg (by omega), if_pos hg, hc, hm]
  dsimp only
  rw [hr]
  exact if_neg (by decide)

theorem exec_vectorComplete_reduces (hr : e.reduces = true) : exec (.vectorComplete c) s =
    .next (((s.tally (coreKey c) 0 e.active.length).vecEffect (coreKey c) e).onCore (coreKey c) fun d =>
      { d with vq := d.vq.map fun x => if x.age = e.age then
          { x with granted := 5, amax := BitVec.ofNat 32 (maxBits (e.active.map fun i =>
            (s.tally (coreKey c) 0 e.active.length).slotVal (storeBase (coreKey c)) e.i.slots.a e.a i)) }
        else x }) := by
  refine congrArg Host.Outcome.next ?_
  dsimp only
  rw [hq]
  dsimp only
  rw [if_neg (by omega), if_pos hg, hc, hm]
  dsimp only
  rw [hr]
  exact if_pos rfl

end Complete

/-- The values of a lane do not hang on what a kernel counts. -/
theorem State.slotVal_tally (s : State) (k d o store : Nat) (slot : Option VOp) (v : Wide) (lane : Nat) :
    (s.tally k d o).slotVal store slot v lane = s.slotVal store slot v lane := by
  unfold State.tally
  split <;> rfl

end Machine

/-! ## The statements -/

/-- Settles O42: the entry is made on a state that differs from the first in the register cache, its home and the TLBs alone. -/
theorem vectorWordsEnter : Obligations.VectorWordsEnter := by
  unfold Obligations.VectorWordsEnter
  intro s i hv hr
  have hn := State.readyLanes_named hr
  have hexec : exec i s = .next ((s.readyLanes i).vecEnter s.me i (s.laneCount i) (s.laneMask i)) :=
    (exec_eq_issueVec hv s).trans (congrArg Host.Outcome.next (State.issueVec_runs hr))
  intro k u hcheck hq entered
  have hu : u = s.readyLanes i := rfl
  rw [← hu] at hn hexec
  clear_value u
  have field {α : Type} (f : Core → α) (hf : ∀ (c : Core) r, f { c with rc := r } = f c) : f (u.core k) = f (s.core k) :=
    hn.core.field f hf
  have haddr : absmaxAddr i (u.core k) = absmaxAddr i (s.core k) :=
    field (absmaxAddr i) fun c r => by unfold absmaxAddr; split <;> rfl
  refine ⟨fun ha => ?_, fun va v key ha hkey hs => ?_⟩
  · rw [State.vecEnter_direct hcheck (haddr.trans ha) (by rw [field Core.vq fun _ _ => rfl]; exact hq)] at hexec
    obtain ⟨hsame, hrest⟩ := State.vecPut_enters (s := s) (w := u) (k := k) (i := i)
      (fun f hf => field f fun c r => hf c r c.tlb) (congrArg State.seq hn.same.rest :)
      (s.laneCount i) (s.laneMask i) 0
    have hshut : (s.shutWindow k).Alike (u.shutWindow k) k :=
      State.Alike.map ⟨hn.same, hn.core⟩ (fun r => r.shutWindow k) fun r m n c => State.shutWindow_with k r m n c
    exact ⟨_, hexec, hshut.same.trans hsame, hrest⟩
  · have htlb : u.SameButTlbs v := by
      have := u.checkAddr_sameButTlbs k va 4 .rw
      rwa [hkey] at this
    have hv {α : Type} (f : Core → α) (hf : ∀ (c : Core) r t, f { c with rc := r, tlb := t } = f c) : f (v.core k) = f (s.core k) :=
      (htlb.coreField k f fun c t => hf c c.rc t).trans (field f fun c r => hf c r c.tlb)
    rw [State.vecEnter_checked hcheck (haddr.trans ha) hkey hs (by rw [hv Core.vq fun _ _ _ => rfl]; exact hq)] at hexec
    refine ⟨_, hexec, State.vecPut_enters (s := s) (w := v.closeWindow k key) (k := k) (i := i) (fun f hf => ?_) ?_
      (s.laneCount i) (s.laneMask i) key⟩
    · rw [State.core_closeWindow]
      exact hv f hf
    · rw [State.seq_closeWindow]
      exact (congrArg State.seq htlb.rest).trans (congrArg State.seq hn.same.rest :)

/-- Settles O43: the first failing check traps with a cause that the handler takes. -/
theorem vectorChecksTrap : Obligations.VectorChecksTrap := by
  unfold Obligations.VectorChecksTrap
  intro s i cause v hv hr k hcheck hh
  refine ⟨_, (exec_eq_issueVec hv s).trans (congrArg Host.Outcome.next ((State.issueVec_runs hr).trans (State.vecEnter_trap hcheck))),
    ?_⟩
  exact (State.readyLanes_named hr).trapsTo hr.running (State.vecCheck_handled _ _ _ _ _ hcheck) hh

/-- Settles O44: issue comes down to the change of the core, on the state in which the guard and, under `clr`, the pair are named. -/
theorem vectorWordsSuppressed : Obligations.VectorWordsSuppressed := by
  unfold Obligations.VectorWordsSuppressed
  intro s i hv hc hr hm hready hclean hpair
  obtain ⟨u, hu, hn⟩ := State.issueVec_suppressed hc hr hm hready hclean hpair
  refine ⟨_, (exec_eq_issueVec hv s).trans (congrArg Host.Outcome.next hu), hn.did _ fun c r => ?_⟩
  rw [Core.clearLanes_withRc]
  rfl

/-- Settles O45: the arbiter picks a candidate, a pick changes credits alone, and the oldest word's effect is that of `vecEffect`. -/
theorem quartersAndCompletion : Obligations.QuartersAndCompletion := by
  unfold Obligations.QuartersAndCompletion
  intro s c w n e es k
  refine ⟨fun h => ?_, exec_vectorComplete_waits, fun hq hg hc hm => ⟨fun hr => ?_, fun hr => ?_⟩⟩
  · obtain ⟨t, ht, hmem, hcores⟩ := exec_quarterGrant h
    obtain ⟨d, hd, hdw⟩ := arbitrate_core h
    obtain ⟨hsh, e, he⟩ := State.vecCands_mem hd
    rw [hdw] at hsh he
    have hcore (j : Nat) : t.core j = ((s.charge k s.weight w n fun f v => { v with vcredit := f v.vcredit }).granted w).core j := by
      unfold State.core
      rw [hcores]
    have hcharge {α : Type} (F : Core → α) (hF : ∀ (c : Core) v, F { c with vcredit := v } = F c) (j : Nat) :
        F ((s.charge k s.weight w n fun f v => { v with vcredit := f v.vcredit }).core j) = F (s.core j) :=
      s.core_charge k s.weight w n _ F (fun _ _ => hF _ _) j
    have hother (j : Nat) (hj : j ≠ w.core) : t.core j = (s.charge k s.weight w n fun f v => { v with vcredit := f v.vcredit }).core j :=
      (hcore j).trans (State.core_onCore_other _ _ hj)
    refine ⟨t, ht, hmem.trans (s.mem_charge k s.weight w n fun f v => { v with vcredit := f v.vcredit }), hsh, fun j => ?_, fun j hj => ?_, e, he, ?_⟩
    · have hgrant {α : Type} (F : Core → α) (hv : ∀ (c : Core) v, F { c with vcredit := v } = F c)
          (hF : ∀ (c : Core) q, F { c with vq := q } = F c) : F (t.core j) = F (s.core j) := by
        rcases eq_or_ne j w.core with rfl | hj
        · rw [hcore, State.granted, State.core_onCore_same, hF, hcharge F hv]
        · rw [hother j hj, hcharge F hv]
      exact ⟨hgrant Core.x (fun _ _ => rfl) fun _ _ => rfl, hgrant Core.h (fun _ _ => rfl) fun _ _ => rfl,
        hgrant Core.pc (fun _ _ => rfl) fun _ _ => rfl⟩
    · rw [hother j hj]
      exact hcharge Core.vq (fun _ _ => rfl) j
    · rw [hcore, State.granted, State.core_onCore_same, hcharge Core.vecHead (fun _ _ => rfl), hcharge Core.vq fun _ _ => rfl, he]
  · refine ⟨_, exec_vectorComplete_retires hq hg hc hm hr, rfl, rfl, ?_⟩
    rw [State.core_onCore_same]
    exact ⟨fun x hx => by simpa using (List.mem_filter.1 hx).2, rfl, rfl, rfl⟩
  · refine ⟨_, exec_vectorComplete_reduces hq hg hc hm hr, rfl, ?_⟩
    rw [State.core_onCore_same]
    intro x hx hage
    obtain ⟨y, hy, rfl⟩ := List.mem_map.1 hx
    by_cases hy' : y.age = e.age
    · rw [if_pos hy']
      simp only [State.slotVal_tally]
      exact ⟨trivial, rfl⟩
    · rw [if_neg hy'] at hage
      exact absurd hage hy'

end Sys2Proof

/-! SUPPORT. Control registers, waiting writes of `tsplit` and `accsplit`, `spawn`, `join`, the host's append and the start of a
thread, and the proofs of O47, O49, O50, O51 and O52. -/

namespace Sys2Proof
open Machine

namespace Machine

/-! ## `tstat` and a `wfi` in a gang -/

/-- A word that writes a register and goes on leaves its value there. -/
theorem rx_of_did {s t : State} {rd : XReg} {v : Word} (h : s.Did t fun c => (c.wx rd v).advance 8) (h0 : rd ≠ 0) :
    (t.core s.me).rx rd = v := by
  have e : (t.core s.me).rx rd = ((s.core s.me).wx rd v).rx rd := h.core.field (fun c => c.rx rd) fun _ _ => rfl
  rw [e, Core.rx_wx_same, if_neg h0]

/-- `tstat` at the state whose context table stands in the register home shows the fault that naming its operand brings up. -/
theorem exec_tstat_tableInHome : ∃ t, exec (.csrr namingGuard 5 0x104) tableInHome = .next t ∧ (t.core 0).rx 5 = 2 :=
  ⟨_, rfl, by decide +kernel⟩

/-- Core 0 leads a gang and waits in a `wfi` whose one clock has passed. -/
def gangInWfi : State :=
  { State.reset with
    time := 1
    cores := [(0, { Core.idle with st := .running, gang := true, wfiLimit := some 1, waitFrom := some 0 })] }

/-- The word that it completes is one of the gang's stream. -/
theorem exec_wfiTimeout_gangInWfi : ∃ t, exec (.wfiTimeout (.tile 0)) gangInWfi = .next t ∧ (t.core 0).gangPos = 1 :=
  ⟨_, rfl, by decide +kernel⟩

/-! ## The tag state of a thread that starts on a memory that is not canonical -/

/-- A memory list with two entries for the first byte of core 0's tag state: storing 0 there unlists the first alone. -/
def twiceListed : State := { State.reset with mem := [(tagKey 0, 1), (tagKey 0, 2)] }

/-- What stands at a key once its first entry is unlisted. -/
def SMap.second {α : Type} (m : SMap α) (k : Nat) : Option α := (SMap.del m k).find k

theorem SMap.second_put {α : Type} (m : SMap α) {j k : Nat} (v : α) (h : j ≠ k) : SMap.second (SMap.put m j v) k = SMap.second m k := by
  have hk : ¬ k = j := fun e => h e.symm
  unfold SMap.second
  induction m with
  | nil => simp [SMap.put, SMap.del, SMap.find, hk]
  | cons e m ih =>
    obtain ⟨i, w⟩ := e
    unfold SMap.put
    split
    · simp [SMap.del, SMap.find, hk]
    · split
      · next hji =>
        subst hji
        simp [SMap.del, SMap.find, hk]
      · by_cases hi : k = i
        · subst hi
          simp [SMap.del, SMap.find_put_other m v hk]
        · simp [SMap.del, SMap.find, hi, ih]

theorem SMap.second_del {α : Type} (m : SMap α) {j k : Nat} (h : j ≠ k) : SMap.second (SMap.del m j) k = SMap.second m k := by
  unfold SMap.second
  induction m with
  | nil => rfl
  | cons e m ih =>
    obtain ⟨i, w⟩ := e
    by_cases hj : j = i
    · subst hj
      simp [SMap.del, SMap.find, h.symm]
    · by_cases hk : k = i
      · subst hk
        simp [SMap.del, h, SMap.find_del_other m h.symm]
      · simp [SMap.del, SMap.find, hj, hk, ih]

theorem second_memWrite (bs : List Byte) (m : List Host.Cell) {a k : Nat} (h : k < a ∨ a + bs.length ≤ k) :
    SMap.second (memWrite m a bs) k = SMap.second m k := by
  induction bs generalizing m a with
  | nil => rfl
  | cons b bs ih =>
    rw [List.length_cons] at h
    rw [memWrite, ih _ (by omega)]
    unfold memPut
    split
    · exact SMap.second_del m (by omega)
    · exact SMap.second_put m _ (by omega)

theorem second_writeHome (s : State) (k i a : Nat) (h : OutsideHome k a) : SMap.second (s.writeHome k i).mem a = SMap.second s.mem a := by
  have hstore : i < 128 → SMap.second (s.storeNat (homeKey k + 8 * i) 8 ((s.core k).homeWord i).toNat).mem a = SMap.second s.mem a := by
    intro hi
    unfold State.storeNat
    rw [State.mem_store]
    refine second_memWrite _ _ ?_
    rw [toBytes_length]
    unfold OutsideHome at h
    omega
  unfold State.writeHome
  split
  · next hi =>
    dsimp only
    split <;> exact hstore hi
  · rfl

/-- The home that a thread starts with leaves what stands outside it. -/
theorem second_initHome (s : State) (k a : Nat) (h : OutsideHome k a) : SMap.second (s.initHome k).mem a = SMap.second s.mem a := by
  have key (l : List Nat) (t : State) : SMap.second (l.foldl (fun t i => t.writeHome k i) t).mem a = SMap.second t.mem a := by
    induction l generalizing t with
    | nil => rfl
    | cons i l ih =>
      rw [List.foldl_cons, ih, second_writeHome t k i a h]
  exact key _ _

/-- The zero that the start of a thread writes there unlists the first entry. -/
theorem startThread_twiceListed (c : Core) : memGet (twiceListed.startThread 0 c).mem (tagKey 0) = 2 := by
  have hout : OutsideHome 0 (tagKey 0) := .inr (by decide)
  have hzero : memDefault (tagKey 0) = 0 := by decide
  unfold State.startThread State.tagClear
  dsimp only
  rw [State.mem_store]
  rw [show List.replicate 0x300 (0 : Byte) = 0 :: List.replicate 0x2FF 0 from List.replicate_succ, memWrite, memGet_memWrite_other _ _ (.inl (Nat.lt_succ_self _)), memPut, if_pos hzero.symm]
  unfold memGet SMap.get
  show (SMap.second (State.initHome _ 0).mem (tagKey 0)).getD _ = 2
  rw [second_initHome _ 0 _ hout]
  rfl

/-! ## `spawn` and `join` (R265, R267) -/

section Spawn

variable {s : State} {g : Guard} {lq : BitVec 4} {ra rb : XReg}

theorem exec_spawn_snapped {r : BitVec 512} (hr : s.Runs (.spawn g lq ra)) (hs : (s.core s.me).snap = some r) :
    exec (.spawn g lq ra) s = .next ((s.ready (.spawn g lq ra)).spawnStep s.me lq.toNat r) := by
  have hsnap : ((s.ready (.spawn g lq ra)).core s.me).snap = some r :=
    ((State.ready_alike hr).core.field Core.snap fun _ _ => rfl).trans hs
  refine congrArg Host.Outcome.next ((State.issue_runs hr _).trans ?_)
  dsimp only
  rw [hsnap]

theorem exec_spawn_reads (hr : s.Runs (.spawn g lq ra)) (hs : (s.core s.me).snap = none) :
    exec (.spawn g lq ra) s = .next (if ((s.core s.me).rx ra).toNat % 64 ≠ 0 then
        (s.ready (.spawn g lq ra)).trap s.me causeAlign ((s.core s.me).rx ra)
      else (s.ready (.spawn g lq ra)).withBytes s.me ((s.core s.me).rx ra).toNat 64 fun bs u =>
        if u.mayLaunch s.me lq.toNat (BitVec.ofNat 512 (leNat bs)) then u.spawnStep s.me lq.toNat (BitVec.ofNat 512 (leNat bs))
        else u.trap s.me causeFormat ((s.core s.me).rx ra)) := by
  have hsnap : ((s.ready (.spawn g lq ra)).core s.me).snap = none :=
    ((State.ready_alike hr).core.field Core.snap fun _ _ => rfl).trans hs
  refine congrArg Host.Outcome.next ((State.issue_runs hr _).trans ?_)
  dsimp only
  rw [hsnap, (State.ready_alike hr).core.field (fun c => c.rx ra) fun _ _ => rfl]
  simp only [bne_iff_ne, ne_eq]

theorem State.spawnStep_appends {x : State} {k q : Nat} {r : BitVec 512} (hrel : x.released k x.seq .pod = true)
    (hroom : qFull (x.queueDesc (corePkg k) (x.core k).job.part.toNat q) = false) :
    x.spawnStep k q r = (x.appendRecord (corePkg k) (x.core k).job.part.toNat q (x.core k).job (x.clk k) r).onCore k
      fun c => c.advance 8 := by
  unfold State.spawnStep
  dsimp only
  rw [hrel, hroom]
  exact if_neg (by decide)

theorem State.withBytes_ok {x w : State} {k va n : Nat} {body : List Byte → State → State} {bs : List Byte}
    (h : x.readMem k va n = (w, .ok (bs, false))) : x.withBytes k va n body = body bs w := by
  unfold State.withBytes
  rw [h]
  exact if_neg (by decide)

theorem exec_join_runs (hr : s.Runs (.join g ra rb)) :
    exec (.join g ra rb) s = .next ((s.ready (.join g ra rb)).withKey s.me ((s.core s.me).rx ra) 8 .rd fun _ u =>
      u.withBytes s.me ((s.core s.me).rx ra).toNat 8 fun bs w =>
        if (w.core s.me).rx rb ≤ BitVec.ofNat 64 (leNat bs) || (BitVec.ofNat 64 (leNat bs) : Word).getLsbD 63 then w.finish s.me
        else w.await s.me) :=
  exec_runs_reading (f := fun c => c.rx ra)
    (b := fun a t => t.withKey s.me a 8 .rd fun _ u => u.withBytes s.me a.toNat 8 fun bs w =>
        if (w.core s.me).rx rb ≤ BitVec.ofNat 64 (leNat bs) || (BitVec.ofNat 64 (leNat bs) : Word).getLsbD 63 then w.finish s.me
        else w.await s.me)
    hr rfl (fun _ => rfl) fun _ _ => rfl

end Spawn

/-! ## The host's append (R263) -/

section Posted

variable (s : State) (l : List Posted)

theorem State.withMemory_posted {x : State} (h : s.withMemory x = x) :
    State.withMemory { s with posted := l } x = { x with posted := l } :=
  (congrArg (fun w : State => { w with posted := l }) h :)

theorem State.store_posted (key : Nat) (bs : List Byte) : { s with posted := l }.store key bs = { s.store key bs with posted := l } := by
  have h := State.store_withMemory { s with posted := l } s key bs
  rw [State.withMemory_posted s l (s.store_withMemory s key bs).symm] at h
  exact h

theorem State.settleRange_posted (key n : Nat) :
    { s with posted := l }.settleRange key n = { s.settleRange key n with posted := l } := by
  have h := State.settleRange_withMemory { s with posted := l } s key n
  rw [State.withMemory_posted s l (s.settleRange_rest key n)] at h
  exact h

theorem State.takeHome_posted (key n : Nat) : { s with posted := l }.takeHome key n = { s.takeHome key n with posted := l } := by
  unfold State.takeHome
  split
  · refine List.foldl_hom (fun t : State => { t with posted := l }) fun t w => ?_
    dsimp only
    rw [show State.core { t with posted := l } = t.core from rfl]
    split <;> rfl
  · rfl

theorem State.fixStore_posted (key : Nat) (bs : List Byte) :
    { s with posted := l }.fixStore key bs = { s.fixStore key bs with posted := l } := by
  unfold State.fixStore
  split
  · rw [State.store_posted, State.takeHome_posted]
  · exact State.store_posted s l key bs

theorem State.homeWrite_posted (pa : Nat) (bs : List Byte) :
    ({ s with posted := l }.homeWrite none pa bs).1 = { (s.homeWrite none pa bs).1 with posted := l } := by
  unfold State.homeWrite
  dsimp only
  rw [State.settleRange_posted]
  generalize s.settleRange pa bs.length = u
  exact State.store_posted (u.onSector (pa / 1024) fun e => { e with
    wts := max (u.time / 64) ((u.sector (pa / 1024)).rts + 1)
    rts := max (u.time / 64) ((u.sector (pa / 1024)).rts + 1) }) l pa bs

/-- What an engine writes does not hang on what the host has posted. -/
theorem State.engineWrite_posted (key : Nat) (bs : List Byte) :
    { s with posted := l }.engineWrite key bs false = { s.engineWrite key bs false with posted := l } := by
  have hkey : State.realKey { s with posted := l } key = s.realKey key := rfl
  unfold State.engineWrite
  rw [hkey]
  dsimp only
  split
  · rw [State.homeWrite_posted]
    rfl
  · exact State.fixStore_posted s l _ bs

theorem State.hostRoute_posted (pkg fn off n : Nat) (write : Bool) :
    { s with posted := l }.hostRoute pkg fn off n write = s.hostRoute pkg fn off n write := by
  have hroute : State.route { s with posted := l } = s.route :=
    funext fun m => funext fun key => funext fun w => State.route_congr (s := s) (u := { s with posted := l }) rfl rfl rfl rfl rfl m key w
  unfold State.hostRoute
  rw [hroute]
  rfl

end Posted

/-- A piece that crosses no region. -/
theorem cut_region {a n : Nat} (h0 : 0 < n) (h : a % 64 + n ≤ 64) : cut a n = [(0, n)] := by
  have hcount : (a + n + 63) / 64 - a / 64 = 1 := by omega
  unfold cut
  rw [if_neg (by omega), hcount]
  simp only [List.range_one, List.map_cons, List.map_nil, Nat.add_zero, List.cons.injEq, and_true, Prod.mk.injEq]
  omega

/-- The first write that the host has posted to a package, served within one region: it is performed. -/
theorem State.postStep_write (s : State) {pkg fn key : Nat} {bs : List Byte} (l : List Posted) (hr : s.hostRoute pkg fn (key % 2 ^ 47) bs.length true = .ok)
    (hp : paPkg key = pkg) (h0 : 0 < bs.length) (hreg : key % 64 + bs.length ≤ 64) :
    { s with posted := { pkg := pkg, fn := fn, req := .write key bs, sent := false } :: l }.postStep pkg =
      { s.engineWrite key bs false with posted := l } := by
  unfold State.postStep
  simp only [List.find?_cons, beq_self_eq_true]
  unfold State.postWrite State.postRoute
  rw [if_pos hp, State.hostRoute_posted, hr]
  simp only [State.unpost, List.erase_cons_head, State.postBytes, cut_region h0 hreg, List.foldl_cons, List.foldl_nil, Nat.add_zero,
    List.drop_zero, List.take_length, State.engineWrite_posted]
  exact if_neg (by decide)

theorem State.posted_engineWrite (s : State) (key : Nat) (bs : List Byte) : (s.engineWrite key bs false).posted = s.posted :=
  (congrArg State.posted (s.engineWrite_posted s.posted key bs) :)

/-- A package's station that has nothing of its host's rests. -/
theorem State.postOn_rest {s : State} (h : s.posted = []) (pkg n : Nat) : State.postOn pkg n s = s := by
  induction n with
  | zero => rfl
  | succ n ih =>
    have hstep : s.postStep pkg = s := by
      unfold State.postStep
      rw [h]
      rfl
    unfold State.postOn
    rw [hstep, ih]

/-- Two writes of the host, the second where the first has been performed. -/
theorem State.postAll_two {s : State} (h : s.posted = []) {pkg fn key key' : Nat} {bs bs' : List Byte}
    (hr : s.hostRoute pkg fn (key % 2 ^ 47) bs.length true = .ok) (hp : paPkg key = pkg) (h0 : 0 < bs.length)
    (hreg : key % 64 + bs.length ≤ 64)
    (hr' : (s.engineWrite key bs false).hostRoute pkg fn (key' % 2 ^ 47) bs'.length true = .ok) (hp' : paPkg key' = pkg)
    (h0' : 0 < bs'.length) (hreg' : key' % 64 + bs'.length ≤ 64) :
    (s.post pkg fn [.write key bs, .write key' bs']).postAll pkg = (s.engineWrite key bs false).engineWrite key' bs' false := by
  have hx : (s.engineWrite key bs false).posted = [] := (s.posted_engineWrite key bs).trans h
  have hy : ((s.engineWrite key bs false).engineWrite key' bs' false).posted = [] := (State.posted_engineWrite _ key' bs').trans hx
  have hpost : s.post pkg fn [.write key bs, .write key' bs'] = { s with posted :=
      [{ pkg := pkg, fn := fn, req := .write key bs, sent := false }, { pkg := pkg, fn := fn, req := .write key' bs', sent := false }] } := by
    unfold State.post
    rw [h]
    rfl
  rw [hpost]
  show State.postOn pkg 2 ((State.postStep _ pkg).postStep pkg) = _
  rw [State.postStep_write s _ hr hp h0 hreg, State.postStep_write _ _ hr' hp' h0' hreg', ← hy]
  exact State.postOn_rest hy pkg 2

/-! ## The waiting writes of `tsplit` and `accsplit` (R91, R150, R203) -/

theorem State.bare_stepGang (s : State) (k j : Nat) : ((s.stepGang k).core j).bare = (s.core j).bare := by
  unfold State.stepGang
  dsimp only
  split_ifs
  · rfl
  · exact s.bare_onCore k j fun _ => rfl
  · exact s.bare_onCore k j fun _ => rfl
  · exact s.bare_leaveGang k j

/-- What hangs on no core stays when a gang counts a word or breaks up. -/
theorem State.stepGang_field {β : Type} (F : State → β) (hF : ∀ (t : State) j f, F (t.onCore j f) = F t) (s : State) (k : Nat) :
    F (s.stepGang k) = F s := by
  unfold State.stepGang State.leaveGang
  dsimp only
  split_ifs
  · rfl
  · exact hF ..
  · exact hF ..
  · exact hF ..
  · rfl

/-- What a word that completes late leaves: its register written, the pc moved on, the tiles and what stands outside its core's home as
before. -/
structure State.CompletesLate (w v : State) (k : Nat) (rd : XReg) (old : Word) : Prop where
  tiles : v.tiles = w.tiles
  pc : (v.core k).pc = (w.core k).pc + 8
  rx : ∀ x, (v.core k).rx x = if x = rd ∧ x ≠ 0 then old else (w.core k).rx x
  mem : ∀ a, OutsideHome k a → memGet v.mem a = memGet w.mem a

theorem State.completesLate {w : State} {k : Nat} (hrun : (w.core k).st = .running) (rd : XReg) (old : Word) :
    w.CompletesLate ((w.lateWrite k (xWords rd) fun c => c.wx rd old).complete k) k rd old := by
  have hlate : w.lateWrite k (xWords rd) (fun c => c.wx rd old) = (w.fill k [] (xWords rd)).onCore k fun c => c.wx rd old :=
    if_pos (.inl hrun)
  have hfill := w.still_fill k [] (xWords rd) k
  have hsame : w.SameBut ((w.fill k [] (xWords rd)).onCore k fun c => c.wx rd old) k :=
    (State.SameBut.fill w k [] (xWords rd)).trans (.onCore _ k _)
  rw [hlate]
  generalize hu : w.fill k [] (xWords rd) = u at hfill hsame
  have hstep {β : Type} (F : State → β) (hF : ∀ (t : State) j f, F (t.onCore j f) = F t) :
      F ((u.onCore k fun c => c.wx rd old).complete k) = F (u.onCore k fun c => c.wx rd old) :=
    (State.stepGang_field F hF _ k).trans (hF _ k _)
  have hcore : (((u.onCore k fun c => c.wx rd old).complete k).core k).bare = (((u.core k).wx rd old).advance 8).bare := by
    unfold State.complete
    rw [State.bare_stepGang, State.core_finish_same, State.core_onCore_same]
  refine ⟨?_, ?_, fun x => ?_, fun a ha => ?_⟩
  · exact (hstep State.tiles fun _ _ _ => rfl).trans (congrArg State.tiles hsame.rest :)
  · rw [Core.field_of_bare hcore Core.pc]
    show ((u.core k).wx rd old).pc + 8 = _
    rw [Core.wx_pc, Core.field_of_still hfill Core.pc]
  · rw [Core.field_of_bare hcore fun c => c.rx x]
    show ((u.core k).wx rd old).rx x = _
    rw [Core.rx_wx, Core.field_of_still hfill fun c => c.rx x]
  · exact (congrArg (memGet · a) (hstep State.mem fun _ _ _ => rfl)).trans (hsame.mem a ha)

theorem State.cores_applySplit (s : State) (t : Nat) (v : Word) : (s.applySplit t v).cores = s.cores := by
  unfold State.applySplit
  show (List.foldl _ s _).cores = _
  exact foldl_field State.cores _ _ (fun u (b : Block) => (congrArg State.cores (u.dropBlock_withMemory u t b.pa) :)) s

theorem State.accsplit_makeSplit (s : State) (t : Nat) (v : Word) : ((s.makeSplit t true v).tile t).accsplit = v :=
  congrArg Tile.accsplit (s.tile_onTile_same t fun w => { w with accsplit := v })

theorem State.tsplit_makeSplit (s : State) (t : Nat) (v : Word) : ((s.makeSplit t false v).tile t).tsplit = v :=
  congrArg Tile.tsplit (State.tile_onTile_same _ t fun w => { w with tsplit := v })

theorem memGet_zeroRange (s : State) (key n a : Nat) (h : key ≤ a) (h' : a < key + n) :
    memGet (s.zeroRange key n).mem a = memDefault a := by
  have hnone (m : List Host.Cell) :
      SMap.find (m.filter fun e => !(decide (key ≤ e.1) && decide (e.1 < key + n))) a = none := by
    induction m with
    | nil => rfl
    | cons e m ih =>
      rw [List.filter_cons]
      split
      · next he =>
        have hne : a ≠ e.1 := by
          rintro rfl
          simp [h, h'] at he
        rw [SMap.find, if_neg hne, ih]
      · exact ih
  unfold memGet SMap.get State.zeroRange
  rw [hnone]
  rfl

/-- What a new split moves between scratch and cache reads as nothing. -/
theorem State.memGet_applySplit (s : State) (t : Nat) (v : Word) {a : Nat}
    (h : min (s.tile t).scratchEnd (splitEnd (fld v 0 5).toNat) ≤ a) (h' : a < max (s.tile t).scratchEnd (splitEnd (fld v 0 5).toNat)) :
    memGet (s.applySplit t v).mem (tileKey t a) = memDefault (tileKey t a) :=
  memGet_zeroRange _ _ _ _ (Nat.add_le_add_left h _) (by unfold tileKey; omega)

/-- The bytes of a store between its scratch and its cache, as a split draws the line: outside every core's home. -/
theorem outsideHome_tileKey {k u a : Nat} (hu : u < 2 ^ 20) (h : 0x3000 ≤ a) (h' : a < 2 ^ 20) : OutsideHome k (tileKey u a) := by
  unfold OutsideHome homeKey storeBase coreSlot tileKey churnBase tileBase
  split <;> omega

theorem memDefault_tileKey {u a : Nat} (hu : u < 2 ^ 20) (h : 0x3000 ≤ a) (h' : a < 2 ^ 20) : memDefault (tileKey u a) = 0 := by
  have h1 : ¬ tileKey u a < tileBase := by unfold tileKey; omega
  have h2 : tileKey u a < churnBase := by unfold tileKey churnBase tileBase; omega
  have h3 : ¬ (tileKey u a - tileBase) % 2 ^ 20 < 0x1000 := by unfold tileKey tileBase; omega
  unfold memDefault homeP0
  rw [if_neg h1, if_pos h2, decide_eq_false h3, Bool.and_false]
  rfl

section Grant

variable {s : State} {t : TileId} {r : SplitReq} (hreq : (s.tile (tileNum t)).req = some r)
  (hrun : (s.core r.core).st = .running) (hready : s.splitReady (tileNum t) r.acc = true)
include hreq hrun hready

/-- A waiting write that takes effect. -/
theorem State.grantSplit_made {v old : Word} (hold : old = if r.acc then (s.tile (tileNum t)).accsplit else (s.tile (tileNum t)).tsplit)
    (hv : v = r.fn.value (if r.acc then 0x302 else 0x301) old r.ra)
    (hcompact : r.acc = true ∨ (s.tile (tileNum t)).compact = none) (hallowed : r.acc = true ∨ s.splitAllowed (tileNum t) v = true) :
    s.grantSplit (tileNum t) r.acc = (((s.makeSplit (tileNum t) r.acc v).onTile (tileNum t) fun w =>
      { w with req := none }).lateWrite r.core (xWords (BitVec.ofNat 5 r.rd)) fun c =>
        c.wx (BitVec.ofNat 5 r.rd) old).complete r.core := by
  have hgo : r.acc = r.acc ∧ (s.core r.core).st = .running ∧ s.splitReady (tileNum t) r.acc = true ∧
      (r.acc = true ∨ (s.tile (tileNum t)).compact.isNone = true) :=
    ⟨rfl, hrun, hready, hcompact.imp_right Option.isNone_iff_eq_none.2⟩
  unfold State.grantSplit
  rw [hreq]
  dsimp only
  rw [← hold, ← hv, if_pos hgo, if_pos hallowed]

/-- A value that `tsplit` may not take is not written. -/
theorem State.grantSplit_refused {v : Word} (hacc : r.acc = false) (hv : v = r.fn.value 0x301 (s.tile (tileNum t)).tsplit r.ra)
    (hcompact : (s.tile (tileNum t)).compact = none) (hallowed : s.splitAllowed (tileNum t) v = false) :
    s.grantSplit (tileNum t) false = s.onTile (tileNum t) fun w => { w with req := none } := by
  rw [hacc] at hready
  have hgo : r.acc = false ∧ (s.core r.core).st = .running ∧ s.splitReady (tileNum t) false = true ∧
      (false = true ∨ (s.tile (tileNum t)).compact.isNone = true) :=
    ⟨hacc, hrun, hready, .inr (Option.isNone_iff_eq_none.2 hcompact)⟩
  unfold State.grantSplit
  rw [hreq]
  dsimp only
  rw [if_pos hgo, if_neg]
  simpa [hv] using hallowed

end Grant

end Machine

/-! ## The statements -/

/-- Refutes O47 at a read of `tstat`: its pend bit is that of the fault record, which the register that naming an operand writes back
moves where the context table stands in the home (`tableInHome`). -/
theorem not_controlRegisterWords : ¬ Obligations.ControlRegisterWords := by
  unfold Obligations.ControlRegisterWords
  intro h
  obtain ⟨hread, -⟩ := h tableInHome namingGuard 5 0x104 ⟨0, 0, 0⟩
  obtain ⟨t, ht, hdid⟩ := hread (tableInHome_runs rfl rfl rfl)
  obtain ⟨u, hu, hrx⟩ := exec_tstat_tableInHome
  obtain rfl : t = u := Host.Outcome.next.inj (ht.symm.trans hu)
  have hcsr : tableInHome.csr 0 0x104 = 0 := by decide +kernel
  exact absurd (hrx.symm.trans ((rx_of_did hdid (by decide)).trans hcsr)) (by decide)

/-- Refutes O50 at a `wfi` whose clocks have passed in a gang: the gang counts the word (`gangInWfi`), so that more than the core's advance
changes. -/
theorem not_systemWords : ¬ Obligations.SystemWords := by
  unfold Obligations.SystemWords
  intro h
  obtain ⟨-, -, htimeout, -⟩ := h gangInWfi namingGuard 0 0 0 .core 0 (.tile 0) 1 0
  have ht := htimeout (by decide +kernel) (by decide +kernel) (by decide +kernel) (by decide) (by decide)
  obtain ⟨t, hu, hpos⟩ := exec_wfiTimeout_gangInWfi
  obtain rfl := Host.Outcome.next.inj (ht.symm.trans hu)
  exact absurd hpos (by decide +kernel)

/-- Settles O51: `spawn` and `join` come down to their bodies, and the host's two writes go through one after the other. -/
theorem launchQueueWords : Obligations.LaunchQueueWords := by
  unfold Obligations.LaunchQueueWords
  intro s v w g lq ra rb r key bs q
  refine ⟨fun hr hs hroom => ?_, fun hr hs ha hread hrec hmay hroom => ?_, fun hr hs ha hh => ?_, fun hr hkey hheld hread hv => ?_, ?_⟩
  · exact (exec_spawn_snapped hr hs).trans (congrArg Host.Outcome.next (State.spawnStep_appends hroom.1 hroom.2))
  · refine (exec_spawn_reads hr hs).trans (congrArg Host.Outcome.next ?_)
    rw [if_neg (not_not.2 ha), State.withBytes_ok hread, ← hrec, if_pos hmay]
    exact State.spawnStep_appends hroom.1 hroom.2
  · refine ⟨_, exec_spawn_reads hr hs, ?_⟩
    rw [if_pos ha]
    exact (State.ready_named hr).trapsTo hr.running (by decide) hh
  · refine (exec_join_runs hr).trans (congrArg Host.Outcome.next ?_)
    rw [State.withKey_ok hkey hheld, State.withBytes_ok hread]
    exact if_pos (by simpa using hv)
  · intro P f d slot tail x reaches hpart hfed hsized hposted hslot htail
    have htailq : s.hostTail P f q.q.toNat = qTail d := by
      unfold State.hostTail
      rw [hposted]
      rfl
    have hwrites := State.postAll_two hposted (bs := toBytes 64 r.toNat) (bs' := toBytes 4 ((qTail d + 1) % 2 ^ 32))
      hslot.1 hslot.2.1 (by rw [toBytes_length]; decide) hslot.2.2 htail.1 htail.2.1 (by rw [toBytes_length]; decide) htail.2.2
    refine congrArg Host.Outcome.next ?_
    dsimp only
    rw [htailq]
    refine (if_neg ?_).trans hwrites
    simp only [Bool.or_eq_true, not_or, Bool.not_eq_true, Option.isNone_eq_false_iff, Bool.not_eq_false']
    exact ⟨⟨hpart, hfed⟩, hsized⟩

/-- Refutes O52 at a memory that is not canonical, which its clause on the tag state does not rule out (`twiceListed`). -/
theorem not_threadStarts : ¬ Obligations.ThreadStarts := by
  unfold Obligations.ThreadStarts
  intro h
  obtain ⟨-, -, -, -, -, -, -, -, -, -, -, -, htags, -⟩ := h twiceListed 0 { part := 0, ctx := 0 } 0 0 0 none 0 0
  exact absurd ((startThread_twiceListed _).symm.trans (htags 0 (by decide))) (by decide)

/-- Settles O49: the write is made before the register is, and what the new split moves between scratch and cache lies outside every
home. -/
theorem splitWrites : Obligations.SplitWrites := by
  unfold Obligations.SplitWrites
  intro s t r u rd made took new e0 e1 hreq hrun hready
  have hu : u < 2 ^ 20 := by
    have hp := t.pkg.isLt
    have ht := t.tile.isLt
    show t.pkg.toNat * 1024 + t.tile.toNat < 2 ^ 20
    omega
  have hmade (n : Nat) (old : Word) : made old (csrMask n) = r.fn.value n old r.ra := by
    dsimp only [made]
    unfold CsrFn.value CsrFn.put
    cases r.fn <;> rfl
  have hlate (w : State) (hw : w.cores = s.cores) (old : Word) : ∃ v,
      (w.lateWrite r.core (xWords rd) fun c => c.wx rd old).complete r.core = v ∧ v.tile u = w.tile u ∧
      (v.core r.core).pc = (s.core r.core).pc + 8 ∧ (∀ x, (v.core r.core).rx x = if x = rd ∧ x ≠ 0 then old else (s.core r.core).rx x) ∧
      ∀ a, OutsideHome r.core a → memGet v.mem a = memGet w.mem a := by
    have hcore : w.core r.core = s.core r.core := congrArg (fun m : SMap Core => m.get Core.idle r.core) hw
    have hl := State.completesLate (w := w) (hcore ▸ hrun) rd old
    refine ⟨_, rfl, congrArg (fun m : SMap Tile => m.get Tile.idle u) hl.tiles, ?_, fun x => ?_, hl.mem⟩
    · rw [hl.pc, hcore]
    · rw [hl.rx x, hcore]
  refine ⟨fun hacc => ?_, fun hacc hcompact => ⟨fun hallowed => ?_, fun hallowed => ?_⟩⟩
  · have he := State.grantSplit_made hreq hrun hready (old := (s.tile u).accsplit) (v := made (s.tile u).accsplit 0xFFFF)
      (by rw [hacc]; rfl) (by rw [hacc]; exact hmade 0x302 _) (.inl hacc) (.inl hacc)
    obtain ⟨v, hv, htile, hpc, hrx, hmem⟩ := hlate
      ((s.makeSplit u true (made (s.tile u).accsplit 0xFFFF)).onTile u fun w => { w with req := none }) rfl (s.tile u).accsplit
    rw [hacc] at he
    rw [State.tile_onTile_same] at htile
    refine ⟨v, congrArg Host.Outcome.next (he.trans hv), ⟨congrArg Tile.req htile, hpc, hrx⟩, ?_, hmem⟩
    rw [htile]
    exact s.accsplit_makeSplit u _
  · have he := State.grantSplit_made hreq hrun hready (old := (s.tile u).tsplit) (v := new)
      (by rw [hacc]; rfl) (by rw [hacc]; exact hmade 0x301 _) (.inr hcompact) (.inr hallowed)
    obtain ⟨v, hv, htile, hpc, hrx, hmem⟩ := hlate
      ((s.makeSplit u false new).onTile u fun w => { w with req := none }) (s.cores_applySplit u new) (s.tile u).tsplit
    rw [hacc] at he
    rw [State.tile_onTile_same] at htile
    refine ⟨v, congrArg Host.Outcome.next (he.trans hv), ⟨congrArg Tile.req htile, hpc, hrx⟩, ?_, fun a h0 h1 => ?_⟩
    · rw [htile]
      exact s.tsplit_makeSplit u new
    · have h0' : e0 = min (0x3000 + 0x10000 * (fld (s.tile u).tsplit 0 5).toNat) 0x100000 := by
        show Tile.scratchEnd _ = _
        unfold Tile.scratchEnd
        rw [hcompact]
        rfl
      have h1' : e1 = splitEnd (fld new 0 5).toNat := by
        show min _ _ = min _ _
        rw [BitVec.extractLsb'_toNat]
        rfl
      have hlo : 0x3000 ≤ a := by omega
      have hhi : a < 2 ^ 20 := by omega
      rw [hmem _ (outsideHome_tileKey hu hlo hhi), ← memDefault_tileKey hu hlo hhi]
      rw [h1'] at h0 h1
      exact s.memGet_applySplit u new h0 h1
  · exact congrArg Host.Outcome.next (State.grantSplit_refused hreq hrun hready hacc (hmade 0x301 _) hcompact hallowed)

end Sys2Proof

/-! SUPPORT. States at which a fault record, a status word or a walk goes astray, and the proofs of O55, O56, O57 and O59. -/

namespace Sys2Proof
open Machine

namespace Machine

/-- An error strikes memory or a tile's cache: no core changes, not even the TLB whose walk found the word. -/
theorem cores_softError {va : Word} {c : CoreId} {s t : State} (ht : exec (.softError va c true) s = .next t) :
    t.cores = s.cores := by
  obtain rfl := Host.Outcome.next.inj ht
  dsimp only
  split
  · rfl
  · rw [if_pos rfl]
    split <;> rfl

/-- A resolution by a walk leaves its translation in the core's TLB. -/
theorem resolve_stX0_fills : Tests.stX0.resolve 0 0x500000 .rd = ((Tests.stX0.resolve 0 0x500000 .rd).1, some 0x80500000) ∧
    ((Tests.stX0.resolve 0 0x500000 .rd).1.core 0).tlb ≠ (Tests.stX0.core 0).tlb :=
  ⟨Tests.pair_of (by decide +kernel), by decide +kernel⟩

/-- The word that this walk finds stands in no tile's cache. -/
theorem resolve_stX0_uncached : ((Tests.stX0.resolve 0 0x500000 .rd).1.tile 0).blocks = [] := by
  decide +kernel

/-- The fault that `exit` meets there stops the thread. -/
theorem exec_exit_tableInHome : ∃ t, exec (.exit namingGuard) tableInHome = .next t ∧ (t.core 0).st = .stopped :=
  ⟨_, rfl, by decide +kernel⟩

/-- The context table stands where the fault record of core 0 stands in its job's image, and the entry puts the image there. -/
def tableInRecord : State :=
  { Tests.stClT.writeNat 0x2002518 8 0x2000000 with
    tiles := [(0, { Tile.idle with images := [(Tests.stClT.core 0).job] })]
    dies := [(0, { Die.idle with sup := [(0x800, 0x20024C0)] })] }

theorem tableInRecord_canon : tableInRecord.Canon := Tests.canon_of (by decide +kernel)

/-- The record overwrites the entry, so that no record is pending where the tag state now stands. -/
theorem exec_collTimeout_tableInRecord : ∃ t, exec (.collTimeout (.tile 0)) tableInRecord = .next t ∧ t.faultPend 0 = false :=
  ⟨_, rfl, by decide +kernel⟩

/-- An `SMM` of 32 samples whose status word stands 8 bytes before the end of its tile's store. -/
def statusAtEndCmd : Cmd :=
  Tests.cmdA .mxq (BitVec.ofNat 256 (0x1A + 32 * 2 ^ 192 + 0xFFFF8 * 2 ^ 224)) [Tests.hSq 0x4000 64 1, Tests.hSq 0x5000 64 1]

/-- It stands alone at a matrix engine whose ladle holds a zero sum. -/
def statusAtEnd : State :=
  (Tests.stC fun c => { c with cmds := [statusAtEndCmd] }).setTile 0
    { Tests.tileA with ladle := { Ladle.idle with owner := some 0, stage := .zero } }

theorem statusAtEnd_canon : statusAtEnd.Canon := Tests.canon_of (by decide +kernel)

theorem statusAtEnd_head : (statusAtEnd.core 0).matrixHead 0x1A = some statusAtEndCmd ∧ statusAtEnd.marks = [] ∧
    (statusAtEndCmd.started = true ∨ statusAtEnd.cmdClosed 0 statusAtEndCmd = none) ∧
    ∃ x n, statusAtEnd.matrixPick 0 = some (x, n) ∧ x.core = 0 :=
  ⟨by decide +kernel, by decide +kernel, by decide +kernel, ⟨0, 0, 1, 1, 0⟩, 0, by decide +kernel, rfl⟩

theorem statusAtEnd_alone : ∀ i, i < 4 → 4 * 0 + i ≠ 0 → statusAtEnd.matrixReady (4 * 0 + i) = none := by
  decide +kernel

/-- The second half of the status word reads back with the 1 of the next tile's p0. -/
theorem exec_smm_statusAtEnd : ∃ t, exec (.smm (.tile 0)) statusAtEnd = .next t ∧
    t.readNat (storeBase 0 + cf statusAtEndCmd.w 224 20 + 8) 8 ≠ 3 * 2 ^ 48 :=
  ⟨_, rfl, by decide +kernel⟩

end Machine

/-! ## The statements -/

/-- Refutes O55 at an `SMM` over a zero sum whose status word begins 8 bytes before the end of the tile's store: its second half falls on
the register home of the next tile, whose p0 keeps its 1 and whose reserved bytes keep 0 (R93). -/
theorem not_matrixCommands : ¬ Obligations.MatrixCommands := by
  unfold Obligations.MatrixCommands
  intro h
  obtain ⟨-, -, -, -, -, -, -, -, -, -, -, -, hsmm, -⟩ :=
    h statusAtEnd (.tile 0) ⟨0, 0⟩ statusAtEndCmd ⟨0, 0, 0, 0, 0⟩ ⟨0, false, 0, []⟩ 0
  obtain ⟨t, ht, -, -, -, hstatus⟩ := hsmm statusAtEnd_head statusAtEnd_alone rfl (by decide +kernel) (by decide +kernel)
  obtain ⟨-, hhigh⟩ := hstatus statusAtEnd_canon rfl (by decide +kernel) rfl (by decide +kernel) (by decide +kernel)
  obtain ⟨u, hu, hother⟩ := exec_smm_statusAtEnd
  obtain rfl : t = u := Host.Outcome.next.inj (ht.symm.trans hu)
  exact hother hhigh

/-- Refutes O56 at a member that times out while its job's image is away and the context table overlaps the fault record: the record
moves the image (`tableInRecord`). -/
theorem not_collectiveAndOffloadCommands : ¬ Obligations.CollectiveAndOffloadCommands := by
  unfold Obligations.CollectiveAndOffloadCommands
  intro h
  obtain ⟨-, -, -, -, -, -, -, htimeout, -⟩ := h tableInRecord tableInRecord tableInRecord (.tile 0) ⟨0, 0⟩ .ok Tests.colT
    Tests.colT ⟨0, 0, [], [], [], 0, 0⟩ ⟨0, 0, Tests.colT⟩ [] [] ⟨0, 0, 0, 0, 0⟩ [] 0 0 0 [] false
  obtain ⟨t, ht, -, hpend, -⟩ := htimeout (by decide +kernel) tableInRecord_canon (by decide +kernel)
  obtain ⟨u, hu, hquiet⟩ := exec_collTimeout_tableInRecord
  obtain rfl : t = u := Host.Outcome.next.inj (ht.symm.trans hu)
  exact Bool.noConfusion (hpend.symm.trans hquiet)

/-- Refutes O57 at `exit`, where naming a register moves the fault record (`tableInHome`). -/
theorem not_threadEvents : ¬ Obligations.ThreadEvents := by
  unfold Obligations.ThreadEvents
  intro h
  obtain ⟨hexit, -⟩ := h tableInHome (.tile 0) namingGuard 0 ⟨0, 0, Core.idle.job, false⟩ Core.idle.job ⟨0, 0⟩ 0 false 0 0 0 0 0 0
    ⟨0, 0, 0, 0, 0⟩ [] 0 0
  obtain ⟨t, ht, hended, -⟩ := hexit (tableInHome_runs rfl rfl rfl) tableInHome_quiet (by decide +kernel) (by decide +kernel)
    (by decide +kernel)
  obtain ⟨u, hu, hstopped⟩ := exec_exit_tableInHome
  obtain rfl : t = u := Host.Outcome.next.inj (ht.symm.trans hu)
  exact ThreadState.noConfusion (hended.symm.trans hstopped)

/-- Refutes O59 at an uncorrectable error: the walk that finds the word fills the TLB of `u`, and the error leaves the core's TLB as it
was before it. -/
theorem not_faultEvents : ¬ Obligations.FaultEvents := by
  unfold Obligations.FaultEvents
  intro h
  obtain ⟨hfound, hfills⟩ := resolve_stX0_fills
  obtain ⟨-, -, -, -, -, -, -, -, -, herror, -⟩ :=
    h Tests.stX0 (Tests.stX0.resolve 0 0x500000 .rd).1 (.tile 0) 0x500000 0 ⟨⟨0, 0, 0⟩, 0, 0⟩ 0 0 0 ⟨0, 0, 0⟩ 0 0 0 0 0 0x80500000
  obtain ⟨hhome, -, -⟩ := herror hfound
  obtain ⟨t, ht, -, -, hcores⟩ := hhome (by
    change (_ && List.any ((Tests.stX0.resolve 0 0x500000 .rd).1.tile 0).blocks _) = false
    rw [resolve_stX0_uncached, List.any_nil, Bool.and_false])
  refine hfills ?_
  rw [State.core, ← hcores, cores_softError ht]
  rfl

end Sys2Proof

/-! SUPPORT. Membership images and copy commands, and the proofs of O36 and O54. -/

namespace Sys2Proof
open Machine

namespace Machine

/-! ## Membership images (R315, R316) -/

theorem State.Alike.bar {s u : State} {k : Nat} (h : s.Alike u k) (d b : Nat) : u.bar d b = s.bar d b :=
  (congrArg (fun w : State => w.bar d b) h.same.rest :)

theorem State.core_onCore_field {α : Type} (f : Core → α) {g : Core → Core} (hg : ∀ c, f (g c) = f c) (s : State) (j k : Nat) :
    f ((s.onCore j g).core k) = f (s.core k) := by
  by_cases h : k = j
  · subst h
    rw [State.core_onCore_same, hg]
  · rw [State.core_onCore_other _ _ h]

/-- What a waiter passes to the members are floors. -/
theorem State.core_keepFloors {α : Type} (f : Core → α) (hf : ∀ (c : Core) x, f { c with floors := x } = f c) (s : State) (j k : Nat) :
    f ((s.keepFloors j).core k) = f (s.core k) := by
  unfold State.keepFloors
  split
  · rfl
  · refine foldl_field (fun t : State => f (t.core k)) _ _ (fun t d => ?_) s
    exact foldl_field (fun u : State => f (u.core k)) _ _ (fun u m => State.core_onCore_field f (fun c => hf c _) u m k) t

theorem State.field_keepFloors {α : Type} (F : State → α) (hF : ∀ (t : State) cs, F { t with cores := cs } = F t) (s : State) (j : Nat) :
    F (s.keepFloors j) = F s := by
  unfold State.keepFloors
  split
  · rfl
  · exact foldl_field F _ _ (fun t d => foldl_field F _ _ (fun u m => hF u _) t) s

/-- The floors that a write of an image takes from those it leaves out, and what the waiters pass to the members before it. -/
def State.leaveOut (s : State) (d b v : Nat) : State :=
  (maskCores d ((s.bar d b).mask &&& ~~~(BitVec.ofNat 1024 v))).foldl
    (fun u k => u.onCore k fun c => { c with floors := c.floors.del b }) ((s.waitersOf d b).foldl State.keepFloors s)

theorem State.field_leaveOut {α : Type} (F : State → α) (hF : ∀ (t : State) cs, F { t with cores := cs } = F t) (s : State) (d b v : Nat) :
    F (s.leaveOut d b v) = F s :=
  (foldl_field F _ _ (fun u _ => hF u _) _).trans (foldl_field F _ _ (fun u j => State.field_keepFloors F hF u j) s)

theorem State.core_leaveOut {α : Type} (f : Core → α) (hf : ∀ (c : Core) x, f { c with floors := x } = f c) (s : State) (d b v k : Nat) :
    f ((s.leaveOut d b v).core k) = f (s.core k) :=
  (foldl_field (fun u : State => f (u.core k)) _ _ (fun u m => State.core_onCore_field f (fun c => hf c _) u m k) _).trans
    (foldl_field (fun u : State => f (u.core k)) _ _ (fun u j => State.core_keepFloors f hf u j k) s)

theorem State.mem_onBar (s : State) (d b : Nat) (f : Barrier → Barrier) : (s.onBar d b f).mem = s.mem := rfl

theorem State.setImage_eq (s : State) (d b v : Nat) : s.setImage d b v = (s.leaveOut d b v).onBar d b fun x =>
    { x with mask := BitVec.ofNat 1024 v, links := imageLinks v, phase := 0, since := none } := rfl

theorem State.mem_setImage (s : State) (d b v : Nat) : (s.setImage d b v).mem = s.mem := by
  rw [State.setImage_eq, State.mem_onBar, State.field_leaveOut State.mem fun _ _ => rfl]

theorem State.core_setImage {α : Type} (f : Core → α) (hf : ∀ (c : Core) x, f { c with floors := x } = f c) (s : State) (d b v k : Nat) :
    f ((s.setImage d b v).core k) = f (s.core k) := by
  rw [State.setImage_eq, State.core_onBar, State.core_leaveOut f hf]

theorem State.bar_setImage (s : State) (d b v : Nat) : (s.setImage d b v).bar d b =
    { s.bar d b with mask := BitVec.ofNat 1024 v, links := imageLinks v, phase := 0, since := none } := by
  rw [State.setImage_eq, State.bar_onBar_same, State.field_leaveOut (fun t => t.bar d b) fun _ _ => rfl]

theorem State.mem_finish (s : State) (k : Nat) : (s.finish k).mem = s.mem := rfl

theorem State.bar_finish (s : State) (k d b : Nat) : (s.finish k).bar d b = s.bar d b := rfl

/-- The route of an access sees of a core its state and its job. -/
theorem State.route_onCore (s : State) (k : Nat) {f : Core → Core} (hst : ∀ c, (f c).st = c.st) (hjob : ∀ c, (f c).job = c.job)
    (m : Master) (key : Nat) (w : Bool) : (s.onCore k f).route m key w = s.route m key w := by
  have st (j : Nat) : ((s.onCore k f).core j).st = (s.core j).st := State.core_onCore_field Core.st hst s k j
  have job (j : Nat) : ((s.onCore k f).core j).job = (s.core j).job := State.core_onCore_field Core.job hjob s k j
  have hwin : (s.onCore k f).windowOpen = s.windowOpen := by
    unfold State.windowOpen State.othersOn Core.alive
    simp only [st, job]
    rfl
  have hg : (s.onCore k f).guarded key = s.guarded key := State.guarded_congr (s := s) (u := s.onCore k f) rfl rfl rfl key
  unfold State.route
  simp only [st, hwin, hg]
  rfl

section Bmask

variable {s u : State} {g : Guard} {bid : BitVec 6} {ra : XReg} {bs : List Byte}

/-- `bmask` at an aligned address of a free barrier, once the image has been read. -/
theorem exec_bmask_read (hr : s.Runs (.bmask g bid ra)) (ha : ((s.core s.me).rx ra).toNat % 64 = 0)
    (hk : (s.bar (coreDieKey s.me) bid.toNat).kind = .free)
    (hread : (s.ready (.bmask g bid ra)).readMem s.me ((s.core s.me).rx ra).toNat 256 = (u, .ok (bs, false))) :
    exec (.bmask g bid ra) s = .next (
      if u.imageBad (coreDieKey s.me) (leNat bs) then u.trap s.me causeFormat ((s.core s.me).rx ra)
      else if u.linksLeave s.me (leNat bs) then (u.refuseAt s.me ((s.core s.me).rx ra) (u.core s.me).pc).finish s.me
      else if (s.bar (coreDieKey s.me) bid.toNat).arrived != 0 then u.await s.me
      else (u.setImage (coreDieKey s.me) bid.toNat (leNat bs)).finish s.me) := by
  have h := State.ready_alike hr
  refine congrArg Host.Outcome.next ((State.issue_runs hr _).trans ?_)
  dsimp only
  rw [h.core.field (fun c => c.rx ra) fun _ _ => rfl, h.bar, ha, hk, hread, if_neg (by simp)]
  rfl

/-- At an address that is no multiple of 64. -/
theorem exec_bmask_unaligned (hr : s.Runs (.bmask g bid ra)) (hc : canonical ((s.core s.me).rx ra).toNat = true)
    (ha : ((s.core s.me).rx ra).toNat % 64 ≠ 0) :
    exec (.bmask g bid ra) s = .next ((s.ready (.bmask g bid ra)).trap s.me causeAlign ((s.core s.me).rx ra)) := by
  have h := State.ready_alike hr
  refine congrArg Host.Outcome.next ((State.issue_runs hr _).trans ?_)
  dsimp only
  rw [h.core.field (fun c => c.rx ra) fun _ _ => rfl]
  exact if_pos (by simp [hc, ha])

/-- A second entry behind one that has just entered. -/
theorem State.enterStore_behind {w : State} {k : Nat} {e e2 : Store} (hp : w.route (w.master k) e2.key true ≠ .page)
    (h254 : w.cntSt k < 254) {f : Core → Core} (hf : ∀ c, f c = { c with sbuf := c.sbuf ++ [e] }) {t : State}
    (ht : (w.onCore k f).enterStore k e2 = t) :
    t = { w with seq := w.seq + 1, cores := t.cores } ∧ (∀ j, j ≠ k → t.core j = w.core j) ∧
      t.core k = { (w.core k).advance 8 with sbuf := (w.core k).sbuf ++ [e, e2] } := by
  have hcore : (w.onCore k f).core k = f (w.core k) := State.core_onCore_same ..
  have hst (c : Core) : (f c).st = c.st := by rw [hf]
  have hjob (c : Core) : (f c).job = c.job := by rw [hf]
  have hsbuf : (f (w.core k)).sbuf = (w.core k).sbuf ++ [e] := by rw [hf]
  have hflown : (f (w.core k)).flown = (w.core k).flown := by rw [hf]; rfl
  have hsent : (f (w.core k)).sent = (w.core k).sent := by rw [hf]; rfl
  have hperf (sc : Scope) (n : Nat) : (w.onCore k f).performed k sc n = w.performed k sc n := rfl
  have hmaster : (w.onCore k f).master k = w.master k := by
    unfold State.master
    rw [hcore, hjob]
  have hcnt : (w.onCore k f).cntSt k = w.cntSt k + 1 := by
    unfold State.cntSt
    simp only [hcore, hsbuf, hflown, hsent, hperf, List.length_append, List.length_singleton]
    omega
  obtain ⟨hrest, hothers, hme⟩ := State.enterStore_enters (s := w.onCore k f) (k := k) (e := e2)
    (by rwa [hmaster, State.route_onCore w k hst hjob]) (by omega)
  rw [ht] at hrest hothers hme
  refine ⟨hrest, fun j hj => (hothers j hj).trans (State.core_onCore_other _ _ hj), ?_⟩
  rw [hme, hcore, hf]
  simp [Core.advance, Core.unwait]

/-- The entry with which `bmask.rd` puts bytes of an image into the store buffer. -/
def imageEntry (k : Nat) (a : Word) (key : Nat) (bs : List Byte) (u : State) : Store :=
  { kind := .write, va := a, key := key, bytes := bs, scope := .pod, rel := false, hint := .keep, pc := (u.core k).pc, seq := u.seq }

variable {v : State} {key key2 : Nat}

theorem imageEntry_checked {i : Instr} {va a : Word} {k2 : Nat} (hc : (s.ready i).checkAddr s.me va 64 .wr = (v, .ok key)) (hr : s.Runs i) :
    imageEntry s.me a k2 bs (v.closeWindow s.me key) =
      { kind := .write, va := a, key := k2, bytes := bs, scope := .pod, rel := false, hint := .keep, pc := (s.core s.me).pc, seq := v.seq } := by
  rw [imageEntry, State.core_closeWindow, State.seq_closeWindow, core_of_checkAddr hc hr Core.pc fun _ _ _ => rfl]

/-- `bmask.rd` of an image that lies in one page. -/
theorem exec_bmaskRd_one (hr : s.Runs (.bmaskRd g bid ra))
    (hc : (s.ready (.bmaskRd g bid ra)).checkAddr s.me ((s.core s.me).rx ra) 64 .wr = (v, .ok key)) (hs : v.splitHeld s.me key = false)
    (hn : 256 ≤ 2 ^ 16 - ((s.core s.me).rx ra).toNat % 2 ^ 16) :
    exec (.bmaskRd g bid ra) s = .next ((v.closeWindow s.me key).enterStore s.me
      (imageEntry s.me ((s.core s.me).rx ra) key (toBytes 256 (s.bar (coreDieKey s.me) bid.toNat).image) (v.closeWindow s.me key))) := by
  have h := State.ready_alike hr
  refine congrArg Host.Outcome.next ((State.issue_runs hr _).trans ?_)
  dsimp only
  rw [h.core.field (fun c => c.rx ra) fun _ _ => rfl, h.bar, Nat.min_eq_left hn, State.withKey_ok hc hs]
  exact if_pos rfl

/-- And of one that crosses into the next. -/
theorem exec_bmaskRd_two (hr : s.Runs (.bmaskRd g bid ra))
    (hc : (s.ready (.bmaskRd g bid ra)).checkAddr s.me ((s.core s.me).rx ra) 64 .wr = (v, .ok key)) (hs : v.splitHeld s.me key = false)
    {n : Nat} (hn : 2 ^ 16 - ((s.core s.me).rx ra).toNat % 2 ^ 16 = n) (h256 : n < 256) {w : State} (hw : v.closeWindow s.me key = w)
    (hc2 : (w.checkAddr s.me ((s.core s.me).rx ra + BitVec.ofNat 64 n) 64 .wr).2 = .ok key2) (h254 : w.cntSt s.me < 254)
    {img : List Byte} (himg : toBytes 256 (s.bar (coreDieKey s.me) bid.toNat).image = img) :
    exec (.bmaskRd g bid ra) s = .next
      ((w.onCore s.me fun c => { c with sbuf := c.sbuf ++ [imageEntry s.me ((s.core s.me).rx ra) key (img.take n) w] }).enterStore s.me
        (imageEntry s.me ((s.core s.me).rx ra + BitVec.ofNat 64 n) key2 (img.drop n) w)) := by
  have h := State.ready_alike hr
  refine congrArg Host.Outcome.next ((State.issue_runs hr _).trans ?_)
  dsimp only
  rw [h.core.field (fun c => c.rx ra) fun _ _ => rfl, h.bar, hn, himg, Nat.min_eq_right h256.le, State.withKey_ok hc hs, hw,
    if_neg h256.ne, hc2]
  exact if_neg (by omega)

end Bmask

/-! ## Commands of a core -/

theorem State.cmds_onCmd (s : State) (k age : Nat) (f : Cmd → Cmd) :
    ((s.onCmd k age f).core k).cmds = (s.core k).cmds.map fun d => if d.age = age then f d else d := by
  rw [State.onCmd, State.core_onCore_same]

/-- What has an age after the commands of that age changed is one of them. -/
theorem State.mem_cmds_onCmd {s : State} {k age : Nat} {f : Cmd → Cmd} {e : Cmd}
    (he : e ∈ ((s.onCmd k age f).core k).cmds) (hage : e.age = age) : ∃ d ∈ (s.core k).cmds, d.age = age ∧ e = f d := by
  rw [State.cmds_onCmd, List.mem_map] at he
  obtain ⟨d, hd, hde⟩ := he
  split at hde
  · exact ⟨d, hd, ‹_›, hde.symm⟩
  · exact absurd (hde ▸ hage) ‹_›

theorem State.core_setTagEntry (s : State) (k tag v j : Nat) : (s.setTagEntry k tag v).core j = s.core j := State.core_storeNat ..

theorem State.core_tagDrop {α : Type} (f : Core → α) (hf : ∀ (c : Core) t w, f { c with tags := t, wfiEvent := w } = f c) (s : State)
    (k tag j : Nat) : f ((s.tagDrop k tag).core j) = f (s.core j) := by
  unfold State.tagDrop
  dsimp only
  split
  · rw [State.core_onCore_field f fun c => hf c _ _, State.core_setTagEntry]
  · rw [State.core_setTagEntry]

/-- A command that ends leaves of its core only its queue and its tags changed. -/
theorem State.core_retireCmd {α : Type} (f : Core → α)
    (hf : ∀ (c : Core) x t w, f { c with cmds := x, tags := t, wfiEvent := w } = f c) (s : State) (k : Nat) (d : Cmd) (j : Nat) :
    f ((s.retireCmd k d).core j) = f (s.core j) := by
  have h := State.core_onCore_field f (fun c => hf c (c.cmds.filter fun e => e.age != d.age) c.tags c.wfiEvent) s k j
  unfold State.retireCmd
  dsimp only
  split
  · rw [State.core_tagDrop f fun c t w => hf c c.cmds t w]
    exact h
  · exact h

theorem State.cmds_retireCmd (s : State) (k : Nat) (d : Cmd) :
    ((s.retireCmd k d).core k).cmds = (s.core k).cmds.filter fun e => e.age != d.age := by
  unfold State.retireCmd
  dsimp only
  split
  · rw [State.core_tagDrop Core.cmds fun _ _ _ => rfl, State.core_onCore_same]
  · rw [State.core_onCore_same]

theorem State.retired_retireCmd (s : State) (k : Nat) (d : Cmd) : (s.retireCmd k d).Retired k d.age := by
  intro e he
  rw [State.cmds_retireCmd, List.mem_filter] at he
  simpa using he.2

/-! ## Tag state (R198, R200) -/

theorem State.memGet_storeNat_other (s : State) {key n v a : Nat} (h : a < key ∨ key + n ≤ a) :
    memGet (s.storeNat key n v).mem a = memGet s.mem a := by
  rw [State.storeNat, State.mem_store, memGet_memWrite_other _ _ (by rwa [toBytes_length])]

/-- A tag entry lies in the tag state of its core. -/
theorem State.memGet_setTagEntry (s : State) {k tag v a : Nat} (ht : tag < 64) (h : a < s.tagAt k ∨ s.tagAt k + 0x300 ≤ a) :
    memGet (s.setTagEntry k tag v).mem a = memGet s.mem a :=
  s.memGet_storeNat_other (by omega)

theorem State.memGet_tagDrop (s : State) {k tag a : Nat} (ht : tag < 64) (h : a < s.tagAt k ∨ s.tagAt k + 0x300 ≤ a) :
    memGet (s.tagDrop k tag).mem a = memGet s.mem a := by
  unfold State.tagDrop
  dsimp only
  split
  all_goals exact s.memGet_setTagEntry ht h

theorem Cmd.tag_lt {d : Cmd} {t : Nat} (h : d.tag = some t) : t < 64 := by
  unfold Cmd.tag at h
  split at h
  · exact Option.some.inj h ▸ (fld d.w 8 6).isLt
  · exact absurd h (by simp)

theorem Core.tagOf_lt {c : Core} {d : Cmd} {t : Nat} (h : c.tagOf d = some t) : t < 64 := by
  unfold Core.tagOf at h
  split at h
  · exact Cmd.tag_lt h
  · exact absurd h (by simp)

/-- The tag state of a core stands where its job's store stands, whatever its commands. -/
theorem State.tagAt_onCore (s : State) (j : Nat) {f : Core → Core} (hf : ∀ c, (f c).job = c.job) (k : Nat) :
    (s.onCore j f).tagAt k = s.tagAt k := by
  have hjob := State.core_onCore_field Core.job hf s j k
  have hctx : (s.onCore j f).ctxField = s.ctxField := by
    funext pkg jb lo n
    exact State.ctxField_congr (s := s) (u := s.onCore j f) rfl rfl rfl pkg jb lo n
  unfold State.tagAt State.jobStore State.imageAt
  rw [hjob, hctx]
  rfl

/-- A command that ends changes no byte outside the tag state. -/
theorem State.sameOutsideTags_retireCmd (s : State) (k : Nat) (d : Cmd) : s.SameOutsideTags (s.retireCmd k d) := by
  intro a ha
  unfold State.retireCmd
  dsimp only
  split
  · next t ht =>
    have htag := State.tagAt_onCore s k (f := fun c => { c with cmds := c.cmds.filter fun e => e.age != d.age }) (fun _ => rfl) k
    exact State.memGet_tagDrop _ (Core.tagOf_lt ht) (by rw [htag]; exact ha k)
  · rfl

/-! ## Pieces of a copy (R144) -/

theorem len_of_mem_cut {a n : Nat} {e : Nat × Nat} (h : e ∈ cut a n) : e.2 ≤ 64 := by
  unfold cut at h
  split at h
  · exact absurd h (by simp)
  · simp only [List.mem_map, List.mem_range] at h
    obtain ⟨i, -, rfl⟩ := h
    dsimp only
    omega

theorem len_of_mem_linePieces {hd : Wide} {recv line src : Nat} {q : Piece} (h : q ∈ linePieces hd recv line src) : q.len ≤ 64 := by
  simp only [linePieces, List.mem_map] at h
  obtain ⟨e, he, rfl⟩ := h
  exact len_of_mem_cut he

theorem len_of_mem_scalePieces {hd : Wide} {recv line src off n : Nat} {q : Piece} (h : q ∈ scalePieces hd recv line src off n) :
    q.len ≤ 64 := by
  simp only [scalePieces, List.mem_map] at h
  obtain ⟨e, he, rfl⟩ := h
  exact len_of_mem_cut he

theorem len_of_mem_copyPieces {k : Nat} {d : Cmd} {q : Piece} (h : q ∈ copyPieces k d) : q.len ≤ 64 := by
  have one (r : Nat) (hq : q ∈ (List.range (hLines (d.hs.getD 0 0))).flatMap (fun l => linePieces (d.hs.getD 0 0) r l 0) ++
      scalePieces (d.hs.getD 0 0) r 0 0 0 (scaleCount (d.hs.getD 0 0))) : q.len ≤ 64 := by
    rcases List.mem_append.1 hq with hq | hq
    · obtain ⟨l, -, hq⟩ := List.mem_flatMap.1 hq
      exact len_of_mem_linePieces hq
    · exact len_of_mem_scalePieces hq
  unfold copyPieces at h
  dsimp only at h
  split at h
  · exact one 0 h
  · obtain ⟨r, -, hq⟩ := List.mem_flatMap.1 h
    exact one r hq

/-! ## The start of a copy (R194, R356) -/

theorem State.cmds_beginCopy {s : State} {k : Nat} {d : Cmd} {ps : List Piece} {e : Cmd} (he : e ∈ ((s.beginCopy k d ps).core k).cmds)
    (hage : e.age = d.age) : e.started = true ∧ e.prog.pieces = ps := by
  unfold State.beginCopy at he
  obtain ⟨c, -, -, rfl⟩ := State.mem_cmds_onCmd he hage
  exact ⟨rfl, rfl⟩

theorem State.mem_beginCopy (s : State) (k : Nat) (d : Cmd) (ps : List Piece) : (s.beginCopy k d ps).mem = s.mem := rfl

section Start

variable {s u w y : State} {k op : Nat} {d : Cmd} {ps : List Piece}

/-- What a copy that may start is about to do, once its pieces are known. -/
def State.startWith (s u : State) (k : Nat) (d : Cmd) (ps : List Piece) : State :=
  match u.leavesTo k d ps with
  | none => u.beginCopy k d ps
  | some (pkg, va, n) => match u.logProvenance k d.born pkg va n with
    | none => s.onCmd k d.age fun c => { c with logWait := true }
    | some y => y.beginCopy k d ps

theorem State.startCopy_begun (hfind : (s.core k).cmds.find? (fun e => e.q == .cpq && !e.started) = some d) (hop : d.opc = op)
    (hfew : ((s.core k).cmds.filter fun e => e.q == .cpq && e.started).length < 4)
    (hps : if op = 1 then u = s ∧ ps = copyPieces k d else s.listWaits k d = (w, false) ∧ w.listPieces k d = (u, ps)) :
    s.startCopy k op = s.startWith u k d ps := by
  unfold State.startCopy
  rw [hfind]
  dsimp only
  rw [if_neg (by simp only [hop]; omega)]
  by_cases h1 : op = 1
  · rw [if_pos h1] at hps
    obtain ⟨rfl, rfl⟩ := hps
    rw [if_pos h1, if_pos h1]
    rfl
  · rw [if_neg h1] at hps
    obtain ⟨hw, hu⟩ := hps
    rw [if_neg h1, if_neg h1, hw, hu]
    rfl

theorem State.startWith_stays (h : u.leavesTo k d ps = none) : s.startWith u k d ps = u.beginCopy k d ps := by
  unfold State.startWith
  rw [h]

theorem State.startWith_leaves {pkg va len : Nat} (h : u.leavesTo k d ps = some (pkg, va, len))
    (hl : u.logProvenance k d.born pkg va len = some y) : s.startWith u k d ps = y.beginCopy k d ps := by
  unfold State.startWith
  rw [h]
  dsimp only
  rw [hl]

end Start

/-! ## A piece for the core's own store -/

theorem State.mem_takeHome (s : State) (key n : Nat) : (s.takeHome key n).mem = s.mem := by
  unfold State.takeHome
  split
  · refine foldl_field State.mem _ _ (fun t w => ?_) s
    dsimp only
    split <;> rfl
  · rfl

theorem State.memGet_fixStore_other (s : State) {key a : Nat} {bs : List Byte} (h : a < key ∨ key + bs.length ≤ a) :
    memGet (s.fixStore key bs).mem a = memGet s.mem a := by
  unfold State.fixStore
  split
  · rw [State.mem_takeHome, State.mem_store, memGet_memWrite_other _ _ (by rwa [List.length_mapIdx])]
  · rw [State.mem_store, memGet_memWrite_other _ _ h]

theorem State.mem_completeWords (s : State) (k age key n : Nat) : (s.completeWords k age key n).mem = s.mem := by
  unfold State.completeWords
  split
  · rfl
  · dsimp only
    split
    all_goals
      split
      all_goals exact foldl_field State.mem _ _ (fun u w => by split <;> rfl) s

theorem State.mem_engineRead_store (s : State) {key : Nat} (n : Nat) (h : isDram key = false) : (s.engineRead none key n).1.mem = s.mem := by
  have : s.settleRange (s.realKey key) n = s := by
    rw [s.realKey_store h]
    unfold State.settleRange
    rw [h]
    rfl
  unfold State.engineRead
  dsimp only
  rw [this]

theorem State.memGet_engineWrite_store (s : State) {key a : Nat} {bs : List Byte} (hk : isDram key = false)
    (h : a < key ∨ key + bs.length ≤ a) : memGet (s.engineWrite key bs false).mem a = memGet s.mem a := by
  unfold State.engineWrite
  rw [s.realKey_store hk]
  dsimp only
  rw [hk]
  exact s.memGet_fixStore_other h

/-- A write of a piece to a store that counts nowhere writes the bytes of the piece alone. -/
theorem State.memGet_putHeld_store (s : State) {p : HeldPut} {a : Nat} (hk : isDram p.key = false) (hc : p.count = none)
    (h : a < p.key ∨ p.key + p.len ≤ a) : memGet (s.putHeld p).mem a = memGet s.mem a := by
  have hdata (v : Nat) : memGet (p.bad.foldl (fun (u : State) o => u.setMark (p.key + min o (p.len - 1)) true)
      (if p.full && !isDram p.key then
        ((s.engineRead none p.key p.len).1.engineWrite p.key (toBytes p.len v) false).completeWords p.core p.age p.key p.len
      else (s.engineRead none p.key p.len).1.engineWrite p.key (toBytes p.len v) false)).mem a = memGet s.mem a := by
    have hwrite := (s.engineRead none p.key p.len).1.memGet_engineWrite_store (a := a) (bs := toBytes p.len v) hk
      (by rwa [toBytes_length])
    rw [foldl_field State.mem p.bad (fun u o => u.setMark (p.key + min o (p.len - 1)) true) (fun _ _ => rfl), ← s.mem_engineRead_store p.len hk, ← hwrite]
    split
    · rw [State.mem_completeWords]
    · rfl
  unfold State.putHeld
  dsimp only
  rw [s.realKey_store hk, hc]
  split
  · exact hdata _
  · exact hdata _

/-- The piece has left its command. -/
theorem State.pieces_putHeld {s : State} {p : HeldPut} {q : Piece} (hq : p.piece = some q) {e : Cmd}
    (he : e ∈ ((s.putHeld p).core p.core).cmds) (hage : e.age = p.age) : q ∉ e.prog.pieces := by
  unfold State.putHeld at he
  dsimp only at he
  rw [hq] at he
  obtain ⟨c, -, -, rfl⟩ := State.mem_cmds_onCmd he hage
  simp

/-! ## The events of the copy engine -/

theorem exec_copyPieceArrive_ready {s : State} {c : CoreId} {n : Nat} {d : Cmd} {p : Piece}
    (h : (s.core (coreKey c)).piecesReady[n % max (s.core (coreKey c)).piecesReady.length 1]? = some (d, p)) :
    exec (.copyPieceArrive c n) s =
      .next ((withPiece d d.prog.coming p).foldl (fun u q => u.pieceIfThere (coreKey c) d.age q) s) := by
  refine congrArg Host.Outcome.next ?_
  dsimp only
  rw [h]

theorem exec_copyComplete_found {s : State} {c : CoreId} {d : Cmd}
    (h : (s.core (coreKey c)).cmds.find? (fun e => e.q == .cpq && e.started && e.prog.pieces.isEmpty) = some d) :
    exec (.copyComplete c) s = .next (s.retireCmd (coreKey c) d) := by
  refine congrArg Host.Outcome.next ?_
  dsimp only
  rw [h]

/-- A piece whose source is read goes to the core's own store. -/
theorem State.pieceIfThere_home {s u : State} {k age : Nat} {f : Cmd} {p : Piece} {b : PieceBits}
    (hfind : (s.core k).cmds.find? (fun e => e.age == age && e.prog.pieces.contains p) = some f) (hhome : destHome f = true)
    (hbits : s.pieceBits k f p = (u, .ok b))
    (hopen : u.localClosed k (hBase (f.hs.getD 0 0) + pieceOff (f.hs.getD 0 0) p) p.len = false) :
    s.pieceIfThere k age p = u.putHeld (putOf k f p (storeBase k + hBase (f.hs.getD 0 0) + pieceOff (f.hs.getD 0 0) p) b) := by
  unfold State.pieceIfThere
  rw [hfind]
  dsimp only
  unfold State.pieceArrive
  rw [hbits]
  dsimp only
  unfold State.deliverPiece
  rw [if_pos hhome, hopen]
  rfl

end Machine

/-! ## The statements -/

/-- Settles O36. -/
theorem membershipImages : Obligations.MembershipImages := by
  unfold Obligations.MembershipImages
  intro s v u g bid ra key key2 bs
  refine ⟨?_, ?_, fun hr hc ha hh => ?_, fun hr hc hs hn hp h255 => ?_, fun hr hc hs hn hc2 hp h254 => ?_⟩
  · rintro ⟨hr, ha, hk, hread, hbad⟩ hleave harr
    refine ⟨_, exec_bmask_read hr ha hk hread, ?_⟩
    rw [if_neg (by simp [hbad]), if_neg (by simp [hleave]), if_neg (by simp [harr]), State.core_finish_same, State.bar_finish,
      State.mem_finish, State.bar_setImage, State.mem_setImage, Core.advance_pc, Core.advance_x, State.core_setImage Core.pc fun _ _ => rfl,
      State.core_setImage Core.x fun _ _ => rfl]
    exact ⟨rfl, rfl, rfl, rfl, rfl, rfl⟩
  · rintro ⟨hr, ha, hk, hread, hbad⟩
    rw [exec_bmask_read hr ha hk hread, if_pos hbad]
    rfl
  · exact ⟨_, exec_bmask_unaligned hr hc ha, (State.ready_named hr).trapsTo hr.running (by decide) hh⟩
  · refine ⟨_, exec_bmaskRd_one hr hc hs hn, ?_⟩
    have h := State.enterStore_enters (e := imageEntry s.me ((s.core s.me).rx ra) key
      (toBytes 256 (s.bar (coreDieKey s.me) bid.toNat).image) (v.closeWindow s.me key)) hp h255
    rw [imageEntry_checked hc hr] at h ⊢
    exact h
  · refine ⟨_, exec_bmaskRd_two hr hc hs rfl hn rfl hc2 h254 rfl, ?_⟩
    have h := State.enterStore_behind (e := imageEntry s.me ((s.core s.me).rx ra) key
      ((toBytes 256 (s.bar (coreDieKey s.me) bid.toNat).image).take (2 ^ 16 - ((s.core s.me).rx ra).toNat % 2 ^ 16)) (v.closeWindow s.me key))
      (e2 := imageEntry s.me ((s.core s.me).rx ra + BitVec.ofNat 64 (2 ^ 16 - ((s.core s.me).rx ra).toNat % 2 ^ 16)) key2
        ((toBytes 256 (s.bar (coreDieKey s.me) bid.toNat).image).drop (2 ^ 16 - ((s.core s.me).rx ra).toNat % 2 ^ 16)) (v.closeWindow s.me key))
      hp h254 (fun _ => rfl) rfl
    simp only [imageEntry_checked hc hr] at h ⊢
    exact h

/-- Settles O54. -/
theorem copyCommands : Obligations.CopyCommands := by
  unfold Obligations.CopyCommands
  intro s u w y c d f n pkg va len p ps b
  refine ⟨fun hfind hop hfew hps => ?_, fun hfind hop hfew hps => ?_, fun hfind hop hfew hps => ?_,
    fun q hq => len_of_mem_copyPieces hq, fun hready => ?_, fun hfind hhome hbits hopen => ?_, fun hfind _ => ?_⟩
  iterate 3
    have he := State.startCopy_begun hfind hop hfew hps
    exact ⟨fun h => ⟨_, congrArg Host.Outcome.next (he.trans (State.startWith_stays h)), rfl, rfl, fun e => State.cmds_beginCopy⟩,
      fun h hl =>
        ⟨_, congrArg Host.Outcome.next (he.trans (State.startWith_leaves h hl)), rfl, rfl, fun e => State.cmds_beginCopy⟩⟩
  · exact exec_copyPieceArrive_ready hready
  · have hage : d.age = f.age := by
      have := List.find?_some hfind
      simp only [Bool.and_eq_true, beq_iff_eq] at this
      exact this.1.symm
    have ht := State.pieceIfThere_home hfind hhome hbits hopen
    dsimp only
    rw [ht]
    refine ⟨rfl, fun e he hage => State.pieces_putHeld rfl he hage, fun _ hk hcount a ha => ?_⟩
    exact State.memGet_putHeld_store u hk (if_neg (by rw [hcount]; decide)) ha
  · exact ⟨_, exec_copyComplete_found hfind, s.retired_retireCmd _ d, s.sameOutsideTags_retireCmd _ d,
      State.core_retireCmd Core.x (fun _ _ _ _ => rfl) s _ d _⟩

end Sys2Proof

/-! SUPPORT. Caches, walks, host, merge, boot and power, and the proof of O60. -/

namespace Sys2Proof
open Machine

namespace Machine

/-! ## Fills, grants, clocks and walks (R152 to R155, R163, R164) -/

theorem exec_tileCacheFill {s : State} {t : TileId} {pa : BitVec 57} (hc : s.cacheable (tileNum t) pa.toNat = true)
    (hb : (s.tile (tileNum t)).blocks.any (fun b => b.pa == pa.toNat / 64 * 64 && b.owned) = false) :
    exec (.tileCacheFill t pa) s = .next (s.fillBlock (tileNum t) pa.toNat true false) := by
  refine congrArg Host.Outcome.next ?_
  dsimp only
  rw [hc, hb]
  rfl

theorem State.cacheable_isTile {u : Nat} (hu : u < 2 ^ 20) : isTileCore (4 * u) = true := by
  unfold isTileCore
  simp
  omega

/-- A granted sector lies past every lease it had, and its tile's clock at that timestamp. -/
theorem State.grant_stamps (s : State) (u pa : Nat) (hu : u < 2 ^ 20) :
    ((s.grant (4 * u) pa).1.sector (pa / 1024)).wts = (s.grant (4 * u) pa).2 ∧ (s.grant (4 * u) pa).2 ≤ (s.grant (4 * u) pa).1.clock u := by
  have htile : coreTile (4 * u) = u := by unfold coreTile; omega
  unfold State.grant State.raiseClk
  dsimp only
  rw [if_pos (State.cacheable_isTile hu), htile]
  constructor
  · exact congrArg Sector.wts (SMap.get_put_same _ _ _ _)
  · unfold State.clock State.raiseClock
    rw [State.tile_onTile_same]
    exact le_max_of_le_left (le_max_right _ _)

theorem State.rts_recall (s : State) (key : Nat) : ((s.recall key).sector (key / 1024)).rts = (s.sector (key / 1024)).rts := by
  unfold State.recall
  dsimp only
  split
  · rfl
  · split
    · rfl
    · rw [State.sector_onSector_same]
      exact congrArg (fun m : SMap Sector => (m.get Sector.idle (key / 1024)).rts) (s.sectors_writeBlocks _ _)

/-- The timestamp of a grant is past every lease that the sector had. -/
theorem State.rts_lt_grant (s : State) (k pa : Nat) : (s.sector (pa / 1024)).rts < (s.grant k pa).2 :=
  Nat.lt_of_lt_of_le (Nat.lt_succ_self _) (le_max_right _ _)

theorem exec_ownershipGrant {s : State} {t : TileId} {pa : BitVec 57} (hc : s.cacheable (tileNum t) pa.toNat = true)
    (ho : (s.sector (pa.toNat / 1024)).owner ≠ some (tileNum t)) :
    ∃ v, exec (.ownershipGrant t pa) s = .next v ∧ (v.sector (pa.toNat / 1024)).owner = some (tileNum t) ∧
      (s.sector (pa.toNat / 1024)).rts < (v.sector (pa.toNat / 1024)).wts ∧
      (v.sector (pa.toNat / 1024)).wts ≤ v.clock (tileNum t) := by
  have hu : tileNum t < 2 ^ 20 := by unfold tileNum; omega
  let r := (s.gather (pa.toNat / 1024 * 1024) 1024).recall pa.toNat
  obtain ⟨hstamp, hclk⟩ := State.grant_stamps r (tileNum t) pa.toNat hu
  have hw : (((r.grant (4 * tileNum t) pa.toNat).1.onSector (pa.toNat / 1024) fun e => { e with owner := some (tileNum t) }).sector
      (pa.toNat / 1024)).wts = ((r.grant (4 * tileNum t) pa.toNat).1.sector (pa.toNat / 1024)).wts := by
    rw [State.sector_onSector_same]
  refine ⟨(r.grant (4 * tileNum t) pa.toNat).1.onSector (pa.toNat / 1024) fun e => { e with owner := some (tileNum t) }, ?_, ?_, ?_, ?_⟩
  · refine congrArg Host.Outcome.next (if_neg ?_)
    rw [hc]
    simpa using ho
  · exact congrArg Sector.owner (State.sector_onSector_same _ _ _)
  · refine Nat.lt_of_lt_of_eq ?_ (hstamp.symm.trans hw.symm)
    rw [← s.sector_gather (pa.toNat / 1024 * 1024) 1024, ← State.rts_recall]
    exact State.rts_lt_grant r _ _
  · exact Nat.le_trans (Nat.le_of_eq (hw.trans hstamp)) hclk

theorem exec_logicalClockTick (s : State) (t : TileId) (n : Nat) :
    ∃ v, exec (.logicalClockTick t n) s = .next v ∧ v.clock (tileNum t) = s.clock (tileNum t) + n ∧ v.mem = s.mem ∧ v.cores = s.cores := by
  refine ⟨_, rfl, ?_, rfl, rfl⟩
  unfold State.clock State.raiseClock
  rw [State.tile_onTile_same]
  have htime (f : Tile → Tile) : (s.onTile (tileNum t) f).time = s.time := rfl
  rw [htime]
  dsimp only
  omega

theorem exec_clockMinUpdate (s : State) (o : Option (BitVec 10)) (pkg : BitVec 10) :
    ∃ v, exec (.clockMinUpdate o) s = .next v ∧ v.mem = s.mem ∧ v.cores = s.cores ∧ s.podMin ≤ v.podMin ∧
      (o = none → s.minClock 0 (1024 * 1024) ≤ v.podMin) ∧
      (o = some pkg → s.minClock (1024 * pkg.toNat) 1024 ≤ v.pkgMin.get 0 pkg.toNat ∧ s.pkgMin.get 0 pkg.toNat ≤ v.pkgMin.get 0 pkg.toNat) := by
  cases o with
  | none => exact ⟨_, rfl, rfl, rfl, le_max_left _ _, fun _ => le_max_right _ _, fun h => by cases h⟩
  | some p =>
    refine ⟨_, rfl, rfl, rfl, le_refl _, fun h => by (cases h), fun h => ?_⟩
    obtain rfl := Option.some.inj h
    dsimp only
    rw [SMap.get_put_same]
    exact ⟨le_max_right _ _, le_max_left _ _⟩

theorem mem_tlbAdd (cap : Nat) (e : Tlb) (l : List Tlb) : e ∈ tlbAdd cap e l := by
  unfold tlbAdd
  split
  · rename_i h
    exact List.contains_iff_mem.mp h
  · simp

theorem State.cores_tlbFill (s : State) (k : Nat) (e : Tlb) :
    (s.tlbFill k e).cores = (s.onCore k fun c => { c with tlb := tlbAdd 32 e c.tlb }).cores := by
  unfold State.tlbFill
  dsimp only
  split <;> rfl

theorem exec_pageWalk {s : State} {c : CoreId} {va : Word} {e : Tlb}
    (hw : s.pageWalk (corePkg (coreKey c)) (s.core (coreKey c)).job va.toNat = some e) :
    ∃ v, exec (.pageWalk c va) s = .next v ∧ e ∈ (v.core (coreKey c)).tlb ∧ v.mem = s.mem := by
  refine ⟨s.tlbFill (coreKey c) e, ?_, ?_, ?_⟩
  · refine congrArg Host.Outcome.next ?_
    dsimp only
    rw [hw]
  · unfold State.core
    rw [State.cores_tlbFill]
    exact (congrArg (e ∈ Core.tlb ·) (State.core_onCore_same s _ _)).mpr (mem_tlbAdd _ _ _)
  · unfold State.tlbFill
    dsimp only
    split <;> rfl

/-! ## The host's accesses (R379 to R381) -/

section Host

variable {s : State} {pkg : BitVec 10} {fn : BitVec 2} {off : BitVec 42} {n : Nat} {bs : List Byte}

theorem State.engineRead_posted (s : State) (l : List Posted) (key n : Nat) :
    { s with posted := l }.engineRead none key n = ({ (s.engineRead none key n).1 with posted := l }, (s.engineRead none key n).2) := by
  have hkey : State.realKey { s with posted := l } key = s.realKey key := rfl
  unfold State.engineRead
  rw [hkey]
  dsimp only
  rw [State.settleRange_posted]
  rfl

theorem State.hostGet_posted (s : State) (l : List Posted) (key n : Nat) :
    { s with posted := l }.hostGet key n = { s.hostGet key n with posted := l } := by
  unfold State.hostGet
  dsimp only
  refine (congrArg (fun r : State × List Byte => { r.1 with hostReply := some r.2 })
    (List.foldl_hom (fun acc : State × List Byte => ({ acc.1 with posted := l }, acc.2)) (init := (s, [])) fun acc i => ?_) :)
  dsimp only
  rw [State.engineRead_posted]

/-- A single request of the host that its package's station serves at once. -/
theorem State.postAll_one {r : HostReq} {v : State} (hp : s.posted = []) (hv : v.posted = [])
    (h : State.postStep { s with posted := [{ pkg := pkg.toNat, fn := fn.toNat, req := r, sent := false }] } pkg.toNat = v) :
    (s.post pkg.toNat fn.toNat [r]).postAll pkg.toNat = v := by
  have hpost : s.post pkg.toNat fn.toNat [r] = { s with posted := [{ pkg := pkg.toNat, fn := fn.toNat, req := r, sent := false }] } := by
    unfold State.post
    rw [hp]
    rfl
  rw [hpost]
  show State.postOn pkg.toNat 1 (State.postStep _ pkg.toNat) = v
  rw [h]
  exact State.postOn_rest hv _ _

/-- The request of the host that waits. -/
def oneRead (p f : Nat) (bar2 : Bool) (off n : Nat) : Posted := { pkg := p, fn := f, req := .read bar2 off n, sent := false }

/-- A read that waits for nothing is answered, and leaves. -/
theorem State.postStep_read {v : State} (hv : v.posted = []) {p f : Nat} {bar2 : Bool} {off n : Nat}
    (h : State.hostAnswer { s with posted := [oneRead p f bar2 off n] } p f bar2 off n = { v with posted := [oneRead p f bar2 off n] }) :
    State.postStep { s with posted := [oneRead p f bar2 off n] } p = v := by
  have hfind : [oneRead p f bar2 off n].find? (fun e => e.pkg == p) = some (oneRead p f bar2 off n) := by
    rw [List.find?_cons]
    simp [oneRead]
  unfold State.postStep
  dsimp only
  rw [hfind]
  refine (if_neg Bool.false_ne_true).trans ?_
  show State.unpost _ _ = v
  refine (congrArg (State.unpost · (oneRead p f bar2 off n)) h).trans ?_
  unfold State.unpost
  dsimp only
  rw [List.erase_cons_head, ← hv]

theorem State.posted_hostGet (s : State) (key n : Nat) : (s.hostGet key n).posted = s.posted :=
  (congrArg State.posted (s.hostGet_posted s.posted key n) :)

/-- A read of the host of an empty station is what the answer to it is. -/
theorem exec_hostRead {v : State} {b : BarAddr} (hp : s.posted = []) (hv : v.posted = [])
    (h : State.hostAnswer { s with posted := [oneRead pkg.toNat fn.toNat b.bar2 b.off.toNat n] } pkg.toNat fn.toNat b.bar2 b.off.toNat n =
      { v with posted := [oneRead pkg.toNat fn.toNat b.bar2 b.off.toNat n] }) :
    exec (.hostRead pkg fn b n) s = .next v :=
  congrArg Host.Outcome.next (State.postAll_one hp hv (State.postStep_read hv h))

theorem exec_hostRead_ok (hp : s.posted = []) (hr : s.hostRoute pkg.toNat fn.toNat off.toNat n false = .ok) :
    exec (.hostRead pkg fn ⟨true, off⟩ n) s = .next (s.hostGet (pkg.toNat * 2 ^ 47 + off.toNat) n) := by
  refine exec_hostRead hp ((s.posted_hostGet _ _).trans hp) ?_
  unfold State.hostAnswer
  dsimp only
  rw [State.hostRoute_posted, hr]
  exact (if_pos rfl).trans (s.hostGet_posted _ _ _)

theorem exec_hostRead_refused (hp : s.posted = []) (hr : s.hostRoute pkg.toNat fn.toNat off.toNat n false ≠ .ok)
    (hh : s.hostRoute pkg.toNat fn.toNat off.toNat n false ≠ .held) :
    exec (.hostRead pkg fn ⟨true, off⟩ n) s = .next { s with hostReply := none } := by
  refine exec_hostRead hp hp ?_
  unfold State.hostAnswer
  dsimp only
  rw [State.hostRoute_posted]
  refine (if_pos rfl).trans ?_
  split
  · contradiction
  · contradiction
  · rfl

theorem exec_hostRead_control (hp : s.posted = []) (hx : s.present pkg.toNat fn.toNat = true) (hn : off.toNat + n ≤ 2 ^ 16) :
    exec (.hostRead pkg fn ⟨false, off⟩ n) s =
      .next { s with hostReply := some (s.bar0 pkg.toNat fn.toNat off.toNat n) } := by
  refine exec_hostRead hp hp ?_
  unfold State.hostAnswer
  dsimp only
  refine (if_neg Bool.false_ne_true).trans (if_pos ?_)
  rw [Bool.and_eq_true, decide_eq_true_eq]
  exact ⟨hx, hn⟩

/-- A read of the host that crosses no region is one access. -/
theorem State.hostGet_region (s : State) {key n : Nat} (h0 : n ≠ 0) (hreg : key % 64 + n ≤ 64) :
    s.hostGet key n = { (s.engineRead none key n).1 with hostReply := some (s.engineRead none key n).2 } := by
  have hcount : (key + n + 63) / 64 - key / 64 = 1 := by omega
  have hlo : max key ((key / 64 + 0) * 64) = key := by omega
  have hlen : min (key + n) ((key / 64 + 0 + 1) * 64) - key = n := by omega
  unfold State.hostGet
  rw [hcount]
  dsimp only
  rw [List.range_one, List.foldl_cons, List.foldl_nil, hlo, hlen, List.nil_append]

theorem paPkg_hostKey : paPkg (pkg.toNat * 2 ^ 47 + off.toNat) = pkg.toNat := by
  unfold paPkg
  omega

theorem hostKey_mod : (pkg.toNat * 2 ^ 47 + off.toNat) % 2 ^ 47 = off.toNat := by
  omega

theorem exec_hostWrite_bar2 : exec (.hostWrite pkg fn true off bs) s =
    .next ((s.post pkg.toNat fn.toNat [.write (pkg.toNat * 2 ^ 47 + off.toNat) bs]).postAll pkg.toNat) := rfl

/-- A write of the host that its route serves and that crosses no region is performed. -/
theorem State.postAll_write {key : Nat} (hp : s.posted = []) (hr : s.hostRoute pkg.toNat fn.toNat (key % 2 ^ 47) bs.length true = .ok)
    (hk : paPkg key = pkg.toNat) (h0 : bs ≠ []) (hreg : key % 64 + bs.length ≤ 64) :
    (s.post pkg.toNat fn.toNat [.write key bs]).postAll pkg.toNat = s.engineWrite key bs false := by
  have hposted := (s.posted_engineWrite key bs).trans hp
  refine State.postAll_one hp hposted ?_
  rw [State.postStep_write s [] hr hk (List.length_pos_of_ne_nil h0) hreg, ← hposted]

/-- A write of the host that its route refuses is dropped. -/
theorem State.postAll_refused {key : Nat} (hp : s.posted = []) (hr : s.hostRoute pkg.toNat fn.toNat (key % 2 ^ 47) bs.length true ≠ .ok)
    (hh : s.hostRoute pkg.toNat fn.toNat (key % 2 ^ 47) bs.length true ≠ .held) (hk : paPkg key = pkg.toNat) :
    (s.post pkg.toNat fn.toNat [.write key bs]).postAll pkg.toNat = s := by
  refine State.postAll_one hp hp ?_
  unfold State.postStep
  simp only [List.find?_cons, beq_self_eq_true]
  refine (if_neg Bool.false_ne_true).trans ?_
  unfold State.postWrite State.postRoute
  rw [if_pos hk, State.hostRoute_posted]
  dsimp only
  split
  · contradiction
  · contradiction
  · unfold State.unpost
    dsimp only
    rw [List.erase_cons_head, ← hp]

theorem exec_hostWrite_ok (hp : s.posted = []) (hr : s.hostRoute pkg.toNat fn.toNat off.toNat bs.length true = .ok)
    (h0 : bs ≠ []) (hreg : (pkg.toNat * 2 ^ 47 + off.toNat) % 64 + bs.length ≤ 64) :
    exec (.hostWrite pkg fn true off bs) s = .next (s.engineWrite (pkg.toNat * 2 ^ 47 + off.toNat) bs false) := by
  rw [← hostKey_mod (pkg := pkg) (off := off)] at hr
  rw [exec_hostWrite_bar2, State.postAll_write hp hr paPkg_hostKey h0 hreg]

theorem exec_hostWrite_refused (hp : s.posted = []) (hr : s.hostRoute pkg.toNat fn.toNat off.toNat bs.length true ≠ .ok)
    (hh : s.hostRoute pkg.toNat fn.toNat off.toNat bs.length true ≠ .held) :
    exec (.hostWrite pkg fn true off bs) s = .next s := by
  rw [← hostKey_mod (pkg := pkg) (off := off)] at hr hh
  rw [exec_hostWrite_bar2, State.postAll_refused hp hr hh paPkg_hostKey]

/-- A function of which the package has no partition reaches nothing. -/
theorem exec_hostWrite_absent (hp : s.posted = []) (hx : s.present pkg.toNat fn.toNat = false) (b2 : Bool) :
    exec (.hostWrite pkg fn b2 off bs) s = .next s := by
  cases b2 with
  | true =>
    have hr : s.hostRoute pkg.toNat fn.toNat off.toNat bs.length true = .refuse := by
      unfold State.hostRoute
      rw [hx]
      rfl
    refine exec_hostWrite_refused hp ?_ ?_
    · rw [hr]; decide
    · rw [hr]; decide
  | false =>
    refine congrArg Host.Outcome.next ((if_neg Bool.false_ne_true).trans (if_neg ?_))
    rw [hx]
    exact Bool.false_ne_true

theorem State.bar0_length (s : State) (p f o n : Nat) : (s.bar0 p f o n).length = n := by
  unfold State.bar0
  rw [List.length_map, List.length_range]

theorem State.bar0_getD (s : State) (p f o : Nat) {n j : Nat} (h : j < n) : (s.bar0 p f o n).getD j 0 =
    if o + j < 64 then (toBytes 64 (s.controlImage p f)).getD (o + j) 0 else 0 := by
  unfold State.bar0
  rw [List.getD_eq_getElem _ _ (by rwa [List.length_map, List.length_range]), List.getElem_map, List.getElem_range]

theorem State.control_onControl (s : State) (p f : Nat) (g : Control → Control) : (s.onControl p f g).control p f = g (s.control p f) := by
  unfold State.onControl State.control
  rw [State.pkg_onPkg_same]
  exact SMap.get_put_same _ _ _ _

/-- The bits of a control block that eight of its bytes hold. -/
theorem getFld_leNat (l : List Byte) (i : Nat) : getFld (leNat l) (8 * i) 64 = leNat ((l.drop i).take 8) := by
  have hdrop : ∀ i (l : List Byte), leNat l / 256 ^ i = leNat (l.drop i) := by
    intro i
    induction i with
    | zero => intro l; simp
    | succ i ih =>
      intro l
      cases l with
      | nil => simp [leNat]
      | cons b l =>
        have hb : b.toNat < 256 := b.isLt
        rw [List.drop_succ_cons, ← ih, leNat, pow_succ', ← Nat.div_div_eq_div_mul]
        congr 1
        omega
  have htake : ∀ n (l : List Byte), leNat l % 256 ^ n = leNat (l.take n) := by
    intro n
    induction n with
    | zero => intro l; simp [Nat.mod_one, leNat]
    | succ n ih =>
      intro l
      cases l with
      | nil => simp [leNat]
      | cons b l =>
        have hb : b.toNat < 256 := b.isLt
        rw [List.take_succ_cons, leNat, leNat, ← ih, pow_succ', Nat.mod_mul]
        congr 1
        · omega
        · congr 2
          omega
  unfold getFld
  rw [← htake, ← hdrop, show (2 : Nat) ^ (8 * i) = 256 ^ i by rw [pow_mul]; rfl]
  rfl

/-- The bytes of a control block of value `v` with `bs` written at `nonce`. -/
abbrev nonceWritten (v : Nat) (bs : List Byte) : List Byte :=
  (toBytes 64 v).mapIdx fun i b => if 16 ≤ i ∧ i < 16 + bs.length then bs.getD (i - 16) b else b

theorem getFld_nonceWritten (v : Nat) (h8 : bs.length = 8) : getFld (leNat (nonceWritten v bs)) 128 64 = leNat bs := by
  refine (getFld_leNat _ 16).trans (congrArg leNat (List.ext_getElem ?_ fun i h1 h2 => ?_))
  · rw [List.length_take, List.length_drop, nonceWritten, List.length_mapIdx, toBytes_length, h8]
    rfl
  · unfold nonceWritten
    rw [List.getElem_take, List.getElem_drop, List.getElem_mapIdx, if_pos ⟨by omega, by omega⟩, Nat.add_sub_cancel_left,
      List.getD_eq_getElem _ _ h2]

theorem getFld_nonceWritten_raddr (v : Nat) (h8 : bs.length = 8) :
    getFld (leNat (nonceWritten v bs)) 256 64 = getFld (v % 256 ^ 64) 256 64 := by
  rw [show v % 256 ^ 64 = leNat (toBytes 64 v) by rw [leNat_toBytes]]
  refine (getFld_leNat _ 32).trans (Eq.trans (congrArg leNat (List.ext_getElem ?_ fun i h1 h2 => ?_)) (getFld_leNat _ 32).symm)
  · rw [List.length_take, List.length_drop, List.length_take, List.length_drop, nonceWritten, List.length_mapIdx]
  · unfold nonceWritten
    rw [List.getElem_take, List.getElem_drop, List.getElem_mapIdx, if_neg (by omega), List.getElem_take, List.getElem_drop]

/-- The bits of `raddr` in a control block (R381). -/
theorem State.getFld_controlImage (s : State) (p f : Nat) :
    getFld (s.controlImage p f % 256 ^ 64) 256 64 = (s.control p f).raddr.toNat := by
  have h1 : (s.sup (s.partDie p f) 0x801).toNat % 2 ^ 57 < 2 ^ 57 := Nat.mod_lt _ (by decide)
  have h2 := ((s.pkg p).parts.get 0 f).isLt
  have h3 := (s.control p f).mreq.isLt
  have h4 := (s.control p f).mst.isLt
  have h5 := (s.control p f).nonce.isLt
  have h6 : (s.control p f).areq.toNat ≤ 1 := Bool.toNat_le _
  have h7 := (s.control p f).raddr.isLt
  unfold State.controlImage getFld
  dsimp only
  rw [Nat.mod_eq_of_lt]
  · omega
  · omega

/-- A write of the nonce sets the nonce of the control block and nothing more. -/
theorem State.controlWrite_nonce (s : State) (p f : Nat) (h8 : bs.length = 8) :
    s.controlWrite p f 16 bs = s.onControl p f fun c => { c with nonce := BitVec.ofNat 64 (leNat bs), raddr := (s.control p f).raddr } := by
  have h24 : (!(decide (16 ≤ 24) && decide (24 < 16 + bs.length))) = true := by rw [h8]; rfl
  have hn := getFld_nonceWritten (s.controlImage p f) h8
  have ha := (getFld_nonceWritten_raddr (s.controlImage p f) h8).trans (s.getFld_controlImage p f)
  unfold nonceWritten at hn ha
  unfold State.controlWrite
  dsimp only
  rw [hn, ha, BitVec.ofNat_toNat, BitVec.setWidth_eq]
  exact (if_pos h24).trans (if_neg Bool.false_ne_true)

theorem exec_hostWrite_nonce (hp : s.posted = []) (hx : s.present pkg.toNat fn.toNat = true) (hoff : off = 16) (h8 : bs.length = 8) :
    ∃ v, exec (.hostWrite pkg fn false off bs) s = .next v ∧
      (v.control pkg.toNat fn.toNat).nonce = BitVec.ofNat 64 (leNat bs) ∧
      (v.control pkg.toNat fn.toNat).raddr = (s.control pkg.toNat fn.toNat).raddr ∧
      (v.control pkg.toNat fn.toNat).mst = (s.control pkg.toNat fn.toNat).mst ∧ v.mem = s.mem ∧ v.cores = s.cores := by
  let w := s.onControl pkg.toNat fn.toNat fun c =>
    { c with nonce := BitVec.ofNat 64 (leNat bs), raddr := (s.control pkg.toNat fn.toNat).raddr }
  have hctl : w.control pkg.toNat fn.toNat =
      { s.control pkg.toNat fn.toNat with nonce := BitVec.ofNat 64 (leNat bs), raddr := (s.control pkg.toNat fn.toNat).raddr } :=
    State.control_onControl _ _ _ _
  have h16 : off.toNat = 16 := by rw [hoff]; rfl
  refine ⟨w, ?_, ?_, ?_, ?_, rfl, rfl⟩
  · refine congrArg Host.Outcome.next ((if_neg Bool.false_ne_true).trans ((if_pos ?_).trans (State.postAll_one hp hp ?_)))
    · rw [h16, hx]
      rfl
    · unfold State.postStep
      simp only [List.find?_cons, beq_self_eq_true]
      refine (if_neg Bool.false_ne_true).trans ?_
      rw [h16, State.controlWrite_nonce _ _ _ h8]
      refine Eq.trans (congrArg (fun l => { w with posted := l }) (List.erase_cons_head _ _) :) ?_
      rw [← (show w.posted = [] from hp)]
  · rw [hctl]
  · rw [hctl]
  · rw [hctl]

end Host

/-! ## Merging partitions (R387) -/

section Merging

variable {s : State} {pkg : BitVec 10} {fn : BitVec 2} {mask : BitVec 4} {m : Merge} {n : Nat}

/-- What a change of the package that leaves its partitions leaves of the context table. -/
theorem State.parts_onPkg (s : State) (p j : Nat) {f : Pkg → Pkg} (hf : ∀ x, (f x).parts = x.parts) :
    ((s.onPkg p f).pkg j).parts = (s.pkg j).parts := by
  by_cases h : j = p
  · subst h
    rw [State.pkg_onPkg_same, hf]
  · exact congrArg Pkg.parts (SMap.get_put_other _ _ _ h)

theorem State.partDie_onPkg (s : State) (p : Nat) {f : Pkg → Pkg} (hf : ∀ x, (f x).parts = x.parts) :
    (s.onPkg p f).partDie = s.partDie := by
  funext pkg part
  unfold State.partDie
  rw [s.parts_onPkg p pkg hf]

theorem State.ctxField_onPkg (s : State) (p : Nat) {f : Pkg → Pkg} (hf : ∀ x, (f x).parts = x.parts) :
    (s.onPkg p f).ctxField = s.ctxField := by
  funext pkg j lo n
  have hsup : (s.onPkg p f).sup = s.sup := rfl
  have hsettle (key n : Nat) : ((s.onPkg p f).settle key n).mem = (s.settle key n).mem :=
    (congrArg State.mem (State.settle_withMemory (s.onPkg p f) s key n) :)
  unfold State.ctxField State.readNat
  rw [hsup, s.partDie_onPkg p hf]
  dsimp only
  rw [hsettle]

theorem State.anyLive_onPkg (s : State) (p : Nat) {f : Pkg → Pkg} (hf : ∀ x, (f x).parts = x.parts) :
    (s.onPkg p f).anyLive = s.anyLive := by
  unfold State.anyLive
  rw [s.ctxField_onPkg p hf]

theorem State.anyLive_onControl (s : State) (p f : Nat) (g : Control → Control) : (s.onControl p f g).anyLive = s.anyLive :=
  s.anyLive_onPkg p (f := fun x => { x with control := x.control.put f (g (x.control.get Control.idle f)) }) fun _ => rfl

theorem State.pkgs_markPart (s : State) (p q : Nat) (on : Bool) : (s.markPart p q on).pkgs = s.pkgs :=
  foldl_field State.pkgs _ (fun u k => u.setMarkOf k on) (fun _ _ => rfl) s

theorem State.mem_markPart (s : State) (p q : Nat) (on : Bool) : (s.markPart p q on).mem = s.mem :=
  foldl_field State.mem _ (fun u k => u.setMarkOf k on) (fun _ _ => rfl) s

theorem State.pkg_markPart (s : State) (p q : Nat) (on : Bool) (j : Nat) : (s.markPart p q on).pkg j = s.pkg j :=
  congrArg (fun m : SMap Pkg => m.get Pkg.idle j) (s.pkgs_markPart p q on)

theorem State.control_seeTails (s : State) (p q : Nat) : ((s.seeTails p q).pkg p).control = (s.pkg p).control := by
  unfold State.seeTails
  dsimp only
  rw [State.pkg_onPkg_same]

/-- Seeing the tails anew changes of a merge only what it has seen. -/
theorem State.mem_seeTails {p q : Nat} (h : m ∈ (s.pkg p).merges) : ∃ sn, { m with seen := sn } ∈ ((s.seeTails p q).pkg p).merges := by
  unfold State.seeTails
  dsimp only
  rw [State.pkg_onPkg_same]
  by_cases hq : m.p = q ∨ m.q = q
  · refine ⟨(s.tailsOf p q).foldl (fun r e => r.put e.1 e.2) m.seen, List.mem_map.2 ⟨m, h, ?_⟩⟩
    rw [if_pos hq]
  · refine ⟨m.seen, List.mem_map.2 ⟨m, h, ?_⟩⟩
    rw [if_neg hq]

/-- The state in which a merge begins, the tails not seen yet. -/
def State.mergeBegun (s : State) (p f n : Nat) : State :=
  (s.onControl p f fun c => { c with mst := 1 }).onPkg p fun x => { x with merges := x.merges ++
    [{ p := f, q := n, since := s.time, seen := [], seenAt := s.time }] }

theorem State.startMerge_begins {p f n : Nat} (hby : (s.pkg p).byMask mask = some n) (hn : n ≠ f) (hlive : s.anyLive p (max f n) = false)
    (h1 : s.merging p f = false) (h2 : s.merging p n = false) : s.startMerge p f mask =
      ((((s.mergeBegun p f n).seeTails p f).seeTails p n).markPart p f true).markPart p n true := by
  unfold State.startMerge
  rw [hby]
  dsimp only
  rw [if_neg hn, hlive, h1, h2]
  rfl

theorem State.mergeBegun_begins (s : State) (p f n : Nat) :
    ((s.mergeBegun p f n).control p f) = { s.control p f with mst := 1 } := by
  unfold State.mergeBegun
  refine (congrArg (fun x : Pkg => x.control.get Control.idle f) (State.pkg_onPkg_same _ _ _)).trans ?_
  exact s.control_onControl p f _

theorem State.merges_mergeBegun (s : State) (p f n : Nat) :
    { p := f, q := n, since := s.time, seen := [], seenAt := s.time } ∈ ((s.mergeBegun p f n).pkg p).merges := by
  unfold State.mergeBegun
  rw [State.pkg_onPkg_same]
  exact List.mem_append_right _ (List.mem_singleton_self _)

/-- What has begun of a merge stands when the tails have been seen and the threads are marked. -/
theorem State.mergeBegun_seen (s : State) (p f n : Nat) :
    let v := (((((s.mergeBegun p f n).seeTails p f).seeTails p n).markPart p f true).markPart p n true)
    v.control p f = { s.control p f with mst := 1 } ∧
      (∃ sn, { p := f, q := n, since := s.time, seen := sn, seenAt := s.time } ∈ (v.pkg p).merges) ∧ v.mem = s.mem := by
  obtain ⟨sn, h1⟩ := State.mem_seeTails (q := f) (s.merges_mergeBegun p f n)
  obtain ⟨sn', h2⟩ := State.mem_seeTails (q := n) h1
  refine ⟨?_, ⟨sn', ?_⟩, ?_⟩
  · unfold State.control
    rw [State.pkg_markPart, State.pkg_markPart, State.control_seeTails, State.control_seeTails]
    exact s.mergeBegun_begins p f n
  · rw [State.pkg_markPart, State.pkg_markPart]
    exact h2
  · rw [State.mem_markPart, State.mem_markPart]
    rfl

/-- A merge begins. -/
theorem exec_mergeRequest_starts (hx : s.present pkg.toNat fn.toNat = true)
    (hnone : (s.pkg pkg.toNat).merges.find? (fun m => m.p == fn.toNat) = none) (hmask : mask ≠ 0)
    (hby : (s.pkg pkg.toNat).byMask mask = some n) (hn : n ≠ fn.toNat) (hlive : s.anyLive pkg.toNat (max fn.toNat n) = false)
    (h1 : s.merging pkg.toNat fn.toNat = false) (h2 : s.merging pkg.toNat n = false) :
    ∃ v, exec (.mergeRequest pkg fn mask) s = .next v ∧ (v.control pkg.toNat fn.toNat).mst = 1 ∧
      (v.control pkg.toNat fn.toNat).mreq = mask ∧
      (∃ sn, { p := fn.toNat, q := n, since := s.time, seen := sn, seenAt := s.time } ∈ (v.pkg pkg.toNat).merges) ∧ v.mem = s.mem := by
  let r := s.onControl pkg.toNat fn.toNat fun c => { c with mreq := mask }
  have hpkg : r.pkg pkg.toNat =
      { s.pkg pkg.toNat with control := (s.pkg pkg.toNat).control.put fn.toNat { s.control pkg.toNat fn.toNat with mreq := mask } } :=
    State.pkg_onPkg_same _ _ _
  have hstart := State.startMerge_begins (s := r) (mask := mask) (p := pkg.toNat) (f := fn.toNat) (n := n) (by rw [hpkg]; exact hby) hn
    (by rw [s.anyLive_onControl]; exact hlive)
    (by unfold State.merging; rw [hpkg]; exact h1) (by unfold State.merging; rw [hpkg]; exact h2)
  obtain ⟨hctl, hmerges, hmem⟩ := r.mergeBegun_seen pkg.toNat fn.toNat n
  have hreq : (r.control pkg.toNat fn.toNat).mreq = mask := congrArg Control.mreq (s.control_onControl _ _ _)
  refine ⟨_, congrArg Host.Outcome.next ?_, congrArg Control.mst hctl, (congrArg Control.mreq hctl).trans hreq, hmerges, hmem⟩
  unfold State.mergeStep
  rw [hx, hnone]
  exact (if_neg Bool.false_ne_true).trans ((if_neg hmask).trans hstart)

theorem State.flushCache_withMemory (r s : State) (t : Nat) : (r.withMemory s).flushCache t = r.withMemory (s.flushCache t) := by
  unfold State.flushCache
  rw [State.tile_withMemory, foldl_withMemory r s _ _ fun u b => State.dropBlock_withMemory r u t b.pa]
  rfl

theorem State.pkgs_flushCache (s : State) (t : Nat) : (s.flushCache t).pkgs = s.pkgs :=
  (congrArg State.pkgs (State.flushCache_withMemory s s t) :)

/-- The caches of the tiles that a merge rewrites are emptied. -/
def State.emptied (s : State) (ts : List Nat) : State := ts.foldl (fun u t => (u.flushCache t).emptyRo t) s

theorem State.pkgs_emptied (s : State) (ts : List Nat) : (s.emptied ts).pkgs = s.pkgs :=
  foldl_field State.pkgs ts (fun u t => (u.flushCache t).emptyRo t) (fun u t => u.pkgs_flushCache t) s

/-- The tiles of a mask of dies that the state lists. -/
def State.maskTiles (s : State) (p : Nat) (mask : BitVec 4) : List Nat :=
  (s.tiles.filter fun e => e.1 / 1024 == p && mask.getLsbD (e.1 / 256 % 4)).map (·.1)

/-- The package of a merge that is done (R387, steps 4 to 7). -/
def Pkg.merged (x : Pkg) (m : Merge) (mask : BitVec 4) : Pkg :=
  { x with
    parts := (x.parts.del (max m.p m.q)).put (min m.p m.q) mask, merges := x.merges.filter (· != m), bounds := openBounds mask x.bounds,
    inter := joinInter x.inter (min m.p m.q) (max m.p m.q), waiting := x.waiting.filter fun e => e.1 / 16 != max m.p m.q,
    fed := x.fed.filter fun e => e.1 / 16 != max m.p m.q }

/-- The threads and tiles of the partitions that a merge joins go on. -/
def State.letGo (s : State) (p : Nat) (m : Merge) (mask : BitVec 4) : State :=
  ((s.emptied (s.maskTiles p mask)).markPart p (min m.p m.q) false).markPart p (max m.p m.q) false

theorem State.finishMerge_eq (s : State) (p : Nat) (m : Merge) :
    let mask := (s.pkg p).parts.get 0 (min m.p m.q) ||| (s.pkg p).parts.get 0 (max m.p m.q)
    ∃ d d' w w' hit, s.finishMerge p m = State.onControl (State.tlbDrop (State.setSup (State.setSup
      ((s.letGo p m mask).onPkg p fun x => x.merged m mask) d 0x800 w) d' 0x801 w') (4096 * p) .package hit) p m.p
        fun c => { c with mst := 2 } :=
  ⟨_, _, _, _, _, rfl⟩

theorem State.pkg_tlbDrop (s : State) (k : Nat) (sc : Scope) (hit : Tlb → Bool) (p : Nat) : (s.tlbDrop k sc hit).pkg p = s.pkg p := rfl

theorem State.pkg_letGo (s : State) (p : Nat) (m : Merge) (mask : BitVec 4) : (s.letGo p m mask).pkg p = s.pkg p := by
  unfold State.letGo
  rw [State.pkg_markPart, State.pkg_markPart]
  exact congrArg (fun x : SMap Pkg => x.get Pkg.idle p) (s.pkgs_emptied _)

theorem State.pkg_onControl (s : State) (p f : Nat) (g : Control → Control) :
    (s.onControl p f g).pkg p = { s.pkg p with control := (s.pkg p).control.put f (g ((s.pkg p).control.get Control.idle f)) } :=
  State.pkg_onPkg_same _ _ _

theorem State.pkg_finishMerge (s : State) (p : Nat) (m : Merge) :
    let mask := (s.pkg p).parts.get 0 (min m.p m.q) ||| (s.pkg p).parts.get 0 (max m.p m.q)
    let v := (s.pkg p).merged m mask
    (s.finishMerge p m).pkg p = { v with control := v.control.put m.p { v.control.get Control.idle m.p with mst := 2 } } := by
  obtain ⟨d, d', w, w', hit, h⟩ := s.finishMerge_eq p m
  dsimp only
  rw [h, State.pkg_onControl, State.pkg_tlbDrop, State.pkg_setSup, State.pkg_setSup, State.pkg_onPkg_same, State.pkg_letGo]

/-- What a merge leaves in its package: the merge gone, its state 2, and one partition of the dies of both. -/
theorem State.finishMerge_finishes (s : State) (p : Nat) (m : Merge) :
    ((s.finishMerge p m).control p m.p).mst = 2 ∧ m ∉ ((s.finishMerge p m).pkg p).merges ∧
      ((s.finishMerge p m).pkg p).parts = ((s.pkg p).parts.del (max m.p m.q)).put (min m.p m.q)
        ((s.pkg p).parts.get 0 (min m.p m.q) ||| (s.pkg p).parts.get 0 (max m.p m.q)) := by
  unfold State.control
  rw [s.pkg_finishMerge p m]
  refine ⟨congrArg Control.mst (SMap.get_put_same _ _ _ _), fun h => ?_, rfl⟩
  exact absurd (List.mem_filter.1 h).2 (by simp)

theorem State.partCores_onPkg (s : State) (p : Nat) {f : Pkg → Pkg} (hf : ∀ x, (f x).parts = x.parts) :
    (s.onPkg p f).partCores = s.partCores := by
  have hpo : (s.onPkg p f).partOf = s.partOf := by
    funext pkg die
    unfold State.partOf
    rw [s.parts_onPkg p pkg hf]
  unfold State.partCores
  rw [hpo]
  rfl

theorem State.drained_onPkg (s : State) (p : Nat) {f : Pkg → Pkg} (hf : ∀ x, (f x).parts = x.parts) :
    (s.onPkg p f).drained = s.drained := by
  have hsup : (s.onPkg p f).sup = s.sup := rfl
  have hsettle (key n : Nat) : ((s.onPkg p f).settle key n).mem = (s.settle key n).mem :=
    (congrArg State.mem (State.settle_withMemory (s.onPkg p f) s key n) :)
  have hq : (s.onPkg p f).queueDesc = s.queueDesc := by
    funext pkg part q
    unfold State.queueDesc State.queueAt State.readNat
    rw [hsup, s.partDie_onPkg p hf]
    dsimp only
    rw [hsettle]
  unfold State.drained
  rw [hq, s.partCores_onPkg p hf]
  rfl

/-- The merge as its scheduler sees it now: the tails anew once they are 4,096 clocks old. -/
def State.seenMerge (s : State) (p : Nat) (m : Merge) : Merge :=
  if decide (m.seenAt + tailTime ≤ s.time) then
    { m with seen := (s.tailsOf p m.q).foldl (fun r e => r.put e.1 e.2) (s.tailsOf p m.p), seenAt := s.time } else m

theorem State.mergeOn_eq (s : State) (p : Nat) (m : Merge) : s.mergeOn p m =
    let w := s.onPkg p fun x => { x with merges := x.merges.map fun y => if y == m then s.seenMerge p m else y }
    if s.time < m.since + mergeLimit ∧ s.drained p m.p (s.seenMerge p m) ∧ s.drained p m.q (s.seenMerge p m) then
      w.finishMerge p (s.seenMerge p m) else w := by
  have hd := s.drained_onPkg p (f := fun x => { x with merges := x.merges.map fun y => if y == m then s.seenMerge p m else y })
    fun _ => rfl
  dsimp only
  rw [← hd]
  rfl

theorem exec_mergeRequest_goesOn (hx : s.present pkg.toNat fn.toNat = true)
    (hsome : (s.pkg pkg.toNat).merges.find? (fun m => m.p == fn.toNat) = some m) :
    exec (.mergeRequest pkg fn mask) s = .next (s.mergeOn pkg.toNat m) := by
  refine congrArg Host.Outcome.next ?_
  unfold State.mergeStep
  rw [hx, hsome]
  exact if_neg Bool.false_ne_true

theorem State.seenMerge_p (s : State) (p : Nat) (m : Merge) : (s.seenMerge p m).p = m.p := by
  unfold State.seenMerge
  split <;> rfl

theorem State.seenMerge_q (s : State) (p : Nat) (m : Merge) : (s.seenMerge p m).q = m.q := by
  unfold State.seenMerge
  split <;> rfl

/-- A merge whose partitions are drained in time is finished. -/
theorem State.mergeOn_finishes {p : Nat} {m1 : Merge} (h1 : s.seenMerge p m = m1) (ht : s.time < m.since + 2 ^ 24)
    (hp : s.drained p m.p m1 = true) (hq : s.drained p m.q m1 = true) :
    ((s.mergeOn p m).control p m.p).mst = 2 ∧ m1 ∉ ((s.mergeOn p m).pkg p).merges ∧
      ((s.mergeOn p m).pkg p).parts = ((s.pkg p).parts.del (max m.p m.q)).put (min m.p m.q)
        ((s.pkg p).parts.get 0 (min m.p m.q) ||| (s.pkg p).parts.get 0 (max m.p m.q)) := by
  have hw := State.finishMerge_finishes
    (s.onPkg p fun x => { x with merges := x.merges.map fun y => if y == m then s.seenMerge p m else y }) p (s.seenMerge p m)
  rw [State.pkg_onPkg_same, State.seenMerge_p, State.seenMerge_q] at hw
  rw [State.mergeOn_eq]
  dsimp only
  rw [if_pos ⟨ht, by rw [h1]; exact ⟨hp, hq⟩⟩, ← h1]
  exact hw

/-- A merge that waits has seen the tails anew. -/
theorem State.mergeOn_waits {p : Nat} {m1 : Merge} (h1 : s.seenMerge p m = m1) (hm : m ∈ (s.pkg p).merges)
    (hp : s.drained p m.p m1 = false) :
    m1 ∈ ((s.mergeOn p m).pkg p).merges ∧ ((s.mergeOn p m).pkg p).parts = (s.pkg p).parts ∧ (s.mergeOn p m).mem = s.mem := by
  rw [State.mergeOn_eq]
  dsimp only
  rw [h1, if_neg (by rw [hp]; simp), State.pkg_onPkg_same]
  exact ⟨List.mem_map.2 ⟨m, hm, if_pos (beq_self_eq_true m)⟩, rfl, rfl⟩

/-- The tails are fresh enough: the scheduler looks at the merge as it stands. -/
theorem State.seenMerge_fresh (p : Nat) (h : s.time < m.seenAt + 4096) : s.seenMerge p m = m := by
  unfold State.seenMerge
  exact if_neg fun hd => absurd (of_decide_eq_true hd) (Nat.not_le.2 h)

theorem State.seenMerge_stale (p : Nat) (h : m.seenAt + 4096 ≤ s.time) : s.seenMerge p m =
    { m with seen := (s.tailsOf p m.q).foldl (fun r e => r.put e.1 e.2) (s.tailsOf p m.p), seenAt := s.time } := by
  unfold State.seenMerge
  exact if_pos (decide_eq_true h)

theorem exec_mergeDrainTimeout
    (h : (s.pkg pkg.toNat).merges.find? (fun m => decide (m.since + 2 ^ 24 ≤ s.time)) = some m) :
    ∃ v, exec (.mergeDrainTimeout pkg) s = .next v ∧ m ∉ (v.pkg pkg.toNat).merges ∧ (v.control pkg.toNat m.p).mst = 3 ∧
      (v.pkg pkg.toNat).parts = (s.pkg pkg.toNat).parts ∧ v.mem = s.mem := by
  let w := (s.markPart pkg.toNat m.p false).markPart pkg.toNat m.q false
  let x := w.onPkg pkg.toNat fun p => { p with merges := p.merges.filter (· != m) }
  have hw : w.pkg pkg.toNat = s.pkg pkg.toNat := by rw [State.pkg_markPart, State.pkg_markPart]
  have hx : x.pkg pkg.toNat = { s.pkg pkg.toNat with merges := (s.pkg pkg.toNat).merges.filter (· != m) } := by
    rw [State.pkg_onPkg_same, hw]
  refine ⟨x.onControl pkg.toNat m.p fun c => { c with mst := 3 }, ?_, ?_, ?_, ?_, ?_⟩
  · refine congrArg Host.Outcome.next ?_
    rw [show (s.pkg pkg.toNat).merges.find? (fun m => decide (m.since + mergeLimit ≤ s.time)) = some m from h]
  · rw [State.pkg_onControl, hx]
    exact fun hm => absurd (List.mem_filter.1 hm).2 (by simp)
  · rw [State.control_onControl]
  · rw [State.pkg_onControl, hx]
  · exact (State.mem_markPart _ _ _ _).trans (s.mem_markPart _ _ _)

end Merging

/-! ## Attestation and boot (R388 to R390) -/

section Attest

variable {s : State} {pkg : BitVec 10} {fn : BitVec 2}

/-- What stands first in a write is read back from its start. -/
theorem memRead_memWrite_prefix {m : List Host.Cell} (a : Nat) (bs cs : List Byte) (h : Memory.wf m = true) :
    memRead (memWrite m a (bs ++ cs)) a bs.length = bs := by
  refine List.ext_getElem (memRead_length _ _ _) fun i hi hi' => ?_
  have hg := memRead_get (memWrite m a (bs ++ cs)) a bs.length i hi'
  rw [memGet_memWrite_at (bs ++ cs) a i h (by rw [List.length_append]; omega), List.getElem?_eq_getElem hi,
    List.getElem_append_left hi'] at hg
  exact Option.some.inj hg

theorem digestBytes_length (d : BitVec 256) : (digestBytes d).length = 32 := by
  unfold digestBytes
  rw [List.length_reverse, toBytes_length]

theorem State.reportBody_length (s : State) (p f : Nat) (nonce : Word) : (s.reportBody p f nonce).length = 320 := by
  unfold State.reportBody
  simp [toBytes_length, digestBytes_length, List.length_flatMap]

theorem State.control_onPkg (s : State) (p f : Nat) {g : Pkg → Pkg} (hg : ∀ x, (g x).control = x.control) :
    (s.onPkg p g).control p f = s.control p f := by
  unfold State.control
  rw [State.pkg_onPkg_same, hg]

/-- A report stands in the memory of its host. -/
def State.attested (s : State) (p f a : Nat) (bs : List Byte) : State :=
  ((s.hostPut p a bs).onPkg p fun x => { x with draws := x.draws + 1, reporting := some f }).onControl p f
    fun c => { c with asked := none }

theorem State.attested_mem (s : State) (p f a : Nat) (bs : List Byte) : (s.attested p f a bs).mem = s.mem := rfl

theorem State.attested_cores (s : State) (p f a : Nat) (bs : List Byte) : (s.attested p f a bs).cores = s.cores := rfl

theorem State.attested_hostMem (s : State) (p f a : Nat) (bs : List Byte) :
    (s.attested p f a bs).hostMem = memWrite s.hostMem (hostKey p a) bs := rfl

theorem State.control_hostPut (s : State) (p a : Nat) (bs : List Byte) (q f : Nat) : (s.hostPut p a bs).control q f = s.control q f := rfl

theorem State.control_attested (s : State) (p f a : Nat) (bs : List Byte) :
    (s.attested p f a bs).control p f = { s.control p f with asked := none } := by
  unfold State.attested
  rw [State.control_onControl, State.control_onPkg, State.control_hostPut]
  exact fun _ => rfl

theorem State.reporting_attested (s : State) (p f a : Nat) (bs : List Byte) : ((s.attested p f a bs).pkg p).reporting = some f := by
  unfold State.attested
  rw [State.pkg_onControl, State.pkg_onPkg_same]

theorem State.attest_asked {p f : Nat} {nonce raddr : Word} (hr : (s.pkg p).reporting = none)
    (ha : (s.control p f).asked = some (nonce, raddr)) : s.attest p f = s.attested p f raddr.toNat
      (s.reportBody p f nonce ++ rsaSign p (s.pkg p).draws (digestBytes (sha256 (s.reportBody p f nonce)))) := by
  unfold State.attest
  rw [hr, ha]
  rfl

theorem exec_attestationRequest (hx : s.present pkg.toNat fn.toNat = true) (hq : (s.control pkg.toNat fn.toNat).areq = false)
    (hr : (s.pkg pkg.toNat).reporting = none) :
    ∃ v, exec (.attestationRequest pkg fn) s = .next v ∧ (v.control pkg.toNat fn.toNat).areq = true ∧
      (v.control pkg.toNat fn.toNat).asked = none ∧ (v.pkg pkg.toNat).reporting = some fn.toNat ∧ v.mem = s.mem ∧ v.cores = s.cores ∧
      (s.Canon → memRead v.hostMem (hostKey pkg.toNat (s.control pkg.toNat fn.toNat).raddr.toNat) 320 =
        s.reportBody pkg.toNat fn.toNat (s.control pkg.toNat fn.toNat).nonce) := by
  let c := s.control pkg.toNat fn.toNat
  let r := s.askReport pkg.toNat fn.toNat
  have hctl : r.control pkg.toNat fn.toNat = { c with areq := true, asked := some (c.nonce, c.raddr) } := by
    refine (s.control_onControl _ _ _).trans ?_
    rw [hq]
    rfl
  have hpkg : (r.pkg pkg.toNat).reporting = none ∧ (r.pkg pkg.toNat).meas = (s.pkg pkg.toNat).meas ∧
      (r.pkg pkg.toNat).parts = (s.pkg pkg.toNat).parts := by
    unfold r State.askReport
    rw [State.pkg_onControl]
    exact ⟨hr, rfl, rfl⟩
  obtain ⟨hrep, hmeas, hparts⟩ := hpkg
  have hbody : r.reportBody pkg.toNat fn.toNat c.nonce = s.reportBody pkg.toNat fn.toNat c.nonce := by
    unfold State.reportBody
    dsimp only
    rw [hmeas, hparts]
  have hatt := State.attest_asked hrep (congrArg Control.asked hctl)
  have hexec : exec (.attestationRequest pkg fn) s = .next (r.attest pkg.toNat fn.toNat) := congrArg Host.Outcome.next (if_pos hx)
  rw [hatt, hbody] at hexec
  refine ⟨_, hexec, ?_, ?_, State.reporting_attested _ _ _ _ _, State.attested_mem _ _ _ _ _, State.attested_cores _ _ _ _ _, fun hc => ?_⟩
  · rw [State.control_attested, hctl]
  · rw [State.control_attested]
  · have h := memRead_memWrite_prefix (hostKey pkg.toNat c.raddr.toNat) (s.reportBody pkg.toNat fn.toNat c.nonce)
      (rsaSign pkg.toNat (r.pkg pkg.toNat).draws (digestBytes (sha256 (s.reportBody pkg.toNat fn.toNat c.nonce)))) hc.hostMem
    rw [State.reportBody_length] at h
    rw [State.attested_hostMem]
    exact h

end Attest
/-- What a run over the numbers below `n` that rewrites each entry by itself leaves at each. -/
theorem SMap.get_foldl_put {α : Type} (d : α) (g : Nat → α → α) (m : SMap α) (n r : Nat) :
    ((List.range n).foldl (fun m i => m.put i (g i (m.get d i))) m).get d r = if r < n then g r (m.get d r) else m.get d r := by
  induction n with
  | zero => rfl
  | succ n ih =>
    rw [List.range_succ, List.foldl_append, List.foldl_cons, List.foldl_nil]
    rcases Nat.lt_trichotomy r n with h | rfl | h
    · rw [SMap.get_put_other _ _ _ (by omega), ih, if_pos h, if_pos (by omega)]
    · rw [SMap.get_put_same, if_pos (by omega), ih, if_neg (by omega)]
    · rw [SMap.get_put_other _ _ _ (by omega), ih, if_neg (by omega), if_neg (by omega)]

/-- The quadrants of a package tested (R355). -/
def State.bootTested (s : State) (p : Nat) : State := (List.range 16).foldl (fun u i => u.onQuad (16 * p + i) (Quad.tested (16 * p + i))) s

theorem State.pkg_bootTested (s : State) (p j : Nat) : (s.bootTested p).pkg j = s.pkg j :=
  foldl_field (fun u : State => u.pkg j) _ (fun u i => u.onQuad (16 * p + i) (Quad.tested (16 * p + i))) (fun _ _ => rfl) s

theorem State.mem_bootTested (s : State) (p : Nat) : (s.bootTested p).mem = s.mem :=
  foldl_field State.mem _ (fun u i => u.onQuad (16 * p + i) (Quad.tested (16 * p + i))) (fun _ _ => rfl) s

/-- A package that is up (R388, R389). -/
def Pkg.up (v : Pkg) (p : Nat) : Pkg :=
  { v with
    off := false, booted := true, parts := bootParts p, bounds := (bootParts p).foldl (fun m e => openBounds e.2 m) [],
    meas := (List.range 4).foldl (fun m i => m.put i (extend (m.get 0 i) (Config.bootDigest p i))) v.meas }

theorem Pkg.up_rule (p : Nat) (v : Pkg) : (v.up p).booted = true ∧ (v.up p).parts = bootParts p ∧
    (v.up p).meas = (List.range 4).foldl (fun m i => m.put i (extend (m.get 0 i) (Config.bootDigest p i))) v.meas :=
  ⟨rfl, rfl, rfl⟩

theorem State.mem_onPkg (s : State) (p : Nat) (f : Pkg → Pkg) : (s.onPkg p f).mem = s.mem := rfl

theorem exec_boot_eq {s : State} {pkg : BitVec 10} (hb : (s.pkg pkg.toNat).booted = false) (hf : (s.pkg pkg.toNat).bootFailed = false) :
    exec (.boot pkg) s = .next (if (List.range 4).all (imageGood pkg.toNat) then (s.bootTested pkg.toNat).onPkg pkg.toNat (Pkg.up · pkg.toNat)
      else s.onPkg pkg.toNat fun v => { v with off := false, bootFailed := true }) := by
  refine congrArg Host.Outcome.next ?_
  dsimp only
  rw [hb, hf]
  rfl

theorem exec_boot {s : State} {pkg : BitVec 10} (hb : (s.pkg pkg.toNat).booted = false) (hf : (s.pkg pkg.toNat).bootFailed = false) :
    ∃ v, exec (.boot pkg) s = .next v ∧ v.mem = s.mem ∧
      if (List.range 4).all (imageGood pkg.toNat) = true then (v.pkg pkg.toNat).booted = true ∧ (v.pkg pkg.toNat).parts = bootParts pkg.toNat ∧
        ∀ r, r < 4 → (v.pkg pkg.toNat).meas.get 0 r = extend ((s.pkg pkg.toNat).meas.get 0 r) (Config.bootDigest pkg.toNat r)
      else (v.pkg pkg.toNat).bootFailed = true ∧ (v.pkg pkg.toNat).parts = (s.pkg pkg.toNat).parts := by
  refine ⟨_, exec_boot_eq hb hf, ?_⟩
  by_cases hg : (List.range 4).all (imageGood pkg.toNat) = true
  · rw [if_pos hg, if_pos hg, State.mem_onPkg, State.pkg_onPkg_same, State.pkg_bootTested]
    obtain ⟨hbooted, hparts, hmeas⟩ := (s.pkg pkg.toNat).up_rule pkg.toNat
    refine ⟨s.mem_bootTested _, hbooted, hparts, fun r hr => ?_⟩
    rw [hmeas, SMap.get_foldl_put 0 (fun i m => extend m (Config.bootDigest pkg.toNat i)), if_pos hr]
  · rw [if_neg hg, if_neg hg, State.mem_onPkg, State.pkg_onPkg_same]
    exact ⟨rfl, rfl, rfl⟩

/-! ## Power, clocks, memory and labels (R269, R385, R391) -/

theorem exec_islandClockChange (s : State) (pkg : BitVec 10) {i mhz : Nat} (mv : Nat) (hi : i < 1152)
    (ht : i < 1056 → 1200 ≤ mhz ∧ mhz ≤ 4400) :
    ∃ v, exec (.islandClockChange pkg i mhz mv) s = .next v ∧ v.island pkg.toNat i = (mhz, mv) ∧ v.mem = s.mem ∧ v.cores = s.cores := by
  refine ⟨_, congrArg Host.Outcome.next (if_pos ⟨hi, ht⟩), ?_, rfl, rfl⟩
  unfold State.island
  rw [State.pkg_onPkg_same]
  exact SMap.get_put_same _ _ _ _

theorem exec_cxlHotRemove (s : State) (pkg : BitVec 10) (port : BitVec 1) (cap : Nat) :
    ∃ v, exec (.cxlHotRemove pkg port cap) s = .next v ∧
      (v.pkg pkg.toNat).cxl.find port.toNat = some (min (cap / 2 ^ 28 * 2 ^ 28) (2 ^ 42)) ∧ v.mem = s.mem ∧ v.cores = s.cores := by
  refine ⟨_, rfl, ?_, rfl, rfl⟩
  rw [State.pkg_onPkg_same]
  exact SMap.find_put_same _ _ _

theorem exec_powerOff (s : State) (pkg : BitVec 10) :
    ∃ v, exec (.powerOff pkg) s = .next v ∧ (v.pkg pkg.toNat).off = true ∧ (v.pkg pkg.toNat).meas = [] ∧ (v.pkg pkg.toNat).parts = [] ∧
      (v.pkg pkg.toNat).booted = false := by
  refine ⟨_, rfl, ?_⟩
  rw [State.pkg_onPkg_same]
  exact ⟨rfl, rfl, rfl, rfl⟩

theorem exec_kernelLabel (s : State) (pkg : BitVec 10) (fn : BitVec 2) (ctx : BitVec 12) (entry : Word) {l : Kernel}
    (hl : l ∈ (s.pkg pkg.toNat).kernels) (hp : l.part = fn.toNat) (hc : l.ctx = ctx.toNat) (he : l.entry = entry) (hn : l.label = none)
    (ht : l.since + 2 ^ 20 ≤ s.time) :
    ∃ v, exec (.kernelLabel pkg fn ctx entry) s = .next v ∧ v.mem = s.mem ∧ v.cores = s.cores ∧
      { l with label := some (labelOf l.d l.o) } ∈ (v.pkg pkg.toNat).kernels := by
  refine ⟨_, rfl, rfl, rfl, ?_⟩
  rw [State.pkg_onPkg_same]
  refine List.mem_map.2 ⟨l, hl, if_pos ?_⟩
  have ht' : l.since + measureTime ≤ s.time := ht
  simp [hp, hc, he, hn, ht']

/-! ## What is declared or powered off stays so (R353, R391)

No operation of the memory system, of the compacts or of the cores declares a package dead or alive, or powers a die. -/

/-- Which packages are declared dead and which dies are off. -/
def State.downs (s : State) : (Nat → Bool) × (Nat → Bool) := (fun p => (s.pkg p).dead, fun d => (s.die d).off)

section Downs

variable (s : State)

/-! ### The rules of the state -/

@[simp] theorem State.downs_onCore (k : Nat) (f : Core → Core) : (s.onCore k f).downs = s.downs := rfl
@[simp] theorem State.downs_setCore (k : Nat) (c : Core) : (s.setCore k c).downs = s.downs := rfl
@[simp] theorem State.downs_onTile (t : Nat) (f : Tile → Tile) : (s.onTile t f).downs = s.downs := rfl
@[simp] theorem State.downs_setTile (t : Nat) (v : Tile) : (s.setTile t v).downs = s.downs := rfl
@[simp] theorem State.downs_onSector (n : Nat) (f : Sector → Sector) : (s.onSector n f).downs = s.downs := rfl
@[simp] theorem State.downs_setMark (key : Nat) (b : Bool) : (s.setMark key b).downs = s.downs := rfl
@[simp] theorem State.downs_setFull (key : Nat) (b : Bool) : (s.setFull key b).downs = s.downs := rfl
@[simp] theorem State.downs_zeroRange (key n : Nat) : (s.zeroRange key n).downs = s.downs := rfl

theorem State.downs_onPkg (p : Nat) {f : Pkg → Pkg} (hf : ∀ x, (f x).dead = x.dead) : (s.onPkg p f).downs = s.downs := by
  refine Prod.ext (funext fun q => ?_) rfl
  by_cases h : q = p
  · subst h
    exact (congrArg Pkg.dead (State.pkg_onPkg_same s q f)).trans (hf _)
  · exact congrArg Pkg.dead (SMap.get_put_other _ _ _ h)

theorem State.downs_onDie (d : Nat) {f : Die → Die} (hf : ∀ x, (f x).off = x.off) : (s.onDie d f).downs = s.downs := by
  refine Prod.ext rfl (funext fun e => ?_)
  by_cases h : e = d
  · subst h
    exact (congrArg Die.off (State.die_onDie_same s e f)).trans (hf _)
  · exact congrArg Die.off (SMap.get_put_other _ _ _ h)

@[simp] theorem State.downs_onBar (d b : Nat) (f : Barrier → Barrier) : (s.onBar d b f).downs = s.downs := s.downs_onDie d fun _ => rfl
@[simp] theorem State.downs_setSup (d n : Nat) (v : Word) : (s.setSup d n v).downs = s.downs := s.downs_onDie d fun _ => rfl

/-- A run of operations none of which declares anything. -/
theorem State.downs_foldl {α : Type} {f : State → α → State} (hf : ∀ (t : State) x, (f t x).downs = t.downs) (l : List α) :
    (l.foldl f s).downs = s.downs :=
  foldl_field State.downs l f hf s

/-- What every step of a fold leaves of its state, the fold leaves. -/
theorem foldl_field_fst {α β γ : Type} (F : State → β) (l : List α) (f : State × γ → α → State × γ)
    (hf : ∀ (r : State × γ) x, F (f r x).1 = F r.1) (r : State × γ) : F (l.foldl f r).1 = F r.1 := by
  induction l generalizing r with
  | nil => rfl
  | cons x l ih => exact (ih _).trans (hf r x)

/-! ### Memory -/

@[simp] theorem State.downs_store (key : Nat) (bs : List Byte) : (s.store key bs).downs = s.downs :=
  (congrArg State.downs (s.store_rest key bs)).symm

@[simp] theorem State.downs_storeNat (key n v : Nat) : (s.storeNat key n v).downs = s.downs := s.downs_store _ _

@[simp] theorem State.downs_gather (key n : Nat) : (s.gather key n).downs = s.downs :=
  (congrArg State.downs (s.gather_withMemory s key n) :)

@[simp] theorem State.downs_recall (key : Nat) : (s.recall key).downs = s.downs := (congrArg State.downs (s.recall_withMemory s key) :)

@[simp] theorem State.downs_settle (key n : Nat) : (s.settle key n).downs = s.downs :=
  (congrArg State.downs (s.settle_withMemory s key n) :)

@[simp] theorem State.downs_settleRange (key n : Nat) : (s.settleRange key n).downs = s.downs :=
  (congrArg State.downs (s.settleRange_withMemory s key n) :)

@[simp] theorem State.downs_fillBlock (t pa : Nat) (keep low : Bool) : (s.fillBlock t pa keep low).downs = s.downs :=
  (congrArg State.downs (s.fillBlock_withMemory s rfl t pa keep low) :)

@[simp] theorem State.downs_writeBlock (t : Nat) (b : Block) : (s.writeBlock t b).downs = s.downs :=
  (congrArg State.downs (s.writeBlock_withMemory s t b) :)

@[simp] theorem State.downs_dropBlock (t pa : Nat) : (s.dropBlock t pa).downs = s.downs :=
  (congrArg State.downs (s.dropBlock_withMemory s t pa) :)

@[simp] theorem State.downs_makeRoom (t : Nat) : (s.makeRoom t).downs = s.downs := (congrArg State.downs (s.makeRoom_withMemory s t) :)

@[simp] theorem State.downs_flushCache (t : Nat) : (s.flushCache t).downs = s.downs :=
  (congrArg State.downs (State.flushCache_withMemory s s t) :)

@[simp] theorem State.downs_setFulls (key n : Nat) (b : Bool) : (s.setFulls key n b).downs = s.downs :=
  State.downs_foldl s (fun t _ => t.downs_setFull _ b) _

@[simp] theorem State.downs_setWhole (key n : Nat) : (s.setWhole key n).downs = s.downs :=
  State.downs_foldl s (fun t _ => t.downs_setFull _ true) _

@[simp] theorem State.downs_raiseClock (t w : Nat) : (s.raiseClock t w).downs = s.downs := rfl

@[simp] theorem State.downs_raiseClk (k w : Nat) : (s.raiseClk k w).downs = s.downs := by
  unfold State.raiseClk
  split <;> rfl

@[simp] theorem State.downs_sawStamps (k key n : Nat) : (s.sawStamps k key n).downs = s.downs := s.downs_raiseClk _ _

@[simp] theorem State.downs_stamp (k key n : Nat) : (s.stamp k key n).downs = s.downs := rfl

@[simp] theorem State.downs_touch (t pa : Nat) : (s.touch t pa).downs = s.downs := rfl

@[simp] theorem State.downs_dieSaw (d pa w : Nat) : (s.dieSaw d pa w).downs = s.downs := rfl

@[simp] theorem State.downs_homeSeen (k pa : Nat) : (s.homeSeen k pa).downs = s.downs := s.downs_raiseClk _ _

@[simp] theorem State.downs_dropCopies (key n : Nat) : (s.dropCopies key n).downs = s.downs := rfl

@[simp] theorem State.downs_grant (k pa : Nat) : (s.grant k pa).1.downs = s.downs := State.downs_raiseClk _ _ _

@[simp] theorem State.downs_takeHome (key n : Nat) : (s.takeHome key n).downs = s.downs := by
  unfold State.takeHome
  split
  · refine State.downs_foldl s (fun u w => ?_) _
    dsimp only
    split <;> rfl
  · rfl

@[simp] theorem State.downs_fixStore (key : Nat) (bs : List Byte) : (s.fixStore key bs).downs = s.downs := by
  unfold State.fixStore
  split <;> simp

@[simp] theorem State.downs_bankStore (k key : Nat) (bs : List Byte) : (s.bankStore k key bs).downs = s.downs := by
  unfold State.bankStore
  simp

@[simp] theorem State.downs_homeWrite (k : Option Nat) (pa : Nat) (bs : List Byte) : (s.homeWrite k pa bs).1.downs = s.downs := by
  unfold State.homeWrite
  cases k <;> simp

@[simp] theorem State.downs_engineWrite (key : Nat) (bs : List Byte) (full : Bool) : (s.engineWrite key bs full).downs = s.downs := by
  unfold State.engineWrite
  dsimp only
  split
  · simp
  · split <;> simp

@[simp] theorem State.downs_tally (k d o : Nat) : (s.tally k d o).downs = s.downs := by
  unfold State.tally
  split
  · rfl
  · exact s.downs_onPkg _ fun _ => rfl

@[simp] theorem State.downs_acceptRed (die key : Nat) (op : AmoOp) (ty : ITy) (v : Word) : (s.acceptRed die key op ty v).downs = s.downs := by
  have hp (u : State) (ps : List Partial) : { u with partials := ps }.downs = u.downs := rfl
  unfold State.acceptRed
  dsimp only
  split_ifs <;> rw [hp] <;> simp

/-! ### Loads and reads -/

@[simp] theorem State.downs_cachedRead (t pa n : Nat) (hint : Hint) : (s.cachedRead t pa n hint).1.downs = s.downs := by
  unfold State.cachedRead
  dsimp only
  split <;> simp

@[simp] theorem State.downs_fetchBytes (k key n : Nat) (hint : Hint) : (s.fetchBytes k key n hint).1.downs = s.downs := by
  unfold State.fetchBytes
  split
  · split
    · simp
    · split
      · split <;> simp
      · simp
  · simp

@[simp] theorem State.downs_seenBytes (k : Nat) (older : List Store) (key n : Nat) (hint : Hint) :
    (s.seenBytes k older key n hint).1.downs = s.downs := s.downs_fetchBytes _ _ _ _

@[simp] theorem State.downs_loadBytes (k key n : Nat) (hint : Hint) : (s.loadBytes k key n hint).1.downs = s.downs :=
  s.downs_seenBytes _ _ _ _ _

@[simp] theorem State.downs_roRead (t pa n : Nat) : (s.roRead t pa n).1.downs = s.downs := by
  unfold State.roRead
  dsimp only
  split <;> simp

@[simp] theorem State.downs_roBytes (k key n : Nat) : (s.roBytes k key n).1.downs = s.downs := by
  unfold State.roBytes
  split <;> simp

@[simp] theorem State.downs_engineSaw (k key n : Nat) : (s.engineSaw k key n).downs = s.downs := by
  unfold State.engineSaw State.seenRange
  split
  · exact (State.downs_foldl _ (fun t i => t.downs_homeSeen _ _) _).trans (s.downs_tally _ _ _)
  · simp

@[simp] theorem State.downs_engineRead (k : Option Nat) (key n : Nat) : (s.engineRead k key n).1.downs = s.downs := by
  unfold State.engineRead
  cases k <;> simp

@[simp] theorem State.downs_hostGet (key n : Nat) : (s.hostGet key n).downs = s.downs := by
  unfold State.hostGet
  refine foldl_field_fst State.downs _ _ (fun r i => ?_) (s, [])
  exact State.downs_engineRead r.1 none _ _

/-! ### Stores -/

@[simp] theorem State.downs_cachedWrite (k pa : Nat) (bs : List Byte) (hint : Hint) : (s.cachedWrite k pa bs hint).1.downs = s.downs := by
  unfold State.cachedWrite
  dsimp only
  split_ifs <;> simp

@[simp] theorem State.downs_tallyWrite (k key : Nat) (hint : Hint) : (s.tallyWrite k key hint).downs = s.downs := by
  unfold State.tallyWrite
  dsimp only
  split <;> simp

@[simp] theorem State.downs_writeChunk (k key : Nat) (bs : List Byte) (full : Bool) (hint : Hint) :
    (s.writeChunk k key bs full hint).1.downs = s.downs := by
  unfold State.writeChunk
  split
  · split
    · simp
    · split <;> simp
  · dsimp only
    split <;> simp

@[simp] theorem State.downs_writeAt (k key : Nat) (bs : List Byte) (full : Bool) (hint : Hint) :
    (s.writeAt k key bs full hint).1.downs = s.downs := by
  unfold State.writeAt
  refine foldl_field_fst State.downs _ _ (fun r i => ?_) (s, 0)
  exact State.downs_writeChunk r.1 _ _ _ _ _

@[simp] theorem State.downs_addFlight (k w : Nat) (sc : Scope) (seq key : Nat) : (s.addFlight k w sc seq key).downs = s.downs := by
  unfold State.addFlight
  split <;> rfl

@[simp] theorem State.downs_loseWrite (k cause p : Nat) : (s.loseWrite k cause p).downs = s.downs := rfl

@[simp] theorem State.downs_popStore (k : Nat) : (s.popStore k).downs = s.downs := rfl

@[simp] theorem State.downs_refuseAt (k : Nat) (va pc : Word) : (s.refuseAt k va pc).downs = s.downs := rfl

@[simp] theorem State.downs_reduceAt (k key : Nat) (op : AmoOp) (ty : ITy) (v : Word) : (s.reduceAt k key op ty v).1.downs = s.downs := by
  unfold State.reduceAt
  dsimp only
  split <;> simp

@[simp] theorem State.downs_performStore (k : Nat) (e : Store) : (s.performStore k e).downs = s.downs := by
  unfold State.performStore
  dsimp only
  split
  · simp
  · simp
  · simp
  · split <;> simp
  · split <;> simp

@[simp] theorem State.downs_drainStore (k : Nat) : (s.drainStore k).downs = s.downs := by
  unfold State.drainStore
  split
  · rfl
  · split
    · rfl
    · split
      · simp
      · simp
      · split <;> simp

/-! ### Loads that complete -/

@[simp] theorem State.downs_writeHome (k i : Nat) : (s.writeHome k i).downs = s.downs := by
  unfold State.writeHome
  dsimp only
  split_ifs <;> simp

@[simp] theorem State.downs_trimRc (k n : Nat) : (s.trimRc k n).downs = s.downs := by
  unfold State.trimRc
  refine (State.downs_onCore _ _ _).trans (State.downs_foldl s (fun t e => ?_) _)
  split <;> simp

@[simp] theorem State.downs_fill (k : Nat) (reads writes : List Nat) : (s.fill k reads writes).downs = s.downs := State.downs_trimRc _ _ _

@[simp] theorem State.downs_lateWrite (k : Nat) (words : List Nat) (f : Core → Core) : (s.lateWrite k words f).downs = s.downs := by
  unfold State.lateWrite
  split
  · simp
  · exact State.downs_foldl _ (fun t i => t.downs_writeHome k i) _

@[simp] theorem State.downs_retireLoad (k : Nat) (l : Load) (bad : Bool) (f : Core → Core) : (s.retireLoad k l bad f).downs = s.downs :=
  State.downs_lateWrite _ _ _ _

@[simp] theorem State.downs_atomicBank (k key w : Nat) (f : Word → Option Word) : (s.atomicBank k key w f).s.downs = s.downs := by
  unfold State.atomicBank
  dsimp only
  split <;> simp

@[simp] theorem State.downs_atomicAt (k key : Nat) (ty : ITy) (f : Word → Option Word) : (s.atomicAt k key ty f).s.downs = s.downs := by
  unfold State.atomicAt
  dsimp only
  split
  · split
    · simp
    · split <;> simp
  · simp

@[simp] theorem State.downs_performAtomic (k : Nat) (l : Load) (value : Nat → Word) : (s.performAtomic k l value).downs = s.downs :=
  s.downs_atomicAt _ _ _ _

@[simp] theorem State.downs_leaveLine (k key : Nat) (load : Option Nat) : (s.leaveLine k key load).downs = s.downs := rfl

@[simp] theorem State.downs_lineUp (k key : Nat) (load : Option Nat) : (s.lineUp k key load).downs = s.downs := by
  unfold State.lineUp
  dsimp only
  split <;> rfl

@[simp] theorem State.downs_performLoad (k : Nat) (l : Load) : (s.performLoad k l).downs = s.downs := by
  unfold State.performLoad
  dsimp only
  split
  · simp
  · simp
  · simp
  · simp
  · split <;> simp
  · split_ifs <;> simp

/-! ### What a compact held -/

@[simp] theorem State.downs_onCmd (k age : Nat) (f : Cmd → Cmd) : (s.onCmd k age f).downs = s.downs := rfl

@[simp] theorem State.downs_completeWords (k age key n : Nat) : (s.completeWords k age key n).downs = s.downs := by
  unfold State.completeWords
  split
  · rfl
  · dsimp only
    split_ifs
    · exact State.downs_foldl s (fun u x => by split_ifs <;> rfl) _
    · rw [State.downs_onCmd]
      exact State.downs_foldl s (fun u x => by split_ifs <;> rfl) _

@[simp] theorem State.downs_countArrival (store obj n : Nat) : (s.countArrival store obj n).downs = s.downs := s.downs_storeNat _ _ _

@[simp] theorem State.downs_putHeld (p : HeldPut) : (s.putHeld p).downs = s.downs := by
  have hfull (u : State) (b : Bool) (key : Nat) : (if b then u.completeWords p.core p.age key p.len else u).downs = u.downs := by
    split <;> simp
  have hbad (u : State) (key : Nat) : (p.bad.foldl (fun u o => u.setMark (key + min o (p.len - 1)) true) u).downs = u.downs :=
    State.downs_foldl u (f := fun u o => u.setMark (key + min o (p.len - 1)) true) (fun _ _ => rfl) _
  have hposted (u : State) (l : List Posted) : { u with posted := l }.downs = u.downs := rfl
  unfold State.putHeld
  dsimp only
  split
  · split <;> simp only [State.downs_onCmd, State.downs_countArrival, hbad, hfull, State.downs_engineWrite, State.downs_engineRead]
  · split <;> simp only [hposted, State.downs_countArrival, hbad, hfull, State.downs_engineWrite, State.downs_engineRead]

@[simp] theorem State.downs_serveRead (core : Nat) (pc : Word) (va key n : Nat) : (s.serveRead core pc va key n).downs = s.downs := by
  unfold State.serveRead
  dsimp only
  split <;> simp

@[simp] theorem State.downs_serveAmax (core age key : Nat) (v : Word32) : (s.serveAmax core age key v).downs = s.downs := by
  unfold State.serveAmax
  split <;> simp

@[simp] theorem State.downs_serveGet (core age va key n : Nat) : (s.serveGet core age va key n).downs = s.downs := rfl

@[simp] theorem State.downs_servePut (p : HeldPut) : (s.servePut p).downs = s.downs := by
  unfold State.servePut
  split <;> simp

@[simp] theorem State.downs_serveOne (h : Held) : (s.serveOne h).downs = s.downs := by
  cases h with
  | load k q =>
    unfold State.serveOne
    dsimp only
    split
    · split_ifs <;> simp
    · rfl
  | store k q =>
    unfold State.serveOne
    dsimp only
    split
    · split <;> simp
    · rfl
  | read k pc va key n => exact s.downs_serveRead _ _ _ _ _
  | get k age va key n => exact s.downs_serveGet _ _ _ _ _
  | amax k age key v => exact s.downs_serveAmax _ _ _ _
  | put p => exact s.downs_servePut _
  | host key n => exact s.downs_hostGet _ _

@[simp] theorem State.downs_serveHeld (t : Nat) : (s.serveHeld t).downs = s.downs := by
  unfold State.serveHeld
  split
  · rfl
  · exact State.downs_foldl _ (fun u h => u.downs_serveOne h) _

@[simp] theorem State.downs_openTile (t : Nat) : (s.openTile t).downs = s.downs := by
  unfold State.openTile
  split
  · rfl
  · dsimp only
    rw [State.downs_foldl _ fun u e => u.downs_raiseClock t _]
    simp

@[simp] theorem State.downs_releaseTile (t tf : Nat) : (s.releaseTile t tf).downs = s.downs := by
  unfold State.releaseTile
  split
  · rfl
  · dsimp only
    rw [State.downs_zeroRange, State.downs_raiseClock, State.downs_onTile, State.downs_foldl _ fun u e => u.downs_onSector _ _]

@[simp] theorem State.downs_releaseAll (ts : List Nat) : (s.releaseAll ts).downs = s.downs :=
  (State.downs_foldl _ (fun u t => u.downs_releaseTile t _) ts).trans (State.downs_foldl s (fun u t => u.downs_openTile t) ts)

@[simp] theorem State.downs_freeBar (c : Compact) : (s.freeBar c).downs = s.downs :=
  State.downs_foldl s (fun t d => by split <;> simp) _

/-! ### What breaks -/

@[simp] theorem State.downs_tagDrop (k tag : Nat) : (s.tagDrop k tag).downs = s.downs := by
  unfold State.tagDrop State.setTagEntry
  dsimp only
  split <;> simp

@[simp] theorem State.downs_retireCmd (k : Nat) (d : Cmd) : (s.retireCmd k d).downs = s.downs := by
  unfold State.retireCmd
  dsimp only
  split <;> simp

@[simp] theorem State.downs_recordFault (k cause q w0 va : Nat) (tag : Option Nat) :
    (s.recordFault k cause q w0 va tag).downs = s.downs := by
  unfold State.recordFault State.setTagEntry
  dsimp only
  cases tag with
  | none =>
    dsimp only
    split <;> simp
  | some t =>
    dsimp only
    split <;> simp

@[simp] theorem State.downs_faultCmd (k : Nat) (d : Cmd) (cause va : Nat) : (s.faultCmd k d cause va).downs = s.downs := by
  unfold State.faultCmd State.noteDesc
  split <;> simp

@[simp] theorem State.downs_tellBroken (t : Nat) : (s.tellBroken t).downs = s.downs := by
  unfold State.tellBroken
  split <;> rfl

@[simp] theorem State.downs_breakSign (t : Nat) : (s.breakSign t).downs = s.downs := by
  unfold State.breakSign
  dsimp only
  split <;> rfl

@[simp] theorem State.downs_breakWork (t : Nat) : (s.breakWork t).downs = s.downs :=
  State.downs_foldl s (fun u _ => State.downs_foldl u (fun w d => (State.downs_retireCmd _ _ d).trans (w.downs_faultCmd _ d _ 0)) _) _

@[simp] theorem State.downs_breakWhole (c : Compact) : (s.breakWhole c).downs = s.downs := by
  have hsign := State.downs_foldl s (fun u t => u.downs_breakSign t) (s.joining c)
  have hwork := State.downs_foldl ((s.joining c).foldl State.breakSign s) (f := fun u t => (u.tellBroken t).breakWork t)
    (fun u t => (State.downs_breakWork _ t).trans (u.downs_tellBroken t)) (s.joined c)
  unfold State.breakWhole
  dsimp only
  rw [State.downs_freeBar, State.downs_releaseAll, hwork, hsign]

@[simp] theorem State.downs_breakAll (hit : Compact → Bool) : (s.breakAll hit).downs = s.downs :=
  State.downs_foldl s (fun u c => u.downs_breakWhole c) _

/-! ### A package that dies -/

@[simp] theorem State.downs_loseFlights (k p : Nat) : (s.loseFlights k p).downs = s.downs :=
  State.downs_foldl _ (fun u _ => u.downs_loseWrite k _ p) _

@[simp] theorem State.downs_keepFloors (k : Nat) : (s.keepFloors k).downs = s.downs :=
  State.field_keepFloors State.downs (fun _ _ => rfl) s k

theorem State.downs_losePackage (p : Nat) : (s.losePackage p).downs = s.downs := by
  unfold State.losePackage
  dsimp only
  rw [State.downs_foldl _ fun u k => u.downs_loseFlights k p, State.downs_breakAll, State.downs_onPkg]
  · refine (State.downs_foldl _ (fun u t => u.downs_flushCache t) _).trans ?_
    exact State.downs_foldl s (fun u k => u.downs_keepFloors k) _
  · exact fun _ => rfl

theorem State.downs_record (d lcn : Nat) (j : Job) (cause state how : Nat) (tpc tval pcore aux : Word) :
    (s.record d lcn j cause state how tpc tval pcore aux).downs = s.downs := by
  unfold State.record
  dsimp only
  rw [State.downs_onDie]
  · split
    · rfl
    · rw [State.downs_setSup, State.downs_storeNat]
  · exact fun _ => rfl

/-- A declaration declares its package, and nothing more. -/
theorem State.downs_declarePkg (p how : Nat) (by1 : Option Nat) (hd : (s.pkg p).dead = false) :
    (s.declarePkg p how by1).downs = (s.onPkg p fun x => { x with dead := true }).downs := by
  have hbits (u : State) (bit : Word) (live : List Nat) : (live.foldl (fun u q => (List.range 4).foldl (fun u d =>
      u.setSup (dieKey q d) (0x840 + p / 64) (u.sup (dieKey q d) (0x840 + p / 64) ||| bit)) u) u).downs = u.downs :=
    State.downs_foldl u (fun u q => State.downs_foldl u (fun u d => u.downs_setSup _ _ _) _) live
  unfold State.declarePkg
  dsimp only
  rw [hd]
  rw [if_neg Bool.false_ne_true]
  split
  · rw [State.downs_record, State.downs_losePackage, hbits]
  · rw [State.downs_losePackage, hbits]

theorem exec_thermalTrip (d : DieId) (h : (s.pkg d.pkg.toNat).dead = false) :
    ∃ v, exec (.thermalTrip d) s = .next v ∧ (v.pkg d.pkg.toNat).dead = true ∧
      (v.die (dieKey d.pkg.toNat d.die.toNat)).off = true := by
  let w := s.onDie (dieKey d.pkg.toNat d.die.toNat) fun v => { v with off := true }
  have hw : (w.die (dieKey d.pkg.toNat d.die.toNat)).off = true := congrArg Die.off (State.die_onDie_same _ _ _)
  have hdowns := w.downs_declarePkg d.pkg.toNat 3 none h
  refine ⟨w.declarePkg d.pkg.toNat 3 none, rfl, ?_, ?_⟩
  · refine (congrFun (congrArg Prod.fst hdowns) d.pkg.toNat).trans ?_
    exact congrArg Pkg.dead (State.pkg_onPkg_same _ _ _)
  · exact (congrFun (congrArg Prod.snd hdowns) (dieKey d.pkg.toNat d.die.toNat)).trans hw

end Downs



end Machine

/-! ## The statements -/

/-- Settles O60, clause by clause. -/
theorem cachesAndHost : Obligations.CachesAndHost := by
  unfold Obligations.CachesAndHost
  intro s t pa n o c va e pkg fn mask m off bs d i mhz mv cap port ctx entry b2
  dsimp only
  refine ⟨fun hc hb => ⟨_, exec_tileCacheFill hc hb, rfl⟩, exec_ownershipGrant, exec_logicalClockTick s t n, exec_clockMinUpdate s o pkg,
    exec_pageWalk, fun hp hr => ⟨exec_hostRead_ok hp hr, fun h0 hreg => ?_⟩, exec_hostRead_refused, fun hp hx hn => ?_,
    exec_hostWrite_ok, exec_hostWrite_refused, exec_hostWrite_nonce, fun hp hx => exec_hostWrite_absent hp hx b2, exec_mergeRequest_starts,
    fun hx hm ht hs hp hq => ?_, exec_mergeDrainTimeout, fun hx hm hs => ⟨fun hp => ?_, fun ht hp hq => ?_⟩, exec_attestationRequest, exec_boot,
    exec_thermalTrip s d, exec_islandClockChange s pkg mv, exec_cxlHotRemove s pkg port cap, exec_powerOff s pkg,
    fun l hl hp hc he hn ht => exec_kernelLabel s pkg fn ctx entry hl hp hc he hn ht⟩
  · rw [exec_hostRead_ok hp hr, State.hostGet_region s h0 hreg]
  · exact ⟨_, _, exec_hostRead_control hp hx hn, rfl, State.bar0_length _ _ _ _ _, fun j hj => State.bar0_getD _ _ _ _ hj⟩
  · exact ⟨_, exec_mergeRequest_goesOn hx hm, State.mergeOn_finishes (State.seenMerge_fresh _ hs) ht hp hq⟩
  · exact ⟨_, exec_mergeRequest_goesOn hx hm, State.mergeOn_waits (State.seenMerge_stale _ hs) (List.mem_of_find?_eq_some hm) hp⟩
  · obtain ⟨hmst, hgone, -⟩ := State.mergeOn_finishes (State.seenMerge_stale _ hs) ht hp hq
    exact ⟨_, exec_mergeRequest_goesOn hx hm, hmst, hgone⟩

end Sys2Proof

/-! SUPPORT. Launch records, the placement of teams and `LAUNCH`, and the proof of O53. -/

namespace Sys2Proof
open Machine

namespace Machine

/-! ## What a read of an engine leaves of a core (R143) -/

section Job

variable (s : State) (i : Nat)

theorem State.job_tlbFill (k : Nat) (e : Tlb) : ((s.tlbFill k e).core i).job = (s.core i).job := by
  unfold State.core
  rw [State.cores_tlbFill]
  exact State.core_onCore_field Core.job (g := fun c => { c with tlb := tlbAdd 32 e c.tlb }) (fun _ => rfl) s k i

theorem State.job_resolve (k va : Nat) (need : Need) : ((s.resolve k va need).1.core i).job = (s.core i).job := by
  unfold State.resolve
  dsimp only
  split_ifs
  · rfl
  · rfl
  · rfl
  · split
    · rfl
    · split_ifs <;> exact s.job_tlbFill i k _

theorem State.job_engineAt (k va : Nat) (need : Need) : ((s.engineAt k va need).1.core i).job = (s.core i).job := by
  unfold State.engineAt
  dsimp only
  split <;> exact s.job_resolve i k va need

theorem State.job_raiseClk (k w : Nat) : ((s.raiseClk k w).core i).job = (s.core i).job := by
  unfold State.raiseClk
  split
  · rfl
  · exact State.core_onCore_field Core.job (g := fun c => { c with clk := max c.clk w }) (fun _ => rfl) s k i

theorem State.job_engineSaw (k key n : Nat) : ((s.engineSaw k key n).core i).job = (s.core i).job := by
  have htally : ((s.tally k n 0).core i).job = (s.core i).job :=
    congrArg (fun u : SMap Core => (u.get Core.idle i).job) (State.cores_tally s k n 0)
  unfold State.engineSaw State.seenRange
  split
  · refine (foldl_field (fun u : State => (u.core i).job) _ _ (fun u x => ?_) _).trans htally
    exact State.job_raiseClk u i k _
  · exact s.job_raiseClk i _ _

theorem State.job_engineRead (k : Option Nat) (key n : Nat) : ((s.engineRead k key n).1.core i).job = (s.core i).job := by
  have hsettle : ((s.settleRange (s.realKey key) n).core i).job = (s.core i).job :=
    congrArg (fun u : SMap Core => (u.get Core.idle i).job) (State.cores_settleRange s _ n)
  unfold State.engineRead
  cases k with
  | none => exact hsettle
  | some k => exact (State.job_engineSaw _ i k _ n).trans hsettle

theorem State.job_holdAt (t : Nat) (h : Held) : ((s.holdAt t h).core i).job = (s.core i).job := by
  unfold State.holdAt
  split
  · split <;> rfl
  · rfl

theorem State.job_grabPiece (k : Nat) (d : Cmd) (va n : Nat) : ((s.grabPiece k d va n).1.core i).job = (s.core i).job := by
  unfold State.grabPiece
  split
  · rfl
  · dsimp only
    split
    · exact (State.job_engineRead _ i (some k) _ n).trans (s.job_engineAt i k va .rd)
    · exact (State.job_holdAt _ i _ _).trans (s.job_engineAt i k va .rd)
    · exact s.job_engineAt i k va .rd

theorem State.job_grab (k : Nat) (d : Cmd) (va n : Nat) : ((s.grab k d va n).1.core i).job = (s.core i).job := by
  unfold State.grab
  refine foldl_field_fst (fun u : State => (u.core i).job) _ _ (fun r e => ?_) (s, _)
  dsimp only
  split
  · rfl
  · exact State.job_grabPiece r.1 i k d _ _

end Job

/-! ## `LAUNCH` (R266) -/

section Launch

variable {s u : State} {c : CoreId} {d : Cmd} {bs : List Byte} {m : Nat} {nums : List Nat}

theorem State.launchAppend_full {k : Nat} {r : BitVec 512}
    (h : qFull (s.queueDesc (corePkg k) (s.core k).job.part.toNat (cf d.w 16 4)) = true) : s.launchAppend k d r = s :=
  if_pos h

theorem State.launchAppend_room {k : Nat} {r : BitVec 512}
    (h : qFull (s.queueDesc (corePkg k) (s.core k).job.part.toNat (cf d.w 16 4)) = false) : s.launchAppend k d r =
      (s.appendRecord (corePkg k) (s.core k).job.part.toNat (cf d.w 16 4) (s.core k).job (s.clk k) r).retireCmd k d :=
  if_neg (by rw [h]; exact Bool.false_ne_true)

theorem exec_launch_step (hd : (s.core (coreKey c)).headOf .lnq = some d) :
    exec (.launch c) s = .next (s.launchStep (coreKey c) d) := by
  refine congrArg Host.Outcome.next ?_
  rw [hd]

/-- The record once read. -/
def State.recordRead (u : State) (k : Nat) (d : Cmd) (bs : List Byte) : State :=
  u.onCmd k d.age fun e => { e with started := true, prog := { e.prog with nums := [leNat bs] } }

theorem State.launchStep_reads {k : Nat} (hn : d.prog.nums = []) (hr : s.released k d.age .pod = true)
    (hg : s.grab k d (cw1 d.w) 64 = (u, .ok (bs, false))) (hm : u.mayLaunch k (cf d.w 16 4) (BitVec.ofNat 512 (leNat bs)) = true) :
    s.launchStep k d = (u.recordRead k d bs).launchAppend k d (BitVec.ofNat 512 (leNat bs)) := by
  unfold State.launchStep
  rw [hn, hr, hg]
  dsimp only
  rw [hm]
  exact (if_neg Bool.false_ne_true).trans ((if_neg Bool.false_ne_true).trans (if_neg Bool.false_ne_true))

theorem State.launchStep_again {k : Nat} (hn : d.prog.nums = m :: nums) : s.launchStep k d = s.launchAppend k d (BitVec.ofNat 512 m) := by
  unfold State.launchStep
  rw [hn]

theorem State.job_recordRead (u : State) (k : Nat) (d : Cmd) (bs : List Byte) : ((u.recordRead k d bs).core k).job = (u.core k).job :=
  State.core_onCore_field Core.job (g := fun c => { c with cmds := c.cmds.map fun e => if e.age = d.age then
    { e with started := true, prog := { e.prog with nums := [leNat bs] } } else e }) (fun _ => rfl) u k k

end Launch

/-! ## The placement of a team (R28, R30 to R32) -/

/-- What a thread starts with, but for what it is charged and what it knows. -/
def Core.startView (c : Core) : ThreadState × Word × Job × Vector Word 32 × BitVec 22 × BitVec 13 :=
  (c.st, c.pc, c.job, c.x, c.base, c.size)

theorem State.core_initHome (s : State) (k i : Nat) :
    (s.initHome k).core i = (s.onCore k fun c => { c with rc := [], poison := [] }).core i :=
  foldl_field (fun u : State => u.core i) _ (fun t i => t.writeHome k i) (fun t j => t.core_writeHome k j i) _

theorem State.core_store (s : State) (key : Nat) (bs : List Byte) (i : Nat) : (s.store key bs).core i = s.core i :=
  (congrArg (fun u : State => u.core i) (s.store_rest key bs)).symm

theorem State.core_tagClear (s : State) (k i : Nat) : (s.tagClear k).core i = s.core i := by
  unfold State.tagClear
  rw [State.core_store]

theorem State.startView_startThread (s : State) (k : Nat) (c : Core) (i : Nat) :
    ((s.startThread k c).core i).startView = if i = k then c.startView else (s.core i).startView := by
  unfold State.startThread
  dsimp only
  rw [State.core_tagClear, State.core_initHome]
  by_cases h : i = k
  · rw [if_pos h, h, State.core_onCore_same, State.core_setCore_same]
    rfl
  · rw [if_neg h, State.core_onCore_other _ _ h, State.core_setCore_other _ _ h]

theorem State.startView_raiseClk (s : State) (k w i : Nat) : ((s.raiseClk k w).core i).startView = (s.core i).startView := by
  unfold State.raiseClk
  split
  · rfl
  · exact State.core_onCore_field Core.startView (g := fun c => { c with clk := max c.clk w }) (fun _ => rfl) s k i

/-- A team's threads, started one after another, each stand as they started. -/
theorem State.startView_started (s : State) (base clk : Nat) (g : State → Nat → Core) (v : ThreadState × Word × Job × Vector Word 32 × BitVec 22 × BitVec 13)
    (hg : ∀ u i, (g u i).startView = v) (n i : Nat) (hi : i < n) :
    (((List.range n).foldl (fun u i => (u.startThread (base + i) (g u i)).raiseClk (base + i) clk) s).core (base + i)).startView = v := by
  induction n with
  | zero => omega
  | succ n ih =>
    rw [List.range_succ, List.foldl_append, List.foldl_cons, List.foldl_nil, State.startView_raiseClk, State.startView_startThread, hg]
    split
    · rfl
    · exact ih (by omega)

theorem State.core_teamBarrier (s : State) (b base size i : Nat) : (s.teamBarrier b base size).core i = s.core i := by
  unfold State.teamBarrier
  refine foldl_field (fun u : State => u.core i) _ _ (fun u d => ?_) s
  rfl

theorem State.core_popFed (s : State) (p part q i : Nat) : (s.popFed p part q).core i = s.core i := rfl

/-- The fields of a record that a thread starts with. -/
theorem startCore_startView (j : Job) (seed : Word) (base size : Nat) (bar : Option Nat) (r : BitVec 512) (weight : Nat) :
    (startCore j seed base size bar r weight).startView = (.running, BitVec.ofNat 64 (recEntry r), j,
      (Core.idle.x).set 10 (BitVec.ofNat 64 (recArgs r)), BitVec.ofNat 22 base, BitVec.ofNat 13 size) := rfl

/-- Every thread of a team that is placed stands as it started. -/
theorem State.startView_placeTeam (s : State) (p : Nat) (j : Job) (r : BitVec 512) (base : Nat) (bar : Option Nat) (clk i : Nat)
    (hi : i < recSize r) : ((s.placeTeam p j r base bar clk).core (base + i)).startView = (.running, BitVec.ofNat 64 (recEntry r), j,
      (Core.idle.x).set 10 (BitVec.ofNat 64 (recArgs r)), BitVec.ofNat 22 base, BitVec.ofNat 13 (recSize r)) := by
  have hstarted (u : State) (seed : Word) := u.startView_started base clk (fun u i => startCore j seed base (recSize r) bar r
    (shareOf (u.tile (coreTile (base + i))).vshare (coreSlot (base + i)))) _ (fun _ _ => startCore_startView _ _ _ _ _ _ _) _ i hi
  cases bar with
  | none => exact hstarted _ _
  | some b => exact (congrArg Core.startView (State.core_teamBarrier _ b base _ _)).trans (hstarted _ _)

theorem recEntry_truncate (r : BitVec 512) : BitVec.ofNat 64 (recEntry r) = r.truncate 64 := by
  refine BitVec.eq_of_toNat_eq ?_
  rw [BitVec.toNat_ofNat, BitVec.truncate_eq_setWidth, BitVec.toNat_setWidth, recEntry, rf, getFld, pow_zero, Nat.div_one, Nat.mod_mod]

theorem recArgs_extract (r : BitVec 512) : BitVec.ofNat 64 (recArgs r) = r.extractLsb' 128 64 := by
  refine BitVec.eq_of_toNat_eq ?_
  rw [BitVec.toNat_ofNat, BitVec.extractLsb'_toNat, recArgs, rf, getFld, Nat.mod_mod, Nat.shiftRight_eq_div_pow]

theorem exec_teamPlacement {s : State} {q : QueueId} {base : BitVec 12} {r : BitVec 512} {slot b0 : Nat} {bar : Option Nat}
    (hw : (s.pkg q.pkg.toNat).waiting.find (queueKey q.part.toNat q.q.toNat) = some (r, slot))
    (hn : s.placeNext q.pkg.toNat q.part.toNat = some (q.q.toNat, b0))
    (hbar : s.teamBar (4096 * q.pkg.toNat + base.toNat) (recSize r) = some bar)
    (hb : s.baseOk q.pkg.toNat q.part.toNat (s.recordJob q.pkg.toNat q.part.toNat q.q.toNat) r (4096 * q.pkg.toNat + base.toNat) = true) :
    exec (.teamPlacement q base) s = .next (((s.placeTeam q.pkg.toNat (s.recordJob q.pkg.toNat q.part.toNat q.q.toNat) r
      (4096 * q.pkg.toNat + base.toNat) bar (s.recordClk q.pkg.toNat q.part.toNat q.q.toNat)).onPkg q.pkg.toNat fun p =>
        { p with waiting := p.waiting.del (queueKey q.part.toNat q.q.toNat), nextq := p.nextq.put q.part.toNat ((q.q.toNat + 1) % 16) }).popFed
          q.pkg.toNat q.part.toNat q.q.toNat) := by
  refine congrArg Host.Outcome.next ?_
  dsimp only
  rw [hw, hn]
  dsimp only
  rw [hbar]
  refine if_neg ?_
  rw [hb]
  simp

/-- What a start leaves of each field that the statement names. -/
theorem Core.startView_fields {c : Core} {v : ThreadState × Word × Job × Vector Word 32 × BitVec 22 × BitVec 13} (h : c.startView = v) :
    c.st = v.1 ∧ c.pc = v.2.1 ∧ c.job = v.2.2.1 ∧ c.x = v.2.2.2.1 ∧ c.base = v.2.2.2.2.1 ∧ c.size = v.2.2.2.2.2 := by
  subst h
  exact ⟨rfl, rfl, rfl, rfl, rfl, rfl⟩

theorem Core.rx_of_started {c : Core} {v : Word} (h : c.x = (Core.idle.x).set 10 v) : c.rx 10 = v := by
  unfold Core.rx
  rw [if_neg (by decide), h]
  exact Vector.getElem_set_self _

theorem exec_launchRecordTake {s : State} {q : QueueId} (ht : s.takeable q.pkg.toNat q.part.toNat q.q.toNat = true) :
    let d := s.queueDesc q.pkg.toNat q.part.toNat q.q.toNat
    let e := s.engineRead none (qSlot d (qHead d)) 64
    let r : BitVec 512 := BitVec.ofNat 512 (leNat e.2)
    let x := e.1.engineWrite (s.queueAt q.pkg.toNat q.part.toNat q.q.toNat + 16) (toBytes 4 ((qHead d + 1) % 2 ^ 32)) false
    let i := e.1.recordJob q.pkg.toNat q.part.toNat q.q.toNat
    exec (.launchRecordTake q) s = .next (if x.recordOk q.pkg.toNat q.part.toNat i r then
      x.onPkg q.pkg.toNat fun p => { p with waiting := p.waiting.put (queueKey q.part.toNat q.q.toNat) (r, qSlot d (qHead d)) }
      else (x.refuseRecord q.pkg.toNat q.part.toNat i r (4096 * q.pkg.toNat + 4 * recTile r) (qSlot d (qHead d))).popFed
        q.pkg.toNat q.part.toNat q.q.toNat) := by
  refine congrArg Host.Outcome.next ?_
  dsimp only
  rw [ht]
  exact if_neg Bool.false_ne_true

end Machine

/-! ## The statements -/

/-- Settles O53, record by record and team by team. -/
theorem recordsAndTeams : Obligations.RecordsAndTeams := by
  unfold Obligations.RecordsAndTeams
  intro s q base r slot b0 m bar c d u bs nums
  dsimp only
  refine ⟨fun hw hn hbar hb => ⟨_, exec_teamPlacement hw hn hbar hb, rfl, fun i hi => ?_⟩,
    fun ht => ⟨fun hok => ?_, fun hok => ?_⟩, fun hd => ⟨fun hn hr hg hm => ?_, fun hn hroom => ?_⟩⟩
  · obtain ⟨hst, hpc, hjob, hx, hbase, hsize⟩ := Core.startView_fields
      (s.startView_placeTeam q.pkg.toNat (s.recordJob q.pkg.toNat q.part.toNat q.q.toNat) r (4096 * q.pkg.toNat + base.toNat) bar
        (s.recordClk q.pkg.toNat q.part.toNat q.q.toNat) i hi)
    refine ⟨hst, hpc.trans (recEntry_truncate r), hjob, Eq.trans (Core.rx_of_started hx) (recArgs_extract r), hbase, hsize⟩
  · refine ⟨_, (exec_launchRecordTake ht).trans (congrArg Host.Outcome.next (if_pos hok)), rfl, ?_⟩
    rw [State.pkg_onPkg_same]
  · exact (exec_launchRecordTake ht).trans (congrArg Host.Outcome.next (if_neg (by rw [hok]; exact Bool.false_ne_true)))
  · have hjob : (((u.recordRead (coreKey c) d bs).core (coreKey c)).job) = (s.core (coreKey c)).job := by
      rw [State.job_recordRead, ← s.job_grab (coreKey c) (coreKey c) d (cw1 d.w) 64, hg]
    have hexec := (exec_launch_step hd).trans (congrArg Host.Outcome.next (State.launchStep_reads hn hr hg hm))
    rw [← hjob]
    exact ⟨fun hfull => hexec.trans (congrArg Host.Outcome.next (State.launchAppend_full hfull)), fun hroom =>
      ⟨_, hexec.trans (congrArg Host.Outcome.next (State.launchAppend_room hroom)), State.retired_retireCmd _ _ d, rfl⟩⟩
  · exact ⟨_, (exec_launch_step hd).trans (congrArg Host.Outcome.next ((State.launchStep_again hn).trans (State.launchAppend_room hroom))),
      State.retired_retireCmd _ _ d, rfl⟩

end Sys2Proof

/-! SUPPORT. The words of compacts, and the proof of O58. -/

namespace Sys2Proof
open Machine

namespace Machine

/-! ## The state in which a compact's word finds its operands -/

theorem State.Alike.tile {s u : State} {k : Nat} (h : s.Alike u k) (t : Nat) : u.tile t = s.tile t :=
  (congrArg (fun w : State => w.tile t) h.same.rest :)

section Ready

variable {s : State} {i : Instr} (h : s.Runs i)
include h

theorem State.Runs.field {α : Type} (f : Core → α) (hf : ∀ (c : Core) r, f { c with rc := r } = f c) :
    f ((s.ready i).core s.me) = f (s.core s.me) := (State.ready_alike h).core.field f hf

theorem State.Runs.tile (t : Nat) : (s.ready i).tile t = s.tile t := (State.ready_alike h).tile t

theorem State.Runs.exec {body : Nat → State → State} (he : exec i s = .next (s.issue i body)) : exec i s = .next (body s.me (s.ready i)) := by
  rw [he, State.issue_runs h]

end Ready

/-! ## The words of a compact that has its token (R285, R287, R290) -/

section Token

variable {s : State} {g : Guard} {ra : XReg} {p : BitVec 8} {cp : Compact}

/-- The words `sign`, `sstep` and `dissolve` when the phase has left their token behind. -/
structure State.Passed (s : State) (i : Instr) (p : BitVec 8) (cp : Compact) : Prop where
  runs : s.Runs i
  token : (s.core s.me).token = some p
  broken : (s.core s.me).broken = false
  compact : (s.tile (coreTile s.me)).compact = some cp
  signer : cp.signer = some s.me
  phase : s.phase s.me cp.bid.toNat ≠ p

theorem exec_sign_passed (h : s.Passed (.sign g ra) p cp) : exec (.sign g ra) s = .next ((((s.ready (.sign g ra)).onTile
    (coreTile s.me) fun v => { v with compact := some { cp with signed := true } }).acquireBar s.me cp.bid.toNat).finish s.me) := by
  refine (h.runs.exec rfl).trans (congrArg Host.Outcome.next ?_)
  dsimp only
  rw [h.runs.field Core.token fun _ _ => rfl, h.runs.field Core.broken fun _ _ => rfl, h.token, h.broken, h.runs.tile, h.compact]
  dsimp only
  rw [if_neg Bool.false_ne_true, if_neg (not_not.2 h.signer), if_neg]
  rw [(State.ready_alike h.runs).phase]
  exact h.phase

theorem exec_sstep_passed (h : s.Passed (.sstep g ra) p cp) : exec (.sstep g ra) s = .next (((((s.ready (.sstep g ra)).onTile
    (coreTile s.me) fun v => { v with compact := some { cp with window := true } }).serveHeld (coreTile s.me)).acquireBar s.me
      cp.bid.toNat).finish s.me) := by
  refine (h.runs.exec rfl).trans (congrArg Host.Outcome.next ?_)
  dsimp only
  rw [h.runs.field Core.token fun _ _ => rfl, h.runs.field Core.broken fun _ _ => rfl, h.token, h.broken, h.runs.tile, h.compact]
  dsimp only
  rw [if_neg Bool.false_ne_true, if_neg (not_not.2 h.signer), if_neg]
  rw [(State.ready_alike h.runs).phase]
  exact h.phase

theorem exec_dissolve_passed (h : s.Passed (.dissolve g ra) p cp) :
    exec (.dissolve g ra) s = .next (((s.ready (.dissolve g ra)).dissolveAll cp).finish s.me) := by
  refine (h.runs.exec rfl).trans (congrArg Host.Outcome.next ?_)
  dsimp only
  rw [h.runs.field Core.token fun _ _ => rfl, h.runs.field Core.broken fun _ _ => rfl, h.token, h.broken, h.runs.tile, h.compact]
  dsimp only
  rw [if_neg Bool.false_ne_true, if_neg (not_not.2 h.signer), if_neg]
  rw [(State.ready_alike h.runs).phase]
  exact h.phase

/-- What a word that completes leaves of its core, where what it did before touched no register of it. -/
theorem State.finished {w : State} {k : Nat} {c : Core} (hpc : (w.core k).pc = c.pc) (hx : (w.core k).x = c.x) :
    ((w.finish k).core k).pc = c.pc + 8 ∧ ((w.finish k).core k).token = none ∧ ((w.finish k).core k).plan = [] ∧
      ((w.finish k).core k).x = c.x := by
  unfold State.finish
  rw [State.core_onCore_same]
  exact ⟨by rw [← hpc]; rfl, rfl, rfl, hx⟩

theorem State.tile_finish (w : State) (k t : Nat) : (w.finish k).tile t = w.tile t := rfl

theorem State.core_acquireBar {α : Type} (f : Core → α) (hf : ∀ (c : Core) w, f { c with clk := w } = f c) (s : State) (k b j : Nat) :
    f ((s.acquireBar k b).core j) = f (s.core j) := by
  unfold State.acquireBar State.raiseClk
  split
  · rfl
  · exact State.core_onCore_field f (fun c => hf c _) s k j

theorem State.compact_acquireBar (s : State) (k b t : Nat) : ((s.acquireBar k b).tile t).compact = (s.tile t).compact :=
  State.compact_raiseClk _ _ _ _

theorem State.finished_acquire {w : State} {k b : Nat} {c : Core} (hpc : (w.core k).pc = c.pc) (hx : (w.core k).x = c.x) :
    (((w.acquireBar k b).finish k).core k).pc = c.pc + 8 ∧ (((w.acquireBar k b).finish k).core k).token = none ∧
      (((w.acquireBar k b).finish k).core k).x = c.x := by
  obtain ⟨h1, h2, -, h3⟩ := State.finished (w := w.acquireBar k b) (k := k) (c := c)
    ((State.core_acquireBar Core.pc (fun _ _ => rfl) w k b k).trans hpc) ((State.core_acquireBar Core.x (fun _ _ => rfl) w k b k).trans hx)
  exact ⟨h1, h2, h3⟩

theorem sign_signs (h : s.Passed (.sign g ra) p cp) : ∃ t, exec (.sign g ra) s = .next t ∧
    (t.tile (coreTile s.me)).compact = some { cp with signed := true } ∧ (t.core s.me).pc = (s.core s.me).pc + 8 ∧
      (t.core s.me).token = none ∧ (t.core s.me).x = (s.core s.me).x := by
  refine ⟨_, exec_sign_passed h, ?_, State.finished_acquire ?_ ?_⟩
  · rw [State.tile_finish, State.compact_acquireBar, State.tile_onTile_same]
  · rw [State.core_onTile, h.runs.field Core.pc fun _ _ => rfl]
  · rw [State.core_onTile, h.runs.field Core.x fun _ _ => rfl]

/-- A compact that holds nothing serves nothing. -/
theorem State.serveHeld_none {t : Nat} {c : Compact} (hc : (s.tile t).compact = some c) (hh : c.held = []) :
    s.serveHeld t = s.setTile t { s.tile t with compact := some { c with held := [] } } := by
  unfold State.serveHeld
  rw [hc]
  dsimp only
  rw [hh]
  rfl

theorem sstep_opens (h : s.Passed (.sstep g ra) p cp) (hh : cp.held = []) : ∃ t, exec (.sstep g ra) s = .next t ∧
    (t.tile (coreTile s.me)).compact = some { cp with window := true, held := [] } ∧ (t.core s.me).pc = (s.core s.me).pc + 8 ∧
      (t.core s.me).x = (s.core s.me).x := by
  have hexec := exec_sstep_passed h
  rw [State.serveHeld_none (c := { cp with window := true }) (by rw [State.tile_onTile_same]) hh] at hexec
  refine ⟨_, hexec, ?_, (State.finished_acquire ?_ ?_).imp_right And.right⟩
  · rw [State.tile_finish, State.compact_acquireBar, State.tile_setTile_same]
  · rw [State.core_setTile, State.core_onTile, h.runs.field Core.pc fun _ _ => rfl]
  · rw [State.core_setTile, State.core_onTile, h.runs.field Core.x fun _ _ => rfl]

theorem Compact.same_self (c : Compact) : c.same c = true := by
  unfold Compact.same
  simp

/-! ### The end of a compact whose tiles hold nothing -/

/-- No compact of the machine holds an access. -/
def State.HoldsNone (s : State) : Prop := ∀ u f, (s.tile u).compact = some f → f.held = []

theorem State.compact_raiseClock (s : State) (t w j : Nat) : ((s.raiseClock t w).tile j).compact = (s.tile j).compact := by
  unfold State.raiseClock
  rcases eq_or_ne j t with rfl | h
  · rw [State.tile_onTile_same]
  · rw [State.tile_onTile_other s _ h]

theorem State.tile_setTile_other (s : State) {t j : Nat} (v : Tile) (h : j ≠ t) : (s.setTile t v).tile j = s.tile j :=
  s.tile_onTile_other (fun _ => v) h

theorem State.openTile_holdsNone (s : State) (t : Nat) (h : s.HoldsNone) :
    (s.openTile t).HoldsNone ∧ ∀ j, (s.openTile t).core j = s.core j := by
  unfold State.openTile
  split
  · exact ⟨h, fun _ => rfl⟩
  · next c hc =>
    dsimp only
    rw [State.serveHeld_none (c := { c with window := true }) (by rw [State.tile_onTile_same]) (h t c hc)]
    refine ⟨fun u f hf => ?_, fun j => foldl_field (fun u : State => u.core j) _ _ (fun u e => ?_) _⟩
    · rw [foldl_field (fun w : State => (w.tile u).compact) _ _ fun w e => w.compact_raiseClock t _ u] at hf
      rcases eq_or_ne u t with rfl | hu
      · rw [State.tile_setTile_same] at hf
        obtain rfl := Option.some.inj hf
        rfl
      · rw [State.tile_setTile_other _ _ hu, State.tile_onTile_other _ _ hu] at hf
        exact h u f hf
    · rfl

theorem State.openTiles_holdsNone (s : State) (ts : List Nat) (h : s.HoldsNone) :
    (ts.foldl State.openTile s).HoldsNone ∧ ∀ j, (ts.foldl State.openTile s).core j = s.core j :=
  foldl_keeps (fun u => u.HoldsNone ∧ ∀ j, u.core j = s.core j) ts State.openTile
    (fun u t hu => ⟨(u.openTile_holdsNone t hu.1).1, fun j => ((u.openTile_holdsNone t hu.1).2 j).trans (hu.2 j)⟩) s ⟨h, fun _ => rfl⟩

theorem State.core_releaseTile (s : State) (t tf j : Nat) : (s.releaseTile t tf).core j = s.core j := by
  unfold State.releaseTile
  split
  · rfl
  · refine foldl_field (fun u : State => u.core j) _ _ (fun u e => ?_) s
    rfl

theorem State.compact_releaseTile (s : State) (t tf j : Nat) :
    ((s.releaseTile t tf).tile j).compact = if j = t then none else (s.tile j).compact := by
  have htile (ps : List (Nat × Nat)) (f : State → Nat × Nat → Sector → Sector) :
      (ps.foldl (fun u e => u.onSector e.1 (f u e)) s).tile j = s.tile j :=
    foldl_field (fun u : State => u.tile j) _ _ (fun u e => by rfl) s
  have hzero (u : State) (key n : Nat) : (u.zeroRange key n).tile j = u.tile j := rfl
  unfold State.releaseTile
  split
  · next hc =>
    split
    · next h => rw [h, hc]
    · rfl
  · dsimp only
    rw [hzero, State.compact_raiseClock]
    split
    · next h => rw [h, State.tile_onTile_same]
    · next h =>
      rw [State.tile_onTile_other _ _ h]
      exact congrArg Tile.compact (htile _ fun _ _ x => { x with wts := tf, rts := tf, owner := some t, pinned := false })

theorem State.releaseTiles_frees (s : State) (tf t : Nat) (ts : List Nat) (h : t ∈ ts ∨ (s.tile t).compact = none) :
    ((ts.foldl (fun u t => u.releaseTile t tf) s).tile t).compact = none := by
  induction ts generalizing s with
  | nil => exact h.resolve_left List.not_mem_nil
  | cons x ts ih =>
    refine ih _ ?_
    rw [State.compact_releaseTile]
    split
    · exact .inr rfl
    · next hx =>
      rcases h with h | h
      · exact .inl ((List.mem_cons.1 h).resolve_left hx)
      · exact .inr h

theorem State.dissolveAll_frees {c : Compact} {t : Nat} (h : s.HoldsNone) (ht : t ∈ c.tiles) (hc : (s.tile t).compact = some c) :
    ((s.dissolveAll c).tile t).compact = none ∧ ∀ j, (s.dissolveAll c).core j = s.core j := by
  have hjoined : t ∈ s.joined c := List.mem_filter.2 ⟨ht, by rw [hc]; exact c.same_self⟩
  have hfree (u : State) : (u.freeBar c).tile = u.tile ∧ (u.freeBar c).core = u.core :=
    foldl_keeps (fun w => w.tile = u.tile ∧ w.core = u.core) _ _ (fun w d hw => by split <;> exact hw) u ⟨rfl, rfl⟩
  unfold State.dissolveAll
  rw [(hfree _).1, (hfree _).2]
  unfold State.releaseAll
  refine ⟨State.releaseTiles_frees _ _ t _ (.inl hjoined), fun j => ?_⟩
  exact (foldl_field (fun u : State => u.core j) _ _ (fun u t => u.core_releaseTile t _ j) _).trans ((s.openTiles_holdsNone _ h).2 j)

theorem dissolve_frees (h : s.Passed (.dissolve g ra) p cp) (ht : coreTile s.me ∈ cp.tiles) (hh : s.HoldsNone) :
    ∃ t, exec (.dissolve g ra) s = .next t ∧ (t.tile (coreTile s.me)).compact = none ∧ (t.core s.me).pc = (s.core s.me).pc + 8 ∧
      (t.core s.me).x = (s.core s.me).x := by
  have hready : (s.ready (.dissolve g ra)).HoldsNone := fun u f hf => hh u f (by rwa [← h.runs.tile])
  obtain ⟨hnone, hcore⟩ := State.dissolveAll_frees hready ht (by rw [h.runs.tile]; exact h.compact)
  refine ⟨_, exec_dissolve_passed h, ?_, ?_⟩
  · rw [State.tile_finish, hnone]
  · obtain ⟨hpc, -, -, hx⟩ := State.finished (k := s.me) (c := s.core s.me)
      ((congrArg Core.pc (hcore s.me)).trans (h.runs.field Core.pc fun _ _ => rfl))
      ((congrArg Core.x (hcore s.me)).trans (h.runs.field Core.x fun _ _ => rfl))
    exact ⟨hpc, hx⟩

end Token

/-! ## The descriptor and its checks (R282, R283, R308) -/

section Descriptor

variable {s r v a : State} {g : Guard} {ra : XReg} {i : Instr} {k e : Nat} {va : Word} {dsc : Desc} {cp : Compact}

/-- The descriptor at an address is read, and `v` is the state after it. -/
def State.ReadsDesc (r : State) (k : Nat) (va : Word) (dsc : Desc) (v : State) : Prop :=
  va.toNat % 32 = 0 ∧ ∃ a hb eb, r.readMem k va.toNat 32 = (a, .ok (hb, false)) ∧ dsc.hdr = leNat hb ∧
    a.readMem k (va.toNat + 32) (32 * (dsc.nm + 1)) = (v, .ok (eb, false)) ∧
    dsc.entries = (List.range (dsc.nm + 1)).map fun i => getFld (leNat eb) (256 * i) 256

theorem State.withDesc_misaligned {body : Desc → Nat → State → State} (h : va.toNat % 32 ≠ 0) :
    r.withDesc k va body = r.trap k causeAlign va :=
  if_pos (bne_iff_ne.2 h)

theorem State.withDesc_read {body : Desc → Nat → State → State} (h : r.ReadsDesc k va dsc v) : r.withDesc k va body =
    if v.descBad dsc then v.trap k causeFormat va
    else match dsc.entryOf k with
      | none => v.trap k causeFormat va
      | some e => body dsc e v := by
  obtain ⟨hal, a, hb, eb, h1, hhdr, h2, hent⟩ := h
  obtain ⟨hdr, entries⟩ := dsc
  dsimp only at hhdr hent
  subst hhdr
  unfold State.withDesc
  rw [if_neg (by simpa using hal), State.withBytes_ok h1]
  refine (State.withBytes_ok h2).trans ?_
  rw [hent]
  rfl

theorem State.withDesc_fails {body : Desc → Nat → State → State} (h : r.ReadsDesc k va dsc v)
    (hbad : v.descBad dsc = true ∨ dsc.entryOf k = none) : r.withDesc k va body = v.trap k causeFormat va := by
  rw [State.withDesc_read h]
  rcases hbad with hb | hn
  · exact if_pos hb
  · rw [hn]
    exact ite_self _

theorem State.withDesc_passes {body : Desc → Nat → State → State} (h : r.ReadsDesc k va dsc v) (hbad : v.descBad dsc = false)
    (he : dsc.entryOf k = some e) : r.withDesc k va body = body dsc e v := by
  rw [State.withDesc_read h, hbad, he]
  exact if_neg Bool.false_ne_true

/-- A word that has no token and no plan reads its descriptor. -/
theorem exec_sign_reads (hr : s.Runs (.sign g ra)) (ht : (s.core s.me).token = none) (hs : (s.tile (coreTile s.me)).signing = none) :
    exec (.sign g ra) s = .next ((s.ready (.sign g ra)).withDesc s.me ((s.core s.me).rx ra) fun d e u =>
      u.signChecked s.me ((s.core s.me).rx ra) d e) := by
  refine (hr.exec rfl).trans (congrArg Host.Outcome.next ?_)
  dsimp only
  rw [hr.field Core.token fun _ _ => rfl, ht, hr.field (fun c => c.rx ra) fun _ _ => rfl, hr.tile, hs]

/-- What `xfer` does once it knows its compact. -/
def xferBody (k : Nat) (va : Word) (_ : Compact) (d : Desc) (e : Nat) (s : State) : State :=
  let r := s.readProgram k d.nm (getFld e 128 64) 4097
  match r.2 with
  | .failed f => r.1.readFailed k f va
  | .bad a => r.1.trap k causeFormat (BitVec.ofNat 64 a)
  | .ok ws => (r.1.shutWindow k).pushPlan k (ws.map fun w => (w, d.tiles.getD (fld w 40 6).toNat 0))

theorem exec_xfer_reads (hr : s.Runs (.xfer g ra)) (hp : (s.core s.me).plan = []) :
    exec (.xfer g ra) s = .next ((s.ready (.xfer g ra)).withCompact s.me ((s.core s.me).rx ra) (xferBody s.me ((s.core s.me).rx ra))) := by
  refine (hr.exec rfl).trans (congrArg Host.Outcome.next ?_)
  dsimp only
  rw [hr.field Core.plan fun _ _ => rfl, hp, hr.field (fun c => c.rx ra) fun _ _ => rfl]
  rfl

theorem exec_sstep_reads (hr : s.Runs (.sstep g ra)) (ht : (s.core s.me).token = none) :
    exec (.sstep g ra) s = .next ((s.ready (.sstep g ra)).withCompact s.me ((s.core s.me).rx ra) fun c d _ u =>
      if !u.transfersDone (coreTile s.me) || !u.released s.me u.seq .pod then u.await s.me
      else u.arriveCompact s.me c.bid.toNat (c.agrees d)) := by
  refine (hr.exec rfl).trans (congrArg Host.Outcome.next ?_)
  dsimp only
  rw [hr.field Core.token fun _ _ => rfl, ht, hr.field (fun c => c.rx ra) fun _ _ => rfl]

theorem exec_dissolve_reads (hr : s.Runs (.dissolve g ra)) (ht : (s.core s.me).token = none) :
    exec (.dissolve g ra) s = .next ((s.ready (.dissolve g ra)).withCompact s.me ((s.core s.me).rx ra) fun c d _ u =>
      if !u.released s.me u.seq .pod then u.await s.me else u.arriveCompact s.me c.bid.toNat (c.agrees d)) := by
  refine (hr.exec rfl).trans (congrArg Host.Outcome.next ?_)
  dsimp only
  rw [hr.field Core.token fun _ _ => rfl, ht, hr.field (fun c => c.rx ra) fun _ _ => rfl]

/-- The words that check 5 is for. -/
theorem exec_compact_reads (hi : i = .xfer g ra ∨ i = .sstep g ra ∨ i = .dissolve g ra) (hr : s.Runs i) (ht : (s.core s.me).token = none)
    (hp : (s.core s.me).plan = []) : ∃ body, exec i s = .next ((s.ready i).withCompact s.me ((s.core s.me).rx ra) body) := by
  rcases hi with rfl | rfl | rfl
  · exact ⟨_, exec_xfer_reads hr hp⟩
  · exact ⟨_, exec_sstep_reads hr ht⟩
  · exact ⟨_, exec_dissolve_reads hr ht⟩

theorem exec_desc_reads (hi : i = .sign g ra ∧ (s.tile (coreTile s.me)).signing = none ∨ i = .xfer g ra ∨ i = .sstep g ra ∨ i = .dissolve g ra)
    (hr : s.Runs i) (ht : (s.core s.me).token = none) (hp : (s.core s.me).plan = []) :
    ∃ body, exec i s = .next ((s.ready i).withDesc s.me ((s.core s.me).rx ra) body) := by
  rcases hi with ⟨rfl, hs⟩ | hi
  · exact ⟨_, exec_sign_reads hr ht hs⟩
  · obtain ⟨body, h⟩ := exec_compact_reads hi hr ht hp
    exact ⟨_, h⟩

/-! ### A break (R313) -/

/-- The trap of a break, taken by the thread's handler. -/
theorem State.trapBroken_breaks (h : v.Handles k) : let t := (v.trapBroken k va).core k
    t.tcause = 14 ∧ t.tpc = (v.core k).pc ∧ t.tval = va ∧ t.inh = true ∧ t.pc = (v.core k).tvec ∧ t.broken = false ∧
      t.x = (v.core k).x := by
  let w := v.onCore k fun c => { c with broken := false }
  have hw : w.core k = { v.core k with broken := false } := State.core_onCore_same v k _
  have he : v.trapBroken k va = w.takeTrap k causeCompactBroken false (v.core k).pc va va := if_pos h.settled
  have hb : ((w.takeTrap k causeCompactBroken false (v.core k).pc va va).core k).bare = _ :=
    State.bare_takeTrap_handler (s := w) (k := k) ⟨by decide, by decide, by decide⟩ (by rw [hw]; exact h.tvec) (by rw [hw]; exact h.inh)
  rw [hw] at hb
  dsimp only
  rw [he]
  exact ⟨Core.field_of_bare hb Core.tcause, Core.field_of_bare hb Core.tpc, Core.field_of_bare hb Core.tval, Core.field_of_bare hb Core.inh,
    Core.field_of_bare hb Core.pc, Core.field_of_bare hb Core.broken, (Core.field_of_bare hb Core.x :)⟩

theorem exec_broken {p : BitVec 8} {w : Word × Nat} {ws : List (Word × Nat)}
    (hi : (i = .sign g ra ∨ i = .sstep g ra ∨ i = .dissolve g ra) ∧ (s.core s.me).token = some p ∨
      i = .xfer g ra ∧ (s.core s.me).plan = w :: ws)
    (hr : s.Runs i) (hb : (s.core s.me).broken = true) : exec i s = .next ((s.ready i).trapBroken s.me ((s.core s.me).rx ra)) := by
  rcases hi with ⟨rfl | rfl | rfl, ht⟩ | ⟨rfl, hp⟩
  · refine (hr.exec rfl).trans (congrArg Host.Outcome.next ?_)
    dsimp only
    rw [hr.field Core.token fun _ _ => rfl, ht, hr.field (fun c => c.rx ra) fun _ _ => rfl, hr.field Core.broken fun _ _ => rfl, hb]
    exact if_pos rfl
  · refine (hr.exec rfl).trans (congrArg Host.Outcome.next ?_)
    dsimp only
    rw [hr.field Core.token fun _ _ => rfl, ht, hr.field (fun c => c.rx ra) fun _ _ => rfl, hr.field Core.broken fun _ _ => rfl, hb]
    exact if_pos rfl
  · refine (hr.exec rfl).trans (congrArg Host.Outcome.next ?_)
    dsimp only
    rw [hr.field Core.token fun _ _ => rfl, ht, hr.field (fun c => c.rx ra) fun _ _ => rfl, hr.field Core.broken fun _ _ => rfl, hb]
    exact if_pos rfl
  · refine (hr.exec rfl).trans (congrArg Host.Outcome.next ?_)
    dsimp only
    rw [hr.field Core.plan fun _ _ => rfl, hp, hr.field (fun c => c.rx ra) fun _ _ => rfl, hr.field Core.broken fun _ _ => rfl, hb]
    exact if_pos rfl

theorem State.Runs.handles (hr : s.Runs i) (hh : s.Handles s.me) : (s.ready i).Handles s.me :=
  ⟨(hr.field Core.tvec fun _ _ => rfl).trans_ne hh.tvec, (hr.field Core.inh fun _ _ => rfl).trans hh.inh,
    (hr.field Core.settled fun _ _ => rfl).trans hh.settled⟩

/-- A break is reported at the word that waits. -/
theorem broken_traps {p : BitVec 8} {w : Word × Nat} {ws : List (Word × Nat)}
    (hi : (i = .sign g ra ∨ i = .sstep g ra ∨ i = .dissolve g ra) ∧ (s.core s.me).token = some p ∨
      i = .xfer g ra ∧ (s.core s.me).plan = w :: ws)
    (hr : s.Runs i) (hb : (s.core s.me).broken = true) (hh : s.Handles s.me) : ∃ t, exec i s = .next t ∧ (t.core s.me).tcause = 14 ∧
      (t.core s.me).tpc = (s.core s.me).pc ∧ (t.core s.me).tval = (s.core s.me).rx ra ∧ (t.core s.me).inh = true ∧
      (t.core s.me).pc = (s.core s.me).tvec ∧ (t.core s.me).broken = false ∧ (t.core s.me).x = (s.core s.me).x := by
  obtain ⟨hc, hpc, hv, hinh, hvec, hbr, hx⟩ := State.trapBroken_breaks (va := (s.core s.me).rx ra) (hr.handles hh)
  exact ⟨_, exec_broken hi hr hb, hc, hpc.trans (hr.field Core.pc fun _ _ => rfl), hv, hinh, hvec.trans (hr.field Core.tvec fun _ _ => rfl),
    hbr, hx.trans (hr.field Core.x fun _ _ => rfl)⟩

/-! ### Check 5 -/

theorem State.withCompact_broken {body : Compact → Desc → Nat → State → State} (h : r.ReadsDesc k va dsc v) (hbad : v.descBad dsc = false)
    (he : dsc.entryOf k = some e) (hb : (v.core k).broken = true) : r.withCompact k va body = v.trapBroken k va :=
  (State.withDesc_passes h hbad he).trans (if_pos hb)

theorem State.withCompact_stranger {body : Compact → Desc → Nat → State → State} (h : r.ReadsDesc k va dsc v) (hbad : v.descBad dsc = false)
    (he : dsc.entryOf k = some e) (hb : (v.core k).broken = false) (hs : v.signs k dsc = false) :
    r.withCompact k va body = v.trap k causeFormat va := by
  refine (State.withDesc_passes h hbad he).trans ((if_neg (by rw [hb]; exact Bool.false_ne_true)).trans ?_)
  split
  · exact if_neg (by rw [hs]; exact Bool.false_ne_true)
  · rfl

theorem State.withCompact_signer {body : Compact → Desc → Nat → State → State} (h : r.ReadsDesc k va dsc v) (hbad : v.descBad dsc = false)
    (he : dsc.entryOf k = some e) (hb : (v.core k).broken = false) (hc : (v.tile (coreTile k)).compact = some cp)
    (hs : v.signs k dsc = true) : r.withCompact k va body = body cp dsc e v := by
  refine (State.withDesc_passes h hbad he).trans ((if_neg (by rw [hb]; exact Bool.false_ne_true)).trans ?_)
  rw [hc]
  exact if_pos hs

/-- A signing thread whose transfers and release are done arrives at the compact barrier. -/
theorem exec_arrives (hi : i = .sstep g ra ∧ v.transfersDone (coreTile s.me) = true ∨ i = .dissolve g ra) (hr : s.Runs i)
    (ht : (s.core s.me).token = none) (h : (s.ready i).ReadsDesc s.me ((s.core s.me).rx ra) dsc v) (hbad : v.descBad dsc = false)
    (he : dsc.entryOf s.me = some e) (hb : (v.core s.me).broken = false) (hc : (v.tile (coreTile s.me)).compact = some cp)
    (hs : v.signs s.me dsc = true) (hrel : v.released s.me v.seq .pod = true) :
    exec i s = .next (v.arriveCompact s.me cp.bid.toNat (cp.agrees dsc)) := by
  rcases hi with ⟨rfl, hdone⟩ | rfl
  · rw [exec_sstep_reads hr ht, State.withCompact_signer h hbad he hb hc hs, hdone, hrel]
    rfl
  · rw [exec_dissolve_reads hr ht, State.withCompact_signer h hbad he hb hc hs, hrel]
    rfl

/-! ### The checks of `sign` (R308) -/

theorem fits_iff {low high lim : Nat} {len : Nat} : ¬(low < lim ∨ high < low + len) ↔ lim ≤ low ∧ low + len ≤ high := by
  omega

/-- Checks 5 to 8 of `sign`. -/
structure State.Fresh (v : State) (k : Nat) (dsc : Desc) : Prop where
  compact : (v.tile (coreTile k)).compact = none
  signing : (v.tile (coreTile k)).signing = none
  fits : ¬(dsc.poff < (v.tile (coreTile k)).scratchEnd ∨ 0x100000 < dsc.poff + 1024 * dsc.plen)
  bar : v.barTaken k dsc = false
  grid : dsc.gridBad = false

theorem State.signChecked_stale (h : ¬v.Fresh k dsc) : v.signChecked k va dsc e = v.trap k causeFormat va := by
  unfold State.signChecked
  by_cases h1 : ((v.tile (coreTile k)).compact.isSome || (v.tile (coreTile k)).signing.isSome) = true
  · exact if_pos h1
  · refine (if_neg h1).trans ?_
    by_cases h2 : dsc.poff < (v.tile (coreTile k)).scratchEnd ∨ 0x100000 < dsc.poff + 1024 * dsc.plen
    · exact if_pos h2
    · refine (if_neg h2).trans (if_pos ?_)
      by_contra h3
      refine h ?_
      simp only [Bool.or_eq_true, not_or, Bool.not_eq_true, Option.isSome_eq_false_iff, Option.isNone_iff_eq_none] at h1 h3
      exact ⟨h1.1, h1.2, h2, h3.1, h3.2⟩

theorem State.Fresh.alone (h : v.Fresh k dsc) : ¬((v.tile (coreTile k)).compact.isSome || (v.tile (coreTile k)).signing.isSome) = true := by
  rw [h.compact, h.signing]
  exact Bool.false_ne_true

theorem State.Fresh.free (h : v.Fresh k dsc) : ¬(v.barTaken k dsc || dsc.gridBad) = true := by
  rw [h.bar, h.grid]
  exact Bool.false_ne_true

theorem State.signChecked_unmapped {u : State} {f : Failed} (h : v.Fresh k dsc)
    (hrc : v.rangeCheck k (rangePages (getFld e 64 64) dsc.plen) = (u, some f)) (hf : f.grip = .fault causePage) :
    v.signChecked k va dsc e = u.trap k causePage (BitVec.ofNat 64 f.va) := by
  have hr : u.readFailed k f va = u.trap k causePage (BitVec.ofNat 64 f.va) := by
    unfold State.readFailed
    rw [hf]
    rfl
  unfold State.signChecked
  refine (if_neg h.alone).trans ((if_neg h.fits).trans ((if_neg h.free).trans ?_))
  rw [hrc]
  exact hr

theorem State.signChecked_claims {u : State} {c : Compact} (h : v.Fresh k dsc)
    (hrc : v.rangeCheck k (rangePages (getFld e 64 64) dsc.plen) = (u, none))
    (hc : c = dsc.compact va (u.core k).job k (u.core k).base.toNat (u.rangeSectors k (getFld e 64 64) dsc.poff dsc.plen)) :
    v.signChecked k va dsc e = ((u.claimBar k c).onTile (coreTile k) fun v => { v with signing := some c }).signOn k c := by
  subst hc
  unfold State.signChecked
  refine (if_neg h.alone).trans ((if_neg h.fits).trans ((if_neg h.free).trans ?_))
  rw [hrc]

theorem State.signOn_clear {c : Compact} (hp : (c.pinned.any fun n => (v.sector n.1).pinned) = false)
    (hr : v.released k v.seq .pod = true) : v.signOn k c = v.signTile k c := by
  unfold State.signOn
  rw [hp, hr]
  rfl

theorem exec_sign_goesOn (hr : s.Runs (.sign g ra)) (ht : (s.core s.me).token = none) (hs : (s.tile (coreTile s.me)).signing = some cp)
    (hk : cp.signer = some s.me) : exec (.sign g ra) s = .next ((s.ready (.sign g ra)).signOn s.me cp) := by
  refine (hr.exec rfl).trans (congrArg Host.Outcome.next ?_)
  dsimp only
  rw [hr.field Core.token fun _ _ => rfl, ht, hr.tile, hs]
  exact if_pos hk

theorem exec_compactTimeout {d : DieId} {bid : BitVec 6} {id : BitVec 16} {jb : Job} {t0 : Nat} {x : Nat × Tile}
    (hk : (s.bar (dieKey d.pkg.toNat d.die.toNat) bid.toNat).kind = .compact id jb)
    (h0 : (s.bar (dieKey d.pkg.toNat d.die.toNat) bid.toNat).since = some t0)
    (hp : s.phaseReady (dieKey d.pkg.toNat d.die.toNat) bid.toNat = false)
    (hf : s.tiles.find? (fun y => tileDieKey y.1 == dieKey d.pkg.toNat d.die.toNat && (match y.2.compact with
        | some c => c.id == id && c.job == jb && decide (t0 + c.timeout * 1024 ≤ s.time)
        | none => false)) = some x) : exec (.compactTimeout d bid) s = .next (s.breakCompact x.1) := by
  refine congrArg Host.Outcome.next ?_
  dsimp only
  rw [hk, h0]
  dsimp only
  split
  · next y hy =>
    obtain rfl : y = x := Option.some.inj (hy.symm.trans hf)
    rw [hp]
    rfl
  · next hn => exact absurd (hn.symm.trans hf) (by simp)

end Descriptor

/-! ## The copies of a transfer program (R286, R311) -/

section Transfer

variable {s u : State} {g : Guard} {ra : XReg} {k : Nat}

/-- The command that `xfer` pushes for an entry. -/
def State.copyCmd (u : State) (k : Nat) (hs : List Wide) (pc : Word) : Cmd :=
  { q := .cpq, w := 1, hs := hs, dph := (u.core k).dph, pc := pc, age := u.seq, since := u.time, started := false, xfer := true, logWait := false,
    born := (if isTileCore k then u.ptile (coreTile k) else 0, u.interval k), prog := Progress.start }

/-- A copy that `xfer` pushes enters the copy queue, with no tag and nothing to log. -/
theorem State.accept_copy (u : State) (k : Nat) (hs : List Wide) (pc : Word) :
    u.accept k .cpq 1 hs pc true = (u.onCore k fun c => { c with cmds := c.cmds ++ [u.copyCmd k hs pc] }).tick := by
  have htag : (u.copyCmd k hs pc).tag = none := if_neg (show ¬ BitVec.getLsbD (1 : Wide) 14 = true by decide)
  have hseat : u.collSeat k .cpq 1 = none := if_neg (by decide)
  unfold State.copyCmd at htag
  unfold State.accept
  dsimp only
  rw [hseat]
  simp only [Progress.seated]
  rw [htag]
  rfl

theorem State.core_pushed (u : State) (k : Nat) (d : Cmd) :
    (State.tick (u.onCore k fun c => { c with cmds := c.cmds ++ [d] })).core k = { u.core k with cmds := (u.core k).cmds ++ [d] } :=
  State.core_onCore_same u k fun c => { c with cmds := c.cmds ++ [d] }

/-- The copy queue of a core has room for `n` more, and nothing waits there for the provenance log. -/
structure State.CopyRoom (u : State) (k n : Nat) : Prop where
  room : (u.core k).queued .cpq + n ≤ 32
  log : ((u.core k).cmds.any fun d => d.q == .cpq && d.logWait) = false
  req : (u.tile (coreTile k)).req = none

theorem State.CopyRoom.notFull {n : Nat} (h : u.CopyRoom k (n + 1)) : u.queueFull k .cpq = false := by
  have hroom := h.room
  unfold State.queueFull State.queueHeld
  rw [h.log, h.req]
  show (decide (32 ≤ (u.core k).queued .cpq) || (isTileCore k && false) || false) = false
  rw [decide_eq_false (by omega), Bool.and_false]
  rfl

theorem State.CopyRoom.accept {n : Nat} (h : u.CopyRoom k (n + 1)) {d : Cmd} (hq : d.q = .cpq) (hs : d.started = false)
    (hl : d.logWait = false) : (State.tick (u.onCore k fun c => { c with cmds := c.cmds ++ [d] })).CopyRoom k n := by
  have hcore := u.core_pushed k d
  have hroom := h.room
  refine ⟨?_, ?_, h.req⟩
  · rw [hcore]
    unfold Core.queued at hroom ⊢
    dsimp only
    rw [List.filter_append, List.length_append]
    simp [hq, hs]
    omega
  · rw [hcore]
    dsimp only
    rw [List.any_append, h.log]
    simp [hl]

/-- A transfer program whose copies all find room is pushed whole. -/
theorem State.pushPlan_pushes (ws : List (Word × Nat)) (h : u.CopyRoom k ws.length) :
    let t := u.pushPlan k ws
    (t.core k).pc = (u.core k).pc + 8 ∧ (t.core k).plan = [] ∧ (t.core k).x = (u.core k).x ∧
      ∃ new, (t.core k).cmds = (u.core k).cmds ++ new ∧ new.length = ws.length ∧ ∀ d ∈ new, d.xfer = true ∧ d.q = .cpq := by
  induction ws generalizing u with
  | nil =>
    obtain ⟨hpc, -, hplan, hx⟩ := State.finished (w := u) (k := k) rfl rfl
    refine ⟨hpc, hplan, hx, [], ?_, rfl, by simp⟩
    unfold State.pushPlan State.finish
    rw [State.core_onCore_same, List.append_nil]
    rfl
  | cons w ws ih =>
    obtain ⟨w, t⟩ := w
    have hacc := u.accept_copy k [bytesHandle (windowVa t (fld w 20 20).toNat) (8 * (fld w 48 16).toNat) 1,
      bytesHandle (fld w 0 20).toNat (8 * (fld w 48 16).toNat) 0] (u.core k).pc
    generalize hd : u.copyCmd k _ _ = d at hacc
    have hcore := u.core_pushed k d
    obtain ⟨hpc, hplan, hx, new, hcmds, hlen, hnew⟩ := ih (h.accept (d := d) (by rw [← hd]; rfl) (by rw [← hd]; rfl) (by rw [← hd]; rfl))
    have hpush : u.pushPlan k ((w, t) :: ws) = (State.tick (u.onCore k fun c => { c with cmds := c.cmds ++ [d] })).pushPlan k ws := by
      rw [State.pushPlan, h.notFull, ← hacc]
      rfl
    dsimp only at hpc hplan hx hcmds ⊢
    rw [hpush, hpc, hplan, hx, hcmds, hcore]
    refine ⟨rfl, rfl, rfl, d :: new, by simp, by simp [hlen], fun e he => ?_⟩
    rcases List.mem_cons.1 he with rfl | he
    · rw [← hd]
      exact ⟨rfl, rfl⟩
    · exact hnew e he

theorem exec_xfer_pushes {w : Word × Nat} {ws : List (Word × Nat)} (hr : s.Runs (.xfer g ra)) (hp : (s.core s.me).plan = w :: ws)
    (hb : (s.core s.me).broken = false) (hreq : (s.tile (coreTile s.me)).req = none)
    (hroom : (s.core s.me).queued .cpq + ws.length < 32)
    (hlog : ((s.core s.me).cmds.any fun d => d.q == .cpq && d.logWait) = false) :
    ∃ t, exec (.xfer g ra) s = .next t ∧ (t.core s.me).pc = (s.core s.me).pc + 8 ∧ (t.core s.me).plan = [] ∧
      (t.core s.me).x = (s.core s.me).x ∧ ∃ new, (t.core s.me).cmds = (s.core s.me).cmds ++ new ∧
        new.length = (w :: ws).length ∧ ∀ d ∈ new, d.xfer = true ∧ d.q = .cpq := by
  have hexec : exec (.xfer g ra) s = .next ((s.ready (.xfer g ra)).pushPlan s.me (w :: ws)) := by
    refine (hr.exec rfl).trans (congrArg Host.Outcome.next ?_)
    dsimp only
    rw [hr.field Core.plan fun _ _ => rfl, hp, hr.field Core.broken fun _ _ => rfl, hb]
    exact if_neg Bool.false_ne_true
  have hfit : (s.ready (.xfer g ra)).CopyRoom s.me (w :: ws).length := by
    refine ⟨?_, (hr.field (fun c : Core => c.cmds.any fun d => d.q == .cpq && d.logWait) fun _ _ => rfl).trans hlog, by rw [hr.tile, hreq]⟩
    rw [hr.field (fun c : Core => c.queued .cpq) fun _ _ => rfl, List.length_cons]
    omega
  obtain ⟨hpc, hplan, hx, new, hcmds, hnew⟩ := State.pushPlan_pushes (w :: ws) hfit
  exact ⟨_, hexec, hpc.trans (by rw [hr.field Core.pc fun _ _ => rfl]), hplan, hx.trans (hr.field Core.x fun _ _ => rfl), new,
    hcmds.trans (by rw [hr.field Core.cmds fun _ _ => rfl]), hnew⟩

end Transfer

end Machine

/-! ## The statements -/

/-- Settles O58, word by word. -/
theorem compactWords : Obligations.CompactWords := by
  unfold Obligations.CompactWords
  intro s v y g ra cp p w ws dsc e d bid id jb t0 x fl
  dsimp only
  refine ⟨fun i hi hr ht hp hs hal hh => ?_, fun ⟨hr, ht, hb, hc, hk, hph⟩ => sign_signs ⟨hr, ht, hb, hc, hk, hph⟩,
    fun ⟨hr, ht, hb, hc, hk, hph⟩ hh => sstep_opens ⟨hr, ht, hb, hc, hk, hph⟩ hh,
    fun ⟨hr, ht, hb, hc, hk, hph⟩ => ⟨exec_dissolve_passed ⟨hr, ht, hb, hc, hk, hph⟩,
      fun hm hh => dissolve_frees ⟨hr, ht, hb, hc, hk, hph⟩ hm hh⟩,
    fun i hi hr hb hh => broken_traps hi hr hb hh,
    fun i hi => ⟨fun ⟨⟨hr, ht, hp, hread⟩, hbad, he⟩ hb hh => ?_, fun ⟨⟨hr, ht, hp, hread⟩, hbad, he⟩ hb hs => ?_⟩,
    fun i hi ⟨hr, ht, hp, hread⟩ hbad => ?_, fun ⟨⟨hr, ht, hp, hread⟩, hbad, he⟩ hs hstale => ?_,
    fun ⟨⟨hr, ht, hp, hread⟩, hbad, he⟩ hs ⟨h1, h2, h3, h4, h5, h6⟩ hrc hf => ?_,
    fun ⟨⟨hr, ht, hp, hread⟩, hbad, he⟩ hs ⟨h1, h2, h3, h4, h5, h6⟩ hrc => ?_,
    fun hr ht hs hk ⟨hpin, hrel⟩ => ?_, fun i hi ⟨⟨hr, ht, hp, hread⟩, hbad, he⟩ hb hc hs hrel => ?_,
    fun hr hp hb hc hreq hroom hlog => exec_xfer_pushes hr hp hb hreq hroom hlog, exec_compactTimeout⟩
  · obtain ⟨body, hexec⟩ := exec_desc_reads (hi.imp_left fun h => ⟨h, hs⟩) hr ht hp
    exact ⟨_, hexec.trans (congrArg Host.Outcome.next (State.withDesc_misaligned hal)),
      (State.ready_named hr).trapsTo hr.running (by decide) hh⟩
  · obtain ⟨body, hexec⟩ := exec_compact_reads hi hr ht hp
    exact ⟨_, hexec.trans (congrArg Host.Outcome.next (State.withCompact_broken hread hbad he hb)), State.trapBroken_breaks hh⟩
  · obtain ⟨body, hexec⟩ := exec_compact_reads hi hr ht hp
    exact hexec.trans (congrArg Host.Outcome.next (State.withCompact_stranger hread hbad he hb hs))
  · obtain ⟨body, hexec⟩ := exec_desc_reads hi hr ht hp
    exact hexec.trans (congrArg Host.Outcome.next (State.withDesc_fails hread hbad))
  · rw [exec_sign_reads hr ht hs, State.withDesc_passes hread hbad he,
      State.signChecked_stale fun h => hstale ⟨h.compact, h.signing, (fits_iff.1 h.fits).1, (fits_iff.1 h.fits).2, h.bar, h.grid⟩]
    rfl
  · rw [exec_sign_reads hr ht hs, State.withDesc_passes hread hbad he, State.signChecked_unmapped ⟨h1, h2, fits_iff.2 ⟨h3, h4⟩, h5, h6⟩ hrc hf]
    rfl
  · have hexec := exec_sign_reads hr ht hs
    rw [State.withDesc_passes hread hbad he, State.signChecked_claims ⟨h1, h2, fits_iff.2 ⟨h3, h4⟩, h5, h6⟩ hrc rfl] at hexec
    exact ⟨hexec, fun ⟨hpin, hrel⟩ => hexec.trans (congrArg Host.Outcome.next (State.signOn_clear hpin hrel))⟩
  · exact (exec_sign_goesOn hr ht hs hk).trans (congrArg Host.Outcome.next (State.signOn_clear hpin hrel))
  · exact exec_arrives hi hr ht hread hbad he hb hc hs hrel

end Sys2Proof

/-! SUPPORT. What the vector instructions leave in the lanes, the registers and the predicates, and the proof of O46. -/

namespace Sys2Proof
open Machine

namespace Machine

/-! ## Memory bit by bit (R170, R221) -/

/-- Bit `b` counted from byte `key` of a memory. -/
def memBit (m : List Host.Cell) (key b : Nat) : Bool := (memGet m (key + b / 8)).getLsbD (b % 8)

theorem testBit_leNat (bs : List Byte) (j : Nat) : (leNat bs).testBit j = (bs.getD (j / 8) 0).getLsbD (j % 8) := by
  induction bs generalizing j with
  | nil => simp [leNat]
  | cons b bs ih =>
    have hb : b.toNat < 2 ^ 8 := b.isLt
    rw [leNat, show b.toNat + 256 * leNat bs = 2 ^ 8 * leNat bs + b.toNat by omega, Nat.testBit_two_pow_mul_add _ hb]
    split
    · next h => rw [show j / 8 = 0 by omega, Nat.mod_eq_of_lt h]; rfl
    · next h =>
      rw [ih, show j / 8 = (j - 8) / 8 + 1 by omega, show j % 8 = (j - 8) % 8 by omega]
      rfl

theorem getLsbD_toBytes (n v i j : Nat) (hi : i < n) (hj : j < 8) : ((toBytes n v).getD i 0).getLsbD j = v.testBit (8 * i + j) := by
  induction n generalizing v i with
  | zero => omega
  | succ n ih =>
    cases i with
    | zero =>
      rw [toBytes, List.getD_cons_zero, BitVec.getLsbD_ofNat]
      simp [hj]
    | succ i =>
      rw [toBytes, List.getD_cons_succ, ih _ _ (by omega), show (256 : Nat) = 2 ^ 8 from rfl, Nat.testBit_div_two_pow]
      congr 1
      omega

theorem testBit_readNat (s : State) (key n j : Nat) : (s.readNat key n).testBit j = (decide (j < 8 * n) && memBit s.mem key j) := by
  unfold State.readNat memBit
  rw [testBit_leNat, List.getD_eq_getElem?_getD]
  by_cases h : j / 8 < n
  · rw [memRead_get _ _ _ _ h, decide_eq_true (by omega : j < 8 * n)]
    rfl
  · rw [List.getElem?_eq_none (by rw [memRead_length]; omega), decide_eq_false (by omega : ¬j < 8 * n)]
    simp

/-- The bits that a write of an element leaves. -/
theorem memBit_storeNat {s : State} (hm : Memory.wf s.mem = true) (key n v b : Nat) (hb : b / 8 < n) :
    memBit (s.storeNat key n v).mem key b = v.testBit b := by
  unfold memBit State.storeNat
  have hlen : b / 8 < (toBytes n v).length := by rwa [toBytes_length]
  rw [State.mem_store, memGet_memWrite_at _ _ _ hm hlen, ← List.getD_eq_getElem _ 0 hlen, getLsbD_toBytes _ _ _ _ hb (Nat.mod_lt _ (by decide))]
  congr 1
  omega

theorem testBit_getFld (v lo n j : Nat) : (getFld v lo n).testBit j = (decide (j < n) && v.testBit (lo + j)) := by
  unfold getFld
  rw [Nat.testBit_mod_two_pow, Nat.testBit_div_two_pow, Nat.add_comm]

theorem testBit_readBits (s : State) (key bit w j : Nat) : (s.readBits key bit w).testBit j = (decide (j < w) && memBit s.mem key (bit + j)) := by
  unfold State.readBits
  dsimp only
  rw [testBit_getFld, testBit_readNat]
  by_cases h : j < w
  · rw [decide_eq_true h, decide_eq_true (by omega), Bool.true_and, Bool.true_and, Bool.true_and]
    unfold memBit
    rw [show key + bit / 8 + (bit % 8 + j) / 8 = key + (bit + j) / 8 by omega, show (bit % 8 + j) % 8 = (bit + j) % 8 by omega]
  · rw [decide_eq_false h, Bool.false_and, Bool.false_and]

theorem memGet_writeBits (s : State) (key bit w v : Nat) {x : Nat} (h : ¬(key + bit / 8 ≤ x ∧ x < key + bit / 8 + (bit % 8 + w + 7) / 8)) :
    memGet (s.writeBits key bit w v).mem x = memGet s.mem x := by
  unfold State.writeBits State.storeNat
  rw [State.mem_store, memGet_memWrite_other _ _ (by rw [toBytes_length]; omega)]

theorem memBit_shift (m : List Host.Cell) {key a b : Nat} (h : a ≤ b / 8) : memBit m key b = memBit m (key + a) (b - 8 * a) := by
  unfold memBit
  rw [show key + a + (b - 8 * a) / 8 = key + b / 8 by omega, show (b - 8 * a) % 8 = b % 8 by omega]

/-- A write of bits leaves those it names, and every other bit as it was. -/
theorem memBit_writeBits {s : State} (hm : Memory.wf s.mem = true) (key bit w v b : Nat) :
    memBit (s.writeBits key bit w v).mem key b = if bit ≤ b ∧ b < bit + w then v.testBit (b - bit) else memBit s.mem key b := by
  by_cases h : bit / 8 ≤ b / 8 ∧ b / 8 < bit / 8 + (bit % 8 + w + 7) / 8
  · rw [memBit_shift _ h.1]
    unfold State.writeBits
    dsimp only
    rw [memBit_storeNat hm _ _ _ _ (by omega), testBit_setFld, testBit_readNat]
    split
    · rw [if_pos (by omega)]
      congr 1
      omega
    · rw [if_neg (by omega), decide_eq_true (by omega), Bool.true_and, ← memBit_shift _ h.1]
  · rw [if_neg (by omega)]
    unfold memBit
    rw [memGet_writeBits _ _ _ _ _ (by omega)]

theorem readBits_writeBits_same {s : State} (hm : Memory.wf s.mem = true) (key bit w v : Nat) :
    (s.writeBits key bit w v).readBits key bit w = v % 2 ^ w := by
  refine Nat.eq_of_testBit_eq fun j => ?_
  rw [testBit_readBits, Nat.testBit_mod_two_pow, memBit_writeBits hm]
  by_cases h : j < w
  · rw [if_pos (by omega), Nat.add_sub_cancel_left]
  · rw [decide_eq_false h, Bool.false_and, Bool.false_and]

theorem readBits_writeBits_other {s : State} (hm : Memory.wf s.mem = true) (key bit w v bit' w' : Nat) (h : bit' + w' ≤ bit ∨ bit + w ≤ bit') :
    (s.writeBits key bit w v).readBits key bit' w' = s.readBits key bit' w' := by
  refine Nat.eq_of_testBit_eq fun j => ?_
  rw [testBit_readBits, testBit_readBits, memBit_writeBits hm]
  by_cases hj : j < w'
  · rw [if_neg (by omega)]
  · rw [decide_eq_false hj, Bool.false_and, Bool.false_and]

/-! ## Lanes that stand apart (R187, R216, R221) -/

theorem lines_apart {l l' e e' p w len : Nat} (hp : w * len ≤ 8 * p) (he : e < len) (h : l < l') :
    8 * (l * p) + w * e + w ≤ 8 * (l' * p) + w * e' := by
  have h1 : w * (e + 1) ≤ w * len := Nat.mul_le_mul_left w he
  have h2 : (l + 1) * p ≤ l' * p := Nat.mul_le_mul_right p h
  rw [Nat.mul_add, Nat.mul_one] at h1
  rw [Nat.add_mul, Nat.one_mul] at h2
  omega

theorem line_apart {l e e' p w : Nat} (h : e < e') : 8 * (l * p) + w * e + w ≤ 8 * (l * p) + w * e' := by
  have h1 : w * (e + 1) ≤ w * e' := Nat.mul_le_mul_left w h
  rw [Nat.mul_add, Nat.mul_one] at h1
  omega

/-- Two elements of lines that do not overlap stand apart. -/
theorem spans_apart {l l' e e' p w len : Nat} (hp : w * len ≤ 8 * p) (he : e < len) (he' : e' < len) (hne : ¬(l = l' ∧ e = e')) :
    8 * (l * p) + w * e + w ≤ 8 * (l' * p) + w * e' ∨ 8 * (l' * p) + w * e' + w ≤ 8 * (l * p) + w * e := by
  rcases Nat.lt_trichotomy l l' with h | rfl | h
  · exact .inl (lines_apart hp he h)
  · rcases Nat.lt_trichotomy e e' with h | rfl | h
    · exact .inl (line_apart h)
    · exact absurd ⟨rfl, rfl⟩ hne
    · exact .inr (line_apart h)
  · exact .inr (lines_apart hp he' h)

/-- The bits of two elements of a handle stand apart, or the elements are one. -/
theorem elemBit_apart {h : Wide} (hp : lineBytes h ≤ hPitch h) {r c r' c' : Nat} (hr : r < hRows h) (hc : c < hCols h) (hr' : r' < hRows h)
    (hc' : c' < hCols h) (hne : ¬(r = r' ∧ c = c')) :
    elemBit h r c + hWidth h ≤ elemBit h r' c' ∨ elemBit h r' c' + hWidth h ≤ elemBit h r c := by
  unfold lineBytes hLineLen at hp
  unfold elemBit
  dsimp only
  split
  · next hcol =>
    rw [if_pos hcol] at hp
    exact spans_apart (by omega) hr hr' fun h => hne ⟨h.2, h.1⟩
  · next hcol =>
    rw [if_neg hcol] at hp
    exact spans_apart (by omega) hc hc' hne

theorem laneAt_bounds {h : Wide} {i r c : Nat} (hl : laneAt h i = some (r, c)) : r < hRows h ∧ c < hCols h := by
  unfold laneAt at hl
  dsimp only at hl
  split at hl
  · next hb =>
    obtain ⟨h1, h2⟩ := Prod.mk.inj (Option.some.inj hl)
    have hpos : 0 < hCols h := by
      by_contra h0
      have hz : hCols h = 0 := by omega
      rw [hz] at hb
      omega
    have hlt : (hCursor h + i).toNat < hRows h * hCols h := by omega
    subst h1 h2
    exact ⟨Nat.div_lt_of_lt_mul (by rwa [Nat.mul_comm]), Nat.mod_lt _ hpos⟩
  · cases hl

theorem laneAt_inj {h : Wide} {i j : Nat} {rc : Nat × Nat} (hi : laneAt h i = some rc) (hj : laneAt h j = some rc) : i = j := by
  unfold laneAt at hi hj
  dsimp only at hi hj
  split at hi
  · split at hj
    · next h1 h2 =>
      obtain ⟨hq, hr⟩ := Prod.mk.inj ((Option.some.inj hi).trans (Option.some.inj hj).symm)
      have he : (hCursor h + i).toNat = (hCursor h + j).toNat := by
        rw [← Nat.div_add_mod (hCursor h + i).toNat (hCols h), hq, hr, Nat.div_add_mod]
      omega
    · cases hj
  · cases hi

/-! ## The lanes of a destination (R216, R220) -/

section Put

variable {h : Wide} (hp : lineBytes h ≤ hPitch h)
include hp

theorem State.elem_setElem_other {s : State} (hs : s.Canon) (store : Nat) {i j r c r' c' : Nat} (v : Nat) (hi : laneAt h i = some (r, c))
    (hj : laneAt h j = some (r', c')) (hne : i ≠ j) : (s.setElem store h r c v).elem store h r' c' = s.elem store h r' c' := by
  obtain ⟨hr, hc⟩ := laneAt_bounds hi
  obtain ⟨hr', hc'⟩ := laneAt_bounds hj
  refine readBits_writeBits_other hs.mem _ _ _ _ _ _ (elemBit_apart hp hr' hc' hr hc fun he => hne ?_)
  obtain ⟨rfl, rfl⟩ := he
  exact laneAt_inj hi hj

/-- Lanes that are written leave the others. -/
theorem State.elem_putLanes_other (store : Nat) {j r' c' : Nat} (hj : laneAt h j = some (r', c')) (ps : List (Nat × Nat)) :
    ∀ {s : State}, s.Canon → (∀ e ∈ ps, e.1 ≠ j) → (s.putLanes store h ps).elem store h r' c' = s.elem store h r' c' := by
  induction ps with
  | nil => intro s _ _; rfl
  | cons e ps ih =>
    intro s hs hne
    unfold State.putLanes
    rw [List.foldl_cons]
    have hrest (e' : Nat × Nat) (he : e' ∈ ps) : e'.1 ≠ j := hne e' (List.mem_cons_of_mem _ he)
    split
    · next r c hl =>
      refine (ih (State.setElem_canon _ _ _ _ _ _ hs) hrest).trans ?_
      exact State.elem_setElem_other hp hs store e.2 hl hj (hne e List.mem_cons_self)
    · exact ih hs hrest

/-- Every lane that is written takes what is written to it. -/
theorem State.elem_putLanes (store : Nat) {j r c v : Nat} (hj : laneAt h j = some (r, c)) (ps : List (Nat × Nat)) :
    ∀ {s : State}, s.Canon → (ps.map (·.1)).Nodup → (j, v) ∈ ps → (s.putLanes store h ps).elem store h r c = v % 2 ^ hWidth h := by
  induction ps with
  | nil => intro s _ _ hm; exact absurd hm List.not_mem_nil
  | cons e ps ih =>
    intro s hs hn hm
    rw [List.map_cons, List.nodup_cons] at hn
    unfold State.putLanes
    rw [List.foldl_cons]
    rcases List.mem_cons.1 hm with rfl | hm
    · dsimp only
      rw [hj]
      refine (State.elem_putLanes_other hp store hj ps (State.setElem_canon _ _ _ _ _ _ hs) fun e he hej => ?_).trans ?_
      · exact hn.1 (List.mem_map.2 ⟨e, he, hej⟩)
      · exact readBits_writeBits_same hs.mem _ _ _ _
    · split
      · exact ih (State.setElem_canon _ _ _ _ _ _ hs) hn.2 hm
      · exact ih hs hn.2 hm

end Put

/-- No byte outside the elements is written. -/
theorem State.memGet_putLanes (store : Nat) (h : Wide) (x : Nat) (ps : List (Nat × Nat)) : ∀ (s : State),
    (∀ e ∈ ps, ∀ r c, laneAt h e.1 = some (r, c) → ¬(elemKey store h r c ≤ x ∧ x < elemKey store h r c + elemBytes h r c)) →
    memGet (s.putLanes store h ps).mem x = memGet s.mem x := by
  induction ps with
  | nil => intro s _; rfl
  | cons e ps ih =>
    intro s hout
    have hrest e' (he : e' ∈ ps) := hout e' (List.mem_cons_of_mem _ he)
    unfold State.putLanes
    rw [List.foldl_cons]
    split
    · next r c hl =>
      refine (ih _ hrest).trans (memGet_writeBits _ _ _ _ _ ?_)
      exact hout e List.mem_cons_self r c hl
    · exact ih s hrest

/-- A write of bits is a write of memory, and clears marks. -/
theorem State.field_putLanes {β : Type} (F : State → β) (hs : ∀ (t : State) key bs, F (t.store key bs) = F t) (s : State) (store : Nat)
    (h : Wide) (ps : List (Nat × Nat)) : F (s.putLanes store h ps) = F s := by
  refine foldl_field F _ _ (fun t e => ?_) s
  split
  · exact hs t _ _
  · rfl

theorem State.field_freshWords {β : Type} (F : State → β) (hF : ∀ (t : State) m, F { t with marks := m } = F t) (s : State)
    (bits : List (Nat × Nat)) : F (s.freshWords bits) = F s := by
  unfold State.freshWords
  split
  · rfl
  · refine foldl_field F _ _ (fun u w => ?_) s
    dsimp only
    split
    · exact hF u _
    · rfl

/-- The place of lane `i` in the destination. -/
def VEntry.place (e : VEntry) (i : Nat) : Nat × Nat := (laneAt e.d i).getD (0, 0)

/-- Is `x` a byte of the element at lane `i` of the destination? -/
def VEntry.Inside (e : VEntry) (k x i : Nat) : Prop :=
  elemKey (storeBase k) e.d (e.place i).1 (e.place i).2 ≤ x ∧
    x < elemKey (storeBase k) e.d (e.place i).1 (e.place i).2 + elemBytes e.d (e.place i).1 (e.place i).2

/-- `t` is `s` with the active lanes of the destination written to `v` and their flags set, but for the bytes of `skip`. -/
def State.Writes (s t : State) (k : Nat) (e : VEntry) (skip : Nat → Prop) (v : Nat → Nat × Flags) : Prop :=
  hFmt e.d < 22 → handleShape e.d = false →
    (∀ i ∈ e.active, t.elem (storeBase k) e.d (e.place i).1 (e.place i).2 = (v i).1 % 2 ^ hWidth e.d) ∧
    (∀ x, ¬skip x → (∀ i ∈ e.active, ¬e.Inside k x i) → memGet t.mem x = memGet s.mem x) ∧
    (t.core k).fpstat = e.active.foldl (fun f i => f ||| (v i).2.zeroExtend 64) (s.core k).fpstat ∧
    (t.core k).x = (s.core k).x ∧ (t.core k).h = (s.core k).h ∧ (t.core k).vp = (s.core k).vp

theorem handleShape_pitch {h : Wide} (hs : handleShape h = false) : lineBytes h ≤ hPitch h := by
  unfold handleShape at hs
  simp only [Bool.or_eq_false_iff, decide_eq_false_iff_not] at hs
  omega

theorem foldl_raise {α : Type} (f : Nat → α × Flags) (is : List Nat) (a : Flags) (w : Word) :
    w ||| (is.foldl (fun b i => b ||| (f i).2) a).zeroExtend 64 = is.foldl (fun w i => w ||| (f i).2.zeroExtend 64) (w ||| a.zeroExtend 64) := by
  induction is generalizing a with
  | nil => rfl
  | cons i is ih =>
    rw [List.foldl_cons, List.foldl_cons, ih]
    congr 1
    ext j
    simp [Bool.or_assoc]

/-- An active lane of a word that has a destination stands in it. -/
theorem VEntry.active_place {e : VEntry} (hd : asHandle e.i.slots.d e.d = some e.d) {i : Nat} (hi : i ∈ e.active) :
    laneAt e.d i = some (e.place i) := by
  have hact := (List.mem_filter.1 hi).2
  unfold VEntry.activeLane at hact
  have hall := List.all_eq_true.1 (Bool.and_eq_true_iff.1 hact).2
  have hmem : e.d ∈ e.handles := by
    unfold VEntry.handles
    rw [hd]
    exact List.mem_cons_self
  obtain ⟨rc, hrc⟩ := Option.isSome_iff_exists.1 (hall e.d hmem)
  unfold VEntry.place
  rw [hrc]
  rfl

/-- No byte outside the elements is written. -/
theorem State.memGet_mapLanes {s : State} {k : Nat} {e : VEntry} (hd : asHandle e.i.slots.d e.d = some e.d) (f : Nat → Nat × Flags) {x : Nat}
    (hx : ∀ i ∈ e.active, ¬e.Inside k x i) : memGet (s.mapLanes k e f).mem x = memGet s.mem x := by
  have hmem : (s.mapLanes k e f).mem = (s.putLanes (storeBase k) e.d ((e.active.map fun i => (i, f i)).map fun r => (r.1, r.2.1))).mem :=
    State.field_freshWords State.mem (fun _ _ => rfl) _ _
  rw [hmem]
  refine State.memGet_putLanes _ _ _ _ _ fun e' he' r c hl => ?_
  rw [List.map_map] at he'
  obtain ⟨i, hi, rfl⟩ := List.mem_map.1 he'
  have := hx i hi
  unfold VEntry.Inside at this
  rwa [show e.place i = (r, c) from Option.some.inj ((VEntry.active_place hd hi).symm.trans hl)] at this

/-- The patterns and flags that a word computes stand in its lanes. -/
theorem State.mapLanes_writes {s : State} {k : Nat} {e : VEntry} (hc : s.Canon) (hd : asHandle e.i.slots.d e.d = some e.d) (f : Nat → Nat × Flags) :
    s.Writes (s.mapLanes k e f) k e (fun _ => False) f := by
  intro _ hshape
  have hpitch := handleShape_pitch hshape
  let ps := (e.active.map fun i => (i, f i)).map fun r => (r.1, r.2.1)
  have hps : ps = e.active.map fun i => (i, (f i).1) := List.map_map
  have hmem : (s.mapLanes k e f).mem = (s.putLanes (storeBase k) e.d ps).mem := State.field_freshWords State.mem (fun _ _ => rfl) _ _
  have hcore : (s.mapLanes k e f).core k = (s.core k).raise ((e.active.map fun i => (i, f i)).foldl (fun a r => a ||| r.2.2) noFlags) := by
    unfold State.mapLanes
    dsimp only
    rw [State.core_onCore_same, State.field_freshWords (fun u : State => u.core k) fun _ _ => rfl,
      State.field_putLanes (fun u : State => u.core k) fun t key bs => t.core_store key bs k]
  refine ⟨fun i hi => ?_, fun x _ => State.memGet_mapLanes hd f, ?_, ?_, ?_, ?_⟩
  · have hplace := VEntry.active_place hd hi
    have helem : (s.mapLanes k e f).elem (storeBase k) e.d (e.place i).1 (e.place i).2 =
        (s.putLanes (storeBase k) e.d ps).elem (storeBase k) e.d (e.place i).1 (e.place i).2 := by
      unfold State.elem State.readBits State.readNat
      rw [hmem]
    rw [helem]
    refine State.elem_putLanes hpitch _ hplace ps hc ?_ ?_
    · rw [hps, List.map_map]
      exact (List.nodup_range.filter _).map fun _ _ h => h
    · rw [hps]
      exact List.mem_map.2 ⟨i, hi, rfl⟩
  · rw [hcore, List.foldl_map]
    exact (foldl_raise f e.active noFlags _).trans (by rw [show noFlags.zeroExtend 64 = 0#64 from rfl, BitVec.or_zero])
  · rw [hcore]
    rfl
  · rw [hcore]
    rfl
  · rw [hcore]
    rfl

theorem State.full_mapLanes (s : State) (k : Nat) (e : VEntry) (f : Nat → Nat × Flags) : (s.mapLanes k e f).full = s.full :=
  (State.field_freshWords State.full (fun _ _ => rfl) _ _).trans (State.field_putLanes State.full (fun t key bs => (congrArg State.full (t.store_rest key bs)).symm) s _ _ _)

theorem State.Writes.congr {s t : State} {k : Nat} {e : VEntry} {skip : Nat → Prop} {f v : Nat → Nat × Flags} (h : s.Writes t k e skip f)
    (hf : ∀ i ∈ e.active, f i = v i) : s.Writes t k e skip v := by
  intro h22 hshape
  obtain ⟨helem, hmem, hfp, hrest⟩ := h h22 hshape
  refine ⟨fun i hi => by rw [helem i hi, hf i hi], hmem, hfp.trans ?_, hrest⟩
  exact List.foldl_ext _ _ _ fun a i hi => by rw [hf i hi]

/-- The lanes of the destination, and nothing else of the full bits. -/
def State.Lanes (s t : State) (k : Nat) (e : VEntry) (v : Nat → Nat × Flags) : Prop := s.Writes t k e (fun _ => False) v ∧ t.full = s.full

theorem State.lanes_of_map {s t : State} {k : Nat} {e : VEntry} (hc : s.Canon) (hd : asHandle e.i.slots.d e.d = some e.d) {f v : Nat → Nat × Flags}
    (ht : t = s.mapLanes k e f) (hf : ∀ i ∈ e.active, f i = v i) : s.Lanes t k e v := by
  subst ht
  exact ⟨(State.mapLanes_writes hc hd f).congr hf, s.full_mapLanes k e f⟩

section Arith

variable {s : State} {k : Nat} {e : VEntry} {g : Guard}

/-! ### Arithmetic, moves and conversions (R229 to R233, R236 to R238) -/

/-- An arithmetic word maps its lanes. -/
theorem State.lanes_arith (hc : s.Canon) (hd : asHandle e.i.slots.d e.d = some e.d)
    (ht : s.vecEffect k e = s.mapLanes k e (s.arithLane (storeBase k) e)) {v : Nat → Nat × Flags}
    (hf : ∀ i, s.arithLane (storeBase k) e i = v i) : s.Lanes (s.vecEffect k e) k e v :=
  State.lanes_of_map hc hd ht fun i _ => hf i

theorem lanes_vadd (hc : s.Canon) {o} (hi : e.i = .vadd g o) : s.Lanes (s.vecEffect k e) k e fun i =>
    vecPack e o.rm (Val.add o.rm (s.slotVal (storeBase k) e.i.slots.a e.a i) (s.slotVal (storeBase k) e.i.slots.b e.b i)) := by
  refine State.lanes_arith hc (by rw [hi]; rfl) (by unfold State.vecEffect; rw [hi]) fun i => ?_
  unfold State.arithLane
  rw [hi]

theorem lanes_vsub (hc : s.Canon) {o} (hi : e.i = .vsub g o) : s.Lanes (s.vecEffect k e) k e fun i =>
    vecPack e o.rm (Val.add o.rm (s.slotVal (storeBase k) e.i.slots.a e.a i) (s.slotVal (storeBase k) e.i.slots.b e.b i).neg) := by
  refine State.lanes_arith hc (by rw [hi]; rfl) (by unfold State.vecEffect; rw [hi]) fun i => ?_
  unfold State.arithLane
  rw [hi]

theorem lanes_vmul (hc : s.Canon) {o} (hi : e.i = .vmul g o) : s.Lanes (s.vecEffect k e) k e fun i =>
    vecPack e o.rm (Val.mul (s.slotVal (storeBase k) e.i.slots.a e.a i) (s.slotVal (storeBase k) e.i.slots.b e.b i)) := by
  refine State.lanes_arith hc (by rw [hi]; rfl) (by unfold State.vecEffect; rw [hi]) fun i => ?_
  unfold State.arithLane
  rw [hi]

theorem lanes_vfma (hc : s.Canon) {o} (hi : e.i = .vfma g o) : s.Lanes (s.vecEffect k e) k e fun i =>
    vecPack e o.rm (Val.fma o.rm (s.slotVal (storeBase k) e.i.slots.a e.a i) (s.slotVal (storeBase k) e.i.slots.b e.b i) (s.slotVal (storeBase k) e.i.slots.c e.c i)) := by
  refine State.lanes_arith hc (by rw [hi]; rfl) (by unfold State.vecEffect; rw [hi]) fun i => ?_
  unfold State.arithLane
  rw [hi]

theorem lanes_vabs (hc : s.Canon) {o} (hi : e.i = .vabs g o) : s.Lanes (s.vecEffect k e) k e fun i =>
    (s.slotBits (storeBase k) e.i.slots.a e.a (hWidth e.d) i % 2 ^ (hWidth e.d - 1), noFlags) := by
  refine State.lanes_arith hc (by rw [hi]; rfl) (by unfold State.vecEffect; rw [hi]) fun i => ?_
  unfold State.arithLane
  rw [hi]
  rfl

theorem lanes_vneg (hc : s.Canon) {o} (hi : e.i = .vneg g o) : s.Lanes (s.vecEffect k e) k e fun i =>
    ((s.slotBits (storeBase k) e.i.slots.a e.a (hWidth e.d) i + 2 ^ (hWidth e.d - 1)) % 2 ^ hWidth e.d, noFlags) := by
  refine State.lanes_arith hc (by rw [hi]; rfl) (by unfold State.vecEffect; rw [hi]) fun i => ?_
  unfold State.arithLane
  rw [hi]
  rfl

theorem lanes_vexp2 (hc : s.Canon) {o} (hi : e.i = .vexp2 g o) : s.Lanes (s.vecEffect k e) k e fun i =>
    elemExp2 (fmtOf (hFmt e.d)) o.rm (s.slotVal (storeBase k) e.i.slots.a e.a i) := by
  refine State.lanes_arith hc (by rw [hi]; rfl) (by unfold State.vecEffect; rw [hi]) fun i => ?_
  unfold State.arithLane
  rw [hi]

theorem lanes_vlog2 (hc : s.Canon) {o} (hi : e.i = .vlog2 g o) : s.Lanes (s.vecEffect k e) k e fun i =>
    elemLog2 (fmtOf (hFmt e.d)) o.rm (s.slotVal (storeBase k) e.i.slots.a e.a i) := by
  refine State.lanes_arith hc (by rw [hi]; rfl) (by unfold State.vecEffect; rw [hi]) fun i => ?_
  unfold State.arithLane
  rw [hi]

theorem lanes_vrcp (hc : s.Canon) {o} (hi : e.i = .vrcp g o) : s.Lanes (s.vecEffect k e) k e fun i =>
    elemRcp (fmtOf (hFmt e.d)) o.rm (s.slotVal (storeBase k) e.i.slots.a e.a i) := by
  refine State.lanes_arith hc (by rw [hi]; rfl) (by unfold State.vecEffect; rw [hi]) fun i => ?_
  unfold State.arithLane
  rw [hi]

theorem lanes_vrsq (hc : s.Canon) {o} (hi : e.i = .vrsq g o) : s.Lanes (s.vecEffect k e) k e fun i =>
    elemRsq (fmtOf (hFmt e.d)) o.rm (s.slotVal (storeBase k) e.i.slots.a e.a i) := by
  refine State.lanes_arith hc (by rw [hi]; rfl) (by unfold State.vecEffect; rw [hi]) fun i => ?_
  unfold State.arithLane
  rw [hi]

theorem lanes_vtanh (hc : s.Canon) {o} (hi : e.i = .vtanh g o) : s.Lanes (s.vecEffect k e) k e fun i =>
    elemTanh (fmtOf (hFmt e.d)) o.rm (s.slotVal (storeBase k) e.i.slots.a e.a i) := by
  refine State.lanes_arith hc (by rw [hi]; rfl) (by unfold State.vecEffect; rw [hi]) fun i => ?_
  unfold State.arithLane
  rw [hi]

end Arith

section Arith

variable {s : State} {k : Nat} {e : VEntry} {g : Guard}

/-- `vmin` and `vmax` of a lane, by which of its operands are scalars (R230). -/
def State.pickLane (s : State) (k : Nat) (e : VEntry) (a b : VOp) (m : Bool) (i : Nat) : Nat × Flags :=
  match a, b with
  | .h _, .h _ => pickMin (fmtOf (hFmt e.d)) m (s.slotBits (storeBase k) e.i.slots.a e.a (hWidth e.d) i)
      (s.slotBits (storeBase k) e.i.slots.b e.b (hWidth e.d) i)
  | .h _, .x _ => pickScalar (hFmt e.d) m false (s.slotBits (storeBase k) e.i.slots.a e.a (hWidth e.d) i) (e.b.toNat % 2 ^ 32)
  | .x _, _ => pickScalar (hFmt e.d) m true (s.slotBits (storeBase k) e.i.slots.b e.b (hWidth e.d) i) (e.a.toNat % 2 ^ 32)

theorem lanes_vmin (hc : s.Canon) {o} (hi : e.i = .vmin g o) : s.Lanes (s.vecEffect k e) k e (s.pickLane k e o.a o.b false) := by
  refine State.lanes_arith hc (by rw [hi]; rfl) (by unfold State.vecEffect; rw [hi]) fun i => ?_
  unfold State.arithLane State.pickLane
  rw [hi]
  cases ha : o.a <;> cases hb : o.b <;> simp [Instr.slots, asHandle, ha, hb, hWidth]

theorem lanes_vmax (hc : s.Canon) {o} (hi : e.i = .vmax g o) : s.Lanes (s.vecEffect k e) k e (s.pickLane k e o.a o.b true) := by
  refine State.lanes_arith hc (by rw [hi]; rfl) (by unfold State.vecEffect; rw [hi]) fun i => ?_
  unfold State.arithLane State.pickLane
  rw [hi]
  cases ha : o.a <;> cases hb : o.b <;> simp [Instr.slots, asHandle, ha, hb, hWidth]

theorem lanes_minmax (hc : s.Canon) {o} {m : Bool} (hi : e.i = if m then .vmax g o else .vmin g o) :
    s.Lanes (s.vecEffect k e) k e (s.pickLane k e o.a o.b m) := by
  cases m
  · exact lanes_vmin hc hi
  · exact lanes_vmax hc hi

/-! ### Moves (R236 to R238) -/

/-- The element at lane `j` of slot a, none at N or above (R237). -/
def State.sourceLane (s : State) (k : Nat) (e : VEntry) (j : Nat) : Nat :=
  if j < e.n then (match laneAt e.a j with | some (r, c) => s.elem (storeBase k) e.a r c | none => 0) else 0

theorem lanes_vsel (hc : s.Canon) {o} (hi : e.i = .vsel g o) : s.Lanes (s.vecEffect k e) k e fun i =>
    (if e.c.getLsbD i then s.slotBits (storeBase k) e.i.slots.a e.a (hWidth e.d) i else s.slotBits (storeBase k) e.i.slots.b e.b (hWidth e.d) i, noFlags) := by
  refine State.lanes_of_map hc (by rw [hi]; rfl) (by unfold State.vecEffect; rw [hi]) fun i _ => ?_
  unfold State.moveLane
  rw [hi]

theorem lanes_vperm (hc : s.Canon) {o} (hi : e.i = .vperm g o) : s.Lanes (s.vecEffect k e) k e fun i =>
    (s.sourceLane k e (s.slotBits (storeBase k) e.i.slots.b e.b 8 i), noFlags) := by
  refine State.lanes_of_map hc (by rw [hi]; rfl) (by unfold State.vecEffect; rw [hi]) fun i _ => ?_
  unfold State.moveLane
  rw [hi]
  rfl

theorem lanes_vbcast (hc : s.Canon) {o} (hi : e.i = .vbcast g o) : s.Lanes (s.vecEffect k e) k e fun _ =>
    (s.sourceLane k e (e.b.toNat % 256), noFlags) := by
  refine State.lanes_of_map hc (by rw [hi]; rfl) (by unfold State.vecEffect; rw [hi]) fun i _ => ?_
  unfold State.moveLane
  rw [hi]
  rfl

theorem lanes_vmov (hc : s.Canon) {o} (hi : e.i = .vmov g o) : s.Lanes (s.vecEffect k e) k e fun i =>
    (s.slotBits (storeBase k) e.i.slots.a e.a (hWidth e.d) i, noFlags) := by
  refine State.lanes_of_map hc (by rw [hi]; rfl) (by unfold State.vecEffect; rw [hi]) fun i _ => ?_
  unfold State.moveLane
  rw [hi]

/-! ### Conversions (R232, R233) -/

/-- The scale, the clip and the salt of a conversion, and its mode. -/
def VEntry.scaled (e : VEntry) (p : Bool) : Val := if p then f32Val (e.b.truncate 32) else f32Val 0x3F800000

def VEntry.salt (e : VEntry) (p : Bool) : Word32 := if p then e.b.extractLsb' 32 32 else 0

/-- A lane rounded into the destination's format under a block scale. -/
def State.narrowLane (s : State) (k : Nat) (e : VEntry) (rm : Rm) (scale clip : Val) (salt : Word32) (sc : Nat → Option Int) (i : Nat) :
    Nat × Flags :=
  let x := clipped (s.slotVal (storeBase k) e.i.slots.a e.a i) scale clip 1
  let r := roundBlock (hFmt e.d) rm (sc i) x.1 (s.draw k salt e.d e.dph (e.place i).1 (e.place i).2)
  (r.1, r.2 ||| x.2)

theorem narrow_vcvt {o} (hi : e.i = .vcvt g o) : e.narrow =
    (e.scaled o.scale.isSome, if o.clip.isSome then f32Val (e.c.truncate 32) else .inf false, e.salt o.scale.isSome, o.rm) := by
  unfold VEntry.narrow VEntry.scaled VEntry.salt
  rw [hi]
  dsimp only
  cases o.scale.isSome <;> rfl

theorem narrow_vquant {o} (hi : e.i = .vquant g o) : e.narrow = (e.scaled o.scale.isSome, .inf false, e.salt o.scale.isSome, o.rm) := by
  unfold VEntry.narrow VEntry.scaled VEntry.salt
  rw [hi]
  dsimp only
  cases o.scale.isSome <;> rfl

/-- A conversion of an active lane. -/
theorem cvtLane_eq (s : State) (k : Nat) {e : VEntry} (hd : asHandle e.i.slots.d e.d = some e.d) {scale clip : Val} {salt : Word32} {rm : Rm}
    (hn : e.narrow = (scale, clip, salt, rm)) (sc : Nat → Option Int) {i : Nat} (hi : i ∈ e.active) :
    s.cvtLane k e (sc i) i = s.narrowLane k e rm scale clip salt sc i := by
  unfold State.cvtLane State.narrowLane
  rw [VEntry.active_place hd hi, hn]

theorem laneScale_eq (s : State) (store : Nat) {e : VEntry} (hd : asHandle e.i.slots.d e.d = some e.d) {i : Nat} (hi : i ∈ e.active) :
    s.laneScale store e i = s.scaleOf store e.d (e.place i).1 (e.place i).2 := by
  unfold State.laneScale
  rw [VEntry.active_place hd hi]

theorem lanes_convert (hc : s.Canon) (hd : asHandle e.i.slots.d e.d = some e.d) (ht : s.vecEffect k e = s.convertLanes k e false)
    {scale clip : Val} {salt : Word32} {rm : Rm} (hn : e.narrow = (scale, clip, salt, rm)) : s.Lanes (s.vecEffect k e) k e
      (s.narrowLane k e rm scale clip salt fun i => s.scaleOf (storeBase k) e.d (e.place i).1 (e.place i).2) := by
  refine State.lanes_of_map hc hd (ht.trans rfl) fun i hi => ?_
  rw [if_neg Bool.false_ne_true, laneScale_eq s _ hd hi]
  exact cvtLane_eq s k hd hn (fun i => s.scaleOf (storeBase k) e.d (e.place i).1 (e.place i).2) hi

theorem lanes_vcvt (hc : s.Canon) {o} (hi : e.i = .vcvt g o) : s.Lanes (s.vecEffect k e) k e
    (s.narrowLane k e o.rm (e.scaled o.scale.isSome) (if o.clip.isSome then f32Val (e.c.truncate 32) else .inf false) (e.salt o.scale.isSome)
      fun i => s.scaleOf (storeBase k) e.d (e.place i).1 (e.place i).2) :=
  lanes_convert hc (by rw [hi]; rfl) (by unfold State.vecEffect; rw [hi]) (narrow_vcvt hi)

theorem lanes_vquant (hc : s.Canon) {o} (hi : e.i = .vquant g o) (hcalc : o.calcScales = false) : s.Lanes (s.vecEffect k e) k e
    (s.narrowLane k e o.rm (e.scaled o.scale.isSome) (.inf false) (e.salt o.scale.isSome)
      fun i => s.scaleOf (storeBase k) e.d (e.place i).1 (e.place i).2) :=
  lanes_convert hc (by rw [hi]; rfl) (by unfold State.vecEffect; rw [hi, ← hcalc]) (narrow_vquant hi)

end Arith

/-! ### Computed scales (R213, R233) -/

/-- What bytes written at the keys of a list leave. -/
theorem memGet_foldl_store (f : Nat → Byte) (x : Nat) (ks : List Nat) : ∀ {s : State}, s.Canon →
    memGet (ks.foldl (fun u a => u.store a [f a]) s).mem x = if x ∈ ks then f x else memGet s.mem x := by
  induction ks with
  | nil => intro s _; rfl
  | cons a ks ih =>
    intro s hs
    rw [List.foldl_cons, ih (State.store_canon s a [f a] hs)]
    by_cases hks : x ∈ ks
    · rw [if_pos hks, if_pos (List.mem_cons_of_mem _ hks)]
    · rw [if_neg hks, State.mem_store]
      by_cases hx : x = a
      · subst hx
        rw [if_pos List.mem_cons_self]
        exact memGet_memWrite_at [f x] x 0 hs.mem (by simp)
      · rw [if_neg fun h => (List.mem_cons.1 h).elim hx hks, memGet_memWrite_other]
        rw [List.length_singleton]
        omega

theorem State.readNat_one (s : State) (a : Nat) : s.readNat a 1 = (memGet s.mem a).toNat := by
  unfold State.readNat memRead leNat
  rfl

section Scales

variable {s : State} {k : Nat} {e : VEntry}

/-- The place of the scale of lane `i`. -/
def VEntry.scaleAt (e : VEntry) (k i : Nat) : Nat := scaleKey (storeBase k) e.d (e.place i).1 (e.place i).2

/-- The scale byte that stands at `a`, from the lanes of its block. -/
def State.byteAt (s : State) (k : Nat) (e : VEntry) (scale : Val) (a : Nat) : Nat :=
  scaleByte (hFmt e.d) ((e.active.filter fun j => e.scaleAt k j == a).foldl
    (fun m j => maxMag m (clipped (s.slotVal (storeBase k) e.i.slots.a e.a j) scale (.inf false) 1).1) (some Mag.zero))

theorem scaleByte_lt (fmt : Nat) (m : Option Mag) : scaleByte fmt m < 2 ^ 8 := by
  unfold scaleByte
  dsimp only
  split
  · split <;> decide
  · next m =>
    split
    · decide
    · split <;> omega

theorem State.byteAt_lt (s : State) (k : Nat) (e : VEntry) (scale : Val) (a : Nat) : s.byteAt k e scale a < 2 ^ 8 := scaleByte_lt _ _

theorem memGet_writeScales (hc : s.Canon) (hd : asHandle e.i.slots.d e.d = some e.d) {scale : Val} {salt : Word32} {rm : Rm}
    (hn : e.narrow = (scale, .inf false, salt, rm)) (x : Nat) :
    memGet (s.writeScales k e).mem x = if x ∈ e.active.map (e.scaleAt k) then BitVec.ofNat 8 (s.byteAt k e scale x) else memGet s.mem x := by
  have hts : (e.active.filterMap fun i => (laneAt e.d i).map fun rc => (scaleKey (storeBase k) e.d rc.1 rc.2,
      (clipped (s.slotVal (storeBase k) e.i.slots.a e.a i) scale (.inf false) 1).1)) =
      e.active.map fun i => (e.scaleAt k i, (clipped (s.slotVal (storeBase k) e.i.slots.a e.a i) scale (.inf false) 1).1) := by
    rw [← List.filterMap_eq_map]
    refine List.filterMap_congr fun i hi => ?_
    rw [VEntry.active_place hd hi]
    rfl
  unfold State.writeScales
  dsimp only
  rw [State.field_freshWords State.mem fun _ _ => rfl, hn]
  dsimp only
  rw [hts, memGet_foldl_store _ _ _ hc, List.map_map]
  refine if_congr (List.mem_eraseDups) ?_ rfl
  unfold State.byteAt
  rw [List.filter_map, List.foldl_map]
  rfl

theorem State.full_writeScales (s : State) (k : Nat) (e : VEntry) : (s.writeScales k e).full = s.full := by
  unfold State.writeScales
  dsimp only
  rw [State.field_freshWords State.full fun _ _ => rfl]
  exact foldl_field State.full _ _ (fun t a => (congrArg State.full (t.store_rest a _)).symm) s

theorem State.core_writeScales (s : State) (k : Nat) (e : VEntry) (j : Nat) : (s.writeScales k e).core j = s.core j := by
  unfold State.writeScales
  dsimp only
  rw [State.field_freshWords (fun u : State => u.core j) fun _ _ => rfl]
  exact foldl_field (fun u : State => u.core j) _ _ (fun t a => t.core_store a _ j) s

/-- A scale that was computed is what the lanes of its block are rounded under. -/
theorem scaleOf_writeScales (hc : s.Canon) (hd : asHandle e.i.slots.d e.d = some e.d) {scale : Val} {salt : Word32} {rm : Rm}
    (hn : e.narrow = (scale, .inf false, salt, rm)) (hgeom : hGeom e.d ≠ 0) {i : Nat} (hi : i ∈ e.active) :
    (s.writeScales k e).scaleOf (storeBase k) e.d (e.place i).1 (e.place i).2 = scaleExp (hFmt e.d) (s.byteAt k e scale (e.scaleAt k i)) := by
  unfold State.scaleOf
  rw [if_neg hgeom, State.readNat_one, show scaleKey (storeBase k) e.d (e.place i).1 (e.place i).2 = e.scaleAt k i from rfl,
    memGet_writeScales hc hd hn, if_pos (List.mem_map.2 ⟨i, hi, rfl⟩), BitVec.toNat_ofNat, Nat.mod_eq_of_lt (s.byteAt_lt k e _ _)]

theorem writes_scales (hc : s.Canon) (hd : asHandle e.i.slots.d e.d = some e.d) (ht : s.vecEffect k e = s.convertLanes k e true)
    {scale : Val} {salt : Word32} {rm : Rm} (hn : e.narrow = (scale, .inf false, salt, rm)) (hgeom : hGeom e.d ≠ 0) :
    s.Writes (s.vecEffect k e) k e (fun x => ∃ i ∈ e.active, x = e.scaleAt k i)
      (s.narrowLane k e rm scale (.inf false) salt fun i => scaleExp (hFmt e.d) (s.byteAt k e scale (e.scaleAt k i))) := by
  have hmap : s.vecEffect k e = (s.writeScales k e).mapLanes k e
      fun i => s.cvtLane k e ((s.writeScales k e).laneScale (storeBase k) e i) i := ht.trans rfl
  have hw : (s.writeScales k e).Writes ((s.writeScales k e).mapLanes k e
      fun i => s.cvtLane k e ((s.writeScales k e).laneScale (storeBase k) e i) i) k e (fun _ => False)
      (s.narrowLane k e rm scale (.inf false) salt fun i => scaleExp (hFmt e.d) (s.byteAt k e scale (e.scaleAt k i))) := by
    refine (State.mapLanes_writes (State.writeScales_canon s k e hc) hd _).congr fun i hi => ?_
    rw [laneScale_eq _ _ hd hi, scaleOf_writeScales hc hd hn hgeom hi]
    exact cvtLane_eq s k hd hn (fun i => scaleExp (hFmt e.d) (s.byteAt k e scale (e.scaleAt k i))) hi
  rw [hmap]
  intro h22 hshape
  obtain ⟨helem, hmem, hfp, hx, hh, hvp⟩ := hw h22 hshape
  rw [State.core_writeScales] at hfp hx hh hvp
  refine ⟨helem, fun x hskip hout => (hmem x not_false hout).trans ?_, hfp, hx, hh, hvp⟩
  rw [memGet_writeScales hc hd hn, if_neg]
  intro hm
  obtain ⟨i, hi, he⟩ := List.mem_map.1 hm
  exact hskip ⟨i, hi, he.symm⟩

theorem lanes_vquant_calc {g : Guard} (hc : s.Canon) {o} (hi : e.i = .vquant g o) (hcalc : o.calcScales = true) (hgeom : hGeom e.d ≠ 0) :
    s.Writes (s.vecEffect k e) k e (fun x => ∃ i ∈ e.active, x = e.scaleAt k i)
      (s.narrowLane k e o.rm (e.scaled o.scale.isSome) (.inf false) (e.salt o.scale.isSome)
        fun i => scaleExp (hFmt e.d) (s.byteAt k e (e.scaled o.scale.isSome) (e.scaleAt k i))) :=
  writes_scales hc (by rw [hi]; rfl) (by unfold State.vecEffect; rw [hi, ← hcalc]) (narrow_vquant hi) hgeom

theorem full_vquant_calc {g : Guard} {o} (hi : e.i = .vquant g o) (hcalc : o.calcScales = true) : (s.vecEffect k e).full = s.full := by
  have ht : s.vecEffect k e = s.convertLanes k e true := by
    unfold State.vecEffect
    rw [hi, ← hcalc]
  rw [ht]
  exact (State.full_mapLanes _ _ _ _).trans (s.full_writeScales k e)

/-- The scale of a block, where no element that is written covers it. -/
theorem scale_vquant_calc {g : Guard} (hc : s.Canon) {o} (hi : e.i = .vquant g o) (hcalc : o.calcScales = true) {i : Nat} (hact : i ∈ e.active)
    (hout : ∀ j ∈ e.active, ¬e.Inside k (e.scaleAt k i) j) :
    (s.vecEffect k e).readNat (e.scaleAt k i) 1 = s.byteAt k e (e.scaled o.scale.isSome) (e.scaleAt k i) := by
  have hd : asHandle e.i.slots.d e.d = some e.d := by rw [hi]; rfl
  have ht : s.vecEffect k e = s.convertLanes k e true := by
    unfold State.vecEffect
    rw [hi, ← hcalc]
  rw [ht, State.readNat_one, State.convertLanes, if_pos rfl]
  refine (congrArg BitVec.toNat (State.memGet_mapLanes hd _ hout)).trans ?_
  rw [memGet_writeScales hc hd (narrow_vquant hi), if_pos (List.mem_map.2 ⟨i, hact, rfl⟩), BitVec.toNat_ofNat, Nat.mod_eq_of_lt (s.byteAt_lt k e _ _)]

end Scales

/-! ### Full bits (R222) -/

/-- Is the word at `w` one of those that the element at lane `i` touches? -/
def VEntry.touches (e : VEntry) (k x i : Nat) : Bool :=
  decide (elemKey (storeBase k) e.d (e.place i).1 (e.place i).2 / 8 ≤ x / 8) &&
    decide (x / 8 * 8 < elemKey (storeBase k) e.d (e.place i).1 (e.place i).2 + elemBytes e.d (e.place i).1 (e.place i).2)

theorem State.isFull_setFull {s : State} (hs : s.full.wfFrom 0 = true) (key x : Nat) (b : Bool) :
    (s.setFull key b).isFull x = if x / 8 = key / 8 then b else s.isFull x := by
  unfold State.isFull State.setFull SMap.get
  dsimp only
  by_cases h : x / 8 = key / 8
  · rw [if_pos h, h]
    cases b
    · rw [if_neg Bool.false_ne_true, SMap.find_del_same _ hs]
      rfl
    · rw [if_pos rfl, SMap.find_put_same]
      rfl
  · rw [if_neg h]
    cases b
    · rw [if_neg Bool.false_ne_true, SMap.find_del_other _ h]
    · rw [if_pos rfl, SMap.find_put_other _ _ h]

/-- The words that the bytes of a range touch. -/
theorem State.isFull_setFulls_iff {s : State} (hs : s.Canon) (key n x : Nat) (b : Bool) :
    (s.setFulls key n b).isFull x = if key / 8 ≤ x / 8 ∧ x / 8 * 8 < key + n then b else s.isFull x := by
  have hfold (m : Nat) : (((List.range m).foldl (fun t i => t.setFull ((key / 8 + i) * 8) b) s).Canon) ∧
      ((List.range m).foldl (fun t i => t.setFull ((key / 8 + i) * 8) b) s).isFull x =
        if key / 8 ≤ x / 8 ∧ x / 8 < key / 8 + m then b else s.isFull x := by
    induction m with
    | zero => exact ⟨hs, by rw [if_neg (by omega)]; rfl⟩
    | succ m ih =>
      rw [List.range_succ, List.foldl_append]
      refine ⟨State.setFull_canon _ _ _ ih.1, ?_⟩
      refine (State.isFull_setFull ih.1.full _ _ _).trans ?_
      rw [ih.2]
      split
      · rw [if_pos (by omega)]
      · exact if_congr (by omega) rfl rfl
  refine (hfold _).2.trans (if_congr ?_ rfl rfl)
  omega

theorem State.isFull_laneFulls (k : Nat) (e : VEntry) (hd : asHandle e.i.slots.d e.d = some e.d) (b : Bool) (x : Nat) (is : List Nat) :
    ∀ {s : State}, s.Canon → (∀ i ∈ is, i ∈ e.active) → (is.foldl (fun t i => match laneAt e.d i with
      | some (r, c) => t.setFulls (elemKey (storeBase k) e.d r c) (elemBytes e.d r c) b
      | none => t) s).isFull x = if is.any (e.touches k x) then b else s.isFull x := by
  induction is with
  | nil => intro s _ _; rfl
  | cons i is ih =>
    intro s hs hact
    rw [List.foldl_cons, VEntry.active_place hd (hact i List.mem_cons_self), List.any_cons]
    refine (ih (State.setFulls_canon _ _ _ _ hs) fun j hj => hact j (List.mem_cons_of_mem _ hj)).trans ?_
    rw [State.isFull_setFulls_iff hs, Bool.or_comm, ← ite_or]
    refine if_congr ?_ rfl rfl
    rw [Bool.or_eq_true, VEntry.touches, Bool.and_eq_true, decide_eq_true_eq, decide_eq_true_eq]
    exact Iff.rfl

/-- Full bits are no memory, and no core has them. -/
theorem State.field_laneFulls {β : Type} (F : State → β) (hF : ∀ (t : State) m, F { t with full := m } = F t) (s : State) (k : Nat) (e : VEntry)
    (b : Bool) : F (s.laneFulls k e b) = F s := by
  refine foldl_field F _ _ (fun t i => ?_) s
  split
  · rw [← State.setFulls_rest]
    exact hF t _
  · rfl

section Full

variable {s : State} {k : Nat} {e : VEntry} {g : Guard}

theorem writes_vfill (hc : s.Canon) {o} (hi : e.i = .vfill g o) : s.Writes (s.vecEffect k e) k e (fun _ => False)
    fun i => (s.slotBits (storeBase k) e.i.slots.a e.a (hWidth e.d) i, noFlags) := by
  have ht : s.vecEffect k e = (s.mapLanes k e (s.moveLane (storeBase k) e)).laneFulls k e true := by
    unfold State.vecEffect
    rw [hi]
  have hw : s.Writes (s.mapLanes k e (s.moveLane (storeBase k) e)) k e (fun _ => False)
      fun i => (s.slotBits (storeBase k) e.i.slots.a e.a (hWidth e.d) i, noFlags) := by
    refine (State.mapLanes_writes hc (by rw [hi]; rfl) _).congr fun i _ => ?_
    unfold State.moveLane
    rw [hi]
  have hmem : (s.vecEffect k e).mem = (s.mapLanes k e (s.moveLane (storeBase k) e)).mem := by
    rw [ht]
    exact State.field_laneFulls State.mem (fun _ _ => rfl) _ _ _ _
  have hcore : (s.vecEffect k e).core k = (s.mapLanes k e (s.moveLane (storeBase k) e)).core k := by
    rw [ht]
    exact State.field_laneFulls (fun u : State => u.core k) (fun _ _ => rfl) _ _ _ _
  unfold State.Writes State.elem State.readBits State.readNat at hw ⊢
  rwa [hmem, hcore]

theorem full_vfill (hc : s.Canon) {o} (hi : e.i = .vfill g o) (x : Nat) :
    (s.vecEffect k e).isFull x = (s.isFull x || e.active.any (e.touches k x)) := by
  have ht : s.vecEffect k e = (s.mapLanes k e (s.moveLane (storeBase k) e)).laneFulls k e true := by
    unfold State.vecEffect
    rw [hi]
  rw [ht]
  refine (State.isFull_laneFulls k e (by rw [hi]; rfl) true x _ (State.mapLanes_canon _ _ _ _ hc) fun _ h => h).trans ?_
  have hfull : (s.mapLanes k e (s.moveLane (storeBase k) e)).isFull x = s.isFull x := by
    unfold State.isFull
    rw [State.full_mapLanes]
  rw [hfull]
  cases e.active.any (e.touches k x) <;> simp

theorem full_vempty (hc : s.Canon) {d} (hi : e.i = .vempty g d) : (s.vecEffect k e).mem = s.mem ∧ (s.vecEffect k e).cores = s.cores ∧
    ∀ x, (s.vecEffect k e).isFull x = (s.isFull x && !e.active.any (e.touches k x)) := by
  have ht : s.vecEffect k e = s.laneFulls k e false := by
    unfold State.vecEffect
    rw [hi]
  rw [ht]
  refine ⟨State.field_laneFulls State.mem (fun _ _ => rfl) _ _ _ _, State.field_laneFulls State.cores (fun _ _ => rfl) _ _ _ _, fun x => ?_⟩
  refine (State.isFull_laneFulls k e (by rw [hi]; rfl) false x _ hc fun _ h => h).trans ?_
  cases e.active.any (e.touches k x) <;> simp

end Full

/-! ## Registers and predicates that are written late (R94, R219) -/

/-- No byte outside the register home, no full bit and no handle differs. -/
def State.Home (s t : State) (k : Nat) : Prop :=
  (∀ x, OutsideHome k x → memGet t.mem x = memGet s.mem x) ∧ t.full = s.full ∧ (t.core k).h = (s.core k).h

/-- A register takes `v` and flags are raised, and nothing else. -/
def State.Scalar (s t : State) (k : Nat) (rd : XReg) (v : Word) (fl : Flags) : Prop :=
  s.Home t k ∧ (t.core k).vp = (s.core k).vp ∧ (t.core k).fpstat = (s.core k).fpstat ||| fl.zeroExtend 64 ∧
    ∀ r, (t.core k).rx r = if r = rd ∧ r ≠ 0 then v else (s.core k).rx r

/-- A vector predicate takes `v` lane by lane, and nothing else. -/
def State.Predicate (s t : State) (k : Nat) (pd : PReg) (v : Nat → Bool) : Prop :=
  s.Home t k ∧ (t.core k).x = (s.core k).x ∧ (t.core k).fpstat = (s.core k).fpstat ∧
    ∀ r, ∀ i < 256, ((t.core k).rvp r).getLsbD i = if r = pd ∧ r ≠ 0 then v i else ((s.core k).rvp r).getLsbD i

theorem State.SameBut.lateWrite (s : State) (k : Nat) (words : List Nat) (f : Core → Core) : s.SameBut (s.lateWrite k words f) k := by
  unfold State.lateWrite
  split
  · exact (State.SameBut.fill s k _ _).trans (.onCore _ k _)
  · exact (State.SameBut.onCore s k f).trans (.foldl _ fun t i _ => .writeHome t k i)

/-- The core that a late write finds, but for its register cache. -/
theorem State.core_lateWrite (s : State) (k : Nat) (words : List Nat) (f : Core → Core) :
    ∃ c : Core, c.still = (s.core k).still ∧ (s.lateWrite k words f).core k = f c := by
  unfold State.lateWrite
  split
  · exact ⟨_, s.still_fill k [] words k, State.core_onCore_same _ _ _⟩
  · refine ⟨s.core k, rfl, ?_⟩
    rw [foldl_core _ _ fun t i j => State.core_writeHome t k i j, State.core_onCore_same]

theorem State.SameBut.full {s t : State} {k : Nat} (h : s.SameBut t k) : t.full = s.full := by
  rw [← h.rest]

theorem State.home_lateWrite (s : State) (k : Nat) (words : List Nat) {f : Core → Core} (hf : ∀ c, (f c).h = c.h) :
    s.Home (s.lateWrite k words f) k := by
  obtain ⟨c, hc, hk⟩ := s.core_lateWrite k words f
  have hs := State.SameBut.lateWrite s k words f
  refine ⟨hs.mem, hs.full, ?_⟩
  rw [hk, hf]
  exact Core.field_of_still hc Core.h

theorem Core.wx_rest (c : Core) (r : XReg) (v : Word) : (c.wx r v).h = c.h ∧ (c.wx r v).vp = c.vp ∧ (c.wx r v).fpstat = c.fpstat := by
  unfold Core.wx
  split <;> exact ⟨rfl, rfl, rfl⟩

theorem Core.wvp_rest (c : Core) (r : PReg) (v : Wide) : (c.wvp r v).h = c.h ∧ (c.wvp r v).x = c.x ∧ (c.wvp r v).fpstat = c.fpstat := by
  unfold Core.wvp
  split <;> exact ⟨rfl, rfl, rfl⟩

theorem Core.rvp_wvp (c : Core) (pd : PReg) (v : Wide) (r : PReg) : (c.wvp pd v).rvp r = if r = pd ∧ r ≠ 0 then v else c.rvp r := by
  by_cases h : r = pd
  · subst h
    by_cases h0 : r = 0
    · rw [if_neg (by tauto), Core.wvp, if_pos h0]
    · rw [Core.rvp_wvp_same _ _ h0, if_pos ⟨rfl, h0⟩]
  · rw [Core.rvp_wvp_other _ _ h, if_neg fun h' => h h'.1]

/-- A register that is written late. -/
theorem State.scalar_lateWrite (s : State) (k : Nat) (words : List Nat) (rd : XReg) (v : Word) :
    s.Scalar (s.lateWrite k words fun c => c.wx rd v) k rd v 0 := by
  obtain ⟨c, hc, hk⟩ := s.core_lateWrite k words fun c => c.wx rd v
  refine ⟨s.home_lateWrite k words fun c => (c.wx_rest rd v).1, ?_, ?_, fun r => ?_⟩
  · rw [hk, (c.wx_rest rd v).2.1]
    exact Core.field_of_still hc Core.vp
  · rw [hk, (c.wx_rest rd v).2.2, show (0 : Flags).zeroExtend 64 = 0#64 from rfl, BitVec.or_zero]
    exact Core.field_of_still hc Core.fpstat
  · rw [hk, Core.rx_wx]
    exact if_congr Iff.rfl rfl (Core.field_of_still hc fun d : Core => d.rx r)

theorem State.Scalar.raise {s t : State} {k : Nat} {rd : XReg} {v : Word} (h : s.Scalar t k rd v 0) (fl : Flags) :
    s.Scalar (t.onCore k fun c => c.raise fl) k rd v fl := by
  obtain ⟨⟨hmem, hfull, hh⟩, hvp, hfp, hrx⟩ := h
  rw [show (0 : Flags).zeroExtend 64 = 0#64 from rfl, BitVec.or_zero] at hfp
  refine ⟨⟨hmem, hfull, ?_⟩, ?_, ?_, fun r => ?_⟩
  · rw [State.core_onCore_same]
    exact hh
  · rw [State.core_onCore_same]
    exact hvp
  · rw [State.core_onCore_same, ← hfp]
    rfl
  · rw [State.core_onCore_same]
    exact hrx r

/-- A vector predicate that is written late. -/
theorem State.predicate_lateWrite (s : State) (k : Nat) (words : List Nat) (pd : PReg) (w : Core → Wide) {v : Nat → Bool}
    (hw : ∀ c : Core, w c.still = w c) (hv : ∀ i < 256, (w (s.core k)).getLsbD i = v i) :
    s.Predicate (s.lateWrite k words fun c => c.wvp pd (w c)) k pd v := by
  obtain ⟨c, hc, hk⟩ := s.core_lateWrite k words fun c => c.wvp pd (w c)
  refine ⟨s.home_lateWrite k words fun c => (c.wvp_rest pd (w c)).1, ?_, ?_, fun r i hi => ?_⟩
  · rw [hk, (c.wvp_rest pd (w c)).2.1]
    exact Core.field_of_still hc Core.x
  · rw [hk, (c.wvp_rest pd (w c)).2.2]
    exact Core.field_of_still hc Core.fpstat
  · rw [hk, Core.rvp_wvp, Core.field_of_still hc w hw, Core.field_of_still hc fun d : Core => d.rvp r, apply_ite (BitVec.getLsbD · i), hv i hi]

section Late

variable {s : State} {k : Nat} {e : VEntry} {g : Guard}

/-! ### Reductions (R234) -/

/-- The sum of R234 as its clause spells it. -/
def VEntry.total (e : VEntry) (rm : Rm) (vs : List Val) : Nat × Flags :=
  let xb := f32Val (e.b.truncate 32)
  let sum := (Val.add rm xb (sumVals (zeroSign rm vs) vs)).1
  if vs.isEmpty && !xb.isNan then (e.b.toNat % 2 ^ 32, noFlags)
  else if vs.isEmpty || sum.isNan then writeNan fmtF32 else packIeee fmtF32 rm sum

theorem vredResult_eq (e : VEntry) (rm : Rm) (vs : List Val) : vredResult rm (e.b.toNat % 2 ^ 32) vs = e.total rm vs := by
  have hb : BitVec.ofNat 32 (e.b.toNat % 2 ^ 32) = e.b.truncate 32 := BitVec.eq_of_toNat_eq (by simp)
  unfold vredResult VEntry.total
  rw [hb]
  dsimp only
  cases vs with
  | nil => cases (f32Val (e.b.truncate 32)).isNan <;> simp
  | cons v vs =>
    simp only [List.isEmpty_cons, Bool.false_and, Bool.false_or, if_neg Bool.false_ne_true]
    generalize (Val.add rm (f32Val (e.b.truncate 32)) (sumVals (zeroSign rm (v :: vs)) (v :: vs))).1 = r
    cases r <;> rfl

theorem scalar_vred {o} (hi : e.i = .vred g o) :
    let r := e.total o.rm (e.active.map fun i => s.slotVal (storeBase k) e.i.slots.a e.a i)
    s.Scalar (s.vecEffect k e) k o.rd (BitVec.ofNat 64 r.1) r.2 := by
  have ht : s.vecEffect k e = (s.lateWrite k e.i.lateWords fun c => c.wx o.rd
      (BitVec.ofNat 64 (e.total o.rm (e.active.map fun i => s.slotVal (storeBase k) e.i.slots.a e.a i)).1)).onCore k
        fun c => c.raise (e.total o.rm (e.active.map fun i => s.slotVal (storeBase k) e.i.slots.a e.a i)).2 := by
    rw [← vredResult_eq]
    unfold State.vecEffect
    rw [hi]
  dsimp only
  rw [ht]
  exact (s.scalar_lateWrite k _ o.rd _).raise _

theorem scalar_vamax {o} (hi : e.i = .vamax g o) : s.Scalar (s.vecEffect k e) k o.rd (BitVec.ofNat 64 (max (e.b.toNat % 2 ^ 32)
    (((e.active.map fun i => s.slotVal (storeBase k) e.i.slots.a e.a i).map absBits).foldl max 0))) 0 := by
  have ht : s.vecEffect k e = s.lateWrite k e.i.lateWords fun c => c.wx o.rd (BitVec.ofNat 64 (max (e.b.toNat % 2 ^ 32)
      (((e.active.map fun i => s.slotVal (storeBase k) e.i.slots.a e.a i).map absBits).foldl max 0))) := by
    rw [List.foldl_map]
    unfold State.vecEffect
    rw [hi]
    rfl
  rw [ht]
  exact s.scalar_lateWrite k _ o.rd _

/-! ### Predicates (R239, R240) -/

theorem scalar_vpcnt {o} (hi : e.i = .vpcnt g o) : s.Scalar (s.vecEffect k e) k o.rd (BitVec.ofNat 64
    ((List.range 256).filter fun i => e.a.getLsbD i && e.mask.getLsbD i).length) 0 := by
  have ht : s.vecEffect k e = s.lateWrite k e.i.lateWords fun c => c.wx o.rd (BitVec.ofNat 64 (countBits (e.a &&& e.mask))) := by
    unfold State.vecEffect
    rw [hi]
  have hcount : countBits (e.a &&& e.mask) = ((List.range 256).filter fun i => e.a.getLsbD i && e.mask.getLsbD i).length := by
    unfold countBits
    rw [popCount_eq]
    simp only [BitVec.testBit_toNat, BitVec.getLsbD_and]
  rw [ht, hcount]
  exact s.scalar_lateWrite k _ o.rd _

/-- The first lane of a predicate, 256 where it has none. -/
theorem firstBit_spec (v : Wide) : firstBit v ≤ 256 ∧ (∀ j < firstBit v, v.getLsbD j = false) ∧ (firstBit v < 256 → v.getLsbD (firstBit v) = true) := by
  unfold firstBit
  by_cases h : v.toNat = 0
  · have hv : v = 0 := BitVec.eq_of_toNat_eq h
    rw [h, trailZeros_zero]
    exact ⟨Nat.le_refl _, fun j _ => by rw [hv]; exact BitVec.getLsbD_zero, fun h => absurd h (Nat.lt_irrefl _)⟩
  · obtain ⟨hset, hlow⟩ := trailZeros_spec v.isLt h
    refine ⟨?_, fun j hj => ?_, fun _ => hset⟩
    · by_contra hlt
      rw [Nat.testBit_lt_two_pow (Nat.lt_of_lt_of_le v.isLt (Nat.pow_le_pow_right (by decide) (by omega)))] at hset
      cases hset
    · have := congrArg (Nat.testBit · j) hlow
      simp only [Nat.testBit_mod_two_pow, Nat.zero_testBit, hj, decide_true, Bool.true_and] at this
      exact this

theorem scalar_vpfirst {o} (hi : e.i = .vpfirst g o) : ∃ n ≤ 256, s.Scalar (s.vecEffect k e) k o.rd (BitVec.ofNat 64 n) 0 ∧
    (∀ j < n, (e.a.getLsbD j && e.mask.getLsbD j) = false) ∧ (n < 256 → (e.a.getLsbD n && e.mask.getLsbD n) = true) := by
  have ht : s.vecEffect k e = s.lateWrite k e.i.lateWords fun c => c.wx o.rd (BitVec.ofNat 64 (firstBit (e.a &&& e.mask))) := by
    unfold State.vecEffect
    rw [hi]
  obtain ⟨hle, hlow, hset⟩ := firstBit_spec (e.a &&& e.mask)
  simp only [BitVec.getLsbD_and] at hlow hset
  rw [ht]
  exact ⟨_, hle, s.scalar_lateWrite k _ o.rd _, hlow, hset⟩

theorem scalar_vpmovToX {o} (hi : e.i = .vpmovToX g o) : ∃ v : Word, s.Scalar (s.vecEffect k e) k o.rd v 0 ∧
    ∀ m < 64, v.getLsbD m = (e.a.getLsbD (64 * o.q.toNat + m) && e.mask.getLsbD (64 * o.q.toNat + m)) := by
  have ht : s.vecEffect k e = s.lateWrite k e.i.lateWords fun c => c.wx o.rd (((e.a &&& e.mask) >>> (64 * o.q.toNat)).truncate 64) := by
    unfold State.vecEffect
    rw [hi]
  rw [ht]
  refine ⟨_, s.scalar_lateWrite k _ o.rd _, fun m hm => ?_⟩
  simp [hm]

theorem getLsbD_tableLanes (t : BitVec 8) (a b c : Wide) {i : Nat} (hi : i < 256) : (tableLanes t a b c).getLsbD i =
    t.getLsbD ((if a.getLsbD i then 4 else 0) + (if b.getLsbD i then 2 else 0) + if c.getLsbD i then 1 else 0) := by
  have hstep (acc : Wide) (n : Nat) (x : Wide) : (if t.getLsbD n then acc ||| x else acc).getLsbD i = (acc.getLsbD i || (t.getLsbD n && x.getLsbD i)) := by
    cases t.getLsbD n <;> simp
  unfold tableLanes
  simp only [show List.range 8 = [0, 1, 2, 3, 4, 5, 6, 7] from rfl, List.foldl_cons, List.foldl_nil, hstep]
  cases ha : a.getLsbD i <;> cases hb : b.getLsbD i <;> cases hcc : c.getLsbD i <;> simp [ha, hb, hcc, hi, -BitVec.getLsbD_eq_getElem]

theorem predicate_vplog {o} (hi : e.i = .vplog g o) : s.Predicate (s.vecEffect k e) k o.pd fun i =>
    if e.mask.getLsbD i then o.table.getLsbD
      ((if e.a.getLsbD i then 4 else 0) + (if e.b.getLsbD i then 2 else 0) + if e.c.getLsbD i then 1 else 0)
    else ((s.core k).rvp o.pd).getLsbD i := by
  have ht : s.vecEffect k e = s.lateWrite k e.i.lateWords fun c => c.wvp o.pd
      ((c.rvp o.pd &&& ~~~e.mask) ||| (tableLanes o.table e.a e.b e.c &&& e.mask)) := by
    unfold State.vecEffect
    rw [hi]
  rw [ht]
  refine s.predicate_lateWrite k _ o.pd (fun c => (c.rvp o.pd &&& ~~~e.mask) ||| (tableLanes o.table e.a e.b e.c &&& e.mask)) (fun _ => rfl)
    fun i h => ?_
  rw [BitVec.getLsbD_or, BitVec.getLsbD_and, BitVec.getLsbD_and, getLsbD_tableLanes _ _ _ _ h]
  cases hm : e.mask.getLsbD i <;> simp [hm, h, -BitVec.getLsbD_eq_getElem]

/-- The 64 bits from `q` on. -/
theorem getLsbD_window (q : Nat) {i : Nat} (hi : i < 256) :
    ((BitVec.ofNat 256 (2 ^ 64 - 1)) <<< q).getLsbD i = decide (q ≤ i ∧ i < q + 64) := by
  rw [BitVec.getLsbD_shiftLeft, BitVec.getLsbD_ofNat, Nat.testBit_two_pow_sub_one, decide_eq_true hi]
  by_cases h : q ≤ i
  · rw [decide_eq_false (by omega : ¬i < q), decide_eq_true (by omega : i - q < 256), Bool.true_and, Bool.true_and, Bool.not_false, Bool.true_and,
      decide_eq_decide]
    omega
  · rw [decide_eq_true (by omega : i < q), decide_eq_false fun h' : q ≤ i ∧ i < q + 64 => h h'.1]
    simp

/-- The bits that `vpmov` gives a predicate from a register, the rest kept or cleared. -/
theorem predicate_vpmovFromX {o} (hi : e.i = .vpmovFromX g o) : s.Predicate (s.vecEffect k e) k o.pd fun i => if e.mask.getLsbD i then
      (if 64 * o.q.toNat ≤ i ∧ i < 64 * o.q.toNat + 64 then e.b.getLsbD (i - 64 * o.q.toNat)
        else o.keep && ((s.core k).rvp o.pd).getLsbD i)
    else ((s.core k).rvp o.pd).getLsbD i := by
  let w (c : Core) : Wide := (c.rvp o.pd &&& ~~~e.mask) ||| (((((e.b.truncate 64 : Word).zeroExtend 256) <<< (64 * o.q.toNat)) |||
    (if o.keep then c.rvp o.pd &&& ~~~((BitVec.ofNat 256 (2 ^ 64 - 1)) <<< (64 * o.q.toNat)) else 0)) &&& e.mask)
  have ht : s.vecEffect k e = s.lateWrite k e.i.lateWords fun c => c.wvp o.pd (w c) := by
    unfold State.vecEffect
    rw [hi]
  rw [ht]
  refine s.predicate_lateWrite k _ o.pd w (fun _ => rfl) fun i h => ?_
  dsimp only [w]
  have hrest : ((if o.keep then (s.core k).rvp o.pd &&& ~~~((BitVec.ofNat 256 (2 ^ 64 - 1)) <<< (64 * o.q.toNat)) else 0) : Wide).getLsbD i =
      (o.keep && (((s.core k).rvp o.pd).getLsbD i && !decide (64 * o.q.toNat ≤ i ∧ i < 64 * o.q.toNat + 64))) := by
    cases o.keep
    · exact BitVec.getLsbD_zero
    · rw [if_pos rfl, BitVec.getLsbD_and, BitVec.getLsbD_not, getLsbD_window _ h, decide_eq_true h, Bool.true_and, Bool.true_and]
  have hput : (((e.b.truncate 64 : Word).zeroExtend 256) <<< (64 * o.q.toNat)).getLsbD i =
      (decide (64 * o.q.toNat ≤ i ∧ i < 64 * o.q.toNat + 64) && e.b.getLsbD (i - 64 * o.q.toNat)) := by
    by_cases hq : 64 * o.q.toNat ≤ i ∧ i < 64 * o.q.toNat + 64
    · rw [decide_eq_true hq, BitVec.getLsbD_shiftLeft, BitVec.getLsbD_setWidth, BitVec.getLsbD_setWidth, decide_eq_true h,
        decide_eq_false (by omega : ¬i < 64 * o.q.toNat), decide_eq_true (by omega : i - 64 * o.q.toNat < 256),
        decide_eq_true (by omega : i - 64 * o.q.toNat < 64)]
      rfl
    · rw [decide_eq_false hq, BitVec.getLsbD_shiftLeft, BitVec.getLsbD_setWidth, BitVec.getLsbD_setWidth]
      by_cases hlt : i < 64 * o.q.toNat
      · simp [hlt]
      · simp [show ¬i - 64 * o.q.toNat < 64 by omega]
  rw [BitVec.getLsbD_or, BitVec.getLsbD_and, BitVec.getLsbD_and, BitVec.getLsbD_or, BitVec.getLsbD_not, hrest, hput]
  cases e.mask.getLsbD i <;> by_cases hq : 64 * o.q.toNat ≤ i ∧ i < 64 * o.q.toNat + 64 <;> simp [hq, h]

end Late

/-! ### Compares (R100, R235) -/

theorem getLsbD_setLane (v : Wide) (i : Nat) (b : Bool) {j : Nat} (hj : j < 256) : (setLane v i b).getLsbD j = if j = i then b else v.getLsbD j := by
  unfold setLane
  cases b
  · rw [if_neg Bool.false_ne_true, BitVec.getLsbD_and, BitVec.getLsbD_not, BitVec.getLsbD_twoPow, decide_eq_true hj]
    by_cases h : j = i
    · rw [if_pos h, decide_eq_true h.symm, decide_eq_true (by omega : i < 256)]
      simp
    · rw [if_neg h, decide_eq_false (Ne.symm h)]
      simp
  · rw [if_pos rfl, BitVec.getLsbD_or, BitVec.getLsbD_twoPow]
    by_cases h : j = i
    · rw [if_pos h, decide_eq_true h.symm, decide_eq_true (by omega : i < 256)]
      simp
    · rw [if_neg h, decide_eq_false (Ne.symm h)]
      simp

/-- One lane of a predicate that a compare writes. -/
def VEntry.laneStep (e : VEntry) (clr : Bool) (q : Nat → Bool) (w : Wide) (i : Nat) : Wide :=
  if e.activeLane i then setLane w i (q i) else if clr then setLane w i false else w

/-- A lane of a predicate after a compare: `q` where active, and cleared or as it was where not. -/
def VEntry.comparedLane (e : VEntry) (clr : Bool) (q old : Nat → Bool) (n i : Nat) : Bool :=
  if n ≤ i then old i else if e.activeLane i then q i else old i && !clr

theorem VEntry.getLsbD_laneStep (e : VEntry) (clr : Bool) (q : Nat → Bool) (w : Wide) (n : Nat) {i : Nat} (hi : i < 256) :
    (e.laneStep clr q w n).getLsbD i = if i = n then (if e.activeLane n then q n else w.getLsbD n && !clr) else w.getLsbD i := by
  unfold VEntry.laneStep
  split
  · rw [getLsbD_setLane _ _ _ hi]
  · cases clr
    · rw [if_neg Bool.false_ne_true, Bool.not_false, Bool.and_true]
      split
      · next h => rw [h]
      · rfl
    · rw [if_pos rfl, getLsbD_setLane _ _ _ hi, Bool.not_true, Bool.and_false]

theorem VEntry.getLsbD_foldl_laneStep (e : VEntry) (clr : Bool) (q : Nat → Bool) (w : Wide) (n : Nat) {i : Nat} (hi : i < 256) :
    ((List.range n).foldl (e.laneStep clr q) w).getLsbD i = e.comparedLane clr q w.getLsbD n i := by
  induction n with
  | zero => rfl
  | succ n ih =>
    rw [List.range_succ, List.foldl_append, List.foldl_cons, List.foldl_nil, VEntry.getLsbD_laneStep _ _ _ _ _ hi]
    unfold VEntry.comparedLane at ih ⊢
    by_cases h : i = n
    · subst h
      rw [if_pos rfl, ih, if_pos (Nat.le_refl i), if_neg (Nat.not_succ_le_self i)]
    · rw [if_neg h, ih]
      exact if_congr (by omega) rfl rfl

/-- One lane of a compare: its pair, and the flags so far. -/
def VEntry.compareStep (e : VEntry) (clr : Bool) (p : Nat → Bool × Bool) (v : Nat → Bool × Flags) (acc : Wide × Wide × Flags) (i : Nat) :
    Wide × Wide × Flags :=
  if e.activeLane i then (setLane acc.1 i (p i).1, setLane acc.2.1 i (p i).2, acc.2.2 ||| (v i).2)
  else if clr then (setLane acc.1 i false, setLane acc.2.1 i false, acc.2.2)
  else acc

section Fold

variable {e : VEntry} {clr : Bool} {p : Nat → Bool × Bool} {v : Nat → Bool × Flags} (acc : Wide × Wide × Flags) (is : List Nat)

theorem compareStep_fst : (is.foldl (e.compareStep clr p v) acc).1 = is.foldl (e.laneStep clr fun i => (p i).1) acc.1 := by
  refine (List.foldl_hom Prod.fst fun acc i => ?_).symm
  unfold VEntry.compareStep VEntry.laneStep
  split
  · rfl
  · split <;> rfl

theorem compareStep_snd : (is.foldl (e.compareStep clr p v) acc).2.1 = is.foldl (e.laneStep clr fun i => (p i).2) acc.2.1 := by
  refine (List.foldl_hom (fun acc : Wide × Wide × Flags => acc.2.1) fun acc i => ?_).symm
  unfold VEntry.compareStep VEntry.laneStep
  split
  · rfl
  · split <;> rfl

theorem compareStep_flags : (is.foldl (e.compareStep clr p v) acc).2.2 = (is.filter e.activeLane).foldl (fun f i => f ||| (v i).2) acc.2.2 := by
  induction is generalizing acc with
  | nil => rfl
  | cons i is ih =>
    rw [List.foldl_cons, ih, List.filter_cons]
    unfold VEntry.compareStep
    split
    · rfl
    · split <;> rfl

end Fold

/-- The condition of a lane, with the flags it raises. -/
def State.condLane (s : State) (k : Nat) (e : VEntry) (o : VecCmp) (i : Nat) : Bool × Flags :=
  fpCond o.cond (s.slotVal (storeBase k) e.i.slots.a e.a i) (match o.b with
    | .h _ => s.slotVal (storeBase k) e.i.slots.b e.b i
    | .x _ => if 8 ≤ hFmt e.a then intVal (e.b.truncate 64 : Word).toInt else f32Val (e.b.truncate 32))

section Compare

variable {s : State} {k : Nat} {e : VEntry} {g : Guard} {o : VecCmp}

theorem cmpLane_eq (hi : e.i = .vcmp g o) (i : Nat) : s.cmpLane (storeBase k) e o.cond i = s.condLane k e o i := by
  unfold State.cmpLane State.condLane
  rw [hi]
  cases hb : o.b <;> simp [Instr.slots, asHandle, hb]

/-- The pair of a lane, from the condition and what the pair holds. -/
def State.pairLane (s : State) (k : Nat) (e : VEntry) (o : VecCmp) (i : Nat) : Bool × Bool :=
  pairTrue o.wm (s.condLane k e o i).1 (((s.core k).rvp o.pt).getLsbD i) (((s.core k).rvp o.pf).getLsbD i)

/-- The compare as a fold of its lanes. -/
def State.compared (s : State) (k : Nat) (e : VEntry) (o : VecCmp) : Wide × Wide × Flags :=
  (List.range e.n).foldl (e.compareStep (o.wm == .clr) (s.pairLane k e o) (s.condLane k e o)) ((s.core k).rvp o.pt, (s.core k).rvp o.pf, noFlags)

theorem vecEffect_vcmp (hi : e.i = .vcmp g o) : s.vecEffect k e = (s.lateWrite k e.i.lateWords fun c =>
    (c.wvp o.pt (s.compared k e o).1).wvp o.pf (s.compared k e o).2.1).onCore k fun c => c.raise (s.compared k e o).2.2 := by
  have hfold : s.compared k e o = (List.range e.n).foldl (fun (acc : Wide × Wide × Flags) i =>
      if e.activeLane i then
        let v := s.cmpLane (storeBase k) e o.cond i
        let p := pairTrue o.wm v.1 (((s.core k).rvp o.pt).getLsbD i) (((s.core k).rvp o.pf).getLsbD i)
        (setLane acc.1 i p.1, setLane acc.2.1 i p.2, acc.2.2 ||| v.2)
      else if o.wm = .clr then (setLane acc.1 i false, setLane acc.2.1 i false, acc.2.2)
      else acc) ((s.core k).rvp o.pt, (s.core k).rvp o.pf, noFlags) := by
    refine List.foldl_ext _ _ _ fun acc i _ => ?_
    dsimp only
    rw [cmpLane_eq hi]
    unfold VEntry.compareStep State.pairLane
    refine if_congr Iff.rfl rfl (if_congr (by simp) rfl rfl)
  rw [hfold]
  unfold State.vecEffect State.compareLanes
  rw [hi]

/-- What a compare leaves of its registers, of the flags and of the rest. -/
theorem core_vcmp (hi : e.i = .vcmp g o) : s.Home (s.vecEffect k e) k ∧ ((s.vecEffect k e).core k).x = (s.core k).x ∧
    ((s.vecEffect k e).core k).fpstat = e.active.foldl (fun f i => f ||| (s.condLane k e o i).2.zeroExtend 64) (s.core k).fpstat ∧
    ∀ r, ((s.vecEffect k e).core k).rvp r = if r = o.pf ∧ r ≠ 0 then (s.compared k e o).2.1 else
      if r = o.pt ∧ r ≠ 0 then (s.compared k e o).1 else (s.core k).rvp r := by
  let f (c : Core) : Core := (c.wvp o.pt (s.compared k e o).1).wvp o.pf (s.compared k e o).2.1
  have hrest (c : Core) : (f c).h = c.h ∧ (f c).x = c.x ∧ (f c).fpstat = c.fpstat := by
    obtain ⟨h1, x1, p1⟩ := c.wvp_rest o.pt (s.compared k e o).1
    obtain ⟨h2, x2, p2⟩ := (c.wvp o.pt (s.compared k e o).1).wvp_rest o.pf (s.compared k e o).2.1
    exact ⟨h2.trans h1, x2.trans x1, p2.trans p1⟩
  obtain ⟨hmem, hfull, hh⟩ := s.home_lateWrite k e.i.lateWords fun c => (hrest c).1
  obtain ⟨c, hc, hk⟩ := s.core_lateWrite k e.i.lateWords f
  rw [vecEffect_vcmp hi]
  refine ⟨⟨hmem, hfull, ?_⟩, ?_, ?_, fun r => ?_⟩
  · rw [State.core_onCore_same]
    exact hh
  · rw [State.core_onCore_same, hk]
    exact (hrest c).2.1.trans (Core.field_of_still hc Core.x)
  · rw [State.core_onCore_same, hk]
    have hfp : (f c).fpstat = (s.core k).fpstat := (hrest c).2.2.trans (Core.field_of_still hc Core.fpstat)
    refine (congrArg (· ||| (s.compared k e o).2.2.zeroExtend 64) hfp).trans ?_
    have hflags : (s.compared k e o).2.2 = e.active.foldl (fun f i => f ||| (s.condLane k e o i).2) noFlags := compareStep_flags _ _
    rw [hflags, foldl_raise (s.condLane k e o), show noFlags.zeroExtend 64 = 0#64 from rfl, BitVec.or_zero]
  · rw [State.core_onCore_same, hk]
    refine (Core.rvp_wvp _ _ _ _).trans (if_congr Iff.rfl rfl ?_)
    rw [Core.rvp_wvp]
    exact if_congr Iff.rfl rfl (Core.field_of_still hc fun d : Core => d.rvp r)

/-- The lanes of the pair, by what the mode makes of them (R100). -/
theorem lanes_vcmp (hi : e.i = .vcmp g o) (r : PReg) {i : Nat} (h : i < 256) : (((s.vecEffect k e).core k).rvp r).getLsbD i =
    if r = 0 then ((s.core k).rvp r).getLsbD i
    else if r = o.pf then e.comparedLane (o.wm == .clr) (fun i => match o.wm with
      | .set | .clr => !(s.condLane k e o i).1
      | .and => ((s.core k).rvp r).getLsbD i || !(s.condLane k e o i).1
      | .or => ((s.core k).rvp r).getLsbD i && !(s.condLane k e o i).1) ((s.core k).rvp r).getLsbD e.n i
    else if r = o.pt then e.comparedLane (o.wm == .clr) (fun i => match o.wm with
      | .set | .clr => (s.condLane k e o i).1
      | .and => ((s.core k).rvp r).getLsbD i && (s.condLane k e o i).1
      | .or => ((s.core k).rvp r).getLsbD i || (s.condLane k e o i).1) ((s.core k).rvp r).getLsbD e.n i
    else ((s.core k).rvp r).getLsbD i := by
  obtain ⟨-, -, -, hrvp⟩ := core_vcmp (s := s) (k := k) hi
  rw [hrvp r]
  by_cases h0 : r = 0
  · rw [if_pos h0, if_neg fun h => h.2 h0, if_neg fun h => h.2 h0]
  · rw [if_neg h0]
    by_cases hf : r = o.pf
    · subst hf
      rw [if_pos ⟨rfl, h0⟩, if_pos rfl, State.compared, compareStep_snd, VEntry.getLsbD_foldl_laneStep _ _ _ _ _ h]
      unfold State.pairLane
      cases o.wm <;> rfl
    · rw [if_neg fun h => hf h.1, if_neg hf]
      by_cases ht : r = o.pt
      · subst ht
        rw [if_pos ⟨rfl, h0⟩, if_pos rfl, State.compared, compareStep_fst, VEntry.getLsbD_foldl_laneStep _ _ _ _ _ h]
        unfold State.pairLane
        cases o.wm <;> rfl
      · rw [if_neg fun h => ht h.1, if_neg ht]

end Compare

end Machine

/-! ## The statements -/

/-- Settles O46: an instruction that writes a handle maps its active lanes, whose elements stand apart, and the others write a register or
a predicate late. -/
theorem laneArithmetic : Obligations.LaneArithmetic := by
  unfold Obligations.LaneArithmetic
  intro s k e g hc
  dsimp only
  refine ⟨fun o hi => lanes_vadd hc hi, fun o hi => lanes_vsub hc hi, fun o hi => lanes_vmul hc hi, fun o hi => lanes_vfma hc hi,
    fun o m hi => lanes_minmax hc hi, fun o hi => lanes_vabs hc hi, fun o hi => lanes_vneg hc hi, fun o hi => lanes_vexp2 hc hi,
    fun o hi => lanes_vlog2 hc hi, fun o hi => lanes_vrcp hc hi, fun o hi => lanes_vrsq hc hi, fun o hi => lanes_vtanh hc hi,
    fun o hi => lanes_vcvt hc hi, fun o hi hcalc => lanes_vquant hc hi hcalc, fun o hi hcalc hgeom => ⟨?quant, ?full, ?byte⟩,
    fun o hi => lanes_vsel hc hi, fun o hi => lanes_vperm hc hi, fun o hi => lanes_vbcast hc hi, fun o hi => lanes_vmov hc hi,
    fun o hi => ⟨writes_vfill hc hi, full_vfill hc hi⟩, fun d hi => full_vempty hc hi, fun o hi => scalar_vred hi,
    fun o hi => scalar_vamax hi, fun o hi => ?cmp, fun o hi => predicate_vplog hi, fun o hi => scalar_vpcnt hi,
    fun o hi => scalar_vpfirst hi, fun o hi => predicate_vpmovFromX hi, fun o hi => scalar_vpmovToX hi⟩
  case quant => exact lanes_vquant_calc hc hi hcalc hgeom
  case full => exact full_vquant_calc hi hcalc
  case byte => exact fun i hact hout => scale_vquant_calc hc hi hcalc hact hout
  case cmp =>
    obtain ⟨hhome, hx, hfp, -⟩ := core_vcmp (s := s) (k := k) hi
    exact ⟨hhome, hx, hfp, fun r i h => lanes_vcmp hi r h⟩

end Sys2Proof
